-- ==== Sys2Proof/Word.lean ====
section
/-!
DEFINITION. Word types and the two shapes of plain data the whole model is built of: words of fixed
width, and sparse tables keyed by a number.
-/
namespace Sys2Proof

/-- A byte of memory or of a message. -/
abbrev Byte := BitVec 8
/-- A 16-bit word (completion statuses, narrow formats). -/
abbrev W16 := BitVec 16
/-- A 32-bit word (vector lanes, FP32 and INT32 elements). -/
abbrev W32 := BitVec 32
/-- A 64-bit word (registers, scalar operands, binary64). -/
abbrev W64 := BitVec 64

/-- A sparse table: (key, value) pairs, keys strictly rising (every update keeps that order). -/
abbrev Map (α : Type) := List (Nat × α)

end Sys2Proof
end

