-- ==== Sys2Proof/Syntax.lean ====
section
/-!
DEFINITION. The commands the block takes, with their operands, as plain data. A command is a write or
a read of one of the module's registers or objects, a packet, a Camlis message, an event on a pin, a
fibre or a sensor, the issue of one crew instruction, or an instant at which an engine of the module
acts. `now` is the Pace time in ns at which a timed command happens (log 9).
-/
namespace Sys2Proof

/-- What issues a memory transaction (R53, R58, R386, Table 11.6). -/
inductive IssKind where
  | core | crew | array | tld | copy | ue | bucket | headframe | cmdproc | msgRx | camlis | sched | remote | sealing | trace
deriving DecidableEq, Repr

/-- The issuer of a transaction: its kind, its unit (core, cluster, copy engine 8t + e, UE, tower,
port) and the partition the access is made for, where there is one (R482). -/
structure Issuer where
  kind : IssKind
  unit : Nat
  part : Option Nat := none
deriving DecidableEq, Repr

/-- Kind of a memory transaction. -/
inductive XKind where
  | load | store | flagStore | fetch
  | atom (op : Nat) (ret : Bool)
deriving DecidableEq, Repr

/-- A module-local memory transaction: `data` holds the store's bytes, or an atomic's operand
(CAS: compare value, then new value); `poison` is the data's poison tag (R82, R167). -/
structure Xact where
  tag : Nat
  iss : Issuer
  kind : XKind
  addr : Nat
  size : Nat
  data : List Byte := []
  poison : Bool := false
deriving DecidableEq, Repr

/-- An accumulate-write (R62): one 128 B line of 32 elements and a mask. `entry` names the matrix
entry of cluster `iss.unit` that sent it, where one did; `tag` its completion, where another engine sent it. -/
structure AccWrite where
  tag : Nat := 0
  iss : Issuer
  entry : Nat := 0
  addr : Nat
  int : Bool := false
  mask : W32
  data : List W32
  poison : Bool := false
deriving DecidableEq, Repr

/-- A write of an object (or, with `reg`, of the register that acts as that object) that has a row of
its own: the session, the request, and the value's bytes (R473). -/
structure ObjWrite where
  sid : Nat
  reqId : Nat := 0
  val : List Byte
  reg : Bool := false
deriving DecidableEq, Repr

/-- A Camlis message of Table 15.3; its TYPE is the command's. -/
structure CamMsg where
  version : Nat := 1
  reqId : Nat
  index : Nat := 0
  sub : Nat := 0
  flags : Nat := 0
  offset : Nat := 0
  length : Nat
  payload : List Byte := []
deriving DecidableEq, Repr

/-- What a firmware processor writes to its tower's log (Table 13.13): severity, event code, arguments. -/
structure FwNote where
  sev : Nat
  code : Nat
  args : List W64 := []
deriving DecidableEq, Repr

/-- A Denyan packet: the header fields of Table 11.4, the payload and the ECRC it arrived with.
`poison` tells that the data carries a poison tag (R82, R167): all of it, or the payload bytes that `pz` lists. -/
structure Packet where
  cls : Nat
  rsp : Bool := false
  type : Nat
  dst : Nat
  src : Nat
  engine : Nat
  seq : Nat
  offset : Nat := 0
  len : Nat := 0
  aop : Nat := 0
  flag : Bool := false
  scope : Nat := 0
  ecn : Bool := false
  ece : Bool := false
  nocomb : Bool := false
  retry : Nat := 0
  hops : Nat := 8
  jkey : Nat := 0
  aux : Nat := 0
  birth : Nat := 0
  status : Nat := 0
  payload : List Byte := []
  poison : Bool := false
  pz : List Nat := []
  ecrc : Nat := 0
deriving DecidableEq, Repr

/-- What a link frame holds beside its link sequence number and the asking for a replay (R319, R330, R332, R368): the next number
the far end expects, the flits it has freed of each virtual channel since bring-up, and the packet: header word 0, the bytes that follow it (ciphertext where the link is encrypted; empty where the frame holds no packet), and
the tag. `poison` and `pz` are the tags of the packet's data. -/
structure LinkFrame where
  ack : Nat
  freed : List Nat := []
  word0 : Nat := 0
  body : List Byte := []
  tag : List Byte := []
  poison : Bool := false
  pz : List Nat := []
deriving DecidableEq, Repr

/-- A lane of a shaft of a joint direction that boot training finds failed. -/
structure LaneRef where
  joint : Nat
  shaft : Nat
  lane : Nat
deriving DecidableEq, Repr

/-- What the far end says in bring-up (Table 11.2, 33 ms), and the wavelengths that passed (R322). -/
structure PeerInfo where
  node : Nat
  port : Nat
  tx : BitVec 8
  rx : BitVec 8
  enc : Bool
deriving DecidableEq, Repr

/-- Content of a Pace packet with the two measurements of the exchange (R438). -/
structure PaceMsg where
  locked : Bool
  stratum : Nat
  offset : Int
  delay : Nat
deriving DecidableEq, Repr

/-- A contribution to, or the result of, a job reduction (R302): values are binary64 bits. -/
structure RedVal where
  veto : Nat
  norm : W64
  layers : List W64
  vec : List W64
  mismatch : Bool := false
deriving DecidableEq, Repr

/-- What one power measurement reads (R450): input power over 2 ms, 100 ms and 1 ms, per partition
over 10 ms, and each rail, in W. -/
structure PowerReading where
  peakW : Nat
  avgW : Nat
  ceilW : Nat
  parts : List Nat
  rails : List Nat := []
deriving DecidableEq, Repr

/-- One firmware image of a bundle (R497): processor kind 0 SEC0, 1 TWC, 2 LNC, 3 MTC, 4 UEC. -/
structure Image where
  kind : Nat
  version : Nat
  svn : Nat
  key : List Byte
  body : List Byte
  sig : List Byte
deriving DecidableEq, Repr

/-- A firmware bundle (R519). -/
structure Bundle where
  version : Nat
  minRunning : Nat
  images : List Image
deriving DecidableEq, Repr

/-- A frame on the management port that is neither PTP nor Camlis (R457); `advert` is a router advertisement with the address
that SLAAC forms from it. -/
inductive MgmtFrame where
  | arp | neighbour | echo (body : List Byte) | dhcp (addr : Nat) | advert (addr : Nat) | other
deriving DecidableEq, Repr

/-- The commands of the block: one constructor per row of spec/opcode_table.json, in its order. -/
inductive Instr where
  /-- `INPUT_IN_RANGE` (R552). -/
  | inputInRange (mated : Bool) (mv : Nat)
  /-- `RAILS_GOOD` (R563). -/
  | railsGood (refClk csLow : Bool)
  /-- `REF_CLK_PRESENT` (R564). -/
  | refClkPresent (csLow : Bool)
  /-- `INPUT_LOSS` (R553). -/
  | inputLoss (mv ns : Nat)
  /-- `RESET_N_ASSERT` (R509). -/
  | resetNAssert (ns : Nat)
  /-- `RESET_N_RELEASE` (R564). -/
  | resetNRelease (refClk csLow : Bool)
  /-- `FLASH_CS_RELEASE` (R558). -/
  | flashCsRelease (us : Nat)
  /-- `MODULE_RESET` (R509). -/
  | moduleReset (w : ObjWrite)
  /-- `BOOT_SEC0_VERIFY` (R511). -/
  | bootSec0Verify (us : Nat) (ok : Bool) (code : Nat)
  /-- `BOOT_FW_IMAGES` (R511). -/
  | bootFwImages (us : Nat) (ok : Bool) (code : Nat)
  /-- `BOOT_CONFIG_LOAD` (R472). -/
  | bootConfigLoad (us : Nat)
  /-- `BOOT_BRIDGE_TRAIN` (R511). -/
  | bootBridgeTrain (us : Nat) (ok : Bool) (code : Nat)
  /-- `BOOT_SHAFT_TRAIN` (R511). -/
  | bootShaftTrain (t us : Nat) (ok : Bool) (code : Nat) (failed : List LaneRef)
  /-- `BOOT_STACK_TRAIN` (R511). -/
  | bootStackTrain (st us : Nat) (ok : Bool) (code : Nat)
  /-- `BOOT_FAST_TIER_BUILD` (R511). -/
  | bootFastTierBuild (us : Nat) (ok : Bool) (code : Nat)
  /-- `BOOT_UE_START` (R511). -/
  | bootUeStart (n us : Nat) (ok : Bool) (code : Nat)
  /-- `BOOT_DEEP_TIER_ZERO` (R511). -/
  | bootDeepTierZero (us : Nat) (ok : Bool) (code : Nat)
  /-- `BOOT_CLUSTER_TEST` (R511). -/
  | bootClusterTest (c us : Nat) (ok : Bool) (code : Nat)
  /-- `BOOT_PORT_BRINGUP` (R511). -/
  | bootPortBringup (p us : Nat) (ok : Bool) (code : Nat) (peer : Option PeerInfo)
  /-- `BOOT_MGMT_PORT` (R511). -/
  | bootMgmtPort (us : Nat) (ok : Bool) (code : Nat)
  /-- `BOOT_MEASUREMENTS_CLOSE` (R511). -/
  | bootMeasurementsClose (us : Nat) (ok : Bool) (code : Nat)
  /-- `BOOT_PAYLOAD_START` (R511). -/
  | bootPayloadStart (us : Nat) (ok : Bool) (code : Nat)
  /-- `FW_RESTART` (R425). -/
  | fwRestart (w : ObjWrite)
  /-- `FW_WATCHDOG_EXPIRY` (R427). -/
  | fwWatchdogExpiry (p now : Nat)
  /-- `FW_PROCESSOR_FAULT` (R427). -/
  | fwProcessorFault (p now : Nat)
  /-- `FW_RESTART_ACTION_TIMEOUT` (R426). -/
  | fwRestartActionTimeout (p now : Nat)
  /-- `FW_RESTART_COMPLETE` (R425); `notes` is what the processor writes to the firmware log (R428). -/
  | fwRestartComplete (p now : Nat) (ok : Bool) (notes : List FwNote)
  /-- `PACE_TOWER_COMPARE` (R22). -/
  | paceTowerCompare (now : Nat) (d1 d2 d3 : Int)
  /-- `SHAFT_FRAME` (R29): a new frame of a 128 B line with its payload, or the replay of the oldest one; `flips` are the bits
  that arrive wrong, the 32 framing bits after the payload's; `mended` that a replay can deliver good data (R83). -/
  | shaftFrame (t j sh : Nat) (new : Option (Nat × List Byte)) (flips : List Nat) (mended : Bool)
  /-- `LANE_LOSS_OF_SIGNAL` (R34). -/
  | laneLossOfSignal (t j sh lane : Nat)
  /-- `LANE_ERROR_THRESHOLD` (R34). -/
  | laneErrorThreshold (t j sh lane count : Nat)
  /-- `RECAL_ROUND_START` (R41). -/
  | recalRoundStart (t now : Nat)
  /-- `RECAL_NOW` (R41). -/
  | recalNow (w : ObjWrite)
  /-- `SHAFT_RECAL_DONE` (R41). -/
  | shaftRecalDone (t now : Nat) (healed : List Nat)
  /-- `LEVEL_RESTORE` (R42). -/
  | levelRestore (w : ObjWrite)
  /-- `LEVEL_RESET` (R45). -/
  | levelReset (w : ObjWrite)
  /-- `LEVEL_RESET_DRAIN_DONE` (R47). -/
  | levelResetDrainDone (t l : Nat)
  /-- `LEVEL_RESET_RELEASE` (R47). -/
  | levelResetRelease (t l : Nat)
  /-- `LEVEL_READY` (R47). -/
  | levelReady (t l : Nat)
  /-- `TOWER_RESET` (R48). -/
  | towerReset (w : ObjWrite)
  /-- `TOWER_RESET_WRITEBACK_DONE` (R49). -/
  | towerResetWritebackDone (t : Nat)
  /-- `TOWER_PLL_LOCKED` (R49). -/
  | towerPllLocked (t : Nat)
  /-- `TOWER_JOINTS_TRAINED` (R49). -/
  | towerJointsTrained (t : Nat)
  /-- `TOWER_READY` (R49). -/
  | towerReady (t : Nat)
  /-- `NS_CACHE_WRITEBACK_DONE` (R61). -/
  | nsCacheWritebackDone (t : Nat)
  /-- `NS_WRITEBACK_TIMEOUT` (R61). -/
  | nsWritebackTimeout (t now : Nat)
  /-- `MEMORY_ACCESS` (R54). -/
  | memoryAccess (x : Xact) (errs : List (Nat × Nat))
  /-- `ACCW_REQUEST` (R62). -/
  | accwRequest (a : AccWrite)
  /-- `ACCW_APPLY` (R63). -/
  | accwApply (t i : Nat)
  /-- `NS_SPLIT_CHANGE_DONE` (R60). -/
  | nsSplitChangeDone (t : Nat)
  /-- `NS_FLUSH` (R91). -/
  | nsFlush (w : ObjWrite)
  /-- `STACK_RETRAIN` (R71). -/
  | stackRetrain (w : ObjWrite)
  /-- `STACK_RETRAIN_INTERVAL` (R71). -/
  | stackRetrainInterval (st now : Nat)
  /-- `STACK_TEMP_DELTA` (R71). -/
  | stackTempDelta (st : Nat) (tempC : Int) (now : Nat)
  /-- `STACK_RETRAIN_DONE` (R70). -/
  | stackRetrainDone (st now : Nat) (ok : Bool)
  /-- `MEM_DEVICE_FAILURE` (R76). -/
  | memDeviceFailure (u : Nat)
  /-- `SCRUB_PATROL` (R79); `near` tells that the near store's patrol reads, of a fast-tier address the copy in the cache. -/
  | scrubPatrol (addr : Nat) (errs : List (Nat × Nat)) (newer : Bool) (near : Bool := false)
  /-- `COPY` (R85). -/
  | copyI (e : Nat)
  /-- `TRANSPOSE` (R86). -/
  | transposeI (e : Nat)
  /-- `FILL` (R85). -/
  | fillI (e : Nat)
  /-- `ACCW` (R86). -/
  | accwI (e : Nat)
  /-- `COPY_TRANSFER_DONE` (R88). -/
  | copyTransferDone (e : Nat)
  /-- `CREW_ADMIT` (R96). -/
  | crewAdmit (k c i : Nat)
  /-- `CREW_RELEASE` (R162). -/
  | crewRelease (c k : Nat)
  /-- `NOP` (R164). -/
  | nopI (c k : Nat)
  /-- `EXIT` (R162). -/
  | exitI (c k : Nat)
  /-- `TRAP` (R164). -/
  | trap (c k : Nat)
  /-- `CMODE` (R164). -/
  | cmode (c k : Nat)
  /-- `MSTAT_CLR` (R166). -/
  | mstatClr (c k : Nat)
  /-- `IADD` (R135). -/
  | iadd (c k : Nat)
  /-- `ISUB` (R135). -/
  | isub (c k : Nat)
  /-- `IMUL` (R135). -/
  | imul (c k : Nat)
  /-- `IMULA` (R135). -/
  | imula (c k : Nat)
  /-- `IMIN` (R135). -/
  | imin (c k : Nat)
  /-- `IMAX` (R135). -/
  | imax (c k : Nat)
  /-- `IABS` (R135). -/
  | iabs (c k : Nat)
  /-- `SHL` (R135). -/
  | shl (c k : Nat)
  /-- `SHR` (R135). -/
  | shr (c k : Nat)
  /-- `SAR` (R135). -/
  | sar (c k : Nat)
  /-- `AND` (R135). -/
  | andI (c k : Nat)
  /-- `OR` (R135). -/
  | orI (c k : Nat)
  /-- `XOR` (R135). -/
  | xorI (c k : Nat)
  /-- `NOT` (R135). -/
  | notI (c k : Nat)
  /-- `BCNT` (R135). -/
  | bcnt (c k : Nat)
  /-- `CLZ` (R135). -/
  | clz (c k : Nat)
  /-- `BREV` (R135). -/
  | brev (c k : Nat)
  /-- `BPICK` (R135). -/
  | bpick (c k : Nat)
  /-- `FADD` (R251). -/
  | fadd (c k : Nat)
  /-- `FSUB` (R251). -/
  | fsub (c k : Nat)
  /-- `FMUL` (R251). -/
  | fmul (c k : Nat)
  /-- `FMAC` (R251). -/
  | fmac (c k : Nat)
  /-- `FMIN` (R251). -/
  | fmin (c k : Nat)
  /-- `FMAX` (R251). -/
  | fmax (c k : Nat)
  /-- `FABS` (R251). -/
  | fabs (c k : Nat)
  /-- `FNEG` (R251). -/
  | fneg (c k : Nat)
  /-- `PADD_BF16` (R251). -/
  | paddBf16 (c k : Nat)
  /-- `PADD_F16` (R251). -/
  | paddF16 (c k : Nat)
  /-- `PMUL_BF16` (R251). -/
  | pmulBf16 (c k : Nat)
  /-- `PMUL_F16` (R251). -/
  | pmulF16 (c k : Nat)
  /-- `PFMA_BF16` (R251). -/
  | pfmaBf16 (c k : Nat)
  /-- `PFMA_F16` (R251). -/
  | pfmaF16 (c k : Nat)
  /-- `CVT` (R245). -/
  | cvt (c k : Nat)
  /-- `AMAX` (R250). -/
  | amax (c k : Nat)
  /-- `RCP` (R251). -/
  | rcp (c k : Nat)
  /-- `RSQ` (R251). -/
  | rsq (c k : Nat)
  /-- `EX2` (R251). -/
  | ex2 (c k : Nat)
  /-- `LG2` (R251). -/
  | lg2 (c k : Nat)
  /-- `SIN` (R251). -/
  | sinI (c k : Nat)
  /-- `COS` (R251). -/
  | cosI (c k : Nat)
  /-- `ICMP` (R136). -/
  | icmp (c k : Nat)
  /-- `FCMP` (R136). -/
  | fcmp (c k : Nat)
  /-- `PLOG` (R136). -/
  | plog (c k : Nat)
  /-- `PICK` (R136). -/
  | pick (c k : Nat)
  /-- `MOV` (R135). -/
  | movI (c k : Nat)
  /-- `XLANE_IDX` (R136). -/
  | xlaneIdx (c k : Nat)
  /-- `XLANE_UP` (R136). -/
  | xlaneUp (c k : Nat)
  /-- `XLANE_DN` (R136). -/
  | xlaneDn (c k : Nat)
  /-- `XLANE_XOR` (R136). -/
  | xlaneXor (c k : Nat)
  /-- `LANES_ALL` (R136). -/
  | lanesAll (c k : Nat)
  /-- `LANES_ANY` (R136). -/
  | lanesAny (c k : Nat)
  /-- `LANES_MASK` (R136). -/
  | lanesMask (c k : Nat)
  /-- `VREAD` (R133). -/
  | vread (c k : Nat)
  /-- `SADD` (R135). -/
  | sadd (c k : Nat)
  /-- `SSUB` (R135). -/
  | ssub (c k : Nat)
  /-- `SMUL` (R135). -/
  | smul (c k : Nat)
  /-- `SAND` (R135). -/
  | sand (c k : Nat)
  /-- `SOR` (R135). -/
  | sor (c k : Nat)
  /-- `SXOR` (R135). -/
  | sxor (c k : Nat)
  /-- `SSHL` (R135). -/
  | sshl (c k : Nat)
  /-- `SSHR` (R135). -/
  | sshr (c k : Nat)
  /-- `SMOV` (R135). -/
  | smov (c k : Nat)
  /-- `SCMP` (R136). -/
  | scmp (c k : Nat)
  /-- `LD` (R142). In this and the rows of memory instructions after it `errs` are words read that are found wrong, in the L1 or in
  shared local memory: word address, bits flipped (R111, R115). -/
  | ld (c k : Nat) (errs : List (Nat × Nat))
  /-- `LDS` (R142). -/
  | lds (c k : Nat) (errs : List (Nat × Nat) := [])
  /-- `ST` (R142). -/
  | st (c k : Nat)
  /-- `WAIT` (R146). -/
  | waitI (c k : Nat) (errs : List (Nat × Nat) := [])
  /-- `WAIT_POLL` (R147). -/
  | waitPoll (c k : Nat) (errs : List (Nat × Nat) := [])
  /-- `ATOM_ADD` (R149). -/
  | atomAdd (c k : Nat) (errs : List (Nat × Nat) := [])
  /-- `ATOM_MIN_S` (R149). -/
  | atomMinS (c k : Nat) (errs : List (Nat × Nat) := [])
  /-- `ATOM_MIN_U` (R149). -/
  | atomMinU (c k : Nat) (errs : List (Nat × Nat) := [])
  /-- `ATOM_MAX_S` (R149). -/
  | atomMaxS (c k : Nat) (errs : List (Nat × Nat) := [])
  /-- `ATOM_MAX_U` (R149). -/
  | atomMaxU (c k : Nat) (errs : List (Nat × Nat) := [])
  /-- `ATOM_AND` (R149). -/
  | atomAnd (c k : Nat) (errs : List (Nat × Nat) := [])
  /-- `ATOM_OR` (R149). -/
  | atomOr (c k : Nat) (errs : List (Nat × Nat) := [])
  /-- `ATOM_XOR` (R149). -/
  | atomXor (c k : Nat) (errs : List (Nat × Nat) := [])
  /-- `ATOM_FADD` (R120). -/
  | atomFadd (c k : Nat) (errs : List (Nat × Nat) := [])
  /-- `ATOM_SWAP` (R149). -/
  | atomSwap (c k : Nat) (errs : List (Nat × Nat) := [])
  /-- `ATOM_CAS` (R149). -/
  | atomCas (c k : Nat) (errs : List (Nat × Nat) := [])
  /-- `FENCE` (R381). -/
  | fence (c k : Nat)
  /-- `FENCE_ACQ` (R380). -/
  | fenceAcq (c k : Nat)
  /-- `FENCE_REL` (R379). -/
  | fenceRel (c k : Nat)
  /-- `FENCE_ACQ_RANGE` (R384). -/
  | fenceAcqRange (c k : Nat)
  /-- `TLD` (R155). -/
  | tld (c k : Nat)
  /-- `TLD_COMPLETE` (R154). -/
  | tldComplete (c : Nat) (errs : List (Nat × Nat) := [])
  /-- `DMA_ISSUE` (R158). -/
  | dmaIssue (c k : Nat)
  /-- `MLOAD` (R176). -/
  | mload (c k : Nat)
  /-- `MSTREAM` (R185). -/
  | mstream (c k : Nat)
  /-- `MSTREAM_IX` (R192). -/
  | mstreamIx (c k : Nat)
  /-- `MEPI` (R223). -/
  | mepi (c k : Nat)
  /-- `MZERO` (R214). -/
  | mzero (c k : Nat)
  /-- `MSPILL` (R266). -/
  | mspill (c k : Nat)
  /-- `AWAIT` (R154). -/
  | await (c k : Nat)
  /-- `BRA` (R160). -/
  | bra (c k : Nat)
  /-- `BRX` (R160). -/
  | brx (c k : Nat)
  /-- `CALL` (R160). -/
  | callI (c k : Nat)
  /-- `RET` (R160). -/
  | retI (c k : Nat)
  /-- `BAR_SYNC` (R122). -/
  | barSync (c k : Nat)
  /-- `BAR_ARRIVE` (R122). -/
  | barArrive (c k : Nat)
  /-- `BAR_TIMEOUT` (R124). -/
  | barTimeout (c b now : Nat)
  /-- `MLOAD_COMPLETE` (R178). -/
  | mloadComplete (c e : Nat)
  /-- `STREAM_START` (R180). -/
  | streamStart (c e : Nat)
  /-- `ROW_ENTER` (R201). -/
  | rowEnter (c e : Nat)
  /-- `CURRENT_HOLD_OP` (R204). -/
  | currentHoldOp (c : Nat)
  /-- `HOLD_WINDOW_EXPIRE` (R205). -/
  | holdWindowExpire (c : Nat)
  /-- `OUTPUT_ROW_WRITE` (R211); `errs` is what the store finds wrong in its words: element key, bits flipped (R213). -/
  | outputRowWrite (c e : Nat) (errs : List (Nat × Nat))
  /-- `MZERO_CLEAR` (R214). -/
  | mzeroClear (c e : Nat)
  /-- `MEPI_ROW_READ` (R229); `errs` as at `OUTPUT_ROW_WRITE`. -/
  | mepiRowRead (c e : Nat) (errs : List (Nat × Nat))
  /-- `MEPI_ROW_WRITE` (R227). -/
  | mepiRowWrite (c e : Nat)
  /-- `MEPI_COMPLETE` (R227). -/
  | mepiComplete (c e : Nat)
  /-- `MSPILL_ROW` (R267); `errs` as at `OUTPUT_ROW_WRITE`, in the wide buffer (R262). -/
  | mspillRow (c e : Nat) (errs : List (Nat × Nat))
  /-- `ACCW_ACK` (R182). -/
  | accwAck (c e : Nat)
  /-- `ASY_CLEAR` (R257). -/
  | asyClear (w : ObjWrite) (c : Nat)
  /-- `BUCKET_ARM` (R276). -/
  | bucketArm (b : Nat) (d : List W64)
  /-- `BKT_READY` (R277). -/
  | bktReady (t : Nat) (v : W64)
  /-- `BUCKET_SHIP` (R278). -/
  | bucketShip (b : Nat)
  /-- `BUCKET_SHIPPED` (R278). -/
  | bucketShipped (b : Nat)
  /-- `BUCKET_CONTRIBUTION` (R279). -/
  | bucketContribution (pt : Nat) (p : Packet)
  /-- `BUCKET_LAND` (R280). -/
  | bucketLand (b : Nat)
  /-- `BUCKET_SEND_FAIL` (R281). -/
  | bucketSendFail (b status : Nat)
  /-- `BUCKET_LAND_TIMEOUT` (R282). -/
  | bucketLandTimeout (b now : Nat)
  /-- `STV_OPEN` (R283). -/
  | stvOpen (w : ObjWrite)
  /-- `STV_REBASE` (R283). -/
  | stvRebase (w : ObjWrite)
  /-- `STV_CLOSE` (R286). -/
  | stvClose (w : ObjWrite) (now : Nat)
  /-- `STV_FORCE_FAIL` (R284). -/
  | stvForceFail (w : ObjWrite)
  /-- `STV_VOTE` (R286). -/
  | stvVote (now : Nat)
  /-- `STV_RESULT` (R287). -/
  | stvResult (n : Nat) (result : Bool)
  /-- `STV_TIMEOUT` (R288). -/
  | stvTimeout (now : Nat)
  /-- `STV_ABANDON` (R288). -/
  | stvAbandon (w : ObjWrite)
  /-- `UE_GRAD_READY` (R300). -/
  | ueGradReady (n : Nat) (v : W64)
  /-- `UE_PASS1` (R301). -/
  | uePass1 (n g : Nat)
  /-- `JOB_REDUCTION_RESULT` (R303). -/
  | jobReductionResult (r : RedVal)
  /-- `UE_FACTORED_UPDATE` (R304). -/
  | ueFactoredUpdate (n : Nat)
  /-- `UE_PASS2` (R305). -/
  | uePass2 (n g : Nat)
  /-- `UE_STEP_COMPLETE` (R305). -/
  | ueStepComplete
  /-- `WL_LOSS_OF_SIGNAL` (R320). -/
  | wlLossOfSignal (p wl : Nat) (rx : Bool)
  /-- `LASER_FAULT` (R318). -/
  | laserFault (t wl : Nat)
  /-- `WL_UNCORR_LIMIT_REACHED` (R320). -/
  | wlUncorrLimitReached (p wl count : Nat) (rx : Bool := true)
  /-- `WL_RETRAIN_START` (R320). -/
  | wlRetrainStart (p wl now : Nat)
  /-- `WL_RETRAIN_DONE` (R320). -/
  | wlRetrainDone (p wl : Nat) (ok : Bool)
  /-- `PORT_ACK_TIMEOUT` (R321). -/
  | portAckTimeout (p now : Nat)
  /-- `PORT_ENABLE` (R321). -/
  | portEnable (w : ObjWrite)
  /-- `PORT_RETRAIN` (R373). -/
  | portRetrain (w : ObjWrite)
  /-- `PORT_BRINGUP_START` (R322). -/
  | portBringupStart (p now : Nat)
  /-- `PORT_TRAINING_DONE` (R322). -/
  | portTrainingDone (p now : Nat) (peer : Option PeerInfo)
  /-- `PORT_KEY_EXCHANGE_DONE` (R369). -/
  | portKeyExchangeDone (p now : Nat) (ok : Bool)
  /-- `PORT_BRINGUP_RETRY` (R322). -/
  | portBringupRetry (p now : Nat)
  /-- `PORT_LIGHT_DETECT` (R520). -/
  | portLightDetect (p wls now : Nat)
  /-- `ELSFP_REMOVE` (R520). -/
  | elsfpRemove (k : Nat)
  /-- `ELSFP_INSERT` (R520). -/
  | elsfpInsert (k : Nat) (normal : Bool)
  /-- `LINK_FRAME` (R319): its link sequence number, whether it asks for a replay of what its acknowledgement does not cover, and
how many symbols its codewords' decoding corrected. -/
  | linkFrame (p seq now : Nat) (f : LinkFrame) (fecOk ask : Bool) (fixed : Nat)
  /-- `PACKET_FORWARD` (R326). -/
  | packetForward (p now : Nat) (pkt : Packet)
  /-- `DNY_LD` (R339). -/
  | dnyLd (p now : Nat) (pkt : Packet)
  /-- `DNY_LD_RSP` (R340). -/
  | dnyLdRsp (p now : Nat) (pkt : Packet)
  /-- `DNY_ST` (R341). -/
  | dnySt (p now : Nat) (pkt : Packet)
  /-- `DNY_ST_ACK` (R341). -/
  | dnyStAck (p now : Nat) (pkt : Packet)
  /-- `DNY_ATOM` (R345). -/
  | dnyAtom (p now : Nat) (pkt : Packet)
  /-- `DNY_ATOM_RSP` (R346). -/
  | dnyAtomRsp (p now : Nat) (pkt : Packet)
  /-- `DNY_BWR` (R356). -/
  | dnyBwr (p now : Nat) (pkt : Packet)
  /-- `DNY_BACC` (R356). -/
  | dnyBacc (p now : Nat) (pkt : Packet)
  /-- `DNY_BRD` (R356). -/
  | dnyBrd (p now : Nat) (pkt : Packet)
  /-- `DNY_BRD_RSP` (R361). -/
  | dnyBrdRsp (p now : Nat) (pkt : Packet)
  /-- `DNY_BACK` (R356). -/
  | dnyBack (p now : Nat) (pkt : Packet)
  /-- `DNY_MSG` (R364). -/
  | dnyMsg (p now : Nat) (pkt : Packet) (total : Nat)
  /-- `DNY_MSG_ACK` (R364). -/
  | dnyMsgAck (p now : Nat) (pkt : Packet)
  /-- `DNY_MSG_NAK` (R365). -/
  | dnyMsgNak (p now : Nat) (pkt : Packet)
  /-- `DNY_LINK` (R366). -/
  | dnyLink (p now : Nat) (pkt : Packet)
  /-- `DNY_PACE` (R438). -/
  | dnyPace (p now : Nat) (pkt : Packet) (m : PaceMsg)
  /-- `DNY_VOTE` (R367). -/
  | dnyVote (p now : Nat) (pkt : Packet) (up : Bool) (step : Nat) (vote : Bool)
  /-- `DNY_RED` (R367): a piece of a contribution of `total` bytes. -/
  | dnyRed (p now : Nat) (pkt : Packet) (total : Nat)
  /-- `DNY_RED_RES` (R367): a piece of a result of `total` bytes. -/
  | dnyRedRes (p now : Nat) (pkt : Packet) (total : Nat)
  /-- `DNY_KEYX` (R369). -/
  | dnyKeyx (p now : Nat) (pkt : Packet)
  /-- `LD_TIMEOUT` (R340). -/
  | ldTimeout (i now : Nat)
  /-- `ST_ACK_TIMEOUT` (R341). -/
  | stAckTimeout (i now : Nat)
  /-- `ATOM_RETRY_TIMEOUT` (R346). -/
  | atomRetryTimeout (i now : Nat)
  /-- `BULK_TIMEOUT` (R356). -/
  | bulkTimeout (i now : Nat)
  /-- `MSG_RESEND` (R365). -/
  | msgResend (i now : Nat)
  /-- `MSG_RETRY_EXPIRE` (R365). -/
  | msgRetryExpire (i now : Nat)
  /-- `PATH_CHANGE_RELEASE` (R328). -/
  | pathChangeRelease (i now : Nat)
  /-- `CREDIT_EPOCH` (R331). -/
  | creditEpoch (now : Nat)
  /-- `ATOM_SIDE_QUEUE_RELEASE` (R344). -/
  | atomSideQueueRelease (p now : Nat)
  /-- `HOT_LINE_APPLY` (R352). -/
  | hotLineApply (t line now : Nat)
  /-- `HF_GATHER_TIMEOUT` (R359). -/
  | hfGatherTimeout (t r now : Nat)
  /-- `LINK_REKEY` (R369). -/
  | linkRekey (p now seq : Nat)
  /-- `PACE_PACKET_SEND` (R438). -/
  | pacePacketSend (p now : Nat)
  /-- `CQ_CTRL` (R404). -/
  | cqCtrl (q : Nat) (v : W64)
  /-- `CQ_DOORBELL` (R405). -/
  | cqDoorbell (q : Nat) (v : W64)
  /-- `CMD_NOP` (R406). -/
  | cmdNop (q : Nat)
  /-- `CMD_LAUNCH` (R409). -/
  | cmdLaunch (q : Nat)
  /-- `CMD_COPY` (R407). -/
  | cmdCopy (q : Nat)
  /-- `CMD_WAIT` (R407). -/
  | cmdWait (q : Nat)
  /-- `CMD_WAIT_SATISFIED` (R407). -/
  | cmdWaitSatisfied (q i : Nat)
  /-- `CMD_SIGNAL` (R407). -/
  | cmdSignal (q : Nat)
  /-- `CMD_TIMESTAMP` (R407). -/
  | cmdTimestamp (q now : Nat)
  /-- `KERNEL_START` (R410). -/
  | kernelStart (k now : Nat)
  /-- `KERNEL_END` (R411). -/
  | kernelEnd (k now : Nat)
  /-- `KERNEL_PREEMPT` (R414). -/
  | kernelPreempt (w : ObjWrite)
  /-- `PREEMPTION_POINT_REACHED` (R413). -/
  | preemptionPointReached (k c now : Nat)
  /-- `PREEMPT_SAVE_DONE` (R415). -/
  | preemptSaveDone (k c : Nat)
  /-- `KERNEL_RESTORE` (R416). -/
  | kernelRestore (k : Nat)
  /-- `HB_BEAT` (R417). -/
  | hbBeat (core : Bool) (now : Nat)
  /-- `HB_LAPSE` (R418). -/
  | hbLapse (now : Nat)
  /-- `HB_GRACE_EXPIRE` (R418). -/
  | hbGraceExpire (now : Nat)
  /-- `HB_RESUME` (R422). -/
  | hbResume (w : ObjWrite)
  /-- `HB_DISCARD` (R422). -/
  | hbDiscard (w : ObjWrite) (now : Nat)
  /-- `PTP_MEASUREMENT` (R436). -/
  | ptpMeasurement (now : Nat) (off : Int)
  /-- `PPS_EDGE` (R437). -/
  | ppsEdge (now : Nat)
  /-- `PACE_HOLDOVER_TIMEOUT` (R434). -/
  | paceHoldoverTimeout (now : Nat)
  /-- `PACE_SET_SECONDS` (R437). -/
  | paceSetSeconds (w : ObjWrite)
  /-- `PCS_CTRL` (R443). -/
  | pcsCtrl (e : Nat) (v : W64) (now : Nat)
  /-- `STEP_BEGIN` (R442). -/
  | stepBegin (e now : Nat)
  /-- `BUCKET_WINDOW` (R442). -/
  | bucketWindow (e now : Nat)
  /-- `POWER_RAMP` (R444). -/
  | powerRamp (e now : Nat)
  /-- `CHECKPOINT` (R442). -/
  | checkpoint (e now : Nat)
  /-- `CHECKPOINT_SIGNAL` (R442). -/
  | checkpointSignal (e : Nat)
  /-- `FENCE_EPOCH` (R442). -/
  | fenceEpoch (e now : Nat)
  /-- `FENCE_EPOCH_SIGNAL` (R442). -/
  | fenceEpochSignal (e : Nat)
  /-- `PWR_CEILING` (R444). -/
  | pwrCeiling (w : ObjWrite) (now : Nat)
  /-- `ARITH_POINT` (R446). -/
  | arithPoint (w : ObjWrite)
  /-- `DVFS_CHANGE_DONE` (R447). -/
  | dvfsChangeDone (d : Nat)
  /-- `POWER_MEASURE` (R450). -/
  | powerMeasure (now : Nat) (m : PowerReading)
  /-- `THROTTLE_DIE_POINT` (R451). -/
  | throttleDiePoint (d now : Nat)
  /-- `THROTTLE_RELEASE` (R451). -/
  | throttleRelease (d now : Nat)
  /-- `THROTTLE_HELD_1S` (R451). -/
  | throttleHeld1s (d now : Nat)
  /-- `THERMAL_SAMPLE` (R452): every sensor but the columns' on L3, then those. -/
  | thermalSample (now : Nat) (temps : List Int) (upper : List Int := [])
  /-- `SESSION_HANDSHAKE` (R459). -/
  | sessionHandshake (sid now : Nat) (chain : List Byte) (v6 : Bool := false)
  /-- `MGMT_LINK_DOWN` (R462). -/
  | mgmtLinkDown
  /-- `SESSION_IDLE_TIMEOUT` (R462). -/
  | sessionIdleTimeout (sid now : Nat)
  /-- `GET` (R470). -/
  | getI (sid now : Nat) (m : CamMsg)
  /-- `SET` (R473). -/
  | setI (sid now : Nat) (m : CamMsg)
  /-- `EXPERT_OPEN` (R464). -/
  | expertOpen (sid now : Nat) (m : CamMsg)
  /-- `EXPERT_CLOSE` (R464). -/
  | expertClose (sid now : Nat) (m : CamMsg)
  /-- `QUICKSET` (R478). -/
  | quickset (sid now : Nat) (m : CamMsg)
  /-- `QUICKSET_CANCEL` (R479). -/
  | quicksetCancel (sid now : Nat) (m : CamMsg)
  /-- `SHADOW_DISCARD` (R477). -/
  | shadowDiscard (sid now : Nat) (m : CamMsg)
  /-- `SAVE` (R472). -/
  | saveI (sid now : Nat) (m : CamMsg)
  /-- `KEEPALIVE` (R465). -/
  | keepalive (sid now : Nat) (m : CamMsg)
  /-- `CLOSE` (R462). -/
  | closeI (sid now : Nat) (m : CamMsg)
  /-- `QUICKSET_INSTANT` (R480). -/
  | quicksetInstant (now : Nat)
  /-- `QUICKSET_COMPLETE` (R480). -/
  | quicksetComplete (now : Nat)
  /-- `BLOB_SNAPSHOT_EXPIRE` (R470). -/
  | blobSnapshotExpire (sid now : Nat)
  /-- `CML_LOCAL_BASE` (R458). -/
  | cmlLocalBase (core : Bool) (v : W64)
  /-- `CML_LOCAL_DOORBELL` (R458). -/
  | cmlLocalDoorbell (core : Bool) (v : W64) (now : Nat)
  /-- `REGISTER_WRITE` (R475). -/
  | registerWrite (iss : Issuer) (addr size : Nat) (v : W64)
  /-- `DIAG_DATA` (R489). -/
  | diagData (w : ObjWrite)
  /-- `PART_ENABLE` (R481). -/
  | partEnable (p : Nat) (w : ObjWrite)
  /-- `GET_VERSION` (R495). -/
  | getVersion (sid : Nat) (body : List Byte)
  /-- `GET_CAPABILITIES` (R495). -/
  | getCapabilities (sid : Nat) (body : List Byte)
  /-- `NEGOTIATE_ALGORITHMS` (R495). -/
  | negotiateAlgorithms (sid : Nat) (body : List Byte)
  /-- `GET_DIGESTS` (R495). -/
  | getDigests (sid : Nat) (body : List Byte)
  /-- `GET_CERTIFICATE` (R492). -/
  | getCertificate (sid : Nat) (body : List Byte)
  /-- `CHALLENGE` (R495). -/
  | challenge (sid : Nat) (body : List Byte)
  /-- `GET_MEASUREMENTS` (R496). -/
  | getMeasurements (sid : Nat) (body : List Byte)
  /-- `SPDM_UNSUPPORTED_REQUEST` (R495). -/
  | spdmUnsupportedRequest (sid code : Nat)
  /-- `MR_EXTEND` (R493). -/
  | mrExtend (w : ObjWrite)
  /-- `KEY_IMPORT` (R501). -/
  | keyImport (w : ObjWrite)
  /-- `KEY_ERASE` (R502). -/
  | keyErase (w : ObjWrite)
  /-- `SEALED_RECORD` (R504). -/
  | sealedRecord (pt now : Nat) (p : Packet)
  /-- `SIG_CHANNEL_ENABLE` (R507). -/
  | sigChannelEnable (ch : Nat) (v : W64)
  /-- `SEAL_JOB_START` (R506). -/
  | sealJobStart (ch : Nat) (v : W64)
  /-- `SEAL_JOB_COMPLETE` (R506). -/
  | sealJobComplete (ch : Nat)
  /-- `IMAGE_STAGE` (R519). -/
  | imageStage (w : ObjWrite) (b : Bundle)
  /-- `ACTIVE_SLOT` (R519). -/
  | activeSlot (w : ObjWrite)
  /-- `GOLDEN_REPLACE` (R508). -/
  | goldenReplace (w : ObjWrite)
  /-- `ROLLBACK_COMMIT` (R498). -/
  | rollbackCommit (w : ObjWrite)
  /-- `SIGNKEY_REVOKE` (R499). -/
  | signkeyRevoke (w : ObjWrite)
  /-- `CC_PAYLOAD` (R518). -/
  | ccPayload (w : ObjWrite)
  /-- `RETIRED_UNITS` (R521). -/
  | retiredUnits (w : ObjWrite)
  /-- `PARTITION_CONTAIN` (R536). -/
  | partitionContain (p now : Nat)
  /-- `FATAL_ERROR` (R537). -/
  | fatalError (cause now : Nat)
  /-- `FATAL_RECORD_PROGRAMMED` (R537). -/
  | fatalRecordProgrammed
  /-- `ERR_HOUR_ROLL` (R534). -/
  | errHourRoll (secs : Nat)
  /-- `PIT_RECORD_WRITE` (R545). -/
  | pitRecordWrite (now : Nat)
  /-- `PIT_FLASH_CLEAR` (R547). -/
  | pitFlashClear (w : ObjWrite)
  /-- `OP_SECONDS_SAVE` (R543). -/
  | opSecondsSave (secs : Nat)
  /-- `ILLEGAL_INSTR` (R128). -/
  | illegalInstr (c k : Nat)
  /-- `CMD_INVALID_OPCODE` (R405). -/
  | cmdInvalidOpcode (q : Nat)
  /-- `SEND_QUEUE_DOORBELL` (R363). -/
  | sendQueueDoorbell (sq node rq now : Nat) (body : List Byte)
  /-- `MGMT_LINK_UP` (R436). -/
  | mgmtLinkUp
  /-- `MGMT_PORT_FRAME` (R457). -/
  | mgmtPortFrame (f : MgmtFrame)
  /-- `BSB_STATUS_REFRESH` (R559). -/
  | bsbStatusRefresh (inlet outlet inputW : Nat)
deriving DecidableEq, Repr

end Sys2Proof
end

