-- ==== Sys2Proof/Decode.lean ====
section
/-!
DEFINITION. The command a word spells. No row of spec/opcode_table.json gives its command any bits: the
block's commands are events, register and object writes and packets, and the 64-bit words of the crew
instruction set reach the block through instruction memory and `Machine/Crew.lean`, which reads their
fields (Table 5.1). So no word spells a command.
-/
namespace Sys2Proof

/-- The command a word of `nbits` bits spells by the table's bits: none, since no row has bits. -/
def decodeTableWord (_nbits _w : Nat) : Option Instr := none

end Sys2Proof
end

