-- ==== Sys2Proof/Machine/Bits.lean ====
section
/-!
DEFINITION. Bit fields, byte order and sparse-table operations shared by every meaning. Multi-byte
values are little-endian (R465 says it of messages; R565 and the register maps agree).
-/
namespace Sys2Proof.Machine

/-- Field `[hi:lo]` of a number. -/
def fld (w hi lo : Nat) : Nat := (w >>> lo) % 2 ^ (hi + 1 - lo)

/-- Bit `i` of a number. -/
def bit (w i : Nat) : Bool := w.testBit i

/-- `w` with field `[hi:lo]` replaced by the low bits of `v`. -/
def setFld (w hi lo v : Nat) : Nat :=
  w - (fld w hi lo) * 2 ^ lo + (v % 2 ^ (hi + 1 - lo)) * 2 ^ lo

/-- A Bool as a bit. -/
def b2n (b : Bool) : Nat := if b then 1 else 0

/-- Two's complement reading of an `n`-bit number. -/
def sext (n v : Nat) : Int := if v % 2 ^ n < 2 ^ (n - 1) then (v % 2 ^ n : Nat) else ((v % 2 ^ n : Nat) : Int) - 2 ^ n

/-- An integer narrowed to `n` bits, two's complement. -/
def wrap (n : Nat) (v : Int) : Nat := (v % (2 ^ n : Int)).toNat

/-- Unsigned ceiling division. -/
def cdiv (a b : Nat) : Nat := (a + b - 1) / b

/-- Little-endian value of bytes. -/
def leNat : List Byte → Nat
  | [] => 0
  | b :: bs => b.toNat + 256 * leNat bs

/-- The low `n` bytes of `v`, least significant first. -/
def leBytes : Nat → Nat → List Byte
  | 0, _ => []
  | n + 1, v => BitVec.ofNat 8 (v % 256) :: leBytes n (v / 256)

/-- ASCII text as bytes. -/
def strBytes (t : String) : List Byte := t.toList.map fun c => BitVec.ofNat 8 c.toNat

/-- The value at a key, where the table lists one. -/
def mfind {α : Type} : Map α → Nat → Option α
  | [], _ => none
  | (j, v) :: m, k => if j = k then some v else mfind m k

/-- The value at a key, or `d` where the table lists none. -/
def mget {α : Type} (m : Map α) (k : Nat) (d : α) : α := (mfind m k).getD d

/-- The table with `v` at key `k`; keys stay strictly rising. -/
def mset {α : Type} : Map α → Nat → α → Map α
  | [], k, v => [(k, v)]
  | (j, w) :: m, k, v =>
    if j = k then (k, v) :: m else if k < j then (k, v) :: (j, w) :: m else (j, w) :: mset m k v

/-- The table without key `k`. -/
def mdel {α : Type} : Map α → Nat → Map α
  | [], _ => []
  | (j, w) :: m, k => if j = k then mdel m k else (j, w) :: mdel m k

/-- The table with the value at `k` (or `d`) changed by `f`. -/
def mupd {α : Type} (m : Map α) (k : Nat) (d : α) (f : α → α) : Map α := mset m k (f (mget m k d))

/-- Replace element `i` of a list. -/
def lset {α : Type} : List α → Nat → α → List α
  | [], _, _ => []
  | _ :: xs, 0, v => v :: xs
  | x :: xs, n + 1, v => x :: lset xs n v

/-- A number list with `a` added once. -/
def addOnce (l : List Nat) (a : Nat) : List Nat := if l.contains a then l else l ++ [a]

/-- The lanes of a 32-bit mask, ascending. -/
def lanesOf (m : W32) : List Nat := (List.range 32).filter fun i => m.getLsbD i

/-- The mask holding exactly the given lanes. -/
def maskOf (l : List Nat) : W32 := l.foldl (fun m i => m ||| (1#32 <<< i)) 0#32

/-- The least `x` among a list by a key, first on ties. -/
def minBy {α : Type} (f : α → Nat) : List α → Option α
  | [] => none
  | x :: xs =>
    match minBy f xs with
    | none => some x
    | some y => if f y < f x then some y else some x

end Sys2Proof.Machine
end

