-- ==== Sys2Proof/Machine/Flags.lean ====
section
/-!
DEFINITION. Numbers (chapter 8): every format of Table 8.1, exact values, the one conversion of R241 with
what it counts, block scales, and the arithmetic of R63, R120, R211 and R251. The module has no flags; what
a conversion counts (saturations, zeros, non-finite values) takes their place.
-/
namespace Sys2Proof.Machine
open Sys2Proof

/-- An exact value: (−1)^neg × m × 2^e, an infinity, or NaN. -/
inductive Num where
  | nan
  | inf (neg : Bool)
  | fin (neg : Bool) (m : Nat) (e : Int)
deriving DecidableEq, Repr

/-- A floating-point format (Table 8.1): exponent and mantissa bits, bias, code of the largest finite
magnitude, code of infinity where it has one, and the canonical NaN where it has one. -/
structure Fmt where
  eb : Nat
  mb : Nat
  bias : Nat
  maxFin : Nat
  infCode : Option Nat
  nanCode : Option Nat
deriving DecidableEq, Repr

def f64 : Fmt := ⟨11, 52, 1023, 0x7FEFFFFFFFFFFFFF, some 0x7FF0000000000000, some 0x7FF8000000000000⟩
def f32 : Fmt := ⟨8, 23, 127, 0x7F7FFFFF, some 0x7F800000, some 0x7FC00000⟩
def f16 : Fmt := ⟨5, 10, 15, 0x7BFF, some 0x7C00, some 0x7E00⟩
def bf16 : Fmt := ⟨8, 7, 127, 0x7F7F, some 0x7F80, some 0x7FC0⟩
def e4m3 : Fmt := ⟨4, 3, 7, 0x7E, none, some 0x7F⟩
def e5m2 : Fmt := ⟨5, 2, 15, 0x7B, some 0x7C, some 0x7E⟩
def e3m2 : Fmt := ⟨3, 2, 3, 0x1F, none, none⟩
def e2m3 : Fmt := ⟨2, 3, 1, 0x1F, none, none⟩
def e2m1 : Fmt := ⟨2, 1, 1, 0x7, none, none⟩

/-- Width of a format's codes in bits. -/
def Fmt.width (f : Fmt) : Nat := f.eb + f.mb + 1

/-- The value of a code (R235, R237). -/
def Fmt.decode (f : Fmt) (code : Nat) : Num :=
  let mag := code % 2 ^ (f.eb + f.mb)
  let neg := code.testBit (f.eb + f.mb)
  if f.maxFin < mag then if f.infCode = some mag then .inf neg else .nan
  else
    let ex := mag / 2 ^ f.mb
    let mn := mag % 2 ^ f.mb
    if ex = 0 then .fin neg mn (1 - (f.bias : Int) - f.mb)
    else .fin neg (2 ^ f.mb + mn) ((ex : Int) - f.bias - f.mb)

/-- Round-to-nearest-even of m / 2^k. -/
def rne (m k : Nat) : Nat :=
  if k = 0 then m else
  let q := m / 2 ^ k
  let r := m % 2 ^ k
  let half := 2 ^ (k - 1)
  if half < r then q + 1 else if r = half then q + q % 2 else q

/-- Code of the magnitude m × 2^e rounded to the format's precision as though its exponent range had no
upper limit (R241 step 2): codes rise with magnitude, and one above `maxFin` is out of range. -/
def Fmt.roundMag (f : Fmt) (m : Nat) (e : Int) : Nat :=
  if m = 0 then 0 else
  let emin : Int := 1 - (f.bias : Int) - f.mb
  let len : Int := (Nat.log2 m : Int) + 1
  let q : Int := max (e + len - (f.mb + 1)) emin
  let r := if q ≤ e then m * 2 ^ (e - q).toNat else rne m (q - e).toNat
  let n := r * 2 ^ (q - emin).toNat
  if n < 2 ^ f.mb then n
  else let l := Nat.log2 n; (l - f.mb + 1) * 2 ^ f.mb + (n / 2 ^ (l - f.mb) - 2 ^ f.mb)

/-- A converted code and what the conversion counts (R241, R242). -/
structure Conv where
  code : Nat
  sat : Bool := false
  zero : Bool := false
  nonfin : Bool := false
deriving DecidableEq, Repr

/-- Put the sign bit of a format on a magnitude code. -/
def Fmt.sign (f : Fmt) (neg : Bool) (mag : Nat) : Nat := b2n neg * 2 ^ (f.eb + f.mb) + mag

/-- *convert*(v, F) for a floating-point format (R241, Table 8.2). -/
def Fmt.convert (f : Fmt) : Num → Conv
  | .nan => { code := f.nanCode.getD f.maxFin, nonfin := true }
  | .inf neg =>
    match f.infCode, f.nanCode with
    | some c, _ => { code := f.sign neg c, nonfin := true }
    | none, some c => { code := c, nonfin := true }
    | none, none => { code := f.sign neg f.maxFin, nonfin := true }
  | .fin neg m e =>
    let mag := f.roundMag m e
    if f.maxFin < mag then { code := f.sign neg f.maxFin, sat := true }
    else { code := f.sign neg mag, zero := mag == 0 }

/-- *convert*(v, INTn): round-to-nearest-even to an integer, clamped (R241, Table 8.2). -/
def convertInt (n : Nat) : Num → Conv
  | .nan => { code := 0, nonfin := true }
  | .inf neg => { code := if neg then 2 ^ (n - 1) else 2 ^ (n - 1) - 1, nonfin := true }
  | .fin neg m e =>
    let r := if 0 ≤ e then m * 2 ^ e.toNat else rne m (-e).toNat
    if neg then
      if 2 ^ (n - 1) < r then { code := 2 ^ (n - 1), sat := true }
      else { code := (2 ^ n - r) % 2 ^ n, zero := r == 0 }
    else if 2 ^ (n - 1) - 1 < r then { code := 2 ^ (n - 1) - 1, sat := true }
    else { code := r, zero := r == 0 }

/-- floor(log2 |v|) of a non-zero finite value. -/
def Num.floorLog2 : Num → Int
  | .fin _ m e => (Nat.log2 m : Int) + e
  | _ => 0

/-- Conversion to E8M0 (R249). -/
def convertE8m0 : Num → Conv
  | .nan => { code := 0xFF, nonfin := true }
  | .inf _ => { code := 0xFF, nonfin := true }
  | .fin neg m e =>
    if m = 0 then { code := 0, zero := true }
    else
      let x := (Num.fin neg m e).floorLog2 + 127
      if x < 0 then { code := 0 } else if 0xFE < x then { code := 0xFE, sat := true } else { code := x.toNat }

/-- The value of an integer. -/
def Num.ofInt (i : Int) : Num := .fin (decide (i < 0)) i.natAbs 0

/-- v × 2^k, exactly. -/
def Num.scale (v : Num) (k : Int) : Num :=
  match v with
  | .fin neg m e => .fin neg m (e + k)
  | v => v

/-- −v. -/
def Num.neg : Num → Num
  | .nan => .nan
  | .inf s => .inf !s
  | .fin s m e => .fin (!s) m e

/-- |v|. -/
def Num.abs : Num → Num
  | .nan => .nan
  | .inf _ => .inf false
  | .fin _ m e => .fin false m e

/-- Whether v is a zero. -/
def Num.isZero : Num → Bool
  | .fin _ m _ => m == 0
  | _ => false

/-- Whether v is finite. -/
def Num.isFin : Num → Bool
  | .fin .. => true
  | _ => false

/-- Exact product (R240): NaN with a NaN factor or infinity by zero. -/
def Num.mul : Num → Num → Num
  | .fin s m e, .fin t n g => .fin (s != t) (m * n) (e + g)
  | .nan, _ => .nan
  | _, .nan => .nan
  | .inf s, .inf t => .inf (s != t)
  | .inf s, .fin t n _ => if n = 0 then .nan else .inf (s != t)
  | .fin s m _, .inf t => if m = 0 then .nan else .inf (s != t)

/-- Exact sum; a zero sum is +0 unless both addends are −0 (IEEE 754, nearest even). -/
def Num.add : Num → Num → Num
  | .fin s m e, .fin t n g =>
    let k := min e g
    let a : Int := (if s then -1 else 1) * (m * 2 ^ (e - k).toNat : Nat)
    let b : Int := (if t then -1 else 1) * (n * 2 ^ (g - k).toNat : Nat)
    let r := a + b
    if r = 0 then .fin (s && t) 0 0 else .fin (decide (r < 0)) r.natAbs k
  | .nan, _ => .nan
  | _, .nan => .nan
  | .inf s, .inf t => if s = t then .inf s else .nan
  | .inf s, _ => .inf s
  | _, .inf t => .inf t

/-- Order of two values that are not NaN: whether a < b. -/
def Num.lt : Num → Num → Bool
  | .fin s m e, .fin t n g =>
    let k := min e g
    let a : Int := (if s then -1 else 1) * (m * 2 ^ (e - k).toNat : Nat)
    let b : Int := (if t then -1 else 1) * (n * 2 ^ (g - k).toNat : Nat)
    decide (a < b)
  | .inf s, .inf t => s && !t
  | .inf s, .fin .. => s
  | .fin .., .inf t => !t
  | _, _ => false

/-- Whether two values that are not NaN are equal. -/
def Num.eqv (a b : Num) : Bool := !(Num.lt a b) && !(Num.lt b a)

/-- Integer square root by bits, highest first. -/
def isqrtFrom (n : Nat) : Nat → Nat → Nat
  | 0, r => r
  | k + 1, r => let c := r + 2 ^ k; isqrtFrom n k (if c * c ≤ n then c else r)

/-- Integer square root. -/
def isqrt (n : Nat) : Nat := isqrtFrom n (Nat.log2 n / 2 + 1) 0

/-- A quotient a / b of finite values with a sticky bit far below any format's precision, so that one
rounding of it is the rounding of the exact quotient. IEEE results for zeros and infinities. -/
def Num.div : Num → Num → Num
  | .fin s m e, .fin t n g =>
    if n = 0 then if m = 0 then .nan else .inf (s != t)
    else
      let k := 70 + Nat.log2 n + 1
      let x := m * 2 ^ k
      .fin (s != t) (2 * (x / n) + (if x % n = 0 then 0 else 1)) (e - g - k - 1)
  | .nan, _ => .nan
  | _, .nan => .nan
  | .inf _, .inf _ => .nan
  | .inf s, .fin t _ _ => .inf (s != t)
  | .fin s _ _, .inf t => .fin (s != t) 0 0

/-- A square root with a sticky bit, as `Num.div`. -/
def Num.sqrt : Num → Num
  | .nan => .nan
  | .inf s => if s then .nan else .inf false
  | .fin s m e =>
    if m = 0 then .fin s 0 0
    else if s then .nan
    else
      let odd := e % 2 != 0
      let x := (if odd then 2 * m else m) * 2 ^ 140
      let r := isqrt x
      .fin false (2 * r + (if r * r = x then 0 else 1)) ((if odd then e - 1 else e) / 2 - 70 - 1)

/-- Arithmetic on codes of one format, one rounding each, with whether the result saturated. -/
def Fmt.op2 (f : Fmt) (g : Num → Num → Num) (a b : Nat) : Nat × Bool :=
  let r := f.convert (g (f.decode a) (f.decode b))
  (r.code, r.sat)

/-- a + b (R63, R120, R251). -/
def Fmt.fadd (f : Fmt) (a b : Nat) : Nat × Bool := f.op2 Num.add a b
/-- a − b. -/
def Fmt.fsub (f : Fmt) (a b : Nat) : Nat × Bool := f.op2 (fun x y => Num.add x y.neg) a b
/-- a × b. -/
def Fmt.fmul (f : Fmt) (a b : Nat) : Nat × Bool := f.op2 Num.mul a b
/-- a × b + c with one rounding. -/
def Fmt.ffma (f : Fmt) (a b c : Nat) : Nat × Bool :=
  let r := f.convert (Num.add (Num.mul (f.decode a) (f.decode b)) (f.decode c))
  (r.code, r.sat)
/-- a / b with one rounding. -/
def Fmt.fdiv (f : Fmt) (a b : Nat) : Nat × Bool := f.op2 Num.div a b
/-- √a with one rounding. -/
def Fmt.fsqrt (f : Fmt) (a : Nat) : Nat := (f.convert (f.decode a).sqrt).code

/-- IEEE 754-2019 minimum (R251): NaN if either operand is, and −0 below +0 (log 17). -/
def Fmt.fmin (f : Fmt) (a b : Nat) : Nat :=
  match f.decode a, f.decode b with
  | .nan, _ => f.nanCode.getD 0
  | _, .nan => f.nanCode.getD 0
  | x, y =>
    if x.lt y then a else if y.lt x then b
    else if a.testBit (f.eb + f.mb) then a else b

/-- IEEE 754-2019 maximum. -/
def Fmt.fmax (f : Fmt) (a b : Nat) : Nat :=
  match f.decode a, f.decode b with
  | .nan, _ => f.nanCode.getD 0
  | _, .nan => f.nanCode.getD 0
  | x, y =>
    if x.lt y then b else if y.lt x then a
    else if a.testBit (f.eb + f.mb) then b else a

/-- |a| and −a; a NaN is written with its canonical code (R237). -/
def Fmt.fabs (f : Fmt) (a : Nat) : Nat :=
  if f.decode a = .nan then f.nanCode.getD 0 else a % 2 ^ (f.eb + f.mb)
def Fmt.fneg (f : Fmt) (a : Nat) : Nat :=
  if f.decode a = .nan then f.nanCode.getD 0 else if a.testBit (f.eb + f.mb) then a % 2 ^ (f.eb + f.mb) else a % 2 ^ (f.eb + f.mb) + 2 ^ (f.eb + f.mb)

/-! ### Formats by code -/

/-- Number of bits of a source or destination code of Table 8.3; none where the code is invalid. -/
def cvtWidth : Nat → Option Nat
  | 0x1 => some 8 | 0x2 => some 8 | 0x5 => some 8 | 0x6 => some 8 | 0x7 => some 4 | 0x8 => some 16
  | 0x9 => some 16 | 0xA => some 8 | 0xB => some 32 | 0xC => some 32 | 0xD => some 8 | _ => none

/-- The floating-point format of a code of Table 8.3. -/
def cvtFmt : Nat → Option Fmt
  | 0x1 => some e4m3 | 0x2 => some e5m2 | 0x5 => some e3m2 | 0x6 => some e2m3 | 0x7 => some e2m1
  | 0x8 => some bf16 | 0x9 => some f16 | 0xB => some f32 | _ => none

/-- Value of an E8M0 code (R249): 2^(code − 127), NaN for 0xFF. -/
def e8m0Num (x : Nat) : Num := if x = 0xFF then .nan else .fin false 1 ((x : Int) - 127)

/-- Value of an element in a format of Table 8.3. -/
def cvtValue (code x : Nat) : Num :=
  match cvtFmt code with
  | some f => f.decode (x % 2 ^ f.width)
  | none =>
    if code = 0xA then Num.ofInt (sext 8 x)
    else if code = 0xC then Num.ofInt (sext 32 x)
    else e8m0Num (x % 256)

/-- *convert* into a format of Table 8.3. -/
def cvtTo (code : Nat) (v : Num) : Conv :=
  match cvtFmt code with
  | some f => f.convert v
  | none => if code = 0xA then convertInt 8 v else if code = 0xC then convertInt 32 v else convertE8m0 v

/-- emax of an MX element format (Table 8.1). -/
def mxEmax (f : Fmt) : Int :=
  if f = e4m3 then 8 else if f = e5m2 then 15 else if f = e3m2 then 4 else 2

/-- The larger of two magnitudes. -/
def Num.maxAbs (a b : Num) : Num := if a.abs.lt b.abs then b.abs else a.abs

/-- One MX output block (R243): scale byte, element codes, and the counts of zeros and non-finite values. -/
def mxBlock (f : Fmt) (vs : List Num) : Nat × List Nat × Nat × Nat :=
  let bad := (vs.filter fun v => !v.isFin).length
  if bad ≠ 0 then (0xFF, vs.map fun _ => 0, 0, bad)
  else
    let m := vs.foldl Num.maxAbs (.fin false 0 0)
    if m.isZero then
      let cs := vs.map f.convert
      (0x7F, cs.map (·.code), (cs.filter (·.zero)).length, 0)
    else
      let x0 := max (m.floorLog2 - mxEmax f) (-127)
      let excess := match m.scale (-x0) with
        | .fin _ k e => decide (f.maxFin < f.roundMag k e)
        | _ => false
      let x := if excess then x0 + 1 else x0
      let cs := vs.map fun v => f.convert (v.scale (-x))
      ((x + 127).toNat, cs.map (·.code), (cs.filter (·.zero)).length, 0)

/-! ### Special functions (R251) -/

/-- Fixed-point scale of the special functions' reference values. -/
def fxBits : Nat := 160

/-- Fixed-point value x / 2^fxBits as a number. -/
def fxNum (x : Int) : Num := .fin (decide (x < 0)) x.natAbs (-(fxBits : Int))

/-- Fixed-point product. -/
def fxMul (a b : Int) : Int := (a * b) / 2 ^ fxBits

/-- Σ x^i / i! from term `i` on, in fixed point, for `n` terms. -/
def fxExpFrom (x : Int) : Nat → Nat → Int → Int
  | 0, _, _ => 0
  | n + 1, i, term => term + fxExpFrom x n (i + 1) (fxMul term x / ((i : Int) + 1))

/-- The alternating series of sine and cosine: term, then −term·x²/((i+1)(i+2)), for `n` terms. -/
def fxTrigFrom (x2 : Int) : Nat → Nat → Int → Int
  | 0, _, _ => 0
  | n + 1, i, term => term + fxTrigFrom x2 n (i + 2) (-(fxMul term x2) / (((i : Int) + 1) * ((i : Int) + 2)))

/-- arctan of 1/k in fixed point, `n` terms. -/
def fxAtanInv (k : Int) : Nat → Nat → Int → Int
  | 0, _, _ => 0
  | n + 1, i, p => p / (2 * (i : Int) + 1) - fxAtanInv k n (i + 1) (p / (k * k))

/-- π in fixed point (Machin). -/
def fxPi : Int := 16 * fxAtanInv 5 40 0 (2 ^ fxBits / 5) - 4 * fxAtanInv 239 20 0 (2 ^ fxBits / 239)

/-- atanh series for ln 2 = 2·atanh(1/3), `n` terms. -/
def fxLn2From : Nat → Nat → Int → Int
  | 0, _, _ => 0
  | n + 1, i, p => p / (2 * (i : Int) + 1) + fxLn2From n (i + 1) (p / 9)

/-- ln 2 in fixed point. -/
def fxLn2 : Int := 2 * fxLn2From 60 0 (2 ^ fxBits / 3)

/-- Binary digits of log2 of a mantissa in [1, 2), `n` of them, by repeated squaring. -/
def fxLog2From : Nat → Int → Int → Int
  | 0, _, acc => acc
  | n + 1, x, acc =>
    let y := fxMul x x
    if 2 ^ (fxBits + 1) ≤ y then fxLog2From n (y / 2) (acc + 2 ^ n) else fxLog2From n y acc

/-- A value as fixed point (truncated). -/
def Num.toFx : Num → Int
  | .fin s m e =>
    let k := e + fxBits
    let r : Nat := if 0 ≤ k then m * 2 ^ k.toNat else m / 2 ^ (-k).toNat
    if s then -(r : Int) else r
  | _ => 0

/-- The reference value of a special function of a finite operand: 0 RCP, 1 RSQ, 2 EX2, 3 LG2, 4 SIN, 5 COS.
Only its neighbourhood matters: the result is free within the stated accuracy (log 4). -/
def specialRef (op : Nat) (v : Num) : Num :=
  match op with
  | 0 => Num.div (.fin false 1 0) v
  | 1 => Num.div (.fin false 1 0) v.sqrt
  | 2 =>
    let x := v.toFx
    let n := x / 2 ^ fxBits
    let g := x - n * 2 ^ fxBits
    (fxNum (fxExpFrom (fxMul g fxLn2) 50 0 (2 ^ fxBits))).scale n
  | 3 =>
    match v with
    | .fin _ m e =>
      let l := Nat.log2 m
      let x : Int := (m * 2 ^ fxBits / 2 ^ l : Nat)
      let fr := fxLog2From 120 x 0
      Num.fin (decide (((l : Int) + e) * 2 ^ 120 + fr < 0)) (((l : Int) + e) * 2 ^ 120 + fr).natAbs (-120)
    | _ => .nan
  | _ =>
    let x := v.abs.toFx
    let two := 2 * fxPi
    let r := x - (x / two) * two
    let r2 := fxMul r r
    let y := fxNum (if op = 4 then fxTrigFrom r2 60 1 r else fxTrigFrom r2 60 0 (2 ^ fxBits))
    match op, v with
    | 4, .fin true _ _ => y.neg
    | _, _ => y

/-- Twice the unit in the last place of binary32 at a value (R251). -/
def twoUlps (v : Num) : Num := .fin false 1 ((if v.isZero then -126 else max v.floorLog2 (-126)) - 22)

/-- The free code `w` where it lies within `bound` of the exact value, else the exact value rounded. -/
def within (exact bound : Num) (w : Nat) : Nat :=
  match f32.decode w with
  | .fin s m e => if bound.lt (Num.add (.fin s m e) exact.neg).abs then (f32.convert exact).code else w % 2 ^ 32
  | _ => (f32.convert exact).code

/-- A special function of a binary32 code (R251). Special operands give the IEEE results and a result beyond the range
saturates; any other finite result is the free code `w` where that lies within the accuracy of the exact value. -/
def specialFn (op : Nat) (a : Nat) (w : Nat) : Nat :=
  let v := f32.decode a
  let fn := fun (r : Num) => if (f32.convert r).sat then (f32.convert r).code else within r (twoUlps r) w
  match v with
  | .nan => 0x7FC00000
  | .inf s =>
    match op with
    | 0 => f32.sign s 0
    | 1 => if s then 0x7FC00000 else 0
    | 2 => if s then 0 else 0x7F800000
    | 3 => if s then 0x7FC00000 else 0x7F800000
    | _ => 0x7FC00000
  | .fin s m _ =>
    match op with
    | 0 => if m = 0 then f32.sign s 0x7F800000 else fn (specialRef 0 v)
    | 1 => if m = 0 then f32.sign s 0x7F800000 else if s then 0x7FC00000 else fn (specialRef 1 v)
    | 2 => if (Num.fin false 1 20).lt v.abs then if s then fn (.fin false 0 0) else f32.maxFin else fn (specialRef 2 v)
    | 3 => if m = 0 then 0xFF800000 else if s then 0x7FC00000 else fn (specialRef 3 v)
    | _ => if (Num.fin false 1 16).lt v.abs then within (specialRef op v) (.fin false 1 (-20)) w else fn (specialRef op v)

/-- Whether a special function of a finite operand saturates (R251). -/
def specialSat (op a : Nat) : Bool :=
  match f32.decode a with
  | .fin s m e =>
    match op with
    | 0 => m != 0 && (f32.convert (specialRef 0 (.fin s m e))).sat
    | 2 => !s && ((Num.fin false 1 20).lt (.fin s m e) || (f32.convert (specialRef 2 (.fin s m e))).sat)
    | _ => false
  | _ => false

end Sys2Proof.Machine
end

