-- ==== Sys2Proof/Config.lean ====
section
/-!
DEFINITION. What one implementation fixes and the manual does not give. Every constant here is opaque:
nothing in Lean can evaluate it, and a statement about it holds for every value. The log entry that
declares each one is named in its docstring.
-/
namespace Sys2Proof.Config

/-- A fresh free value: the n-th value the manual leaves open (log 1). The counter is a field of State. -/
opaque freeNat : Nat → Nat
/-- Set of the near-store cache for a line number, given the number of sets (R58 gives no index; log 2). -/
opaque nsSet : Nat → Nat → Nat
/-- The hash of a 128 B line over the in-service shafts of a joint, given their number (R31 gives none; log 117). -/
opaque shaftHash : Nat → Nat → Nat
/-- The CRC-16 of a shaft frame (R29 gives no polynomial; log 117). -/
opaque crc16 : List (BitVec 8) → BitVec 16
/-- The identification code of the test access port (R556 gives none; log 125). -/
opaque idcode : BitVec 32
/-- Hash h of R325 over source node, source engine, destination node and offset[47:7] (log 3). -/
opaque routeHash : Nat → Nat → Nat → Nat → Nat
/-- RCP, RSQ, EX2, LG2, SIN and COS: a result within the stated accuracy is not one number (R251, R297; log 4). -/
opaque special : Nat → BitVec 32 → BitVec 32
/-- The keyed function of R308: seed, step, stream, deep-tier address to 16 random bits (log 5). -/
opaque srBits : Nat → Nat → Nat → Nat → BitVec 16
/-- SHA-384 (log 6). -/
opaque sha384 : List (BitVec 8) → List (BitVec 8)
/-- ECDSA P-384 signature verification: key digest or key, message, signature (log 6). -/
opaque ecdsaVerify : List (BitVec 8) → List (BitVec 8) → List (BitVec 8) → Bool
/-- ECDSA P-384 signature made with a key handle (log 6). -/
opaque ecdsaSign : Nat → List (BitVec 8) → List (BitVec 8)
/-- AES-256-GCM opening: key, nonce, additional data, ciphertext, tag (log 6). -/
opaque gcmOpen : List (BitVec 8) → List (BitVec 8) → List (BitVec 8) → List (BitVec 8) → List (BitVec 8) → Option (List (BitVec 8))
/-- AES-256-GCM sealing: key, nonce, additional data, plaintext to ciphertext and tag (log 6). -/
opaque gcmSeal : List (BitVec 8) → List (BitVec 8) → List (BitVec 8) → List (BitVec 8) → List (BitVec 8) × List (BitVec 8)
/-- Wrapping key of R501: KRK handle and ephemeral public key through ECDH P-384 and HKDF (log 6). -/
opaque wrapKey : Nat → List (BitVec 8) → List (BitVec 8)
/-- Public half of an ECDH P-384 key that the module made for a link, by its handle (R369; log 6). -/
opaque ecdhPub : Nat → List (BitVec 8)
/-- The secret an ECDH P-384 key of the module shares with a far end's public key (R369; log 6). -/
opaque ecdhShared : Nat → List (BitVec 8) → List (BitVec 8)
/-- HKDF with SHA-384: the key of one direction of a link from the shared secret, the number of the change of keys, and the
sending end, node × 32 + port (R369; log 6). -/
opaque linkKey : List (BitVec 8) → Nat → Nat → List (BitVec 8)
/-- The nonce of a link frame, derived from its link sequence number (R368 gives no derivation; log 6). -/
opaque linkNonce : Nat → List (BitVec 8)
/-- Public half of a generated key handle (AK, KRK, DIK), uncompressed, 97 B (log 6). -/
opaque pubKey : Nat → List (BitVec 8)
/-- The alias-key certificate that the DIK signs over a key handle, DER (log 6). -/
opaque akCert : Nat → List (BitVec 8)
/-- Whether a DER certificate chain leads to a given root, and to the given key (log 6). -/
opaque chainOk : List (BitVec 8) → List (BitVec 8) → Bool
/-- Whether the last certificate of a DER chain certifies a public key (R492; log 6). -/
opaque certifies : List (BitVec 8) → List (BitVec 8) → Bool
/-- Whether a control-complex payload carries a valid signature by the P-384 key of a digest (R500; log 6). -/
opaque payloadOk : List (BitVec 8) → List (BitVec 8) → Bool
/-- Entries of `OPERATOR_ROOTS`: certificate and authority (no layout is given; log 54). -/
opaque rootEntries : List (BitVec 8) → List (List (BitVec 8) × Nat)
/-- Bytes of a read-only BLOB whose contents the manual names and does not lay out: object key and values (log 54). -/
opaque blobBytes : Nat → List Nat → List (BitVec 8)
/-- A byte of a private save area (R415: the layout is private to the module; log 7). -/
opaque saveByte : Nat → BitVec 8
/-- Per-module identity: serial number, MAC address, device certificate chain (log 8). -/
opaque moduleSerial : List (BitVec 8)
opaque macAddr : Nat
opaque deviceChain : List (BitVec 8)
/-- Fuse contents at manufacture: SHA-384 digests of the signing keys 0 to 3 (R497; log 8). -/
opaque fuseKeyDigest : Nat → List (BitVec 8)

end Sys2Proof.Config
end

