-- ==== Sys2Proof/Machine/State.lean ====
section
/-!
DEFINITION. The state of the module as plain data: every register, store, queue, mode and pin the
manual gives it, and the queue of waiting commands. A field's default value is its value at reset.
A table (`Map`) lists only what differs from the default its reader names.
-/
namespace Sys2Proof.Machine
open Sys2Proof

/-! ### Towers (chapter 2) -/

/-- `SHF_SHAFT_STATE.STATE` (Table 2.6). -/
inductive ShaftMode where
  | full | spared | halfLower | halfUpper | retired | recal
deriving DecidableEq, Repr

/-- A frame a shaft's sender keeps until its receiver has it (R29): sequence number, 128 B line, payload. -/
structure Frame where
  seq : Nat
  line : Nat
  data : List Byte
deriving DecidableEq, Repr

/-- One shaft (R28, R34 to R38, Table 2.6): its lanes, the receiver's next sequence number and whether it has asked for a
replay, the sender's next number and replay buffer, and what has been delivered, with its poison tag (R29, R83).
`atTake` holds the lanes that had failed when a recalibration took the shaft (R41). -/
structure Shaft where
  mode : ShaftMode := .full
  spares : Nat := 0
  frameSpare : Bool := false
  failed : List Nat := []
  seq : Nat := 0
  replay : Bool := false
  tx : Nat := 0
  buf : List Frame := []
  got : List (List Byte × Bool) := []
  atTake : List Nat := []
deriving DecidableEq, Repr

/-- Stage of a level reset (Table 2.9). -/
inductive LevelReset where
  | none | accepted | held | released
deriving DecidableEq, Repr

/-- Stage of a tower reset (Table 2.10). -/
inductive TowerReset where
  | none | writeback | relock | training | zeroing
deriving DecidableEq, Repr

/-- How accesses to the stacks beside a tower meet its near-store cache (R61). -/
inductive CacheMode where
  | normal | writeback | bypass | held
deriving DecidableEq, Repr

/-- A line of the near-store cache: line address, set, way, dirty (R58, R59); `under` lists the errors a patrol found and
could not correct in the stack's own copy of a clean line: unit 0 or 1, symbol, value (R79). -/
structure NsLine where
  line : Nat
  set : Nat
  way : Nat
  dirty : Bool
  under : List (Nat × Nat × Nat) := []
deriving DecidableEq, Repr

/-- One tower. Joint directions are 0 floor up, 1 floor down, 2 store up, 3 store down, 4 seam up,
5 seam down (R43); a shaft's key is joint × 1024 + shaft; level keys are 1 to 3. `late` holds lanes that failed
under a tower reset, as (shaft key, lane) (R50); `recalNext` is the shaft a recalibration round that waits goes on with (R41);
`restoreAt` the level of the last `LEVEL_RESTORE` (R43). -/
structure Tower where
  shafts : Map Shaft := []
  oos : List Nat := []
  levelsOut : List Nat := []
  restoring : List Nat := []
  levelReset : Map LevelReset := []
  reset : TowerReset := .none
  recal : Option Nat := .none
  recalEnd : Nat := 0
  recalNext : Option Nat := .none
  restoreAt : Nat := 0
  scratchUnits : Nat := 4
  splitTo : Option Nat := .none
  cacheMode : CacheMode := .normal
  cacheSince : Nat := 0
  lines : List NsLine := []
  plru : Map Nat := []
  adder : List AccWrite := []
  late : List (Nat × Nat) := []
  untrained : Bool := false
deriving DecidableEq, Repr

/-! ### Memory tiers (chapter 3) -/

/-- `STACK_STATE`, and `UE_MEM_STATE` of an LPDDR6 package (Table 3.8). -/
inductive DevState where
  | inService | excluded | failed | skipped
deriving DecidableEq, Repr

/-- An access that waits at a stack (R61, R70); `answer` tells that its response is still wanted: not for a posted store of
an engine, and no longer once its issuer's level is reset or has left service (R40, R46). -/
structure Waiting where
  x : Xact
  answer : Bool := true
deriving DecidableEq, Repr

/-- One HBM4 stack. -/
structure Stack where
  st : DevState := .inService
  wanted : Bool := false
  lastTrained : Nat := 0
  lastTempC : Int := 0
  since : Nat := 0
  waiting : List Waiting := []
deriving DecidableEq, Repr

/-- Who gave a copy descriptor: a crew (cluster, slot, kernel), or a command queue's command. -/
inductive CopySrc where
  | crew (cluster slot kernel : Nat)
  | cmd (q index : Nat)
deriving DecidableEq, Repr

/-- A queued copy descriptor (Table 3.5), its issuer and partition. -/
structure CopyJob where
  d : List W64
  src : CopySrc
  part : Nat
deriving DecidableEq, Repr

/-- One copy engine (R84, R88, R159). `reads` holds what its reads of headframe windows returned (address, status,
bytes, poison) and `left` how many have not returned; `ended` tells that all but the completion record is done. -/
structure CopyEngine where
  queue : List CopyJob := []
  busy : Option CopyJob := none
  reads : List (Nat × Nat × List Byte × Bool) := []
  left : Nat := 0
  status : Nat := 0
  ended : Bool := false
  lastStatus : Nat := 0
  done : Nat := 0
deriving DecidableEq, Repr

/-- A completion the module gives to a transaction's issuer (R55). -/
structure Completion where
  tag : Nat
  status : Nat
  data : List Byte := []
  poison : Bool := false
deriving DecidableEq, Repr

/-! ### Clusters and crews (chapters 4 to 8) -/

/-- A path of a crew (R102 to R105). `divs` names the divergences it lies in, innermost first; `wait`
holds the lanes of a `WAIT` that have not met their condition (R147); `bar` names the barrier it waits at (R123). -/
structure Path where
  mask : W32
  pc : Nat
  divs : List Nat := []
  count : Nat := 0
  age : Nat := 0
  wait : Option W32 := none
  bar : Option Nat := none
deriving DecidableEq, Repr

/-- An open divergence: its reconvergence point and the lanes that entered it (R103). -/
structure Div where
  id : Nat
  reconv : Nat
  lanes : W32
deriving DecidableEq, Repr

/-- What holds a crew (R122, R154, R162). -/
inductive Hold where
  | none | barrier (b : Nat) | await (q n : Nat) | ended
deriving DecidableEq, Repr

/-- A resident crew (R95 to R97, R154, R164, R166, R167). Vector lane i of register r has key 32r + i. -/
structure Crew where
  kernel : Nat
  index : Nat
  start : Nat := 0
  vcount : Nat := 16
  v : Map W32 := []
  s : Map W64 := []
  p : Map W32 := []
  vPoison : Map Bool := []
  sPoison : Map Bool := []
  pPoison : Map W32 := []
  exited : W32 := 0#32
  run : Option Path := Option.none
  pending : List Path := []
  atReconv : List Path := []
  atBarrier : List Path := []
  divs : List Div := []
  nextDiv : Nat := 0
  nextAge : Nat := 1
  q : Map Nat := []
  mstat : Map W32 := []
  mreport : Bool := false
  hold : Hold := .none
deriving DecidableEq, Repr

/-- One cluster barrier (R122 to R124). -/
structure Barrier where
  n : Nat := 0
  count : Nat := 0
  held : List Nat := []
  since : Nat := 0
deriving DecidableEq, Repr

/-- A line of a cluster's L1 data cache: it keeps its own, possibly stale, bytes, and which of its two 64 B units
came with a poison tag (R112 to R114). -/
structure L1Line where
  line : Nat
  set : Nat
  way : Nat
  data : List Byte
  poison : List Nat := []
deriving DecidableEq, Repr

/-- A tile accepted by the transposing load unit (R155). `got` holds what its reads of headframe windows and other nodes
returned (crew address, status, bytes, poison), `left` the requests and `lines` the window lines that have not returned,
`begun` that they were sent. -/
structure TldJob where
  slot : Nat
  q : Nat
  dst : Nat
  src : W64
  rows : Nat
  stride : Nat
  pitch : Nat
  esize : Nat
  lanes : W32
  pc : Nat
  instr : W64
  begun : Bool := false
  got : List (Nat × Nat × List Byte × Bool) := []
  left : List (Nat × Nat) := []
  lines : List Nat := []
deriving DecidableEq, Repr

/-- A stationary buffer's content (R171, R177): element codes keyed by k × 512 + n, block scales keyed
by b × 512 + n, and the keys of poisoned elements. -/
structure Tile where
  valid : Bool := false
  fmt : Nat := 0
  klen : Nat := 0
  nlen : Nat := 0
  elems : Map Nat := []
  scales : Map Nat := []
  poison : List Nat := []
deriving DecidableEq, Repr

/-- What one pass of a row adds to one output group: codes rounded to the target's format, how many of those roundings
saturated, and the columns that carry a poison tag (R196, R199, R211). -/
structure PassOut where
  group : Nat := 1
  sums : List Nat
  sat : Nat := 0
  poison : List Nat := []
deriving DecidableEq, Repr

/-- An output row that left the array, or a row the epilogue has read, and is not yet written: its number, the target
row, why it is dropped (1 out of range, 2 poisoned index), its passes in order, and the block scales of an MX output with
their poison (R201, R217, R220, R227). -/
structure RowOut where
  row : Nat
  target : Nat
  drop : Nat := 0
  passes : List PassOut
  scales : List (Nat × Bool) := []
deriving DecidableEq, Repr

/-- The operation of a matrix issue entry (Table 5.6). -/
inductive EntryOp where
  | mload | mstream | mstreamIx | mepi | mzero | mspill
deriving DecidableEq, Repr

/-- A queued or running matrix issue entry (R180 to R182, R191, R215, R263): `uses` and `released` list accumulator slots
(0 to 31) and wide-buffer tiles (32 + i), `per` is the rows one of them holds, `latch` the positions of the last window
row with their elements (code, scale, poison), `operand` the epilogue's row vector; `narrow` tells whether its slots are
16-bit, as they are when the entry touches them (R210, R211). -/
structure Entry where
  id : Nat
  op : EntryOp
  d : List W64
  slot : Nat
  kernel : Nat
  part : Nat
  lane : Nat := 0
  q : Nat
  lanes : W32
  pc : Nat
  instr : W64
  klen : Nat := 0
  nlen : Nat := 0
  uses : List Nat := []
  per : Nat := 1
  narrow : Bool := false
  started : Bool := false
  entered : Nat := 0
  written : Nat := 0
  latchRow : Nat := 0
  latch : List (Nat × List (Nat × Nat × Bool)) := []
  operand : Option (List (Nat × Bool)) := none
  outs : List RowOut := []
  released : List Nat := []
  amax : Nat := 0
  amaxPoison : Bool := false
deriving DecidableEq, Repr

/-- How an array's activity moves (R205, R449); `fast` is the fall that the peak limit asks for. -/
inductive Ramp where
  | steady | up | down | fast
deriving DecidableEq, Repr

/-- The cluster's assay set (R254). -/
structure Assay where
  elems : Nat := 0
  zeros : Nat := 0
  sat : Nat := 0
  nonfin : Nat := 0
deriving DecidableEq, Repr

/-- `CLU_STATUS.STATE` (Table 4.7). -/
inductive ClusterMode where
  | idle | running | held | retired
deriving DecidableEq, Repr

/-- One cluster: schedulers and crews (slot keys 0 to 127 are scheduler × 16 + slot), barriers, L1,
matrix array, accumulator store, wide buffer, assay sets, and the configuration in force with the class
B values that wait for the kernel boundary (Tables 4.7, 4.8, 6.9, 6.10, 7.10, 7.11, 8.5 to 8.7, 9.5, 9.6).
`actBase` is the array's activity at Pace time
`actFrom`, in units of 2^-32; `lastLane` is the lane whose matrix issue the array accepted last (R273). Accumulator element keys are slot × 32768 + offset, wide-buffer keys tile × 65536 + offset. -/
structure Cluster where
  mode : ClusterMode := .idle
  kernels : List Nat := []
  stopping : List Nat := []
  crews : Map Crew := []
  nextStart : Nat := 0
  barriers : Map Barrier := []
  l1 : List L1Line := []
  l1plru : Map Nat := []
  tlds : List TldJob := []
  sb0 : Tile := {}
  sb1 : Tile := {}
  loaded : Map (Nat × Nat × Nat) := []
  entries : List Entry := []
  nextEntry : Nat := 0
  lastLane : Nat := 0
  lastRow : Option (List Nat) := none
  holdCount : Nat := 0
  ramp : Ramp := .steady
  actBase : Nat := 0
  actFloor : Nat := 0
  actFrom : Nat := 0
  cap : Nat := 64
  narrow : List Nat := []
  acc : Map Nat := []
  accPoison : List Nat := []
  wgb : Map Nat := []
  wgbPoison : List Nat := []
  assay : Map Assay := []
  vecSat : Nat := 0
  accSat : Nat := 0
  accOutOor : Nat := 0
  accIxDrop : Nat := 0
  mxaBusy : Nat := 0
  mxaDummy : Nat := 0
  mxaIxOor : Nat := 0
  wgbSat : Nat := 0
  slmReplays : Nat := 0
  acqFlushes : Nat := 0
  rangeLines : Nat := 0
  rotLimit : Nat := 64
  barTimeout : Nat := 1000
  l1Enable : Bool := true
  holdWindow : Nat := 2048
  cplx3 : Bool := false
  fp16 : Bool := false
  overlap : Bool := true
  waitCfg : Map Nat := []
deriving DecidableEq, Repr

/-! ### Training step (chapters 9 and 10) -/

/-- `BKT_STATUS.STATE` (Table 9.8). -/
inductive BucketMode where
  | idle | armed | ready | shipping | shipped | landed | failed
deriving DecidableEq, Repr

/-- One bucket entry (R274 to R282). `shares` lists the ranks whose share of shard RANK is added. -/
structure Bucket where
  desc : List W64 := List.replicate 8 0#64
  mode : BucketMode := .idle
  part : Nat := 0
  step : Nat := 0
  ready : Nat := 0
  poison : Bool := false
  shares : List Nat := []
  got : Map Nat := []
  status : Nat := 0
  closedAt : Option Nat := none
deriving DecidableEq, Repr

/-- `STV_STATUS.STATE` (Table 9.9). -/
inductive StepMode where
  | noStep | opened | voted | recorded
deriving DecidableEq, Repr

/-- The verdict unit (R283 to R288). -/
structure Verdict where
  mode : StepMode := .noStep
  result : Bool := false
  vote : Bool := false
  timedOut : Bool := false
  noneOpened : Bool := true
  rebased : Bool := false
  last : Nat := 0
  closed : Bool := false
  closedAt : Nat := 0
  votedAt : Nat := 0
  forceFail : Bool := false
  passes : Bool := false
  applied : Nat := 0
  skipped : Nat := 0
  abandoned : Bool := false
  mismatches : List Nat := []
deriving DecidableEq, Repr

/-- `UE_STATUS.STATE` (Table 10.7). -/
inductive UeMode where
  | idle | pass1 | waiting | factored | pass2 | completing | paused
deriving DecidableEq, Repr

/-- One update engine (R290 to R315). -/
structure Ue where
  inService : Bool := false
  retiring : Bool := false
  mode : UeMode := .idle
  before : UeMode := .idle
  last : Nat := 0
  groups : Nat := 0
  doneGroups : List Nat := []
  failedGroups : List Nat := []
  readyGroups : List Nat := []
  pass1Groups : List Nat := []
  landed : List (Nat × Nat) := []
  norm2 : W64 := 0#64
  normPart : W64 := 0#64
  layers : Map W64 := []
  vec : Map W64 := []
  veto : Nat := 0
  elems : Nat := 0
  zeros : Nat := 0
  sat : Nat := 0
  nonfin : Nat := 0
  poison : Nat := 0
  ixDup : Nat := 0
  ixOor : Nat := 0
  totals : Map W64 := []
  totalPz : List Nat := []
  factDone : List Nat := []
  ending : Bool := false
  table : List Byte := []
deriving DecidableEq, Repr

/-- Configuration the update engines latch when a step opens (R299). -/
structure UeLatch where
  recipes : Map (List Byte) := []
  scalars : List W32 := []
  layerCount : Nat := 0
  recipeSel : Nat := 0
  pushNodes : List Nat := []
  pushDone : Nat := 0
  vectorLen : Nat := 0
  seed : Nat := 0
deriving DecidableEq, Repr

/-- A piece of a reduction packet's content that has arrived (R367): packet type, source node, step [31:0], length of the
whole, offset, bytes. -/
structure RedPart where
  type : Nat
  src : Nat
  step : Nat
  total : Nat
  off : Nat
  bytes : List Byte
deriving DecidableEq, Repr

/-- A step's reduction and votes (R367): the node's own contribution, those of its children (step, node), whether
the join went to its parent, the result, and the pieces of contributions and results that are arriving. -/
structure Reduction where
  own : Option RedVal := none
  got : List (Nat × Nat × RedVal) := []
  sentUp : Bool := false
  result : Option RedVal := none
  votes : List (Nat × Nat × Bool) := []
  voteSent : Bool := false
  parts : List RedPart := []
deriving DecidableEq, Repr

/-! ### Denyan (chapter 11) -/

/-- `DNY_PORT_STATUS.STATE` (Table 11.12). -/
inductive PortMode where
  | dark | training | active | degraded | disabled | failed
deriving DecidableEq, Repr

/-- A replay or split table entry (R343, R351). -/
structure Replay where
  src : Nat
  engine : Nat
  seq : Nat
  status : Nat
  value : Nat
  poison : Bool := false
  time : Nat
deriving DecidableEq, Repr

/-- A packet that waits in an output queue, with its arrival, and the local request whose packet it is, where it is one
(R349). -/
structure Queued where
  pkt : Packet
  time : Nat
  req : Option Nat := none
deriving DecidableEq, Repr

/-- A frame in the retry buffer (R319, R368): its link sequence number, its packet, and what it shows on the link after header
word 0, with the tag. -/
structure SentFrame where
  seq : Nat
  pkt : Packet
  body : List Byte
  tag : List Byte := []
deriving DecidableEq, Repr

/-- One optical port (R317 to R322, R329 to R331, R343 to R351, R354, R368 to R371). Tables over virtual channels have the keys
0 to 7 of Table 11.3. `outQ` holds the packets that wait to be sent, `sending` the packet a channel has begun with its flits
left, `retry` the frames not yet acknowledged, `inQ` the packets accepted and not yet taken, `kept` the flits of held
contributions (R279). `sentFlits` and `freed` count flits sent to and taken from the far end since bring-up, `farFreed` those
it has freed; `flight` lists requests of B and M in its buffers (channel, partition, flits) and `credits` the partitions'
shares (class × 16 + partition). `turns` are the turns left in the round of R330 and `cFirst` the times of the C flits that
went first. `keysTx` and `keysRx` list keys with the link sequence number they hold from, newest first; `lastRetrain` is kept
for each wavelength. -/
structure Port where
  mode : PortMode := .dark
  wlTx : BitVec 8 := 0#8
  wlRx : BitVec 8 := 0#8
  peerNode : Nat := 0
  peerPort : Nat := 0
  enc : Bool := false
  cause : Nat := 0
  corr : Nat := 0
  uncorr : Nat := 0
  replays : Nat := 0
  dropped : Nat := 0
  ecnMarked : Nat := 0
  replayHits : Nat := 0
  combined : Nat := 0
  keyed : Bool := false
  trainSince : Nat := 0
  failedAt : Option Nat := none
  peer : Option PeerInfo := none
  retrain : Option Nat := none
  lastRetrain : Map Nat := []
  rxSeq : Nat := 0
  txSeq : Nat := 0
  replayAsk : Bool := false
  lastAck : Nat := 0
  encFails : List Nat := []
  keyPackets : Nat := 0
  keySince : Nat := 0
  keyEpoch : Nat := 0
  keysTx : List (Nat × List Byte) := []
  keysRx : List (Nat × List Byte) := []
  ecdh : Nat := 0
  farPub : List Byte := []
  shared : List Byte := []
  inQ : List Packet := []
  kept : Nat := 0
  sending : Map (Queued × Nat) := []
  retry : List SentFrame := []
  sentFlits : Map Nat := []
  farFreed : Map Nat := []
  freed : Map Nat := []
  flight : List (Nat × Nat × Nat) := []
  turns : Map Nat := []
  cFirst : List Nat := []
  table : List Replay := []
  side : List Packet := []
  split : List Replay := []
  outQ : List Queued := []
  credits : Map Nat := []
  peerOffset : Int := 0
  peerStratum : Nat := 15
  peerLocked : Bool := false
  peerLate : Nat := 0
  linkDelay : Nat := 0
  lastPace : Nat := 0
deriving DecidableEq, Repr

/-- Where a remote load or atomic of a crew returns its lanes: destination operand code, size, lanes
with their byte offsets from the packet's first byte, whose crew address is `base`, and signedness. The code 0x200
marks a poll of `WAIT` (R142, R147, R149, R152). -/
structure CrewDst where
  cluster : Nat
  slot : Nat
  dst : Nat
  size : Nat
  signed : Bool
  lanes : List (Nat × Nat)
  base : Nat
  pc : Nat
  instr : W64
  hasDst : Bool
deriving DecidableEq, Repr

/-- Why a request is not sent yet: sent, held at a path change (R328), or waiting for earlier stores, its window or
its sequence numbers (R336, R342, R355). -/
inductive Held where
  | sent | path | turn
deriving DecidableEq, Repr

/-- A D request this router has sent on within 40 µs: source × 4096 + engine, destination line, port, sequence number,
when (R328). -/
structure Passed where
  who : Nat
  line : Nat
  port : Nat
  seq : Nat
  time : Nat
deriving DecidableEq, Repr

/-- A request of this node, or one it forwards, that waits for its response (R328, R340, R341, R346, R351, R356,
R365). `joined` lists the packets a combined request stands for, in order of arrival; the last six fields name the
bucket and rank, run, window read (tower, window), update engine, sealing channel, or cluster of a transposing
load it belongs to. -/
structure Request where
  id : Nat
  pkt : Packet
  port : Nat := 0
  issued : Nat := 0
  held : Held := .turn
  heldSince : Nat := 0
  crew : Option CrewDst := none
  next : List (Packet × CrewDst) := []
  joined : List Packet := []
  passing : Bool := false
  bucket : Option (Nat × Nat) := none
  run : Option (Nat × Nat) := none
  read : Option (Nat × Nat) := none
  push : Option Nat := none
  sealCh : Option Nat := none
  tld : Option Nat := none
deriving DecidableEq, Repr

/-- A window of outstanding requests of an engine to one node (R355). -/
structure Window where
  size : Nat
  clean : Nat := 0
  halvedAt : Option Nat := none
  used : Nat := 0
deriving DecidableEq, Repr

/-- A gathered run of window stores (R359). `bytes` are consecutive from `first`; `crews` lists
(cluster × 128 + slot) of the storing crews, `due` that it is to be sent as soon as it may be, `pz` the addresses of its
poisoned bytes. -/
structure Run where
  id : Nat
  win : Nat
  first : Nat
  bytes : List Byte
  part : Nat := 0
  grewAt : Nat
  crews : List Nat
  sent : Bool := false
  due : Bool := false
  pz : List Nat := []
deriving DecidableEq, Repr

/-- Who waits for a read of a window: a crew's load, a cluster's transposing load, a copy engine, or a transaction (R361). -/
inductive Reader where
  | crew (d : CrewDst)
  | tld (c : Nat)
  | copy (e : Nat)
  | xact (x : Xact)
deriving DecidableEq, Repr

/-- A window load waiting for its lines, which are part of a read (R361): its local address, the remote offset of its first line,
and its bytes. -/
structure WinLoad where
  req : Nat
  win : Nat
  addr : Nat
  off : Nat
  size : Nat
  who : Reader
deriving DecidableEq, Repr

/-- A headframe engine (R359 to R362); `stores` wait for room in the full gather buffer, and `held` are transactions' window
loads that wait for a run's acknowledgement. -/
structure Headframe where
  runs : List Run := []
  stores : List Run := []
  nextRun : Nat := 0
  waiting : List WinLoad := []
  failures : List (Nat × Nat × Nat) := []
  held : List Xact := []
deriving DecidableEq, Repr

/-- A message being sent (R363, R365); `seqs` lists the sequence numbers of its packets. -/
structure Message where
  id : Nat
  sq : Nat
  node : Nat
  rq : Nat
  seq : Nat
  body : List Byte
  posted : Nat
  sentAt : Nat
  nakked : Bool := false
  noRoute : Bool := false
  waiting : Bool := false
  delivered : Bool := false
  seqs : List Nat := []
  status : Option Nat := none
deriving DecidableEq, Repr

/-- A part of a message that is arriving: source node × 64 + send queue, message sequence, offset, bytes, tag (R364). -/
structure MsgPart where
  key : Nat
  seq : Nat
  off : Nat
  bytes : List Byte
  poison : Bool := false
deriving DecidableEq, Repr

/-- A receive queue: buffers taken from its ring, completion entries written to its other ring, and the parts of messages that
are arriving (R363, R364). -/
structure RecvQueue where
  taken : Nat := 0
  written : Nat := 0
  parts : List MsgPart := []
deriving DecidableEq, Repr

/-! ### Control complex (chapter 13) -/

/-- `CQ_STATE.STATE` (Table 13.4). -/
inductive QueueMode where
  | disabled | empty | fetching | waiting | held | error
deriving DecidableEq, Repr

/-- A started command of a queue that has not completed (R406, R407). -/
structure Started where
  index : Nat
  opcode : Nat
  words : List W64
  kernel : Nat := 0
deriving DecidableEq, Repr

/-- One command queue (Tables 13.2 to 13.4). -/
structure CmdQueue where
  en : Bool := false
  prio : Nat := 0
  preempt : Bool := false
  log2n : Nat := 0
  part : Nat := 0
  base : Nat := 0
  write : Nat := 0
  read : Nat := 0
  mode : QueueMode := .disabled
  err : Nat := 0
  started : List Started := []
deriving DecidableEq, Repr

/-- Stage of a kernel (R409 to R416, R418). -/
inductive KernelMode where
  | waiting | running | preempting | saved | frozen | ended
deriving DecidableEq, Repr

/-- The state of one cluster of a preempted kernel (Table 13.9): its layout is private (R415). -/
structure Saved where
  rank : Nat
  crews : Map Crew
  barriers : Map Barrier
  slm : List Host.Cell
  narrow : List Nat
  acc : Map Nat
  accPoison : List Nat
  wgb : Map Nat
  wgbPoison : List Nat
deriving DecidableEq, Repr

/-- A launched kernel (Table 13.6, R408 to R416). `stopCycles` holds the `ARITH` cycle of each die at its containment, and `excs`
its exception records with their place in the order of R169. -/
structure Kernel where
  q : Nat
  index : Nat
  words : List W64
  part : Nat := 0
  clusters : List Nat := []
  mode : KernelMode := .waiting
  startAt : Nat := 0
  startsOn : Map Nat := []
  admitted : List Nat := []
  endedOn : List Nat := []
  reached : List Nat := []
  savedOn : List Saved := []
  contained : Bool := false
  stopCycles : Map Nat := []
  excs : List (Nat × List Nat) := []
  excCount : Nat := 0
  excDropped : Nat := 0
deriving DecidableEq, Repr

/-- `HB_STATUS` (Table 13.15), and the span between the end of grace and the last freeze. -/
inductive BeatMode where
  | beating | grace | freezing | held
deriving DecidableEq, Repr

/-- The heartbeat watch and its lapse record (R417 to R422). -/
structure Heartbeat where
  mode : BeatMode := .beating
  lastBeat : Nat := 0
  lapseAt : Nat := 0
  heldAt : Nat := 0
  recBeat : Nat := 0
  reads : List Nat := []
  frozen : List (Nat × Nat × List Nat) := []
  endedIn : List (Nat × Nat) := []
  cancelled : Bool := false
deriving DecidableEq, Repr

/-- State of a firmware processor (R424). -/
inductive FwMode where
  | off | running | restarting | failed
deriving DecidableEq, Repr

/-- One firmware processor (R424 to R427). -/
structure Fw where
  mode : FwMode := .off
  version : Nat := 0
  restarts : Nat := 0
  forced : Bool := false
  tries : Nat := 0
  runSince : Nat := 0
  asked : Option Nat := none
deriving DecidableEq, Repr

/-- A firmware log entry (Table 13.13). -/
structure FwLog where
  seq : Nat
  fwp : Nat
  sev : Nat
  code : Nat
  pace : Nat
  args : List W64 := []
deriving DecidableEq, Repr

/-! ### Pace, power, thermal (chapter 14) -/

/-- Pace states (Table 14.1). -/
inductive PaceMode where
  | freerun | acquiring | locked | holdover
deriving DecidableEq, Repr

/-- The Pace unit (R432 to R438). `skew` is the recorded difference of a tower out of step, `skewAt` when it was recorded
(R22). -/
structure Pace where
  on : Bool := false
  now : Nat := 0
  mode : PaceMode := .freerun
  behind : Bool := false
  stratum : Nat := 15
  offset : Int := 0
  good : Nat := 0
  lastGood : Nat := 0
  setSeconds : Option Nat := none
  nextPps : Option Nat := none
  lastPps : Nat := 0
  skew : Map Int := []
  skewAt : Map Nat := []
deriving DecidableEq, Repr

/-- One schedule entry (Table 14.10). -/
structure Sched where
  kind : Nat := 0
  arm : Bool := false
  irq : Bool := false
  late : Bool := false
  fired : Nat := 0
  time : Nat := 0
  period : Nat := 0
  arg : Nat := 0
deriving DecidableEq, Repr

/-- A DVFS change in progress (R447). -/
structure Dvfs where
  set : Nat := 0
  throttle : Nat := 0
  inForce : Nat := 0
  target : Option Nat := none
deriving DecidableEq, Repr

/-- Throttle of one compute die (R451): half issue rate, when its caps fell below 0.5, when the cause
last exceeded 95 % of its limit, when the present action began, the latest cause and all that acted. -/
structure Throttle where
  half : Bool := false
  lowSince : Option Nat := none
  clearSince : Option Nat := none
  actSince : Option Nat := none
  recorded : Bool := false
  cause : Nat := 0
  causes : List Nat := []
deriving DecidableEq, Repr

/-- Power and thermal state (R444, R450 to R453). Sensors: 0 to 63 columns, 64 to 71 hotspots, 72 to
103 stacks, 104 to 111 UEs, 112 inlet, 113 outlet, in °C; a column's two sensors, on L2 and on L3, are in `colLower` and
`colUpper` (R52). -/
structure Power where
  rampFrom : Nat := 6000
  rampTo : Nat := 6000
  rampStart : Nat := 0
  rampUs : Nat := 0
  peakW : Nat := 0
  avgW : Nat := 0
  partW : List Nat := []
  railW : List Nat := []
  partThrottledAt : Map Nat := []
  dvfs : Map Dvfs := []
  throttle : Map Throttle := []
  temps : Map Int := []
  colLower : List Int := []
  colUpper : List Int := []
  throttleCount : Map Nat := []
  criticalCount : Map Nat := []
  hot : List Nat := []
  halfStacks : List Nat := []
  halfUes : List Nat := []
  critical : List Nat := []
deriving DecidableEq, Repr

/-! ### Camlis (chapter 15) -/

/-- A response the module gives (Table 15.3), with PENDING (R474). -/
structure Response where
  reqId : Nat
  type : Nat
  status : Nat
  index : Nat := 0
  sub : Nat := 0
  offset : Nat := 0
  pending : Bool := false
  last : Bool := false
  payload : List Byte := []
deriving DecidableEq, Repr

/-- One Camlis session (R459 to R470): a local one's ring pair, or whether it came over IPv6 (R457). Authority is laid out as
`LOCAL_AUTHORITY`. -/
structure Session where
  localPair : Option Nat := none
  v6 : Bool := false
  authority : Nat := 0
  expert : Bool := false
  part : Nat := 0
  notify : List Byte := []
  outstanding : List Nat := []
  kept : List Response := []
  staging : Option (Nat × List Byte) := none
  snap : Option (Nat × List Byte × Nat) := none
  lastMsg : Nat := 0
  diagAddr : Nat := 0
  spdm : List Byte := []
  notices : List (Nat × Nat) := []
deriving DecidableEq, Repr

/-- The shadow set's holder and Quickset (R476 to R480): the pending one with session, request and instant, the one
that completes, the towers whose split it changes, and whether it moved the IPv4 or IPv6 address of the management port (R457). -/
structure Quickset where
  holder : Option Nat := none
  pending : Option (Nat × Nat × Nat) := none
  completing : Option (Nat × Nat) := none
  waitingFor : List Nat := []
  moved4 : Bool := false
  moved6 : Bool := false
  lastResult : Nat := 0
  lastInstant : Nat := 0
  count : Nat := 0
deriving DecidableEq, Repr

/-- The local channel's registers (Tables 15.1, 15.2) and, per ring pair, the next request slot
to execute and the slot one past the last request written. -/
structure LocalChannel where
  en : Bool := false
  base : Nat := 0
  reads : Map Nat := []
  writes : Map Nat := []
deriving DecidableEq, Repr

/-! ### Trust and boot (chapter 16) -/

/-- A flash slot: bundle, what R497 found, and whether it booted (Table 16.13). -/
structure Slot where
  bundle : Bundle := { version := 0, minRunning := 0, images := [] }
  verified : Bool := false
  booted : Bool := false
deriving DecidableEq, Repr

/-- A boot ledger record (Table 16.9); its CRC follows from its fields. -/
structure LedgerRec where
  sequence : Nat
  boot : Nat
  step : Nat
  unit : Nat
  attempt : Nat
  outcome : Nat
  image : Nat
  timeUs : Nat
  code : Nat
  opHours : Nat
deriving DecidableEq, Repr

/-- Phase of the module (Tables 16.7, 16.12, 17.4). -/
inductive Phase where
  | unpowered | rising | waitClock | waitReset | waitFlash | booting | booted | halted | fatal | inReset | tripped
deriving DecidableEq, Repr

/-- The boot (R509 to R517). `image` is 0 slot A, 1 slot B, 2 golden; `attempts` is keyed by
step × 65536 + unit. -/
structure Boot where
  phase : Phase := .unpowered
  sequence : Nat := 0
  boot : Nat := 1
  image : Nat := 0
  reduced : Bool := false
  done : List Nat := []
  attempts : Map Nat := []
  skipped : List Nat := []
  lastReset : Nat := 0
  step2Ok : Bool := false
  pendingOver : Bool := false
  version : Nat := 0
deriving DecidableEq, Repr

/-- An instruction of the test access port (R556); `other` is one that the debug-unlock fuse admits. -/
inductive TapOp where
  | idcode | bypass | samplePreload | extest
  | other (n : Nat)
deriving DecidableEq, Repr

/-- The test access port: its instruction and its boundary-scan cells (R556). -/
structure Tap where
  op : TapOp := .idcode
  cells : List Bool := []
deriving DecidableEq, Repr

/-- The time compare registers of a core (R401), and the cause and value of the last access fault its loads raised (R535); no
reset value is given (log 112). -/
structure Core where
  stimecmp : Nat := 0
  vstimecmp : Nat := 0
  mcause : Nat := 0
  mtval : Nat := 0
deriving DecidableEq, Repr

/-- Pins, and what the boundary of chapter 18 shows (Tables 16.12, 18.3). -/
structure Pins where
  mated : Bool := false
  inputMv : Nat := 0
  resetN : Bool := true
  presentN : Bool := true
  faultN : Bool := true
  thermtripN : Bool := true
  refClk : Bool := true
  qspiDriven : Bool := false
  railsUp : Bool := false
  lasersOn : Bool := false
  trstN : Bool := false
deriving DecidableEq, Repr

/-- What flash and fuses keep through every reset (Tables 16.5, 16.6; R497, R498, R508, R543). -/
structure Kept where
  activeSlot : Nat := 0
  slotA : Slot := {}
  slotB : Slot := {}
  golden : Slot := {}
  config : Option (Map (List Byte)) := none
  configBad : Bool := false
  ledger : List LedgerRec := []
  payload : List Byte := []
  retired : List Nat := []
  opStored : Nat := 0
  powerCycles : Nat := 0
  bootCount : Nat := 0
  revoked : List Nat := []
  rollback : Map Nat := []
  debugFuse : Bool := false
  pitCopy : List (List Byte) := []
  eventPages : List (List Byte) := []
deriving DecidableEq, Repr

/-- A data key slot (R501, R502). -/
structure KeySlot where
  valid : Bool := false
  id : Nat := 0
  part : Nat := 0
  use : Nat := 0
  dp : List Byte := []
  key : List Byte := []
deriving DecidableEq, Repr

/-- A sealing channel (Table 16.4, R504 to R507); `next` is the record a seal job goes on with (R506). -/
structure Channel where
  en : Bool := false
  dir : Bool := false
  keySlot : Nat := 0
  part : Nat := 0
  cvuEn : Bool := false
  cvu : Nat := 0
  salt : Nat := 0
  base : Nat := 0
  limit : Nat := 0
  dest : Nat := 0
  compl : Nat := 0
  fails : Nat := 0
  records : Nat := 0
  status : Nat := 0
  next : Nat := 0
deriving DecidableEq, Repr

/-- SEC0's keys and measurements (R491, R493, R494); key handles name generated keys. -/
structure Trust where
  mr : Map (List Byte) := []
  dp : Map (List Byte) := []
  ak : Option Nat := none
  krk : Option Nat := none
  nextKey : Nat := 1
  keys : Map KeySlot := []
  refused : Nat := 0
deriving DecidableEq, Repr

/-! ### Check values and errors (chapter 17) -/

/-- One check-value unit (R525). -/
structure Cvu where
  width : Nat := 32
  reflect : Bool := true
  invert : Bool := true
  mode : Nat := 0
  tallyW : Nat := 0
  pos : Nat := 0
  blk : Nat := 0
  part : Nat := 0
  poly : Nat := 0x1EDC6F41
  init : Nat := 0xFFFFFFFF
  exp : Nat := 0
  tally : Nat := 0
  busy : Bool := false
  blocks : Nat := 0
  last : Nat := 0
  mismatch : Nat := 0
deriving DecidableEq, Repr

/-- A Pit Log event latched when it happens (R540, R542). -/
structure PitEvent where
  trig : Nat
  unit : Nat
  status : Nat := 0
  addr : Nat := 0
  det0 : Nat := 0
  det1 : Nat := 0
  opSec : Nat := 0
  pcycle : Nat := 0
  pace : Nat := 0
deriving DecidableEq, Repr

/-- A Pit Log record (Table 17.7); its CRC follows from its fields. -/
structure PitRec where
  seq : Nat
  repeats : Nat := 0
  upd : Nat := 0
  ev : PitEvent
  cls : Nat
  dropped : Bool := false
  lastPace : Nat := 0
  words : List W32 := []
deriving DecidableEq, Repr

/-- The Pit Log and the error counts (R534, R539 to R545). Units: 0 to 3 near stores, 4 to 35 stacks,
36 to 67 packages, 68 to 195 clusters, 196 Pit SRAM. -/
structure Pit where
  records : List PitRec := []
  written : Nat := 0
  queue : List PitEvent := []
  dropped : Nat := 0
  dropFlag : Bool := false
  programming : Bool := false
  corrected : Map Nat := []
  hourly : Map Nat := []
  raised : List Nat := []
  poisonMade : Map Nat := []
  poisonUsed : Map Nat := []
  contained : Map Nat := []
deriving DecidableEq, Repr

/-- The values `BSB_STATUS` serves (Table 18.5). -/
structure Bsb where
  state : Nat := 0
  lastReset : Nat := 0
  inlet : Nat := 0
  outlet : Nat := 0
  inputW : Nat := 0
deriving DecidableEq, Repr

/-! ### Commands held for a firmware processor -/

/-- A command that waits for a firmware processor (R15): a write of an object that has a row of its own, by the object's
key; the staging of a bundle; a Camlis message, by its type; an SPDM request, by its code; a handshake. -/
inductive HeldCmd where
  | write (key : Nat) (w : ObjWrite)
  | stage (w : ObjWrite) (b : Bundle)
  | message (type sid : Nat) (m : CamMsg)
  | spdm (sid code : Nat) (body : List Byte)
  | handshake (sid : Nat) (v6 : Bool) (chain : List Byte)
deriving DecidableEq, Repr

/-! ### The whole module -/

/-- The module's state. -/
structure State where
  /-- commands that wait, first in, first out -/
  pending : List Instr := []
  /-- commands held while the firmware processor they need restarts, with its number (R15) -/
  held : List (Nat × HeldCmd) := []
  boot : Boot := {}
  pins : Pins := {}
  tap : Tap := {}
  cores : Map Core := []
  kept : Kept := {}
  pace : Pace := {}
  sched : Map Sched := []
  checkpointWait : List Nat := []
  /-- fired `FENCE_EPOCH` entries, with the request number and the headframe runs their fire time came before -/
  fenceWait : List (Nat × Nat × List Nat) := []
  fenceEpochs : Map Nat := []
  power : Power := {}
  /-- `ARITH` cycles since module reset per compute die, and the thousandths of a cycle beyond (R131) -/
  cycles : Map Nat := []
  cyclePart : Map Nat := []
  towers : Map Tower := []
  mem : List Host.Cell := []
  /-- poisoned units: a 64 B unit's index, or 2^48 plus the index of a poisoned 8 B word of SLM -/
  poison : List Nat := []
  stackUnits : Map Stack := []
  stackMap : List Nat := []
  packages : Map DevState := []
  accwSat : Nat := 0
  corrected : Map Nat := []
  poisoned : Map Nat := []
  copyEngines : Map CopyEngine := []
  completions : List Completion := []
  clusters : Map Cluster := []
  atomSat : Nat := 0
  buckets : Map Bucket := []
  /-- contributions held until their step is armed, with the port they came by (R279) -/
  heldShares : List (Nat × Packet) := []
  bktRejects : Nat := 0
  bktSat : Nat := 0
  verdict : Verdict := {}
  ues : Map Ue := []
  latch : UeLatch := {}
  red : Reduction := {}
  /-- nodes a push-done atomic is owed, and nodes a push to which has failed, in the last step (R307) -/
  pushWait : List Nat := []
  pushBad : List Nat := []
  ports : Map Port := []
  elsfpOut : List Nat := []
  laserBad : List (Nat × Nat) := []
  requests : List Request := []
  nextReq : Nat := 0
  seqs : Map Nat := []
  /-- uses of sequence numbers: engine × 65536 + number, and when (R336) -/
  seqTimes : List (Nat × Nat) := []
  /-- D requests forwarded lately, and when a path last changed (R328) -/
  paths : List Passed := []
  pathAt : Nat := 0
  /-- Pace time of the last credit epoch (R331) -/
  lastEpoch : Nat := 0
  /-- packets of the verdict unit that wait for a sequence number or a route (R336, R367) -/
  outbox : List Packet := []
  /-- lines a store or atomic of the fabric was last applied to, and when (R352) -/
  lineTimes : List (Nat × Nat) := []
  windows : Map Window := []
  hotLines : List (Nat × Packet) := []
  headframes : Map Headframe := []
  hfErrors : Map Nat := []
  messages : List Message := []
  msgSeq : Map Nat := []
  recvSeq : Map Nat := []
  recvQueues : Map RecvQueue := []
  queues : Map CmdQueue := []
  /-- the queue each command processor served last (R406) -/
  cpLast : Map Nat := []
  kernels : Map Kernel := []
  nextKernel : Nat := 0
  beat : Heartbeat := {}
  irqs : List Nat := []
  /-- interrupts delivered as messages: core, file, identity (R402) -/
  msis : List (Nat × Nat × Nat) := []
  fw : Map Fw := []
  fwQueue : List Nat := []
  fwLog : Map (List FwLog) := []
  fwLogSeq : Map Nat := []
  traceIndex : Map Nat := []
  /-- Pace time of each tower's last trace record (R430) -/
  traceLast : Map Nat := []
  traceDropped : Nat := 0
  active : Map (List Byte) := []
  shadow : Map (List Byte) := []
  /-- values still in force of class B step objects whose newer value waits for its boundary (R474) -/
  heldB : Map (List Byte) := []
  quickset : Quickset := {}
  sessions : Map Session := []
  localChan : LocalChannel := {}
  regRejects : Nat := 0
  overQuota : Map Nat := []
  mgmtUp : Bool := false
  mgmtReplies : List (List Byte) := []
  dhcpAddr : Nat := 0
  slaacAddr : Nat := 0
  trust : Trust := {}
  channels : Map Channel := []
  cvus : Map Cvu := []
  pit : Pit := {}
  opSeconds : Nat := 0
  bsb : Bsb := {}
  /-- the model's own counter of free values drawn (log 1) -/
  free : Nat := 0
deriving DecidableEq, Repr

/-- The module before power: every register at its Reset column, tables empty (log 10). -/
def State.reset : State := {}

/-- Why a step stops with a fault. The manual's errors are statuses, exceptions and containment, all of
which are next states; no meaning raises a fault. -/
inductive Fault where
  /-- Raised by no command. -/
  | none
deriving DecidableEq, Repr

/-- Why a command has no meaning. -/
inductive Refusal where
  /-- A command that is not modelled, by its mnemonic. Safe. -/
  | notModelled (mnemonic : String)
deriving DecidableEq, Repr

end Sys2Proof.Machine
end

