-- ==== Sys2Proof/Machine/Dict.lean ====
section
/-!
DEFINITION. The object dictionary (R469, R471, R473; Tables 0.1, 2.7, 3.8, 4.9, 6.11, 7.12, 8.7, 9.10,
10.9, 11.15, 12.8, 13.15, 14.11, 15.8, 15.11, 16.13, 17.8): type, access, level, apply class, default and
range of every object. An object's key is index × 256 + sub-index.
-/
namespace Sys2Proof.Machine
open Sys2Proof

/-- Type of an object (R469): an integer of n bytes, an enumeration of n values, text or a blob of at most n bytes. -/
inductive OTyp where
  | bool | u (bytes : Nat) | f32 | enum (n : Nat) | str (most : Nat) | blob (most : Nat)
deriving DecidableEq, Repr

/-- Access code (Table 0.4). -/
inductive OAcc where
  | ro | rw | wo
deriving DecidableEq, Repr

/-- Apply class (Table 0.4, R473). -/
inductive OCls where
  | imm | bnd | qs | stp | field
deriving DecidableEq, Repr

/-- One row of an object table. `row` tells that a write of the object is a command of its own. -/
structure ObjDef where
  typ : OTyp
  acc : OAcc
  expert : Bool := false
  cls : OCls := .imm
  dflt : List Byte := []
  lo : Nat := 0
  hi : Nat := 2 ^ 64 - 1
  row : Bool := false
deriving DecidableEq, Repr

/-- A read-only blob of class I at Basic level. -/
def roBlob : ObjDef := { typ := .blob (2 ^ 48), acc := .ro }
/-- A read-only integer of n bytes. -/
def roU (n : Nat) : ObjDef := { typ := .u n, acc := .ro }
/-- A writable integer of n bytes with its default and range. -/
def rwU (n d lo hi : Nat) (cls : OCls) (expert : Bool := false) (row : Bool := false) : ObjDef :=
  { typ := .u n, acc := .rw, expert, cls, dflt := leBytes n d, lo, hi, row }
/-- A write-only integer of n bytes, each of which has a command of its own. -/
def woU (n : Nat) (expert : Bool := true) : ObjDef := { typ := .u n, acc := .wo, expert, row := true }
/-- A writable blob of at most n bytes. -/
def rwBlob (n : Nat) (cls : OCls) (expert : Bool := false) (dflt : List Byte := []) (row : Bool := false) : ObjDef :=
  { typ := .blob n, acc := .rw, expert, cls, dflt, row }
/-- A writable Boolean. -/
def rwBool (d : Bool) (cls : OCls) (expert : Bool := false) (row : Bool := false) : ObjDef :=
  { typ := .bool, acc := .rw, expert, cls, dflt := leBytes 1 (b2n d), hi := 1, row }
/-- A writable enumeration of n values. -/
def rwEnum (n d : Nat) (cls : OCls) (expert : Bool := false) (row : Bool := false) : ObjDef :=
  { typ := .enum n, acc := .rw, expert, cls, dflt := leBytes 2 d, hi := n - 1, row }

/-- Objects of indices 0x1000 to 0x3600. -/
def objsLow : List (Nat × ObjDef) := [
  (0x100001, { typ := .str 64, acc := .ro }), (0x100002, { typ := .str 64, acc := .ro }),
  (0x100003, { typ := .str 12, acc := .ro }), (0x100004, roU 4),
  (0x110001, roBlob), (0x110002, rwU 1 8 1 16 .qs true), (0x110003, rwU 4 0x10000 0 0x3FFFF .qs),
  (0x110004, rwU 2 60 10 3600 .qs), (0x110005, rwU 1 0 0 15 .imm), (0x110006, rwBlob 64 .imm),
  (0x120001, roBlob), (0x120002, roBlob), (0x120003, roU 8), (0x120005, { roU 8 with expert := true }),
  (0x130001, roU 1), (0x130002, rwBlob 64 .qs), (0x130003, rwBlob 64 .qs), (0x130004, roU 8),
  (0x130005, rwU 2 6116 1024 65535 .qs true),
  (0x200001, rwEnum 4 0 .qs), (0x200002, roU 8), (0x200003, roU 8), (0x200004, rwU 1 0 0 255 .qs),
  (0x200005, rwEnum 2 0 .qs), (0x200006, rwU 4 1000 20 100000 .qs true),
  (0x200007, rwU 4 100000 1000 (10 ^ 9) .qs true), (0x200008, woU 8), (0x200009, roBlob),
  (0x20000A, rwU 4 0xFFFFFFFF 0 0xFFFFFFFF .qs),
  (0x220001, roBlob), (0x220002, { typ := .f32, acc := .rw, dflt := leBytes 4 0x3951B717, lo := 0x358637BD, hi := 0x3F800000 }),
  (0x220003, { typ := .f32, acc := .rw, dflt := leBytes 4 0x3951B717, lo := 0x358637BD, hi := 0x3F800000 }),
  (0x220004, rwU 4 6000 1000 6000 .imm false true), (0x220005, rwU 4 1000 0 0xFFFFFFFF .imm),
  (0x220006, roBlob), (0x220007, roBlob), (0x230001, rwBlob 8 .imm false (leBytes 8 0) true),
  (0x240001, roBlob), (0x240002, rwU 1 95 80 100 .qs true), (0x240003, roBlob),
  (0x310001, rwU 4 0x04040404 0 0xFFFFFFFF .qs), (0x310002, rwEnum 3 0 .qs true), (0x310003, roU 8),
  (0x310004, woU 1), (0x320001, roU 8), (0x320002, roBlob), (0x320003, roBlob), (0x320004, woU 1),
  (0x320005, rwU 4 3600 0 0xFFFFFFFF .qs), (0x320006, rwU 1 10 2 40 .qs true), (0x330001, roU 8),
  (0x330002, roBlob), (0x330003, roBlob),
  (0x340001, roBlob), (0x340002, roBlob), (0x340003, rwU 2 16 4 1024 .qs true), (0x340004, rwU 4 600 0 0xFFFFFFFF .qs),
  (0x340005, woU 1), (0x340006, woU 1), (0x340007, woU 1), (0x340008, woU 1), (0x340009, roU 2),
  (0x350001, rwU 4 0x00020202 0 0xFFFFFFFF .qs true), (0x350002, rwU 4 3600 0 0xFFFFFFFF .qs),
  (0x350003, rwU 4 86400 0 0xFFFFFFFF .qs), (0x350004, rwU 4 86400 0 0xFFFFFFFF .qs), (0x350005, roBlob),
  (0x350006, roBlob), (0x360001, roBlob), (0x360002, rwU 4 0xFFFFFFFF 0 0xFFFFFFFF .stp true)]

/-- Objects of indices 0x4000 to 0x5080. -/
def objsMid : List (Nat × ObjDef) := [
  (0x400001, rwU 2 0 0 16383 .stp), (0x400002, roBlob), (0x400003, rwU 4 0xFFFFFFFF 0 0xFFFFFFFF .imm false true),
  (0x400004, roBlob), (0x400005, rwU 2 4 1 1024 .qs true), (0x400006, rwU 4 60 0 0xFFFFFFFF .qs), (0x400007, woU 1),
  (0x410001, rwBlob 65536 .qs), (0x410002, rwU 1 8 1 255 .qs true), (0x420001, rwU 4 0x040801 0 0xFFFFFFFF .qs true),
  (0x420002, rwBool true .qs true), (0x430001, { roBlob with expert := true }), (0x440011, rwU 2 1000 100 65535 .qs true),
  (0x440012, roBlob), (0x450001, rwBlob (256 * 24) .qs), (0x460001, rwU 2 256 16 4096 .qs true),
  (0x460002, rwU 2 64 1 1024 .qs true), (0x470001, rwU 4 0 0 0xFFFFFFFF .stp true),
  (0x470002, rwU 4 3600 60 86400 .qs true), (0x480001, rwU 4 100 1 60000 .qs),
  (0x500001, roBlob), (0x500002, rwBlob 2048 .field), (0x500003, woU 4 false), (0x500101, rwBlob 1024 .imm),
  (0x501001, rwU 4 2000 0 0xFFFFFFFF .imm), (0x501002, roU 1), (0x501003, rwU 4 5000 0 60000 .imm true),
  (0x501004, roBlob), (0x501005, woU 1 false),
  (0x502001, rwU 2 64 1 4095 .bnd), (0x502002, rwU 2 1000 0 65535 .bnd true), (0x502003, rwBool true .stp true),
  (0x502004, roBlob), (0x502005, roU 8), (0x502006, { roBlob with expert := true }), (0x502007, roBlob),
  (0x502008, { roBlob with expert := true }),
  (0x503001, rwU 2 2048 0 65535 .bnd), (0x503002, rwBool false .bnd true), (0x503003, roBlob), (0x503004, roBlob),
  (0x503005, { roBlob with expert := true }), (0x503006, roBlob),
  (0x504001, rwBool false .bnd true), (0x504002, roBlob), (0x504003, roBlob), (0x504004, roBlob),
  (0x504005, { roBlob with expert := true }),
  (0x505001, roBlob), (0x505002, roBlob), (0x505003, woU 8 false), (0x505004, roBlob), (0x505005, { roBlob with expert := true }),
  (0x506001, roBlob), (0x506002, roBlob), (0x506003, rwBool true .bnd true), (0x507001, roBlob), (0x507002, roU 8),
  (0x507003, { roU 8 with expert := true }), (0x507004, rwU 4 50 0 60000 .bnd),
  (0x508001, roU 8), (0x508002, rwU 8 (2 ^ 64 - 1) 0 (2 ^ 64 - 1) .bnd), (0x508003, rwU 4 100 1 60000 .bnd),
  (0x508004, rwBlob 32768 .stp), (0x508005, woU 8 false), (0x508006, woU 8 false), (0x508007, woU 8 false),
  (0x508008, woU 8), (0x508009, roU 8), (0x50800A, roU 8), (0x50800B, roU 8), (0x50800C, woU 8),
  (0x50800D, rwU 1 0 0 15 .stp)]

/-- Triggers Table 17.6 defines, as (group, number of events). -/
def trigGroups : List (Nat × Nat) := [(1, 6), (2, 3), (3, 5), (4, 1), (5, 4), (6, 6), (7, 3), (8, 2), (9, 5)]

/-- Whether Table 17.6 defines event `e` of group `g`. -/
def trigDefined (g e : Nat) : Bool := trigGroups.any fun x => x.1 == g && 1 ≤ e && e ≤ x.2

/-- Default of `PIT_TRIG_CFG`: every trigger enabled, list = group (Table 17.8). -/
def trigCfgDefault : List Byte :=
  (List.range 256).map fun k => if trigDefined (k / 16) (k % 16) then BitVec.ofNat 8 (0x80 + k / 16) else 0#8

/-- A capture entry (R541): register address or offset, relative to the event's unit or not, half. -/
def capEntry (addr : Nat) (rel hi : Bool) : List Byte := leBytes 8 (addr + 2 * b2n rel + b2n hi)

/-- Both halves of a register as two capture entries, high half first. -/
def capReg (addr : Nat) (rel : Bool) : List Byte := capEntry addr rel true ++ capEntry addr rel false

/-- Default capture of list `g` (Table 17.6). Where the table names a value that no register holds
(`STACK_STATE` words, throttle state of the dies) the list has no entry for it (log 13). -/
def capDefault (g : Nat) : List Byte :=
  match g with
  | 1 => (List.range 6).flatMap fun j => capReg (0x20000000 + 8 * j) true
  | 3 => capReg 0 true ++ capReg 0x10 true
  | 4 => capReg 0 true ++ capReg 0x100 true ++ capReg 0x200 true
  | 5 => capReg 0x0F0800100000 false ++ (List.range 8).flatMap fun n => capReg (0x0F0022000000 + n / 2 * 2 ^ 32 + n % 2 * 0x10000) false
  | 6 => capReg 0x0F0800400008 false
  | 7 => capReg 0 true
  | 9 => capReg 0 true ++ capReg 0x28 true
  | _ => []

/-- A byte list brought to a length, with zeros behind it. -/
def padTo (n : Nat) (l : List Byte) : List Byte := (l ++ List.replicate (n - l.length) 0#8).take n

/-- Default of `PIT_CAPTURE_LISTS`: 32 lists of 48 entries of 8 B. -/
def capListsDefault : List Byte := (List.range 10).flatMap fun g => padTo 384 (capDefault g)

/-- Objects of indices 0x6100 to 0xF000. -/
def objsHigh : List (Nat × ObjDef) := [
  (0x610001, roBlob), (0x610002, roBlob), (0x610003, rwU 8 0 0 (2 ^ 64 - 1) .stp),
  (0x610004, { typ := .f32, acc := .ro }), (0x610301, rwBlob 64 .bnd false (leBytes 64 0)),
  (0x610401, rwU 2 0 0 4096 .qs), (0x610402, rwU 1 0 0 15 .qs), (0x610403, rwBlob 2046 .qs),
  (0x610404, rwU 8 0 0 (2 ^ 64 - 1) .qs), (0x610405, rwU 4 0 0 131072 .qs), (0x610406, rwU 8 0 0 (2 ^ 64 - 1) .qs true),
  (0x700001, roBlob), (0x700002, rwBlob (2 ^ 20) .qs true), (0x700003, roBlob),
  (0x700004, { typ := .blob 49, acc := .wo, row := true }), (0x700005, rwBlob 8192 .imm), (0x700006, roBlob),
  (0x701001, { typ := .blob (24 * 2 ^ 20), acc := .wo, expert := true, row := true }), (0x701002, roBlob),
  (0x701003, rwEnum 2 0 .imm true true), (0x701004, woU 1), (0x701005, woU 1), (0x701006, woU 1),
  (0x701007, { typ := .blob (48 * 2 ^ 20), acc := .wo, expert := true, row := true }),
  (0x701008, rwBlob 48 .qs true), (0x701009, woU 1),
  (0x710001, { typ := .blob 261, acc := .wo, row := true }), (0x710002, roBlob), (0x710003, woU 1 false), (0x710004, roBlob),
  (0x720001, rwBlob (2 ^ 20) .qs true),
  (0x800001, roBlob), (0x800002, roBlob), (0x800003, rwBlob 256 .qs true trigCfgDefault),
  (0x800004, rwBlob 12288 .qs true), (0x800005, roBlob), (0x800006, rwU 4 1024 1 (2 ^ 31) .qs),
  (0x800007, rwU 1 2 0 6 .imm), (0x800008, rwU 2 60 0 3600 .qs), (0x800009, roBlob), (0x80000A, woU 1),
  (0x800010, roBlob), (0x800011, rwU 4 10000 0 0xFFFFFFFF .qs), (0x800020, rwBlob 10240 .field), (0x800021, roBlob),
  (0x810001, rwU 1 4 0 6 .imm), (0x810002, roBlob), (0x820001, rwU 8 0 0 (2 ^ 64 - 1) .bnd true),
  (0x820002, rwU 8 0 0 (2 ^ 64 - 1) .stp true), (0x820003, rwU 8 0 0 (2 ^ 64 - 1) .stp true),
  (0x820004, { roU 8 with expert := true }), (0x830001, roBlob), (0x830002, woU 1), (0x830003, rwU 2 500 50 10000 .qs true),
  (0x900001, roBlob), (0xA00001, roBlob), (0xA00002, roBlob), (0xA00003, roU 4),
  (0xA00004, rwBlob 1024 .bnd true [] true),
  (0xF00001, rwU 8 0 0 (2 ^ 64 - 1) .imm true), (0xF00002, { typ := .u 8, acc := .rw, expert := true, cls := .field, row := true })]

/-- Objects of partition `p` (Table 15.8); the default of `PART_WINDOWS` of partition 0 is `defaultWindows`. -/
def objPart (p sub : Nat) : Option ObjDef :=
  match sub with
  | 1 => some (rwBool (p == 0) .stp false true)
  | 2 => some (rwU 1 p 0 255 .qs)
  | 3 => some { rwBlob 16 .qs with dflt := List.replicate 16 (if p = 0 then 255#8 else 0#8) }
  | 4 => some (rwBlob 512 .qs)
  | 5 => some (rwBlob 32 .qs false (List.replicate 32 255#8))
  | 6 => some (rwU 4 0 0 6000 .qs)
  | 7 => some (rwU 1 1 1 255 .qs)
  | 8 => some roBlob
  | 9 => some (roU 4)
  | 10 => some { typ := .str 64, acc := .rw }
  | _ => none

/-- The definition of an object by its key; none where no table lists it (R488). -/
def objDef (key : Nat) : Option ObjDef :=
  let idx := key / 256
  let sub := key % 256
  if 0x9100 ≤ idx ∧ idx ≤ 0x910F then objPart (idx - 0x9100) sub
  else if idx = 0x2100 then if 1 ≤ sub ∧ sub ≤ 64 then some (rwBlob 32 .field) else none
  else if idx = 0x4400 ∧ 1 ≤ sub ∧ sub ≤ 16 then some (rwBlob 16 .qs false (leBytes 16 0))
  else if idx = 0x6101 then if 1 ≤ sub ∧ sub ≤ 16 then some (rwBlob (2 ^ 16) .qs true) else none
  else if idx = 0x6102 then if 1 ≤ sub ∧ sub ≤ 8 then some (rwBlob (2 ^ 20) .qs) else none
  else if key = 0x800004 then some { rwBlob 12288 .qs true with dflt := padTo 12288 capListsDefault }
  else mfind (if idx < 0x4000 then objsLow else if idx < 0x6000 then objsMid else objsHigh) key

/-- Length in bytes of a value of a fixed-length type; none for text and blobs. -/
def OTyp.fixed : OTyp → Option Nat
  | .bool => some 1
  | .u n => some n
  | .f32 => some 4
  | .enum _ => some 2
  | .str _ => none
  | .blob _ => none

end Sys2Proof.Machine
end

