-- ==== Sys2Proof/Machine/Ops.lean ====
section
/-!
DEFINITION. Operations every meaning is written over: configuration reads, Pace time, free values, raw
bytes and poison of the one coherent memory, interrupts and Pit Log events.
-/
namespace Sys2Proof.Machine
open Sys2Proof

/-- What a meaning answers. -/
abbrev Out := Host.Outcome State Fault Refusal

/-! ### Units -/

/-- Tower `t`. -/
def tow (s : State) (t : Nat) : Tower := mget s.towers t {}
/-- The state with tower `t` replaced. -/
def setTow (s : State) (t : Nat) (x : Tower) : State := { s with towers := mset s.towers t x }
/-- Cluster `c`. -/
def clu (s : State) (c : Nat) : Cluster := mget s.clusters c {}
/-- The state with cluster `c` replaced. -/
def setClu (s : State) (c : Nat) (x : Cluster) : State := { s with clusters := mset s.clusters c x }
/-- Stack `k`. -/
def stk (s : State) (k : Nat) : Stack := mget s.stackUnits k {}
/-- The state with stack `k` replaced. -/
def setStk (s : State) (k : Nat) (x : Stack) : State := { s with stackUnits := mset s.stackUnits k x }
/-- Update engine `n`. -/
def ue (s : State) (n : Nat) : Ue := mget s.ues n {}
/-- The state with update engine `n` replaced. -/
def setUe (s : State) (n : Nat) (x : Ue) : State := { s with ues := mset s.ues n x }
/-- Port `p`. -/
def prt (s : State) (p : Nat) : Port := mget s.ports p {}
/-- The state with port `p` replaced. -/
def setPrt (s : State) (p : Nat) (x : Port) : State := { s with ports := mset s.ports p x }
/-- Command queue `q`. -/
def cq (s : State) (q : Nat) : CmdQueue := mget s.queues q {}
/-- The state with command queue `q` replaced. -/
def setCq (s : State) (q : Nat) (x : CmdQueue) : State := { s with queues := mset s.queues q x }
/-- Bucket entry `b`. -/
def bkt (s : State) (b : Nat) : Bucket := mget s.buckets b {}
/-- The state with bucket entry `b` replaced. -/
def setBkt (s : State) (b : Nat) (x : Bucket) : State := { s with buckets := mset s.buckets b x }
/-- Copy engine `e`. -/
def cpe (s : State) (e : Nat) : CopyEngine := mget s.copyEngines e {}
/-- The state with copy engine `e` replaced. -/
def setCpe (s : State) (e : Nat) (x : CopyEngine) : State := { s with copyEngines := mset s.copyEngines e x }
/-- Firmware processor `p` (R424). -/
def fwp (s : State) (p : Nat) : Fw := mget s.fw p {}
/-- The state with firmware processor `p` replaced. -/
def setFwp (s : State) (p : Nat) (x : Fw) : State := { s with fw := mset s.fw p x }
/-- Whether firmware processor `p` runs (R15: its duties wait while it restarts). -/
def fwRuns (s : State) (p : Nat) : Bool := (fwp s p).mode == .running
/-- Tower of a cluster ID, its level (2 or 3) and its index on the die (chapter 0, R126). -/
def cluTower (c : Nat) : Nat := c / 32
def cluLevel (c : Nat) : Nat := 2 + c / 16 % 2
/-- Compute die of a cluster, in tower then level order (Table 14.11, `ARITH_POINT`). -/
def cluDie (c : Nat) : Nat := c / 16

/-- Whether the module's engines issue: it boots or has booted (R537: nothing issues after a FATAL error). -/
def alive (s : State) : Bool := s.boot.phase == .booted || s.boot.phase == .booting

/-! ### Free values -/

/-- A fresh free value below `n`, and the state that has drawn it (log 1). -/
def draw (s : State) (n : Nat) : Nat × State := (Config.freeNat s.free % n, { s with free := s.free + 1 })

/-! ### Raw memory -/

/-- The byte at an address: a byte nothing has written reads 0 (log 14). -/
def cellGet : List Host.Cell → Nat → Byte
  | [], _ => 0#8
  | (b, v) :: m, a => if b = a then v else cellGet m a

/-- Memory with byte `v` at `a`, in canonical form: addresses strictly rising, no zero listed. -/
def cellPut : List Host.Cell → Nat → Byte → List Host.Cell
  | [], a, v => if v = 0#8 then [] else [(a, v)]
  | (b, w) :: m, a, v =>
    if b < a then (b, w) :: cellPut m a v
    else if b = a then if v = 0#8 then m else (a, v) :: m
    else if v = 0#8 then (b, w) :: m else (a, v) :: (b, w) :: m

/-- Memory with consecutive bytes from `a` replaced. -/
def cellsPut (m : List Host.Cell) (a : Nat) : List Byte → List Host.Cell
  | [] => m
  | v :: vs => cellsPut (cellPut m a v) (a + 1) vs

/-- Memory with every byte from `lo` up to, not including, `hi` zero. -/
def cellsZero (m : List Host.Cell) (lo hi : Nat) : List Host.Cell := m.filter fun c => decide (c.1 < lo) || decide (hi ≤ c.1)

/-- Whether a cell list has its canonical form above address `lo`. -/
def cellsWfFrom : Nat → List Host.Cell → Bool
  | _, [] => true
  | lo, (a, v) :: m => decide (lo ≤ a) && decide (v ≠ 0#8) && cellsWfFrom (a + 1) m

/-- The canonical form of memory: addresses strictly rising, no entry equal to an unlisted byte. -/
def Memory.wf (m : List Host.Cell) : Bool := cellsWfFrom 0 m

/-- `n` consecutive bytes of memory. -/
def readMem (s : State) (a n : Nat) : List Byte := (List.range n).map fun i => cellGet s.mem (a + i)

/-- The little-endian value of `n` bytes of memory. -/
def readNat (s : State) (a n : Nat) : Nat := leNat (readMem s a n)

/-- First address of the shared-local-memory windows, and of the region after them (Table 3.1). -/
def slmBase : Nat := 0x090000000000
def slmEnd : Nat := 0x090080000000

/-- Whether an address lies in the shared-local-memory windows. -/
def inSlm (a : Nat) : Bool := decide (slmBase ≤ a) && decide (a < slmEnd)

/-- Guarded unit an address lies in: its first address and length (R77; R111 for shared local memory),
and its number in the poison list. -/
def unitOf (a : Nat) : Nat × Nat × Nat :=
  if inSlm a then (a / 8 * 8, 8, 2 ^ 48 + a / 8) else (a / 64 * 64, 64, a / 64)

/-- The poison-list numbers of the units that bytes `a` to `a + n − 1` touch. -/
def unitsOf (a n : Nat) : List Nat :=
  if n = 0 then [] else
  let w := (unitOf a).2.1
  (List.range ((a + n - 1) / w - a / w + 1)).map fun i => (unitOf ((a / w + i) * w)).2.2

/-- Whether any unit that the bytes touch is poisoned. -/
def poisoned (s : State) (a n : Nat) : Bool := (unitsOf a n).any fun u => s.poison.contains u

/-- The poison list after a write of `n` bytes at `a` (R82): poisoned data poisons every unit it reaches,
a write of a whole unit clears it, a partial write leaves it. -/
def poisonAfter (p : List Nat) (a n : Nat) (tag : Bool) : List Nat :=
  let w := (unitOf a).2.1
  if tag then (unitsOf a n).foldl addOnce p
  else
    let first := (a + w - 1) / w
    let last := (a + n) / w
    let whole := (List.range (last - first)).map fun i => (unitOf ((first + i) * w)).2.2
    p.filter fun u => !whole.contains u

/-- Write bytes at `a`, with the poison tag of their data. -/
def writeMem (s : State) (a : Nat) (bs : List Byte) (tag : Bool := false) : State :=
  { s with mem := cellsPut s.mem a bs, poison := poisonAfter s.poison a bs.length tag }

/-- Write an `n`-byte little-endian value. -/
def writeNat (s : State) (a n v : Nat) (tag : Bool := false) : State := writeMem s a (leBytes n v) tag

/-- Set the bytes from `lo` up to `hi` to zero with valid code. -/
def zeroMem (s : State) (lo hi : Nat) : State :=
  { s with
    mem := cellsZero s.mem lo hi
    poison := s.poison.filter fun u =>
      if u < 2 ^ 48 then decide (u * 64 + 64 ≤ lo) || decide (hi ≤ u * 64)
      else decide ((u - 2 ^ 48) * 8 + 8 ≤ lo) || decide (hi ≤ (u - 2 ^ 48) * 8) }

/-! ### Memory map that configuration and boot fix -/

/-- First deep-tier address of update engine `n` (R73). -/
def deepBase (n : Nat) : Nat := 0x040000000000 + 0x003000000000 * n

/-- Whether update engine `n`'s range is mapped: it was started at boot (R54, R76). -/
def ueMapped (s : State) (n : Nat) : Bool := mget s.packages (4 * n) .skipped != .skipped

/-- The four bases of the operating-system region (R74): the top 16 GiB of UE 2t, or of its partner
where UE 2t was skipped. -/
def osBases (s : State) : List Nat :=
  (List.range 4).map fun t => deepBase (if ueMapped s (2 * t) then 2 * t else 2 * t + 1) + 0x002C00000000

/-- Length of one part of the operating-system region. -/
def osPart : Nat := 0x000400000000

/-- Whether a byte range meets the operating-system region. -/
def meetsOs (s : State) (a n : Nat) : Bool := (osBases s).any fun b => decide (a < b + osPart) && decide (b < a + n)

/-- Whether a byte range lies wholly in the operating-system region. -/
def inOs (s : State) (a n : Nat) : Bool := (osBases s).any fun b => decide (b ≤ a) && decide (a + n ≤ b + osPart)

/-- A `PART_WINDOWS` entry (Table 15.8): first address with R, W, X in [63:61], last address. -/
def winEntry (perm first last : Nat) : List Byte := leBytes 8 (perm * 2 ^ 61 + first) ++ leBytes 8 last

/-- The default windows of partition 0: each region of Table 3.1 except register space, less the
operating-system region, each with R, W and X. -/
def defaultWindows (s : State) : List Byte :=
  let cuts := osBases s
  let rec deep (lo : Nat) : List Nat → List Byte
    | [] => winEntry 7 lo 0x057FFFFFFFFF
    | b :: bs => winEntry 7 lo (b - 1) ++ (if b + osPart ≤ 0x057FFFFFFFFF then deep (b + osPart) bs else [])
  (if s.stackMap.isEmpty then [] else winEntry 7 0 (0xC00000000 * s.stackMap.length - 1)) ++ deep 0x040000000000 cuts ++ winEntry 7 0x080000000000 0x08017FFFFFFF
    ++ winEntry 7 slmBase (slmEnd - 1) ++ winEntry 7 0x0A0000000000 0x0AFFFFFFFFFF

/-! ### Configuration -/

/-- Default value of an object. -/
def objDefault (s : State) (key : Nat) : List Byte :=
  if key = 0x910004 then defaultWindows s else
  match objDef key with
  | some d => d.dflt
  | none => []

/-- The active value of an object that stores one. -/
def cfgB (s : State) (key : Nat) : List Byte := (mfind s.active key).getD (objDefault s key)

/-- The active value of an integer object. -/
def cfg (s : State) (key : Nat) : Nat := leNat (cfgB s key)

/-- The shadow value of a class Q object (R476). -/
def shadowB (s : State) (key : Nat) : List Byte := (mfind s.shadow key).getD (cfgB s key)

/-- The value in force of a class B step object: the one before the write while the write waits for its
boundary (R474). -/
def inForceB (s : State) (key : Nat) : List Byte := (mfind s.heldB key).getD (cfgB s key)

/-- The integer value in force of a class B step object. -/
def inForce (s : State) (key : Nat) : Nat := leNat (inForceB s key)

/-- Bytes `i` to `i + n − 1` of a value, absent bytes reading 0, as a number. -/
def subNat (b : List Byte) (i n : Nat) : Nat := leNat ((b.drop i).take n)

/-- Object key of partition `p`. -/
def partKey (p sub : Nat) : Nat := (0x9100 + p) * 256 + sub

/-- Whether partition `p` is in use (R481). -/
def partOn (s : State) (p : Nat) : Bool := decide (p < 16) && decide (cfg s (partKey p 1) = 1)

/-- Cluster IDs of partition `p`'s quota (`PART_CLUSTERS`). -/
def partClusters (s : State) (p : Nat) : List Nat := (List.range 128).filter fun c => bit (cfg s (partKey p 3)) c

/-- Windows a `PART_WINDOWS` value lists: permissions [2] R [1] W [0] X, first and last address. -/
def windowsOf (b : List Byte) : List (Nat × Nat × Nat) :=
  (List.range (b.length / 16)).map fun i =>
    let f := subNat b (16 * i) 8
    (f / 2 ^ 61, f % 2 ^ 48, subNat b (16 * i + 8) 8 % 2 ^ 48)

/-- Whether some entry of the partition's windows holds every byte of the access and grants it (R482).
`perm` is 4 for R, 2 for W, 1 for X, or a sum of them. -/
def inWindows (s : State) (p a n perm : Nat) : Bool :=
  partOn s p && (windowsOf (cfgB s (partKey p 4))).any fun w =>
    decide (w.2.1 ≤ a) && decide (a + n ≤ w.2.2 + 1) && decide (w.1 &&& perm = perm)

/-! ### Pace time -/

/-- `ARITH` frequency of a DVFS point in MHz (Table 14.5). -/
def arithMHz (pt : Nat) : Nat := match pt with | 0 => 700 | 1 => 600 | 2 => 500 | _ => 350

/-- DVFS state of compute die `d`. -/
def dvfs (s : State) (d : Nat) : Dvfs := mget s.power.dvfs d {}

/-- Point a die runs at: during a change the lower of the old and new frequencies (R447). -/
def Dvfs.point (x : Dvfs) : Nat := max x.inForce (x.target.getD x.inForce)

/-- Advance Pace time by `dt` ns: the `ARITH` cycle counts of the eight compute dies advance with their
frequencies (R131, R432). -/
def advance (s : State) (dt : Nat) : State :=
  let f := fun (m : Map Nat × Map Nat) d =>
    let x := mget s.cyclePart d 0 + dt * arithMHz (dvfs s d).point
    (mset m.1 d (mget s.cycles d 0 + x / 1000), mset m.2 d (x % 1000))
  let cp := (List.range 8).foldl f (s.cycles, s.cyclePart)
  { s with pace.now := s.pace.now + dt, cycles := cp.1, cyclePart := cp.2 }

/-- Move Pace time up to `now`; it never moves back (R433), and stands while the counter is off. -/
def clock (s : State) (now : Nat) : State :=
  if s.pace.on ∧ s.pace.now < now then advance s (now - s.pace.now) else s

/-- One `PACE` cycle on an empty queue (log 9). -/
def tick (s : State) : State := if s.pace.on then advance s 1 else s

/-- Whether `ms` milliseconds have passed since a Pace time. -/
def elapsedMs (s : State) (since ms : Nat) : Bool := decide (since + ms * 1000000 ≤ s.pace.now)

/-! ### Interrupts, Pit Log events, trace -/

/-- Raise interrupt source `src` (R402, R468): a message to the core, file and identity of its route,
where the identity is not 0, and a `NOTIFY` to every session that subscribes. A route entry is 2 B:
identity [7:0], core [11:8], file [14:12] (log 15). -/
def irq (s : State) (src : Nat) : State :=
  let r := subNat (cfgB s 0x500101) (2 * src) 2
  { s with
    irqs := s.irqs ++ [src]
    msis := if r % 256 = 0 then s.msis else s.msis ++ [(fld r 11 8, fld r 14 12, fld r 7 0)]
    sessions := s.sessions.map fun x =>
      if bit (leNat x.2.notify) src then (x.1, { x.2 with notices := x.2.notices ++ [(src, s.pace.now)] }) else x }

/-- Configuration byte of a trigger: [7] enable, [4:0] list (Table 17.8). -/
def trigByte (s : State) (trig : Nat) : Nat := subNat (cfgB s 0x800003) (16 * (trig / 256) + trig % 256) 1

/-- An event happens: a record's "at the event" fields are latched and the event joins the recorder's
queue of 256, or is lost (R542, R545). -/
def pitEvent (s : State) (trig unit : Nat) (status addr det0 det1 : Nat := 0) : State :=
  if bit (trigByte s trig) 7 = false then s
  else if s.pit.queue.length < 256 then
    let e : PitEvent :=
      { trig := trig, unit := unit, status := status, addr := addr, det0 := det0, det1 := det1 % 2 ^ 32
        opSec := s.opSeconds, pcycle := s.kept.powerCycles, pace := s.pace.now }
    { s with pit.queue := s.pit.queue ++ [e] }
  else { s with pit.dropped := s.pit.dropped + 1, pit.dropFlag := true }

/-- A unit's CORRECTED error is counted (R534): the hourly count, the Pit Log record at the first and at
each multiple of the stride, and source 0x1B6 once an hour above the threshold. -/
def correctedError (s : State) (unit addr : Nat) : State :=
  let n := mget s.pit.corrected unit 0 + 1
  let h := mget s.pit.hourly unit 0 + 1
  let s := { s with pit.corrected := mset s.pit.corrected unit n, pit.hourly := mset s.pit.hourly unit h }
  let s := if n = 1 ∨ n % max 1 (cfg s 0x800006) = 0 then pitEvent s 0x0902 0xFFFF 0 addr unit else s
  if h > cfg s 0x800011 ∧ ¬ s.pit.raised.contains unit then
    irq { s with pit.raised := s.pit.raised ++ [unit] } 0x1B6
  else s

/-- A DEFERRED error creates poison in a unit (R535). -/
def poisonError (s : State) (unit addr : Nat) : State :=
  irq (pitEvent { s with pit.poisonMade := mset s.pit.poisonMade unit (mget s.pit.poisonMade unit 0 + 1) } 0x0903 0xFFFF 0 addr unit) 0x1B4

/-- A later read of poison is counted (R535). -/
def poisonRead (s : State) (unit : Nat) : State :=
  { s with pit.poisonUsed := mset s.pit.poisonUsed unit (mget s.pit.poisonUsed unit 0 + 1) }

end Sys2Proof.Machine
end

