-- ==== Sys2Proof/Machine/Operands.lean ====
section
/-!
DEFINITION. Memory accesses (chapter 3): where an address is homed, the checks of R10, R40, R45, R54, R62 and
R482 in order, the near-store cache, poison, the Reed–Solomon decoder, and the read, write, atomic and
accumulate-write every engine is modelled with.
-/
namespace Sys2Proof.Machine
open Sys2Proof

/-! ### Address map -/

/-- Where an address is homed (Table 3.1, R53, R376). -/
inductive Home where
  | fast (stack : Nat)
  | deep (pkg : Nat)
  | scratch (t : Nat)
  | slm (c : Nat)
  | window
  | regs
  | none
deriving DecidableEq, Repr

/-- Bank of a tower's near store that holds the line at byte offset `o` of the tower's window (R56). -/
def nsBank (o : Nat) : Nat := (o / 128 + o / 128 / 4096) % 192

/-- Slot of granule `g` in the interleave over `n` stacks (R68). -/
def stackSlot (n g : Nat) : Nat :=
  if n = 32 then
    fld g 4 0 ^^^ fld g 9 5 ^^^ fld g 14 10 ^^^ fld g 19 15 ^^^ fld g 24 20 ^^^ fld g 28 25
  else (g + g / n) % n

/-- Granule of its stack that holds granule `g` (R68). -/
def stackGranule (n g : Nat) : Nat := if n = 32 then g / 32 else g / n

/-- Channel and pseudo-channel of the stack that hold the line of a fast-tier address (R68). -/
def stackChannel (n a : Nat) : Nat × Nat :=
  let sg := stackGranule n (a / 4096)
  (fld a 11 7 ^^^ fld sg 4 0, fld sg 5 5)

/-- End of the fast tier (R69): N × 48 GiB. -/
def fastEnd (s : State) : Nat := 0xC00000000 * s.stackMap.length

/-- Scratch units in force of tower `t` (R57, R60). -/
def scratchUnits (s : State) (t : Nat) : Nat := min 6 (tow s t).scratchUnits

/-- Home of an address; `none` where R54 leaves it unmapped. -/
def home (s : State) (a : Nat) : Home :=
  if a < fastEnd s then
    .fast (s.stackMap.getD (stackSlot s.stackMap.length (a / 4096)) 0)
  else if 0x040000000000 ≤ a ∧ a < 0x058000000000 then
    let n := (a - 0x040000000000) / 0x003000000000
    if ueMapped s n then
      let g := (a - deepBase n) / 4096
      .deep (4 * n + (fld g 1 0 ^^^ fld g 3 2))
    else .none
  else if 0x080000000000 ≤ a ∧ a < 0x080180000000 then
    let t := (a - 0x080000000000) / 0x60000000
    if (tow s t).untrained then .none
    else if (a - 0x080000000000) % 0x60000000 < scratchUnits s t * 0x10000000 then .scratch t else .none
  else if slmBase ≤ a ∧ a < slmEnd then
    if a % 0x01000000 < 0x100000 then .slm ((a - slmBase) / 0x01000000) else .none
  else if 0x0A0000000000 ≤ a ∧ a < 0x0B0000000000 then .window
  else if 0x0F0000000000 ≤ a ∧ a ≤ 0x0F08FFFFFFFF then .regs
  else .none

/-- Whether an address lies in module-local memory: a mapped home that is neither a window nor register space. -/
def localMemory (s : State) (a : Nat) : Bool :=
  match home s a with
  | .fast _ | .deep _ | .scratch _ | .slm _ => true
  | _ => false

/-- Error-count unit of a home: 0 to 3 near stores, 4 to 35 stacks, 36 to 67 packages, 68 to 195 clusters. -/
def Home.unit : Home → Nat
  | .scratch t => t
  | .fast k => 4 + k
  | .deep p => 36 + p
  | .slm c => 68 + c
  | _ => 196

/-- Tower and level of an address that targets L1, L2 or L3 of a tower: near-store scratch, a
shared-local-memory window, or a register block of the level (R40, R45, R48). -/
def targetLevel (s : State) (a : Nat) : Option (Nat × Nat) :=
  match home s a with
  | .scratch t => some (t, 1)
  | .slm c => some (cluTower c, cluLevel c)
  | .regs =>
    let t := (a - 0x0F0000000000) / 2 ^ 32
    let l := a / 2 ^ 30 % 4
    if t < 4 ∧ 0 < l then some (t, l) else none
  | _ => none

/-- Level of tower `t` that an access to `a` ends at: 0 where its target is no level of that tower (R27). -/
def levelOf (s : State) (a t : Nat) : Nat :=
  match targetLevel s a with
  | some (u, l) => if u = t then l else 0
  | none => 0

/-- Levels whose pass-through relays carry traffic between levels `l` and `m` of one tower: every level in between (R27). -/
def relays (l m : Nat) : List Nat := (List.range 4).filter fun k => decide (min l m < k) && decide (k < max l m)

/-- Tower and level an issuer is an endpoint of: a crew, an array and a transposing load sit on their cluster's level; every
other issuer sits on L0 or beyond it. -/
def issLevel (x : Issuer) : Option (Nat × Nat) :=
  match x.kind with
  | .crew => some (cluTower x.unit, cluLevel x.unit)
  | .array => some (cluTower x.unit, cluLevel x.unit)
  | .tld => some (cluTower x.unit, cluLevel x.unit)
  | _ => none

/-- What the way of a transaction does to it: nothing; a tower reset of its tower meets it in a relay (R48); the level of its
issuer is in reset (R46); a relay on its path has left service (R40). -/
inductive Flight where
  | free | lost | stopped | cut
deriving DecidableEq, Repr

/-- How a transaction of an issuer to address `a` fares on its way (R27, R40, R46, R48). -/
def flight (s : State) (iss : Issuer) (a : Nat) : Flight :=
  match issLevel iss with
  | none => .free
  | some (t, l) =>
    let x := tow s t
    let rs := relays l (levelOf s a t)
    if x.reset ≠ .none then (if rs.isEmpty then .free else .lost)
    else if mget x.levelReset l .none ≠ .none then .stopped
    else if rs.any fun k => x.levelsOut.contains k then .cut else .free

/-- Status of a target level: `RESET_ABORTED` under a tower or level reset, `LEVEL_OUT_OF_SERVICE`, or `OK`. -/
def levelStatus (s : State) (a : Nat) : Nat :=
  match targetLevel s a with
  | some (t, l) =>
    let x := tow s t
    if x.reset ≠ .none ∨ mget x.levelReset l .none ≠ .none then 1
    else if x.levelsOut.contains l then 3 else 0
  | none => 0

/-- Whether a failed stack or package homes the address (R72, R76). -/
def failedHome (s : State) (a : Nat) : Bool :=
  match home s a with
  | .fast k => (stk s k).st == .failed
  | .deep p => mget s.packages p .skipped == .failed
  | _ => false

/-- Who may write the operating-system region (R10): the cores, the message receive path and the Camlis
server's responses. -/
def osWriter : IssKind → Bool
  | .core => true
  | .msgRx => true
  | .camlis => true
  | _ => false

/-- Permission an access needs: R 4, W 2, X 1 (R482). -/
def xkPerm : XKind → Nat
  | .load => 4
  | .fetch => 1
  | .atom _ _ => 6
  | _ => 2

/-- Whether an access writes. -/
def xkWrites : XKind → Bool
  | .load => false
  | .fetch => false
  | _ => true

/-- Status of the address checks of an access (R54, R10, R482), then of its target level (R40, R45, R48):
`ADDR_UNMAPPED` 4, `OUT_OF_BOUNDS` 5, `RESET_ABORTED` 1, `LEVEL_OUT_OF_SERVICE` 3, or 0. -/
def accessStatus (s : State) (iss : Issuer) (k : XKind) (a n : Nat) : Nat :=
  if home s a = .none ∨ home s (a + n - 1) = .none then 4
  else if xkWrites k && !osWriter iss.kind && meetsOs s a n then 5
  else if (match iss.part with | some p => !inWindows s p a n (xkPerm k) | none => false) then 5
  else if levelStatus s a ≠ 0 then levelStatus s a else levelStatus s (a + n - 1)

/-! ### Near-store cache (R58 to R61, R570) -/

/-- Victim way of a tree pseudo-LRU set of `n` ways; `b` holds bit i of the tree at bit i (R570). -/
def plruVictim (n b : Nat) : Nat :=
  let rec go : Nat → Nat → Nat
    | 0, i => i
    | f + 1, i => if i < n then go f (2 * i + b2n (b.testBit i)) else i
  go 5 1 - n

/-- The set's bits after a hit or fill of way `w`. -/
def plruTouch (n b w : Nat) : Nat :=
  let rec go : Nat → Nat → Nat → Nat
    | 0, _, b => b
    | f + 1, i, b => if 1 < i then go f (i / 2) (setFld b (i / 2) (i / 2) (1 - i % 2)) else b
  go 5 (w + n) b

/-- Number of sets of tower `t`'s near-store cache: the units that are not scratch, in 16 ways of 128 B. -/
def nsSets (s : State) (t : Nat) : Nat := (6 - scratchUnits s t) * 131072

/-- Whether accesses to tower `t`'s stacks pass its near-store cache. -/
def nsInUse (s : State) (t : Nat) : Bool := (tow s t).cacheMode == .normal && decide (0 < nsSets s t)

/-- The tower's cache after an access to fast-tier line `line` (R58, R59, R570): the hit or fill, the way
replaced, and the line's dirty mark under the policy (0 WRITE_BACK, 1 WRITE_THROUGH, 2 READ_ALLOCATE). DESIGN CHOICE: a
line that is dirty when a Quickset takes the policy away from WRITE_BACK stays dirty (log 113). -/
def nsAccess (x : Tower) (sets policy line : Nat) (write : Bool) : Tower :=
  let dirtyNow := write && policy == 0
  match x.lines.find? (fun l => l.line == line) with
  | some l =>
    { x with
      lines := x.lines.map fun y =>
        if y.line = line then { y with dirty := y.dirty || dirtyNow, under := if dirtyNow then [] else y.under } else y
      plru := mset x.plru l.set (plruTouch 16 (mget x.plru l.set 0) l.way) }
  | none =>
    if write && policy == 2 then x else
    let set := Config.nsSet line sets % sets
    let used := (x.lines.filter fun l => l.set == set).map (·.way)
    let b := mget x.plru set 0
    let way := ((List.range 16).find? fun w => !used.contains w).getD (plruVictim 16 b)
    { x with
      lines := (x.lines.filter fun l => !(l.set == set && l.way == way)) ++ [{ line, set, way, dirty := dirtyNow }]
      plru := mset x.plru set (plruTouch 16 b way) }

/-- Add an error pattern (symbol, value) to the data bytes of the 64 B unit at `base`. -/
def xorUnit (s : State) (base : Nat) (errs : List (Nat × Nat)) : State :=
  errs.foldl (fun s e =>
    if e.1 < 64 then { s with mem := cellPut s.mem (base + e.1) (cellGet s.mem (base + e.1) ^^^ BitVec.ofNat 8 e.2) } else s) s

/-- A clean line has left the cache: the stack's own copy is read again, with what a patrol found wrong in it (R79, R81). -/
def uncover (s : State) (l : NsLine) : State :=
  if l.dirty then s else
  l.under.foldl (fun s e =>
    let u := l.line * 2 + e.1
    xorUnit { s with poison := addOnce s.poison u } (u * 64) [e.2]) s

/-- Whether tower `t`'s near-store cache holds the line of an address. -/
def cached (s : State) (a : Nat) : Bool :=
  match home s a with
  | .fast k => nsInUse s (k / 8) && (tow s (k / 8)).lines.any fun l => l.line == a / 128
  | _ => false

/-- The state after an access of bytes `a` to `a + n − 1` of one line has looked up the near-store cache of the
stack's tower; no effect on other homes or while the cache is out of use. A write of a whole unit mends the stack's copy of
it too. -/
def nsTouch (s : State) (a n : Nat) (write : Bool) : State :=
  match home s a with
  | .fast k =>
    let t := k / 8
    if nsInUse s t then
      let x := tow s t
      let y := nsAccess x (nsSets s t) (cfg s 0x310002) (a / 128) write
      let whole := fun (l : NsLine) (e : Nat × Nat × Nat) =>
        write && decide (a ≤ (l.line * 2 + e.1) * 64) && decide ((l.line * 2 + e.1 + 1) * 64 ≤ a + n)
      let y := { y with lines := y.lines.map fun l => { l with under := l.under.filter fun e => !whole l e } }
      (x.lines.filter fun l => !(y.lines.any fun m => m.line == l.line)).foldl uncover (setTow s t y)
    else s
  | _ => s

/-- Tower `t`'s near-store cache loses every line, and every tree bit is 0. -/
def emptyCache (s : State) (t : Nat) : State :=
  (tow s t).lines.foldl uncover (setTow s t { tow s t with lines := [], plru := [] })

/-- Whether an access to the address waits: its stack is excluded and the line is not in the cache (R70),
or the cache of its tower writes back or is held (R60, R61). -/
def waits (s : State) (a : Nat) : Bool :=
  match home s a with
  | .fast k =>
    let x := tow s (k / 8)
    x.cacheMode == .writeback || x.cacheMode == .held
      || ((stk s k).st == .excluded && !cached s a)
  | _ => false

/-- One element's addition (R63). -/
def accwAdd (int : Bool) (a b : Nat) : Nat × Bool := if int then ((a + b) % 2 ^ 32, false) else f32.fadd a b

/-- Apply an accumulate-write to its line (R63, R66): each element whose mask bit is 1. Poisoned data poisons the units it
reaches; a poisoned unit stays so. -/
def accwLine (s : State) (w : AccWrite) : State :=
  let f := fun (acc : State × Nat) i =>
    if w.mask.getLsbD i then
      let a := w.addr + 4 * i
      let r := accwAdd w.int (readNat acc.1 a 4) (w.data.getD i 0#32).toNat
      ({ acc.1 with mem := cellsPut acc.1.mem a (leBytes 4 r.1) }, acc.2 + b2n r.2)
    else acc
  let r := (List.range 32).foldl f (s, 0)
  let hit := (List.range 32).filter fun i => w.mask.getLsbD i
  let s := { r.1 with accwSat := r.1.accwSat + r.2 }
  if w.poison then { s with poison := hit.foldl (fun p i => addOnce p ((w.addr + 4 * i) / 64)) s.poison } else s

/-- Apply the acknowledged accumulate-writes that wait in the adders for a line the bytes touch, in their order: every
access after the acknowledgement observes them (R392). -/
def drainLines (s : State) (a n : Nat) : State :=
  (List.range 4).foldl (fun s t =>
    let mine := fun (w : AccWrite) => decide (a / 128 ≤ w.addr / 128) && decide (w.addr / 128 ≤ (a + n - 1) / 128)
    let x := tow s t
    if x.adder.any mine then (x.adder.filter mine).foldl accwLine (setTow s t { x with adder := x.adder.filter fun w => !mine w }) else s) s

/-! ### Reads, writes, atomics -/

/-- Bytes `a` to `a + n − 1` cut where 128 B lines begin. -/
def linePieces (a n : Nat) : List (Nat × Nat) :=
  if n = 0 then [] else
  (List.range ((a + n - 1) / 128 - a / 128 + 1)).map fun i =>
    let lo := max a ((a / 128 + i) * 128)
    (lo, min (a + n) ((a / 128 + i + 1) * 128) - lo)

/-- A read within one line, whose address has passed its checks: the data, with a poison tag where a unit is
poisoned or the stack or package has failed (R72, R82). Each read of poison is counted (R535). -/
def lineRead (s : State) (a n : Nat) : State × List Byte × Bool :=
  let s := drainLines s a n
  let bs := readMem s a n
  let u := (home s a).unit
  let s := nsTouch s a n false
  if failedHome s a then (poisonError s u a, bs, true)
  else if poisoned s a n then (poisonRead s u, bs, true)
  else (s, bs, false)

/-- A read of memory whose address has passed its checks: each line at its own home (R58, R72). -/
def memRead (s : State) (a n : Nat) : State × List Byte × Bool :=
  (linePieces a n).foldl (fun (r : State × List Byte × Bool) p =>
    let x := lineRead r.1 p.1 p.2
    (x.1, r.2.1 ++ x.2.1, r.2.2 || x.2.2)) (s, [], false)

/-- A failed stack or package discards a write or atomic with `MEM_FAILED`, recorded (R72, R76). -/
def failedWrite (s : State) (a : Nat) : State :=
  pitEvent s 0x0203 (match home s a with | .fast k => k | .deep p => 0x20 + p | _ => 0) 9 a

/-- A write within one line whose address has passed its checks, with its status (R72, R82). -/
def lineWrite (s : State) (a : Nat) (bs : List Byte) (tag : Bool) : State × Nat :=
  let s := drainLines s a bs.length
  if failedHome s a then (failedWrite s a, 9)
  else (nsTouch (writeMem s a bs tag) a bs.length true, 0)

/-- A write of memory whose address has passed its checks, line by line, with the status of the last that fails. -/
def memWrite (s : State) (a : Nat) (bs : List Byte) (tag : Bool) : State × Nat :=
  (linePieces a bs.length).foldl (fun (r : State × Nat) p =>
    let x := lineWrite r.1 p.1 ((bs.drop (p.1 - a)).take p.2) tag
    (x.1, if x.2 = 0 then r.2 else x.2)) (s, 0)

/-- A checked load by an engine: the status, the data (zero unless applied) and its poison tag. -/
def load (s : State) (iss : Issuer) (a n : Nat) (k : XKind := .load) : State × Nat × List Byte × Bool :=
  let st := accessStatus s iss k a n
  if st ≠ 0 then (s, st, List.replicate n 0#8, false)
  else
    let (s, bs, p) := memRead s a n
    (s, if p then 8 else 0, bs, p)

/-- A checked store by an engine, with its status. -/
def store (s : State) (iss : Issuer) (a : Nat) (bs : List Byte) (tag : Bool := false) : State × Nat :=
  let st := accessStatus s iss .store a bs.length
  if st ≠ 0 then (s, st) else memWrite s a bs tag

/-- An atomic operation on values of `n` bits (R118, R120, Table 4.5): the new value and whether an `FADD`
saturated. Codes are those of R141's `OP`. -/
def atomOp (op n old x y : Nat) : Nat × Bool :=
  match op with
  | 0x4 => ((old + x) % 2 ^ n, false)
  | 0x5 => (if sext n x < sext n old then x else old, false)
  | 0x6 => (min old x, false)
  | 0x7 => (if sext n old < sext n x then x else old, false)
  | 0x8 => (max old x, false)
  | 0x9 => (old &&& x, false)
  | 0xA => (old ||| x, false)
  | 0xB => (old ^^^ x, false)
  | 0xC => f32.fadd old x
  | 0xD => (x, false)
  | 0xE => (if old = x then y else old, false)
  | _ => (old, false)

/-- A merged atomic on `n` bytes at `a`, whose address has passed its checks (R117 to R120): operands
(value, second value for CAS, poison) in lane order. Answers the status, each lane's returned value with
its poison, in order. A failed home performs nothing and returns 0 (R72). -/
def memAtomic (s : State) (a n op : Nat) (ops : List (Nat × Nat × Bool)) : State × Nat × List (Nat × Bool) :=
  let s := drainLines s a n
  if failedHome s a then
    (failedWrite s a, 9, ops.map fun _ => (0, false))
  else
    let old := readNat s a n
    let pz := poisoned s a n
    let f := fun (acc : Nat × Bool × Nat × List (Nat × Bool)) (o : Nat × Nat × Bool) =>
      let r := atomOp op (8 * n) acc.1 o.1 o.2.1
      (r.1, acc.2.1 || o.2.2, acc.2.2.1 + b2n r.2, acc.2.2.2 ++ [(acc.1, acc.2.1)])
    let r := ops.foldl f (old, pz, 0, [])
    let s := { s with atomSat := s.atomSat + r.2.2.1 }
    let s := if pz then poisonRead s (home s a).unit else s
    (nsTouch (writeNat s a n r.1 r.2.1) a n true, if pz then 8 else 0, r.2.2.2)

/-! ### Accumulate-writes (R62 to R66) -/

/-- Checks of an accumulate-write, in the order of R62. DESIGN CHOICE: one to the fast or deep tier ends with
`ACCW_BAD_TARGET` also where the stack or package it names has failed (log 114). -/
def accwStatus (s : State) (iss : Issuer) (a : Nat) : Nat :=
  let st := accessStatus s iss .store a 128
  if st = 4 ∨ st = 5 then st
  else match home s a with
    | .scratch _ => st
    | _ => 6

/-- An accumulate-write by an engine of the module: checked, then acknowledged into the tower's adder
queue (R62, R65). Answers the status. -/
def accw (s : State) (w : AccWrite) : State × Nat :=
  let st := accwStatus s w.iss w.addr
  if st ≠ 0 then (s, st)
  else match home s w.addr with
    | .scratch t => (setTow s t { tow s t with adder := (tow s t).adder ++ [w] }, 0)
    | _ => (s, 6)

/-! ### Reed–Solomon code (R77 to R81) -/

/-- Product in GF(2^8) with x^8 + x^4 + x^3 + x^2 + 1. -/
def gfMul (a b : Nat) : Nat :=
  let rec go : Nat → Nat → Nat → Nat → Nat
    | 0, _, _, r => r
    | f + 1, a, b, r =>
      go f (if 128 ≤ a then (a * 2) % 256 ^^^ 0x1D else a * 2) (b / 2) (if b % 2 = 1 then r ^^^ a else r)
  go 8 a b 0

/-- α^k. -/
def gfPow (k : Nat) : Nat :=
  match k % 255 with
  | 0 => 1
  | n => (List.range n).foldl (fun x _ => gfMul x 2) 1

/-- The four syndromes of an error: symbols (index 0 to 67, value); symbol i is the coefficient of x^(67 − i). -/
def rsSyndrome (errs : List (Nat × Nat)) : List Nat :=
  (List.range 4).map fun j => errs.foldl (fun x e => x ^^^ gfMul e.2 (gfPow (j * (67 - e.1)))) 0

/-- The poison mask as an error in the check bytes (R81). -/
def poisonMask : List (Nat × Nat) := [(64, 0xA5), (65, 0x5A), (66, 0xC3), (67, 0x3C)]

/-- The one-symbol error a syndrome shows, where it shows one. -/
def rsOne (sy : List Nat) : Option (Nat × Nat) :=
  let y := sy.getD 0 0
  if y = 0 then none
  else ((List.range 68).find? fun i => rsSyndrome [(i, y)] == sy).map fun i => (i, y)

/-- The two-symbol error a syndrome shows, where it shows one: values follow from the first two syndromes. -/
def rsTwo (sy : List Nat) : Option (List (Nat × Nat)) :=
  let s0 := sy.getD 0 0
  let s1 := sy.getD 1 0
  let inv := fun x => gfPow (255 - ((List.range 255).find? fun k => gfPow k == x).getD 0)
  let pairs := (List.range 68).flatMap fun i => (List.range i).map fun j => (i, j)
  let err := fun (p : Nat × Nat) =>
    let xi := gfPow (67 - p.1)
    let xj := gfPow (67 - p.2)
    let yj := gfMul (s1 ^^^ gfMul xi s0) (inv (xi ^^^ xj))
    [(p.1, s0 ^^^ yj), (p.2, yj)]
  (pairs.find? fun p => let e := err p; (e.all fun x => x.2 != 0) && rsSyndrome e == sy).map err

/-- What the decoder makes of a unit (R81): clean, poisoned, corrected by an error pattern, or uncorrectable. -/
inductive RsResult where
  | clean | poisoned | corrected (fix : List (Nat × Nat)) | uncorrectable
deriving DecidableEq, Repr

/-- Classify a unit with syndrome `sy` under a correction limit, by the first case of R81 that applies. -/
def rsDecode (sy : List Nat) (limit : Nat) : RsResult :=
  let p := rsSyndrome poisonMask
  if sy.all (· == 0) then .clean
  else if sy = p then .poisoned
  else if (rsOne (List.zipWith (· ^^^ ·) sy p)).isSome then .poisoned
  else match rsOne sy with
    | some e => .corrected [e]
    | none =>
      if limit = 2 then
        match rsTwo sy with
        | some e => .corrected e
        | none => .uncorrectable
      else .uncorrectable

/-- Correction limit of a home's tier (R78, `CORR_LIMIT`); a unit the near-store cache holds lies in the near store. -/
def corrLimit (s : State) (h : Home) (near : Bool) : Nat :=
  let b := cfgB s 0x350001
  match h with
  | .scratch _ => subNat b 0 1
  | .fast _ => if near then subNat b 0 1 else subNat b 1 1
  | _ => subNat b 2 1

/-- Error-count unit of the store that a copy of a unit lies in. -/
def storeUnit (h : Home) (near : Bool) : Nat :=
  match h with
  | .fast k => if near then k / 8 else 4 + k
  | h => h.unit

/-- What the decoder's finding changes beside the unit itself: the counts of R91 and the error report (R534, R535). DESIGN
CHOICE: `POISON_COUNT` counts the units the decoder finds uncorrectable, not those that tagged writes poison (log 115). -/
def countUnit (s : State) (u a : Nat) (was : Bool) (r : RsResult) : State :=
  match r with
  | .clean => s
  | .poisoned => s
  | .corrected _ => correctedError { s with corrected := mset s.corrected u (mget s.corrected u 0 + 1) } u a
  | .uncorrectable =>
    let s := { s with poisoned := mset s.poisoned u (mget s.poisoned u 0 + 1) }
    if was then s else poisonError s u a

/-- The module reads a stored 64 B unit whose symbols differ from what was written by `errs`, decodes it
(R78, R81) and writes back what it corrects (R79). An uncorrectable unit becomes poisoned. `near` tells that the copy read is
the one in the near store. -/
def readUnit (s : State) (a : Nat) (errs : List (Nat × Nat)) (near : Bool) : State :=
  let base := a / 64 * 64
  let h := home s a
  let was := s.poison.contains (a / 64)
  let r := rsDecode (rsSyndrome (errs ++ if was then poisonMask else [])) (corrLimit s h near)
  let s := xorUnit s base errs
  let s := match r with
    | .clean => { s with poison := s.poison.filter (· != a / 64) }
    | .poisoned => { s with poison := addOnce s.poison (a / 64) }
    | .corrected fix => let s := xorUnit s base fix; { s with poison := s.poison.filter (· != a / 64) }
    | .uncorrectable => { s with poison := addOnce s.poison (a / 64) }
  countUnit s (storeUnit h near) a was r

/-- The patrol reads the stack's own copy of a unit whose line the near-store cache holds (R79): what it cannot correct is
met when the clean line leaves the cache; a dirty line's write-back replaces it. -/
def readUnder (s : State) (a : Nat) (errs : List (Nat × Nat)) : State :=
  let h := home s a
  let r := rsDecode (rsSyndrome errs) (corrLimit s h false)
  let keep := fun (l : NsLine) => { l with under := l.under ++ errs.map fun e => (a / 64 % 2, e.1, e.2) }
  let s := match h with
    | .fast k =>
      let x := tow s (k / 8)
      if r = .uncorrectable ∨ r = .poisoned then
        setTow s (k / 8) { x with lines := x.lines.map fun l => if l.line = a / 128 ∧ l.dirty = false then keep l else l }
      else s
    | _ => s
  countUnit s (storeUnit h false) a false r

/-- The module reads an 8 B word of shared local memory of which `n` bits have flipped (R111): one is
corrected, two poison the word, of more the manual promises nothing: which of the three happens, and the
word's bytes unless it is poisoned, are free. -/
def readWord (s : State) (a n : Nat) : State :=
  let u := (home s a).unit
  let (k, s) := if n ≤ 2 then (n, s) else draw s 3
  let (v, s) := if n ≤ 2 ∨ k = 2 then (0, s) else draw s (2 ^ 64)
  let s := if n ≤ 2 ∨ k = 2 then s else { s with mem := cellsPut s.mem (a / 8 * 8) (leBytes 8 v) }
  if k = 1 then correctedError s u a
  else if k = 2 then
    poisonError { s with poison := addOnce s.poison (2 ^ 48 + a / 8) } u a
  else s

/-- Errors found in the units a read covers, each as (unit from the access's first × 68 + symbol, value); in shared local
memory, whose units are 8 B words, the value of a word's error is the number of bits that have flipped in it (R111). -/
def readErrs (s : State) (a : Nat) (errs : List (Nat × Nat)) : State :=
  if errs.isEmpty then s
  else
    let units := errs.foldl (fun l e => addOnce l (e.1 / 68)) []
    let mine := fun u => (errs.filter fun e => e.1 / 68 == u).map fun e => (e.1 % 68, e.2)
    if inSlm a then units.foldl (fun s u => readWord s (a + 8 * u) (((mine u).map (·.2)).foldl (· + ·) 0)) s
    else match home s a with
      | .regs => s
      | .window => s
      | .none => s
      | _ => units.foldl (fun s u => readUnit s (a + 64 * u) (mine u) (cached s (a + 64 * u))) s

/-- The special function of a unit (0 crews, 1 update engines): where within its accuracy the result lies is a free
value of the operation and operand (R251, R297; log 4). -/
def special (unit op a : Nat) : Nat :=
  specialFn op a (Config.special (16 * unit + op) (BitVec.ofNat 32 a)).toNat

end Sys2Proof.Machine
end

