-- ==== Sys2Proof/Machine/Activity.lean ====
section
/-!
DEFINITION. The activity of a matrix array (R204, R205, R448, R449): its slopes under the power plan, and what
`MXA_STATUS` shows of it. Activities are counted in units of 2^-32.
-/
namespace Sys2Proof.Machine
open Sys2Proof

/-- How far a slope, a binary32 code in activity per µs, moves an activity in `ns` nanoseconds. -/
def slopeUnits (code ns : Nat) : Nat :=
  match f32.decode code with
  | .fin false m e =>
    let k := e + 32
    (if 0 ≤ k then m * ns * 2 ^ k.toNat else m * ns / 2 ^ (-k).toNat) / 1000
  | _ => 0

/-- Activity one. -/
def fullActivity : Nat := 2 ^ 32

/-- A cap of `n` 64ths. -/
def capUnits (n : Nat) : Nat := n * 2 ^ 26

/-- An activity after a fall at the down-slope for `ns` nanoseconds, not below `floor`. -/
def fallen (s : State) (a floor ns : Nat) : Nat := max (min floor a) (a - slopeUnits (cfg s 0x220003) ns)

/-- The fall per µs that the peak limit uses: 1/64, the most it may (R449, log 142). -/
def peakFall : Nat := 2 ^ 26

/-- The activity of an array now. Under the peak limit it falls to its cap at 1/64 per µs, and goes on as a fall does. -/
def activityNow (s : State) (x : Cluster) : Nat :=
  match x.ramp with
  | .steady => x.actBase
  | .up => min (capUnits x.cap) (x.actBase + slopeUnits (cfg s 0x220002) (s.pace.now - x.actFrom))
  | .down => fallen s x.actBase x.actFloor (s.pace.now - x.actFrom)
  | .fast =>
    let ns := s.pace.now - x.actFrom
    let need := cdiv ((x.actBase - capUnits x.cap) * 1000) peakFall
    if ns < need then x.actBase - peakFall * ns / 1000 else fallen s (min x.actBase (capUnits x.cap)) x.actFloor (ns - need)

/-- Begin a ramp from the present activity. -/
def rampTo (s : State) (x : Cluster) (r : Ramp) (floor : Nat) : Cluster :=
  { x with actBase := activityNow s x, actFrom := s.pace.now, actFloor := floor, ramp := r }

/-- Set an array's cap: an activity above it falls to it at the down-slope, for the peak limit `fast` (R449). -/
def capTo (s : State) (x : Cluster) (n : Nat) (r : Ramp := .down) : Cluster :=
  let y := rampTo s x x.ramp x.actFloor
  let floor := if x.ramp = .down ∨ x.ramp = .fast then min x.actFloor (capUnits n) else capUnits n
  if capUnits n < y.actBase then rampTo s { y with cap := n } r floor else { y with cap := n }

/-- Every array goes on from its present activity: a slope is about to change (R448). -/
def rebaseRamps (s : State) : State :=
  { s with clusters := s.clusters.map fun (x : Nat × Cluster) => (x.1, rampTo s x.2 x.2.ramp x.2.actFloor) }

/-- A row is ready: an activity below the cap rises at the up-slope (R205). -/
def rampForRow (s : State) (x : Cluster) : Cluster :=
  if x.ramp ≠ .up ∧ activityNow s x < capUnits x.cap then rampTo s x .up 0 else x

/-- `ACTIVITY` of `MXA_STATUS`: a × 64, rounded up as R205 counts operating cycles. -/
def activityField (s : State) (x : Cluster) : Nat := cdiv (activityNow s x) (2 ^ 26)

end Sys2Proof.Machine
end

