-- ==== Sys2Proof/Machine/Crc.lean ====
section
/-!
DEFINITION. Cyclic redundancy codes: the register of R525, which also gives the CRC-32C of packets (R334), of ledger
records and of Pit Log records.
-/
namespace Sys2Proof.Machine
open Sys2Proof

/-- The low `n` bits of `v` in reverse order. -/
def revBits : Nat → Nat → Nat
  | 0, _ => 0
  | n + 1, v => (v % 2) * 2 ^ n + revBits n (v / 2)

/-- Shift one message bit into a register of `w` bits. -/
def crcBit (w poly r : Nat) (b : Bool) : Nat :=
  let top := bit r (w - 1)
  let r := (2 * r) % 2 ^ w
  if top != b then r ^^^ poly else r

/-- Shift one byte in, most significant bit first, or least first where the code is reflected. -/
def crcByte (w poly : Nat) (reflect : Bool) (r : Nat) (v : Byte) : Nat :=
  (List.range 8).foldl (fun r i => crcBit w poly r (v.getLsbD (if reflect then i else 7 - i))) r

/-- The check value of bytes: register width, polynomial without its top term, initial value, reflected input and
output, inverted output. -/
def crc (w poly init : Nat) (reflect invert : Bool) (bs : List Byte) : Nat :=
  let r := bs.foldl (crcByte w poly reflect) (init % 2 ^ w)
  let r := if reflect then revBits w r else r
  if invert then 2 ^ w - 1 - r else r

/-- CRC-32C. -/
def crc32c (bs : List Byte) : Nat := crc 32 0x1EDC6F41 0xFFFFFFFF true true bs

end Sys2Proof.Machine
end

