-- ==== Sys2Proof/Machine/Transact.lean ====
section
/-!
DEFINITION. A module-local memory transaction at its target, the per-stack queues of accesses that wait (R61,
R70), the release of those queues, the stores engines post, and trace records.
-/
namespace Sys2Proof.Machine
open Sys2Proof

/-- Give a transaction's completion to its issuer (R55). -/
def complete (s : State) (tag status : Nat) (data : List Byte := []) (poison : Bool := false) : State :=
  { s with completions := s.completions ++ [{ tag, status, data, poison }] }

/-- A core that loads poisoned data raises a load access-fault exception, code 5, with the address in `mtval` (R535, log 143). -/
def coreFault (s : State) (x : Xact) (poison : Bool) : State :=
  if x.iss.kind = .core ∧ poison then
    { s with cores := mset s.cores x.iss.unit { mget s.cores x.iss.unit {} with mcause := 5, mtval := x.addr } }
  else s

/-- Perform a transaction whose address checks have passed and that need not wait (R54, R72, R82, R118); `answer` tells
whether its completion is given. -/
def perform (s : State) (x : Xact) (answer : Bool) : State :=
  let r := match x.kind with
    | .load =>
      let r := memRead s x.addr x.size
      coreFault (complete r.1 x.tag (if r.2.2 then 8 else 0) r.2.1 r.2.2) x r.2.2
    | .fetch =>
      let r := memRead s x.addr x.size
      complete r.1 x.tag (if r.2.2 then 8 else 0) r.2.1 r.2.2
    | .store =>
      let r := memWrite s x.addr (padTo x.size x.data) x.poison
      complete r.1 x.tag r.2
    | .flagStore =>
      let r := memWrite s x.addr (padTo x.size x.data) x.poison
      complete r.1 x.tag r.2
    | .atom op ret =>
      let r := memAtomic s x.addr x.size op [(leNat (x.data.take x.size), leNat ((x.data.drop x.size).take x.size), x.poison)]
      let v := r.2.2.headD (0, false)
      complete r.1 x.tag r.2.1 (if ret then leBytes x.size v.1 else []) (ret && v.2)
  if answer then r else { r with completions := s.completions, cores := s.cores }

/-- Queue a transaction at its stack, or perform it (R61, R70). -/
def performOrWait (s : State) (w : Waiting) : State :=
  match home s w.x.addr with
  | .fast k => if waits s w.x.addr then setStk s k { stk s k with waiting := (stk s k).waiting ++ [w] } else perform s w.x w.answer
  | _ => perform s w.x w.answer

/-- A store of an engine that waits for no completion: line by line, with the checks every write meets (R10, R40, R45, R54,
R72), the cache (R58), and the queues of the stacks (R61, R70). -/
def post (s : State) (iss : Issuer) (a : Nat) (bs : List Byte) (tag : Bool := false) : State :=
  (linePieces a bs.length).foldl (fun s p =>
    let x : Xact := { tag := 0, iss, kind := .store, addr := p.1, size := p.2, data := (bs.drop (p.1 - a)).take p.2, poison := tag }
    if accessStatus s iss .store p.1 p.2 ≠ 0 then s else performOrWait s { x, answer := false }) s

/-- The accesses queued at stack `k` go on, in their order; one that still must wait queues again. -/
def releaseStack (s : State) (k : Nat) : State :=
  let w := (stk s k).waiting
  w.foldl performOrWait (setStk s k { stk s k with waiting := [] })

/-- The accesses queued at the eight stacks beside tower `t` go on. -/
def releaseTower (s : State) (t : Nat) : State :=
  (List.range 8).foldl (fun s i => releaseStack s (8 * t + i)) s

/-- The transaction that waits for a read of a window, where one does. -/
def WinLoad.xact (l : WinLoad) : Option Xact := match l.who with | .xact x => some x | _ => none

/-- The issuers of a level get no response any more (R40, R46): what they sent is carried to its target and applied there. -/
def hushLevel (s : State) (t l : Nat) : State :=
  let mine := fun (x : Xact) => issLevel x.iss == some (t, l)
  { s with
    stackUnits := s.stackUnits.map fun k => (k.1, { k.2 with waiting := k.2.waiting.map fun w => if mine w.x then { w with answer := false } else w })
    headframes := s.headframes.map fun h => (h.1, { h.2 with
      held := h.2.held.filter fun x => !mine x
      waiting := h.2.waiting.filter fun l => !l.xact.any mine }) }

/-- A transaction that a tower reset meets in flight completes with `LOST_IN_RESET`; whether it is applied is free (R48). -/
def lose (s : State) (x : Xact) (local_ : Bool) : State :=
  let r := draw s 2
  complete (if local_ && r.1 == 1 then perform r.2 x false else r.2) x.tag 2

/-- A tower reset of tower `t` is asserted: the transactions of its upper levels that are under way are lost (R48). -/
def loseTower (s : State) (t : Nat) : State :=
  let mine := fun (x : Xact) => (issLevel x.iss).any fun i => i.1 == t
  let away := (s.headframes.flatMap fun h => h.2.waiting.filterMap (·.xact) ++ h.2.held).filter mine
  let near := s.stackUnits.flatMap fun k => (k.2.waiting.filter fun w => mine w.x && w.answer).map (·.x)
  let s := { s with
    headframes := s.headframes.map fun h => (h.1, { h.2 with
      held := h.2.held.filter fun x => !mine x
      waiting := h.2.waiting.filter fun l => !l.xact.any mine })
    stackUnits := s.stackUnits.map fun k => (k.1, { k.2 with waiting := k.2.waiting.filter fun w => !(mine w.x && w.answer) }) }
  near.foldl (fun s x => lose s x true) (away.foldl (fun s x => lose s x false) s)

/-- Begin the next retraining that is wanted beside tower `t`: while its `MTC` runs, and one stack at a time (R70, R71). -/
def retrainNext (s : State) (t : Nat) : State :=
  let ks := (List.range 8).map (8 * t + ·)
  if fwRuns s (9 + t) = false ∨ (ks.any fun k => (stk s k).st == .excluded) then s
  else match ks.find? fun k => (stk s k).wanted && (stk s k).st == .inService with
    | some k => setStk s k { stk s k with st := .excluded, wanted := false, since := s.pace.now }
    | none => s

/-- A retraining of stack `k` is due (R71): a failed or skipped stack is never retrained. -/
def wantRetrain (s : State) (k : Nat) : State :=
  if (stk s k).st = .inService then retrainNext (setStk s k { stk s k with wanted := true }) (k / 8) else s

/-- Stack `k` fails in service (R72): its dirty cache lines are lost and recorded, its lines are invalidated, and what
waited for it goes on. -/
def failStack (s : State) (k : Nat) : State :=
  let mine := fun (l : NsLine) => match home s (l.line * 128) with | .fast j => j == k | _ => false
  let x := tow s (k / 8)
  let lost := x.lines.filter fun l => mine l && l.dirty
  let s := pitEvent (setStk s k { stk s k with st := .failed, wanted := false }) 0x0201 k
  let s := lost.foldl (fun s l => pitEvent s 0x0202 k 0 (l.line * 128)) s
  releaseStack (setTow s (k / 8) { x with lines := x.lines.filter fun l => !mine l }) k

/-- Write back every dirty line of tower `t`'s near-store cache: memory already holds the bytes (log 21); a dirty
line of a failed stack is lost and recorded (R72). -/
def writebackLines (s : State) (t : Nat) : State :=
  let lost := (tow s t).lines.filter fun l => l.dirty && failedHome s (l.line * 128)
  let s := lost.foldl (fun s l => match home s (l.line * 128) with
    | .fast k => pitEvent s 0x0202 k 0 (l.line * 128)
    | _ => s) s
  setTow s t { tow s t with lines := (tow s t).lines.map fun l => { l with dirty := false } }

/-! ### Pace time read on a tower, and trace records -/

/-- Pace time as it is read on tower `t` (R22): T0's, plus the recorded difference of a tower out of step, which the module
takes back by 200 ppm, 1 ns in every 5,000 (log 116). -/
def paceAt (s : State) (t : Nat) : Nat :=
  let d := mget s.pace.skew t 0
  let back := (s.pace.now - mget s.pace.skewAt t 0) / 5000
  if d < 0 then s.pace.now - (d.natAbs - back) else s.pace.now + (d.natAbs - back)

/-- Whether a trace record of tower `t` falls beyond the rate of one per 16 `ROUTER` cycles, which are 10 ns (R430). Within
10 ns of Pace time of the last record it is free whether the cycles have passed (log 94). -/
def traceBusy (s : State) (t : Nat) : Bool × State :=
  match mfind s.traceLast t with
  | none => (false, s)
  | some u => if u + 10 ≤ s.pace.now then (false, s) else let r := draw s 2; (r.1 == 1, r.2)

/-- A trace record of tower `t` for an enabled point (R430): 32 B into the tower's quarter of the ring
(log 16), then its index; a record beyond the rate is dropped and counted. -/
def trace (s : State) (t point w2 w3 : Nat) : State :=
  let base := cfg s 0x820002
  let quarter := cfg s 0x820003 / 4
  if bit (cfg s 0x820001) point && decide (32 ≤ quarter) then
    let r := traceBusy s t
    let s := r.2
    if r.1 then { s with traceDropped := s.traceDropped + 1 }
    else
      let i := mget s.traceIndex t 0
      let rec4 := leBytes 8 (paceAt s t) ++ leBytes 8 (point * 2 ^ 56 + t * 2 ^ 54) ++ leBytes 8 w2 ++ leBytes 8 w3
      let s := post s { kind := .trace, unit := t } (base + t * quarter + 32 * i) rec4
      { s with traceIndex := mset s.traceIndex t ((i + 1) % (quarter / 32)), traceLast := mset s.traceLast t s.pace.now }
  else s

end Sys2Proof.Machine
end

