-- ==== Sys2Proof/Machine/Contain.lean ====
section
/-!
DEFINITION. What ends or interrupts a kernel: class B boundaries of its clusters (R126, R207, R234, R474), release
of a cluster, exceptions and containment (R168, R412, R536), and the completion record (R411).
-/
namespace Sys2Proof.Machine
open Sys2Proof

/-- Kernel `k`. -/
def krn (s : State) (k : Nat) : Kernel := mget s.kernels k { q := 0, index := 0, words := [] }
/-- The state with kernel `k` replaced. -/
def setKrn (s : State) (k : Nat) (x : Kernel) : State := { s with kernels := mset s.kernels k x }
/-- Field of a word of the kernel's `LAUNCH` command (Table 13.6). -/
def Kernel.fld (x : Kernel) (word hi lo : Nat) : Nat := Machine.fld (x.words.getD word 0#64).toNat hi lo
/-- `LAUNCH_ID`. -/
def Kernel.launchId (x : Kernel) : Nat := x.fld 4 63 32
/-- Crews per cluster. -/
def Kernel.crews (x : Kernel) : Nat := x.fld 0 48 42 + 1
/-- Declared vector registers. -/
def Kernel.vregs (x : Kernel) : Nat := (x.fld 0 41 38 + 1) * 16
/-- Lane: 0 single, 1 F, 2 G. -/
def Kernel.lane (x : Kernel) : Nat := x.fld 0 53 52
/-- Tower and command processor of a queue 64t + 16c + q: its interrupt source for errors (Table 13.1). -/
def cpSource (q : Nat) : Nat := 0x100 + q / 16 % 16

/-- Class B fields of a cluster that a boundary puts in force, by the key they wait under: 1 `ROT_LIMIT`,
2 `BAR_TIMEOUT`, 3 `HOLD_WINDOW`, 4 `CPLX3_EN`, 5 `FP16_EN`, 6 `OVERLAP_ENABLE`. -/
def applyField (x : Cluster) (key v : Nat) : Cluster :=
  match key with
  | 1 => { x with rotLimit := v }
  | 2 => { x with barTimeout := v }
  | 3 => { x with holdWindow := v }
  | 4 => { x with cplx3 := v != 0 }
  | 5 => { x with fp16 := v != 0 }
  | 6 => { x with overlap := v != 0 }
  | _ => x

/-- Whether the cluster runs no kernel. -/
def Cluster.free (x : Cluster) : Bool := x.kernels.isEmpty

/-- A class B write reaches one cluster: in force at once where no kernel runs, else at its next boundary, where
only the last value counts (R473, R474); a `ROT_LIMIT` of 0 is 1 (Table 4.8). -/
def writeB (x : Cluster) (key v : Nat) : Cluster :=
  let v := if key = 1 ∧ v = 0 then 1 else v
  if x.free then applyField x key v else { x with waitCfg := mset x.waitCfg key v }

/-- A class B write reaches every cluster (R127, R207, R234). -/
def writeBAll (s : State) (key v : Nat) : State :=
  (List.range 128).foldl (fun s c => setClu s c (writeB (clu s c) key v)) s

/-- Code of cluster `c` in `RETIRED_UNITS`, or of its die (R521). -/
def retiresCluster (s : State) (c : Nat) : Bool :=
  s.kept.retired.contains c || s.kept.retired.contains (0x100 + c / 16)

/-- Remove a cluster from every `PART_CLUSTERS`, in the active and the shadow set (R483, R521). -/
def dropFromParts (s : State) (c : Nat) : State :=
  (List.range 16).foldl (fun s p =>
    let key := partKey p 3
    let clear := fun v => leBytes 16 (if bit v c then v - 2 ^ c else v)
    let s := if bit (leNat (shadowB s key)) c then { s with shadow := mset s.shadow key (clear (leNat (shadowB s key))) } else s
    if bit (cfg s key) c then { s with active := mset s.active key (clear (cfg s key)) } else s) s

/-- A kernel boundary of cluster `c`: waiting class B values come into force, and a cluster that
`RETIRED_UNITS` names leaves its partition. -/
def boundary (s : State) (c : Nat) : State :=
  let x := clu s c
  let x := x.waitCfg.foldl (fun x kv => applyField x kv.1 kv.2) { x with waitCfg := [] }
  let s := setClu s c x
  if retiresCluster s c then
    let s := dropFromParts s c
    if (clu s c).free then setClu s c { clu s c with mode := .retired } else s
  else s

/-- Slot keys of kernel `k`'s crews on a cluster. -/
def crewsOf (x : Cluster) (k : Nat) : List Nat := (x.crews.filter fun p => p.2.kernel == k).map (·.1)

/-- Barriers of a lane: all sixteen for a single kernel, B0 to B7 in lane F, B8 to B15 in lane G (Table 9.3). -/
def laneBarriers (lane b : Nat) : Bool :=
  match lane with
  | 1 => decide (b < 8)
  | 2 => decide (8 ≤ b) && decide (b < 16)
  | _ => decide (b < 16)

/-- Crews of kernel `k` in slots of cluster `c` are gone: replies to their requests find none, and their place among the
requests is that of slot 128 + `k`. Requests not yet sent are kept only where `keep` says so (R162, log 19); window
runs no longer name the crews. -/
def forgetCrews (s : State) (c : Nat) (slots : List Nat) (k : Nat) (keep : Bool) : State :=
  let mine := fun (d : CrewDst) => d.cluster == c && slots.contains d.slot
  let away := fun (d : CrewDst) => if mine d then { d with slot := 128 + k } else d
  let code := fun n => n / 128 == c && slots.contains (n % 128)
  { s with
    requests := (s.requests.filter fun (r : Request) => keep || r.held != .turn || !(r.crew.any mine)).map fun (r : Request) =>
      { r with crew := r.crew.map away, next := if keep then r.next.map fun q => (q.1, away q.2) else if r.crew.any mine then [] else r.next }
    headframes := s.headframes.map fun h => (h.1, { h.2 with
      waiting := h.2.waiting.map fun (l : WinLoad) => match l.who with | .crew d => { l with who := .crew (away d) } | _ => l
      runs := h.2.runs.map fun (q : Run) => { q with crews := q.crews.filter fun n => !code n }
      stores := h.2.stores.map fun (q : Run) => { q with crews := q.crews.filter fun n => !code n }
      failures := h.2.failures.filter fun (f : Nat × Nat × Nat) => !code f.1 }) }

/-- Remove what kernel `k` has on cluster `c` but its crews: the phases of its lane's barriers, its queued array
entries and transposing loads. A response that still comes for such a crew finds none (log 19). -/
def stopKernelOn (s : State) (c k : Nat) : State :=
  let x := clu s c
  let gone := crewsOf x k
  let lane := (krn s k).lane
  let x := { x with
    barriers := x.barriers.filter fun b => !laneBarriers lane b.1
    entries := x.entries.filter fun e => e.kernel != k
    tlds := x.tlds.filter fun j => !gone.contains j.slot
    stopping := x.stopping.filter (· != k) }
  forgetCrews (setClu s c x) c gone k false

/-- Remove all that kernel `k` has on cluster `c`. -/
def clearKernelOn (s : State) (c k : Nat) : State :=
  let s := stopKernelOn s c k
  setClu s c { clu s c with crews := (clu s c).crews.filter fun p => p.2.kernel != k }

/-- Cluster `c` no longer belongs to kernel `k`; it is idle when no other kernel runs on it (R411). -/
def releaseCluster (s : State) (c k : Nat) : State :=
  let s := clearKernelOn s c k
  let x := clu s c
  let ks := x.kernels.filter (· != k)
  let s := setClu s c { x with
    kernels := ks
    mode := if x.mode = .retired then .retired else if ks.isEmpty then .idle else x.mode }
  boundary s c

/-- Put a record into a list that is ascending in its keys, behind those with the same key. -/
def insertExc (e : Nat × List Nat) : List (Nat × List Nat) → List (Nat × List Nat)
  | [] => [e]
  | f :: l => if e.1 < f.1 then e :: f :: l else f :: insertExc e l

/-- Write one exception record, 64 B, at its place among the kernel's records: they are all of one `ARITH` cycle, in ascending
scheduler and slot order. Those beyond the area are counted (R168, R169, R411). -/
def writeExc (s : State) (k key : Nat) (words : List Nat) : State :=
  let x := krn s k
  let l := insertExc (key, words) x.excs
  let cap := x.fld 4 15 0
  let s := ((List.range l.length).zip l).foldl (fun s (e : Nat × Nat × List Nat) =>
    if e.1 < cap ∧ x.excs[e.1]? ≠ some e.2 then
      post s { kind := .cmdproc, unit := x.q / 16 } (x.fld 3 47 0 + 64 * e.1) (e.2.2.flatMap (leBytes 8))
    else s) s
  setKrn s k { krn s k with excs := l, excCount := min cap l.length, excDropped := min 0xFFFF (l.length - cap) }

/-- Kernel `k` is stopped with `CONTAINED` on all of its clusters (R168, R412): its crews issue no more, source 0x1B5 is
raised, the partition's count grows. Its record is written when it ends. -/
def containKernel (s : State) (k : Nat) : State :=
  let x := krn s k
  if x.mode = .ended ∨ x.contained then s else
  let s := x.clusters.foldl (fun s c => stopKernelOn s c k) s
  let s := setKrn s k { krn s k with contained := true, stopCycles := s.cycles, endedOn := x.clusters, savedOn := [] }
  irq { s with pit.contained := mset s.pit.contained x.part (mget s.pit.contained x.part 0 + 1) } 0x1B5

/-- The nine words an exception record is made of (Table 5.8). -/
structure Exc where
  code : Nat
  lanes : W32
  addr : Nat := 0
  status : Nat := 0
  detail : Nat := 0
deriving DecidableEq, Repr

/-- Record of an exception of kernel `k`'s crew in `slot` of cluster `c` at `pc` (Table 5.8). -/
def excRecord (s : State) (k c slot pc : Nat) (instr : W64) (e : Exc) : State :=
  writeExc s k (slot * 128 + c) [e.code * 2 ^ 56 + pc % 2 ^ 48, c * 2 ^ 50 + slot / 16 * 2 ^ 47 + slot % 16 * 2 ^ 43 + e.lanes.toNat,
    e.addr, e.status * 2 ^ 48, s.pace.now, instr.toNat, e.detail, 0]

/-- Whether a kernel's crews on cluster `c` may raise exceptions: until it is stopped, and in the `ARITH` cycle of the stop (R168,
R169). -/
def raises (s : State) (k c : Nat) : Bool :=
  let x := krn s k
  x.mode != .ended && (!x.contained || mget s.cycles (cluDie c) 0 == mget x.stopCycles (cluDie c) 0)

/-- Crew `slot` of cluster `c` raises an exception at `pc` (R168): its record, then the kernel stops; the crew does nothing more. -/
def raise (s : State) (c slot pc : Nat) (instr : W64) (e : Exc) : State :=
  let k := (mget (clu s c).crews slot { kernel := 0, index := 0 }).kernel
  if raises s k c = false then s
  else
    let s := containKernel (excRecord s k c slot pc instr e) k
    setClu s c { clu s c with crews := mdel (clu s c).crews slot }

/-- Write the completion record of kernel `k` (Table 13.8). -/
def writeRecord (s : State) (k status detail : Nat) : State :=
  let x := krn s k
  post s { kind := .cmdproc, unit := x.q / 16 } (x.fld 6 47 0) (leBytes 8 (status * 2 ^ 48 + detail * 2 ^ 40 + x.launchId) ++ leBytes 8 (x.excDropped * 2 ^ 48)
    ++ leBytes 8 x.startAt ++ leBytes 8 s.pace.now)

/-- A started command of queue `q` completes (R406): it leaves the queue's list, with its interrupt where `IRQ` is set. -/
def completeCmd (s : State) (q index : Nat) : State :=
  let x := cq s q
  match x.started.find? (fun e => e.index == index) with
  | none => s
  | some e =>
    let s := setCq s q { x with started := x.started.filter fun y => y.index != index }
    if bit (e.words.getD 0 0#64).toNat 54 then irq s q else s

/-- Kernel `k` ends (R411, R422): its record, its clusters free, its command complete. A kernel that ended between
a lapse and HELD joins the lapse record (R421). -/
def endKernel (s : State) (k status : Nat) : State :=
  let x := krn s k
  let s := writeRecord s k status 0
  let s := x.clusters.foldl (fun s c => releaseCluster s c k) s
  let s := setKrn s k { krn s k with mode := .ended }
  let s := trace s (x.q / 64) 1 x.launchId status
  let s := if s.beat.mode = .beating then s else { s with beat.endedIn := s.beat.endedIn ++ [(x.launchId, status)] }
  let s := completeCmd s x.q x.index
  let s := if status = 0 then s else irq s (cpSource x.q)
  if status = 0x20 then pitEvent s 0x0401 (x.clusters.headD 0) 0 0 x.launchId else s

/-- Kernels that hold a cluster of tower `t`, level `l` (2 or 3). -/
def kernelsOn (s : State) (t l : Nat) : List Nat :=
  (List.range 16).foldl (fun ks j => (clu s (32 * t + 16 * (l - 2) + j)).kernels.foldl addOnce ks) []

/-- Kernel `k` is contained; a frozen one ends at once with its record, and leaves the frozen kernels of the lapse record for
the ended ones (R423, log 140). -/
def containOrEnd (s : State) (k : Nat) : State :=
  let x := krn s k
  if x.mode = .frozen then
    endKernel (containKernel { s with beat.frozen := s.beat.frozen.filter (· != (x.launchId, x.q, x.clusters)) } k) k 0x20
  else containKernel s k

/-- The kernels of a level are stopped with `CONTAINED` (R40, R47, R423). -/
def containLevel (s : State) (t l : Nat) : State :=
  if l < 2 then s else (kernelsOn s t l).foldl containOrEnd (hushLevel s t l)

/-- A FATAL error (R537): a record, `FAULT_N` low, lasers off, and nothing issues until the warm reset. -/
def fatal (s : State) (cause : Nat) : State :=
  let s := pitEvent s 0x0905 0xFFFF 0 0 cause
  { s with pins.faultN := false, pins.lasersOn := false, boot.phase := .fatal }

end Sys2Proof.Machine
end

