-- ==== Sys2Proof/Machine/Crew.lean ====
section
/-!
DEFINITION. What every crew instruction is made of (chapters 4 and 5): registers with their poison bits, operand
codes and the checks a word fails by its bits, fetch and issue, paths and reconvergence, completion statuses, and
the L1 data cache.
-/
namespace Sys2Proof.Machine
open Sys2Proof

/-! ### Registers (R95 to R97, R131 to R134, R167) -/

/-- Crew in slot `k` of cluster `c`. -/
def crw (s : State) (c k : Nat) : Crew := mget (clu s c).crews k { kernel := 0, index := 0 }

/-- Change the crew in a slot, where one is resident. -/
def updCrew (s : State) (c k : Nat) (f : Crew → Crew) : State :=
  match mfind (clu s c).crews k with
  | some x => setClu s c { clu s c with crews := mset (clu s c).crews k (f x) }
  | none => s

/-- Kinds of operand codes (Table 5.3). -/
inductive OpKind where
  | vec | sca | pred | special | limm | inl | reserved
deriving DecidableEq, Repr

/-- Kind of a 9-bit operand code. -/
def opKind (code : Nat) : OpKind :=
  if code < 0x100 then .vec else if code < 0x140 then .sca else if code < 0x148 then .pred
  else if code < 0x14F then .special else if code = 0x1BF then .limm else if 0x1C0 ≤ code then .inl else .reserved

/-- A fetched instruction about to be performed: its crew, words, address, length in words, and the active lanes
where its guard holds. -/
structure Ins where
  c : Nat
  slot : Nat
  w : Nat
  ext : Nat
  pc : Nat
  len : Nat
  active : W32
  lanes : W32
deriving DecidableEq, Repr

/-- Field `[hi:lo]` of the instruction word. -/
def Ins.f (i : Ins) (hi lo : Nat) : Nat := fld i.w hi lo
/-- Operand fields of formats R and M, in order: `DST` or `DATA`, `SRCA` or `BASE`, `SRCB` or `INDEX`, `SRCC` or `OPND`. -/
def Ins.o (i : Ins) (n : Nat) : Nat := fld i.w (44 - 9 * n) (36 - 9 * n)
/-- `MOD` of format R. -/
def Ins.mod (i : Ins) : Nat := fld i.w 8 0
/-- Operand width of format R: 32 or 64 bits (R566). -/
def Ins.wd (i : Ins) : Nat := if fld i.w 8 6 = 1 then 64 else 32
/-- The lanes the instruction acts in. -/
def Ins.on (i : Ins) (l : Nat) : Bool := i.lanes.getLsbD l

/-- One lane of a vector register. -/
def Crew.vLane (x : Crew) (r l : Nat) : Nat := (mget x.v (32 * r + l) 0#32).toNat

/-- A source operand in one lane, `wd` bits wide (32, 64 or 128 for vectors), with its poison bit (R131 to R133,
R167). A predicate is one bit. -/
def srcLane (s : State) (i : Ins) (wd code l : Nat) : Nat × Bool :=
  let x := crw s i.c i.slot
  match opKind code with
  | .vec =>
    let n := if wd ≤ 32 then 1 else wd / 32
    ((List.range n).foldl (fun v j => v + x.vLane (code + j) l * 2 ^ (32 * j)) 0 % 2 ^ wd,
     (List.range n).any fun j => mget x.vPoison (32 * (code + j) + l) false)
  | .sca => ((mget x.s (code - 0x100) 0#64).toNat % 2 ^ wd, mget x.sPoison (code - 0x100) false)
  | .pred => (b2n ((mget x.p (code - 0x140) 0#32).getLsbD l), (mget x.pPoison (code - 0x140) 0#32).getLsbD l)
  | .limm => (i.ext % 2 ^ wd, false)
  | .inl => (wrap wd (sext 6 code), false)
  | .reserved => (0, false)
  | .special =>
    let v := match code with
      | 0x148 => l
      | 0x149 => i.slot
      | 0x14A => i.c
      | 0x14B => i.active.toNat
      | 0x14C => paceAt s (cluTower i.c)
      | 0x14D => mget s.cycles (cluDie i.c) 0
      | _ => (mget x.mstat l 0#32).toNat
    (v % 2 ^ wd, false)

/-- Write one lane of a vector register, or of an even-odd pair or quad, with its poison bit. -/
def Crew.setVec (x : Crew) (wd r l v : Nat) (pz : Bool) : Crew :=
  let n := if wd ≤ 32 then 1 else wd / 32
  (List.range n).foldl (fun x j =>
    { x with v := mset x.v (32 * (r + j) + l) (BitVec.ofNat 32 (v / 2 ^ (32 * j))), vPoison := mset x.vPoison (32 * (r + j) + l) pz }) x

/-- Write one lane of a predicate. -/
def Crew.setPred (x : Crew) (p l : Nat) (v pz : Bool) : Crew :=
  let put := fun (m : W32) b => if b then m ||| (1#32 <<< l) else m &&& ~~~(1#32 <<< l)
  { x with p := mset x.p p (put (mget x.p p 0#32) v), pPoison := mset x.pPoison p (put (mget x.pPoison p 0#32) pz) }

/-- Write a scalar register. -/
def Crew.setSca (x : Crew) (r v : Nat) (pz : Bool) : Crew :=
  { x with s := mset x.s r (BitVec.ofNat 64 v), sPoison := mset x.sPoison r pz }

/-- Write a destination in one lane: a vector lane, a predicate's bit 0 of the value, or a whole scalar register. -/
def Crew.put (x : Crew) (wd code l v : Nat) (pz : Bool) : Crew :=
  match opKind code with
  | .vec => x.setVec wd code l v pz
  | .pred => x.setPred (code - 0x140) l (bit v 0) pz
  | .sca => x.setSca (code - 0x100) v pz
  | _ => x

/-- Write a destination in the instruction's lanes from a per-lane result. -/
def writeLanes (s : State) (i : Ins) (wd code : Nat) (r : Nat → Nat × Bool) : State :=
  updCrew s i.c i.slot fun x => (lanesOf i.lanes).foldl (fun x l => x.put wd code l (r l).1 (r l).2) x

/-! ### Paths and divergence (R102 to R107, R123, R162) -/

/-- Lanes that have not exited. -/
def Crew.live (x : Crew) : W32 := ~~~x.exited

/-- The reconvergence point of an open divergence. -/
def Crew.point (x : Crew) (d : Nat) : Option Nat := (x.divs.find? fun e => e.id == d).map (·.reconv)

/-- Whether a path is at the reconvergence point of its innermost divergence. -/
def Crew.atPoint (x : Crew) (p : Path) : Bool :=
  match p.divs with
  | d :: _ => x.point d == some p.pc
  | [] => false

/-- Lanes that wait at the point of divergence `d`. -/
def Crew.waitingAt (x : Crew) (d : Nat) : W32 :=
  (x.atReconv.filter fun p => p.divs.head? == some d).foldl (fun m p => m ||| p.mask) 0#32

/-- Merge the paths that wait at `d`'s point (R103). -/
def Crew.mergeAt (x : Crew) (e : Div) : Crew :=
  let here := x.atReconv.filter fun p => p.divs.head? == some e.id
  let p : Path := { mask := x.waitingAt e.id, pc := e.reconv, divs := (here.headD { mask := 0#32, pc := 0 }).divs.drop 1, age := x.nextAge }
  let x := { x with
    atReconv := x.atReconv.filter fun q => q.divs.head? != some e.id
    divs := x.divs.filter fun f => f.id != e.id
    nextAge := x.nextAge + 1 }
  match x.run with
  | none => { x with run := some p }
  | some _ => if x.atPoint p then { x with atReconv := x.atReconv ++ [p] } else { x with pending := x.pending ++ [p] }

/-- One move towards a running path that is not at its reconvergence point: it waits there, a complete divergence
merges, or the oldest pending path runs (R103, R105). None when nothing moves. -/
def Crew.settleStep (x : Crew) : Option Crew :=
  match x.run with
  | some p => if x.atPoint p then some { x with run := none, atReconv := x.atReconv ++ [p] } else
    match x.divs.reverse.find? fun e => x.waitingAt e.id != 0#32 && (e.lanes &&& x.live &&& ~~~x.waitingAt e.id) == 0#32 with
    | some e => some (x.mergeAt e)
    | none => none
  | none =>
    match x.divs.reverse.find? fun e => x.waitingAt e.id != 0#32 && (e.lanes &&& x.live &&& ~~~x.waitingAt e.id) == 0#32 with
    | some e => some (x.mergeAt e)
    | none =>
      match minBy (fun (p : Path) => p.age) x.pending with
      | some p => some { x with run := some { p with count := 0 }, pending := x.pending.filter fun q => q.age != p.age }
      | none => none

/-- Repeat `settleStep` until nothing moves; a crew has at most 32 paths and 32 open divergences on each. -/
def Crew.settleN : Nat → Crew → Crew
  | 0, x => x
  | n + 1, x =>
    match x.settleStep with
    | some y => y.settleN n
    | none => x

/-- Settle the paths of a crew; a divergence no path lies in is forgotten. -/
def Crew.settle (x : Crew) : Crew :=
  let x := x.settleN 128
  let used := (x.run.toList ++ x.pending ++ x.atReconv ++ x.atBarrier).flatMap (·.divs)
  { x with divs := x.divs.filter fun e => used.contains e.id }

/-- Move the running path to `pc` and settle. -/
def Crew.goto (x : Crew) (pc : Nat) : Crew :=
  { x with run := x.run.map fun (p : Path) => { p with pc := pc, wait := none } }.settle

/-- A taken backward branch of the running path to `pc` under rotation limit `lim` (R105, R107). A path that polls
keeps the lanes it waits for. -/
def Crew.backward (x : Crew) (lim pc : Nat) (wait : Option W32) : Crew :=
  match x.run with
  | none => x
  | some p =>
    let p := { p with pc := pc, count := p.count + 1, wait := wait }
    if lim < p.count ∧ x.pending ≠ [] then
      { x with run := none, pending := x.pending ++ [{ p with age := x.nextAge }], nextAge := x.nextAge + 1 }.settle
    else { x with run := some p }.settle

/-- Lanes exit (R162): they count towards no point; a crew without lanes waits for its release. -/
def Crew.exit (x : Crew) (lanes : W32) : Crew :=
  let x := { x with
    exited := x.exited ||| lanes
    run := match x.run with
      | some p => if p.mask &&& ~~~lanes = 0#32 then none else some { p with mask := p.mask &&& ~~~lanes }
      | none => none }
  if x.exited = 0xFFFFFFFF#32 then { x with hold := .ended, run := none, pending := [], atReconv := [], atBarrier := [], divs := [] }
  else x.settle

/-- Move the running path of the instruction's crew past it. -/
def step1 (s : State) (i : Ins) : State := updCrew s i.c i.slot fun x => x.goto (i.pc + 8 * i.len)

/-! ### Exceptions and completion statuses (R165 to R169) -/

/-- The instruction's crew raises an exception. -/
def raiseIns (s : State) (i : Ins) (e : Exc) : State := raise s i.c i.slot i.pc (BitVec.ofNat 64 i.w) e

/-- Record a fault in `MSTAT` lanes (R166). -/
def Crew.record (x : Crew) (l st : Nat) : Crew :=
  let m := (mget x.mstat l 0#32).toNat
  let first := if m % 65536 = 0 then st % 65536 else m % 65536
  { x with mstat := mset x.mstat l (BitVec.ofNat 32 (min 0xFFFF (m / 65536 + 1) * 65536 + first)) }

/-- Whether a completion status is a fault: neither `OK` nor `POISONED`. -/
def isFault (st : Nat) : Bool := st != 0 && st != 8

/-- Report completed lanes (lane, status, address) of the instruction at `pc`: faults raise `MEM_FAULT` with the address and
status of the lowest lane (Table 5.8), or are recorded under `MREPORT` (R165, R166). -/
def report (s : State) (c slot pc : Nat) (instr : W64) (rs : List (Nat × Nat × Nat)) : State :=
  let bad := rs.filter fun r => isFault r.2.1
  match minBy (fun (r : Nat × Nat × Nat) => r.1) bad with
  | none => s
  | some r =>
    if (crw s c slot).mreport then updCrew s c slot fun x => bad.foldl (fun x e => x.record e.1 e.2.1) x
    else raise s c slot pc instr { code := 8, lanes := maskOf (bad.map (·.1)), addr := r.2.2, status := r.2.1 }

/-- A fault of an asynchronous operation, charged to every lane that was active at its instruction (R157). -/
def asyncFault (s : State) (c slot pc : Nat) (instr : W64) (lanes : W32) (addr st : Nat) : State :=
  match mfind (clu s c).crews slot with
  | none => s
  | some _ => if isFault st then report s c slot pc instr ((lanesOf lanes).map fun l => (l, st, addr)) else s

/-- The status of the lowest lane of a crew whose `MSTAT` shows a fault (R383). -/
def Crew.shown (x : Crew) : Option Nat :=
  ((List.range 32).find? fun l => (mget x.mstat l 0#32).toNat % 65536 != 0).map fun l => (mget x.mstat l 0#32).toNat % 65536

/-- Whether a release or flagged store of the crew is held back by a recorded fault (R383). -/
def withheld (s : State) (i : Ins) : Option Nat := if (crw s i.c i.slot).mreport then (crw s i.c i.slot).shown else none

/-! ### Checks by the bits of a word (R128 to R134, R566) -/

/-- The operand fields of a word that are operand codes, by its format. -/
def opFields (w : Nat) : List Nat :=
  let o := fun n => fld w (44 - 9 * n) (36 - 9 * n)
  match fld w 63 58 with
  | 0x10 => if fld w 53 50 = 2 then [o 1, o 2, o 3] else [o 0, o 1, o 2, o 3]
  | 0x11 => [o 0, o 1, o 2, o 3]
  | 0x20 => [fld w 8 0]
  | m => if decide (1 ≤ m) && decide (m ≤ 8) then [o 0, o 1, o 2, o 3] else [o 0, o 1, o 2]

/-- Length of an instruction in words: two when it names `LIMM` (R134). -/
def insLen (w : Nat) : Nat := if (opFields w).contains 0x1BF then 2 else 1

/-- Whether a conversion code is valid (Table 8.3). -/
def cvtCode (n : Nat) : Bool := (cvtWidth n).isSome

/-- Whether `MAJOR` and `MINOR` name an instruction (R128, R135, R141, R148, R160, R245, Table 5.6). -/
def known (major minor : Nat) : Bool :=
  match major with
  | 0x00 => decide (minor ≤ 4)
  | 0x01 => decide (minor ≤ 0x13)
  | 0x02 => decide (minor ≤ 7)
  | 0x03 => decide (minor ≤ 5)
  | 0x04 => minor == 0xFF || (cvtCode (minor / 16) && cvtCode (minor % 16))
  | 0x05 => decide (minor ≤ 5)
  | 0x06 => [0, 1, 2, 4, 6].contains minor
  | 0x07 => decide (minor ≤ 8)
  | 0x08 => decide (minor ≤ 8) || minor == 0x0A || minor == 0x0B
  | 0x10 => minor % 16 != 15
  | 0x11 => decide (minor ≤ 3)
  | 0x12 => minor == 0
  | 0x13 => minor == 0
  | 0x18 => (decide (1 ≤ minor) && decide (minor ≤ 6)) || minor == 0x0F
  | 0x20 => decide (1 ≤ minor) && decide (minor ≤ 4)
  | 0x21 => decide (minor ≤ 1)
  | _ => false

/-- Codes every word may raise: an invalid `GMODE`, a reserved operand code, two `LIMM` operands. -/
def commonCodes (w : Nat) : List Nat :=
  (if fld w 49 48 = 3 then [1] else [])
    ++ (if (opFields w).any (fun c => opKind c == .reserved) || decide (1 < ((opFields w).filter (· == 0x1BF)).length) then [2] else [])

/-- Codes a vector operand of `n` registers may raise: misaligned (R132), at or above V (R97). -/
def vecCodes (x : Crew) (code n : Nat) : List Nat :=
  if opKind code = .vec then (if code % n ≠ 0 then [2] else []) ++ (if x.vcount < code + n then [3] else []) else []

/-- Shape of an R-format instruction: how many sources it uses, in order A, B, C; which of them must be predicates;
whether it takes the 64-bit type; its largest `MOD[2:0]`; whether it is crew-uniform; its kind of destination. -/
structure RShape where
  n : Nat
  preds : List Nat := []
  wide : Bool := false
  cond : Nat := 0
  uni : Bool := false
  dst : OpKind := .vec
deriving DecidableEq, Repr

/-- Codes an R-format word raises by its bits (R129, R131 to R133, R566). A destination is a vector register or a
predicate, a predicate, or a scalar register, as the shape says. -/
def rCodes (h : RShape) (x : Crew) (i : Ins) : List Nat :=
  let typ := fld i.w 8 6
  let regs := if typ = 1 then 2 else 1
  let src := fun k =>
    let code := i.o (k + 1)
    if h.n ≤ k then (if code ≠ 0 ∨ bit i.w (5 - k) then [1] else [])
    else (if h.preds.contains k && opKind code != .pred then [2] else [])
      ++ (if h.uni && (opKind code == .vec || opKind code == .pred) then [2] else [])
      ++ vecCodes x code regs
  let d := opKind (i.o 0)
  (if typ > (if h.wide then 1 else 0) ∨ h.cond < fld i.w 2 0 then [1] else [])
    ++ src 0 ++ src 1 ++ src 2
    ++ (match h.dst with
      | .vec => if d = .vec ∨ d = .pred then [] else [2]
      | k => if d = k then [] else [2])
    ++ vecCodes x (i.o 0) regs

/-! ### Fetch and issue (R99, R128 to R134, R161) -/

/-- Whether a request of a crew in a slot is outstanding; `dst` asks only for those that return data to it. -/
def outstanding (s : State) (c slot : Nat) (dst : Bool) : Bool :=
  (s.requests.any fun r => match r.crew with
    | some d => d.cluster == c && d.slot == slot && (!dst || d.hasDst)
    | none => false)
    || s.headframes.any fun h => h.2.waiting.any fun (l : WinLoad) => match l.who with
      | .crew d => d.cluster == c && d.slot == slot
      | _ => false

/-- Whether a crew's scheduler may issue for it: its kernel runs, nothing holds it, and the data of its loads has
returned (R99, R413, R418; log 28). -/
def mayIssue (s : State) (c slot : Nat) : Bool :=
  match mfind (clu s c).crews slot with
  | none => false
  | some x =>
    let k := krn s x.kernel
    alive s && (clu s c).mode == .running && k.mode == .running && !k.contained
      && !(clu s c).stopping.contains x.kernel && (s.beat.mode == .beating || s.beat.mode == .grace)
      && x.hold == .none && x.run.isSome && !outstanding s c slot true

/-- Issuer of a crew's accesses. -/
def crewIss (s : State) (c slot : Nat) : Issuer :=
  { kind := .crew, unit := c, part := some (krn s (crw s c slot).kernel).part }

/-- Status of fetching 8 B at `pc` and the word (R161; log 29). -/
def fetch (s : State) (c slot pc : Nat) : Nat × Nat :=
  if pc % 8 ≠ 0 ∨ 2 ^ 48 ≤ pc then (4, 0)
  else
    let st := accessStatus s (crewIss s c slot) .fetch pc 8
    if st ≠ 0 then (st, 0)
    else match home s pc with
      | .regs => (4, 0)
      | .window => (4, 0)
      | _ => if failedHome s pc || poisoned s pc 8 then (8, 0) else (0, readNat s pc 8)

/-- The lanes of a path in which an instruction's guard holds: `g` is the guard's predicate (R130). -/
def guardLanes (w : Nat) (active g : BitVec 32) : BitVec 32 :=
  match fld w 49 48 with
  | 0 => active
  | 1 => active &&& g
  | _ => active &&& ~~~g

/-- The next instruction of a crew where it is one of this kind (`mine major minor`), with the exceptions it raises: `codes` by
its bits, `more` by its operands where its guard lets it be performed, and those of its guard and its fetch (R128, R130, R161,
R167). None where its fetch waits. -/
def readIns (s : State) (c slot : Nat) (mine : Nat → Nat → Bool) (uniform : Bool) (codes : Crew → Ins → List Nat)
    (more : Ins → List Exc) : Option (Ins × List Exc) :=
  let x := crw s c slot
  let p := x.run.getD { mask := 0#32, pc := 0 }
  let r := fetch s c slot p.pc
  if waits s p.pc then none
  else if r.1 ≠ 0 then
    some ({ c, slot, w := 0, ext := 0, pc := p.pc, len := 1, active := p.mask, lanes := p.mask }, [{ code := 0x0E, lanes := p.mask, addr := p.pc }])
  else if mine (fld r.2 63 58) (fld r.2 57 50) = false then none
  else
    let w := r.2
    let len := insLen w
    let e := if len = 2 then fetch s c slot (p.pc + 8) else (0, 0)
    let g := mget x.p (fld w 47 45) 0#32
    let gz := if fld w 49 48 = 0 then 0#32 else mget x.pPoison (fld w 47 45) 0#32 &&& p.mask
    let lanes := guardLanes w p.mask g
    let i : Ins := { c, slot, w, ext := e.2, pc := p.pc, len, active := p.mask, lanes }
    some (i, ((commonCodes w ++ codes x i).map fun code => { code, lanes := p.mask })
      ++ (if uniform && lanes == 0#32 then [] else more i)
      ++ (if gz ≠ 0#32 then [{ code := 9, lanes := gz }] else [])
      ++ (if e.1 ≠ 0 then [{ code := 0x0E, lanes := p.mask, addr := p.pc + 8 }] else []))

/-- Whether a crew whose kernel an exception has stopped may still raise one of its own: in the `ARITH` cycle of the stop
(R168, R169). -/
def mayRaise (s : State) (c slot : Nat) : Bool :=
  match mfind (clu s c).crews slot with
  | none => false
  | some x => alive s && (krn s x.kernel).contained && raises s x.kernel c && x.hold == .none && x.run.isSome

/-- Issue the next instruction of a crew where it is one of this kind: of the exceptions it meets the lowest code is raised
(R169); else `body` performs it. A crew-uniform instruction whose guard holds in no lane is skipped (R130). A crew that its
kernel's stop has met can only raise. -/
def issue (s : State) (c slot : Nat) (mine : Nat → Nat → Bool) (uniform : Bool) (codes : Crew → Ins → List Nat)
    (body : State → Ins → State) (more : Ins → List Exc := fun _ => []) : State :=
  if mayIssue s c slot = false ∧ mayRaise s c slot = false then s else
  match readIns s c slot mine uniform codes more with
  | none => s
  | some (i, all) =>
    match minBy (fun (e : Exc) => e.code) all with
    | some e => raiseIns s i e
    | none =>
      if mayIssue s c slot = false then s
      else if (opFields i.w).contains 0x14E && outstanding s c slot false then s
      else if uniform && i.lanes == 0#32 then step1 s i
      else body s i

/-! ### L1 data cache (R112 to R116, R570) -/

/-- Whether the L1 data cache may hold a line of this address (R112). -/
def l1Holds (s : State) (a : Nat) : Bool :=
  match home s a with
  | .fast _ => true
  | .deep _ => true
  | .scratch _ => true
  | _ => false

/-- The line of a cluster's L1 that holds an address. -/
def l1Find (x : Cluster) (a : Nat) : Option L1Line := x.l1.find? fun l => l.line == a / 128

/-- A hit or fill touches the set's replacement tree. -/
def l1Touch (x : Cluster) (set way : Nat) : Cluster := { x with l1plru := mset x.l1plru set (plruTouch 8 (mget x.l1plru set 0) way) }

/-- Fill a line: the lowest empty way, else the tree's victim (R570). -/
def l1Fill (x : Cluster) (line : Nat) (data : List Byte) (poison : List Nat) : Cluster :=
  let set := line % 256
  let used := (x.l1.filter fun l => l.set == set).map (·.way)
  let way := ((List.range 8).find? fun w => !used.contains w).getD (plruVictim 8 (mget x.l1plru set 0))
  let x := { x with l1 := (x.l1.filter fun l => !(l.set == set && l.way == way)) ++ [{ line, set, way, data, poison }] }
  l1Touch x set way

/-- A crew store updates a present line (R113), and the tag of a unit as a write of memory does (R82). -/
def l1Store (x : Cluster) (a : Nat) (bs : List Byte) (tag : Bool) : Cluster :=
  { x with l1 := x.l1.map fun l =>
      if l.line = a / 128 then
        let o := a % 128
        { l with
          data := (List.range 128).map fun i => if o ≤ i ∧ i < o + bs.length then bs.getD (i - o) 0#8 else l.data.getD i 0#8
          poison := if tag then addOnce l.poison (o / 64)
            else l.poison.filter fun u => !(decide (o ≤ 64 * u) && decide (64 * u + 64 ≤ o + bs.length)) }
      else l }

/-- An atomic of the cluster's crews invalidates the line (R113). -/
def l1Drop (x : Cluster) (a : Nat) : Cluster := { x with l1 := x.l1.filter fun l => l.line != a / 128 }

/-- The L1 finds `n` bits of a word it holds wrong (R115): one is corrected; of two the line is dropped, to be fetched again;
both are CORRECTED. Of more nothing is promised (R111): which of the two, or neither, and the word's data are free. -/
def l1WordErr (c : Nat) (s : State) (e : Nat × Nat) : State :=
  match l1Find (clu s c) (8 * e.1), e.2 with
  | none, _ => s
  | _, 0 => s
  | some l, n + 1 =>
    let r := if n < 2 then (n, s) else draw s 3
    if r.1 = 1 then correctedError (setClu r.2 c (l1Drop (clu r.2 c) (8 * e.1))) (68 + c) (8 * e.1)
    else
      let v := if n < 2 then (0, r.2) else draw r.2 (2 ^ 64)
      let put := fun (x : L1Line) => if x.line = l.line then
          { x with data := x.data.take (e.1 % 16 * 8) ++ leBytes 8 v.1 ++ x.data.drop (e.1 % 16 * 8 + 8) } else x
      let s := if n < 2 then v.2 else setClu v.2 c { clu v.2 c with l1 := (clu v.2 c).l1.map put }
      if r.1 = 0 then correctedError s (68 + c) (8 * e.1) else s

/-- Bits that SEC-DED finds wrong in the words (address ÷ 8, bits flipped) that an access of the crew in a slot reads: in its L1
(R115), or in shared local memory (R111). -/
def meetErrs (s : State) (c : Nat) (addrs : List (Nat × Nat)) (errs : List (Nat × Nat)) : State :=
  errs.foldl (fun s e =>
    if addrs.any fun a => decide (a.1 / 8 ≤ e.1) && decide (e.1 ≤ (a.1 + a.2 - 1) / 8) then
      if inSlm (8 * e.1) then (if e.2 = 0 then s else readWord s (8 * e.1) e.2) else l1WordErr c s e
    else s) s

/-- An acquire at a scope of CLUSTER or wider empties the acquiring cluster's L1 and is counted (R380, R399). -/
def acquire (s : State) (c scope : Nat) : State :=
  if scope = 0 then s else setClu s c { clu s c with l1 := [], acqFlushes := (clu s c).acqFlushes + 1 }

/-! ### Assay sets (R254, R256) -/

/-- Add the counts of one conversion to an assay set; every counter saturates at all ones. -/
def Cluster.count (x : Cluster) (set elems zeros sat nonfin : Nat) : Cluster :=
  let a := mget x.assay set {}
  let up := fun p q => min (2 ^ 64 - 1) (p + q)
  { x with assay := mset x.assay set { elems := up a.elems elems, zeros := up a.zeros zeros, sat := up a.sat sat, nonfin := up a.nonfin nonfin } }

/-! ### Asynchronous counters (R154) -/

/-- Counter `q` of a crew loses 1; an `AWAIT` whose bound it meets lets the crew go on. -/
def dropQ (s : State) (c slot q : Nat) : State :=
  updCrew s c slot fun x =>
    let n := mget x.q q 0 - 1
    let x := { x with q := mset x.q q n }
    match x.hold with
    | .await j b => if j = q ∧ n ≤ b then { x with hold := .none } else x
    | _ => x

/-- Counter `q` of a crew gains 1. -/
def addQ (s : State) (c slot q : Nat) : State := updCrew s c slot fun x => { x with q := mset x.q q (mget x.q q 0 + 1) }

end Sys2Proof.Machine
end

