-- ==== Sys2Proof/Machine/Fabric.lean ====
section
/-!
DEFINITION. Denyan packets, routes, sending and combining, the life of a request of this node, and what its
completion does to the crew that issued it (chapter 11, R323 to R351, R355; R117 to R121, R142, R146, R147, R166).
-/
namespace Sys2Proof.Machine
open Sys2Proof

/-! ### Replies to crews -/

/-- The instruction a crew issued at `pc`, read again for a reply. -/
def insAt (s : State) (c slot pc : Nat) (w : W64) : Ins :=
  let p := (crw s c slot).run.getD { mask := 0#32, pc := pc }
  let len := insLen w.toNat
  { c, slot, w := w.toNat, ext := if len = 2 then readNat s (pc + 8) 8 else 0, pc, len, active := p.mask, lanes := p.mask }

/-- Whether a value of `n` bits meets a `WAIT` condition (R146). -/
def waitHolds (cond n v o : Nat) : Bool :=
  match cond with
  | 0 => v == o
  | 1 => v != o
  | 2 => decide (o ≤ v)
  | 3 => decide (v < o)
  | 4 => decide (sext n o ≤ sext n v)
  | 5 => decide (sext n v < sext n o)
  | 6 => v &&& o != 0
  | _ => v &&& o == o

/-- Size of a memory instruction's access in bytes (R141). -/
def Ins.size (i : Ins) : Nat := 2 ^ fld i.w 57 55
/-- Register width of a memory instruction's data operand: a scalar is 64 bits (R142). -/
def dataWidth (code size : Nat) : Nat := if opKind code = .sca then 64 else max 32 (8 * size)
/-- A loaded value extended to its register (R142). -/
def extend (size wd : Nat) (signed : Bool) (v : Nat) : Nat := if signed then wrap wd (sext (8 * size) v) else v

/-- Take polled lanes off the lanes the running path waits for: those whose condition holds and those whose poll
ended in a fault (R147). `rs` lists lane, status, value, address. -/
def pollLanes (s : State) (i : Ins) (rs : List (Nat × Nat × Nat × Nat)) : State :=
  let n := 8 * i.size
  let ends := rs.filter fun r => isFault r.2.1 || waitHolds (i.o 0) n (r.2.2.1 % 2 ^ n) (srcLane s i n (i.o 3) r.1).1
  let gone := maskOf (ends.map (·.1))
  let s := updCrew s i.c i.slot fun x => { x with run := x.run.map fun (p : Path) => { p with wait := p.wait.map fun m => m &&& ~~~gone } }
  report s i.c i.slot i.pc (BitVec.ofNat 64 i.w) (rs.map fun r => (r.1, r.2.1, r.2.2.2))

/-- A round of polls has returned (R147): the path goes on when it waits for no lane, with the acquire of `.ACQ`;
otherwise the round counts as one taken backward branch. -/
def endPoll (s : State) (i : Ins) : State :=
  match mfind (clu s i.c).crews i.slot with
  | none => s
  | some x =>
    match x.run with
    | none => s
    | some p =>
      if p.wait = some 0#32 then
        let s := step1 s i
        if fld i.w 6 5 = 1 then acquire s i.c (fld i.w 4 2) else s
      else updCrew s i.c i.slot fun x => x.backward (max 1 (clu s i.c).rotLimit) i.pc p.wait

/-- Values of the operand and, for `CAS`, of the new value of an atomic in one lane, with their poison (R149, R167). -/
def atomOperand (s : State) (i : Ins) (l : Nat) : Nat × Nat × Bool :=
  let n := 8 * i.size
  let a := srcLane s i n (i.o 3) l
  if fld i.w 53 50 = 0xE then
    let stp := if opKind (i.o 3) = .vec ∧ i.size = 8 then 2 else 1
    let b := srcLane s i n (i.o 3 + stp) l
    (a.1, b.1, a.2 || b.2)
  else (a.1, 0, a.2)

/-- The values a merged atomic returns to its lanes, in lane order, from the old value at the target (R118, R167). -/
def atomReturns (s : State) (i : Ins) (old : Nat) (pz : Bool) (lanes : List Nat) : List (Nat × Nat × Bool) :=
  (lanes.foldl (fun (acc : (Nat × Bool) × List (Nat × Nat × Bool)) l =>
    let o := atomOperand s i l
    let r := atomOp (fld i.w 53 50) (8 * i.size) acc.1.1 o.1 o.2.1
    ((r.1, acc.1.2 || o.2.2), acc.2 ++ [(l, acc.1.1, acc.1.2)])) ((old, pz), [])).2

/-- A remote or window access of a crew completes (R165 to R167): its lanes get their values, 0 where it was not
applied, and its faults are reported. `data` starts at the packet's first byte. -/
def crewReply (s : State) (d : CrewDst) (st : Nat) (data : List Byte) (pz : Bool) : State :=
  match mfind (clu s d.cluster).crews d.slot with
  | none => s
  | some _ =>
    let i := insAt s d.cluster d.slot d.pc d.instr
    let val := fun off => leNat ((data.drop off).take d.size)
    let done := d.lanes.map fun l => (l.1, st, d.base + l.2)
    if d.dst = 0x200 then
      let s := pollLanes s i (d.lanes.map fun l => (l.1, st, val l.2, d.base + l.2))
      if outstanding s d.cluster d.slot true then s else endPoll s i
    else
      let wd := dataWidth d.dst d.size
      let rs : List (Nat × Nat × Bool) :=
        if isFault st then d.lanes.map fun l => (l.1, 0, false)
        else if 4 ≤ fld i.w 53 50 then atomReturns s i (val 0) pz (d.lanes.map (·.1))
        else d.lanes.map fun l => (l.1, extend d.size wd d.signed (val l.2), pz)
      let s := if d.hasDst then
          updCrew s d.cluster d.slot fun x => rs.foldl (fun x r => x.put wd d.dst r.1 r.2.1 r.2.2) x
        else s
      report s d.cluster d.slot d.pc d.instr done

/-- An instruction with an acquire part, other than `WAIT`, acquires (R380) once its last data has returned. -/
def acquiredBy (s : State) (c slot w : Nat) : State :=
  if fld w 63 58 = 0x10 ∧ fld w 53 50 ≠ 2 ∧ bit w 5 ∧ (mfind (clu s c).crews slot).isSome ∧ outstanding s c slot true = false then
    acquire s c (fld w 4 2)
  else s
/-- The acquire of an answered request's instruction. -/
def acquired (s : State) (d : CrewDst) : State := acquiredBy s d.cluster d.slot d.instr.toNat

/-- A transposing load takes the answer to one of its reads. -/
def TldJob.take (j : TldJob) (id st : Nat) (data : List Byte) (pz : Bool) : TldJob :=
  match j.left.find? fun (x : Nat × Nat) => x.1 == id with
  | some x => { j with got := j.got ++ [(x.2, st, data, pz)], left := j.left.filter fun (y : Nat × Nat) => y.1 != id }
  | none => j

/-- A transposing load takes lines of a window: `n` bytes from address `a`. -/
def TldJob.takeLines (j : TldJob) (a n st : Nat) (data : List Byte) (pz : Bool) : TldJob :=
  let ls := (List.range (n / 128)).map fun i => a + 128 * i
  { j with got := j.got ++ ls.map fun l => (l, st, (data.drop (l - a)).take 128, pz), lines := j.lines.filter fun l => !ls.contains l }

/-- A read that a transposing load of cluster `c` waits for returns: it is kept until the tile is written (R155). -/
def tldReply (s : State) (r : Request) (st : Nat) (data : List Byte) (pz : Bool) : State :=
  match r.tld with
  | none => s
  | some c => setClu s c { clu s c with tlds := (clu s c).tlds.map fun j => j.take r.id st data pz }

/-! ### Packets and routes (R323 to R326, R332 to R336) -/

/-- This module's node number. -/
def nodeId (s : State) : Nat := cfg s 0x400001
/-- Pod of a node number. -/
def podOf (n : Nat) : Nat := fld n 13 10

/-- The four header words of a packet (Table 11.4). -/
def pktWords (p : Packet) : List Nat :=
  [p.cls * 2 ^ 62 + b2n p.rsp * 2 ^ 61 + p.type * 2 ^ 56 + p.dst * 2 ^ 42 + p.src * 2 ^ 28 + p.engine * 2 ^ 16 + p.seq,
   p.offset * 2 ^ 16 + p.len * 16 + p.aop,
   b2n p.flag * 2 ^ 63 + p.scope * 2 ^ 60 + b2n p.ecn * 2 ^ 59 + b2n p.ece * 2 ^ 58 + b2n p.nocomb * 2 ^ 57 + p.retry * 2 ^ 55
     + p.hops * 2 ^ 47 + p.jkey * 2 ^ 39 + p.aux,
   p.birth * 2 ^ 32 + p.status * 2 ^ 16]

/-- A packet's bytes on the link: header, payload, code, padded to a multiple of 8 B (R332). -/
def pktBytes (p : Packet) : List Byte :=
  let b := (pktWords p).flatMap (leBytes 8) ++ p.payload ++ leBytes 4 p.ecrc
  padTo (cdiv b.length 8 * 8) b

/-- The packet of header word 0 and the bytes that follow it (Table 11.4), with the tags of its data. -/
def pktParse (w0 : Nat) (b : List Byte) (poison : Bool) (pz : List Nat) : Packet :=
  let w1 := leNat (b.take 8)
  let w2 := leNat ((b.drop 8).take 8)
  let w3 := leNat ((b.drop 16).take 8)
  let len := fld w1 15 4
  { cls := fld w0 63 62, rsp := bit w0 61, type := fld w0 60 56, dst := fld w0 55 42, src := fld w0 41 28, engine := fld w0 27 16
    seq := fld w0 15 0, offset := fld w1 63 16, len, aop := fld w1 3 0, flag := bit w2 63, scope := fld w2 62 60, ecn := bit w2 59
    ece := bit w2 58, nocomb := bit w2 57, retry := fld w2 56 55, hops := fld w2 54 47, jkey := fld w2 46 39, aux := fld w2 31 0
    birth := fld w3 63 32, status := fld w3 31 16, payload := (b.drop 24).take len, poison, pz
    ecrc := leNat ((b.drop (24 + len)).take 4) }

/-- Virtual channel of a packet (Table 11.3): twice its class, and 1 more for a response. -/
def vcOf (p : Packet) : Nat := 2 * p.cls + b2n p.rsp
/-- Input buffer of a virtual channel in 64 B flits (Table 11.3). -/
def vcFlits (vc : Nat) : Nat := [2048, 2048, 8192, 1024, 1024, 1024, 512, 512].getD vc 0
/-- Flits a packet takes. -/
def flitsOf (p : Packet) : Nat := cdiv (cdiv (36 + p.payload.length) 8 * 8) 64

/-- The packet's code over its header, with `HOPS`, `ECN` and `ECE` as 0, and its payload (R334). -/
def pktCode (p : Packet) : Nat :=
  crc32c (((pktWords { p with hops := 0, ecn := false, ece := false }).flatMap (leBytes 8)) ++ p.payload)

/-- A packet with its payload's length and its code. -/
def pktClose (p : Packet) : Packet :=
  let p := { p with len := p.payload.length }
  { p with ecrc := pktCode p }

/-- Whether a port is in service. -/
def portUp (s : State) (p : Nat) : Bool := (prt s p).mode == .active || (prt s p).mode == .degraded

/-- Ports in service of a node's route entry, ascending (R324). -/
def routes (s : State) (node : Nat) : List Nat :=
  let m := subNat (cfgB s 0x410001) (4 * node) 4
  (List.range 32).filter fun p => bit m p && portUp s p

/-- Flits queued at a port and not yet sent. -/
def queuedFlits (x : Port) : Nat := (x.sending.map fun e => e.2.2).foldl (· + ·) ((x.outQ.map fun e => flitsOf e.pkt).foldl (· + ·) 0)

/-- Port a packet leaves on, and the state that has chosen it (R325): by the hash for D and C, where a response
takes its request's; the port with the fewest queued flits for B and M, a free choice among equals (log 32). -/
def pickPort (s : State) (p : Packet) : Option (Nat × State) :=
  let ps := routes s p.dst
  if ps.isEmpty then none
  else if p.cls = 0 ∨ p.cls = 3 then
    let h := if p.rsp then Config.routeHash p.dst p.engine p.src (p.offset / 128)
      else Config.routeHash p.src p.engine p.dst (p.offset / 128)
    some (ps.getD (h % ps.length) 0, s)
  else
    let n := fun q => queuedFlits (prt s q)
    let best := ps.filter fun q => ps.all fun q' => decide (n q ≤ n q')
    if best.length = 1 then some (best.headD 0, s)
    else
      let r := draw s best.length
      some (best.getD r.1 0, r.2)

/-- Put a packet into a port's output queue. -/
def push (s : State) (port : Nat) (p : Packet) (req : Option Nat := none) : State :=
  setPrt s port { prt s port with outQ := (prt s port).outQ ++ [{ pkt := p, time := s.pace.now, req }] }

/-- Count a discarded packet at a port (R371). -/
def dropAt (s : State) (port : Nat) : State := setPrt s port { prt s port with dropped := (prt s port).dropped + 1 }

/-- Send a packet that expects no answer of this node; none where no port leads to its node. -/
def emit (s : State) (p : Packet) : Option State := (pickPort s p).map fun r => push r.2 r.1 p

/-- Pace time [31:0]. -/
def birthNow (s : State) : Nat := s.pace.now % 2 ^ 32

/-- `AUX` of the response to a packet (Table 11.5): the transfer number, which a read carries above its byte count (log 135),
or the message sequence. -/
def replyAux (q : Packet) : Nat :=
  if q.cls = 1 then (if q.type = 0xA then q.aux / 65536 else q.aux) else if q.cls = 2 then q.aux % 65536 else 0

/-- The response to a packet, from this node, with a status and payload; it carries the congestion mark as `ECE` (R354). -/
def replyTo (s : State) (q : Packet) (type status : Nat) (payload : List Byte) (pz mark : Bool) : Packet :=
  pktClose {
    cls := q.cls, rsp := true, type, dst := q.src, src := nodeId s, engine := q.engine, seq := q.seq
    offset := q.offset, ece := mark, hops := cfg s 0x410002, jkey := q.jkey, birth := birthNow s, status
    aux := replyAux q, payload, poison := pz }

/-- Send a response; one that cannot be routed is discarded and counted at the port the request came by (R324). -/
def answer (s : State) (port : Nat) (p : Packet) : State := (emit s p).getD (dropAt s port)

/-- Type of the response a request gets; none for the C class. -/
def responseType (type : Nat) : Option Nat :=
  match type with
  | 1 => some 2 | 3 => some 4 | 5 => some 6 | 8 => some 0xC | 9 => some 0xC | 0xA => some 0xB | 0x10 => some 0x12 | _ => none

/-- A passing packet that goes no further: discarded and counted, and a request gets `NODE_UNREACHABLE` (R324, R326). -/
def unreachable (s : State) (port : Nat) (p : Packet) : State :=
  let s := dropAt s port
  if p.rsp then s
  else match responseType p.type with
    | some t => (emit s (replyTo s p t 0x12 (if p.type = 5 then leBytes 8 0 else []) false p.ecn)).getD s
    | none => s

/-- Job key of a partition (R486). -/
def jkeyOf (s : State) (part : Nat) : Nat := cfg s (partKey part 2)

/-- The partition a job key belongs to; other traffic counts against partition 0. -/
def jkeyPart (s : State) (k : Nat) : Nat := ((List.range 16).find? fun p => partOn s p && jkeyOf s p == k).getD 0

/-- Whether a request's `BIRTH` lies more than 40 µs back (R335). -/
def tooOld (s : State) (p : Packet) : Bool := decide (40000 < sext 32 (birthNow s + 2 ^ 32 - p.birth % 2 ^ 32))

/-! ### Combining (R348 to R351) -/

/-- Number of the 128 B line of a packet. -/
def pktLine (p : Packet) : Nat := p.offset / 128

/-- Whether two requests may combine (R348): loads of the same units, or integer and logical atomics of one
operation and size; neither a retry (log 33). -/
def mayCombine (a b : Packet) : Bool :=
  a.cls == 0 && b.cls == 0 && !a.rsp && !b.rsp && a.dst == b.dst && a.offset == b.offset && a.jkey == b.jkey
    && !a.nocomb && !b.nocomb
    && ((a.type == 1 && b.type == 1 && a.aux == b.aux)
      || (a.type == 5 && b.type == 5 && a.aop == b.aop && decide (a.aop < 8) && a.aux % 2 == b.aux % 2 && a.retry == 0 && b.retry == 0))

/-- Whether a packet is a store or atomic to a line of a node. -/
def writesLine (p q : Packet) : Bool := p.cls == 0 && !p.rsp && (p.type == 3 || p.type == 5) && p.dst == q.dst && pktLine p == pktLine q

/-- Entries of a port's split table in use (R351): results younger than 200 µs, and those that combined atomics still out will
leave there. -/
def splitUse (s : State) (port : Nat) : Nat :=
  ((s.requests.filter fun (r : Request) => r.port == port && r.pkt.type == 5).map fun r => r.joined.length).foldl (· + ·)
    ((prt s port).split.filter fun e => decide (s.pace.now < e.time + 200000)).length

/-- Index of the queued request an arriving one combines with (R349): it arrived no more than 256 ns ago and no
store or atomic to its line waits behind it. Combining can be disabled (`COMBINE_ENABLE`), and a split table without room for
its results combines no atomics. -/
def combineAt (s : State) (port : Nat) (p : Packet) : Option Nat :=
  let x := prt s port
  if cfg s 0x420002 = 0 ∨ (p.type = 5 ∧ 1024 < splitUse s port + 2) then none
  else (List.range x.outQ.length).find? fun j =>
    match x.outQ[j]? with
    | some e => decide (s.pace.now ≤ e.time + 256) && mayCombine e.pkt p
        && !(x.outQ.drop (j + 1)).any fun f => writesLine f.pkt e.pkt
    | none => false

/-- Operand of an atomic packet. -/
def pktOperand (p : Packet) : Nat := leNat (p.payload.take 8)

/-- Next sequence number of an engine, where the use before lies at least 400 µs back (R336). -/
def takeSeq (s : State) (engine : Nat) : Option (Nat × State) :=
  let q := mget s.seqs engine 0
  let recent := s.seqTimes.filter fun u => decide (s.pace.now < u.2 + 400000)
  if recent.any fun u => u.1 == engine * 65536 + q then none
  else some (q, { s with seqs := mset s.seqs engine ((q + 1) % 65536), seqTimes := recent ++ [(engine * 65536 + q, s.pace.now)] })

/-- Join an arriving request into the queued one at index `j` (R350, R351): the combining point sends one request
under its own tag in their place. -/
def combine (s : State) (port j : Nat) (p : Packet) : State :=
  let x := prt s port
  match x.outQ[j]? with
  | none => s
  | some e =>
    let x := { x with combined := x.combined + 1 }
    let s := setPrt s port x
    let op := fun (a b : Packet) => (atomOp (a.aop + 4) (if a.aux % 2 = 1 then 64 else 32) (pktOperand a) (pktOperand b) 0).1
    let merge := fun (a : Packet) =>
      if a.type = 1 then a
      else pktClose { a with aux := (a.aux / 2 % 2 ||| p.aux / 2 % 2) * 2 + a.aux % 2, payload := leBytes 8 (op a p), poison := a.poison || p.poison }
    let place := fun (s : State) (pkt : Packet) (id : Nat) =>
      setPrt s port { prt s port with outQ := lset (prt s port).outQ j { e with pkt, req := some id } }
    let old := match e.req with
      | some id => s.requests.find? fun (r : Request) => r.id == id && !r.joined.isEmpty
      | none => none
    match old with
    | some r =>
      let pkt := merge r.pkt
      let s := { s with requests := s.requests.map fun (y : Request) => if y.id = r.id then { y with pkt, joined := y.joined ++ [p] } else y }
      place s pkt r.id
    | none =>
      match takeSeq s (0x441 + port / 8) with
      | none => push s port p
      | some (seq, s) =>
        let pkt := merge (pktClose { e.pkt with src := nodeId s, engine := 0x441 + port / 8, seq })
        let id := s.nextReq
        let r : Request := { id, pkt, port, issued := s.pace.now, held := .sent, joined := [e.pkt, p] }
        place { s with requests := s.requests ++ [r], nextReq := id + 1 } pkt id

/-- Queue a request on a port, combined where it may be. -/
def pushRequest (s : State) (port : Nat) (p : Packet) (req : Option Nat) : State :=
  match combineAt s port p with
  | some j => combine s port j p
  | none => push s port p req

/-! ### Windows (R355) -/

/-- Key of an engine's window to a node; B-class windows are counted apart. -/
def winKey (cls engine node : Nat) : Nat := (if cls = 1 then 2 ^ 27 else 0) + engine * 16384 + node
/-- Largest size of a window of a class. -/
def winMax (s : State) (cls : Nat) : Nat := if cls = 1 then 256 else cfg s 0x460002
/-- A window, at its largest size while none is kept. -/
def window (s : State) (cls engine node : Nat) : Window := mget s.windows (winKey cls engine node) { size := winMax s cls }

/-- Note the use of a window; an engine keeps the windows of the 256 nodes it used most recently. -/
def useWindow (s : State) (cls engine node : Nat) : State :=
  let k := winKey cls engine node
  let w := { window s cls engine node with used := s.nextReq }
  let others := s.windows.filter fun (x : Nat × Window) => x.1 / 16384 == k / 16384 && x.1 != k
  let m := if 256 ≤ others.length then
      match minBy (fun (x : Nat × Window) => x.2.used) others with
      | some o => mdel s.windows o.1
      | none => s.windows
    else s.windows
  { s with windows := mset m k w }

/-- A response changes its window: `ECE` halves it at most once in 10 µs; a full window without raises it by 1. -/
def windowReply (s : State) (cls engine node : Nat) (ece : Bool) : State :=
  let w := window s cls engine node
  let w :=
    if ece then
      match w.halvedAt with
      | some t => if s.pace.now < t + 10000 then { w with clean := 0 } else { w with size := max 1 (w.size / 2), clean := 0, halvedAt := some s.pace.now }
      | none => { w with size := max 1 (w.size / 2), clean := 0, halvedAt := some s.pace.now }
    else if w.size ≤ w.clean + 1 then { w with size := min (winMax s cls) (w.size + 1), clean := 0 }
    else { w with clean := w.clean + 1 }
  { s with windows := mset s.windows (winKey cls engine node) w }

/-- Requests of an engine to a node, of a class, that are sent and not answered. -/
def inFlight (s : State) (cls engine node : Nat) : Nat :=
  (s.requests.filter fun (r : Request) => r.held == .sent && !r.passing && r.pkt.cls == cls && r.pkt.engine == engine && r.pkt.dst == node).length

/-! ### Requests of this node -/

/-- Status that refuses a request at its source: `OUT_OF_POD` (R323), `NODE_UNREACHABLE` (R324), or 0. -/
def sourceStatus (s : State) (p : Packet) : Nat :=
  if p.cls = 0 ∧ podOf p.dst ≠ podOf (nodeId s) then 0x13
  else if (routes s p.dst).isEmpty then 0x12 else 0

/-- Lines of window reads of an engine that are sent and not answered: the staging buffer holds 512 (R361). -/
def stagedLines (s : State) (engine : Nat) : Nat :=
  ((s.requests.filter fun (r : Request) => r.read.isSome && r.held == .sent && r.pkt.engine == engine).map fun r => cdiv (r.pkt.aux % 65536) 128).foldl (· + ·) 0

/-- Whether a held request may be sent now on `port`: its turn for its line, the acknowledgements a flagged store
waits for (R342), its window (R355), room in the staging buffer (R361), and the completion of earlier requests to its line by
another path, or 40 µs from the change of path (R328). -/
def maySend (s : State) (r : Request) (port : Nat) : Held :=
  let earlier := s.requests.filter fun (q : Request) => decide (q.id < r.id) && !q.passing && q.pkt.cls == r.pkt.cls && q.pkt.engine == r.pkt.engine && q.pkt.dst == r.pkt.dst
  let d := r.pkt.cls == 0
  if d && r.pkt.flag && earlier.any (fun q => q.pkt.type == 3) then .turn
  else if d && earlier.any (fun q => pktLine q.pkt == pktLine r.pkt && q.held != .sent) then .turn
  else if (window s r.pkt.cls r.pkt.engine r.pkt.dst).size ≤ inFlight s r.pkt.cls r.pkt.engine r.pkt.dst then .turn
  else if r.read.isSome && decide (512 < stagedLines s r.pkt.engine + cdiv (r.pkt.aux % 65536) 128) then .turn
  else if d && decide (s.pace.now < s.pathAt + 40000)
      && earlier.any (fun q => pktLine q.pkt == pktLine r.pkt && q.held == .sent && q.port != port) then .path
  else .sent

/-- Change a request. -/
def updReq (s : State) (id : Nat) (f : Request → Request) : State :=
  { s with requests := s.requests.map fun (r : Request) => if r.id = id then f r else r }

/-- Send a request that no longer waits: it gets its sequence number, which a retry keeps (R346), `BIRTH` and `HOPS`. -/
def transmit (s : State) (r : Request) (port : Nat) : State :=
  match (if r.pkt.retry = 0 then takeSeq s r.pkt.engine else some (r.pkt.seq, s)) with
  | none => updReq s r.id fun x => { x with held := .turn }
  | some (seq, s) =>
    let p := pktClose { r.pkt with seq, birth := birthNow s, hops := cfg s 0x410002 }
    let s := useWindow s p.cls p.engine p.dst
    let s := updReq s r.id fun x => { x with pkt := p, port, issued := s.pace.now, held := .sent }
    if p.cls = 0 then pushRequest s port p (some r.id) else push s port p (some r.id)

/-- The crews a failed request reports to: its own, and those that its chain would still have served. -/
def failChain (s : State) (r : Request) (st : Nat) : State :=
  let s := match r.crew with
    | some d => acquired (r.next.foldl (fun s x => crewReply s x.2 st [] false) (crewReply s d st [] false)) d
    | none => s
  tldReply s r st [] false

/-- Send a held request where it may be sent; one whose node has become unreachable, and that no engine of the
module follows up, completes at once. A retry that finds no route is an attempt without a response (R346). -/
def trySend (s : State) (id : Nat) : State :=
  match s.requests.find? fun (r : Request) => r.id == id && r.held != .sent && !r.passing with
  | none => s
  | some r =>
    if sourceStatus s r.pkt ≠ 0 then
      if r.pkt.retry ≠ 0 then updReq s id fun x => { x with held := .sent, issued := s.pace.now }
      else if r.crew.isSome || r.tld.isSome then failChain { s with requests := s.requests.filter fun (q : Request) => q.id != id } r (sourceStatus s r.pkt) else s
    else match pickPort s r.pkt with
      | none => s
      | some (port, s2) =>
        match maySend s r port with
        | .sent => transmit s2 r port
        | h => updReq s id fun x => { x with held := h }

/-- Send every held request that may be sent, oldest first. -/
def pump (s : State) : State := (s.requests.map (·.id)).foldl trySend s

/-- A new request of this node: sent, or held. -/
def newRequest (s : State) (r : Request) : State :=
  let id := s.nextReq
  trySend { s with requests := s.requests ++ [{ r with id, held := .turn, heldSince := s.pace.now }], nextReq := id + 1 } id

/-- Issue a chain of crew requests, each after the reply to the one before (R121); a request refused at its source
completes at once. -/
def sendChain (s : State) : List (Packet × CrewDst) → State
  | [] => s
  | (p, d) :: rest =>
    let st := sourceStatus s p
    if st ≠ 0 then sendChain (crewReply s d st [] false) rest
    else newRequest s { id := 0, pkt := p, crew := some d, next := rest }

/-- Remove a request. -/
def dropReq (s : State) (id : Nat) : State := { s with requests := s.requests.filter fun (r : Request) => r.id != id }

/-- A request of a crew, or a push-done atomic, completes: its lanes are answered, the next of its chain is sent, and
held requests move up. -/
def finishDirect (s : State) (r : Request) (st : Nat) (data : List Byte) (pz : Bool) : State :=
  let s := dropReq s r.id
  let s := match r.crew with
    | some d => crewReply s d st data pz
    | none => s
  let s := sendChain (tldReply s r st data pz) r.next
  pump (match r.crew with
    | some d => acquired s d
    | none => s)

/-- The request of this node that a response answers, by its tag: a router on the way may answer for the destination. -/
def matching (s : State) (engine seq type : Nat) : Option Request :=
  s.requests.find? fun (r : Request) => r.held == .sent && !r.passing && r.pkt.engine == engine && r.pkt.seq == seq && r.pkt.type == type

/-- Answer one request that was combined into another (R350): to its source, or to the request of this node. -/
def answerJoined (s : State) (port : Nat) (p : Packet) (type st : Nat) (data : List Byte) (pz ece : Bool) : State :=
  if p.src = nodeId s then
    match matching s p.engine p.seq p.type with
    | some r => finishDirect (windowReply s 0 p.engine p.dst ece) r st data pz
    | none => s
  else answer s port (replyTo s p type st data pz ece)

/-- A combined request completes (R350, R351): each source gets the value it would have met in order of arrival, and
the same status; results of atomics go into the port's split table. -/
def finishJoined (s : State) (r : Request) (st : Nat) (data : List Byte) (pz ece : Bool) : State :=
  let s := dropReq s r.id
  if r.pkt.type = 1 then r.joined.foldl (fun s p => answerJoined s r.port p 2 st data pz ece) s
  else
    let width := if r.pkt.aux % 2 = 1 then 64 else 32
    let ok := !isFault st
    let f := fun (acc : State × Nat × Bool) (p : Packet) =>
      let v := if ok ∧ p.aux / 2 % 2 = 1 then acc.2.1 else 0
      let x := prt acc.1 r.port
      let keep := x.split.filter fun e => decide (acc.1.pace.now < e.time + 200000)
      let e : Replay := { src := p.src, engine := p.engine, seq := p.seq, status := st, value := v, poison := acc.2.2, time := acc.1.pace.now }
      let s := setPrt acc.1 r.port { x with split := keep ++ [e] }
      let s := answerJoined s r.port p 6 st (leBytes 8 v) (ok && acc.2.2) ece
      (s, (atomOp (p.aop + 4) width acc.2.1 (pktOperand p) 0).1, acc.2.2 || p.poison)
    (r.joined.foldl f (s, leNat (data.take 8), pz)).1

/-- A direct request completes with a status: a combined one, or one of this node's engines. -/
def finishRequest (s : State) (r : Request) (st : Nat) (data : List Byte) (pz ece : Bool) : State :=
  if r.joined.isEmpty then finishDirect s r st data pz else finishJoined s r st data pz ece

/-! ### Changes of path (R321, R328) -/

/-- Source engine and destination line of a passing D request, as `Passed` has them. -/
def passWho (p : Packet) : Nat := p.src * 4096 + p.engine
def passLine (p : Packet) : Nat := p.dst * 2 ^ 41 + pktLine p

/-- Hold a passing D request whose path has changed (R328). -/
def holdPassing (s : State) (port : Nat) (p : Packet) : State :=
  let r : Request := { id := s.nextReq, pkt := p, port, held := .path, heldSince := s.pace.now, passing := true }
  { s with
    requests := s.requests ++ [r], nextReq := s.nextReq + 1
    paths := s.paths.filter fun (q : Passed) => !(q.who == passWho p && q.line == passLine p && q.seq == p.seq) }

/-- A message one of whose packets was lost is to be resent (R365). -/
def lostPart (s : State) (p : Packet) : State :=
  if p.type = 0x10 ∧ p.src = nodeId s then
    { s with messages := s.messages.map fun (m : Message) =>
        if m.status.isNone && 0x430 + m.sq % 16 == p.engine && m.seqs.contains p.seq then { m with nakked := true } else m }
  else s

/-- A packet that waited at a port looks for its way again: a request of this node by its own rules, a passing D request once
its earlier ones have completed, any other by its new port. -/
def reroute (s : State) (port : Nat) (e : Queued) : State :=
  match e.req with
  | some id => updReq s id fun r => { r with held := .path, heldSince := s.pace.now }
  | none =>
    if e.pkt.cls = 0 ∧ e.pkt.rsp = false then holdPassing s port e.pkt
    else match emit s e.pkt with
      | some s => s
      | none => if e.pkt.src = nodeId s then lostPart s e.pkt else unreachable s port e.pkt

/-- Paths have changed (R328): D requests that wait at a port that is no longer theirs are held. -/
def rePath (s : State) : State :=
  pump ((s.ports.map (·.1)).foldl (fun s p =>
    let moved := fun (e : Queued) => e.pkt.cls == 0 && !e.pkt.rsp && (pickPort s e.pkt).map (·.1) != some p
    let x := prt s p
    (x.outQ.filter moved).foldl (fun s e => reroute s p e) (setPrt s p { x with outQ := x.outQ.filter fun e => !moved e }))
    { s with pathAt := s.pace.now })

/-! ### Sending flits (R319, R330, R331, R368) -/

/-- Number of wavelengths of a set. -/
def wlCount (m : BitVec 8) : Nat := ((List.range 8).filter fun i => m.getLsbD i).length

/-- The key in force for a link sequence number. -/
def keyAt (ks : List (Nat × List Byte)) (seq : Nat) : List Byte := ((ks.find? fun k => decide (k.1 ≤ seq)).map (·.2)).getD []

/-- What a packet shows on the link after header word 0, with its tag (R368): sealed where the link is encrypted. -/
def wire (x : Port) (seq : Nat) (p : Packet) : List Byte × List Byte :=
  let body := (pktBytes p).drop 8
  if x.enc then Config.gcmSeal (keyAt x.keysTx seq) (Config.linkNonce seq) [] body else (body, [])

/-- Whether frames pass on a port: in service, or in its key exchange (R322, R369). -/
def linkUp (s : State) (p : Nat) : Bool := portUp s p || ((prt s p).mode == .training && (prt s p).peer.isSome)

/-- Credits left for a virtual channel: flits of the far end's input buffer (R330). -/
def creditOf (x : Port) (vc : Nat) : Nat := vcFlits vc + mget x.farFreed vc 0 - mget x.sentFlits vc 0

/-- Flits of a partition's requests of a channel in the far end's buffer. -/
def partFlight (x : Port) (vc part : Nat) : Nat :=
  ((x.flight.filter fun (f : Nat × Nat × Nat) => f.1 == vc && f.2.1 == part).map fun f => f.2.2).foldl (· + ·) 0

/-- The packet a channel sends next: the oldest; among requests of B and M the oldest of a partition that has credits of its
share left, where there is one, so that a partition takes beyond its share only what others leave unused (R331, R486). -/
def nextOf (s : State) (x : Port) (vc : Nat) : Option Queued :=
  let qs := x.outQ.filter fun e => vcOf e.pkt == vc
  let divided := x.credits.any fun c => c.1 / 16 == vc / 2
  if (vc = 2 ∨ vc = 4) ∧ divided then
    match qs.find? fun e => decide (partFlight x vc (jkeyPart s e.pkt.jkey) < mget x.credits (vc / 2 * 16 + jkeyPart s e.pkt.jkey) 0) with
    | some e => some e
    | none => qs.head?
  else qs.head?

/-- Bytes the retry buffer holds or is about to; it has 1 MiB (R319). -/
def retryBytes (x : Port) : Nat :=
  (x.sending.map fun e => 64 * flitsOf e.2.1.pkt).foldl (· + ·) ((x.retry.map fun r => 64 * flitsOf r.pkt).foldl (· + ·) 0)

/-- Whether a channel has a flit to send, and a credit for it. -/
def vcReady (s : State) (x : Port) (vc : Nat) : Bool :=
  decide (0 < creditOf x vc) && ((mfind x.sending vc).isSome || match nextOf s x vc with
    | some e => decide (retryBytes x + 64 * flitsOf e.pkt ≤ 2 ^ 20)
    | none => false)

/-- The channel of a class that sends: its response channel goes before its request channel (R330). -/
def classVc (s : State) (x : Port) (cls : Nat) : Option Nat :=
  if vcReady s x (2 * cls + 1) then some (2 * cls + 1) else if vcReady s x (2 * cls) then some (2 * cls) else none

/-- Weight of a class in the round robin (R330). -/
def vcWeight (s : State) (cls : Nat) : Nat :=
  match cls with
  | 0 => fld (cfg s 0x420001) 23 16
  | 1 => fld (cfg s 0x420001) 15 8
  | 2 => fld (cfg s 0x420001) 7 0
  | _ => 8

/-- The channel whose flit a port sends next (R330): C first, for a quarter of the flits the port carries in 10 µs (log 134);
else weighted round robin. -/
def pickVc (s : State) (x : Port) : Option (Nat × Port) :=
  let recent := x.cFirst.filter fun t => decide (s.pace.now < t + 10000)
  let round :=
    let cls := (List.range 4).filter fun c => (classVc s x c).isSome
    let turns := if cls.any fun c => decide (0 < mget x.turns c 0) then x.turns else (List.range 4).map fun c => (c, vcWeight s c)
    match cls.find? fun c => decide (0 < mget turns c 0) with
    | some c => (classVc s x c).map fun vc => (vc, { x with turns := mset turns c (mget turns c 0 - 1) })
    | none => none
  match classVc s x 3 with
  | some vc => if recent.length < 1250000 * wlCount x.wlTx / 2048 then some (vc, { x with cFirst := recent ++ [s.pace.now] }) else round
  | none => round

/-- A port sends one flit; with its last flit a packet has become a frame, kept until it is acknowledged (R319). -/
def sendFlit (s : State) (p : Nat) : State :=
  if linkUp s p = false then s
  else match pickVc s (prt s p) with
    | none => s
    | some (vc, x) =>
      let cur := match mfind x.sending vc with
        | some c => some (c, x)
        | none => (nextOf s x vc).map fun e => ((e, flitsOf e.pkt), { x with outQ := x.outQ.erase e })
      match cur with
      | none => s
      | some ((e, left), x) =>
        let x := { x with sentFlits := mset x.sentFlits vc (mget x.sentFlits vc 0 + 1) }
        if 1 < left then setPrt s p { x with sending := mset x.sending vc (e, left - 1) }
        else
          let w := wire x x.txSeq e.pkt
          setPrt s p { x with
            sending := mdel x.sending vc
            retry := x.retry ++ [{ seq := x.txSeq, pkt := e.pkt, body := w.1, tag := w.2 }]
            txSeq := x.txSeq + 1
            keyPackets := if x.keyed then x.keyPackets + 1 else x.keyPackets
            flight := if vc = 2 ∨ vc = 4 then x.flight ++ [(vc, jkeyPart s e.pkt.jkey, flitsOf e.pkt)] else x.flight }

/-- Port a packet of the verdict unit leaves on: those of one contribution or result are spread over every port that leads to
the next node (R367). -/
def treePort (s : State) (p : Packet) : Option Nat :=
  let ps := routes s p.dst
  if ps.isEmpty then none else some (ps.getD ((p.offset / 2048 + p.aux) % ps.length) 0)

/-- Send a packet of the verdict unit under its next sequence number; while none is free, or no port leads to its node, it
waits (R336, R367). -/
def sendOwn (s : State) (p : Packet) : State :=
  let wait := { s with outbox := s.outbox ++ [p] }
  match treePort s p with
  | none => wait
  | some port =>
    match takeSeq s p.engine with
    | none => wait
    | some (seq, s) => push s port (pktClose { p with seq, birth := birthNow s, hops := cfg s 0x410002 })

/-- Packets that waited are sent where they may be. -/
def flushOut (s : State) : State := s.outbox.foldl sendOwn { s with outbox := [] }

/-- One tick of the ports: each sends a flit (log 9). -/
def portsTick (s : State) : State := flushOut ((s.ports.map (·.1)).foldl sendFlit s)

end Sys2Proof.Machine
end

