-- ==== Sys2Proof/Machine/Session.lean ====
section
/-!
DEFINITION. Requests and responses of the dictionary server (R460 to R469), the checks common to every object
write, and the shape of the commands that are a write of one object.
-/
namespace Sys2Proof.Machine
open Sys2Proof

/-- Bytes of a response (Table 15.3). INDEX, SUB and OFFSET repeat the request's (log 20). -/
def Response.bytes (r : Response) : List Byte :=
  leBytes 1 1 ++ leBytes 1 (128 + r.type % 128) ++ leBytes 2 r.reqId ++ leBytes 2 r.status ++ leBytes 2 r.index
    ++ leBytes 1 r.sub ++ leBytes 1 (2 * b2n r.last + 4 * b2n r.pending) ++ leBytes 4 r.offset
    ++ leBytes 2 r.payload.length ++ r.payload

/-- Area of ring pair `j` (R458). -/
def ringPair (s : State) (j : Nat) : Nat := s.localChan.base + j * 0x8000

/-- Put a response into the local ring of pair `j`, in the slot of the request it answers (log 20), and
raise source 0x1A0 + j. -/
def localPut (s : State) (j : Nat) (r : Response) : State :=
  let slot := mget s.localChan.reads j 0
  let s := post s { kind := .camlis, unit := 0 } (ringPair s j + 0x4000 + slot * 0x800) r.bytes
  irq { s with localChan.reads := mset s.localChan.reads j ((slot + 1) % 8) } (0x1A0 + j)

/-- Send a response: the session keeps its last 8 (R466), and a local session's goes into its ring. -/
def respond (s : State) (sid : Nat) (r : Response) : State :=
  match mfind s.sessions sid with
  | none => s
  | some x =>
    let x := { x with
      kept := (x.kept ++ [r]).drop (x.kept.length + 1 - 8)
      outstanding := x.outstanding.filter (· != r.reqId) }
    let s := { s with sessions := mset s.sessions sid x }
    match x.localPair with
    | some j => localPut s j r
    | none => s

/-- Whether firmware processor `p` takes a request: it runs, nothing is held for it any more (R15), and no FATAL sequence runs,
in which `SEC0` answers none (R537). -/
def serves (s : State) (p : Nat) : Bool := fwRuns s p && s.boot.phase != .fatal && !s.held.any fun h => h.1 == p

/-- A command that needs firmware processor `p` waits until the processor is back (R15). -/
def hold (s : State) (p : Nat) (self : HeldCmd) : State := { s with held := s.held ++ [(p, self)] }

/-- A request reaches the server (R463, R466): nothing without its session; while `SEC0` does not run the command that
carries it is held; a kept response is given again; a ninth outstanding request gets `BUSY`; any other is executed by
`run`. -/
def request (self : HeldCmd) (s : State) (sid reqId type : Nat) (run : State → Session → State) : State :=
  match mfind s.sessions sid with
  | none => s
  | some x =>
    if serves s 0 then
      let x := { x with lastMsg := s.pace.now }
      let s := { s with sessions := mset s.sessions sid x }
      match x.kept.find? (fun r => r.reqId == reqId) with
      | some r =>
        match x.localPair with
        | some j => localPut s j r
        | none => s
      | none =>
        if 8 ≤ x.outstanding.length then respond s sid { reqId, type, status := 0x4A }
        else run s x
    else hold s 0 self

/-- Whether a session's authority has MODULE (R460). -/
def hasModule (x : Session) : Bool := bit x.authority 16

/-- Whether a session with partition authority may write an object (R460; log 18): its own session objects, the
assay clear of its partition, the objects of 0x5080 for the verdict partition (R283), a key import for one of its partitions (R501), and `PART_NOTE` of its partitions. -/
def partitionMay (s : State) (x : Session) (key : Nat) (val : List Byte) : Bool :=
  (key / 256 = 0x5080 && decide (cfg s 0x50800D < 16) && bit x.authority (cfg s 0x50800D)) || key = 0x110005 || key = 0x110006 || key = 0x505003
    || (key = 0x710001 && decide (subNat val 4 1 < 16) && bit x.authority (subNat val 4 1))
    || (decide (0x9100 ≤ key / 256) && decide (key / 256 ≤ 0x910F) && key % 256 = 10 && bit x.authority (key / 256 - 0x9100))

/-- Whether the dictionary serves an object: in HALTED only the identity, the 0xA000 objects and those of recovery (R515). -/
def served (s : State) (key : Nat) : Bool :=
  s.boot.phase != .halted || key / 256 == 0x1000 || key / 256 == 0xA000 || [0x701001, 0x701002, 0x701003, 0x701009].contains key

/-- Status of the checks every write of an object passes, in order (R460, R469, R471, R473; log 18): `BAD_INDEX`,
`ACCESS_DENIED`, `EXPERT_REQUIRED`, `NOT_AUTHORISED`, `BAD_TYPE`, `BAD_VALUE`, or `OK`. -/
def writeCheck (s : State) (x : Session) (key : Nat) (val : List Byte) : Nat :=
  match if served s key then objDef key else none with
  | none => 0x40
  | some d =>
    if d.acc = .ro then 0x43
    else if d.expert && !x.expert then 0x44
    else if !(hasModule x || partitionMay s x key val) then 0x47
    else
      let badLen := match d.typ with
        | .str n => decide (n < val.length)
        | .blob n => decide (n < val.length)
        | t => decide (t.fixed ≠ some val.length)
      if badLen then 0x41
      else match d.typ with
        | .str _ => 0
        | .blob _ => 0
        | _ => if leNat val < d.lo ∨ d.hi < leNat val then 0x42 else 0

/-- A store to a register that is rejected or ignored (R475): counted and recorded with its address. -/
def regReject (s : State) (addr : Nat) : State :=
  pitEvent { s with regRejects := s.regRejects + 1 } 0x0703 0xFFFF 0 addr

/-- A write of object `key` that is a command of its own (R473): the common checks, then `eff`, which answers its
status and the state after it; the response carries the status. With `reg` the write came by the register at
`addr` that acts as the object: no session answers, and a refusal is a rejected register write (R475).
`self` is what is held while `SEC0` restarts. -/
def objWrite (s : State) (w : ObjWrite) (key addr : Nat) (eff : State → Nat × State) (self : HeldCmd := .write key w) : State :=
  if w.reg then
    let r := eff s
    if r.1 = 0 then r.2 else regReject r.2 addr
  else request self s w.sid w.reqId 2 fun s x =>
    let c := writeCheck s x key w.val
    let r := if c = 0 then eff s else (c, s)
    respond r.2 w.sid { reqId := w.reqId, type := 2, status := r.1, index := key / 256, sub := key % 256 }

/-! ### Sessions (R460 to R463, R477) -/

/-- A session begins (R461): its current partition is the lowest its authority covers, or 0 under MODULE authority. -/
def startSession (s : State) (sid : Nat) (pair : Option Nat) (authority : Nat) (v6 : Bool := false) : State :=
  let part := if bit authority 16 then 0 else ((List.range 16).find? fun p => bit authority p).getD 0
  { s with sessions := mset s.sessions sid { localPair := pair, v6, authority, part, lastMsg := s.pace.now } }

/-- Whether a Quickset is pending or completing (R479). -/
def quicksetBusy (s : State) : Bool := s.quickset.pending.isSome || s.quickset.completing.isSome

/-- The shadow set is the active set again, and nobody holds it (R477). -/
def dropShadow (s : State) : State := { s with shadow := [], quickset.holder := none }

/-- A session ends (R462, R477): its hold of the shadow set ends with it, but for a Quickset that is pending or
completing. -/
def endSession (s : State) (sid : Nat) : State :=
  let s := { s with sessions := mdel s.sessions sid }
  if s.quickset.holder = some sid ∧ quicksetBusy s = false then dropShadow s else s

/-- Every session of a kind ends. -/
def endSessions (s : State) (isLocal : Bool) : State :=
  ((s.sessions.filter fun (x : Nat × Session) => x.2.localPair.isSome == isLocal).map (·.1)).foldl endSession s

end Sys2Proof.Machine
end

