-- ==== Sys2Proof/Machine/PaceUnit.lean ====
section
/-!
DEFINITION. Pace time sources, the schedule table, power ramps, DVFS and throttling (chapter 14, R432 to R451).
-/
namespace Sys2Proof.Machine
open Sys2Proof

/-! ### The cores' time (R12, R401) -/

/-- Time registers of core `c` of the 16. -/
def core (s : State) (c : Nat) : Core := mget s.cores c {}
/-- The `time` CSR of a core: Pace time as its tower reads it, four cores to a tower (R401). -/
def coreTime (s : State) (c : Nat) : Nat := paceAt s (c / 4)
/-- A core writes `stimecmp`, or with `vs` `vstimecmp`. -/
def setTimecmp (s : State) (c : Nat) (vs : Bool) (v : Nat) : State :=
  let x := core s c
  { s with cores := mset s.cores c (if vs then { x with vstimecmp := v % 2 ^ 64 } else { x with stimecmp := v % 2 ^ 64 }) }
/-- Whether a core's supervisor timer interrupt, or with `vs` its virtual supervisor's, is pending (R401): the count has
reached the compare register. -/
def timerPending (s : State) (c : Nat) (vs : Bool) : Bool :=
  decide ((if vs then (core s c).vstimecmp else (core s c).stimecmp) ≤ coreTime s c)

/-! ### Pace sources (R433 to R439) -/

/-- One valid measurement of the selected source (R433, R434): `off` is source minus module in ns, `st` the stratum a
lock would give. In `ACQUIRING` an offset above the step limit is added at once. -/
def paceMeasure (s : State) (off : Int) (st : Nat) : State :=
  let lock := cfg s 0x200006
  let step := cfg s 0x200007
  let near := decide (off.natAbs ≤ lock)
  let behind := decide (off < -(step : Int))
  let s := if behind && !s.pace.behind then pitEvent s 0x0602 0xFFFF 0 0 (wrap 64 off) else s
  let p := { s.pace with offset := off, behind, lastGood := s.pace.now }
  let good : Nat := if near then p.good + 1 else 0
  let acq : Pace :=
    if 16 ≤ good ∧ st < 15 then { p with mode := .locked, good, stratum := st } else { p with mode := .acquiring, good, stratum := 15 }
  let p : Pace := match p.mode with
    | .locked => if 4 * lock < off.natAbs then { p with mode := .holdover, good := 0, stratum := 15 } else { p with good, stratum := st }
    | .acquiring => acq
    | .freerun => { p with mode := .acquiring, good := b2n near }
    | .holdover => { p with mode := .acquiring, good := b2n near }
  let s := { s with pace := p }
  if p.mode = .acquiring ∧ (step : Int) < off then
    let s := advance s off.natAbs
    { s with pace.lastGood := s.pace.now, pace.good := 0 }
  else s

/-- `PTP_MEASUREMENT` (R436): with source `PTP`, while the management port is up. -/
def execPtpMeasurement (now : Nat) (off : Int) (s : State) : Out :=
  let s := clock s now
  .next (if cfg s 0x200001 = 0 ∧ s.mgmtUp = true ∧ s.pace.on = true then paceMeasure s off 0 else s)

/-- `PPS_EDGE` (R437). The unit expects an edge one second after the one before, by its own time; whole seconds
without an edge pass (log 26). The first edge stands for the nearest whole second (log 26). -/
def execPpsEdge (now : Nat) (s : State) : Out :=
  let s := clock s now
  let t := s.pace.now
  let sec := 1000000000
  let note := fun (s : State) (second : Nat) =>
    let s := { s with pace.setSeconds := none, pace.lastPps := second }
    let s := paceMeasure s ((second * sec : Nat) - (t : Int)) 0
    { s with pace.nextPps := some (s.pace.now + sec) }
  .next (if cfg s 0x200001 = 1 ∧ s.pace.on = true then
    match s.pace.setSeconds, s.pace.nextPps with
    | some n, _ => note s n
    | none, none => note s ((t + sec / 2) / sec)
    | none, some e =>
      let k := (t + sec / 2 - e) / sec
      let far := if e + k * sec ≤ t then t - (e + k * sec) else e + k * sec - t
      if 1000000 < far then s else note s (s.pace.lastPps + 1 + k)
  else s)

/-- `PACE_HOLDOVER_TIMEOUT` (R434): no valid measurement for 3 s while `LOCKED`. -/
def execPaceHoldoverTimeout (now : Nat) (s : State) : Out :=
  let s := clock s now
  .next (if s.pace.mode = .locked ∧ s.pace.lastGood + 3000000000 ≤ s.pace.now then
    { s with pace.mode := .holdover, pace.good := 0, pace.stratum := 15 } else s)

/-- `PACE_SET_SECONDS` (R437). -/
def execPaceSetSeconds (w : ObjWrite) (s : State) : Out :=
  .next (objWrite s w 0x200008 0 fun s => (0, { s with pace.setSeconds := some (leNat w.val) }))

/-- The unit after a change of its source (R435): `ACQUIRING`, or `FREERUN` for `FREE`. -/
def paceSourceChanged (s : State) : State :=
  { s with
    pace.mode := if cfg s 0x200001 = 3 then .freerun else .acquiring
    pace.good := 0, pace.stratum := 15, pace.nextPps := none, pace.lastGood := s.pace.now }

/-! ### Schedule table (R440 to R443) -/

/-- Entry `e`. -/
def sched (s : State) (e : Nat) : Sched := mget s.sched e {}
/-- The state with entry `e` replaced. -/
def setSched (s : State) (e : Nat) (x : Sched) : State := { s with sched := mset s.sched e x }

/-- `PCS_CTRL` (Table 14.10). -/
def Sched.ctrl (x : Sched) : Nat :=
  x.kind % 8 * 2 ^ 61 + b2n x.arm * 2 ^ 60 + b2n x.irq * 2 ^ 59 + b2n x.late * 2 ^ 58 + x.fired % 2 ^ 32

/-- Whether an entry must not be armed (R443). -/
def badSched (s : State) (x : Sched) : Bool :=
  let a := x.arg % 2 ^ 48
  let signal := x.kind == 1 || x.kind == 4 || x.kind == 5
  x.kind == 0 || decide (5 < x.kind) || (x.period != 0 && decide (x.period < 10000))
    || (signal && (decide (a % 8 ≠ 0) || !localMemory s a || meetsOs s a 8))

/-- A write of an entry's registers (R443): status and state. Class S fields hold while `ARM` = 1. -/
def schedWrite (s : State) (e ctrl time period arg : Nat) : Nat × State :=
  let x := sched s e
  let y := { x with kind := fld ctrl 63 61, arm := bit ctrl 60, irq := bit ctrl 59, time, period, arg }
  if x.arm && (y.kind != x.kind || y.irq != x.irq || y.time != x.time || y.period != x.period || y.arg != x.arg) then (0x45, s)
  else if y.arm && !x.arm then
    if badSched s y then (0x42, s) else (0, setSched s e { y with fired := 0, late := false })
  else (0, setSched s e y)

/-- `PCS_CTRL` (R443). -/
def execPcsCtrl (e : Nat) (v : W64) (now : Nat) (s : State) : Out :=
  let s := clock s now
  let x := sched s e
  let r := schedWrite s e v.toNat x.time x.period x.arg
  .next (if r.1 = 0 then r.2 else regReject s (0x0F0800401000 + e * 0x20))

/-- Whether entry `e` of a kind is due (R440), and no lower entry falls due at the same time (R441). -/
def due (s : State) (e kind : Nat) : Bool :=
  let x := sched s e
  s.pace.on && x.arm && (x.kind == kind) && decide (x.time ≤ s.pace.now)
    && (List.range e).all fun j => !((sched s j).arm && (sched s j).time == x.time)

/-- The entry after it fires now (R440, R441): more than 100 ns past `TIME` is late. -/
def fired (s : State) (e : Nat) : State :=
  let x := sched s e
  let k := (s.pace.now - x.time) / max 1 x.period + 1
  setSched s e { x with
    fired := (x.fired + 1) % 2 ^ 32
    late := decide (x.time + 100 < s.pace.now)
    arm := x.period != 0
    time := if x.period = 0 then x.time else x.time + k * x.period }

/-- Source 0x160 + e once the action of an entry with `IRQ` = 1 is done (R442). -/
def schedIrq (s : State) (e : Nat) : State := if (sched s e).irq then irq s (0x160 + e) else s

/-- The signal write of an entry: an 8 B store to `ARG`[47:0]. -/
def schedSignal (s : State) (e v : Nat) : State :=
  schedIrq (post s { kind := .sched, unit := e } ((sched s e).arg % 2 ^ 48) (leBytes 8 v)) e

/-- `STEP_BEGIN` (R442). -/
def execStepBegin (e now : Nat) (s : State) : Out :=
  let s := clock s now
  .next (if due s e 1 then let s := fired s e; schedSignal s e (sched s e).fired else s)

/-! ### Ceiling ramps (R444) -/

/-- The module ceiling now. -/
def ceilingNow (s : State) : Nat :=
  let p := s.power
  let el := (s.pace.now - p.rampStart) / 1000
  if p.rampUs ≤ el then p.rampTo
  else if p.rampFrom ≤ p.rampTo then p.rampFrom + (p.rampTo - p.rampFrom) * el / p.rampUs
  else p.rampFrom - (p.rampFrom - p.rampTo) * el / p.rampUs

/-- Start a ramp from the ceiling's present value; targets are clamped to 1,000 to 6,000 W. -/
def startRamp (s : State) (target us : Nat) : State :=
  { s with
    power.rampFrom := ceilingNow s
    power.rampTo := min 6000 (max 1000 target)
    power.rampStart := s.pace.now
    power.rampUs := us }

/-- `POWER_RAMP` (R442, R444). -/
def execPowerRamp (e now : Nat) (s : State) : Out :=
  let s := clock s now
  .next (if due s e 3 then
    let s := fired s e
    let a := (sched s e).arg
    schedIrq (startRamp s (fld a 63 48) (fld a 47 16)) e
  else s)

/-- `PWR_CEILING` (R444). -/
def execPwrCeiling (w : ObjWrite) (now : Nat) (s : State) : Out :=
  let s := clock s now
  .next (objWrite s w 0x220004 0 fun s =>
    (0, startRamp { s with active := mset s.active 0x220004 w.val } (leNat w.val) (cfg s 0x220005)))

/-! ### DVFS (R446, R447) -/

/-- The state with a die's DVFS replaced. -/
def setDvfs (s : State) (d : Nat) (x : Dvfs) : State := { s with power.dvfs := mset s.power.dvfs d x }

/-- Point that should be in force: the lower frequency of the set and the throttle's point; 3 in reduced-clock boot. -/
def wantedPoint (s : State) (x : Dvfs) : Nat := if s.boot.reduced then 3 else min 3 (max x.set x.throttle)

/-- Start a change where the wanted point differs and none is in progress. -/
def retarget (s : State) (d : Nat) : State :=
  let x := dvfs s d
  if x.target.isNone ∧ wantedPoint s x ≠ x.inForce then setDvfs s d { x with target := some (wantedPoint s x) } else s

/-- Set the points of the eight dies from an `ARITH_POINT` value. -/
def setPoints (s : State) (v : List Byte) : State :=
  (List.range 8).foldl (fun s d => retarget (setDvfs s d { dvfs s d with set := subNat v d 1 }) d) s

/-- Status of an `ARITH_POINT` value. -/
def pointsCheck (v : List Byte) : Nat :=
  if v.length ≠ 8 then 0x41 else if v.any fun b => decide (3 < b.toNat) then 0x42 else 0

/-- `ARITH_POINT` (R446). -/
def execArithPoint (w : ObjWrite) (s : State) : Out :=
  .next (objWrite s w 0x230001 0 fun s =>
    if pointsCheck w.val ≠ 0 then (pointsCheck w.val, s)
    else (0, setPoints { s with active := mset s.active 0x230001 w.val } w.val))

/-- `DVFS_CHANGE_DONE` (R447): a change requested meanwhile begins. -/
def execDvfsChangeDone (d : Nat) (s : State) : Out :=
  let x := dvfs s d
  .next (match x.target with
  | some p => retarget (setDvfs s d { x with inForce := p, target := none }) d
  | none => s)

/-! ### Throttling (R449 to R451) -/

/-- Throttle state of die `d`. -/
def throttle (s : State) (d : Nat) : Throttle := mget s.power.throttle d {}
/-- The state with a die's throttle replaced. -/
def setThrottle (s : State) (d : Nat) (x : Throttle) : State := { s with power.throttle := mset s.power.throttle d x }
/-- Clusters of die `d`. -/
def dieClusters (d : Nat) : List Nat := (List.range 16).map fun i => 16 * d + i

/-- Note what the caps of die `d` show: below 0.5 since when, and an action since when (R451). -/
def noteCaps (s : State) (d : Nat) : State :=
  let x := throttle s d
  let caps := (dieClusters d).map fun c => (clu s c).cap
  let low := caps.all fun c => decide (c < 32)
  let act := caps.any (fun c => decide (c < 64)) || x.half || (dvfs s d).throttle != 0
  setThrottle s d { x with
    lowSince := if low then some (x.lowSince.getD s.pace.now) else none
    actSince := if act then some (x.actSince.getD s.pace.now) else none
    recorded := act && x.recorded
    cause := if act then x.cause else 0
    causes := if act then x.causes else [] }

/-- A cause acts on die `d`. -/
def addCause (s : State) (d cause : Nat) : State :=
  let x := throttle s d
  setThrottle s d { x with cause := cause, causes := addOnce x.causes cause, clearSince := none }

/-- Lower the caps of clusters by 1/64 for a cause (1 peak, 2 average, 3 ceiling, 4 partition budget, 5 thermal; log 27); for
the peak limit the activity falls at its own slope (R449). -/
def lowerCaps (s : State) (cs : List Nat) (cause : Nat) : State :=
  let s := cs.foldl (fun s c => setClu s c (capTo s (clu s c) ((clu s c).cap - 1) (if cause = 1 then .fast else .down))) s
  (cs.foldl (fun l c => addOnce l (cluDie c)) []).foldl (fun s d =>
    noteCaps (addCause s d cause) d) s

/-- Whether the columns and hotspots of die `d` read below 95 % of the limit that acts on it (R451, Table 14.7). -/
def thermalCalm (s : State) (d : Nat) : Bool :=
  let t := d / 2
  (List.range 16).all (fun k => decide (100 * mget s.power.temps (16 * t + k) 0 < 95 * (cfg s 0x240002 : Int)))
    && [64 + 2 * t, 65 + 2 * t].all fun i => decide (100 * mget s.power.temps i 0 < 95 * 110)

/-- Whether a cause is below 95 % of its limit at a reading (R451). -/
def causeCalm (s : State) (m : PowerReading) (d cause : Nat) : Bool :=
  match cause with
  | 1 => decide (100 * m.peakW < 95 * 6800)
  | 2 => decide (100 * m.avgW < 95 * 6000)
  | 3 => decide (100 * m.ceilW < 95 * ceilingNow s)
  | 4 => (List.range 16).all fun p => !(partOn s p && (cfg s (partKey p 6) != 0) && (partClusters s p).any fun c => cluDie c == d)
      || decide (100 * m.parts.getD p 0 < 95 * cfg s (partKey p 6))
  | _ => thermalCalm s d

/-- `POWER_MEASURE` (R450, R451, R487). -/
def execPowerMeasure (now : Nat) (m : PowerReading) (s : State) : Out :=
  let s := clock s now
  let s := { s with power.peakW := m.peakW, power.avgW := m.avgW, power.partW := m.parts, power.railW := m.rails }
  let all := List.range 128
  let ceil := ceilingNow s
  let s := if 6800 < m.peakW then lowerCaps s all 1 else s
  let s := if 6000 < m.avgW then lowerCaps s all 2 else s
  let s := if ceil < m.ceilW then lowerCaps s all 3 else s
  let excess := (List.range 16).filter fun p =>
    partOn s p && (cfg s (partKey p 6) != 0) && decide (cfg s (partKey p 6) < m.parts.getD p 0)
  let s := excess.foldl (fun s p =>
    lowerCaps { s with power.partThrottledAt := mset s.power.partThrottledAt p s.pace.now } (partClusters s p) 4) s
  .next ((List.range 8).foldl (fun s d =>
    let x := throttle s d
    let calm := x.causes.all (causeCalm s m d)
    setThrottle s d { x with clearSince := if calm then some (x.clearSince.getD s.pace.now) else none }) s)

/-- `THROTTLE_DIE_POINT` (R451 steps 2 and 3): one point lower, never below 3; then half issue rate. -/
def execThrottleDiePoint (d now : Nat) (s : State) : Out :=
  let s := clock s now
  let x := throttle s d
  .next (match x.lowSince with
  | some t =>
    if t + 1000000 ≤ s.pace.now then
      let y := dvfs s d
      let s := if y.inForce < 3 then retarget (setDvfs s d { y with throttle := y.inForce + 1 }) d
        else setThrottle s d { x with half := true }
      noteCaps (setThrottle s d { throttle s d with lowSince := some s.pace.now }) d
    else s
  | none => s)

/-- `THROTTLE_RELEASE` (R451): the last step is undone, in reverse order. -/
def execThrottleRelease (d now : Nat) (s : State) : Out :=
  let s := clock s now
  let x := throttle s d
  .next (match x.clearSince with
  | some t =>
    if t + 10000000 ≤ s.pace.now then
      let y := dvfs s d
      let s := setThrottle s d { x with clearSince := some s.pace.now, half := false }
      let s := if x.half then s
        else if 0 < y.throttle then retarget (setDvfs s d { y with throttle := y.throttle - 1 }) d
        else (dieClusters d).foldl (fun s c => setClu s c { clu s c with cap := min 64 ((clu s c).cap + 1) }) s
      noteCaps s d
    else s
  | none => s)

/-- `THROTTLE_HELD_1S` (R451). -/
def execThrottleHeld1s (d now : Nat) (s : State) : Out :=
  let s := clock s now
  let x := throttle s d
  .next (match x.actSince with
  | some t =>
    if t + 1000000000 < s.pace.now ∧ x.recorded = false then
      setThrottle (pitEvent s 0x0603 0xFFFF 0 d x.cause) d { x with recorded := true }
    else s
  | none => s)

end Sys2Proof.Machine
end

