-- ==== Sys2Proof/Machine/Towers.lean ====
section
/-!
DEFINITION. Towers, levels and shafts (chapter 2, R22): frames, the fallback sequence, recalibration, level
restore, level and tower resets, and the near-store cache write-backs of R60 and R61.
-/
namespace Sys2Proof.Machine
open Sys2Proof

/-! ### Shafts -/

/-- Shafts of a joint direction (Table 2.1). -/
def shaftCountOf (j : Nat) : Nat := if j < 2 then 256 else if j < 4 then 320 else 1024
/-- Most retired shafts of a joint direction still in service (Table 2.4). -/
def retireLimit (j : Nat) : Nat := shaftCountOf j / 8
/-- Lowest level above a joint direction (Table 2.4). -/
def levelAbove (j : Nat) : Nat := j / 2 + 1
/-- Key of a shaft. -/
def shaftKey (j sh : Nat) : Nat := j * 1024 + sh
/-- A shaft. -/
def shaft (s : State) (t j sh : Nat) : Shaft := mget (tow s t).shafts (shaftKey j sh) {}
/-- The state with a shaft replaced. -/
def setShaft (s : State) (t j sh : Nat) (x : Shaft) : State :=
  setTow s t { tow s t with shafts := mset (tow s t).shafts (shaftKey j sh) x }

/-- Number of failed lanes from `lo` up to `hi`. -/
def lanesFailed (l : List Nat) (lo hi : Nat) : Nat := (l.filter fun i => decide (lo ≤ i) && decide (i < hi)).length

/-- What the failed lanes leave a shaft (Table 2.3, R36, R37): data lanes 0 to 63, spare data lanes 64 to 67, framing
lanes 68 and 69, spare framing lane 70. Mode, spare data lanes in use, spare framing lane in use. -/
def shaftFit (sh : Nat) (failed : List Nat) : ShaftMode × Nat × Bool :=
  let spare := 4 - lanesFailed failed 64 68
  let framing := 3 - lanesFailed failed 68 71
  let fs := lanesFailed failed 68 70 != 0 && lanesFailed failed 70 71 == 0
  let all := lanesFailed failed 0 64
  let lower := lanesFailed failed 0 32
  let upper := lanesFailed failed 32 64
  let lo := (ShaftMode.halfLower, lower, fs)
  let up := (ShaftMode.halfUpper, upper, fs)
  if all ≤ spare ∧ 2 ≤ framing then (if all = 0 ∧ fs = false then .full else .spared, all, fs)
  else if framing = 0 then (.retired, 0, false)
  else if sh % 2 = 0 then if lower ≤ spare then lo else if upper ≤ spare then up else (.retired, 0, false)
  else if upper ≤ spare then up else if lower ≤ spare then lo else (.retired, 0, false)

/-- A shaft with its mode and spares set from its failed lanes. -/
def refit (sh : Nat) (x : Shaft) : Shaft :=
  let f := shaftFit sh x.failed
  { x with mode := f.1, spares := f.2.1, frameSpare := f.2.2 }

/-- `SHF_SHAFT_STATE` (Table 2.6). -/
def Shaft.word (x : Shaft) : Nat :=
  let m := match x.mode with
    | .full => 0 | .spared => 1 | .halfLower => 2 | .halfUpper => 3 | .retired => 4 | .recal => 5
  m * 32 + x.spares % 8 * 4 + b2n x.frameSpare * 2

/-- The shaft as it was when a recalibration took it out of the hash (R41). -/
def beforeRecal (sh : Nat) (x : Shaft) : Shaft := refit sh { x with failed := x.atTake }

/-- Retired shafts of a joint direction; one under recalibration counts as what it was before. -/
def retiredCount (s : State) (t j : Nat) : Nat :=
  ((tow s t).shafts.filter fun x => x.1 / 1024 == j
    && (x.2.mode == .retired || (x.2.mode == .recal && (beforeRecal (x.1 % 1024) x.2).mode == .retired))).length

/-- Shafts of a joint direction that its hash spreads lines over: those in service (R31, R38, R41). -/
def hashed (s : State) (t j : Nat) : List Nat :=
  (List.range (shaftCountOf j)).filter fun sh => (shaft s t j sh).mode != .retired && (shaft s t j sh).mode != .recal

/-- Shaft that carries a 128 B line over a joint direction (R31; the hash is not given, log 117). -/
def shaftOf (s : State) (t j line : Nat) : Option Nat :=
  let l := hashed s t j
  l[Config.shaftHash line l.length % l.length]?

/-- The replay buffer of a shaft that leaves the hash is finished, over its remaining lanes or a partner shaft: every frame
is delivered, in order (R38). -/
def finishBuf (x : Shaft) : Shaft :=
  { x with got := x.got ++ x.buf.map (fun f => (f.data, false)), buf := [], seq := x.tx, replay := false }

/-- `LEVELS_IN_SERVICE`: bit 4t + l (Table 2.7). -/
def levelsInService (s : State) : Nat :=
  (List.range 16).foldl (fun v i => if (tow s (i / 4)).levelsOut.contains (i % 4) then v else v + 2 ^ i) 0

/-- Record address of group 0x01 (R43). -/
def shaftAddr (j sh lane : Nat) : Nat := j * 2 ^ 32 + sh * 2 ^ 16 + lane

/-- The record of a `LEVEL_RESTORE` once none of its levels waits any more to return (R43). -/
def restoreRecord (s : State) (t : Nat) : State := pitEvent s 0x0103 t 0 (tow s t).restoreAt (levelsInService s)

/-- Every level above joint direction `j` leaves service (R39, R40, R61, R483); one that is being restored stays out (log
118). L1's cache writes back its dirty lines, also where a level reset of L1 held it. -/
def levelsLeave (s : State) (t j : Nat) : State :=
  let x := tow s t
  let ls := (List.range 4).filter fun l => decide (levelAbove j ≤ l) && (!x.levelsOut.contains l || x.restoring.contains l)
  let rest := x.restoring.filter fun l => !ls.contains l
  let s := setTow s t { x with oos := addOnce x.oos j, restoring := rest }
  let s := if x.restoring ≠ [] ∧ rest = [] then restoreRecord s t else s
  ls.foldl (fun s l =>
    let s := setTow s t { tow s t with levelsOut := addOnce (tow s t).levelsOut l }
    let s := pitEvent s 0x0106 t 0 (l + j * 2 ^ 32) (levelsInService s)
    if l = 1 then
      if (tow s t).cacheMode = .normal ∨ (tow s t).cacheMode = .held then
        setTow s t { tow s t with cacheMode := .writeback, cacheSince := s.pace.now }
      else s
    else
      let s := containLevel s t l
      (List.range 16).foldl (fun s i => dropFromParts s (32 * t + 16 * (l - 2) + i)) s) s

/-- Step of Table 2.3 that a change of a shaft shows, as `DET1` numbers it. -/
def fallbackStep (old new : ShaftMode) (lane : Nat) : Nat :=
  if new = .retired then 5 else if old ≠ new ∧ (new = .halfLower ∨ new = .halfUpper) then (if lane < 68 then 3 else 4)
  else if lane < 68 then 1 else 2

/-- A lane fails: the fallback sequence of its shaft and what follows from it (R34 to R40, R43). A shaft under
recalibration takes the step when it rejoins. DESIGN CHOICE: `ADDR[7:0]` of every 0x0101 record is the lane whose failure
led to the step, also for steps 3 to 6 (log 119). -/
def laneFail (s : State) (t j sh lane : Nat) : State :=
  let x := shaft s t j sh
  if x.failed.contains lane then s else
  let y := { x with failed := x.failed ++ [lane] }
  let y := if x.mode = .recal then y else refit sh y
  let y := if y.mode = .retired ∧ x.mode ≠ .retired then finishBuf y else y
  let s := setShaft s t j sh y
  if x.word = y.word then s else
  let det0 := x.word * 256 + y.word
  let s := pitEvent s 0x0101 t 0 (shaftAddr j sh lane) det0 (fallbackStep x.mode y.mode lane)
  if y.mode = .retired ∧ retireLimit j < retiredCount s t j
      ∧ ((tow s t).levelsOut.contains (levelAbove j) = false ∨ (tow s t).restoring.contains (levelAbove j) = true) then
    levelsLeave (pitEvent s 0x0101 t 0 (shaftAddr j sh lane) det0 6) t j
  else s

/-- A lane failure that meets a tower reset before its shafts are trained is applied during shaft training (R50). -/
def laneFailure (s : State) (t j sh lane : Nat) : State :=
  if 4 ≤ t ∨ 6 ≤ j ∨ shaftCountOf j ≤ sh ∨ 71 ≤ lane then s
  else if (tow s t).reset = .none ∨ (tow s t).reset = .zeroing then laneFail s t j sh lane
  else setTow s t { tow s t with late := (tow s t).late ++ [(shaftKey j sh, lane)] }

/-- `LANE_LOSS_OF_SIGNAL` (R34). -/
def execLaneLossOfSignal (t j sh lane : Nat) (s : State) : Out := .next (laneFailure s t j sh lane)

/-- `LANE_ERROR_THRESHOLD` (R34): the lane has `count` errors attributed to it within 1 ms. -/
def execLaneErrorThreshold (t j sh lane count : Nat) (s : State) : Out :=
  .next (if cfg s 0x340003 ≤ count then laneFailure s t j sh lane else s)

/-! ### Frames (R29, R31, R36, R83) -/

/-- Bytes a frame of a shaft carries in its 16 unit intervals, and the lane groups its parity covers: half of both at half
width (R29, R36). -/
def frameBytes (m : ShaftMode) : Nat := if m = .halfLower ∨ m = .halfUpper then 64 else 128

/-- Lane-group parity of a frame (R29, R36): a unit interval carries one byte of each group of 8 lanes, and bit g is the
parity of all that group g carries (log 117). -/
def laneParity (d : List Byte) : Nat :=
  let groups := d.length / 16
  (List.range groups).foldl (fun v g =>
    v + 2 ^ g * ((List.range 16).foldl (fun b u => b ^^^ (List.range 8).foldl (fun b i => b ^^^ b2n ((d.getD (groups * u + g) 0#8).getLsbD i)) 0) 0)) 0

/-- The 32 bits on the framing lanes: sequence [31:24], lane-group parity [23:16], CRC-16 [15:0] (R29). -/
def framing (seq : Nat) (d : List Byte) : Nat :=
  seq % 256 * 2 ^ 24 + laneParity d % 256 * 2 ^ 16 + (Config.crc16 (d ++ [BitVec.ofNat 8 seq, BitVec.ofNat 8 (laneParity d)])).toNat

/-- Data bytes as they arrive, the listed bits wrong. -/
def flipBits (d : List Byte) (flips : List Nat) : List Byte :=
  flips.foldl (fun d b => if b / 8 < d.length then d.set (b / 8) (d.getD (b / 8) 0#8 ^^^ BitVec.ofNat 8 (2 ^ (b % 8))) else d) d

/-- Framing bits as they arrive: bits beyond the data number the 32 framing bits. -/
def flipFraming (n v : Nat) (flips : List Nat) : Nat :=
  flips.foldl (fun v b => if n ≤ b ∧ b < n + 32 then v ^^^ 2 ^ (b - n) else v) v

/-- Whether a shaft may take a new frame of a line: it is the line's shaft, and no other shaft of the joint still holds a
frame of that line (R31, R38). -/
def takesLine (s : State) (t j sh line : Nat) : Bool :=
  shaftOf s t j line == some sh
    && (tow s t).shafts.all fun x => x.1 / 1024 != j || x.1 % 1024 == sh || x.2.buf.all fun f => f.line != line

/-- The frame a `SHAFT_FRAME` carries, and the shaft whose sender has put it into its replay buffer: a new frame of a line, or
the oldest frame of the buffer again. -/
def frameSent (s : State) (t j sh : Nat) (new : Option (Nat × List Byte)) : Option (Frame × Shaft) :=
  let x := shaft s t j sh
  match new with
  | some n =>
    if takesLine s t j sh n.1 then
      let f : Frame := { seq := x.tx, line := n.1, data := padTo (frameBytes x.mode) n.2 }
      some (f, { x with tx := (x.tx + 1) % 256, buf := x.buf ++ [f] })
    else none
  | none => x.buf.head?.map fun f => (f, x)

/-- `SHAFT_FRAME` (R29, R83): a frame whose CRC and parity hold is delivered once, in its place, and leaves the replay buffer;
one in error makes the receiver ask for a replay; a good frame out of its place is not delivered. Where no replay can
deliver good data (`mended` false), the receiving side writes the units of the line as poisoned. -/
def execShaftFrame (t j sh : Nat) (new : Option (Nat × List Byte)) (flips : List Nat) (mended : Bool) (s : State) : Out :=
  .next (match frameSent s t j sh new with
  | none => s
  | some (f, x) =>
    let d := flipBits f.data flips
    let w := flipFraming (8 * f.data.length) (framing f.seq f.data) flips
    let good := w == framing (w / 2 ^ 24) d
    let first := x.buf.filter fun g => g.seq != f.seq
    if good then
      if w / 2 ^ 24 = x.seq then
        setShaft s t j sh { x with seq := (x.seq + 1) % 256, replay := false, buf := first, got := x.got ++ [(d, false)] }
      else setShaft s t j sh x
    else if mended || f.seq != x.seq then setShaft s t j sh { x with replay := true }
    else
      let s := setShaft s t j sh { x with seq := (x.seq + 1) % 256, replay := false, buf := first, got := x.got ++ [(d, true)] }
      { s with poison := (unitsOf (f.line * 128) f.data.length).foldl addOnce s.poison })

/-! ### Recalibration (R41) -/

/-- Joint direction and number of the i-th shaft a round visits. -/
def roundShaft (i : Nat) : Nat × Nat :=
  if i < 512 then (i / 256, i % 256)
  else if i < 1152 then (2 + (i - 512) / 320, (i - 512) % 320)
  else (4 + (i - 1152) / 1024, (i - 1152) % 1024)

/-- Take the i-th shaft of a tower's round out of the hash. -/
def recalTake (s : State) (t i : Nat) : State :=
  let k := roundShaft i
  let x := shaft s t k.1 k.2
  let s := setShaft s t k.1 k.2 { finishBuf x with mode := .recal, atTake := x.failed }
  setTow s t { tow s t with recal := some i, recalNext := none }

/-- The i-th shaft of a round rejoins the hash (R41, R43): `healed` lanes work again, which is recorded as a restoration;
lanes that failed meanwhile take their steps of Table 2.3 now, with their records and the check of Table 2.4 (R35, R39). -/
def rejoin (s : State) (t i : Nat) (healed : List Nat) : State :=
  let k := roundShaft i
  let x := shaft s t k.1 k.2
  let keep := fun (l : List Nat) => l.filter fun n => !healed.contains n
  let old := beforeRecal k.2 x
  let y := refit k.2 { x with failed := keep x.atTake, atTake := [] }
  let s := setShaft s t k.1 k.2 y
  let s := if old.word = y.word then s else pitEvent s 0x0102 t 0 (shaftAddr k.1 k.2 0xFF) (old.word * 256 + y.word)
  (keep (x.failed.filter fun l => !x.atTake.contains l)).foldl (fun s l => laneFail s t k.1 k.2 l) s

/-- A round ends (R41). -/
def roundEnds (s : State) (t : Nat) : State :=
  setTow s t { tow s t with recal := none, recalNext := none, recalEnd := s.pace.now }

/-- The hardware ends a recalibration, for a restart of `TWCt` (R426) or a tower reset (log 120): the shaft returns to its
state before it, and the round waits to go on with that shaft (R41). -/
def recalAbort (s : State) (t : Nat) : State :=
  match (tow s t).recal with
  | some i =>
    let s := rejoin s t i []
    setTow s t { tow s t with recal := none, recalNext := some i }
  | none => s

/-- A round that waits goes on, where `TWCt` runs and no tower reset does. -/
def recalResume (s : State) (t : Nat) : State :=
  match (tow s t).recalNext with
  | some i => if fwRuns s (1 + t) ∧ (tow s t).reset = .none then recalTake s t i else s
  | none => s

/-! ### Restarts of firmware processors (R425, R426) -/

/-- Whether firmware processor `p` is in an action a requested restart waits for (R426): a shaft's recalibration, port
bring-up or the retraining of a wavelength, or the exclusion of a stack. -/
def hasAction (s : State) (p : Nat) : Bool :=
  if p = 0 then false
  else if p < 5 then (tow s (p - 1)).recal.isSome
  else if p < 9 then (List.range 8).any fun i =>
    let x := prt s (8 * (p - 5) + i)
    x.retrain.isSome || (x.mode == .training && x.failedAt.isNone)
  else if p < 13 then (List.range 8).any fun i => (stk s (8 * (p - 9) + i)).st == .excluded
  else false

/-- The hardware ends the action of a processor (R426). An exclusion runs on to its end. -/
def endAction (s : State) (p : Nat) : State :=
  if p = 0 then s
  else if p < 5 then recalAbort s (p - 1)
  else if p < 9 then (List.range 8).foldl (fun s i =>
    let k := 8 * (p - 5) + i
    let x := prt s k
    if x.mode = .training ∧ x.failedAt.isNone then setPrt s k { x with retrain := none, peer := none, trainSince := s.pace.now }
    else setPrt s k { x with retrain := none }) s
  else s

/-- A processor is held in reset and its restart runs (R425 step 1); the passes of a UE pause (R314). -/
def fwBegin (s : State) (p : Nat) : State :=
  let s := if hasAction s p then endAction s p else s
  let s := setFwp { s with fwQueue := s.fwQueue.filter (· != p) } p { fwp s p with mode := .restarting, asked := none, runSince := s.pace.now }
  if 13 ≤ p then
    let u := ue s (p - 13)
    if u.mode = .idle ∨ u.mode = .paused then s else setUe s (p - 13) { u with mode := .paused, before := u.mode }
  else s

/-- Begin the next restart where none runs (R425): forced ones first, then in request order; a requested one waits for
its processor's action. -/
def fwNext (s : State) : State :=
  if s.fw.any fun x => x.2.mode == .restarting then s
  else
    let next := match s.fwQueue.find? fun p => (fwp s p).forced with
      | some p => some p
      | none => s.fwQueue.head?
    match next with
    | none => s
    | some p => if (fwp s p).forced = false ∧ hasAction s p then s else fwBegin s p

/-! ### Rows of a recalibration round -/

/-- Start a round unless one runs or waits; under a tower reset it waits (log 120). -/
def recalStart (s : State) (t : Nat) : State :=
  if (tow s t).recal.isSome ∨ (tow s t).recalNext.isSome then s
  else if (tow s t).reset = .none then recalTake s t 0
  else setTow s t { tow s t with recalNext := some 0 }

/-- `RECAL_ROUND_START` (R41). -/
def execRecalRoundStart (t now : Nat) (s : State) : Out :=
  let s := clock s now
  let iv := cfg s 0x340004
  .next (if fwRuns s (1 + t) && iv != 0 && decide ((tow s t).recalEnd + iv * 10 ^ 9 ≤ s.pace.now) then recalStart s t else s)

/-- `RECAL_NOW` (R41): held while `TWCt` restarts (R15). -/
def execRecalNow (w : ObjWrite) (s : State) : Out :=
  let v := leNat w.val
  .next (if v < 4 ∧ serves s (1 + v) = false then hold s (1 + v) (.write 0x340005 w)
  else objWrite s w 0x340005 0 fun s => if v < 4 then (0, recalStart s v) else (0x42, s))

/-- `SHAFT_RECAL_DONE` (R41): the shaft rejoins, and the next begins or the round ends; for a restart that waits for `TWCt`
the rest of the round waits (R426). -/
def execShaftRecalDone (t now : Nat) (healed : List Nat) (s : State) : Out :=
  let s := clock s now
  .next (match (tow s t).recal with
  | some i =>
    if fwRuns s (1 + t) then
      let s := rejoin s t i healed
      if 3200 ≤ i + 1 then
        let s := roundEnds s t
        if s.fwQueue.contains (1 + t) then fwNext s else s
      else if s.fwQueue.contains (1 + t) then fwNext (setTow s t { tow s t with recal := none, recalNext := some (i + 1) })
      else recalTake s t (i + 1)
    else s
  | none => s)

/-! ### Level resets (R42 to R50) -/

/-- A cluster after the reset of its level (Table 2.9, R5): every register at its reset value, its arrays zero;
what counts since module reset, its retirement and the kernels not yet ended stay. DESIGN CHOICE: `WGB_SAT`, for which
Table 9.10 gives no reset value, keeps its count too (log 121). -/
def resetCluster (s : State) (c : Nat) : State :=
  let x := clu s c
  let s := setClu s c {
    kernels := x.kernels
    mode := if x.mode = .retired then .retired else .idle
    cap := x.cap
    accSat := x.accSat
    accOutOor := x.accOutOor
    accIxDrop := x.accIxDrop
    mxaBusy := x.mxaBusy
    mxaDummy := x.mxaDummy
    mxaIxOor := x.mxaIxOor
    wgbSat := x.wgbSat
    slmReplays := x.slmReplays
    acqFlushes := x.acqFlushes
    rangeLines := x.rangeLines }
  zeroMem s (slmBase + c * 0x01000000) (slmBase + c * 0x01000000 + 0x100000)

/-- Reset the sixteen clusters of level `l` of tower `t`. -/
def resetLevelClusters (s : State) (t l : Nat) : State :=
  (List.range 16).foldl (fun s i => resetCluster s (32 * t + 16 * (l - 2) + i)) s

/-- A level reset is accepted (Table 2.9), unless a tower reset runs or the same level is in reset (R50). -/
def levelResetStart (s : State) (t l : Nat) : State :=
  if (tow s t).reset ≠ .none ∨ mget (tow s t).levelReset l .none ≠ .none then s else
  let s := setTow s t { tow s t with
    levelReset := mset (tow s t).levelReset l .accepted
    cacheMode := if l = 1 ∧ (tow s t).cacheMode = .normal then .held else (tow s t).cacheMode }
  let s := pitEvent s 0x0104 t 0 l (levelsInService s)
  containLevel s t l

/-- `LEVEL_RESET` (R45, R47, R50). -/
def execLevelReset (w : ObjWrite) (s : State) : Out :=
  let v := leNat w.val
  .next (objWrite s w 0x340007 0 fun s => if v % 4 = 0 ∨ 16 ≤ v then (0x42, s) else (0, levelResetStart s (v / 4) (v % 4)))

/-- `LEVEL_RESTORE` (R42, R43): held while `TWCt` restarts (R15). DESIGN CHOICE: of several reasons to refuse it, `BAD_VALUE`
comes before `BLOCK_RUNNING` and that before `LIMIT_EXCEEDED`; with l = 2 or 3 the levels from l up return also while a
lower level stays out (log 122). -/
def execLevelRestore (w : ObjWrite) (s : State) : Out :=
  let v := leNat w.val
  let t := v / 4
  .next (if v < 16 ∧ serves s (1 + t) = false then hold s (1 + t) (.write 0x340006 w)
  else objWrite s w 0x340006 0 fun s =>
    let out := (List.range 4).filter fun l => decide (v % 4 ≤ l) && (tow s t).levelsOut.contains l
    if v % 4 = 0 ∨ 16 ≤ v ∨ out.isEmpty then (0x42, s)
    else if (tow s t).reset ≠ .none then (0x45, s)
    else if (List.range 6).any fun j => decide (levelAbove j ≤ out.foldl max 0) && decide (retireLimit j < retiredCount s t j) then
      (0x46, s)
    else
      let s := setTow s t { tow s t with restoreAt := v % 4 }
      (0, out.foldl (fun s l =>
        levelResetStart (setTow s t { tow s t with restoring := addOnce (tow s t).restoring l }) t l) s))

/-- `LEVEL_RESET_DRAIN_DONE` (R45, R47): acknowledged accumulate-writes are in the arrays. -/
def execLevelResetDrainDone (t l : Nat) (s : State) : Out :=
  .next (if mget (tow s t).levelReset l .none = .accepted then
    let s := if l = 1 then setTow ((tow s t).adder.foldl accwLine s) t { tow s t with adder := [] } else s
    setTow s t { tow s t with levelReset := mset (tow s t).levelReset l .held }
  else s)

/-- `LEVEL_RESET_RELEASE` (R47). -/
def execLevelResetRelease (t l : Nat) (s : State) : Out :=
  .next (if mget (tow s t).levelReset l .none = .held then
    let s := setTow s t { tow s t with levelReset := mset (tow s t).levelReset l .released }
    if 2 ≤ l then resetLevelClusters s t l else s
  else s)

/-- What L1's cache is used for when its level reset ends (R60, R61): a restored L1 has it back, but for a change of split that
still writes back; a reset L1 in service has it back. -/
def cacheAfterReset (x : Tower) (back : Bool) : CacheMode :=
  if back then (if x.splitTo.isSome then .writeback else .normal)
  else if x.cacheMode = .held ∧ x.levelsOut.contains 1 = false then (if x.splitTo.isSome then .writeback else .normal)
  else x.cacheMode

/-- `LEVEL_READY` (R42, R43, R47, R61, R412, R570): a restored level returns to service; L1 back in service has an empty cache.
DESIGN CHOICE: after a level reset of an L1 in service the cache keeps its lines, as R61 says, and its tree bits are 0, as
R570 says (log 123). -/
def execLevelReady (t l : Nat) (s : State) : Out :=
  .next (if mget (tow s t).levelReset l .none = .released then
    let x := tow s t
    let back := x.restoring.contains l
    let outs := if back then x.levelsOut.filter (· != l) else x.levelsOut
    let s := setTow s t { x with
      levelReset := mdel x.levelReset l
      levelsOut := outs
      restoring := x.restoring.filter (· != l)
      oos := x.oos.filter fun j => (List.range 4).any fun k => decide (levelAbove j ≤ k) && outs.contains k
      plru := if l = 1 then [] else x.plru
      cacheMode := if l = 1 then cacheAfterReset x back else x.cacheMode }
    let s := if l = 1 ∧ back then emptyCache s t else s
    let s := if l = 1 then releaseTower s t else s
    if back ∧ (tow s t).restoring = [] then irq (restoreRecord s t) (0x114 + t) else s
  else s)

/-! ### Tower resets (R48 to R50) -/

/-- `TOWER_RESET` (R48, R50): a level reset of the tower is superseded, another tower reset is merged into it; transactions in
its relays are lost. DESIGN CHOICE: a recalibration round of the tower waits until the reset ends (log 120). -/
def execTowerReset (w : ObjWrite) (s : State) : Out :=
  let t := leNat w.val
  .next (objWrite s w 0x340008 0 fun s =>
    if 4 ≤ t then (0x42, s)
    else if (tow s t).reset ≠ .none then (0, s)
    else
      let s := recalAbort (if (tow s t).restoring = [] then s else restoreRecord s t) t
      let s := loseTower s t
      let s := setTow s t { tow s t with
        reset := .writeback, levelReset := [], restoring := [], cacheMode := .writeback, cacheSince := s.pace.now }
      let s := pitEvent s 0x0105 t 0 0 (levelsInService s)
      (0, containLevel (containLevel s t 2) t 3))

/-- The endpoints of every shaft of a tower are reset (R32, R44): sequence numbers, replay buffers. Which lanes work stays. -/
def resetEndpoints (s : State) (t : Nat) : State :=
  setTow s t { tow s t with shafts := (tow s t).shafts.map fun x => (x.1, { x.2 with seq := 0, replay := false, tx := 0, buf := [] }) }

/-- `TOWER_RESET_WRITEBACK_DONE` (R44, R49, R61, R65): acknowledged accumulate-writes are applied, and the tower domains and
the endpoints of the floor joint are reset. -/
def execTowerResetWritebackDone (t : Nat) (s : State) : Out :=
  .next (if (tow s t).reset = .writeback then
    let s := (tow s t).adder.foldl accwLine (writebackLines s t)
    releaseTower (resetEndpoints (setTow s t { tow s t with reset := .relock, cacheMode := .bypass, adder := [] }) t) t
  else s)

/-- `TOWER_PLL_LOCKED` (R49). -/
def execTowerPllLocked (t : Nat) (s : State) : Out :=
  .next (if (tow s t).reset = .relock then setTow s t { tow s t with reset := .training } else s)

/-- `TOWER_JOINTS_TRAINED` (R49, R50): lanes that failed under the reset are applied, the near store is zero, the
arrays of the compute dies are initialised. -/
def execTowerJointsTrained (t : Nat) (s : State) : Out :=
  .next (if (tow s t).reset = .training then
    let late := (tow s t).late
    let s := setTow s t { tow s t with reset := .zeroing, late := [] }
    let s := late.foldl (fun s x => laneFail s t (x.1 / 1024) (x.1 % 1024) x.2) s
    let b := 0x080000000000 + t * 0x60000000
    resetLevelClusters (resetLevelClusters (zeroMem s b (b + 0x60000000)) t 2) t 3
  else s)

/-- `TOWER_READY` (R41, R49, R61, R412). -/
def execTowerReady (t : Nat) (s : State) : Out :=
  .next (if (tow s t).reset = .zeroing then
    let s := emptyCache s t
    let x := tow s t
    let s := setTow s t { x with
      reset := .none
      cacheMode := if x.levelsOut.contains 1 then .bypass else if x.splitTo.isSome then .writeback else .normal }
    recalResume (irq s (0x114 + t)) t
  else s)

/-! ### Write-backs of the near-store cache (R60, R61, R91) -/

/-- `NS_CACHE_WRITEBACK_DONE` (R61): L1 has left service, its stacks are served without the cache. -/
def execNsCacheWritebackDone (t : Nat) (s : State) : Out :=
  .next (if (tow s t).cacheMode = .writeback ∧ (tow s t).reset = .none ∧ (tow s t).splitTo = none then
    let s := writebackLines s t
    let s := emptyCache s t
    releaseTower (setTow s t { tow s t with cacheMode := .bypass }) t
  else s)

/-- `NS_WRITEBACK_TIMEOUT` (R61): a write-back not completed within 2 ms is a FATAL error. -/
def execNsWritebackTimeout (t now : Nat) (s : State) : Out :=
  let s := clock s now
  .next (if (tow s t).cacheMode = .writeback ∧ (tow s t).cacheSince + 2000000 ≤ s.pace.now then fatal s t else s)

/-- What the cache is used for after a change of split (R60, R61): as L1's service and resets leave it. -/
def cacheAfterSplit (x : Tower) : CacheMode :=
  if x.cacheMode ≠ .writeback ∨ x.reset ≠ .none then x.cacheMode
  else if x.levelsOut.contains 1 then .bypass
  else if mget x.levelReset 1 .none ≠ .none then .held
  else .normal

/-- `NS_SPLIT_CHANGE_DONE` (R60): the dirty lines are in the stacks, and the cache starts empty under the new split. -/
def execNsSplitChangeDone (t : Nat) (s : State) : Out :=
  .next (match (tow s t).splitTo with
  | none => s
  | some _ =>
    let s := emptyCache (writebackLines s t) t
    let x := tow s t
    releaseTower (setTow s t { x with splitTo := none, cacheMode := cacheAfterSplit x }) t)

/-- `NS_FLUSH` (R91): writes back the dirty lines of the masked towers and keeps them valid. DESIGN CHOICE: a value with bits
above the four towers' is rejected with `BAD_VALUE` (log 124). -/
def execNsFlush (w : ObjWrite) (s : State) : Out :=
  let v := leNat w.val
  .next (objWrite s w 0x310004 0 fun s =>
    if 16 ≤ v then (0x42, s)
    else (0, (List.range 4).foldl (fun s t => if bit v t then writebackLines s t else s) s))

/-- `PACE_TOWER_COMPARE` (R22): differences of T1 to T3 from T0 in ns; one above 4 is recorded and slewed back. -/
def execPaceTowerCompare (now : Nat) (d1 d2 d3 : Int) (s : State) : Out :=
  let f := fun (s : State) (x : Nat × Int) =>
    if 4 < x.2.natAbs then
      pitEvent { s with pace.skew := mset s.pace.skew x.1 x.2, pace.skewAt := mset s.pace.skewAt x.1 s.pace.now } 0x0601 x.1 0 0 (wrap 64 x.2)
    else { s with pace.skew := mdel s.pace.skew x.1, pace.skewAt := mdel s.pace.skewAt x.1 }
  .next ([(1, d1), (2, d2), (3, d3)].foldl f (clock s now))

end Sys2Proof.Machine
end

