-- ==== Sys2Proof/Machine/Links.lean ====
section
/-!
DEFINITION. Denyan ports: wavelengths, service, bring-up, link frames, encryption keys, Pace packets and credits
(chapter 11, R317 to R322, R328, R331, R366 to R373; R438, R439, R486, R520).
-/
namespace Sys2Proof.Machine
open Sys2Proof

/-- What the block does while no command waits: a Pace cycle passes, and each port sends a flit (R330; log 9). -/
def idle (s : State) : State := portsTick (tick s)

/-! ### Wavelengths and service (R318 to R322) -/

/-- Whether port `p` is enabled (`PORT_ENABLE`). -/
def portEnabled (s : State) (p : Nat) : Bool := bit (cfg s 0x400003) p

/-- Wavelengths tower `t` has laser light for (R318). -/
def litMask (s : State) (t : Nat) : BitVec 8 :=
  if s.elsfpOut.contains t then 0#8
  else (List.range 8).foldl (fun m w => if s.laserBad.contains (t, w) then m else m ||| (1#8 <<< w)) 0#8

/-- A port leaves service with a cause (R321, log 31): the unacknowledged frames of its retry buffer are discarded, the event is
recorded, messages that lost a packet are to be resent (R365), and packets not yet sent look for another path (R328). -/
def portDown (s : State) (p cause : Nat) (mode : PortMode) : State :=
  let x := prt s p
  let s := setPrt s p { x with
    mode
    cause
    wlTx := 0#8
    wlRx := 0#8
    outQ := []
    sending := []
    retry := []
    keyed := false
    enc := false
    retrain := none
    replayAsk := false
    failedAt := none
    peer := none }
  let s := x.retry.foldl (fun s r => lostPart s r.pkt) (pitEvent s 0x0301 p 0 0 cause)
  rePath ((x.sending.map (·.2.1) ++ x.outQ).foldl (fun s e => reroute s p e) s)

/-- State a port is left in by a cause (log 31): dark without light, disabled by its bit, failed otherwise. -/
def downMode (cause : Nat) : PortMode :=
  if cause = 1 ∨ cause = 3 then .dark else if cause = 7 then .disabled else .failed

/-- Remove a wavelength of one direction of a port in service (R320): the event is recorded; with fewer than 4 in
use the port leaves service with cause 8, in the state that what took the wavelength leaves it in (R321, log 31). -/
def dropWl (s : State) (p wl : Nat) (rx : Bool) (cause : Nat) : State :=
  let x := prt s p
  let m := if rx then x.wlRx else x.wlTx
  if portUp s p && m.getLsbD wl then
    let x := if rx then { x with wlRx := x.wlRx &&& ~~~(1#8 <<< wl) } else { x with wlTx := x.wlTx &&& ~~~(1#8 <<< wl) }
    let s := pitEvent (setPrt s p { x with mode := .degraded, lastRetrain := mset x.lastRetrain wl s.pace.now }) 0x0302 p 0 0 wl
    if wlCount x.wlTx < 4 ∨ wlCount x.wlRx < 4 then portDown s p 8 (downMode cause) else s
  else s

/-- `WL_LOSS_OF_SIGNAL` (R320): at the receiver, or at the far end, which removes it from this end's transmit set. -/
def execWlLossOfSignal (p wl : Nat) (rx : Bool) (s : State) : Out := .next (dropWl s p wl rx 1)

/-- `LASER_FAULT` (R318): the wavelength leaves the transmit set of all 8 ports of the tower. -/
def execLaserFault (t wl : Nat) (s : State) : Out :=
  let s := { s with laserBad := if s.laserBad.contains (t, wl) then s.laserBad else s.laserBad ++ [(t, wl)] }
  .next ((List.range 8).foldl (fun s i => dropWl s (8 * t + i) wl false 3) s)

/-- `WL_UNCORR_LIMIT_REACHED` (R320): `count` uncorrectable codewords in 1 ms at this receiver; or the far end has met its own
limit, and this end takes the wavelength from its transmit set. -/
def execWlUncorrLimitReached (p wl count : Nat) (s : State) (rx : Bool := true) : Out :=
  .next (if rx = false ∨ cfg s 0x400005 ≤ count then dropWl s p wl rx 2 else s)

/-- `WL_RETRAIN_START` (R320): one removed wavelength of a port at a time, each every `WL_RETRAIN_INTERVAL` seconds, while
`LNCt` runs. -/
def execWlRetrainStart (p wl now : Nat) (s : State) : Out :=
  let s := clock s now
  let x := prt s p
  let iv := cfg s 0x400006
  let gone := !(x.wlTx.getLsbD wl) || !(x.wlRx.getLsbD wl)
  .next (if fwRuns s (5 + p / 8) && portUp s p && decide (iv ≠ 0) && gone && x.retrain.isNone
      && decide (mget x.lastRetrain wl 0 + iv * 1000000000 ≤ s.pace.now) then
    setPrt s p { x with retrain := some wl, lastRetrain := mset x.lastRetrain wl s.pace.now }
  else s)

/-- `WL_RETRAIN_DONE` (R320): a wavelength that trained, and has laser light, rejoins the stripe; retraining waits while `LNCt`
restarts. -/
def execWlRetrainDone (p wl : Nat) (ok : Bool) (s : State) : Out :=
  let x := prt s p
  .next (if x.retrain = some wl ∧ fwRuns s (5 + p / 8) = true then
    let b := 1#8 <<< wl
    let x := { x with retrain := none }
    let x := if ok then
        { x with wlRx := x.wlRx ||| b, wlTx := if (litMask s (p / 8)).getLsbD wl then x.wlTx ||| b else x.wlTx }
      else x
    let x := if portUp s p && x.wlTx == 0xFF#8 && x.wlRx == 0xFF#8 then { x with mode := .active } else x
    fwNext (setPrt s p x)
  else s)

/-- `PORT_ACK_TIMEOUT` (R321): no link frame acknowledged for 100 µs. -/
def execPortAckTimeout (p now : Nat) (s : State) : Out :=
  let s := clock s now
  .next (if portUp s p && decide ((prt s p).lastAck + 100000 ≤ s.pace.now) then portDown s p 4 .failed else s)

/-- Bring-up of a port starts (R322), where it is enabled and `LNCt` runs. -/
def startTraining (s : State) (p : Nat) : State :=
  if portEnabled s p && fwRuns s (5 + p / 8) && !s.elsfpOut.contains (p / 8) then
    setPrt s p { prt s p with mode := .training, trainSince := s.pace.now, failedAt := none, peer := none }
  else s

/-- A written `PORT_ENABLE` in force (R321): cleared ports leave service, enabled ones may be brought up. -/
def portsEnabled (s : State) (v : Nat) : State :=
  let s := { s with active := mset s.active 0x400003 (leBytes 4 v) }
  (List.range 32).foldl (fun s p =>
    if bit v p then if (prt s p).mode = .disabled then setPrt s p { prt s p with mode := .dark } else s
    else if (prt s p).mode = .disabled then s
    else if portUp s p || (prt s p).mode == .training then portDown s p 7 .disabled
    else setPrt s p { prt s p with mode := .disabled, cause := 7 }) s

/-- `PORT_ENABLE` (R321). -/
def execPortEnable (w : ObjWrite) (s : State) : Out :=
  .next (objWrite s w 0x400003 0 fun s => (0, portsEnabled s (leNat w.val)))

/-- `PORT_RETRAIN` (R373): restarts bring-up of a port; a port in service leaves it first. A disabled port is left as
it is; while `LNCt` restarts the write is held (R15). -/
def execPortRetrain (w : ObjWrite) (s : State) : Out :=
  let p := leNat w.val
  .next (if p < 32 ∧ portEnabled s p = true ∧ serves s (5 + p / 8) = false then hold s (5 + p / 8) (.write 0x400007 w)
  else objWrite s w 0x400007 0 fun s =>
    if portEnabled s p then
      let s := if portUp s p then portDown s p (prt s p).cause .dark else s
      (0, startTraining s p)
    else (0, s))

/-- `PORT_BRINGUP_START` (R322): an enabled port that is out of service. -/
def execPortBringupStart (p now : Nat) (s : State) : Out :=
  let s := clock s now
  .next (if portUp s p || (prt s p).mode == .training then s else startTraining s p)

/-- A trained port enters service with the wavelengths that passed. -/
def portService (s : State) (p : Nat) (i : PeerInfo) : State :=
  let x := prt s p
  let tx := i.tx &&& litMask s (p / 8)
  let s := setPrt s p { x with
    mode := if tx == 0xFF#8 && i.rx == 0xFF#8 then .active else .degraded
    wlTx := tx
    wlRx := i.rx
    peerNode := i.node
    peerPort := i.port
    enc := i.enc
    keyed := i.enc
    lastAck := s.pace.now
    lastRetrain := (List.range 8).map fun w => (w, s.pace.now)
    rxSeq := 0
    txSeq := 0
    sending := []
    retry := []
    sentFlits := []
    farFreed := []
    freed := []
    flight := []
    encFails := []
    peer := none
    failedAt := none }
  rePath s

/-- Number of the end of a link that is this port, or its far end. -/
def thisEnd (s : State) (p : Nat) : Nat := nodeId s * 32 + p
def farEnd (x : Port) : Nat := x.peerNode * 32 + x.peerPort

/-- The key exchange of a link begins (R369): a new ECDH key, whose public half goes to the far end in a `KEYX` packet. -/
def keyBegin (s : State) (p : Nat) (i : PeerInfo) : State :=
  let h := s.trust.nextKey
  let x := prt s p
  let s := setPrt { s with trust.nextKey := h + 1 } p { x with
    peer := some i, peerNode := i.node, peerPort := i.port, enc := false, ecdh := h, farPub := []
    rxSeq := 0, txSeq := 0, sending := [], retry := [], sentFlits := [], farFreed := [], freed := [], flight := [] }
  match takeSeq s (0x441 + p / 8) with
  | none => s
  | some (seq, s) => push s p (pktClose {
      cls := 3, type := 0x1D, dst := i.node, src := nodeId s, engine := 0x441 + p / 8, seq, hops := cfg s 0x410002
      birth := birthNow s, payload := Config.ecdhPub h })

/-- The keys of a link from link sequence number `seq` on: one for each direction (R369). -/
def newKeys (s : State) (p seq : Nat) : State :=
  let x := prt s p
  let n := x.keyEpoch + 1
  setPrt s p { x with
    keyEpoch := n, keyPackets := 0, keySince := s.pace.now
    keysTx := (seq, Config.linkKey x.shared n (thisEnd s p)) :: x.keysTx
    keysRx := (seq, Config.linkKey x.shared n (farEnd x)) :: x.keysRx }

/-- `PORT_TRAINING_DONE` (R322): no answer, fewer than 4 wavelengths, or another encryption mode leave the port in
`TRAINING`; an encrypted link goes on to its key exchange. -/
def execPortTrainingDone (p now : Nat) (peer : Option PeerInfo) (s : State) : Out :=
  let s := clock s now
  let x := prt s p
  .next (if x.mode ≠ .training ∨ x.failedAt.isSome ∨ fwRuns s (5 + p / 8) = false then s
  else fwNext (match peer with
    | none => setPrt s p { x with failedAt := some s.pace.now }
    | some i =>
      if wlCount (i.tx &&& litMask s (p / 8)) < 4 ∨ wlCount i.rx < 4 then setPrt s p { x with failedAt := some s.pace.now }
      else if i.enc ≠ bit (cfg s 0x470001) p then setPrt s p { x with failedAt := some s.pace.now, cause := 5 }
      else if i.enc then keyBegin s p i
      else portService s p i))

/-- `PORT_KEY_EXCHANGE_DONE` (R369): while `SEC0` runs; `ok` tells that the far end proved its certificates by `CHALLENGE`
(log 137), and its public key must have come. -/
def execPortKeyExchangeDone (p now : Nat) (ok : Bool) (s : State) : Out :=
  let s := clock s now
  let x := prt s p
  .next (match x.peer with
    | some i =>
      if x.mode = .training ∧ fwRuns s 0 then
        if ok && !x.farPub.isEmpty then
          let s := setPrt s p { x with shared := Config.ecdhShared x.ecdh x.farPub, keysTx := [], keysRx := [] }
          fwNext (portService (newKeys s p 0) p i)
        else fwNext (setPrt s p { x with failedAt := some s.pace.now, peer := none })
      else s
    | none => s)

/-- `PORT_BRINGUP_RETRY` (R322): 1 s after a failed bring-up. -/
def execPortBringupRetry (p now : Nat) (s : State) : Out :=
  let s := clock s now
  .next (match (prt s p).failedAt with
    | some t => if (prt s p).mode = .training ∧ t + 1000000000 ≤ s.pace.now then startTraining s p else s
    | none => s)

/-- `PORT_LIGHT_DETECT` (R520): light on at least 4 wavelengths of a port that lost its signal (log 31). -/
def execPortLightDetect (p wls now : Nat) (s : State) : Out :=
  let s := clock s now
  .next (if (prt s p).mode = .dark ∧ ((prt s p).cause = 1 ∨ (prt s p).cause = 8) ∧ 4 ≤ wls then startTraining s p else s)

/-- `ELSFP_REMOVE` (R520): the 8 ports of the tower leave service with cause laser fault. -/
def execElsfpRemove (k : Nat) (s : State) : Out :=
  let s := { s with elsfpOut := addOnce s.elsfpOut k }
  .next ((List.range 8).foldl (fun s i =>
    let p := 8 * k + i
    if portUp s p || (prt s p).mode == .training then portDown s p 3 .dark else s) s)

/-- `ELSFP_INSERT` (R520): `LNCk` enables the lasers once all 8 outputs report normal power, and brings up the tower's
enabled ports. -/
def execElsfpInsert (k : Nat) (normal : Bool) (s : State) : Out :=
  .next (if normal && fwRuns s (5 + k) then
    let s := { s with elsfpOut := s.elsfpOut.filter (· != k), laserBad := s.laserBad.filter fun (x : Nat × Nat) => x.1 != k }
    (List.range 8).foldl (fun s i => if portUp s (8 * k + i) then s else startTraining s (8 * k + i)) s
  else s)

/-! ### Link frames and keys (R319, R368 to R370) -/

/-- Flits freed by the far end are taken off a channel's packets in its buffer, oldest first. -/
def popFlits (vc : Nat) : Nat → List (Nat × Nat × Nat) → List (Nat × Nat × Nat)
  | _, [] => []
  | 0, l => l
  | n + 1, (v, q, k) :: l =>
    if v = vc then (if n + 1 < k then (v, q, k - (n + 1)) :: l else popFlits vc (n + 1 - k) l) else (v, q, k) :: popFlits vc (n + 1) l

/-- What a frame tells of the frames this port has sent (R319, R330): those below the number the far end expects are
acknowledged and leave the retry buffer, those it asks for are sent again from there, each counted (R371), and credits
return. -/
def linkTold (s : State) (p : Nat) (f : LinkFrame) (ask : Bool) : State :=
  let x := prt s p
  let left := x.retry.filter fun r => decide (f.ack ≤ r.seq)
  let gain := fun vc => f.freed.getD vc 0 - mget x.farFreed vc 0
  setPrt s p { x with
    retry := left
    lastAck := if left.length < x.retry.length ∨ left.isEmpty then s.pace.now else x.lastAck
    replays := if ask then x.replays + left.length else x.replays
    farFreed := (List.range 8).map fun vc => (vc, mget x.farFreed vc 0 + gain vc)
    flight := popFlits 4 (gain 4) (popFlits 2 (gain 2) x.flight) }

/-- Flits of a virtual channel that a port's input buffer holds; a held contribution keeps its place (R279). -/
def heldFlits (x : Port) (vc : Nat) : Nat :=
  ((x.inQ.filter fun q => vcOf q == vc).map flitsOf).foldl (· + ·) (if vc = 2 then x.kept else 0)

/-- The bytes of a frame after header word 0: opened where the link is encrypted (R368). -/
def frameBody (x : Port) (seq : Nat) (f : LinkFrame) : Option (List Byte) :=
  if x.enc && !f.body.isEmpty then Config.gcmOpen (keyAt x.keysRx seq) (Config.linkNonce seq) [] f.body f.tag else some f.body

/-- `LINK_FRAME` (R319, R329, R330, R368, R370; log 34): an uncorrectable codeword or a failed tag asks the sender for a
replay. Else the frame tells of what this port has sent, and its packet, where it is the frame expected next and its channel's
input buffer has room, is accepted, once and in order; any other is discarded. `FEC_CORR` counts the `fixed` symbols corrected
(R371). -/
def execLinkFrame (p seq now : Nat) (f : LinkFrame) (fecOk ask : Bool) (fixed : Nat) (s : State) : Out :=
  let s := clock s now
  let x := { prt s p with corr := (prt s p).corr + fixed }
  .next (if linkUp s p = false then s
  else if fecOk = false then setPrt s p { x with uncorr := x.uncorr + 1, replayAsk := true }
  else match frameBody x seq f with
    | none =>
      let fails := (x.encFails.filter fun t => decide (s.pace.now < t + 1000000)) ++ [s.pace.now]
      let s := setPrt s p { x with replayAsk := true, encFails := fails }
      if 16 ≤ fails.length then portDown s p 6 .failed else s
    | some body =>
      let s := linkTold (setPrt s p x) p f ask
      let x := prt s p
      let pkt := pktParse f.word0 body f.poison f.pz
      if body.isEmpty ∨ seq ≠ x.rxSeq ∨ vcFlits (vcOf pkt) < heldFlits x (vcOf pkt) + flitsOf pkt then s
      else setPrt s p { x with rxSeq := x.rxSeq + 1, replayAsk := false, inQ := x.inQ ++ [pkt] })

/-- `LINK_REKEY` (R369): after 2^32 packets or `LINK_REKEY_INTERVAL` seconds, while `SEC0` runs, from the agreed link
sequence number on, in both directions; frames before it keep their keys. -/
def execLinkRekey (p now seq : Nat) (s : State) : Out :=
  let s := clock s now
  let x := prt s p
  .next (if portUp s p && x.keyed && fwRuns s 0 && decide (x.txSeq ≤ seq) && decide (x.rxSeq ≤ seq)
      && (decide (2 ^ 32 ≤ x.keyPackets) || decide (x.keySince + cfg s 0x470002 * 1000000000 ≤ s.pace.now)) then
    newKeys s p seq
  else s)

/-! ### Arrival of packets -/

/-- Whether a packet is the next of its virtual channel in a port's input buffer. -/
def atFront (x : Port) (pkt : Packet) : Bool := (x.inQ.find? fun q => vcOf q == vcOf pkt) == some pkt

/-- Take a packet out of a port's input buffer: its flits are free again. -/
def takeIn (s : State) (p : Nat) (pkt : Packet) : State :=
  let x := prt s p
  setPrt s p { x with inQ := x.inQ.erase pkt, freed := mset x.freed (vcOf pkt) (mget x.freed (vcOf pkt) 0 + flitsOf pkt) }

/-- A packet's command takes it from the port's input buffer, where an accepted frame has put it, in the order of its virtual
channel (R319). It must be of the type and for this node; one whose code fails is discarded and counted (R334). -/
def arrive (s : State) (p now : Nat) (pkt : Packet) (type : Nat) (body : State → State) : State :=
  let s := clock s now
  if alive s && pkt.type == type && pkt.dst == nodeId s && atFront (prt s p) pkt then
    let s := takeIn s p pkt
    if pktCode pkt = pkt.ecrc then body s else dropAt s p
  else s

/-- `DNY_LINK` (R366): link management between the two ends; the manual gives it no effect on the module's state. -/
def execDnyLink (p now : Nat) (pkt : Packet) (s : State) : Out := .next (arrive s p now pkt 0x18 fun s => s)

/-- `DNY_KEYX` (R369): the far end's ECDH public key, for the link's shared secret. -/
def execDnyKeyx (p now : Nat) (pkt : Packet) (s : State) : Out :=
  .next (arrive s p now pkt 0x1D fun s => setPrt s p { prt s p with farPub := pkt.payload })

/-! ### Pace packets (R438, R439) -/

/-- The port whose peer the module follows with source `FABRIC`: enabled, `LOCKED`, of the lowest stratum, the lowest
number on ties. -/
def pacePort (s : State) : Option Nat :=
  let ps := (List.range 32).filter fun p => portUp s p && bit (cfg s 0x20000A) p && (prt s p).peerLocked
  minBy (fun p => (prt s p).peerStratum) ps

/-- `DNY_PACE` (R438, R439): the link delay and the offset to the peer are recorded; an offset above 5 µs is counted
and recorded; with `FABRIC` the followed peer disciplines the counter. -/
def execDnyPace (p now : Nat) (pkt : Packet) (m : PaceMsg) (s : State) : Out :=
  .next (arrive s p now pkt 0x19 fun s =>
    let far := decide (5000 < m.offset.natAbs)
    let x := prt s p
    let s := setPrt s p { x with
      peerOffset := m.offset
      peerStratum := m.stratum
      peerLocked := m.locked
      linkDelay := m.delay
      peerLate := x.peerLate + b2n far }
    let s := if far then pitEvent s 0x0305 p 0 0 (wrap 32 m.offset) else s
    if cfg s 0x200001 = 2 ∧ pacePort s = some p ∧ m.stratum + 1 < 15 ∧ s.pace.on then paceMeasure s m.offset (m.stratum + 1) else s)

/-- Codes of the Pace states (Table 14.1). -/
def paceModeCode : PaceMode → Nat
  | .freerun => 0 | .acquiring => 1 | .locked => 2 | .holdover => 3

/-- `PACE_PACKET_SEND` (R438): every 1 ms each port in service sends its time, state and stratum, under the router's next
sequence number (R336). -/
def execPacePacketSend (p now : Nat) (s : State) : Out :=
  let s := clock s now
  let x := prt s p
  .next (if portUp s p && decide (x.lastPace + 1000000 ≤ s.pace.now) then
    match takeSeq s (0x441 + p / 8) with
    | none => s
    | some (seq, s) =>
      let pkt := pktClose {
        cls := 3, type := 0x19, dst := x.peerNode, src := nodeId s, engine := 0x441 + p / 8, seq
        hops := cfg s 0x410002, birth := birthNow s
        payload := leBytes 8 s.pace.now ++ leBytes 1 (paceModeCode s.pace.mode) ++ leBytes 1 s.pace.stratum }
      push (setPrt s p { x with lastPace := s.pace.now }) p pkt
  else s)

/-! ### Credits (R331, R486) -/

/-- `CREDIT_EPOCH` (R331, R486): every 100 µs of Pace time the request credits of each port's B class (8,192 flits) and M class (1,024 flits) are
divided among the partitions with requests waiting there, by their `PART_FABRIC_SHARE`. Keys are class × 16 + partition. -/
def execCreditEpoch (now : Nat) (s : State) : Out :=
  let s := clock s now
  let share := fun p => cfg s (partKey p 7)
  let divide := fun (x : Port) (cls total : Nat) =>
    let waiting := (List.range 16).filter fun p => x.outQ.any fun e => e.pkt.cls == cls && !e.pkt.rsp && jkeyPart s e.pkt.jkey == p
    let sum := waiting.foldl (fun n p => n + share p) 0
    waiting.map fun p => (cls * 16 + p, total * share p / max 1 sum)
  .next (if s.pace.now < s.lastEpoch + 100000 then s
  else { s with
    lastEpoch := s.pace.now
    ports := s.ports.map fun (x : Nat × Port) => (x.1, { x.2 with credits := divide x.2 1 8192 ++ divide x.2 2 1024 }) })

/-! ### Path changes (R328) -/

/-- Whether a passing request must still wait to leave on `port` (R328): an earlier one of its engine and line is held, or has
left by another port, is not answered, and is younger than 40 µs. -/
def passWaits (s : State) (before : Nat) (port : Nat) (p : Packet) : Bool :=
  (s.requests.any fun (r : Request) => r.passing && r.held == .path && decide (r.id < before) && passWho r.pkt == passWho p && passLine r.pkt == passLine p)
    || s.paths.any fun q => q.who == passWho p && q.line == passLine p && q.port != port && decide (s.pace.now < q.time + 40000)

/-- Send a passing D request on a port and note its path. -/
def sendPassing (s : State) (port : Nat) (p : Packet) : State :=
  let young := s.paths.filter fun (q : Passed) => decide (s.pace.now < q.time + 40000)
  pushRequest { s with paths := young ++ [{ who := passWho p, line := passLine p, port, seq := p.seq, time := s.pace.now }] } port p none

/-- `PATH_CHANGE_RELEASE` (R328): a held request whose earlier requests to its line have completed, or are too old to be
applied; a passing one that has itself grown too old is discarded (R335), and one without a route is answered (R324). -/
def execPathChangeRelease (i now : Nat) (s : State) : Out :=
  let s := clock s now
  .next (match s.requests.find? fun (r : Request) => r.id == i && r.held == .path with
    | none => s
    | some r =>
      if r.passing then
        if tooOld s r.pkt then dropAt (dropReq s i) r.port
        else match pickPort s r.pkt with
          | some (port, s2) => if passWaits s i port r.pkt then s else sendPassing (dropReq s2 i) port r.pkt
          | none => unreachable (dropReq s i) r.port r.pkt
      else if r.joined ≠ [] ∧ r.pkt.retry = 0 ∧ sourceStatus s r.pkt ≠ 0 then finishRequest s r (sourceStatus s r.pkt) [] false false
      else trySend s i)

end Sys2Proof.Machine
end

