-- ==== Sys2Proof/Machine/Direct.lean ====
section
/-!
DEFINITION. The D class: requests at their destination, responses at their source, timeouts, the replay tables, the
hot-line buffers, and packets passed on (chapter 11, R326, R328, R335, R338 to R346, R351 to R354).
-/
namespace Sys2Proof.Machine
open Sys2Proof

/-! ### Checks at the destination -/

/-- Whether an inbound window of a job key allows an access of `n` bytes at `a` (R338). An entry is 24 B: job key in
byte 0, write allowed in bit 0 of byte 1, first address at 8, last address at 16 (log 30). -/
def inbound (s : State) (jkey a n : Nat) (write : Bool) : Bool :=
  let b := cfgB s 0x450001
  (List.range (b.length / 24)).any fun i =>
    let e := b.drop (24 * i)
    subNat e 0 1 == jkey && decide (subNat e 8 8 ≤ a) && decide (a + n ≤ subNat e 16 8 + 1) && (!write || bit (subNat e 1 1) 0)

/-- Status of a remote access before it is performed: `REMOTE_DENIED` (R338), `REMOTE_BAD_TARGET` (R339), or the status
of the module-local access. -/
def remoteStatus (s : State) (port : Nat) (p : Packet) (k : XKind) (a n : Nat) : Nat :=
  if inbound s p.jkey a n (xkWrites k) = false then 0x14
  else match home s a with
    | .regs => 0x15
    | .window => 0x15
    | _ => accessStatus s { kind := .remote, unit := port } k a n

/-- Tower whose floor die is the home point of an address. -/
def homeTower (s : State) (a : Nat) : Nat :=
  match home s a with
  | .fast k => k / 8
  | .deep q => q / 8
  | .scratch t => t
  | .slm c => cluTower c
  | _ => 0

/-- Requests that wait for a line at its home point (R353). -/
def lineWaits (s : State) (line : Nat) : Nat := (s.hotLines.filter fun (x : Nat × Packet) => pktLine x.2 == line).length

/-- Whether the home point has just applied a store or atomic to a line: at most one within a nanosecond (R352, log 35). -/
def lineBusy (s : State) (line : Nat) : Bool := s.lineTimes.any fun (x : Nat × Nat) => x.1 == line && x.2 == s.pace.now

/-- Note a store or atomic applied to a line. -/
def noteLine (s : State) (line : Nat) : State :=
  { s with lineTimes := (s.lineTimes.filter fun (x : Nat × Nat) => x.2 == s.pace.now) ++ [(line, s.pace.now)] }

/-- Whether an arriving request is marked `ECN` (R354): more requests wait for its line than the threshold allows, its port's
D request buffer is more than half full, or it came marked. -/
def marked (s : State) (port : Nat) (p : Packet) : Bool :=
  p.ecn || decide (cfg s 0x460001 < lineWaits s (pktLine p)) || decide (vcFlits 0 < 2 * heldFlits (prt s port) 0)

/-- Count a request the destination marks. -/
def countMark (s : State) (port : Nat) : State := setPrt s port { prt s port with ecnMarked := (prt s port).ecnMarked + 1 }

/-- Requests in the hot-line buffer of tower `t`'s floor die (R353). -/
def hotCount (s : State) (t : Nat) : Nat := (s.hotLines.filter fun (x : Nat × Packet) => homeTower s x.2.offset == t).length

/-- Whether a request goes into the hot-line buffer (R352, R353): behind requests that wait for its line, after a store or
atomic just applied to it, or while its stack's accesses wait (R61, R70). -/
def needsHot (s : State) (p : Packet) : Bool :=
  decide (lineWaits s (pktLine p) ≠ 0) || waits s p.offset || (decide (p.type ≠ 1) && lineBusy s (pktLine p))

/-- Whether the D request channel of a port is stopped: its side queue is full (R344), or the hot-line buffer of its floor die
(R353). -/
def channelStopped (s : State) (port : Nat) : Bool :=
  decide (64 ≤ (prt s port).side.length) || decide (4096 ≤ hotCount s (port / 8))

/-- Whether a request needs a place in a hot-line buffer that is full. -/
def hotBlocked (s : State) (p : Packet) : Bool := needsHot s p && decide (4096 ≤ hotCount s (homeTower s p.offset))

/-! ### Performing requests -/

/-- Perform a load and answer it (R339). -/
def serveLd (s : State) (port : Nat) (p : Packet) : State :=
  let n := 8 * (p.aux % 32)
  let st := remoteStatus s port p .load p.offset n
  if st ≠ 0 then answer s port (replyTo s p 2 st [] false p.ecn)
  else
    let r := memRead s p.offset n
    answer r.1 port (replyTo r.1 p 2 (if r.2.2 then 8 else 0) r.2.1 r.2.2 p.ecn)

/-- Bytes a store's mask selects, as runs of consecutive bytes: offset in the line and bytes (R333). -/
def maskRuns (payload : List Byte) : List (Nat × List Byte) :=
  let mask := leNat (payload.take 16)
  let units := (List.range 16).filter fun u => fld mask (8 * u + 7) (8 * u) != 0
  let lo := units.headD 0
  let byte := fun b => payload.getD (16 + (b - 8 * lo)) 0#8
  (List.range 128).foldr (fun b rs =>
    if bit mask b then
      match rs with
      | (o, bs) :: more => if o = b + 1 then (b, byte b :: bs) :: more else (b, [byte b]) :: rs
      | [] => [(b, [byte b])]
    else rs) []

/-- Perform a store and acknowledge it (R341, R352). -/
def serveSt (s : State) (port : Nat) (p : Packet) : State :=
  let runs := maskRuns p.payload
  let base := pktLine p * 128
  let lo := (runs.headD (0, [])).1
  let hi := match runs.getLast? with
    | some r => r.1 + r.2.length
    | none => lo
  let st := remoteStatus s port p .store (base + lo) (hi - lo)
  if st ≠ 0 then answer s port (replyTo s p 4 st [] false p.ecn)
  else
    let r := runs.foldl (fun (acc : State × Nat) x =>
      let w := memWrite acc.1 (base + x.1) x.2 p.poison
      (w.1, if acc.2 = 0 then w.2 else acc.2)) (s, 0)
    answer (noteLine r.1 (pktLine p)) port (replyTo r.1 p 4 r.2 [] false p.ecn)

/-- Record an atomic's outcome in a port's replay table (R343): entries of 200 µs and more make room. -/
def recordAtom (s : State) (port : Nat) (p : Packet) (st v : Nat) (pz : Bool) : State :=
  let x := prt s port
  let keep := x.table.filter fun e => decide (s.pace.now < e.time + 200000)
  setPrt s port { x with table := keep ++ [{ src := p.src, engine := p.engine, seq := p.seq, status := st, value := v, poison := pz, time := s.pace.now }] }

/-- Perform an atomic, record it and answer it (R343, R345). -/
def serveAtom (s : State) (port : Nat) (p : Packet) : State :=
  let n := if p.aux % 2 = 1 then 8 else 4
  let st := remoteStatus s port p (.atom (p.aop + 4) true) p.offset n
  if st ≠ 0 then
    let s := recordAtom s port p st 0 false
    answer s port (replyTo s p 6 st (leBytes 8 0) false p.ecn)
  else
    let r := memAtomic s p.offset n (p.aop + 4) [(pktOperand p % 2 ^ (8 * n), leNat ((p.payload.drop 8).take 8) % 2 ^ (8 * n), p.poison)]
    let v := r.2.2.headD (0, false)
    let s := noteLine (recordAtom r.1 port p r.2.1 v.1 v.2) (pktLine p)
    answer s port (replyTo s p 6 r.2.1 (leBytes 8 v.1) v.2 p.ecn)

/-- Perform a waiting request of any D type. -/
def serve (s : State) (port : Nat) (p : Packet) : State :=
  if p.type = 1 then serveLd s port p else if p.type = 3 then serveSt s port p else serveAtom s port p

/-- Perform a request now, or put it into the hot-line buffer of its home point (R352, R353). -/
def serveOrWait (s : State) (port : Nat) (p : Packet) : State :=
  if needsHot s p then { s with hotLines := s.hotLines ++ [(port, p)] } else serve s port p

/-! ### Requests received (R339, R341, R345) -/

/-- Arrival of a D request at its destination: it stays in the input buffer while its channel is stopped (R344, R353); one
too old is discarded and counted (R335); it is marked, and counted, where R354 asks for it. -/
def arriveD (s : State) (p now : Nat) (pkt : Packet) (type : Nat) (body : State → Packet → State) : State :=
  let s := clock s now
  if channelStopped s p || hotBlocked s pkt then s
  else
    let q := { pkt with ecn := marked s p pkt }
    arrive s p now pkt type fun s =>
      if tooOld s pkt then dropAt s p else body (if q.ecn && !pkt.ecn then countMark s p else s) q

/-- `DNY_LD` (R339). -/
def execDnyLd (p now : Nat) (pkt : Packet) (s : State) : Out := .next (arriveD s p now pkt 1 fun s q => serveOrWait s p q)

/-- `DNY_ST` (R341, R342). -/
def execDnySt (p now : Nat) (pkt : Packet) (s : State) : Out := .next (arriveD s p now pkt 3 fun s q => serveOrWait s p q)

/-- The recorded outcome of an atomic's tag. -/
def recorded (s : State) (port : Nat) (p : Packet) : Option Replay :=
  (prt s port).table.find? fun e => e.src == p.src && e.engine == p.engine && e.seq == p.seq

/-- Whether every entry of a port's replay table is younger than 200 µs, or kept for an atomic of the port that waits in a
hot-line buffer and will be recorded there (R343, R344). -/
def tableFull (s : State) (port : Nat) : Bool :=
  decide (4096 ≤ ((prt s port).table.filter fun e => decide (s.pace.now < e.time + 200000)).length
    + (s.hotLines.filter fun (x : Nat × Packet) => x.1 == port && x.2.type == 5).length)

/-- An atomic whose tag the port does not hold: a first attempt is performed, a retry is not (Table 11.9). -/
def freshAtom (s : State) (port : Nat) (p : Packet) : State :=
  if p.retry = 0 then serveOrWait s port p
  else
    let s := recordAtom s port p 0x10 0 false
    answer s port (replyTo s p 6 0x10 (leBytes 8 0) false p.ecn)

/-- `DNY_ATOM` (R344, R345, Table 11.9). -/
def execDnyAtom (p now : Nat) (pkt : Packet) (s : State) : Out :=
  .next (arriveD s p now pkt 5 fun s q =>
    let x := prt s p
    match recorded s p q with
    | some e =>
      let s := setPrt s p { x with replayHits := x.replayHits + 1 }
      answer s p (replyTo s q 6 e.status (leBytes 8 e.value) e.poison q.ecn)
    | none => if tableFull s p || !x.side.isEmpty then setPrt s p { x with side := x.side ++ [q] } else freshAtom s p q)

/-- `ATOM_SIDE_QUEUE_RELEASE` (R344). -/
def execAtomSideQueueRelease (p now : Nat) (s : State) : Out :=
  let s := clock s now
  let x := prt s p
  .next (match x.side with
    | [] => s
    | q :: more =>
      if tableFull s p || hotBlocked s q then s
      else
        let s := setPrt s p { x with side := more }
        if tooOld s q then dropAt s p else freshAtom s p q)

/-- `HOT_LINE_APPLY` (R352, R353): the request that has waited longest for a line of tower `t`'s home point. -/
def execHotLineApply (t line now : Nat) (s : State) : Out :=
  let s := clock s now
  .next (match s.hotLines.findIdx? fun (x : Nat × Packet) => pktLine x.2 == line && homeTower s x.2.offset == t with
    | none => s
    | some j =>
      match s.hotLines[j]? with
      | none => s
      | some (port, p) =>
        if lineBusy s line || waits s p.offset then s
        else
          let s := { s with hotLines := s.hotLines.eraseIdx j }
          if tooOld s p then dropAt s port else serve s port p)

/-! ### Responses and timeouts (R340, R341, R346) -/

/-- A response to a request of this node; one that answers none is discarded. -/
def direct (s : State) (p now : Nat) (pkt : Packet) (type of : Nat) : State :=
  arrive s p now pkt type fun s =>
    match matching s pkt.engine pkt.seq of with
    | some r => finishRequest (windowReply s 0 pkt.engine r.pkt.dst pkt.ece) r pkt.status pkt.payload pkt.poison pkt.ece
    | none => s

/-- `DNY_LD_RSP` (R340). -/
def execDnyLdRsp (p now : Nat) (pkt : Packet) (s : State) : Out := .next (direct s p now pkt 2 1)
/-- `DNY_ST_ACK` (R341). -/
def execDnyStAck (p now : Nat) (pkt : Packet) (s : State) : Out := .next (direct s p now pkt 4 3)
/-- `DNY_ATOM_RSP` (R346, R350). -/
def execDnyAtomRsp (p now : Nat) (pkt : Packet) (s : State) : Out := .next (direct s p now pkt 6 5)

/-- A request of a type that is sent and has waited since `ns` nanoseconds. -/
def overdue (s : State) (i type ns : Nat) : Option Request :=
  s.requests.find? fun (r : Request) => r.id == i && r.held == .sent && !r.passing && r.pkt.type == type && decide (r.issued + ns ≤ s.pace.now)

/-- `LD_TIMEOUT` (R340). -/
def execLdTimeout (i now : Nat) (s : State) : Out :=
  let s := clock s now
  .next (match overdue s i 1 50000 with
    | some r => finishRequest s r 0x11 [] false false
    | none => s)

/-- `ST_ACK_TIMEOUT` (R341). -/
def execStAckTimeout (i now : Nat) (s : State) : Out :=
  let s := clock s now
  .next (match overdue s i 3 50000 with
    | some r => finishRequest s r 0x11 [] false false
    | none => s)

/-- A result kept in a split table for a tag (R351). -/
def splitResult (s : State) (p : Packet) : Option Replay :=
  (s.ports.flatMap fun (x : Nat × Port) => x.2.split).find? fun e => e.src == p.src && e.engine == p.engine && e.seq == p.seq && decide (s.pace.now < e.time + 200000)

/-- Whether a tag is part of a combined request that has not completed (log 33). -/
def joinedAlready (s : State) (p : Packet) : Bool :=
  s.requests.any fun (r : Request) => r.joined.any fun q => q.src == p.src && q.engine == p.engine && q.seq == p.seq && q.type == p.type

/-- `ATOM_RETRY_TIMEOUT` (R346): the next of three retries with the same tag, then `OUTCOME_UNKNOWN`. A retry takes its way as
any request does (R328); one whose tag this router's split table holds, or that is part of a combined atomic still out, is
answered from there (R351). -/
def execAtomRetryTimeout (i now : Nat) (s : State) : Out :=
  let s := clock s now
  .next (match overdue s i 5 50000 with
    | none => s
    | some r =>
      if r.pkt.retry < 3 then
        let p := pktClose { r.pkt with retry := r.pkt.retry + 1, birth := birthNow s }
        let s := updReq s i fun x => { x with pkt := p, issued := s.pace.now }
        match splitResult s p with
        | some e => finishRequest s { r with pkt := p } e.status (leBytes 8 e.value) e.poison false
        | none =>
          if joinedAlready s p then s
          else trySend (updReq s i fun x => { x with held := .turn }) i
      else finishRequest s r 0x10 [] false false)

/-! ### Packets for other nodes (R324, R326, R328, R348 to R351) -/

/-- Send a passing D request on, or hold it where its path to its line has changed (R328). -/
def forwardD (s : State) (port : Nat) (p : Packet) : State :=
  if passWaits s s.nextReq port p then holdPassing s port p else sendPassing s port p

/-- A passing response tells that its request has completed (R328). -/
def passDone (s : State) (p : Packet) : State :=
  if p.cls = 0 ∧ p.rsp then { s with paths := s.paths.filter fun (q : Passed) => !(q.who == p.dst * 4096 + p.engine && q.seq == p.seq) } else s

/-- `PACKET_FORWARD` (R324, R326, R335, R351): a packet for another node is taken from the port's input buffer, unless its
channel is stopped, and goes on. -/
def execPacketForward (p now : Nat) (pkt : Packet) (s : State) : Out :=
  let s := clock s now
  let request := pkt.cls == 0 && !pkt.rsp
  .next (if alive s = false || pkt.dst == nodeId s || !atFront (prt s p) pkt || (request && channelStopped s p) then s
  else
    let s := passDone (takeIn s p pkt) pkt
    if request && tooOld s pkt then dropAt s p
    else if pkt.hops ≤ 1 then unreachable s p pkt
    else
      let q := { pkt with hops := pkt.hops - 1 }
      match if q.type = 5 ∧ q.rsp = false then splitResult s q else none with
      | some e => answer s p (replyTo s q 6 e.status (leBytes 8 e.value) e.poison q.ecn)
      | none =>
        if joinedAlready s q then s
        else match pickPort s q with
          | none => unreachable s p q
          | some (port, s) => if request then forwardD s port q else push s port q)

end Sys2Proof.Machine
end

