-- ==== Sys2Proof/Machine/Bulk.lean ====
section
/-!
DEFINITION. Headframe windows, bulk reads, and the message class (chapter 11, R356 to R365, R372).
-/
namespace Sys2Proof.Machine
open Sys2Proof

/-! ### Headframe windows (R357, R358) -/

/-- `HF_WIN_LOCAL` and `HF_WIN_REMOTE` of window `w`. -/
def hfLocal (s : State) (w : Nat) : Nat := subNat (cfgB s (0x440001 + w)) 0 8
def hfRemote (s : State) (w : Nat) : Nat := subNat (cfgB s (0x440001 + w)) 8 8

/-- First local address of window `w`, and its length. -/
def hfBase (s : State) (w : Nat) : Nat := 0x0A0000000000 + fld (hfLocal s w) 39 30 * 2 ^ 30
def hfSize (s : State) (w : Nat) : Nat := (fld (hfLocal s w) 49 40 + 1) * 2 ^ 30

/-- The enabled window that holds `n` bytes at `a`. -/
def hfWindow (s : State) (a n : Nat) : Option Nat :=
  (List.range 16).find? fun w => bit (hfLocal s w) 63 && decide (hfBase s w ≤ a) && decide (a + n ≤ hfBase s w + hfSize s w)

/-- Headframe engine of tower `t`. -/
def hf (s : State) (t : Nat) : Headframe := mget s.headframes t {}
/-- The state with a headframe engine replaced. -/
def setHf (s : State) (t : Nat) (x : Headframe) : State := { s with headframes := mset s.headframes t x }

/-- A failed run or read of a window: counted and recorded (R362). -/
def hfError (s : State) (w st addr : Nat) : State :=
  pitEvent { s with hfErrors := mset s.hfErrors w (mget s.hfErrors w 0 + 1) } 0x0304 w st addr

/-- A run fails (R362): its crews' next release or fence at SYSTEM scope reports it. -/
def failRun (s : State) (t : Nat) (r : Run) (st : Nat) : State :=
  let h := hf s t
  let s := setHf s t { h with runs := h.runs.filter fun q => q.id != r.id, failures := h.failures ++ r.crews.map fun c => (c, st, r.first) }
  hfError s r.win st r.first

/-- Whether two runs of a window share bytes. -/
def runsMeet (a b : Run) : Bool :=
  a.win == b.win && decide (a.first < b.first + b.bytes.length) && decide (b.first < a.first + a.bytes.length)

/-- Whether a run may be sent: it overlaps no unacknowledged run that was sent, or that is older (R359). -/
def runFree (h : Headframe) (r : Run) : Bool := !r.sent && !h.runs.any fun q => (q.sent || decide (q.id < r.id)) && runsMeet q r

/-- Send a run as one `BWR` (R359), with the tags of its poisoned bytes (R82, R167). -/
def sendRun (s : State) (t : Nat) (r : Run) : State :=
  let node := fld (hfRemote s r.win) 63 50
  let p : Packet := {
    cls := 1, type := 8, dst := node, src := nodeId s, engine := 0x42C + t, seq := 0
    offset := fld (hfRemote s r.win) 47 0 + (r.first - hfBase s r.win), jkey := jkeyOf s r.part
    aux := r.id % 2 ^ 32, payload := r.bytes, poison := !r.pz.isEmpty, pz := r.pz.map (· - r.first) }
  let st := sourceStatus s p
  if st ≠ 0 then failRun s t r st
  else
    let h := hf s t
    let s := setHf s t { h with runs := h.runs.map fun q => if q.id = r.id then { q with sent := true } else q }
    newRequest s { id := 0, pkt := p, run := some (t, r.id) }

/-- Send every run of an engine that is due and may be sent, oldest first. -/
def sendDue (s : State) (t : Nat) : State :=
  ((hf s t).runs.map (·.id)).foldl (fun s id =>
    match (hf s t).runs.find? fun q => q.id == id && q.due && runFree (hf s t) q with
    | some r => sendRun s t r
    | none => s) s

/-- Mark runs of an engine to be sent, with the stores that wait for room, and send those that may be. -/
def dueRuns (s : State) (t : Nat) (which : Run → Bool) : State :=
  let h := hf s t
  let mark := fun (q : Run) => if which q then { q with due := true } else q
  sendDue (setHf s t { h with runs := h.runs.map mark, stores := h.stores.map mark }) t

/-! ### Window stores (R359) -/

/-- The run with a later store's bytes in it: later bytes replace earlier ones. -/
def Run.join (q r : Run) (now : Nat) : Run :=
  let first := min q.first r.first
  let len := max (q.first + q.bytes.length) (r.first + r.bytes.length) - first
  let new := fun x => decide (r.first ≤ x) && decide (x < r.first + r.bytes.length)
  { q with
    first
    bytes := (List.range len).map fun i => if new (first + i) then r.bytes.getD (first + i - r.first) 0#8 else q.bytes.getD (first + i - q.first) 0#8
    pz := q.pz.filter (fun x => !new x) ++ r.pz
    grewAt := now
    crews := r.crews.foldl addOnce q.crews
    due := q.due || r.due || len == 2048 }

/-- The open run a store joins: the newest it overlaps, else the newest it extends; of its partition, and at most 2 KiB with
it. -/
def joinRun (h : Headframe) (r : Run) : Option Run :=
  let open_ := h.runs.filter fun q => !q.sent && q.win == r.win
  let size := fun (q : Run) => max (q.first + q.bytes.length) (r.first + r.bytes.length) - min q.first r.first
  let fits := fun (q : Run) => q.part == r.part && decide (size q ≤ 2048)
  let near := fun (q : Run) => decide (r.first ≤ q.first + q.bytes.length) && decide (q.first ≤ r.first + r.bytes.length)
  match (open_.filter (runsMeet · r)).getLast? with
  | some q => if fits q then some q else none
  | none => (open_.filter fun q => fits q && near q).getLast?

/-- Runs not yet sent: the gather buffer holds 256. -/
def gathered (h : Headframe) : Nat := (h.runs.filter fun q => !q.sent).length

/-- Whether a store finds room: it joins a run, or the buffer has a place or can send a run to make one. -/
def hasRoom (h : Headframe) (r : Run) : Bool := (joinRun h r).isSome || decide (gathered h < 256) || h.runs.any (runFree h)

/-- Put a store into the gather buffer (R359): into the run it joins, or as a new one, for which the oldest run is sent where
the buffer is full. Older open runs it overlaps are sent, so that its bytes land after theirs. -/
def placeStore (s : State) (t : Nat) (r : Run) : State :=
  let h := hf s t
  let old := fun (q : Run) => !q.sent && runsMeet q r
  match joinRun h r with
  | some q => sendDue (setHf s t { h with runs := h.runs.map fun x => if x.id = q.id then q.join r s.pace.now else if old x then { x with due := true } else x }) t
  | none =>
    let s := if 256 ≤ gathered h then
        match h.runs.find? (runFree h) with
        | some x => sendRun s t x
        | none => s
      else s
    let h := hf s t
    sendDue (setHf s t { h with
      runs := (h.runs.map fun x => if old x then { x with due := true } else x) ++ [{ r with id := h.nextRun, grewAt := s.pace.now }]
      nextRun := h.nextRun + 1 }) t

/-- Stores that wait for room in the gather buffer enter it in their order, as far as there is room. -/
def placeStores (s : State) (t : Nat) : State :=
  (hf s t).stores.foldl (fun s _ =>
    let h := hf s t
    match h.stores with
    | r :: more => if hasRoom h r then placeStore (setHf s t { h with stores := more }) t r else s
    | [] => s) s

/-- Store into a window by the storer `code` at tower `t`'s engine (R358, R359): its status. It enters the gather buffer, or
waits there for room. -/
def hfStoreAt (s : State) (t code part a : Nat) (bs : List Byte) (pz : Bool) : State × Nat :=
  match hfWindow s a bs.length with
  | none => (s, 4)
  | some w =>
    if bit (hfLocal s w) 62 = false then (s, 5)
    else
      let h := hf s t
      let r : Run := { id := 0, win := w, first := a, bytes := bs, part, grewAt := s.pace.now, crews := [code]
                       due := bs.length == 2048, pz := if pz then (List.range bs.length).map (a + ·) else [] }
      (if h.stores.isEmpty && hasRoom h r then placeStore s t r else setHf s t { h with stores := h.stores ++ [r] }, 0)

/-- A window store of a crew. -/
def hfStore (s : State) (c slot part a : Nat) (bs : List Byte) (pz : Bool) : State × Nat :=
  hfStoreAt s (cluTower c) (c * 128 + slot) part a bs pz

/-- Stores an engine has not finished with: its runs, and those that wait for room. -/
def allRuns (s : State) (t : Nat) : List Run := (hf s t).runs ++ (hf s t).stores

/-- `HF_GATHER_TIMEOUT` (R359). -/
def execHfGatherTimeout (t r now : Nat) (s : State) : Out :=
  let s := clock s now
  .next (dueRuns s t fun q => q.id == r && !q.sent && decide (q.grewAt + cfg s 0x440011 ≤ s.pace.now))

/-- Whether some run of an engine holds stores of a storer. -/
def holdsRunsAt (s : State) (t code : Nat) : Bool := (allRuns s t).any fun q => q.crews.contains code
/-- Whether some run holds stores of a crew. -/
def holdsRuns (s : State) (c slot : Nat) : Bool := holdsRunsAt s (cluTower c) (c * 128 + slot)

/-- A release or fence sends every run that holds the storer's stores (R360). -/
def flushRunsAt (s : State) (t code : Nat) : State := dueRuns s t fun q => q.crews.contains code
/-- A release or fence of a crew sends every run that holds its stores. -/
def flushRuns (s : State) (c slot : Nat) : State := flushRunsAt s (cluTower c) (c * 128 + slot)

/-- The failures kept for a storer (status, address), and the state without them (R362). -/
def takeFailuresAt (s : State) (t code : Nat) : List (Nat × Nat) × State :=
  let h := hf s t
  ((h.failures.filter fun (x : Nat × Nat × Nat) => x.1 == code).map fun x => (x.2.1, x.2.2),
   setHf s t { h with failures := h.failures.filter fun (x : Nat × Nat × Nat) => x.1 != code })
/-- The failures kept for a crew. -/
def takeFailures (s : State) (c slot : Nat) : List (Nat × Nat) × State := takeFailuresAt s (cluTower c) (c * 128 + slot)

/-- Storer code of copy engine `e` at its tower's headframe engine. -/
def copyCode (e : Nat) : Nat := 0x4000 + e

/-! ### Window loads (R361) -/

/-- Runs of consecutive numbers of an ascending list, at most 16 long. -/
def lineRuns : List Nat → List (Nat × Nat)
  | [] => []
  | l :: ls =>
    match lineRuns ls with
    | (f, n) :: more => if f = l + 1 ∧ n < 16 then (l, n + 1) :: more else (l, 1) :: (f, n) :: more
    | [] => [(l, 1)]

/-- A read of `n` bytes of a window at local address `a` ends for one that waited for it (R361). -/
def readerDone (s : State) (who : Reader) (a n st : Nat) (data : List Byte) (pz : Bool) : State :=
  match who with
  | .crew d => crewReply s d st data pz
  | .tld c => setClu s c { clu s c with tlds := (clu s c).tlds.map fun j => if j.lines.contains a then j.takeLines a n st data pz else j }
  | .copy e => setCpe s e { cpe s e with reads := (cpe s e).reads ++ [(a, st, padTo n data, pz)], left := (cpe s e).left - 1 }
  | .xact x =>
    coreFault (complete s x.tag st (if isFault st then List.replicate x.size 0#8 else padTo x.size (data.drop (x.addr - a))) pz) x (pz && !isFault st)

/-- The acquire of a crew's load that its last data ends. -/
def readerAcquired (s : State) (who : Reader) : State := match who with | .crew d => acquired s d | _ => s

/-- A read not yet sent that a read of `n` bytes at `off` may join: of the same engine, window and job key, and at most 2 KiB
with it (R361). -/
def joinableRead (s : State) (t w jkey off n : Nat) : Option Request :=
  s.requests.find? fun (r : Request) => r.read == some (t, w) && r.held != .sent && r.pkt.jkey == jkey
    && decide (off ≤ r.pkt.offset + r.pkt.aux) && decide (r.pkt.offset ≤ off + n)
    && decide (max (off + n) (r.pkt.offset + r.pkt.aux) - min off r.pkt.offset ≤ 2048)

/-- Read `n` lines of window `w` from line `l` by tower `t`'s engine for one that waits (R361): joined into a read that still
waits to be sent, or as a read of its own. -/
def readWindow (s : State) (t w part l n : Nat) (who : Reader) : State :=
  let a := l * 128
  let off := fld (hfRemote s w) 47 0 + (a - hfBase s w)
  let p : Packet := {
    cls := 1, type := 0xA, dst := fld (hfRemote s w) 63 50, src := nodeId s, engine := 0x42C + t, seq := 0
    offset := off, jkey := jkeyOf s part, aux := 128 * n }
  let st := sourceStatus s p
  let wait := fun (s : State) (req : Nat) =>
    let h := hf s t
    setHf s t { h with waiting := h.waiting ++ [{ req, win := w, addr := a, off, size := 128 * n, who }] }
  if st ≠ 0 then readerDone (hfError s w st a) who a (128 * n) st [] false
  else match joinableRead s t w p.jkey off (128 * n) with
    | some r =>
      let lo := min off r.pkt.offset
      let hi := max (off + 128 * n) (r.pkt.offset + r.pkt.aux)
      wait (updReq s r.id fun x => { x with pkt := { x.pkt with offset := lo, aux := hi - lo } }) r.id
    | none => newRequest (wait s s.nextReq) { id := 0, pkt := p, read := some (t, w) }

/-- A read ends: every load that waited for it takes its lines; a failure is counted and recorded (R361, R362). -/
def endRead (s : State) (r : Request) (t w st : Nat) (data : List Byte) (pz : Bool) : State :=
  let h := hf s t
  let mine := h.waiting.filter fun (l : WinLoad) => l.req == r.id
  let s := setHf s t { h with waiting := h.waiting.filter fun (l : WinLoad) => l.req != r.id }
  let s := if isFault st then hfError s w st ((mine.map (·.addr)).headD 0) else s
  let s := mine.foldl (fun s l => readerDone s l.who l.addr l.size st ((data.drop (l.off - r.pkt.offset)).take l.size) pz) s
  mine.foldl (fun s l => readerAcquired s l.who) s

/-- A transaction's load of a window (R361): a run it shares a line with is sent and acknowledged first; then its lines
are read from the remote node. -/
def xactRead (s : State) (t : Nat) (x : Xact) : State :=
  match hfWindow s x.addr x.size with
  | none => complete s x.tag 4 (List.replicate x.size 0#8)
  | some w =>
    let lo := x.addr / 128
    let n := cdiv (x.addr + x.size - lo * 128) 128
    let meets := fun (q : Run) => decide (q.first < (lo + n) * 128) && decide (lo * 128 < q.first + q.bytes.length)
    let s := dueRuns s t meets
    if (allRuns s t).any meets then setHf s t { hf s t with held := (hf s t).held ++ [x] }
    else readWindow s t w (x.iss.part.getD 0) lo n (.xact x)

/-- Runs of an engine have ended: stores that waited for room enter the buffer, runs that waited for them may follow, and so may
the loads that did. -/
def runsDone (s : State) (t : Nat) : State :=
  let s := sendDue (placeStores s t) t
  let h := hf s t
  h.held.foldl (fun s x => xactRead s t x) (setHf s t { h with held := [] })

/-- A run is acknowledged. -/
def endRun (s : State) (t id : Nat) : State :=
  let h := hf s t
  runsDone (setHf s t { h with runs := h.runs.filter fun q => q.id != id }) t

/-- `DNY_BRD_RSP` (R361). -/
def execDnyBrdRsp (p now : Nat) (pkt : Packet) (s : State) : Out :=
  .next (arrive s p now pkt 0xB fun s =>
    match matching s pkt.engine pkt.seq 0xA with
    | none => s
    | some r =>
      let s := dropReq (windowReply s 1 pkt.engine r.pkt.dst pkt.ece) r.id
      pump (match r.read with
        | some (t, w) => endRead s r t w pkt.status pkt.payload pkt.poison
        | none => s))

/-- Whether a bulk access must wait for a stack or a near-store cache, as a local one would (R61, R70, R339): its packet then
stays in the input buffer. -/
def bulkWaits (s : State) (a n : Nat) : Bool := (linePieces a n).any fun q => waits s q.1

/-- `DNY_BRD` (R338, R339, R356; log 36): each line of the read is checked and performed as a local read. -/
def execDnyBrd (p now : Nat) (pkt : Packet) (s : State) : Out :=
  let n := pkt.aux % 65536
  .next (if bulkWaits s pkt.offset n then clock s now
  else arrive s p now pkt 0xA fun s =>
    let st := remoteStatus s p pkt .load pkt.offset n
    if st ≠ 0 then answer s p (replyTo s pkt 0xB st [] false pkt.ecn)
    else
      let r := (linePieces pkt.offset n).foldl (fun (acc : State × List Byte × Bool) q =>
        let m := memRead acc.1 q.1 q.2
        (m.1, acc.2.1 ++ m.2.1, acc.2.2 || m.2.2)) (s, [], false)
      answer r.1 p (replyTo r.1 pkt 0xB (if r.2.2 then 8 else 0) r.2.1 r.2.2 pkt.ecn))

/-! ### Messages (R363 to R365; log 37) -/

/-- A byte list in pieces of at most 2,048 bytes, with their offsets; one empty piece for an empty message. -/
def chunks (b : List Byte) : List (Nat × List Byte) :=
  (List.range (max 1 (cdiv b.length 2048))).map fun i => (2048 * i, (b.drop (2048 * i)).take 2048)

/-- A message packet, under its engine's next sequence number. The send queue and the part's offset travel in `OFFSET`, as
[21:16] and [15:0] (log 37). -/
def msgPacket (s : State) (m : Message) (seq off : Nat) (part : List Byte) : Packet :=
  pktClose {
    cls := 2, type := 0x10, dst := m.node, src := nodeId s, engine := 0x430 + m.sq % 16, seq
    offset := m.sq * 65536 + off, hops := cfg s 0x410002, jkey := jkeyOf s 0, aux := m.rq * 65536 + m.seq
    birth := birthNow s, payload := part }

/-- Rings of receive queue `q` in the operating-system region (R363; log 37): 256 posted buffers of 16 B, an address and a
length that is not 0, and 256 completion entries of 16 B: source node, sequence, length. -/
def postRing (s : State) (q i : Nat) : Nat := (osBases s).headD 0 + q * 4096 + i % 256 * 16
def doneRing (s : State) (q i : Nat) : Nat := (osBases s).headD 0 + 0x40000 + q * 4096 + i % 256 * 16

/-- The next buffer posted in a receive queue, where there is one: address and length. -/
def nextBuffer (s : State) (q : Nat) : Option (Nat × Nat) :=
  let a := postRing s q (mget s.recvQueues q {}).taken
  let n := readNat s (a + 8) 8
  if n = 0 then none else some (readNat s a 8 % 2 ^ 48, n)

/-- Issuer of what the message-class receive path writes (R10). -/
def rxIss : Issuer := { kind := .msgRx, unit := 0 }

/-- What a receive queue answers a message part: acknowledged, not acknowledged, or nothing yet. -/
inductive MsgAnswer where
  | ack | nak | silent
deriving DecidableEq, Repr

/-- Receive one part of a message of `total` bytes (R364, R365): one whose sequence is not later than the last of its source is a
duplicate, acknowledged and discarded; without a free buffer it is not acknowledged. The last part delivers the message: its
bytes with their tags (R82), the posted buffer taken, then its completion entry, and source 0x120 + queue. -/
def receiveMsg (s : State) (p : Packet) (total : Nat) : State × MsgAnswer :=
  let sq := p.offset / 65536 % 64
  let off := p.offset % 65536
  let rq := fld p.aux 21 16
  let seq := p.aux % 65536
  let key := p.src * 64 + sq
  let want := mget s.recvSeq key 0
  let q := mget s.recvQueues rq {}
  if (seq + 65536 - want) % 65536 < 32768 then
    match nextBuffer s rq with
    | none => ({ s with recvQueues := mset s.recvQueues rq { q with parts := q.parts.filter fun x => x.key != key } }, .nak)
    | some (addr, len) =>
      if len < total then (s, .nak)
      else
        let parts := (q.parts.filter fun x => !(x.key == key && (x.off == off || x.seq != seq))) ++ [{ key, seq, off, bytes := p.payload, poison := p.poison }]
        let mine := parts.filter fun x => x.key == key
        let have_ := mine.foldl (fun n x => n + x.bytes.length) 0
        if total ≤ have_ then
          let s := mine.foldl (fun s x => post s rxIss (addr + x.off) x.bytes x.poison) s
          let s := post s rxIss (postRing s rq q.taken + 8) (leBytes 8 0)
          let s := post s rxIss (doneRing s rq q.written) (leBytes 4 p.src ++ leBytes 4 seq ++ leBytes 8 total)
          let q := { q with taken := q.taken + 1, written := q.written + 1, parts := parts.filter fun x => x.key != key }
          (irq { s with recvQueues := mset s.recvQueues rq q, recvSeq := mset s.recvSeq key ((seq + 1) % 65536) } (0x120 + rq), .ack)
        else ({ s with recvQueues := mset s.recvQueues rq { q with parts } }, .silent)
  else (s, .ack)

/-- Change a message. -/
def updMsg (s : State) (id : Nat) (f : Message → Message) : State :=
  { s with messages := s.messages.map fun (m : Message) => if m.id = id then f m else m }

/-- A message to this node itself is received at once. -/
def localMsg (s : State) (m : Message) : State :=
  let f := fun (acc : State × MsgAnswer) (c : Nat × List Byte) =>
    if acc.2 = .nak then acc else receiveMsg acc.1 (msgPacket acc.1 m 0 c.1 c.2) m.body.length
  let r := (chunks m.body).foldl f (s, .silent)
  match r.2 with
  | .ack => updMsg r.1 m.id fun x => { x with delivered := true, status := some 0 }
  | _ => updMsg r.1 m.id fun x => { x with nakked := true, sentAt := s.pace.now }

/-- Send one part of a message, under a sequence number of its engine (R336); whether it was sent. -/
def sendPart (s : State) (m : Message) (c : Nat × List Byte) : State × Bool :=
  match takeSeq s (0x430 + m.sq % 16) with
  | none => (s, false)
  | some (seq, t) =>
    match emit t (msgPacket t m seq c.1 c.2) with
    | some t => (updMsg t m.id fun x => { x with seqs := x.seqs ++ [seq] }, true)
    | none => (s, false)

/-- Send, or send again, every part of a message; one that cannot be routed, or finds no sequence number, is to be resent. -/
def sendMsg (s : State) (m : Message) : State :=
  let s := updMsg s m.id fun x => { x with sentAt := s.pace.now, nakked := false, noRoute := false, waiting := false, seqs := [] }
  if m.node = nodeId s then localMsg s m
  else
    let r := (chunks m.body).foldl (fun (acc : State × Bool) c => let q := sendPart acc.1 m c; (q.1, acc.2 && q.2)) (s, true)
    if r.2 then r.1 else updMsg r.1 m.id fun x => { x with nakked := true, noRoute := (routes s m.node).isEmpty }

/-- Messages of one send queue to one node go one after another, so they arrive in order: the next is sent when the
one before has ended. -/
def nextMsg (s : State) (sq node : Nat) : State :=
  if s.messages.any fun (m : Message) => m.sq == sq && m.node == node && !m.waiting && m.status.isNone then s
  else match s.messages.find? fun (m : Message) => m.sq == sq && m.node == node && m.waiting with
    | some m => sendMsg s m
    | none => s

/-- `SEND_QUEUE_DOORBELL` (R363): a message of up to 64 KiB to receive queue `rq` of a node. -/
def execSendQueueDoorbell (sq node rq now : Nat) (body : List Byte) (s : State) : Out :=
  let s := clock s now
  .next (if alive s = false ∨ 65536 < body.length then s
  else
    let key := sq * 16384 + node
    let seq := mget s.msgSeq key 0
    let m : Message := { id := s.messages.length, sq, node, rq, seq, body, posted := s.pace.now, sentAt := s.pace.now, waiting := true }
    nextMsg { s with messages := s.messages ++ [m], msgSeq := mset s.msgSeq key ((seq + 1) % 65536) } sq node)

/-- `DNY_MSG` (R364, R365). -/
def execDnyMsg (p now : Nat) (pkt : Packet) (total : Nat) (s : State) : Out :=
  .next (arrive s p now pkt 0x10 fun s =>
    let r := receiveMsg s pkt total
    match r.2 with
    | .ack => answer r.1 p (replyTo r.1 pkt 0x11 0 [] false false)
    | .nak => answer r.1 p (replyTo r.1 pkt 0x12 0 [] false false)
    | .silent => r.1)

/-- The message a response is about: one of whose packets it answers, by engine and sequence number. -/
def msgOf (s : State) (pkt : Packet) : Option Message :=
  s.messages.find? fun (m : Message) => m.status.isNone && !m.waiting && m.seq == pkt.aux % 65536 && 0x430 + m.sq % 16 == pkt.engine
    && m.seqs.contains pkt.seq

/-- `DNY_MSG_ACK` (R364): the message is delivered, and the next of its queue to that node follows. -/
def execDnyMsgAck (p now : Nat) (pkt : Packet) (s : State) : Out :=
  .next (arrive s p now pkt 0x11 fun s =>
    match msgOf s pkt with
    | some m => nextMsg (updMsg s m.id fun x => { x with delivered := true, nakked := false, status := some 0 }) m.sq m.node
    | none => s)

/-- `DNY_MSG_NAK` (R365): the message is to be resent; a router's answer tells that its node was not reached. -/
def execDnyMsgNak (p now : Nat) (pkt : Packet) (s : State) : Out :=
  .next (arrive s p now pkt 0x12 fun s =>
    match msgOf s pkt with
    | some m => updMsg s m.id fun x => { x with nakked := true, noRoute := pkt.status == 0x12, sentAt := s.pace.now }
    | none => s)

/-- `MSG_RESEND` (R365): every 10 µs while it is not delivered: after a `MSG_NAK`, or where no answer has come, as after a lost
packet (log 136). -/
def execMsgResend (i now : Nat) (s : State) : Out :=
  let s := clock s now
  .next (match s.messages.find? fun (m : Message) => m.id == i && !m.waiting && m.status.isNone with
    | some m => if m.sentAt + 10000 ≤ s.pace.now then nextMsg (sendMsg s m) m.sq m.node else s
    | none => s)

/-- `MSG_RETRY_EXPIRE` (R365). -/
def execMsgRetryExpire (i now : Nat) (s : State) : Out :=
  let s := clock s now
  .next (match s.messages.find? fun (m : Message) => m.id == i && m.status.isNone && decide (m.posted + cfg s 0x480001 * 1000000 ≤ s.pace.now) with
    | some m =>
      nextMsg (updMsg s i fun x => { x with nakked := false, waiting := false, status := some (if m.noRoute then 0x12 else 0x16) }) m.sq m.node
    | none => s)

end Sys2Proof.Machine
end

