-- ==== Sys2Proof/Machine/Copy.lean ====
section
/-!
DEFINITION. The copy engines and the check-value units they use (R84 to R89, R524 to R531). A row of a copy operation
starts the next descriptor of an engine and moves its data; `COPY_TRANSFER_DONE` writes the completion record (log 38).
-/
namespace Sys2Proof.Machine
open Sys2Proof

/-! ### Descriptors (Table 3.5) -/

/-- A word of the descriptor. -/
def CopyJob.w (j : CopyJob) (n : Nat) : Nat := (j.d.getD n 0#64).toNat
/-- `OP`. -/
def CopyJob.op (j : CopyJob) : Nat := fld (j.w 0) 63 60
/-- Bits of an element. -/
def CopyJob.bits (j : CopyJob) : Nat := 4 * 2 ^ fld (j.w 0) 59 57
/-- `ROWS`. -/
def CopyJob.rows (j : CopyJob) : Nat := fld (j.w 3) 63 32
/-- `COLS`. -/
def CopyJob.cols (j : CopyJob) : Nat := fld (j.w 3) 31 0
/-- Source and destination addresses, and the strides. -/
def CopyJob.srcAt (j : CopyJob) : Nat := fld (j.w 1) 47 0
def CopyJob.dst (j : CopyJob) : Nat := fld (j.w 2) 47 0
def CopyJob.srcStride (j : CopyJob) : Nat := fld (j.w 4) 39 0
def CopyJob.dstStride (j : CopyJob) : Nat := fld (j.w 5) 39 0
/-- The CVU the descriptor names on its engine's floor die. -/
def CopyJob.cvu (j : CopyJob) (e : Nat) : Option Nat := if bit (j.w 0) 52 then some (64 * (e / 8) + fld (j.w 0) 51 46) else none
/-- Bytes of a source row; none is read for `FILL`. -/
def CopyJob.srcRow (j : CopyJob) : Nat := if j.op = 3 then 0 else j.cols * j.bits / 8
/-- Rows of the destination: `TRANSPOSE` turns columns into rows (R86). -/
def CopyJob.dstRows (j : CopyJob) : Nat := if j.op = 2 then j.cols else j.rows
/-- Bytes of a destination row. -/
def CopyJob.dstRow (j : CopyJob) : Nat := if j.op = 2 then cdiv (j.rows * j.bits) 8 else j.cols * j.bits / 8

/-- Whether a field is out of its range, a reserved one not zero, or an address or stride not a multiple of the
element size (R85, R86; log 38). Reserved bits of word 0 that are set, and `ACC_INT` with another operation than `ACCW`, are
such fields (log 133). -/
def CopyJob.bad (j : CopyJob) : Bool :=
  let es := fld (j.w 0) 59 57
  let scope := fld (j.w 0) 56 54
  let al := max 1 (j.bits / 8)
  decide (j.op < 1) || decide (4 < j.op) || decide (4 < es) || (es == 4 && j.op != 1 && j.op != 3) || (j.op == 4 && es != 3)
    || decide (scope < 2) || decide (5 < scope) || (bit (j.w 0) 53 && j.op != 4) || fld (j.w 0) 45 0 != 0
    || (j.op != 3 && fld (j.w 1) 63 48 != 0) || fld (j.w 2) 63 48 != 0 || fld (j.w 4) 63 40 != 0 || fld (j.w 5) 63 40 != 0
    || fld (j.w 6) 62 48 != 0 || fld (j.w 7) 63 48 != 0
    || j.rows == 0 || decide (2 ^ 24 < j.rows) || j.cols == 0 || decide (2 ^ 24 < j.cols) || (es == 0 && j.cols % 2 == 1)
    || (j.op != 3 && j.srcAt % al != 0) || j.dst % al != 0 || j.srcStride % al != 0 || j.dstStride % al != 0
    || (bit (j.w 6) 63 && fld (j.w 6) 47 0 % 8 != 0)

/-! ### Check-value units (R525, R526, R530, R531) -/

/-- Check-value unit 64t + u. -/
def cvu (s : State) (u : Nat) : Cvu := mget s.cvus u {}
/-- The state with a check-value unit replaced. -/
def setCvu (s : State) (u : Nat) (x : Cvu) : State := { s with cvus := mset s.cvus u x }

/-- Whether a unit's configuration refuses a job of a partition (R531). -/
def cvuBad (x : Cvu) (part : Nat) : Bool :=
  x.part != part || x.mode == 0 || x.mode == 3 || x.tallyW == 3 || x.pos == 3 || decide (10 < x.blk)
    || decide (x.width < 8) || decide (64 < x.width) || decide (2 ^ x.width ≤ x.poly) || decide (2 ^ x.width ≤ x.init)

/-- Value of block `i` at an address (R526). -/
def cvuValue (x : Cvu) (i addr : Nat) (data : List Byte) : Nat :=
  let t := match x.tallyW with
    | 1 => leBytes 1 x.tally
    | 2 => leBytes 2 x.tally
    | _ => []
  let p := match x.pos with
    | 1 => leBytes 6 addr
    | 2 => leBytes 4 i
    | _ => []
  crc x.width x.poly x.init x.reflect x.invert (t ++ p ++ data)

/-- Process one block: generate writes its entry of the check table, check compares with it, for the CVU's partition.
Answers `OK`, `CV_MISMATCH` 0x32 with its effects (R530), or the status of the table access. -/
def cvuBlock (s : State) (u : Nat) (iss : Issuer) (i addr : Nat) (data : List Byte) : State × Nat :=
  let x := cvu s u
  let v := cvuValue x i addr data
  let s := setCvu s u { x with blocks := (x.blocks + 1) % 2 ^ 48 }
  let iss := { iss with part := some x.part }
  if x.mode = 1 then store s iss (x.exp + 8 * i) (leBytes 8 v)
  else
    let r := load s iss (x.exp + 8 * i) 8
    let s := r.1
    if isFault r.2.1 then (s, r.2.1)
    else if r.2.1 = 0 ∧ leNat r.2.2.1 % 2 ^ x.width = v then (s, 0)
    else
      let s := setCvu s u { cvu s u with mismatch := (cvu s u).mismatch + 1, last := v }
      (pitEvent (irq s (0x1B0 + u / 64)) 0x0901 u 0x32 addr v i, 0x32)

/-- A job of a CVU ends (R529). -/
def cvuEnd (s : State) (u : Nat) : State :=
  let x := cvu s u
  setCvu s u { x with busy := false, tally := (x.tally + 1) % 65536 }

/-! ### Pieces -/

/-- Bytes `a` to `a + n − 1` cut where guarded units begin. -/
def cuts (a n : Nat) : List (Nat × Nat) :=
  if n = 0 then [] else
  let w := (unitOf a).2.1
  (List.range ((a + n - 1) / w - a / w + 1)).map fun i =>
    let lo := max a ((a / w + i) * w)
    (lo, min (a + n) ((a / w + i + 1) * w) - lo)

/-- A piece of the destination: row, offset in the row, length. -/
structure Piece where
  row : Nat
  off : Nat
  len : Nat
deriving DecidableEq, Repr

/-- First destination address of a piece. -/
def CopyJob.at (j : CopyJob) (p : Piece) : Nat := j.dst + p.row * j.dstStride + p.off

/-- The pieces of the destination in stream order: rows cut at guarded units, at single elements where `fine`, and at
lines for accumulate-writes. -/
def CopyJob.pieces (j : CopyJob) (fine : Bool) : List Piece :=
  (List.range j.dstRows).flatMap fun r =>
    let a := j.dst + r * j.dstStride
    let n := j.dstRow
    if fine then
      let e := max 1 (j.bits / 8)
      (List.range (n / e)).map fun k => { row := r, off := k * e, len := e }
    else if j.op = 4 then
      (List.range ((a + n - 1) / 128 - a / 128 + 1)).map fun i =>
        let lo := max a ((a / 128 + i) * 128)
        { row := r, off := lo - a, len := min (a + n) ((a / 128 + i + 1) * 128) - lo }
    else (cuts a n).map fun c => { row := r, off := c.1 - a, len := c.2 }

/-- Source addresses of the bytes of a piece (R86); two for each byte of 4-bit elements transposed. -/
def CopyJob.sources (j : CopyJob) (p : Piece) : List Nat :=
  if j.op = 3 then []
  else if j.op = 2 then
    if j.bits = 4 then
      (List.range (2 * p.len)).filterMap fun i =>
        let k := 2 * p.off + i
        if k < j.rows then some (j.srcAt + k * j.srcStride + p.row / 2) else none
    else
      let e := j.bits / 8
      (List.range p.len).map fun i => j.srcAt + ((p.off + i) / e) * j.srcStride + p.row * e + (p.off + i) % e
  else (List.range p.len).map fun i => j.srcAt + p.row * j.srcStride + p.off + i

/-- A byte of the source: what a window read returned, or memory. -/
def sourceByte (s : State) (got : List (Nat × Nat × List Byte × Bool)) (a : Nat) : Byte :=
  match got.find? fun (g : Nat × Nat × List Byte × Bool) => decide (g.1 ≤ a) && decide (a < g.1 + g.2.2.1.length) with
  | some g => g.2.2.1.getD (a - g.1) 0#8
  | none => cellGet s.mem a

/-- Whether a byte of the source carries a poison tag. -/
def sourcePoison (s : State) (got : List (Nat × Nat × List Byte × Bool)) (a : Nat) : Bool :=
  match got.find? fun (g : Nat × Nat × List Byte × Bool) => decide (g.1 ≤ a) && decide (a < g.1 + g.2.2.1.length) with
  | some g => g.2.2.2
  | none => failedHome s a || poisoned s a 1

/-- Bytes of a piece with their poison tag. A `FILL` repeats its pattern from the start of each row; a 4-bit transpose
of an odd number of rows keeps the other half of a row's last byte (log 38). -/
def CopyJob.data (j : CopyJob) (s : State) (got : List (Nat × Nat × List Byte × Bool)) (p : Piece) : List Byte × Bool :=
  let pz := (j.sources p).any (sourcePoison s got)
  if j.op = 3 then ((List.range p.len).map fun i => (leBytes 8 (j.w 1)).getD ((p.off + i) % 8) 0#8, false)
  else if j.op = 2 ∧ j.bits = 4 then
    let nib := fun (k i : Nat) =>
      if k < j.rows then fld (sourceByte s got (j.srcAt + k * j.srcStride + p.row / 2)).toNat (4 * (p.row % 2) + 3) (4 * (p.row % 2))
      else (cellGet s.mem (j.at p + i)).toNat / 16
    ((List.range p.len).map fun i => BitVec.ofNat 8 (nib (2 * (p.off + i)) i + 16 * nib (2 * (p.off + i) + 1) i), pz)
  else ((j.sources p).map (sourceByte s got), pz)

/-- Status a piece's write meets before it is made: `ADDR_UNMAPPED` for register space, which no copy engine reaches (log 132). -/
def CopyJob.writeStatus (j : CopyJob) (s : State) (iss : Issuer) (p : Piece) : Nat :=
  let a := j.at p
  if j.op = 4 then accwStatus s iss (a / 128 * 128)
  else match home s a with
    | .regs => 4
    | .window =>
      let st := accessStatus s iss .store a p.len
      if st ≠ 0 then st
      else match hfWindow s a p.len with
        | none => 4
        | some w => if bit (hfLocal s w) 62 then 0 else 5
    | _ => let st := accessStatus s iss .store a p.len; if st ≠ 0 then st else if failedHome s a then 9 else 0

/-- Write a piece. -/
def CopyJob.write (j : CopyJob) (s : State) (e : Nat) (iss : Issuer) (p : Piece) (bs : List Byte) (pz : Bool) : State :=
  let a := j.at p
  if j.op = 4 then
    let o := a % 128 / 4
    let n := p.len / 4
    let w : AccWrite := {
      iss, addr := a / 128 * 128, int := bit (j.w 0) 53, mask := maskOf ((List.range n).map (o + ·))
      data := (List.range 32).map fun i => BitVec.ofNat 32 (if o ≤ i then leNat ((bs.drop (4 * (i - o))).take 4) else 0), poison := pz }
    (accw s w).1
  else match home s a with
    | .regs => s
    | .window => if j.writeStatus s iss p = 0 then (hfStoreAt s (e / 8) (copyCode e) j.part a bs pz).1 else s
    | _ => (store s iss a bs pz).1

/-! ### Moving the data (R84 to R89, R527) -/

/-- Read every source row, in pieces: the state after, the failed bytes with their status, and whether poison was met. -/
def CopyJob.read (j : CopyJob) (s : State) (iss : Issuer) (got : List (Nat × Nat × List Byte × Bool)) : State × List (Nat × Nat × Nat) × Bool :=
  let parts := if j.op = 3 then [] else (List.range j.rows).flatMap fun r => cuts (j.srcAt + r * j.srcStride) j.srcRow
  parts.foldl (fun (acc : State × List (Nat × Nat × Nat) × Bool) c =>
    let fail := fun s st => (s, acc.2.1 ++ [(c.1, c.2, st)], acc.2.2)
    match home acc.1 c.1 with
    | .regs => fail acc.1 4
    | .window =>
      let st := accessStatus acc.1 iss .load c.1 c.2
      if st ≠ 0 then fail acc.1 st
      else match got.find? fun (g : Nat × Nat × List Byte × Bool) => decide (g.1 ≤ c.1) && decide (c.1 < g.1 + g.2.2.1.length) with
        | some g => if isFault g.2.1 then fail acc.1 g.2.1 else (acc.1, acc.2.1, acc.2.2 || g.2.2.2)
        | none => fail acc.1 4
    | _ =>
      let r := load acc.1 iss c.1 c.2
      if isFault r.2.1 then fail r.1 r.2.1 else (r.1, acc.2.1, acc.2.2 || r.2.2.2)) (s, [], false)

/-- Whether the source and destination byte ranges of a descriptor meet (R87). -/
def CopyJob.overlaps (j : CopyJob) : Bool :=
  let s1 := j.srcAt + (j.rows - 1) * j.srcStride + j.srcRow
  let d1 := j.dst + (j.dstRows - 1) * j.dstStride + j.dstRow
  j.op != 3 && decide (j.srcAt < d1) && decide (j.dst < s1)

/-- Write pieces in the given order. Where source and destination overlap, each piece holds the source's earlier value
or what lies there by now, as drawn (R87). -/
def CopyJob.writeAll (j : CopyJob) (s0 s : State) (e : Nat) (iss : Issuer) (got : List (Nat × Nat × List Byte × Bool)) (ps : List Piece) : State :=
  ps.foldl (fun s p =>
    let r := if j.overlaps then draw s 2 else (0, s)
    let v := j.data (if r.1 = 1 then r.2 else s0) got p
    j.write r.2 e iss p v.1 v.2) s

/-- Keep the pieces drawn bits choose. -/
def chosen (s : State) : List Piece → List Piece × State
  | [] => ([], s)
  | p :: ps =>
    let r := draw s 2
    let q := chosen r.2 ps
    (if r.1 = 1 then p :: q.1 else q.1, q.2)

/-- Blocks of a CVU job: number, address, bytes, and where they end in the stream (R527). -/
def CopyJob.blocks (j : CopyJob) (size : Nat) (stream : List Byte) : List (Nat × Nat × List Byte × Nat) :=
  (List.range (cdiv stream.length size)).map fun i =>
    let x := i * size
    (i, j.dst + x / j.dstRow * j.dstStride + x % j.dstRow, (stream.drop x).take size, min stream.length (x + size))

/-- Move a descriptor's data: the state and the status the transfer ends with (R89). A transfer that ends at a fault
has written some of its other pieces, as drawn; a CVU job writes in ascending order and has written a first part. -/
def CopyJob.move (j : CopyJob) (s : State) (e : Nat) (got : List (Nat × Nat × List Byte × Bool)) : State × Nat :=
  let iss : Issuer := { kind := .copy, unit := e, part := some j.part }
  let r := j.read s iss got
  let s := r.1
  let ps := j.pieces j.overlaps
  let fault := fun p =>
    match r.2.1.find? fun (f : Nat × Nat × Nat) => (j.sources p).any fun a => decide (f.1 ≤ a) && decide (a < f.1 + f.2.1) with
    | some f => f.2.2
    | none => j.writeStatus s iss p
  let good := if r.2.2 then 8 else 0
  match j.cvu e with
  | some u =>
    let sound := ps.takeWhile fun p => fault p == 0
    let stop := sound.foldl (fun n p => n + p.len) 0
    let x := Machine.cvu s u
    let bl := j.blocks (2 ^ (x.blk + 6)) (ps.flatMap fun p => (j.data s got p).1)
    let c := bl.foldl (fun (acc : State × Nat) b => if acc.2 ≠ 0 ∨ stop < b.2.2.2 then acc else cvuBlock acc.1 u iss b.1 b.2.1 b.2.2.1) (s, 0)
    if c.2 ≠ 0 then
      let k := draw c.1 (sound.length + 1)
      (j.writeAll s k.2 e iss got (sound.take k.1), c.2)
    else match ps[sound.length]? with
      | none => (j.writeAll s c.1 e iss got ps, good)
      | some p =>
        let k := draw c.1 (sound.length + 1)
        let s2 := j.writeAll s k.2 e iss got (sound.take k.1)
        (if fault p = 9 then j.writeAll s s2 e iss got [p] else s2, fault p)
  | none =>
    let bad := ps.filter fun p => fault p != 0
    match bad with
    | [] =>
      let o := if j.overlaps then draw s 2 else (0, s)
      (j.writeAll s o.2 e iss got (if o.1 = 1 then ps.reverse else ps), good)
    | b :: _ =>
      let k := draw s bad.length
      let p := bad.getD k.1 b
      let q := chosen k.2 (ps.filter fun p => fault p == 0)
      let s2 := j.writeAll s q.2 e iss got q.1
      (if fault p = 9 then j.writeAll s s2 e iss got [p] else s2, fault p)

/-! ### Rows -/

/-- Whether copy engine 8t + u accepts descriptors (`COPY_ENGINE_ENABLE`). -/
def copyEnabled (s : State) (e : Nat) : Bool := bit (cfg s 0x360002) e

/-- Hand a descriptor to an engine. -/
def pushCopy (s : State) (e : Nat) (j : CopyJob) : State := setCpe s e { cpe s e with queue := (cpe s e).queue ++ [j] }

/-- Whether an access of the transfer must still wait for a stack or a near-store cache (R61, R70). -/
def CopyJob.waits (j : CopyJob) (s : State) : Bool :=
  ((List.range j.rows).any fun r => (cuts (j.srcAt + r * j.srcStride) j.srcRow).any fun c => Machine.waits s c.1)
    || (j.pieces false).any fun p => Machine.waits s (j.at p)

/-- Lines of headframe windows that the source covers, in runs of up to 16. -/
def CopyJob.windowLines (j : CopyJob) (s : State) (iss : Issuer) : List (Nat × Nat) :=
  if j.op = 3 then [] else
  let ok := fun (a n : Nat) => (match home s a with | .window => true | _ => false) && accessStatus s iss .load a n == 0 && (hfWindow s a n).isSome
  let ls := (List.range j.rows).flatMap fun r => (cuts (j.srcAt + r * j.srcStride) j.srcRow).filterMap fun c => if ok c.1 c.2 then some (c.1 / 128) else none
  lineRuns (ls.foldl addOnce [])

/-- Start the next descriptor of an idle engine, or go on with one whose window reads have returned. -/
def copyRow (e : Nat) (mine : Nat → Bool) (s : State) : State :=
  let x := cpe s e
  if alive s = false then s else
  match x.busy with
  | some j =>
    if x.ended || decide (x.left ≠ 0) || !mine j.op || j.waits s then s
    else
      let r := j.move s e x.reads
      setCpe r.1 e { cpe r.1 e with status := r.2, ended := true, reads := [] }
  | none =>
    match x.queue with
    | [] => s
    | j :: more =>
      if mine j.op = false ∨ copyEnabled s e = false then s
      else
        let u := j.cvu e
        let refuse := j.bad || (match u with | some u => cvuBad (cvu s u) j.part | none => false)
        if refuse then setCpe s e { x with queue := more, busy := some j, status := 7, ended := true }
        else if (match u with | some u => (cvu s u).busy | none => false) || j.waits s then s
        else
          let iss : Issuer := { kind := .copy, unit := e, part := some j.part }
          let need := j.windowLines s iss
          let meets := fun (q : Run) => need.any fun l => decide (q.first < (l.1 + l.2) * 128) && decide (l.1 * 128 < q.first + q.bytes.length)
          if (allRuns s (e / 8)).any meets then dueRuns s (e / 8) meets
          else
            let s := match u with
              | some u => setCvu s u { cvu s u with busy := true, blocks := 0 }
              | none => s
            let s := setCpe s e { x with queue := more, busy := some j, status := 0, ended := false, reads := [], left := 0 }
            let s := need.foldl (fun s l => match hfWindow s (l.1 * 128) 1 with
              | some w => readWindow (setCpe s e { cpe s e with left := (cpe s e).left + 1 }) (e / 8) w j.part l.1 l.2 (.copy e)
              | none => s) s
            if 0 < (cpe s e).left then s
            else
              let r := j.move s e (cpe s e).reads
              setCpe r.1 e { cpe r.1 e with status := r.2, ended := true, reads := [] }

/-- `COPY` (R84, R85); a descriptor with an invalid `OP` is refused here too. -/
def execCopyI (e : Nat) (s : State) : Out := .next (copyRow e (fun op => op == 1 || op == 0 || decide (4 < op)) s)
/-- `TRANSPOSE` (R86). -/
def execTransposeI (e : Nat) (s : State) : Out := .next (copyRow e (fun op => op == 2) s)
/-- `FILL` (R85). -/
def execFillI (e : Nat) (s : State) : Out := .next (copyRow e (fun op => op == 3) s)
/-- `ACCW` (R86, R62). -/
def execAccwI (e : Nat) (s : State) : Out := .next (copyRow e (fun op => op == 4) s)

/-- Whether a descriptor asks for a completion record that can be placed, and its address. -/
def CopyJob.record (j : CopyJob) : Bool := bit (j.w 6) 63 && fld (j.w 6) 47 0 % 8 == 0
def CopyJob.recordAt (j : CopyJob) : Nat := fld (j.w 6) 47 0

/-- A descriptor ends with a status (R88, R529): its record, as a flagged store, its CVU free, its command complete. -/
def CopyJob.finish (j : CopyJob) (s : State) (e st : Nat) (ran : Bool) : State :=
  let t := e / 8
  let iss : Issuer := { kind := .copy, unit := e, part := some j.part }
  let bs := leBytes 8 (st * 2 ^ 48 + fld (j.w 7) 47 0)
  let s := if j.record then
      match home s j.recordAt with
      | .regs => s
      | .window => flushRunsAt (hfStoreAt s t (copyCode e) j.part j.recordAt bs false).1 t (copyCode e)
      | _ => (store s iss j.recordAt bs).1
    else s
  let s := match j.cvu e with
    | some u => if ran then cvuEnd s u else s
    | none => s
  let s := setCpe s e { cpe s e with lastStatus := st, done := (cpe s e).done + 1 }
  match j.src with
  | .cmd q i => completeCmd s q i
  | .crew _ _ _ => s

/-- `COPY_TRANSFER_DONE` (R88, R529): the record, as a flagged store with release at `SCOPE`; at SYSTEM scope it waits
until the engine's window stores are acknowledged, and carries their failure (R360, R362). -/
def execCopyTransferDone (e : Nat) (s : State) : Out :=
  let x := cpe s e
  .next (match x.busy with
  | none => s
  | some j =>
    if x.ended = false ∨ alive s = false then s
    else
      let t := e / 8
      let s := flushRunsAt s t (copyCode e)
      let scope := fld (j.w 0) 56 54
      if (scope = 5 ∧ holdsRunsAt s t (copyCode e)) ∨ (j.record && waits s j.recordAt) then s
      else
        let f := if scope = 5 then takeFailuresAt s t (copyCode e) else ([], s)
        let st := if isFault x.status then x.status else (f.1.map (·.1)).headD x.status
        j.finish (setCpe f.2 e { cpe f.2 e with busy := none, ended := false }) e st (x.status != 7))

end Sys2Proof.Machine
end

