-- ==== Sys2Proof/Machine/Ue.lean ====
section
/-!
DEFINITION. The update engines (chapter 10, R290 to R316) and the reduction tree of R367: recipes and group tables and
their checks, the interpreter of recipes over one row, the passes, pushes, and the completion or skip of a step.
-/
namespace Sys2Proof.Machine
open Sys2Proof

/-! ### Recipes (R294 to R296) -/

/-- Header of a recipe. -/
def rcpHdr (r : List Byte) : Nat := subNat r 0 8
/-- Operation `i` of a recipe. -/
def rcpOp (r : List Byte) (i : Nat) : Nat := subNat r (8 + 4 * i) 4
/-- Operations of pass 1 and pass 2. -/
def rcpP1 (r : List Byte) : Nat := fld (rcpHdr r) 61 56
def rcpP2 (r : List Byte) : Nat := fld (rcpHdr r) 55 50
/-- Format of stream `k`: 0 gradient, 1 master, 2 to 5 `Q0` to `Q3`, in the codes of R294. -/
def rcpFmt (r : List Byte) (k : Nat) : Nat :=
  match k with
  | 0 => 1
  | 1 => 1 + fld (rcpHdr r) 49 48
  | _ => fld (rcpHdr r) (47 - 3 * (k - 2)) (45 - 3 * (k - 2))
/-- `PUSH_FMT` and `PUSH_COLBLK`. -/
def rcpPush (r : List Byte) : Nat := fld (rcpHdr r) 35 32
def rcpColBlk (r : List Byte) : Bool := bit (rcpHdr r) 31
/-- `FACT_EN`. -/
def rcpFact (r : List Byte) : Bool := bit (rcpHdr r) 17
/-- Layer grain. -/
def rcpLayer (r : List Byte) : Bool := fld (rcpHdr r) 63 62 == 1
/-- Whether a format code is block-scaled. -/
def mxFmt (f : Nat) : Bool := f == 4 || f == 5

/-- Operands an operation uses (D, A, B, C) and the largest `IMM` it may hold; none for an unknown code (Table 10.4). -/
def opUse (op : Nat) : Option (Bool × Bool × Bool × Bool × Nat) :=
  if op = 0x01 then some (true, false, false, false, 15)
  else if op = 0x02 then some (false, true, false, false, 15)
  else if op = 0x03 ∨ op = 0x30 ∨ op = 0x32 then some (false, true, false, false, 0)
  else if op = 0x05 then some (true, false, false, false, 255)
  else if op = 0x06 ∨ (8 ≤ op ∧ op ≤ 0x0B) then some (true, false, false, false, 0)
  else if op = 0x07 then some (true, false, false, false, 3)
  else if (0x10 ≤ op ∧ op ≤ 0x12) ∨ op = 0x14 ∨ op = 0x15 ∨ op = 0x19 ∨ op = 0x20 then some (true, true, true, false, 0)
  else if op = 0x13 ∨ op = 0x18 ∨ op = 0x1B then some (true, true, true, true, 0)
  else if op = 0x16 ∨ op = 0x17 ∨ op = 0x1A ∨ (0x21 ≤ op ∧ op ≤ 0x25) ∨ op = 0x34 then some (true, true, false, false, 0)
  else if op = 0x31 then some (false, true, false, false, 7)
  else none

/-- Whether an operation is refused in a pass of a recipe (R295, R296). -/
def opBad (r : List Byte) (pass2 : Bool) (w : Nat) : Bool :=
  let op := fld w 31 26
  match opUse op with
  | none => true
  | some (d, a, b, c, most) =>
    let ks := fld w 9 8
    let imm := fld w 7 0
    let k := fld w 3 0
    let unused := (!d && fld w 25 22 != 0) || (!a && fld w 21 18 != 0) || ((!b || ks == 1) && fld w 17 14 != 0) || ((!c || ks == 2) && fld w 13 10 != 0)
    let sel := if op = 5 then false
      else ks == 3 || (ks == 1 && !b) || (ks == 2 && !c) || decide ((if ks = 0 then most else 15) < imm)
    let where_ :=
      match op with
      | 0x01 => decide (5 < k) || rcpFmt r k == 0
      | 0x02 => !pass2 || k == 0 || decide (5 < k) || rcpFmt r k == 0
      | 0x03 => !pass2 || rcpPush r == 0
      | 0x06 => !pass2
      | 0x07 => !pass2 || !rcpLayer r
      | 0x08 => !pass2 || !rcpFact r
      | 0x09 => !pass2 || !rcpFact r
      | 0x0A => !pass2 || !rcpFact r
      | 0x0B => !pass2
      | 0x30 => pass2
      | 0x31 => pass2 || !rcpLayer r
      | 0x32 => pass2 || !rcpFact r
      | 0x34 => rcpLayer r
      | _ => false
    unused || sel || where_

/-- Whether a recipe is refused (R296); an empty value is an empty recipe. -/
def recipeBad (r : List Byte) : Bool :=
  let h := rcpHdr r
  let n := rcpP1 r + rcpP2 r
  let ops := (List.range n).map (rcpOp r)
  let puts := (ops.drop (rcpP1 r)).filterMap fun w => if fld w 31 26 = 2 then some (fld w 3 0) else none
  let pushes := ops.countP fun w => fld w 31 26 == 3
  !r.isEmpty && (decide (1 < fld h 63 62) || rcpP2 r == 0 || decide (32 < n) || r.length != 8 + 4 * n || decide (1 < fld h 49 48)
    || ([2, 3, 4, 5].any fun k => decide (5 < rcpFmt r k) || (rcpLayer r && mxFmt (rcpFmt r k)))
    || decide (9 < rcpPush r) || bit h 30 || fld h 16 0 != 0
    || ((List.range n).any fun i => opBad r (decide (rcpP1 r ≤ i)) (rcpOp r i))
    || (puts.any fun k => decide (1 < puts.count k)) || decide (1 < pushes) || (rcpPush r != 0 && pushes == 0))

/-! ### Group tables (R292, R293) -/

/-- Word `i` of group `g` of a table. -/
def gw (tbl : List Byte) (g i : Nat) : Nat := subNat tbl (128 * g + 8 * i) 8
/-- Rows and columns of a group. -/
def gRows (tbl : List Byte) (g : Nat) : Nat := fld (gw tbl g 1) 63 32
def gCols (tbl : List Byte) (g : Nat) : Nat := fld (gw tbl g 1) 31 0
/-- `EMB`. -/
def gEmb (tbl : List Byte) (g : Nat) : Bool := bit (gw tbl g 0) 59
/-- Recipe number of a group, under a value of `UE_RECIPE_SEL`. -/
def gRecipe (sel : Nat) (tbl : List Byte) (g : Nat) : Nat :=
  let k := fld (gw tbl g 0) 63 60
  if k = 15 then sel else k
/-- Bytes of `n` elements of a stream, with the block scales behind them. -/
def streamBytes (f n : Nat) : Nat := if f = 1 then 4 * n else if f = 2 ∨ f = 3 then 2 * n else n + n / 32
/-- Base of stream `k` of a group. -/
def gStream (tbl : List Byte) (g k : Nat) : Nat := gw tbl g (2 + k)
/-- Bits of a pushed element. -/
def pushBits (f : Nat) : Nat := if f ≤ 4 then 8 else if f ≤ 6 then 6 else if f = 7 then 4 else 16
/-- Whether a push format is one of the MX formats. -/
def pushMx (f : Nat) : Bool := decide (3 ≤ f) && decide (f ≤ 7)
/-- Bytes of a pushed row. -/
def pushRow (r tbl : List Byte) (g : Nat) : Nat := cdiv (gCols tbl g * pushBits (rcpPush r)) 8

/-- Deep-tier regions of a group (first address, length, whether the group writes it). -/
def gRegions (r tbl : List Byte) (g : Nat) : List (Nat × Nat × Bool) :=
  let n := gRows tbl g * gCols tbl g
  let ops := (List.range (rcpP1 r + rcpP2 r)).map (rcpOp r)
  let put := fun k => ops.any fun w => fld w 31 26 == 2 && fld w 3 0 == k
  let gradRows := if gEmb tbl g then fld (gw tbl g 9) 31 0 else gRows tbl g
  [(gStream tbl g 0, 4 * gradRows * gCols tbl g, false)]
    ++ ([1, 2, 3, 4, 5].filterMap fun k => if rcpFmt r k = 0 then none else some (gStream tbl g k, streamBytes (rcpFmt r k) n, put k))
    ++ (if gEmb tbl g then [(gw tbl g 8, 4 * fld (gw tbl g 9) 31 0, false), (gw tbl g 10, 4 * gRows tbl g, true)]
      else if rcpFact r then
        [(gw tbl g 8, 4 * gRows tbl g, true), (gw tbl g 9, 4 * gCols tbl g, true), (gw tbl g 10, 8 * gRows tbl g, true), (gw tbl g 11, 8 * gCols tbl g, true)]
      else [])

/-- A region of memory of `n` rows of `len` bytes, `pitch` bytes apart, from `a`. -/
structure Strip where
  a : Nat
  len : Nat
  pitch : Nat := 0
  n : Nat := 1
deriving DecidableEq, Repr

/-- End of a region's last row. -/
def Strip.last (x : Strip) : Nat := x.a + (x.n - 1) * x.pitch + x.len

/-- Whether two regions share a byte: of the rows of `y` that begin below the end of a row of `x`, the last ends behind its
start. -/
def Strip.meets (x y : Strip) : Bool :=
  decide (0 < y.n) && decide (0 < y.len) && decide (0 < x.len) && (List.range x.n).any fun i =>
    let lo := x.a + i * x.pitch
    let j := min (y.n - 1) ((lo + x.len - 1 - y.a) / y.pitch)
    decide (y.a < lo + x.len) && decide (lo < y.a + j * y.pitch + y.len)

/-- Fast-tier regions a group writes: its pushed rows and their rows of block scales. -/
def gPushRegions (r tbl : List Byte) (g : Nat) : List Strip :=
  if rcpPush r = 0 then [] else
  let rows := gRows tbl g
  let bands := if rcpColBlk r then cdiv rows 32 else rows
  let scales := if rcpColBlk r then gCols tbl g else cdiv (gCols tbl g) 32
  [{ a := gw tbl g 12, len := pushRow r tbl g, pitch := gw tbl g 13, n := rows }]
    ++ (if pushMx (rcpPush r) then [{ a := gw tbl g 14, len := scales, pitch := gw tbl g 15, n := bands }] else [])

/-- Whether two address ranges meet. -/
def rangesMeet (a n b m : Nat) : Bool := decide (a < b + m) && decide (b < a + n)

/-- Regions a group writes, in either tier. -/
def gWrites (r tbl : List Byte) (g : Nat) : List Strip :=
  ((gRegions r tbl g).filterMap fun x => if x.2.2 then some { a := x.1, len := x.2.1 } else none) ++ gPushRegions r tbl g

/-- Every region of a group, in either tier. -/
def gAll (r tbl : List Byte) (g : Nat) : List Strip := (gRegions r tbl g).map (fun x => { a := x.1, len := x.2.1 }) ++ gPushRegions r tbl g

/-- Whether group `g` of UE `n`'s table fails its own checks (R292, Table 10.2); `val` gives the objects it is checked
with. Words the entry must keep 0, and addresses not 128 B-aligned, fail too (log 39). -/
def groupBad (s : State) (val : Nat → List Byte) (n : Nat) (tbl : List Byte) (g : Nat) : Bool :=
  let k := gRecipe (leNat (val 0x610402)) tbl g
  let r := val (0x610101 + k)
  let lo := deepBase n
  let hi := lo + 0x003000000000
  let cols := gCols tbl g
  let rows := gRows tbl g
  let addrs := [2, 3, 4, 5, 6, 7, 8, 9, 10, 11, 12, 14].filter fun i => !(gEmb tbl g && i == 9)
  let misplaced := addrs.any fun i => decide (2 ^ 48 ≤ gw tbl g i) || gw tbl g i % 128 != 0
  let blank := r.isEmpty || fld (gw tbl g 0) 27 0 != 0 || rows == 0 || cols == 0 || decide (2 ^ 24 < cols) || decide (2 ^ 40 ≤ gw tbl g 13)
    || decide (2 ^ 40 ≤ gw tbl g 15)
    || (!gEmb tbl g && !rcpFact r && [8, 9, 10, 11].any fun i => gw tbl g i != 0) || (gEmb tbl g && gw tbl g 11 != 0)
  let ranges := (gRegions r tbl g).any fun x => x.1 == 0 || decide (x.1 < lo) || decide (hi < x.1 + x.2.1) || meetsOs s x.1 (max 1 x.2.1)
  let push := rcpPush r != 0 && (((gPushRegions r tbl g).any fun x => decide (fastEnd s < x.last)) || decide (gw tbl g 13 < pushRow r tbl g))
  let fact := rcpFact r && (decide (65536 < cols) || gEmb tbl g)
  let blocks := (cols % 32 != 0 && (([1, 2, 3, 4, 5].any fun j => mxFmt (rcpFmt r j)) || (pushMx (rcpPush r) && !rcpColBlk r)))
    || (rows % 32 != 0 && pushMx (rcpPush r) && rcpColBlk r)
  let layer := rcpLayer r && decide (leNat (val 0x610401) ≤ fld (gw tbl g 0) 56 45)
  let job := bit (gw tbl g 0) 57 && decide (leNat (val 0x610405) < fld (gw tbl g 0) 44 28 + cols)
  misplaced || blank || ranges || push || fact || blocks || layer || job

/-- Number of groups of a table. -/
def nGroups (tbl : List Byte) : Nat := tbl.length / 128

/-- Whether UE `n`'s table is refused with the given objects (R293). -/
def tableBad (s : State) (val : Nat → List Byte) (n : Nat) (tbl : List Byte) : Bool :=
  let recipe := fun t g => val (0x610101 + gRecipe (leNat (val 0x610402)) t g)
  let others := (List.range 8).flatMap fun m =>
    let t := if m = n then tbl else val (0x610201 + m)
    (List.range (nGroups t)).map fun g => (m, g, gAll (recipe t g) t g)
  tbl.length % 128 != 0 || decide (4096 < nGroups tbl) || ((List.range (nGroups tbl)).any fun g =>
    groupBad s val n tbl g || (gWrites (recipe tbl g) tbl g).any fun x =>
      others.any fun y => !(y.1 == n && y.2.1 == g) && y.2.2.any fun z => x.meets z)

/-! ### Sums in an order the module chooses (R302; log 40) -/

/-- A list in an order drawn freely. -/
def shuffle {α : Type} (s : State) : Nat → List α → List α × State
  | 0, l => (l, s)
  | n + 1, l =>
    match l with
    | [] => ([], s)
    | x :: xs =>
      let r := draw s (xs.length + 1)
      let y := (x :: xs).getD r.1 x
      let q := shuffle r.2 n ((x :: xs).eraseIdx r.1)
      (y :: q.1, q.2)

/-- Sum of binary64 codes. -/
def sum64 (s : State) (l : List Nat) : Nat × State :=
  let q := shuffle s l.length l
  (q.1.foldl (fun a b => (f64.fadd a b).1) 0, q.2)

/-! ### Running a program over one row (R295, R297, R301, R308) -/

/-- What one row's program has computed: sixteen registers of each element with their poison, the elements found
non-finite, saturations, addresses of poisoned loads, addends of the accumulators, and what `PUT` and `PUSH` were given. A
register that is written a NaN holds its canonical code (R237, R297). -/
structure RowRun where
  xs : List (List (Nat × Bool))
  bad : List Bool
  sat : Nat := 0
  pzAt : List Nat := []
  norm : List Nat := []
  layer : List (Nat × Nat) := []
  rc : List (List (Nat × Bool)) := []
  puts : List (Nat × List (Nat × Bool)) := []
  pushed : Option (List (Nat × Bool)) := none
deriving DecidableEq, Repr

/-- What a row's program is run with: the group, the element numbers of its row in the gradient and elsewhere, and the
values of pass 2: `norm`, `layer` and `total` with whether their rounding saturated, `rowst` and `colst` with their poison. -/
structure RowCtx where
  s : State
  tbl : List Byte
  r : List Byte
  g : Nat
  gradRow : Nat
  row : Nat
  norm : Nat × Bool := (0, false)
  layer : List (Nat × Bool) := []
  rowst : Nat × Bool := (0, false)
  colst : List (Nat × Bool) := []
  total : Nat × Bool := (0, false)
  totalPz : Bool := false
  stepv : Nat := 0
  stepPz : Bool := false

/-- An element of a stream widened to binary32, with its poison, and whether the widening saturated. -/
def readElem (s : State) (base fmt total i : Nat) : Nat × Bool × Bool :=
  let get := fun a n => (readNat s a n, failedHome s a || poisoned s a n)
  let wide := fun (v : Num) (pz : Bool) => let c := f32.convert v; (c.code, pz, c.sat)
  if fmt = 1 then let x := get (base + 4 * i) 4; (x.1, x.2, false)
  else if fmt = 2 then let x := get (base + 2 * i) 2; wide (bf16.decode x.1) x.2
  else if fmt = 3 then let x := get (base + 2 * i) 2; wide (f16.decode x.1) x.2
  else
    let x := get (base + i) 1
    let y := get (base + total + i / 32) 1
    let v := (if fmt = 4 then e4m3 else e5m2).decode x.1
    wide (if y.1 = 0xFF then .nan else v.scale ((y.1 : Int) - 127)) (x.2 || y.2)

/-- Result of an arithmetic operation on binary32 codes, and whether it saturated (Table 10.4, R297). What `SIGN` gives of a
NaN, whose sign the table does not place, is a free one of its three values and NaN (log 4). -/
def ueArith (op a b c : Nat) : Nat × Bool :=
  let pos := fun x => (Num.fin false 0 0).lt (f32.decode x)
  match op with
  | 0x10 => f32.fadd a b
  | 0x11 => f32.fsub a b
  | 0x12 => f32.fmul a b
  | 0x13 => f32.ffma a b c
  | 0x14 => (f32.fmin a b, false)
  | 0x15 => (f32.fmax a b, false)
  | 0x16 => (f32.fabs a, false)
  | 0x17 => (f32.fneg a, false)
  | 0x18 => (if pos c then a else b, false)
  | 0x19 => (if (f32.decode b).lt (f32.decode a) then 0x3F800000 else 0, false)
  | 0x1A => (match f32.decode a with
      | .nan => [0xBF800000, 0, 0x3F800000, 0x7FC00000].getD ((Config.special 0x18 (BitVec.ofNat 32 a)).toNat % 4) 0
      | v => if v.isZero then 0 else if bit a 31 then 0xBF800000 else 0x3F800000, false)
  | 0x1B => f32.ffma (f32.fneg a) b c
  | 0x20 => f32.fdiv a b
  | 0x21 => (f32.fsqrt a, false)
  | 0x22 => (special 1 0 a, specialSat 0 a)
  | 0x23 => (special 1 1 a, false)
  | 0x24 => (special 1 2 a, specialSat 2 a)
  | _ => (special 1 3 a, false)

/-- Largest |A| over each 32-element block. -/
def blockMax (vs : List (Nat × Bool)) : List (Nat × Bool) :=
  (List.range vs.length).map fun c =>
    ((vs.drop (c / 32 * 32)).take 32).foldl (fun (m : Nat × Bool) v => (f32.fmax m.1 (f32.fabs v.1), m.2 || v.2)) (0, false)

/-- Binary64 code of the square of a binary32 code. -/
def square64 (a : Nat) : Nat := (f64.convert (Num.mul (f32.decode a) (f32.decode a))).code
/-- Binary64 code of a binary32 code. -/
def widen64 (a : Nat) : Nat := (f64.convert (f32.decode a)).code

/-- Perform one operation of a row's program. -/
def ueOp (l : UeLatch) (x : RowCtx) (q : RowRun) (w : Nat) : RowRun :=
  let op := fld w 31 26
  let ks := fld w 9 8
  let imm := fld w 3 0
  let k := (l.scalars.getD imm 0#32).toNat
  let reg := fun (e : List (Nat × Bool)) hi => e.getD (fld w hi (hi - 3)) (0, false)
  let srcB := fun (e : List (Nat × Bool)) => if ks = 1 then (k, false) else reg e 17
  let srcC := fun (e : List (Nat × Bool)) => if ks = 2 then (k, false) else reg e 13
  let d := fld w 25 22
  let as_ := q.xs.map fun e => reg e 21
  let write := fun (q : RowRun) (vs : List (Nat × Bool)) =>
    { q with
      xs := List.zipWith (fun e (v : Nat × Bool) => lset e d (if f32.decode v.1 = .nan then 0x7FC00000 else v.1, v.2)) q.xs vs
      bad := List.zipWith (fun b (v : Nat × Bool) => b || !(f32.decode v.1).isFin) q.bad vs }
  let same := fun (v : Nat × Bool) => q.xs.map fun _ => v
  let rounded := fun (v : Nat × Bool) pz => let q := write q (same (v.1, pz)); { q with sat := q.sat + b2n v.2 * q.xs.length }
  let cols := gCols x.tbl x.g
  match op with
  | 0x01 =>
    let fmt := rcpFmt x.r imm
    let total := gRows x.tbl x.g * cols
    let row := if imm = 0 then x.gradRow else x.row
    let base := gStream x.tbl x.g imm
    let vs := (List.range cols).map fun c => readElem x.s base fmt total (row * cols + c)
    let size := if fmt = 1 then 4 else if fmt ≤ 3 then 2 else 1
    let at_ := (List.range cols).filterMap fun c => if (vs.getD c (0, false, false)).2.1 then some (base + (row * cols + c) * size) else none
    let q := write q (vs.map fun v => (v.1, v.2.1))
    { q with
      bad := List.zipWith (fun b (v : Nat × Bool × Bool) => b || v.2.1) q.bad vs
      sat := q.sat + vs.countP fun v => v.2.2
      pzAt := q.pzAt ++ at_ }
  | 0x02 => { q with puts := q.puts ++ [(imm, as_)] }
  | 0x03 => { q with pushed := some as_ }
  | 0x05 => write q (same ((f32.convert (Num.ofInt (sext 10 (fld w 9 0)))).code, false))
  | 0x06 => rounded x.norm false
  | 0x07 => rounded (x.layer.getD (fld w 1 0) (0, false)) false
  | 0x08 => write q (same x.rowst)
  | 0x09 => write q x.colst
  | 0x0A => rounded x.total x.totalPz
  | 0x0B => write q (same (x.stepv, x.stepPz))
  | 0x30 => { q with norm := q.norm ++ as_.map fun v => square64 v.1 }
  | 0x31 => { q with layer := q.layer ++ as_.map fun v => (fld w 1 0, if bit w 2 then widen64 v.1 else square64 v.1) }
  | 0x32 => { q with rc := q.rc ++ [as_] }
  | 0x34 => write q (blockMax as_)
  | _ =>
    let use := opUse op
    let rs := q.xs.map fun e =>
      let a := reg e 21
      let b := if (use.map fun u => u.2.2.1) = some true then srcB e else (0, false)
      let c := if (use.map fun u => u.2.2.2.1) = some true then srcC e else (0, false)
      let v := ueArith op a.1 b.1 c.1
      (v.1, a.2 || b.2 || c.2, v.2)
    let q := write q (rs.map fun v => (v.1, v.2.1))
    { q with sat := q.sat + rs.countP fun v => v.2.2 }

/-- Run operations `lo` to `hi − 1` of the group's recipe over one row; every register begins at +0. -/
def runRow (l : UeLatch) (x : RowCtx) (lo hi : Nat) : RowRun :=
  let cols := gCols x.tbl x.g
  let q : RowRun := { xs := List.replicate cols (List.replicate 16 (0, false)), bad := List.replicate cols false }
  (List.range (hi - lo)).foldl (fun q i => ueOp l x q (rcpOp x.r (lo + i))) q

/-! ### Stores of a UE -/

/-- Write bytes with their poison, cut at guarded units; tells whether none met a failed package or stack. A write into the
operating-system region is not applied (R10). -/
def writeUnits (s : State) (a : Nat) (bs : List (Byte × Bool)) : State × Bool :=
  (cuts a bs.length).foldl (fun (acc : State × Bool) c =>
    let part := (bs.drop (c.1 - a)).take c.2
    if meetsOs acc.1 c.1 c.2 then acc
    else
      let w := memWrite acc.1 c.1 (part.map (·.1)) (part.any (·.2))
      (w.1, acc.2 && w.2 == 0)) (s, true)

/-- Store bytes with their poison for an engine that waits for no completion, cut at guarded units (R10, R61, R70, R72). -/
def postUnits (s : State) (iss : Issuer) (a : Nat) (bs : List (Byte × Bool)) : State :=
  (cuts a bs.length).foldl (fun s c =>
    let part := (bs.drop (c.1 - a)).take c.2
    post s iss c.1 (part.map (·.1)) (part.any (·.2))) s

/-- Issuer of an update engine's pushes and atomics. -/
def ueIss (n : Nat) : Issuer := { kind := .ue, unit := n }

/-- Bytes of a value with one poison tag. -/
def tagged (n v : Nat) (pz : Bool) : List (Byte × Bool) := (leBytes n v).map fun b => (b, pz)

/-- A magnitude stored stochastically with the random bits `u` (R308): its code, which may exceed the largest finite. -/
def Fmt.srMag (f : Fmt) (m : Nat) (e : Int) (u : Nat) : Nat :=
  if m = 0 then 0 else
  let emin : Int := 1 - (f.bias : Int) - f.mb
  let len : Int := (Nat.log2 m : Int) + 1
  let q : Int := max (e + len - (f.mb + 1)) emin
  let k := (q - e).toNat
  let t := if q ≤ e then m * 2 ^ (e - q).toNat else m / 2 ^ k
  let frac := if q ≤ e then 0 else m % 2 ^ k * 65536 / 2 ^ k
  let n := (if u < frac then t + 1 else t) * 2 ^ (q - emin).toNat
  if n < 2 ^ f.mb then n
  else let l := Nat.log2 n; (l - f.mb + 1) * 2 ^ f.mb + (n / 2 ^ (l - f.mb) - 2 ^ f.mb)

/-- A value stored into a narrower format (R308). -/
def Fmt.stochastic (f : Fmt) (v : Num) (u : Nat) : Conv :=
  match v with
  | .fin neg m e =>
    let c := f.srMag m e u
    if f.maxFin < c then { code := f.sign neg f.maxFin, sat := true } else { code := f.sign neg c, zero := c == 0 }
  | v => f.convert v

/-- Counters of a UE after stores of converted values. -/
def countConv (u : Ue) (cs : List Conv) : Ue :=
  { u with
    zeros := u.zeros + cs.countP (·.zero)
    sat := u.sat + cs.countP (·.sat)
    nonfin := u.nonfin + cs.countP (·.nonfin) }

/-- Store one row of a stream by `PUT` (R308): the UE with its counts, the state, and whether every write was performed.
The random bits are a keyed function of the seed, step, stream and the element's address (log 5). -/
def putRow (s : State) (n : Nat) (x : RowCtx) (seed step k : Nat) (vs : List (Nat × Bool)) : State × Bool :=
  let fmt := rcpFmt x.r k
  let cols := gCols x.tbl x.g
  let total := gRows x.tbl x.g * cols
  let i0 := x.row * cols
  let base := gStream x.tbl x.g k
  let size := if fmt = 1 then 4 else if fmt ≤ 3 then 2 else 1
  let rnd := fun c => (Config.srBits seed step k (base + (i0 + c) * size)).toNat
  let u := { ue s n with elems := (ue s n).elems + cols }
  if fmt = 1 then writeUnits (setUe s n u) (base + 4 * i0) (vs.flatMap fun v => tagged 4 v.1 v.2)
  else if fmt ≤ 3 then
    let f := if fmt = 2 then bf16 else f16
    let cs := (List.range cols).map fun c => f.stochastic (f32.decode (vs.getD c (0, false)).1) (rnd c)
    let bs := List.zipWith (fun (c : Conv) (v : Nat × Bool) => tagged 2 c.code v.2) cs vs
    writeUnits (setUe s n (countConv u cs)) (base + 2 * i0) bs.flatten
  else
    let f := if fmt = 4 then e4m3 else e5m2
    let block := fun b =>
      let part := (vs.drop (32 * b)).take 32
      let nums := part.map fun v => f32.decode v.1
      let pz := part.any (·.2)
      let sc := (mxBlock f nums).1
      let cs : List Conv := if sc = 0xFF then nums.map fun v => { code := 0, nonfin := !v.isFin }
        else (List.range part.length).map fun j => f.stochastic ((nums.getD j .nan).scale (127 - (sc : Int))) (rnd (32 * b + j))
      (tagged 1 sc pz, cs, cs.flatMap fun c => tagged 1 c.code pz)
    let bl := (List.range (cols / 32)).map block
    let s := setUe s n (countConv u (bl.flatMap fun b => b.2.1))
    let w1 := writeUnits s (base + i0) (bl.flatMap fun b => b.2.2)
    let w2 := writeUnits w1.1 (base + total + i0 / 32) (bl.flatMap fun b => b.1)
    (w2.1, w1.2 && w2.2)

/-! ### Pushes (R306, R307) -/

/-- Bytes of packed elements of `w` bits (R239), each byte with the poison of its elements. -/
def packBits (w : Nat) (vs : List (Nat × Bool)) : List (Byte × Bool) :=
  let n := vs.foldr (fun v acc => v.1 % 2 ^ w + acc * 2 ^ w) 0
  let len := cdiv (vs.length * w) 8
  List.zipWith (fun b i => (b, (List.range 8).any fun j => (vs.getD ((8 * i + j) / w) (0, false)).2)) (leBytes len n) (List.range len)

/-- Element format of a push code. -/
def pushFmt (p : Nat) : Fmt :=
  match p with
  | 1 => e4m3 | 2 => e5m2 | 3 => e4m3 | 4 => e5m2 | 5 => e3m2 | 6 => e2m3 | 7 => e2m1 | 8 => bf16 | _ => f16

/-- Rows to push and their scales as (address, bytes), with the saturations counted. -/
def pushParts (l : UeLatch) (tbl r : List Byte) (g : Nat) (rows : List (Nat × List (Nat × Bool))) : List (Nat × List (Byte × Bool)) × Nat :=
  let p := rcpPush r
  let f := pushFmt p
  let w := pushBits p
  let dst := gw tbl g 12
  let pitch := gw tbl g 13
  let sdst := gw tbl g 14
  let spitch := gw tbl g 15
  let cols := gCols tbl g
  if !pushMx p then
    let k := f32.decode (l.scalars.getD (fld (rcpHdr r) 29 26) 0#32).toNat
    let conv := fun (v : Nat) => f.convert (if p ≤ 2 then Num.mul (f32.decode v) k else f32.decode v)
    (rows.map fun x => (dst + x.1 * pitch, packBits w (x.2.map fun v => ((conv v.1).code, v.2))),
     rows.foldl (fun n x => n + x.2.countP fun v => (conv v.1).sat) 0)
  else if !rcpColBlk r then
    (rows.flatMap fun x =>
      let bl := (List.range (cols / 32)).map fun b =>
        let part := (x.2.drop (32 * b)).take 32
        let m := mxBlock f (part.map fun v => f32.decode v.1)
        (m, part.any (·.2))
      [(dst + x.1 * pitch, packBits w (bl.flatMap fun b => b.1.2.1.map fun c => (c, b.2))),
       (sdst + x.1 * spitch, bl.flatMap fun b => tagged 1 b.1.1 b.2)], 0)
  else
    let bands := (rows.map fun x => x.1 / 32).foldl addOnce []
    (bands.flatMap fun b =>
      let mine := rows.filter fun x => x.1 / 32 == b
      let blocks := (List.range cols).map fun c =>
        let part := mine.map fun x => x.2.getD c (0, false)
        (mxBlock f (part.map fun v => f32.decode v.1), part.any (·.2))
      ((List.range mine.length).map fun j =>
        (dst + (mine.getD j (0, [])).1 * pitch, packBits w (blocks.map fun k => (k.1.2.1.getD j 0, k.2))))
        ++ [(sdst + b * spitch, blocks.flatMap fun k => tagged 1 k.1.1 k.2)], 0)

/-- Verdict partition's job key, which pushes and push-done atomics carry (R486). -/
def stepKey (s : State) : Nat := jkeyOf s (cfg s 0x50800D)

/-- Send a pushed part to a node in packets of up to 2,048 B; a node that cannot be reached gets no push-done atomic. -/
def sendPush (s : State) (n node : Nat) (part : Nat × List (Byte × Bool)) : State :=
  (List.range (cdiv part.2.length 2048)).foldl (fun s i =>
    let bs := (part.2.drop (2048 * i)).take 2048
    let p : Packet := {
      cls := 1, type := 8, dst := node, src := nodeId s, engine := 0x420 + n, seq := 0, offset := part.1 + 2048 * i
      jkey := stepKey s, aux := i, payload := bs.map (·.1), poison := bs.any (·.2) }
    if sourceStatus s p ≠ 0 then { s with pushBad := addOnce s.pushBad node }
    else newRequest s { id := 0, pkt := p, push := some n }) s

/-- Issue the push-done atomics of nodes no push is outstanding to (R307). -/
def pushDone (s : State) : State :=
  let busy := fun (s : State) node => s.requests.any fun (r : Request) => r.push.isSome && r.pkt.type == 8 && r.pkt.dst == node
  let ready := s.pushWait.filter fun node => !busy s node
  let s := { s with pushWait := s.pushWait.filter fun node => busy s node }
  let n := ((List.range 8).find? fun n => (ue s n).inService).getD 0
  ready.foldl (fun s node =>
    if s.pushBad.contains node then s
    else
      let p : Packet := {
        cls := 0, type := 5, dst := node, src := nodeId s, engine := 0x420 + n, seq := 0, offset := s.latch.pushDone, scope := 5
        aux := 1, jkey := stepKey s, payload := leBytes 8 1 }
      if sourceStatus s p ≠ 0 then s else newRequest s { id := 0, pkt := p, push := some n }) s

/-- A push request ends. -/
def endPush (s : State) (r : Request) (st : Nat) : State :=
  pushDone (if isFault st then { s with pushBad := addOnce s.pushBad r.pkt.dst } else s)

/-! ### Steps on a UE -/

/-- Stage of a UE, seen through a pause (R314). -/
def Ue.stage (u : Ue) : UeMode := if u.mode = .paused then u.before else u.mode
/-- The UE in a new stage. -/
def Ue.enter (u : Ue) (m : UeMode) : Ue := if u.mode = .paused then { u with before := m } else { u with mode := m }
/-- UEs in service. -/
def uesOn (s : State) : List Nat := (List.range 8).filter fun n => (ue s n).inService
/-- A trace record of a UE's pass (Table 13.14): UE, pass, and end or start (log 16). -/
def tracePass (s : State) (n pass : Nat) (last : Bool) : State := trace s (n / 2) 5 (n * 256 + pass * 2 + b2n last) s.verdict.last
/-- Recipe of a group in the latched configuration. -/
def latched (s : State) (u : Ue) (g : Nat) : List Byte := mget s.latch.recipes (gRecipe s.latch.recipeSel u.table g) []

/-- Rows of a group to process, as (gradient row, row), and the entries skipped as duplicate and out of range (R309). An entry
whose read returns poison names no row, and is skipped too (log 128). -/
def groupRows (s : State) (tbl : List Byte) (g : Nat) : List (Nat × Nat) × Nat × Nat :=
  if gEmb tbl g then
    (List.range (fld (gw tbl g 9) 31 0)).foldl (fun (acc : List (Nat × Nat) × Nat × Nat) j =>
      let a := gw tbl g 8 + 4 * j
      let v := readNat s a 4
      let dup := 0 < j ∧ v ≤ readNat s (a - 4) 4
      let oor := gRows tbl g ≤ v
      if failedHome s a || poisoned s a 4 then acc
      else (if dup ∨ oor then acc.1 else acc.1 ++ [(j, v)], acc.2.1 + b2n (decide dup), acc.2.2 + b2n (decide oor))) ([], 0, 0)
  else ((List.range (gRows tbl g)).map fun i => (i, i), 0, 0)

/-- Whether a range of the deep tier has a granule in a failed package: four aligned granules in a row lie in all four (R73). -/
def rangeFailed (s : State) (a n : Nat) : Bool :=
  decide (0 < n) && (List.range (min 8 ((a + n - 1) / 4096 - a / 4096 + 1))).any fun i => failedHome s (max a ((a / 4096 + i) * 4096))

/-- Whether a group touches a failed package (R313). -/
def groupFailed (s : State) (r tbl : List Byte) (g : Nat) : Bool := (gRegions r tbl g).any fun x => rangeFailed s x.1 x.2.1

/-- A group is marked failed, and recorded, once (R313). -/
def failGroup (s : State) (n g : Nat) : State :=
  if (ue s n).failedGroups.contains g then s
  else pitEvent (setUe s n { ue s n with failedGroups := (ue s n).failedGroups ++ [g] }) 0x0503 n 9 0 g

/-- Package `p` fails (R313): while its UE is in the factored update or in pass 2, each group that touches it is marked. -/
def ueFailed (s : State) (n : Nat) : State :=
  let u := ue s n
  if u.stage = .factored ∨ u.stage = .pass2 then
    ((List.range u.groups).filter fun g => groupFailed s (latched s u g) u.table g).foldl (fun s g => failGroup s n g) s
  else s

/-- Furthest address reached from `lo` through intervals, in at most `fuel` joins. -/
def reach (iv : List (Nat × Nat)) : Nat → Nat → Nat
  | 0, lo => lo
  | fuel + 1, lo =>
    match iv.find? fun (x : Nat × Nat) => decide (x.1 ≤ lo) && decide (lo < x.2) with
    | some x => reach iv fuel x.2
    | none => lo

/-- Whether a group is ready for pass 1 (R300, R309). -/
def groupReady (u : Ue) (g : Nat) : Bool :=
  if bit (gw u.table g 0) 58 then u.readyGroups.contains g
  else
    let lo := gStream u.table g 0
    let n := 4 * (if gEmb u.table g then fld (gw u.table g 9) 31 0 else gRows u.table g) * gCols u.table g
    decide (lo + n ≤ reach u.landed u.landed.length lo)

/-- The next group of pass 1: the first in table order that is ready and not run (R300). -/
def nextPass1 (u : Ue) : Option Nat := (List.range u.groups).find? fun h => !u.pass1Groups.contains h && groupReady u h

/-- A UE at the skipping of its step: a pass 1 that has not ended runs over the groups that are ready, so that their sums are
the skipped step's (R300, R310; log 129). -/
def Ue.skip (u : Ue) (why : Nat) : Ue :=
  if u.stage = .pass1 ∧ (nextPass1 u).isSome then { u with last := why, ending := true } else { u.enter .idle with last := why, ending := false }

/-- Whether the update passes of the last step still run (R283). -/
def passesRun (s : State) : Bool := s.verdict.passes || (List.range 8).any fun n => (ue s n).inService && (ue s n).ending

/-- A step is skipped on this module (R287, R303, R288): 2 by verdict, 3 by veto, 5 abandoned. -/
def skipStep (s : State) (why : Nat) : State :=
  let s := (List.range 8).foldl (fun s n => if (ue s n).inService then setUe s n ((ue s n).skip why) else s) s
  pitEvent { s with verdict.skipped := s.verdict.skipped + 1, verdict.passes := false } 0x0501 0xFFFF 0 0 s.verdict.last

/-- The update engines at the opening of a step (R299): they latch their tables and objects and begin pass 1. -/
def ueOpen (s : State) : State :=
  let l : UeLatch := {
    recipes := (List.range 16).filterMap fun k => (let r := cfgB s (0x610101 + k); if r.isEmpty then none else some (k, r))
    scalars := (List.range 16).map fun i => BitVec.ofNat 32 (subNat (cfgB s 0x610301) (4 * i) 4)
    layerCount := cfg s 0x610401
    recipeSel := cfg s 0x610402
    pushNodes := (List.range ((cfgB s 0x610403).length / 2)).map fun i => subNat (cfgB s 0x610403) (2 * i) 2
    pushDone := cfg s 0x610404
    vectorLen := cfg s 0x610405
    seed := cfg s 0x610406 }
  let s := { s with
    latch := l
    pushBad := []
    pushWait := []
    red := { got := s.red.got.filter fun x => x.1 == s.verdict.last, votes := s.red.votes.filter fun x => x.1 == s.verdict.last } }
  (List.range 8).foldl (fun s n =>
    let u := ue s n
    if u.inService then
      let tbl := cfgB s (0x610201 + n)
      let u := { u with
        table := tbl
        groups := nGroups tbl
        doneGroups := []
        failedGroups := []
        readyGroups := []
        pass1Groups := []
        landed := []
        normPart := 0#64
        layers := []
        vec := []
        veto := 0
        totals := []
        totalPz := []
        factDone := []
        ending := false }
      let s := tracePass s n 1 false
      setUe s n (u.enter (if nGroups tbl = 0 then .waiting else .pass1))
    else s) s

/-! ### The reduction tree (R302, R303, R367) -/

/-- Nodes of the verdict group, in order; this node alone where the list does not name it (log 41). -/
def stvGroup (s : State) : List Nat :=
  let b := cfgB s 0x508004
  let l := (List.range (b.length / 2)).map fun i => subNat b (2 * i) 2
  if l.contains (nodeId s) then l else [nodeId s]

/-- This node's position, its parent where it has one, and its children. -/
def treePos (s : State) : Nat := (stvGroup s).findIdx fun x => x == nodeId s
def treeParent (s : State) : Option Nat := if treePos s = 0 then none else (stvGroup s)[(treePos s - 1) / 2]?
def treeChildren (s : State) : List Nat := [(stvGroup s)[2 * treePos s + 1]?, (stvGroup s)[2 * treePos s + 2]?].filterMap id

/-- Send bytes from the verdict unit as C-class packets of a type with the step in `AUX`, in pieces of up to 2,048 B whose place
`OFFSET` gives (R367; log 138); a node without a route stalls the tree. -/
def sendTree (s : State) (node type : Nat) (payload : List Byte) : State :=
  (chunks payload).foldl (fun s c => sendOwn s {
    cls := 3, type, dst := node, src := nodeId s, engine := 0x440, seq := 0
    offset := c.1, aux := s.verdict.last % 2 ^ 32, payload := c.2 }) s

/-- Bytes of a contribution or result: veto count, norm, mismatch, number of layer and vector values, and the values. -/
def redBytes (r : RedVal) : List Byte :=
  leBytes 8 r.veto ++ leBytes 8 r.norm.toNat ++ leBytes 8 (b2n r.mismatch) ++ leBytes 8 r.layers.length ++ leBytes 8 r.vec.length
    ++ (r.layers ++ r.vec).flatMap fun v => leBytes 8 v.toNat

/-- The contribution or result that bytes hold. -/
def redOf (b : List Byte) : RedVal :=
  let w := fun i => leNat ((b.drop (8 * i)).take 8)
  { veto := w 0, norm := BitVec.ofNat 64 (w 1), mismatch := w 2 % 2 == 1
    layers := (List.range (w 3)).map fun i => BitVec.ofNat 64 (w (5 + i))
    vec := (List.range (w 4)).map fun i => BitVec.ofNat 64 (w (5 + w 3 + i)) }

/-- A piece of a contribution or result of `total` bytes arrives: the whole once its last piece has come, and the state that keeps the rest. -/
def redPiece (s : State) (p : Packet) (total : Nat) : Option RedVal × State :=
  let x : RedPart := { type := p.type, src := p.src, step := p.aux, total, off := p.offset, bytes := p.payload }
  let same := fun (y : RedPart) => y.type == x.type && y.src == x.src && y.step == x.step
  let parts := (s.red.parts.filter fun y => !(same y && y.off == x.off)) ++ [x]
  let mine := parts.filter same
  if (mine.map fun y => y.bytes.length).foldl (· + ·) 0 < x.total then (none, { s with red.parts := parts })
  else
    let byte := fun i => ((mine.find? fun y => decide (y.off ≤ i) && decide (i < y.off + y.bytes.length)).map fun y => y.bytes.getD (i - y.off) 0#8).getD 0#8
    (some (redOf ((List.range x.total).map byte)), { s with red.parts := parts.filter fun y => !same y })

/-- Join contributions: counts added, values added in a free order; differing lengths are a mismatch (R302). -/
def joinRed (s : State) (rs : List RedVal) : RedVal × State :=
  let n := (rs.map (·.layers.length)).foldl max 0
  let m := (rs.map (·.vec.length)).foldl max 0
  let ok := rs.all fun r => r.layers.length == n && r.vec.length == m && !r.mismatch
  let col := fun (s : State) (pick : RedVal → List W64) len =>
    (List.range len).foldl (fun (acc : List W64 × State) i =>
      let q := sum64 acc.2 (rs.map fun r => ((pick r).getD i 0#64).toNat)
      (acc.1 ++ [BitVec.ofNat 64 q.1], q.2)) ([], s)
  let a := sum64 s (rs.map fun r => r.norm.toNat)
  let b := col a.2 (·.layers) n
  let c := col b.2 (·.vec) m
  ({ veto := (rs.map (·.veto)).foldl (· + ·) 0, norm := BitVec.ofNat 64 a.1, layers := b.1, vec := c.1, mismatch := !ok }, c.2)

/-- What follows once both the verdict and the reduction are known (R303, R304): a step whose lengths differ counts as vetoed. -/
def settleStep (s : State) : State :=
  if s.verdict.mode = .recorded ∧ s.verdict.passes = true then
    match s.red.result with
    | some r => if r.veto ≠ 0 ∨ r.mismatch then skipStep s 3 else s
    | none => s
  else s

/-- The reduced values arrive at this node (R302, R303): they are kept and passed to its children; lengths that differ are
recorded as `REDUCE_MISMATCH` (log 130). -/
def jobResult (s : State) (r : RedVal) : State :=
  if s.red.result.isSome ∨ s.red.own.isNone then s else
  let s := { s with red.result := some r, verdict.mismatches := if r.mismatch then addOnce s.verdict.mismatches s.verdict.last else s.verdict.mismatches }
  let s := (uesOn s).foldl (fun s n => setUe s n { ue s n with norm2 := r.norm }) s
  settleStep ((treeChildren s).foldl (fun s c => sendTree s c 0x1C (redBytes r)) s)

/-- Pass the joined contribution on once it is complete: to the parent, or as the result at the root. -/
def redAdvance (s : State) : State :=
  let mine := s.red.got.filter fun x => x.1 == s.verdict.last
  match s.red.own with
  | none => s
  | some o =>
    if s.red.sentUp ∨ !(treeChildren s).all (fun c => mine.any fun x => x.2.1 == c) then s
    else
      let kids := (treeChildren s).filterMap fun c => (mine.find? fun x => x.2.1 == c).map fun x => x.2.2
      let j := joinRed s (o :: kids)
      let s := { j.2 with red.sentUp := true }
      match treeParent s with
      | none => jobResult s j.1
      | some p => sendTree s p 0x1B (redBytes j.1)

/-- Send the module's contribution once pass 1 has ended on every UE in service (R302). -/
def contribute (s : State) : State :=
  if s.red.own.isSome ∨ s.verdict.mode = .noStep ∨ !(uesOn s).all (fun n => decide ((ue s n).groups ≤ (ue s n).pass1Groups.length)) then s
  else
    let rs := (uesOn s).map fun n =>
      let u := ue s n
      { veto := u.veto, norm := u.normPart, layers := (List.range (4 * s.latch.layerCount)).map fun i => mget u.layers i 0#64
        vec := (List.range s.latch.vectorLen).map fun i => mget u.vec i 0#64 : RedVal }
    let z : RedVal := { veto := 0, norm := 0#64, layers := List.replicate (4 * s.latch.layerCount) 0#64, vec := List.replicate s.latch.vectorLen 0#64 }
    let j := match rs with
      | [] => (z, s)
      | _ => joinRed s rs
    redAdvance { j.2 with red.own := some j.1 }

/-! ### Rows -/

/-- A group of UE `n` is made ready (R300). -/
def gradReady (s : State) (n g : Nat) : State :=
  let u := ue s n
  if u.inService ∧ u.stage = .pass1 ∧ g < u.groups then setUe s n { u with readyGroups := addOnce u.readyGroups g } else s

/-- `UE_GRAD_READY` (R300). -/
def execUeGradReady (n : Nat) (v : W64) (s : State) : Out := .next (gradReady s n (v.toNat % 4096))

/-- Whether UE `n` may run a pass now: it is in that stage, not paused, and its controller runs (R314). -/
def ueRuns (s : State) (n : Nat) (m : UeMode) : Bool :=
  alive s && (ue s n).inService && (ue s n).mode == m && fwRuns s (13 + n)

/-- Counters after a group's pass: poisoned loads are counted at their packages (R535). -/
def countPoison (s : State) (q : RowRun) : State := q.pzAt.foldl (fun s a => poisonRead s (home s a).unit) s

/-- `UE_PASS1` (R301): the next ready group in table order. -/
def execUePass1 (n g : Nat) (s : State) : Out :=
  let u := ue s n
  .next (if ueRuns s n .pass1 = false ∨ nextPass1 u ≠ some g then s
  else
    let r := latched s u g
    let rows := groupRows s u.table g
    let emb := gEmb u.table g
    let runs := rows.1.map fun x => runRow s.latch { s, tbl := u.table, r, g, gradRow := x.1, row := x.2 } 0 (rcpP1 r)
    let bad := runs.foldl (fun k q => k + q.bad.countP id) 0
    let cols := gCols u.table g
    -- accumulators
    let a := sum64 s (u.normPart.toNat :: runs.flatMap (·.norm))
    let layer := fld (gw u.table g 0) 56 45
    let l := (List.range 4).foldl (fun (acc : Map W64 × State) j =>
      let vs := runs.flatMap fun q => q.layer.filterMap fun x => if x.1 = j then some x.2 else none
      if vs.isEmpty then acc
      else
        let z := sum64 acc.2 ((mget acc.1 (4 * layer + j) 0#64).toNat :: vs)
        (mset acc.1 (4 * layer + j) (BitVec.ofNat 64 z.1), z.2)) (u.layers, a.2)
    let s := l.2
    -- row and column sums
    let fact := rcpFact r && !emb
    let rowSums := runs.foldl (fun (acc : List (Nat × Bool) × State) q =>
      let vs := q.rc.flatten
      let z := sum64 acc.2 (vs.map fun v => widen64 v.1)
      (acc.1 ++ [(z.1, vs.any (·.2))], z.2)) ([], s)
    let s := if fact then rowSums.2 else s
    let colSums := (List.range cols).foldl (fun (acc : List (Nat × Bool) × State) c =>
      let vs := runs.flatMap fun q => q.rc.map fun row => row.getD c (0, false)
      let z := sum64 acc.2 (vs.map fun v => widen64 v.1)
      (acc.1 ++ [(z.1, vs.any (·.2))], z.2)) ([], s)
    let s := if fact then colSums.2 else s
    let s := if fact then
        let w := writeUnits s (gw u.table g 10) (rowSums.1.flatMap fun v => tagged 8 v.1 v.2)
        (writeUnits w.1 (gw u.table g 11) (colSums.1.flatMap fun v => tagged 8 v.1 v.2)).1
      else s
    let key := fld (gw u.table g 0) 44 28
    let v := if fact && bit (gw u.table g 0) 57 then
        (List.range cols).foldl (fun (m : Map W64) c =>
          mset m (key + c) (BitVec.ofNat 64 (f64.fadd (mget m (key + c) 0#64).toNat (colSums.1.getD c (0, false)).1).1)) u.vec
      else u.vec
    let done := u.pass1Groups ++ [g]
    let s := runs.foldl countPoison s
    let s := setUe s n { ue s n with
      pass1Groups := done
      normPart := BitVec.ofNat 64 a.1
      layers := l.1
      vec := v
      veto := u.veto + bad
      nonfin := u.nonfin + bad
      sat := u.sat + runs.foldl (fun k q => k + q.sat) 0
      ixDup := u.ixDup + rows.2.1
      ixOor := u.ixOor + rows.2.2 }
    if done.length < u.groups then (if u.ending ∧ nextPass1 (ue s n) = none then setUe s n { (ue s n).enter .idle with ending := false } else s)
    else
      contribute (tracePass (setUe s n { (ue s n).enter (if u.ending then .idle else .waiting) with ending := false }) n 1 true))

/-- `JOB_REDUCTION_RESULT` (R302, R303). -/
def execJobReductionResult (r : RedVal) (s : State) : Out := .next (jobResult s r)

/-- Whether pass 2 may begin (R304): the result is true, and the reduction has arrived without a veto. -/
def passTwo (s : State) : Bool :=
  s.verdict.mode == .recorded && s.verdict.passes && s.verdict.result
    && match s.red.result with | some r => r.veto == 0 && !r.mismatch | none => false

/-- New statistic ka × old + kb × sum, the sum rounded to binary32 and each operation rounded once (R297, R304; log 42). -/
def newStat (ka kb old sum : Nat) : Nat × Bool :=
  let x := f32.fmul ka old
  let y := f32.fmul kb (f32.convert (f64.decode sum)).code
  let z := f32.fadd x.1 y.1
  (z.1, x.2 || y.2 || z.2)

/-- The factored update of one group (R304): its row and column statistics, and T. -/
def factorGroup (s : State) (n g : Nat) : State :=
  let u := ue s n
  let r := latched s u g
  let job := match s.red.result with
    | some r => r.vec
    | none => []
  let ka := (s.latch.scalars.getD (fld (rcpHdr r) 25 22) 0#32).toNat
  let kb := (s.latch.scalars.getD (fld (rcpHdr r) 21 18) 0#32).toNat
  let key := fld (gw u.table g 0) 44 28
  let get := fun a k => (readNat s a k, failedHome s a || poisoned s a k)
  let stat := fun (vec acc : Nat) (useJob : Bool) i =>
    let old := get (vec + 4 * i) 4
    let sm := if useJob then ((job.getD (key + i) 0#64).toNat, false) else get (acc + 8 * i) 8
    let v := newStat ka kb old.1 sm.1
    ((v.1, old.2 || sm.2), v.2)
  let rows := (List.range (gRows u.table g)).map (stat (gw u.table g 8) (gw u.table g 10) false)
  let cols := (List.range (gCols u.table g)).map (stat (gw u.table g 9) (gw u.table g 11) (bit (gw u.table g 0) 57))
  let w1 := writeUnits s (gw u.table g 8) (rows.flatMap fun v => tagged 4 v.1.1 v.1.2)
  let w2 := writeUnits w1.1 (gw u.table g 9) (cols.flatMap fun v => tagged 4 v.1.1 v.1.2)
  let t := sum64 w2.1 (cols.map fun v => widen64 v.1.1)
  let x := ue t.2 n
  let s := setUe t.2 n { x with
    totals := mset x.totals g (BitVec.ofNat 64 t.1)
    totalPz := if cols.any (·.1.2) then addOnce x.totalPz g else x.totalPz
    sat := x.sat + (rows ++ cols).countP (·.2)
    poison := x.poison + (rows ++ cols).countP (·.1.2) }
  if groupFailed s r u.table g then failGroup s n g else s

/-- `UE_FACTORED_UPDATE` (R304): the UE leaves its wait, then updates the statistics of one group with `FACT_EN` after the
other, then goes on to pass 2. -/
def execUeFactoredUpdate (n : Nat) (s : State) : Out :=
  let u := ue s n
  let next := (List.range u.groups).find? fun g => rcpFact (latched s u g) && !u.factDone.contains g
  .next (if passTwo s = false then s
  else if ueRuns s n .waiting then tracePass (setUe s n (u.enter .factored)) n 2 false
  else if ueRuns s n .factored then
    match next with
    | some g => (let t := factorGroup s n g; setUe t n { ue t n with factDone := u.factDone ++ [g] })
    | none => setUe s n (u.enter (if u.groups = 0 then .completing else .pass2))
  else s)

/-- `UE_PASS2` (R305 to R309, R312, R313): the next group in table order. -/
def execUePass2 (n g : Nat) (s : State) : Out :=
  let u := ue s n
  let next := (List.range u.groups).find? fun h => !u.doneGroups.contains h
  .next (if ueRuns s n .pass2 = false ∨ next ≠ some g then s
  else
    let r := latched s u g
    let tbl := u.table
    let rows := (groupRows s tbl g).1
    let emb := gEmb tbl g
    let cols := gCols tbl g
    let res : RedVal := s.red.result.getD { veto := 0, norm := 0#64, layers := [], vec := [] }
    let to32 := fun (v : W64) => let c := f32.convert (f64.decode v.toNat); (c.code, c.sat)
    let layer := fld (gw tbl g 0) 56 45
    let stat := fun (s : State) (a i : Nat) => (readNat s (a + 4 * i) 4, failedHome s (a + 4 * i) || poisoned s (a + 4 * i) 4)
    let s0 := s
    let run := rows.foldl (fun (acc : State × List (Nat × List (Nat × Bool))) x =>
      let at_ := gw tbl g 10 + 4 * x.2
      let cpz := emb && (failedHome acc.1 at_ || poisoned acc.1 at_ 4)
      let new := min 0xFFFFFFFF (readNat acc.1 at_ 4 + 1)
      let s := if emb then (writeUnits acc.1 at_ (tagged 4 new cpz)).1 else acc.1
      let ctx : RowCtx := {
        s, tbl, r, g, gradRow := x.1, row := x.2, norm := to32 res.norm
        layer := (List.range 4).map fun j => to32 (res.layers.getD (4 * layer + j) 0#64)
        rowst := if rcpFact r then stat s (gw tbl g 8) x.2 else (0, false)
        colst := if rcpFact r then (List.range cols).map (stat s (gw tbl g 9)) else []
        total := to32 (mget u.totals g 0#64)
        totalPz := u.totalPz.contains g
        stepPz := cpz
        stepv := (f32.convert (Num.ofInt (if emb then (new : Int) else (cfg s0 0x610003 : Int) + 1))).code }
      let q := runRow s.latch ctx (rcpP1 r) (rcpP1 r + rcpP2 r)
      let s := countPoison s (if cpz then { q with pzAt := q.pzAt ++ [at_] } else q)
      let pz := (List.range cols).countP fun c =>
        (q.puts.any fun p => (p.2.getD c (0, false)).2) || (match q.pushed with | some vs => (vs.getD c (0, false)).2 | none => false)
      let s := setUe s n { ue s n with sat := (ue s n).sat + q.sat, poison := (ue s n).poison + pz + b2n cpz }
      let s := q.puts.foldl (fun s p => (putRow s n ctx s.latch.seed s.verdict.last p.1 p.2).1) s
      (s, match q.pushed with
        | some vs => acc.2 ++ [(x.2, vs)]
        | none => acc.2)) (s, [])
    let s := run.1
    let parts := if run.2.isEmpty then ([], 0) else pushParts s.latch tbl r g run.2
    let s := parts.1.foldl (fun s p =>
      let s := postUnits s (ueIss n) p.1 p.2
      s.latch.pushNodes.foldl (fun s node => sendPush s n node p) s) s
    let x := ue s n
    let done := x.doneGroups ++ [g]
    let s := setUe s n { x with doneGroups := done, sat := x.sat + parts.2 }
    let s := if groupFailed s r tbl g then failGroup s n g else s
    if done.length < u.groups then s else tracePass (setUe s n ((ue s n).enter .completing)) n 2 true)

/-- `UE_STEP_COMPLETE` (R305, R307, R313): every UE in service has finished, none is paused, and no push waits for its stack. -/
def execUeStepComplete (s : State) : Out :=
  let unposted := s.stackUnits.any fun k => k.2.waiting.any fun w => w.x.iss.kind == .ue
  .next (if passTwo s = false ∨ alive s = false ∨ unposted ∨ !(uesOn s).all (fun n => (ue s n).mode == .completing) then s
  else
    let failed := (uesOn s).any fun n => !(ue s n).failedGroups.isEmpty
    let s := (uesOn s).foldl (fun s n =>
      setUe s n { ue s n with mode := .idle, last := if (ue s n).failedGroups.isEmpty then 1 else 4 }) s
    let s := { s with
      active := mset s.active 0x610003 (leBytes 8 (cfg s 0x610003 + 1))
      verdict.applied := s.verdict.applied + 1
      verdict.passes := false }
    let s := if failed then irq s 0x113 else s
    if s.latch.pushDone = 0 then s
    else
      let x : Xact := { tag := 0, iss := ueIss 0, kind := .atom 4 false, addr := s.latch.pushDone, size := 8, data := leBytes 8 1 }
      let s := if accessStatus s x.iss x.kind x.addr 8 = 0 then performOrWait s { x, answer := false } else s
      pushDone { s with pushWait := s.latch.pushNodes })

/-- `DNY_RED` (R367): a child's contribution, kept for the step its `AUX` names. -/
def execDnyRed (p now : Nat) (pkt : Packet) (total : Nat) (s : State) : Out :=
  .next (arrive s p now pkt 0x1B fun s =>
    let q := redPiece s pkt total
    let s := q.2
    let open_ := s.verdict.mode != .noStep && s.verdict.last % 2 ^ 32 == pkt.aux
    let step := if open_ then s.verdict.last else s.verdict.last / 2 ^ 32 * 2 ^ 32 + pkt.aux
    match q.1 with
    | none => s
    | some r =>
      if s.red.got.any fun x => x.1 == step && x.2.1 == pkt.src then s
      else redAdvance { s with red.got := s.red.got ++ [(step, pkt.src, r)] })

/-- `DNY_RED_RES` (R367): the reduction's result comes down the tree. -/
def execDnyRedRes (p now : Nat) (pkt : Packet) (total : Nat) (s : State) : Out :=
  .next (arrive s p now pkt 0x1C fun s =>
    let q := redPiece s pkt total
    match q.1 with
    | some r => if pkt.aux = s.verdict.last % 2 ^ 32 then jobResult q.2 r else q.2
    | none => q.2)

end Sys2Proof.Machine
end

