-- ==== Sys2Proof/Machine/Buckets.lean ====
section
/-!
DEFINITION. Gradient buckets (chapter 9, R274 to R282) and the schedule entries that act on them and on the engines'
writes (R442).
-/
namespace Sys2Proof.Machine
open Sys2Proof

/-! ### Descriptors (Table 9.4, R275) -/

/-- A word of a descriptor. -/
def bw (x : Bucket) (i : Nat) : Nat := (x.desc.getD i 0#64).toNat
/-- Bits of word `i` of a descriptor that hold a field; the others read 0 (R4). -/
def bktMask (i : Nat) : Nat := [0xF000FFFF00000000, 2 ^ 48 - 1, 2 ^ 32 - 1, 2 ^ 48 - 1, 0x3FFF00003FFF, 2 ^ 48 - 1, 2 ^ 48 - 1, 2 ^ 32 - 1].getD i 0
/-- `READY_TARGET`, `SRC`, `BYTES`, `STAGE`, G, `RANK`, `NODES`, `LAND`, `TAG`. -/
def Bucket.target (x : Bucket) : Nat := fld (bw x 0) 47 32
def Bucket.src (x : Bucket) : Nat := fld (bw x 1) 47 0
def Bucket.bytes (x : Bucket) : Nat := fld (bw x 2) 31 0
def Bucket.stage (x : Bucket) : Nat := fld (bw x 3) 47 0
def Bucket.g (x : Bucket) : Nat := fld (bw x 4) 45 32 + 1
def Bucket.rank (x : Bucket) : Nat := fld (bw x 4) 13 0
def Bucket.nodes (x : Bucket) : Nat := fld (bw x 5) 47 0
def Bucket.land (x : Bucket) : Nat := fld (bw x 6) 47 0
def Bucket.tag (x : Bucket) : Nat := fld (bw x 7) 31 0
/-- Shard size S. -/
def Bucket.shard (x : Bucket) : Nat := 4096 * cdiv x.bytes (4096 * x.g)
/-- Length of shard `j`. -/
def Bucket.len (x : Bucket) (j : Nat) : Nat := min ((j + 1) * x.shard) x.bytes - j * x.shard
/-- Node of a rank. -/
def Bucket.node (s : State) (x : Bucket) (j : Nat) : Nat := readNat s (x.nodes + 2 * j) 2

/-- Whether an entry is armed and has neither landed nor failed. -/
def Bucket.live (x : Bucket) : Bool := x.mode == .armed || x.mode == .ready || x.mode == .shipping || x.mode == .shipped

/-- Whether a range lies in the near-store scratch of tower `t`. -/
def inScratch (s : State) (t a n : Nat) : Bool := home s a == .scratch t && home s (a + n - 1) == .scratch t

/-- Whether a step is open: opened, and without a result (R283, R284). -/
def stepOpen (s : State) : Bool := s.verdict.mode == .opened || s.verdict.mode == .voted

/-- Whether arming bucket `b` with a descriptor fails (R276). -/
def armBad (s : State) (b : Nat) (x : Bucket) : Bool :=
  let t := b / 64
  let n := (x.land - 0x040000000000) / 0x003000000000
  let mine := [(x.src, x.bytes), (x.stage, x.shard), (x.land, x.shard)]
  let fields := x.target == 0 || x.src % 4096 != 0 || decide (x.bytes < 0x400000) || decide (0x4000000 < x.bytes) || x.bytes % 4096 != 0
    || x.stage % 4096 != 0 || decide (x.g ≤ x.rank) || !inScratch s t x.src x.bytes || !inScratch s t x.stage x.shard
    || !localMemory s x.nodes || !localMemory s (x.nodes + 2 * x.g - 1)
    || decide (x.land < 0x040000000000) || !ueMapped s n || decide (8 ≤ n) || decide (deepBase n + 0x003000000000 < x.land + x.shard)
  let clash := (List.range 256).any fun c =>
    let y := bkt s c
    c != b && y.live && mine.any fun m => [(y.src, y.bytes), (y.stage, y.shard), (y.land, y.shard)].any fun o => rangesMeet m.1 m.2 o.1 o.2
  !stepOpen s || fields || x.node s x.rank != nodeId s || clash || meetsOs s x.land x.shard

/-! ### Failing and readiness (R277, R281) -/

/-- A bucket entry ends in the failed state with its first failing status (R281, R282). -/
def bucketFail (s : State) (b st : Nat) : State :=
  let x := bkt s b
  if x.mode = .failed ∨ x.mode = .idle ∨ x.mode = .armed ∧ st ≠ 0x11 then s
  else pitEvent (setBkt s b { x with mode := .failed, status := if x.status = 0 then st else x.status }) 0x0504 b st

/-- The readiness count of an armed entry rises; at its target the bucket is ready (R277). -/
def addReady (s : State) (b n : Nat) : State :=
  let x := bkt s b
  if x.mode = .armed then
    let k := min 0xFFFF (x.ready + n)
    if x.target ≤ k then trace (setBkt s b { x with ready := k, mode := .ready }) (b / 64) 3 b x.step
    else setBkt s b { x with ready := k }
  else s

/-- `BKT_READY` (R277, Table 9.7). -/
def execBktReady (t : Nat) (v : W64) (s : State) : Out := .next (addReady s (64 * t + fld v.toNat 21 16) (fld v.toNat 15 0))

/-! ### Contributions (R278, R279) -/

/-- Bytes with their poison added into consecutive elements from `a` by accumulate-writes, a line at a time; the first
failing status. -/
def accwRange (s : State) (iss : Issuer) (a : Nat) (es : List Nat) (pz : Bool) : State × Nat :=
  let n := 4 * es.length
  if n = 0 then (s, 0) else
  (List.range ((a + n - 1) / 128 - a / 128 + 1)).foldl (fun (acc : State × Nat) i =>
    let line := (a / 128 + i) * 128
    let has := fun k => decide (a ≤ line + 4 * k) && decide (line + 4 * k < a + n)
    let w : AccWrite := {
      iss, addr := line, mask := maskOf ((List.range 32).filter has)
      data := (List.range 32).map fun k => if has k then BitVec.ofNat 32 (es.getD ((line + 4 * k - a) / 4) 0) else 0#32, poison := pz }
    let r := accw acc.1 w
    (r.1, if acc.2 = 0 then r.2 else acc.2)) (s, 0)

/-- Issuer of a bucket engine. -/
def bucketIss (b : Nat) : Issuer := { kind := .bucket, unit := b / 64 }

/-- Status of a bucket engine's access to its near store (R40, R45, R48). -/
def bucketStatus (s : State) (b : Nat) (k : XKind) (a n : Nat) : Nat := accessStatus s (bucketIss b) k a n

/-- Zero a region of the near store that a bucket engine can reach. -/
def bucketZero (s : State) (b a n : Nat) : State :=
  if bucketStatus s b .store a n ≠ 0 then s else zeroMem (drainLines s a n) a (a + n)

/-- Discard a contribution (R279). -/
def rejectShare (s : State) (b : Nat) : State := pitEvent { s with bktRejects := s.bktRejects + 1 } 0x0303 b

/-- A contribution at its destination (R279; log 43): added where the inbound windows allow it (R338), held, when it keeps its
credits, or discarded. The prefix holds the bucket in [7:0],
the element format in [8] and `TAG` in [63:32] of word 0, the step in word 1; `OFFSET` is the place in the shard. -/
def takeShare (s : State) (port : Nat) (p : Packet) : State :=
  let w := leNat (p.payload.take 8)
  let step := leNat ((p.payload.drop 8).take 8)
  let b := w % 256
  let x := bkt s b
  let armed := if x.mode = .idle then 0 else x.step
  if x.mode = .idle ∨ armed < step then
    { setPrt s port { prt s port with kept := (prt s port).kept + flitsOf p, freed := mset (prt s port).freed 2 (mget (prt s port).freed 2 0 - flitsOf p) } with
      heldShares := s.heldShares ++ [(port, p)] }
  else if step < armed ∨ x.live = false ∨ fld w 63 32 ≠ x.tag then rejectShare s b
  else
    let bf := bit w 8
    let bs := p.payload.drop 16
    let es := if bf then (List.range (bs.length / 2)).map fun i => (f32.convert (bf16.decode (leNat ((bs.drop (2 * i)).take 2)))).code
      else (List.range (bs.length / 4)).map fun i => leNat ((bs.drop (4 * i)).take 4)
    match (List.range x.g).find? fun j => x.node s j == p.src && j != x.rank with
    | none => rejectShare s b
    | some j =>
      if x.len x.rank < p.offset + 4 * es.length ∨ x.shares.contains j then rejectShare s b
      else if inbound s p.jkey (x.stage + p.offset) (4 * es.length) true = false then answer s port (replyTo s p 0xC 0x14 [] false p.ecn)
      else
        let r := accwRange s (bucketIss b) (x.stage + p.offset) es p.poison
        let n := mget x.got j 0 + 4 * es.length
        let y := bkt r.1 b
        let s := if r.2 = 0 then setBkt r.1 b { y with
            got := mset y.got j n, shares := if x.len x.rank ≤ n then addOnce y.shares j else y.shares } else r.1
        answer s port (replyTo s p 0xC r.2 [] false p.ecn)

/-- `DNY_BACC` (R356, R279). -/
def execDnyBacc (p now : Nat) (pkt : Packet) (s : State) : Out := .next (arrive s p now pkt 9 fun s => takeShare s p pkt)

/-- `BUCKET_CONTRIBUTION` (R279): the floor die hands a received contribution to its bucket engine. -/
def execBucketContribution (pt : Nat) (p : Packet) (s : State) : Out := .next (arrive s pt s.pace.now p 9 fun s => takeShare s pt p)

/-- A held contribution is looked at again, and gives back its credits (R279). -/
def takeHeld (s : State) (h : Nat × Packet) : State :=
  let x := prt s h.1
  takeShare (setPrt s h.1 { x with kept := x.kept - flitsOf h.2, freed := mset x.freed 2 (mget x.freed 2 0 + flitsOf h.2) }) h.1 h.2

/-- Arm bucket `b` with a descriptor (R274, R276, R277): status and state. Of the contributions held for the bucket those of
its step are added, and those of an earlier step discarded (R279). -/
def bucketArm (s : State) (b : Nat) (d : List W64) : Nat × State :=
  let old := bkt s b
  let x : Bucket := {
    desc := (List.range 8).map fun i => d.getD i 0#64 &&& BitVec.ofNat 64 (bktMask i), mode := .armed, part := cfg s 0x50800D
    step := s.verdict.last, closedAt := if s.verdict.closed then some s.verdict.closedAt else none }
  if old.live then (0x45, s)
  else if bit (bw x 0) 63 = false ∨ armBad s b x then (0x42, s)
  else
    let mine := fun (h : Nat × Packet) => leNat (h.2.payload.take 1) == b && decide (leNat ((h.2.payload.drop 8).take 8) ≤ x.step)
    let held := s.heldShares.filter mine
    let s := setBkt { s with heldShares := s.heldShares.filter fun h => !mine h } b x
    (0, held.foldl takeHeld s)

/-- Register address of a bucket's descriptor. -/
def bktReg (b : Nat) : Nat := 0x0F0021000000 + b / 64 * 2 ^ 32 + b % 64 * 0x40

/-- `BUCKET_ARM` (R274, R276, R277): a refused arming changes nothing and counts as a rejected register write. -/
def execBucketArm (b : Nat) (d : List W64) (s : State) : Out :=
  .next (if alive s = false then s
  else
    let r := bucketArm s b d
    if r.1 = 0 then r.2 else regReject s (bktReg b))

/-! ### Shipping (R278) -/

/-- Pieces of a shard to send: offset in the shard and length, at most 31 guarded units of one poison each. -/
def sharePieces (s : State) (a n : Nat) : List (Nat × Nat × Bool) :=
  let us := (List.range (n / 64)).map fun i => (64 * i, poisoned s (a + 64 * i) 64)
  us.foldl (fun acc u =>
    match acc.reverse with
    | (o, len, pz) :: more => if pz = u.2 ∧ len < 31 * 64 then ((o, len + 64, pz) :: more).reverse else acc ++ [(u.1, 64, u.2)]
    | [] => [(u.1, 64, u.2)]) []

/-- Send one piece of shard `j` of bucket `b`. -/
def sendShare (s : State) (b j : Nat) (c : Nat × Nat × Bool) : State :=
  let x := bkt s b
  let wire := bit (bw x 0) 62
  let a := x.src + j * x.shard + c.1
  let es := (List.range (c.2.1 / 4)).map fun i => readNat s (a + 4 * i) 4
  let cs := es.map fun e => bf16.convert (f32.decode e)
  let body := if wire then cs.flatMap fun k => leBytes 2 k.code else readMem s a c.2.1
  let s := if wire then { s with bktSat := s.bktSat + cs.countP (·.sat) } else s
  let p : Packet := {
    cls := 1, type := 9, dst := x.node s j, src := nodeId s, engine := 0x428 + b / 64, seq := 0, offset := c.1
    jkey := jkeyOf s x.part, aux := b, payload := leBytes 8 (x.tag * 2 ^ 32 + b2n wire * 256 + b) ++ leBytes 8 x.step ++ body, poison := c.2.2 }
  let st := sourceStatus s p
  if st ≠ 0 then bucketFail s b st else newRequest s { id := 0, pkt := p, bucket := some (b, j) }

/-- Ship a ready bucket: its shards in order from `RANK` + 1, wrapping, and its own into `STAGE`. A near store that the engine
cannot reach ends the entry in the failed state with the status of its read (R40, R45, R281; log 131). -/
def ship (s : State) (b : Nat) : State :=
  let x := bkt s b
  if bucketStatus s b .load x.src x.bytes ≠ 0 then bucketFail s b (bucketStatus s b .load x.src x.bytes) else
  let s := drainLines s x.src x.bytes
  let s := if poisoned s x.src x.bytes then poisonRead s (home s x.src).unit else s
  let s := setBkt s b { x with mode := .shipping }
  let order := (List.range (x.g - 1)).map fun i => (x.rank + 1 + i) % x.g
  let s := order.foldl (fun s j => (sharePieces s (x.src + j * x.shard) (x.len j)).foldl (fun s c => sendShare s b j c) s) s
  let a := x.src + x.rank * x.shard
  let r := (sharePieces s a (x.len x.rank)).foldl (fun (acc : State × Nat) c =>
    let es := (List.range (c.2.1 / 4)).map fun i => readNat acc.1 (a + c.1 + 4 * i) 4
    let w := accwRange acc.1 (bucketIss b) (x.stage + c.1) es c.2.2
    (w.1, if acc.2 = 0 then w.2 else acc.2)) (s, 0)
  if r.2 ≠ 0 then bucketFail r.1 b r.2
  else
    let y := bkt r.1 b
    setBkt r.1 b { y with shares := addOnce y.shares x.rank }

/-- `BUCKET_SHIP` (R278): a ready bucket with `WINDOW` = 0. -/
def execBucketShip (b : Nat) (s : State) : Out :=
  let x := bkt s b
  .next (if alive s ∧ x.mode = .ready ∧ bit (bw x 0) 61 = false then ship s b else s)

/-- `BUCKET_SHIPPED` (R278): every shard is sent; with `ZERO_AFTER`, zero is written over `SRC`. -/
def execBucketShipped (b : Nat) (s : State) : Out :=
  let x := bkt s b
  let waiting := s.requests.any fun (r : Request) => r.held != .sent && (match r.bucket with | some (c, _) => c == b | none => false)
  .next (if alive s = false ∨ x.mode ≠ .shipping ∨ waiting then s
  else
    let s := trace (setBkt s b { x with mode := .shipped }) (b / 64) 3 b x.step
    if bit (bw x 0) 60 then bucketZero s b x.src x.bytes else s)

/-! ### Landing (R280 to R282) -/

/-- Whether every share of shard `RANK` has been added; the others' shares of an empty shard hold nothing. -/
def Bucket.complete (x : Bucket) : Bool :=
  x.shares.contains x.rank && (x.len x.rank == 0 || (List.range x.g).all fun j => x.shares.contains j)

/-- `BUCKET_LAND` (R280); a near store that the engine cannot reach ends the entry as at `ship`. -/
def execBucketLand (b : Nat) (s : State) : Out :=
  let x := bkt s b
  .next (if alive s = false ∨ x.mode ≠ .shipped ∨ x.complete = false then s
  else if bucketStatus s b .load x.stage x.shard ≠ 0 then bucketFail s b (bucketStatus s b .load x.stage x.shard)
  else
    let s := drainLines s x.stage x.shard
    let units := (List.range (x.shard / 64)).map fun i => 64 * i
    let pz := units.any fun o => poisoned s (x.stage + o) 64
    let s := if pz then poisonRead s (home s x.stage).unit else s
    let r := units.foldl (fun (acc : State × Nat) o =>
      let w := memWrite acc.1 (x.land + o) (readMem acc.1 (x.stage + o) 64) (poisoned acc.1 (x.stage + o) 64)
      (w.1, if acc.2 = 0 then w.2 else acc.2)) (s, 0)
    let s := zeroMem r.1 x.stage (x.stage + x.shard)
    let s := trace (setBkt s b { x with mode := .landed, poison := pz, status := r.2 }) (b / 64) 3 b x.step
    let n := (x.land - 0x040000000000) / 0x003000000000
    let u := ue s n
    if u.inService ∧ x.step = s.verdict.last then setUe s n { u with landed := u.landed ++ [(x.land, x.land + x.shard)] } else s)

/-- `BUCKET_SEND_FAIL` (R281). -/
def execBucketSendFail (b status : Nat) (s : State) : Out :=
  let x := bkt s b
  .next (if (x.mode = .shipping ∨ x.mode = .shipped ∨ x.mode = .landed) ∧ isFault status then bucketFail s b status else s)

/-- `BUCKET_LAND_TIMEOUT` (R282): counted from the `STV_CLOSE` of the entry's step; 0 disables the check. -/
def execBucketLandTimeout (b now : Nat) (s : State) : Out :=
  let s := clock s now
  let x := bkt s b
  let ms := inForce s 0x507004
  .next (match x.closedAt with
  | some c => if x.live ∧ ms ≠ 0 ∧ elapsedMs s c ms then bucketZero (bucketFail s b 0x11) b x.stage x.shard else s
  | none => s)

/-- A contribution of this module, of the step it carries, is answered (R281). -/
def endShare (s : State) (b st : Nat) (p : Packet) : State :=
  let x := bkt s b
  if isFault st ∧ (x.mode = .shipping ∨ x.mode = .shipped ∨ x.mode = .landed) ∧ leNat ((p.payload.drop 8).take 8) = x.step then bucketFail s b st else s

/-! ### Schedule entries (R442) -/

/-- `BUCKET_WINDOW`. -/
def execBucketWindow (e now : Nat) (s : State) : Out :=
  let s := clock s now
  .next (if due s e 2 then
    let s := fired s e
    let m := fld (sched s e).arg 3 0
    let on := fun b => (m == 0 || bit m (b / 64)) && (bkt s b).mode == .ready && bit (bw (bkt s b) 0) 61
    let s := if alive s then ((List.range 256).filter on).foldl ship s else s
    schedIrq s e
  else s)

/-- `CHECKPOINT`: the entry fires and waits. -/
def execCheckpoint (e now : Nat) (s : State) : Out :=
  let s := clock s now
  .next (if due s e 4 then { fired s e with checkpointWait := addOnce s.checkpointWait e } else s)

/-- Whether the open step's update passes and push-done atomics are still to be completed, or a step is open. -/
def stepBusy (s : State) : Bool :=
  stepOpen s || passesRun s || !s.pushWait.isEmpty || s.requests.any fun (r : Request) => r.push.isSome

/-- `CHECKPOINT_SIGNAL`: the signal write of `STV_STEP`. -/
def execCheckpointSignal (e : Nat) (s : State) : Out :=
  .next (if s.checkpointWait.contains e ∧ stepBusy s = false then
    schedSignal { s with checkpointWait := s.checkpointWait.filter (· != e) } e s.verdict.last
  else s)

/-- `FENCE_EPOCH`: the entry fires; gathered runs are sent, and the writes issued so far are noted. -/
def execFenceEpoch (e now : Nat) (s : State) : Out :=
  let s := clock s now
  .next (if due s e 5 then
    let s := (List.range 4).foldl (fun s t => dueRuns s t fun _ => true) (fired s e)
    { s with fenceWait := s.fenceWait ++ [(e, s.nextReq, (List.range 4).map fun t => (hf s t).nextRun)] }
  else s)

/-- Whether a request carries a write of a copy, bucket, headframe or update engine. -/
def engineWrite (r : Request) : Bool := decide (0x400 ≤ r.pkt.engine) && decide (r.pkt.engine < 0x430) && r.pkt.type != 0xA

/-- `FENCE_EPOCH_SIGNAL`: the signal write of the epoch count, once every noted write is performed, and no write of an engine
waits at a stack or for room to be gathered. -/
def execFenceEpochSignal (e : Nat) (s : State) : Out :=
  .next (match s.fenceWait.find? fun x => x.1 == e with
  | none => s
  | some x =>
    let open_ := s.requests.any fun (r : Request) => decide (r.id < x.2.1) && !r.passing && engineWrite r
    let runs := (List.range 4).any fun t => !(hf s t).stores.isEmpty || (hf s t).runs.any fun (q : Run) => decide (q.id < x.2.2.getD t 0)
    let queued := s.stackUnits.any fun k => k.2.waiting.any fun w => !w.answer
    if open_ || runs || queued then s
    else
      let n := mget s.fenceEpochs e 0 + 1
      schedSignal { s with fenceWait := s.fenceWait.filter (fun y => y != x), fenceEpochs := mset s.fenceEpochs e n } e n)

end Sys2Proof.Machine
end

