-- ==== Sys2Proof/Machine/Array.lean ====
section
/-!
DEFINITION. The matrix array (chapter 6), its accumulator store (chapter 7) and the gradient wide buffer (R260 to
R264): formats, reads with their faults and poison, stationary tiles, streams, and what an output row does.
-/
namespace Sys2Proof.Machine
open Sys2Proof

/-! ### Formats (Tables 6.1, 6.2) -/

/-- Bits of an element. -/
def tileBits (f : Nat) : Nat := match f with | 5 | 6 => 6 | 7 => 4 | 8 | 9 => 16 | 0xB => 32 | _ => 8
/-- Whether a format code is valid. -/
def tileOk (f : Nat) : Bool := decide (1 ≤ f) && decide (f ≤ 0xB)
/-- Stationary rows K and columns N of a full tile. -/
def tileK (f : Nat) : Nat := if 5 ≤ f ∧ f ≤ 7 then 256 else 128
def tileN (f : Nat) : Nat := if f = 8 ∨ f = 9 ∨ f = 0xB then 256 else 512
/-- Whether a format is microscaled. -/
def tileMx (f : Nat) : Bool := decide (3 ≤ f) && decide (f ≤ 7)
/-- Whether two formats form a pair of Table 6.2. -/
def tilePair (a w : Nat) : Bool :=
  let cls := fun f => if f ≤ 2 then 1 else if f ≤ 4 then 2 else if f ≤ 7 then 3 else f
  tileOk a && tileOk w && cls a == cls w
/-- The floating-point format of an element; none for INT8. -/
def tileFmt : Nat → Option Fmt
  | 1 | 3 => some e4m3 | 2 | 4 => some e5m2 | 5 => some e3m2 | 6 => some e2m3 | 7 => some e2m1
  | 8 => some bf16 | 9 => some f16 | 0xB => some f32 | _ => none

/-- Value of an element with its block's scale code (127 where there is none; R238). -/
def elemNum (f code scale : Nat) : Num :=
  match tileFmt f with
  | none => Num.ofInt (sext 8 code)
  | some x => if scale = 0xFF then .nan else (x.decode code).scale ((scale : Int) - 127)

/-- The two BF16 parts of a binary32 operand (R197). -/
def splitHi (a : Nat) : Num :=
  match f32.decode a with
  | .fin s m e => bf16.decode (bf16.convert (.fin s m e)).code
  | v => v
def splitLo (a : Nat) : Num :=
  match f32.decode a with
  | .fin s m e => bf16.decode (bf16.convert (Num.add (.fin s m e) (splitHi a).neg)).code
  | _ => .fin false 0 0

/-- The form of the sum of two cells in the three-pass mode: a significand of 12 bits (R199). -/
def cellFmt : Fmt := ⟨8, 11, 127, 0x7F7FF, some 0x7F800, some 0x7FC00⟩

/-! ### Entries -/

/-- Word `i` of an entry's descriptor. -/
def Entry.w (e : Entry) (i : Nat) : Nat := (e.d.getD i 0#64).toNat
/-- Whether an entry is a stream. -/
def Entry.stream (e : Entry) : Bool := e.op == .mstream || e.op == .mstreamIx
/-- `ROWS` of a stream. -/
def Entry.rows (e : Entry) : Nat := fld (e.w 0) 23 0 + 1
/-- `CPLX`, `SRC`, `DEST` and `OUT_MODE` of a stream. -/
def Entry.cplx (e : Entry) : Nat := fld (e.w 0) 52 51
def Entry.src (e : Entry) : Nat := fld (e.w 0) 54 53
def Entry.wide (e : Entry) : Bool := bit (e.w 0) 48
def Entry.outMode (e : Entry) : Nat := if e.src = 2 then fld (e.w 7) 63 62 else 0
/-- Columns of a stream's output rows. -/
def Entry.cols (e : Entry) : Nat := tileN (fld (e.w 0) 59 56)
/-- Stationary buffers an entry uses. -/
def Entry.buffers (e : Entry) : List Nat :=
  if e.op = .mload then [fld (e.w 0) 59 59]
  else if e.stream then (if e.cplx ≠ 0 then [0, 1] else [fld (e.w 0) 55 55]) else []
/-- First slots of a stream's output groups 1 to 3. -/
def Entry.groupSlot (e : Entry) (g : Nat) : Nat := match g with | 1 => fld (e.w 0) 47 43 | 2 => fld (e.w 0) 42 38 | _ => fld (e.w 0) 37 33

/-- Entry `id` of cluster `c`. -/
def entry (s : State) (c id : Nat) : Option Entry := (clu s c).entries.find? fun e => e.id == id
/-- Change an entry. -/
def updEntry (s : State) (c id : Nat) (f : Entry → Entry) : State :=
  setClu s c { clu s c with entries := (clu s c).entries.map fun e => if e.id = id then f e else e }
/-- An entry is done: it leaves the array and its crew's counter loses 1 (R182). -/
def endEntry (s : State) (c : Nat) (e : Entry) : State :=
  let s := setClu s c { clu s c with entries := (clu s c).entries.filter fun f => f.id != e.id }
  dropQ s c e.slot e.q
/-- Charge faults (address, status) of an entry's accesses to its crew (R157, R195). -/
def charge (s : State) (c : Nat) (e : Entry) (fs : List (Nat × Nat)) : State :=
  fs.foldl (fun s f => asyncFault s c e.slot e.pc e.instr e.lanes f.1 f.2) s
/-- Issuer of an entry's accesses. -/
def Entry.iss (e : Entry) (c : Nat) : Issuer := { kind := .array, unit := c, part := some e.part }

/-- Whether a slot or tile is held by an entry accepted before `e` (R216, R263). -/
def blocked (x : Cluster) (e : Entry) (u : Nat) : Bool :=
  x.entries.any fun f => decide (f.id < e.id) && f.uses.contains u && !f.released.contains u
/-- Whether an entry other than a tile load may start: every such entry accepted before it has (R180; log 45). Only a stream
waits to start: a drain, a clear or a spill starts with the entries before it and then waits for its slots or tiles, and holds
no later entry with others (R216). A spill is not held by a stream that uses only slots (R263). -/
def mayStart (x : Cluster) (e : Entry) : Bool :=
  x.entries.all fun f => !decide (f.id < e.id) || !f.stream || f.started
    || (e.op == .mspill && !f.uses.isEmpty && f.uses.all fun u => decide (u < 32))
/-- The unit of `e.uses` that row `j` ends: the unit once its last row is done (R215). -/
def rowEnds (e : Entry) (base j rows : Nat) : List Nat := if (j + 1) % e.per = 0 ∨ j + 1 = rows then [base + j / e.per] else []

/-! ### Reads (R173, R195, R196) -/

/-- A byte an array read returned: its value, its poison tag, and whether its access was not applied. -/
structure Got where
  b : Byte := 0#8
  pz : Bool := false
  bad : Bool := false
deriving DecidableEq, Repr

/-- What an array read answers: the state, the bytes, the faults (address, status), and whether some access must wait. -/
structure Fetched (α : Type) where
  s : State
  v : α
  faults : List (Nat × Nat) := []
  wait : Bool := false

/-- The status of an array access: outside the regions of R173 it is unmapped. -/
def arrayStatus (s : State) (iss : Issuer) (k : XKind) (a n : Nat) : Nat := if localMemory s a then accessStatus s iss k a n else 4

/-- Read `n` bytes at `a` for an entry. -/
def arrayRead (s : State) (iss : Issuer) (a n : Nat) : Fetched (List Got) :=
  (linePieces a n).foldl (fun (f : Fetched (List Got)) p =>
    let st := arrayStatus f.s iss .load p.1 p.2
    if st ≠ 0 then { f with v := f.v ++ List.replicate p.2 { bad := true }, faults := f.faults ++ [(p.1, st)] }
    else
      let r := memRead f.s p.1 p.2
      let tag := fun i => r.2.2 && (failedHome f.s p.1 || poisoned f.s (p.1 + i) 1)
      { f with
        s := r.1
        v := f.v ++ (List.range p.2).map fun i => { b := r.2.1.getD i 0#8, pz := tag i }
        wait := f.wait || waits f.s p.1 }) { s, v := [] }

/-- The `w`-bit field at bit `i` of fetched bytes (R239), with its poison and whether it was not applied. -/
def gotBits (g : List Got) (i w : Nat) : Nat × Bool × Bool :=
  let x := (g.drop (i / 8)).take (cdiv (i % 8 + w) 8)
  (leNat (x.map (·.b)) / 2 ^ (i % 8) % 2 ^ w, x.any (·.pz), x.any (·.bad))

/-- `n` packed elements at `a` as (code, scale code, poison); the scale of a microscaled element lies at `scales` plus
its block's index counted from `origin` (R188, R189). What is not applied enters as zero. -/
def readElems (s : State) (iss : Issuer) (f a n origin scales : Nat) : Fetched (List (Nat × Nat × Bool)) :=
  let w := tileBits f
  let r := arrayRead s iss a (cdiv (n * w) 8)
  let els := (List.range n).map fun k => gotBits r.v (k * w) w
  if tileMx f && n != 0 then
    let idx := fun k => (8 * (a - origin) + k * w) / (32 * w)
    let q := arrayRead r.s iss (scales + idx 0) (idx (n - 1) - idx 0 + 1)
    let v := (List.range n).map fun k =>
      let e := els.getD k (0, false, false)
      let sc := q.v.getD (idx k - idx 0) {}
      if e.2.2 || sc.bad then (0, 127, false) else (e.1, sc.b.toNat, e.2.1 || sc.pz)
    { s := q.s, v, faults := r.faults ++ q.faults, wait := r.wait || q.wait }
  else { r with v := els.map fun e => if e.2.2 then (0, 127, false) else (e.1, 127, e.2.1) }

/-! ### Stationary tiles (R176 to R178) -/

/-- Key of element or block-scale (k, n) of a tile. -/
def tileKey (k n : Nat) : Nat := k * 512 + n

/-- Put one stationary row of codes into a tile. -/
def Tile.row (t : Tile) (k : Nat) (els : List (Nat × Nat × Bool)) : Tile :=
  (List.range els.length).foldl (fun t n =>
    let e := els.getD n (0, 127, false)
    { t with
      elems := if e.1 = 0 then t.elems else mset t.elems (tileKey k n) e.1
      poison := if e.2.2 then t.poison ++ [tileKey k n] else t.poison }) t

/-- Put one row of block scales into a tile: a scale not applied makes its block zero, a poisoned one poisons it. -/
def Tile.scaleRow (t : Tile) (b : Nat) (g : List Got) : Tile :=
  (List.range g.length).foldl (fun t n =>
    let x := g.getD n {}
    let mine := fun key => key / 512 / 32 == b && key % 512 == n
    if x.bad then { t with elems := t.elems.filter (fun y => !mine y.1), poison := t.poison.filter fun k => !mine k }
    else
      let pz := if x.pz then (List.range 32).map fun j => tileKey (32 * b + j) n else []
      { t with scales := mset t.scales (tileKey b n) x.b.toNat, poison := pz.foldl addOnce t.poison }) t

/-- The tile an `MLOAD` reads. -/
def loadTile (s : State) (c : Nat) (e : Entry) : Fetched Tile :=
  let f := fld (e.w 0) 63 60
  let iss := e.iss c
  let t : Tile := { valid := true, fmt := f, klen := e.klen, nlen := e.nlen }
  let r := (List.range e.klen).foldl (fun (r : Fetched Tile) k =>
    let g := arrayRead r.s iss (fld (e.w 1) 47 0 + k * fld (e.w 2) 39 0) (cdiv (e.nlen * tileBits f) 8)
    let els := (List.range e.nlen).map fun n =>
      let x := gotBits g.v (n * tileBits f) (tileBits f)
      if x.2.2 then (0, 127, false) else (x.1, 127, x.2.1)
    { s := g.s, v := r.v.row k els, faults := r.faults ++ g.faults, wait := r.wait || g.wait }) { s, v := t }
  if tileMx f then
    (List.range (e.klen / 32)).foldl (fun (r : Fetched Tile) b =>
      let g := arrayRead r.s iss (fld (e.w 3) 47 0 + b * fld (e.w 4) 39 0) e.nlen
      { s := g.s, v := r.v.scaleRow b g.v, faults := r.faults ++ g.faults, wait := r.wait || g.wait }) r
  else r

/-- `MLOAD_COMPLETE` (R178, R182): once no earlier load is queued and no stream accepted before it still enters rows on
the buffer. -/
def execMloadComplete (c e : Nat) (s : State) : Out :=
  let x := clu s c
  .next (match entry s c e with
  | none => s
  | some en =>
    let earlier := x.entries.filter fun f => decide (f.id < en.id)
    let b := fld (en.w 0) 59 59
    if alive s = false ∨ en.op ≠ .mload ∨ earlier.any (fun f => f.op == .mload)
        ∨ earlier.any (fun f => f.stream && f.buffers.contains b && decide (f.entered < f.rows)) then s
    else
      let r := loadTile s c en
      if r.wait then s
      else
        let y := clu r.s c
        let s := setClu r.s c (if b = 0 then { y with sb0 := r.v } else { y with sb1 := r.v })
        charge (endEntry s c en) c en r.faults)

/-! ### Rows (R188 to R193) -/

/-- A fetched row: its elements, the latch of a window stream, whether its input index was out of range, whether it is a zero
row, whose every output is +0 (R192, R196, R220), and whether every output carries poison. -/
structure RowIn where
  els : List (Nat × Nat × Bool)
  latchRow : Nat := 0
  latch : List (Nat × List (Nat × Nat × Bool)) := []
  oor : Bool := false
  zero : Bool := false
  pz : Bool := false

/-- Fetch part `part` (0 real, 1 imaginary, 2 their sum) of row `m` of a stream. -/
def fetchRow (s : State) (c : Nat) (e : Entry) (m part : Nat) : Fetched RowIn :=
  let f := fld (e.w 0) 63 60
  let base := fld (e.w 1) 47 0
  let stride := fld (e.w 2) 39 0
  let scales := fld (e.w 3) 47 0
  let iss := e.iss c
  match e.src with
  | 0 =>
    let r := readElems s iss f (base + m * stride + part * fld (e.w 4) 47 0) e.klen base scales
    { s := r.s, v := { els := r.v }, faults := r.faults, wait := r.wait }
  | 1 =>
    let taps := fld (e.w 5) 63 61 + 1
    let step := fld (e.w 5) 60 58 + 1
    let chan := fld (e.w 5) 57 49 + 1
    let inner := max 1 (fld (e.w 7) 23 0)
    let o := m / inner
    let y : Int := sext 24 (fld (e.w 6) 63 40) + o
    let p0 : Int := sext 24 (fld (e.w 5) 47 24) + ((m % inner * step : Nat) : Int)
    let zero := List.replicate chan (0, 127, false)
    let r := (List.range taps).foldl (fun (r : Fetched RowIn) (t : Nat) =>
      let p := p0 + t
      if 0 ≤ y ∧ y < fld (e.w 6) 39 16 ∧ 0 ≤ p ∧ p < fld (e.w 5) 23 0 then
        let q := if e.latchRow = o + 1 then e.latch.find? fun l => l.1 == p.toNat else none
        match q with
        | some l => { r with v := { r.v with els := r.v.els ++ l.2, latch := r.v.latch ++ [l] } }
        | none =>
          let g := readElems r.s iss f (base + y.toNat * fld (e.w 4) 39 0 + p.toNat * stride) chan base scales
          { s := g.s, v := { r.v with els := r.v.els ++ g.v, latch := r.v.latch ++ [(p.toNat, g.v)] }
            faults := r.faults ++ g.faults, wait := r.wait || g.wait }
      else { r with v := { r.v with els := r.v.els ++ zero } }) { s, v := { els := [], latchRow := o + 1 } }
    { r with v := { r.v with els := (r.v.els ++ List.replicate e.klen (0, 127, false)).take e.klen } }
  | _ =>
    let g := arrayRead s iss (fld (e.w 5) 47 0 + 4 * m) 4
    let i := gotBits g.v 0 32
    let none_ := List.replicate e.klen (0, 127, false)
    if i.2.2 then { s := g.s, v := { els := none_, oor := true, zero := true }, faults := g.faults, wait := g.wait }
    else if i.2.1 then { s := g.s, v := { els := none_, zero := true, pz := true }, wait := g.wait }
    else if fld (e.w 6) 63 32 ≤ i.1 then { s := g.s, v := { els := none_, oor := true, zero := true }, wait := g.wait }
    else
      let r := readElems g.s iss f (base + i.1 * stride) e.klen base scales
      { s := r.s, v := { els := r.v }, faults := r.faults, wait := g.wait || r.wait }

/-- The target row of output row `m` and why it is dropped (R194, R217, R220). -/
def fetchTarget (s : State) (c : Nat) (e : Entry) (m : Nat) : Fetched (Nat × Nat) :=
  if e.outMode = 0 then { s, v := (m, 0) }
  else
    let g := arrayRead s (e.iss c) (fld (e.w 7) 47 0 + 4 * m) 4
    let i := gotBits g.v 0 32
    { s := g.s, v := (i.1, if i.2.2 then 1 else if i.2.1 then 2 else if fld (e.w 6) 31 0 ≤ i.1 then 1 else 0)
      faults := g.faults, wait := g.wait }

/-! ### Pass sums (R197 to R199, R211, R240) -/

/-- One pass of a row: its group, its row values, its cells (value, poison, saturated), the columns that are not gated,
and whether its products are negated. -/
structure Pass where
  group : Nat
  row : List (Num × Bool)
  cell : Nat → Nat → Num × Bool × Bool
  nlen : Nat
  neg : Bool

/-- A cell of a tile, through `f` for its value. -/
def tileCell (t : Tile) (f : Nat → Nat → Num) (k n : Nat) : Num × Bool × Bool :=
  (f (mget t.elems (tileKey k n) 0) (mget t.scales (tileKey (k / 32) n) 127), t.poison.contains (tileKey k n), false)

/-- A cell of the sum of two tiles (R199): exact for INT8, rounded to 12 bits otherwise. -/
def sumCell (a b : Tile) (k n : Nat) : Num × Bool × Bool :=
  let x := tileCell a (elemNum a.fmt) k n
  let y := tileCell b (elemNum b.fmt) k n
  let v := Num.add x.1 y.1
  if a.fmt = 0xA then (v, x.2.1 || y.2.1, false)
  else
    let r := cellFmt.convert v
    (cellFmt.decode r.code, x.2.1 || y.2.1, r.sat)

/-- The passes of a row, from the fetched parts (R197, Table 6.6, R199). -/
def passes (x : Cluster) (e : Entry) (parts : List (List (Nat × Nat × Bool))) : List Pass :=
  let f := fld (e.w 0) 63 60
  let neg := bit (e.w 0) 50
  let vals := fun i => (parts.getD i []).map fun a => (elemNum f a.1 a.2.1, a.2.2)
  let tile := if bit (e.w 0) 55 then x.sb1 else x.sb0
  match e.cplx with
  | 0 =>
    if f = 0xB then
      let hi := (parts.getD 0 []).map fun a => (splitHi a.1, a.2.2)
      let lo := (parts.getD 0 []).map fun a => (splitLo a.1, a.2.2)
      let whi := tileCell tile fun a _ => splitHi a
      let wlo := tileCell tile fun a _ => splitLo a
      [⟨1, hi, whi, tile.nlen, neg⟩, ⟨1, lo, whi, tile.nlen, neg⟩, ⟨1, hi, wlo, tile.nlen, neg⟩]
    else [⟨1, vals 0, tileCell tile (elemNum tile.fmt), tile.nlen, neg⟩]
  | 1 =>
    let re := tileCell x.sb0 (elemNum x.sb0.fmt)
    let im := tileCell x.sb1 (elemNum x.sb1.fmt)
    [⟨1, vals 0, re, x.sb0.nlen, neg⟩, ⟨1, vals 1, im, x.sb1.nlen, !neg⟩, ⟨2, vals 0, im, x.sb1.nlen, neg⟩, ⟨2, vals 1, re, x.sb0.nlen, neg⟩]
  | _ =>
    [⟨1, vals 0, tileCell x.sb0 (elemNum x.sb0.fmt), x.sb0.nlen, neg⟩, ⟨2, vals 1, tileCell x.sb1 (elemNum x.sb1.fmt), x.sb1.nlen, neg⟩,
     ⟨3, vals 2, sumCell x.sb0 x.sb1, max x.sb0.nlen x.sb1.nlen, neg⟩]

/-- The exact pass sum of column `n`, its poison, and how many cell sums saturated; a gated column gives +0 (R186, R240). -/
def Pass.column (p : Pass) (n : Nat) : Num × Bool × Nat :=
  if p.nlen ≤ n then (.fin false 0 0, false, 0)
  else
    (List.range p.row.length).foldl (fun (acc : Num × Bool × Nat) k =>
      let a := p.row.getD k (.fin false 0 0, false)
      let w := p.cell k n
      let v := Num.mul a.1 w.1
      (Num.add acc.1 (if p.neg then v.neg else v), acc.2.1 || a.2 || w.2.1, acc.2.2 + b2n w.2.2)) (.fin false 0 0, false, 0)

/-- The columns of a row that goes to near-store rows as one set of accumulate-writes (R218): the exact sum of its passes,
rounded once (log 127). -/
def rowTotal (ps : List Pass) : Nat × (Nat → Num × Bool × Nat) :=
  (1, fun n => ps.foldl (fun (acc : Num × Bool × Nat) p =>
    let v := p.column n
    (Num.add acc.1 v.1, acc.2.1 || v.2.1, acc.2.2 + v.2.2)) (.fin false 0 0, false, 0))

/-- Round the columns of a pass for its target: INT32 for INT8 pairs, binary16 for a narrow slot, binary32 otherwise. -/
def roundPass (group : Nat) (column : Nat → Num × Bool × Nat) (int narrow : Bool) (cols : Nat) (pz : Bool) : PassOut :=
  (List.range cols).foldl (fun (o : PassOut) n =>
    let v := column n
    let r := if int then convertInt 32 v.1 else (if narrow then f16 else f32).convert v.1
    { o with sums := o.sums ++ [r.code], sat := o.sat + v.2.2 + b2n r.sat, poison := if v.2.1 || pz then o.poison ++ [n] else o.poison })
    { group, sums := [] }

/-! ### Streams (R180, R201, R211 to R220) -/

/-- `STREAM_START` (R180, R181). -/
def execStreamStart (c e : Nat) (s : State) : Out :=
  let x := clu s c
  .next (match entry s c e with
  | none => s
  | some en =>
    let earlier := x.entries.filter fun f => decide (f.id < en.id)
    let tile := fun b => if b = 0 then x.sb0 else x.sb1
    if alive s && en.stream && !en.started && mayStart x en
        && earlier.all (fun f => !f.stream || decide (f.rows ≤ f.entered))
        && en.buffers.all (fun b => (tile b).valid && !earlier.any fun f => f.op == .mload && f.buffers.contains b) then
      updEntry s c e fun f => { f with started := true }
    else s)

/-- `ROW_ENTER` (R201, R205, R216): the row and its target are fetched, its pass sums formed, and the array counts its passes.
At an activity of 0 no cycle operates: the row that is ready only starts the rise. -/
def execRowEnter (c e : Nat) (s : State) : Out :=
  let x := clu s c
  .next (match entry s c e with
  | none => s
  | some en =>
    let m := en.entered
    let units := if en.cplx ≠ 0 ∨ en.outMode = 1 then (if m = 0 then en.uses else []) else (en.uses[m / en.per]?).toList
    if alive s = false ∨ en.stream = false ∨ en.started = false ∨ en.rows ≤ m ∨ units.any (blocked x en) then s
    else
      let n := match en.cplx with | 0 => 1 | 1 => 2 | _ => 3
      let r := (List.range n).foldl (fun (r : Fetched (List RowIn)) part =>
        let g := fetchRow r.s c en m part
        { s := g.s, v := r.v ++ [g.v], faults := r.faults ++ g.faults, wait := r.wait || g.wait }) { s, v := [] }
      let tg := fetchTarget r.s c en m
      if r.wait || tg.wait then s
      else if activityNow s x = 0 then setClu s c (rampForRow s x)
      else
        let row := r.v.headD { els := [] }
        let ps := passes x en (r.v.map (·.els))
        let int := fld (en.w 0) 59 56 == 0xA
        let sums := if en.outMode = 2 then [rowTotal ps] else ps.map fun p => (p.group, p.column)
        let out : RowOut := { row := m, target := tg.v.1, drop := tg.v.2
                              passes := sums.map fun p => roundPass p.1 (if row.zero then fun _ => (.fin false 0 0, false, 0) else p.2) int en.narrow en.cols row.pz }
        let y := rampForRow s (clu tg.s c)
        let s := setClu tg.s c { y with
          holdCount := 0
          lastRow := some (row.els.map (·.1))
          mxaBusy := y.mxaBusy + ps.length
          mxaIxOor := y.mxaIxOor + b2n row.oor }
        let s := updEntry s c e fun f => { f with entered := m + 1, latchRow := row.latchRow, latch := row.latch, outs := f.outs ++ [out] }
        charge s c en (r.faults ++ tg.faults))

/-- Write or add one output element (R211, R213): the cluster and whether the addition saturated. `kind` is 0 binary32,
1 binary16, 2 INT32. -/
def addElem (m : Map Nat) (p : List Nat) (key v kind : Nat) (pz excess : Bool) : Map Nat × List Nat × Nat :=
  let put := fun (v : Nat) => if v = 0 then mdel m key else mset m key v
  if excess then (put v, if pz then addOnce p key else p.filter (· != key), 0)
  else
    let old := mget m key 0
    let r := if kind = 2 then ((old + v) % 2 ^ 32, false) else (if kind = 1 then f16 else f32).fadd old v
    (put r.1, if pz then addOnce p key else p, b2n r.2)

/-- Write one pass of an output row from key `base` on. -/
def addPass (m : Map Nat) (p : List Nat) (base kind : Nat) (o : PassOut) (excess : Bool) : Map Nat × List Nat × Nat :=
  (List.range o.sums.length).foldl (fun (acc : Map Nat × List Nat × Nat) n =>
    let r := addElem acc.1 acc.2.1 (base + n) (o.sums.getD n 0) kind (o.poison.contains n) excess
    (r.1, r.2.1, acc.2.2 + r.2.2)) (m, p, o.sat)

/-- Key of row `j` of a group that begins at slot `slot` (R209; log 46). -/
def accKey (slot per cols j : Nat) : Nat := (slot + j / per) * 32768 + j % per * cols
/-- Key of row `j` of the wide-buffer rows that begin at tile `t` (R261). -/
def wgbKey (t per cols j : Nat) : Nat := (t + j / per) * 65536 + j % per * cols

/-- Write an output row into slots or tiles: the first pass of each group overwrites where `ACC` = 0 (R212). -/
def storeRow (x : Cluster) (e : Entry) (o : RowOut) : Cluster :=
  let acc := bit (e.w 0) 49
  (o.passes.foldl (fun (a : Cluster × List Nat) p =>
    let excess := !acc && !a.2.contains p.group
    let y := a.1
    if e.wide then
      let r := addPass y.wgb y.wgbPoison (wgbKey (e.groupSlot 1) e.per e.cols o.target) 0 p excess
      ({ y with wgb := r.1, wgbPoison := r.2.1, wgbSat := y.wgbSat + r.2.2 }, a.2 ++ [p.group])
    else
      let slot := e.groupSlot p.group
      let kind := if fld (e.w 0) 59 56 = 0xA then 2 else if e.narrow then 1 else 0
      let r := addPass y.acc y.accPoison (accKey slot e.per e.cols o.target) kind p excess
      ({ y with acc := r.1, accPoison := r.2.1, accSat := y.accSat + r.2.2 }, a.2 ++ [p.group])) (x, [])).1

/-- The accumulator store, or the wide buffer, finds `n` bits wrong in the 64-bit word that holds element `key` (R213, R262):
one is corrected, two poison every element of the word. Of more nothing is promised (R111): which of the two, or neither,
and the word's elements are free. -/
def accWordErr (c : Nat) (wide : Bool) (s : State) (e : Nat × Nat) : State :=
  let m := if !wide && (clu s c).narrow.contains (e.1 / 32768) then 4 else 2
  let keys := (List.range m).map (e.1 / m * m + ·)
  match e.2 with
  | 0 => s
  | n + 1 =>
    let r := if n < 2 then (n, s) else draw s 3
    let x := clu r.2 c
    if r.1 = 1 then
      poisonError (setClu r.2 c (if wide then { x with wgbPoison := keys.foldl addOnce x.wgbPoison }
        else { x with accPoison := keys.foldl addOnce x.accPoison })) (68 + c) 0
    else
      let v := if n < 2 then (0, r.2) else draw r.2 (2 ^ 64)
      let put := fun (a : Map Nat) => (List.range m).foldl (fun a i =>
        let w := v.1 / 2 ^ (64 / m * i) % 2 ^ (64 / m)
        if w = 0 then mdel a (keys.getD i 0) else mset a (keys.getD i 0) w) a
      let s := if n < 2 then v.2
        else setClu v.2 c (if wide then { x with wgb := put x.wgb } else { x with acc := put x.acc })
      if r.1 = 0 then correctedError s (68 + c) 0 else s

/-- Errors found in a cluster's store or wide buffer while the module runs. -/
def accErrs (s : State) (c : Nat) (wide : Bool) (errs : List (Nat × Nat)) : State :=
  if alive s then errs.foldl (accWordErr c wide) s else s

/-- Send 32-bit elements (column, value, poison) to consecutive columns from `a` as accumulate-writes of one line each,
halves of one line apart where only one of them carries poison (R62, R66, R218). Answers the faults. -/
def sendAccw (s : State) (iss : Issuer) (id a : Nat) (int : Bool) (els : List (Nat × Bool)) : State × List (Nat × Nat) :=
  let at_ := (List.range els.length).map fun n => (a + 4 * n, els.getD n (0, false))
  let lines := (at_.map fun x => x.1 / 128).foldl addOnce []
  lines.foldl (fun (acc : State × List (Nat × Nat)) l =>
    let mine := at_.filter fun x => x.1 / 128 == l
    let tag := fun h => mine.any fun x => x.1 / 64 % 2 == h && x.2.2
    let groups := if tag 0 = tag 1 then [mine] else [mine.filter fun x => x.1 / 64 % 2 == 0, mine.filter fun x => x.1 / 64 % 2 == 1]
    groups.foldl (fun acc g =>
      if g.isEmpty then acc
      else
        let lane := fun (x : Nat × Nat × Bool) => x.1 % 128 / 4
        let data := (List.range 32).map fun i => match g.find? fun x => lane x == i with
          | some x => BitVec.ofNat 32 x.2.1
          | none => 0#32
        let r := accw acc.1 { iss, entry := id, addr := l * 128, int, mask := maskOf (g.map lane), data, poison := g.any fun x => x.2.2 }
        (r.1, if r.2 = 0 then acc.2 else acc.2 ++ [(l * 128, r.2)])) acc) (s, [])

/-- Send an output row to its near-store row, pass by pass (R218). -/
def sendRow (s : State) (c : Nat) (e : Entry) (o : RowOut) : State × List (Nat × Nat) :=
  let int := fld (e.w 0) 59 56 == 0xA
  o.passes.foldl (fun (acc : State × List (Nat × Nat)) p =>
    let els := (List.range (min e.nlen p.sums.length)).map fun n => (p.sums.getD n 0, p.poison.contains n)
    let r := sendAccw acc.1 (e.iss c) e.id (fld (e.w 4) 47 0 + o.target * 2048) int els
    (setClu r.1 c { clu r.1 c with accSat := (clu r.1 c).accSat + p.sat }, acc.2 ++ r.2)) (s, [])

/-- `OUTPUT_ROW_WRITE` (R211 to R213, R215, R217, R218): rows are written in the order they entered. -/
def execOutputRowWrite (c e : Nat) (errs : List (Nat × Nat)) (s : State) : Out :=
  let s := accErrs s c ((entry s c e).any (·.wide)) errs
  let x := clu s c
  .next (match entry s c e with
  | none => s
  | some en =>
    match en.outs with
    | [] => s
    | o :: more =>
      if alive s = false ∨ en.stream = false ∨ x.entries.any (fun f => f.stream && decide (f.id < en.id) && !f.outs.isEmpty) then s
      else
        let r := if o.drop ≠ 0 then
            (setClu s c { x with accOutOor := x.accOutOor + 1, accIxDrop := x.accIxDrop + b2n (o.drop == 2) }, [])
          else if en.outMode = 2 then sendRow s c en o
          else (setClu s c (storeRow x en o), [])
        let last := en.written + 1 = en.rows
        let free := if en.cplx ≠ 0 ∨ en.outMode = 1 then (if last then en.uses else [])
          else if en.outMode = 2 then []
          else rowEnds en (en.uses.headD 0) en.written en.rows
        let s := updEntry r.1 c e fun f => { f with written := en.written + 1, outs := more, released := f.released ++ free }
        let s := if last ∧ en.outMode ≠ 2 then endEntry s c en else s
        charge s c en r.2)

/-- `CURRENT_HOLD_OP` (R204, R205): while the hold window runs, and in the operating cycles of a ramp. -/
def execCurrentHoldOp (c : Nat) (s : State) : Out :=
  let x := clu s c
  .next (if alive s = false ∨ (x.holdWindow ≤ x.holdCount ∧ activityNow s x = 0) then s
  else setClu s c { x with mxaDummy := x.mxaDummy + 1, holdCount := x.holdCount + 1 })

/-- `HOLD_WINDOW_EXPIRE` (R205): the activity falls to 0 at the down-slope. -/
def execHoldWindowExpire (c : Nat) (s : State) : Out :=
  let x := clu s c
  .next (if x.holdWindow ≤ x.holdCount ∧ ¬ (x.ramp = .down ∧ x.actFloor = 0) then setClu s c (rampTo s x .down 0) else s)

/-! ### Status registers (R206, R233, R289) -/

/-- Entries that have not started (R180; log 45). -/
def queued (x : Cluster) : List Entry := x.entries.filter fun e => !e.started

/-- `MXA_STATUS` (Table 6.9). -/
def mxaStatus (s : State) (x : Cluster) : Nat :=
  let a := activityNow s x
  let streaming := x.entries.any fun e => e.stream && e.started && decide (e.entered < e.rows)
  let ramping := ((x.ramp == .down || x.ramp == .fast) && decide (min x.actFloor a < a)) || (x.ramp == .up && decide (a < capUnits x.cap))
  let st := if streaming then 1 else if ramping then 3 else if a = 0 then 0 else 2
  st * 2 ^ 62 + min 16 (queued x).length * 2 ^ 57 + b2n x.sb0.valid * 2 ^ 56 + x.sb0.fmt * 2 ^ 52 + b2n x.sb1.valid * 2 ^ 51
    + x.sb1.fmt * 2 ^ 47 + activityField s x * 2 ^ 40

/-- Mask of the units below `n` from `lo` that entries use and have not released. -/
def heldUnits (x : Cluster) (lo n : Nat) : Nat :=
  (List.range n).foldl (fun m i => if x.entries.any fun e => e.uses.contains (lo + i) && !e.released.contains (lo + i) then m + 2 ^ i else m) 0

/-- `ACC_STATUS` (Table 7.10). -/
def accStatus (x : Cluster) : Nat := (List.range 32).foldl (fun m i => if x.narrow.contains i then m + 2 ^ i else m) 0 * 2 ^ 32 + heldUnits x 0 32

/-- `WGB_STATUS` (Table 9.5): a spill reads a tile from its first row to its last. -/
def wgbStatus (x : Cluster) : Nat :=
  let spilling := fun i => x.entries.any fun e =>
    let rows := fld (e.w 4) 8 0 + 1
    e.op == .mspill && fld (e.w 0) 55 54 != 2 && e.written % rows != 0 && fld (e.w 0) 63 60 + e.written / rows == i
  heldUnits x 32 16 * 2 ^ 48 + (List.range 16).foldl (fun m i => if spilling i then m + 2 ^ i else m) 0 * 2 ^ 32

end Sys2Proof.Machine
end

