-- ==== Sys2Proof/Machine/Kernels.lean ====
section
/-!
DEFINITION. Command queues' registers, launches, kernels, preemption and the driver heartbeat (chapter 13, R404 to
R423). The commands of the rings themselves are in Commands.lean.
-/
namespace Sys2Proof.Machine
open Sys2Proof

/-! ### Command queues -/

/-- Number of ring entries. -/
def CmdQueue.entries (x : CmdQueue) : Nat := 2 ^ (x.log2n + 6)

/-- `CQ_CTRL` (Table 13.2). -/
def CmdQueue.ctrl (x : CmdQueue) : Nat :=
  b2n x.en * 2 ^ 63 + x.prio * 2 ^ 61 + b2n x.preempt * 2 ^ 60 + x.log2n * 2 ^ 56 + x.part * 2 ^ 48 + x.base

/-- `CQ_STATE` (Table 13.4). -/
def CmdQueue.word (x : CmdQueue) : Nat :=
  let m := match x.mode with
    | .disabled => 0 | .empty => 1 | .fetching => 2 | .waiting => 3 | .held => 4 | .error => 5
  m * 2 ^ 61 + x.err * 2 ^ 48 + x.read

/-- State of an enabled queue from its indices, and held during a lapse (R418). -/
def queueMode (s : State) (x : CmdQueue) : QueueMode :=
  if x.en then
    if s.beat.mode ≠ .beating then .held else if x.read = x.write then .empty else .fetching
  else if x.mode = .error then .error else .disabled

/-- A queue with its state refreshed. -/
def refresh (s : State) (x : CmdQueue) : CmdQueue := { x with mode := queueMode s x }

/-- A write of `CQ_CTRL` (R404, R481): status and state. A changed class S field while the queue runs is refused
with `BLOCK_RUNNING`; `EN` needs the ring in the operating-system region and an enabled partition. -/
def cqWrite (s : State) (q v : Nat) : Nat × State :=
  let x := cq s q
  let en := bit v 63
  let y := { x with en, prio := fld v 62 61, preempt := bit v 60, log2n := fld v 59 56, part := fld v 55 48, base := fld v 47 12 * 4096 }
  if (x.en || !x.started.isEmpty) && decide (x.ctrl % 2 ^ 63 ≠ y.ctrl % 2 ^ 63) then (0x45, s)
  else if en && (decide (10 < y.log2n) || !inOs s y.base (y.entries * 128) || !partOn s y.part) then (0x42, s)
  else
    let y := if en && !x.en then { y with err := 0, mode := .disabled } else y
    (0, setCq s q (refresh s y))

/-- Queue `q` enters the error state (R405). -/
def queueError (s : State) (q err : Nat) : State :=
  irq (setCq s q { cq s q with en := false, mode := .error, err }) (cpSource q)

/-- `CQ_CTRL` (R404). -/
def execCqCtrl (q : Nat) (v : W64) (s : State) : Out :=
  let r := cqWrite s q v.toNat
  .next (if r.1 = 0 then r.2
    else regReject s (0x0F0024000000 + q / 64 * 2 ^ 32 + q / 16 % 4 * 0x1000 + q % 16 * 0x20))

/-- A write of `CQ_DOORBELL` (R405). -/
def doorbell (s : State) (q v : Nat) : State :=
  let x := cq s q
  let w := v % 2 ^ 32
  if x.entries < (w + 2 ^ 32 - x.read) % 2 ^ 32 then queueError s q 2
  else
    let y := { x with write := w }
    setCq s q (if y.mode = .waiting then y else refresh s y)

/-- `CQ_DOORBELL` (R405). -/
def execCqDoorbell (q : Nat) (v : W64) (s : State) : Out := .next (doorbell s q v.toNat)

/-- The command's entry in the ring, 16 words (R405). -/
def ringEntry (s : State) (x : CmdQueue) : List W64 :=
  (List.range 16).map fun i => BitVec.ofNat 64 (readNat s (x.base + x.read % x.entries * 128 + 8 * i) 8)

/-- The command queue `q` fetches next: it is enabled, not held, not in error, not empty, and no earlier launch of
it waits to start (R405, R406, R418). -/
def fetchCmd (s : State) (q : Nat) : Option (List W64) :=
  let x := cq s q
  let waitsLaunch := s.kernels.any fun k => k.2.q == q && k.2.mode == .waiting
  if alive s && x.en && (s.beat.mode == .beating) && decide (x.read ≠ x.write) && !waitsLaunch then
    some (ringEntry s x) else none

/-- `OPCODE` of a command. -/
def opcodeOf (w : List W64) : Nat := fld (w.getD 0 0#64).toNat 63 56
/-- Word `i` of a command as a number. -/
def cw (w : List W64) (i : Nat) : Nat := (w.getD i 0#64).toNat

/-- The command at `READ` starts: `READ` advances, it joins the started commands, and its queue is the one its processor
served last (R406). -/
def startCmd (s : State) (q : Nat) (w : List W64) (kernel : Nat := 0) : State :=
  let x := cq s q
  let s := trace s (q / 64) 0 q x.read
  let x := cq s q
  let y := { x with
    started := x.started ++ [{ index := x.read, opcode := opcodeOf w, words := w, kernel }]
    read := (x.read + 1) % 2 ^ 32
    mode := .disabled }
  setCq { s with cpLast := mset s.cpLast (q / 16) (q % 16) } q (refresh s y)

/-! ### Launches -/

/-- Crews per scheduler that Table 4.2 allows for V vector registers. -/
def crewAllowance (v : Nat) : Nat := min 16 (64 / (v / 16))

/-- Cluster IDs a `LAUNCH` names (R408). -/
def launchClusters (q : Nat) (w : List W64) : List Nat :=
  (List.range 32).filterMap fun j => if bit (cw w 0) j then some (q / 64 * 32 + j) else none

/-- Whether a cluster may be named by a launch of partition `p` (R409 check 2). -/
def launchable (s : State) (p c : Nat) : Bool :=
  bit (cfg s (partKey p 3)) c && (clu s c).mode != .retired && !(tow s (cluTower c)).levelsOut.contains (cluLevel c)

/-- Whether an area of `n` bytes fails R409 check 5. -/
def badArea (s : State) (p a n align : Nat) : Bool := decide (a % align ≠ 0) || !inWindows s p a n 2 || meetsOs s a n

/-- Number of the first check of R409 that a launch fails, or 0. -/
def launchCheck (s : State) (q : Nat) (w : List W64) : Nat :=
  let x : Kernel := { q, index := 0, words := w }
  let cs := launchClusters q w
  let p := (cq s q).part
  let per := cdiv x.crews 8
  let lane := x.lane
  let others := cs.flatMap fun c => (clu s c).kernels.map (krn s)
  let pairBad := lane != 0 && others.any fun y =>
    decide (y.lane ≠ 0) && decide (min (crewAllowance x.vregs) (crewAllowance y.vregs) < per + cdiv y.crews 8)
  let k := x.fld 0 51 49
  if cs.isEmpty then 1
  else if cs.any fun c => !launchable s p c then 2
  else if crewAllowance x.vregs < per ∨ pairBad then 3
  else if 4 < k ∨ cs.length % 2 ^ k ≠ 0 then 4
  else if badArea s p (x.fld 3 47 0) (64 * x.fld 4 15 0) 64
      || (x.fld 5 47 0 != 0 && badArea s p (x.fld 5 47 0) (cs.length * 0x900000) 4096)
      || badArea s p (x.fld 6 47 0) 32 32 then 5
  else if lane = 3 ∨ (lane ≠ 0 ∧ (cs.any fun c => !(clu s c).overlap)) then 6
  else if x.fld 0 37 32 ≠ 0 ∨ x.fld 1 63 48 ≠ 0 ∨ x.fld 3 63 48 ≠ 0 ∨ x.fld 4 31 16 ≠ 0 ∨ x.fld 5 63 48 ≠ 0 ∨ x.fld 6 63 48 ≠ 0
      ∨ ((List.range 8).any fun i => cw w (8 + i) != 0) then 7
  else 0

/-- A refused launch (R409): the record with `DETAIL` where its address may be written (R407), the source, and the
queue goes on. No start is given: `START` is a free value. -/
def refuseLaunch (s : State) (q : Nat) (w : List W64) (chk : Nat) : State :=
  let x : Kernel := { q, index := 0, words := w }
  let i := (cq s q).read
  let (st, s) := draw s (2 ^ 64)
  let s := if badArea s (cq s q).part (x.fld 6 47 0) 32 32 then s
    else post s { kind := .cmdproc, unit := q / 16 } (x.fld 6 47 0) (leBytes 8 (0x21 * 2 ^ 48 + chk * 2 ^ 40 + x.launchId) ++ leBytes 8 0 ++ leBytes 8 st ++ leBytes 8 s.pace.now)
  irq (completeCmd (startCmd s q w) q i) (cpSource q)

/-- Whether the kernel may be preempted (R414). -/
def Kernel.saves (x : Kernel) : Bool := x.fld 5 47 0 != 0

/-- Kernels that share a cluster with kernel `k`, itself among them. -/
def partners (s : State) (k : Nat) : List Nat :=
  (krn s k).clusters.foldl (fun l c => (clu s c).kernels.foldl addOnce l) [k]

/-- Preempt kernel `k` and the other kernel of its pair (R413, R414): its clusters stop issuing its instructions.
A pair of which one kernel has no save area is left running. -/
def startPreempt (s : State) (k : Nat) : State :=
  let ks := partners s k
  if ks.all fun j => (krn s j).saves && ((krn s j).mode == .running) && !(krn s j).contained then
    ks.foldl (fun s j =>
      let x := krn s j
      let s := setKrn s j { x with mode := .preempting, reached := [] }
      x.clusters.foldl (fun s c => setClu s c { clu s c with stopping := addOnce (clu s c).stopping j }) s) s
  else s

/-- Whether cluster `c` is free for kernel `k` (R410). -/
def freeFor (s : State) (k c : Nat) : Bool :=
  let x := krn s k
  let y := clu s c
  let level := mget (tow s (cluTower c)).levelReset (cluLevel c) LevelReset.none
  (y.mode == .idle || y.mode == .running) && (level == LevelReset.none) && ((tow s (cluTower c)).reset == TowerReset.none)
    && !(tow s (cluTower c)).levelsOut.contains (cluLevel c)
    && y.kernels.all fun j => decide (x.lane ≠ 0) && decide ((krn s j).lane ≠ 0) && decide ((krn s j).lane ≠ x.lane)
        && decide ((krn s j).part = x.part)

/-- A launch `k` that cannot start, of a queue with `PREEMPT`, preempts the kernels of lower priority that hold its clusters,
where all that hold them are of lower priority and have a save area (R414, log 139). -/
def preemptFor (s : State) (k : Nat) : State :=
  let x := krn s k
  let holders := x.clusters.foldl (fun l c => if freeFor s k c then l else (clu s c).kernels.foldl addOnce l) []
  if x.mode = .waiting ∧ (cq s x.q).preempt ∧ holders.all (fun j => decide ((cq s (krn s j).q).prio < (cq s x.q).prio) && (krn s j).saves) then
    holders.foldl startPreempt s
  else s

/-- An accepted launch waits for its clusters (R410), and preempts kernels for them where its queue has `PREEMPT` (R414). -/
def acceptLaunch (s : State) (q : Nat) (w : List W64) : State :=
  let k := s.nextKernel
  let cs := launchClusters q w
  let s := setKrn { s with nextKernel := k + 1 } k { q, index := (cq s q).read, words := w, part := (cq s q).part, clusters := cs }
  preemptFor (setCq s q { cq s q with mode := .waiting }) k

/-! ### Starting and ending kernels -/

/-- Whether the scheduler of crew `i` on cluster `c` can admit it: a free slot and V/16 free granules of 64 (R96). -/
def admitSlot (x : Cluster) (i v : Nat) : Option Nat :=
  let sc := i % 8
  let here := x.crews.filter fun p => p.1 / 16 == sc
  let used := here.foldl (fun n p => n + p.2.vcount / 16) 0
  if used + v / 16 ≤ 64 then
    ((List.range 16).map fun j => sc * 16 + j).find? fun j => !here.any fun p => p.1 == j
  else none

/-- Launch values s0 to s7 (Table 13.7) of crew `i` on the cluster of rank `r`. -/
def launchValues (x : Kernel) (r i start : Nat) : Map W64 :=
  let p := 2 ^ x.fld 0 51 49
  let v := [cw x.words 2, x.clusters.length * 2 ^ 32 + r, x.crews * 2 ^ 32 + i, p * 2 ^ 32 + r % p, x.fld 3 47 0, start,
    x.launchId * 2 ^ 32 + x.lane, cw x.words 7]
  (List.range 8).filterMap fun j => if v.getD j 0 = 0 then none else some (j, BitVec.ofNat 64 (v.getD j 0))

/-- Admit crew `i` of kernel `k` on cluster `c` (R96, R97, R410); nothing where the scheduler has no room. -/
def admitCrew (s : State) (k c i : Nat) : State :=
  let x := krn s k
  let y := clu s c
  match admitSlot y i x.vregs with
  | none => s
  | some slot =>
    let r := (x.clusters.findIdx? (· == c)).getD 0
    let crew : Crew := {
      kernel := k
      index := i
      start := y.nextStart
      vcount := x.vregs
      s := launchValues x r i (mget x.startsOn c 0)
      run := some { mask := 0xFFFFFFFF#32, pc := x.fld 1 47 0 } }
    let s := setClu s c { y with crews := mset y.crews slot crew, nextStart := y.nextStart + 1 }
    setKrn s k { krn s k with admitted := (krn s k).admitted ++ [c * 128 + i] }

/-- Priority of a kernel's queue. -/
def kernelPrio (s : State) (k : Nat) : Nat := (cq s (krn s k).q).prio

/-- The saved crews get slots on cluster `x` again, each on its scheduler (R96, R410): the slot it had where that is free. None
where a scheduler has no room. -/
def seatAll (x : Cluster) (crews : Map Crew) : Option Cluster :=
  crews.foldlM (fun x p =>
    (admitSlot x p.2.index p.2.vcount).map fun j =>
      { x with crews := mset x.crews (if (mfind x.crews p.1).isSome then j else p.1) p.2 }) x

/-- Clusters of tower `t` onto which a saved kernel `k` may be restored: free, in its partition's quota, and with room for
its crews (R416, R485). -/
def restoreOnto (s : State) (k : Nat) : List Nat :=
  let t := (krn s k).q / 64
  (List.range 32).filterMap fun j =>
    let c := 32 * t + j
    if launchable s (krn s k).part c && freeFor s k c && (krn s k).savedOn.all fun v => (seatAll (clu s c) v.crews).isSome then some c else none

/-- Whether a saved kernel can be restored now. -/
def canRestore (s : State) (k : Nat) : Bool :=
  ((krn s k).mode == .saved) && !(krn s k).contained && alive s && (s.beat.mode == .beating)
    && decide ((krn s k).clusters.length ≤ (restoreOnto s k).length)

/-- Whether launch `k` may start (R410, R416): every cluster free, no restore of equal or higher priority before it. -/
def canStart (s : State) (k : Nat) : Bool :=
  let x := krn s k
  (x.mode == .waiting) && alive s && (s.beat.mode == .beating) && x.clusters.all (freeFor s k)
    && !s.kernels.any fun y => decide (y.2.q / 64 = x.q / 64) && canRestore s y.1 && decide (kernelPrio s k ≤ kernelPrio s y.1)

/-- The stationary buffers of a lane, without a tile that a kernel starting there may stream on (R181, Table 9.3; a
restored kernel loads its tiles again, as Table 13.9 saves none, log 44). -/
def noTiles (x : Cluster) (lane : Nat) : Cluster :=
  let x := if lane = 2 then x else { x with loaded := mdel x.loaded 0, sb0 := {} }
  if lane = 1 then x else { x with loaded := mdel x.loaded 1, sb1 := {} }

/-- `KERNEL_START` (R410). A launch that cannot start yet preempts what then holds its clusters (R414). -/
def execKernelStart (k now : Nat) (s : State) : Out :=
  let s := clock s now
  .next (if canStart s k then
    let x := krn s k
    let s := setKrn s k { x with mode := .running, startAt := s.pace.now, startsOn := x.clusters.map fun c => (c, s.pace.now) }
    let s := x.clusters.foldl (fun s c =>
      let s := setClu s c (noTiles { clu s c with kernels := addOnce (clu s c).kernels k, mode := .running } x.lane)
      (List.range x.crews).foldl (fun s i => admitCrew s k c i) s) s
    trace (startCmd s x.q x.words k) (x.q / 64) 1 x.launchId 0
  else if alive s ∧ s.beat.mode = .beating then preemptFor s k
  else s)

/-- `CREW_ADMIT` (R96): a crew of a running kernel that its scheduler has not admitted yet. -/
def execCrewAdmit (k c i : Nat) (s : State) : Out :=
  let x := krn s k
  .next (if x.mode = .running ∧ x.contained = false ∧ x.clusters.contains c ∧ i < x.crews ∧ x.admitted.contains (c * 128 + i) = false then
    admitCrew s k c i else s)

/-- Whether every cluster of kernel `k` has ended, and its crews' writes are performed at MODULE (R376, R411). -/
def kernelDone (s : State) (k : Nat) : Bool :=
  let x := krn s k
  x.contained || x.clusters.all fun c =>
    (crewsOf (clu s c) k).isEmpty && ((List.range x.crews).all fun i => x.admitted.contains (c * 128 + i))
      && !s.requests.any fun (r : Request) => r.held == .turn && r.crew.any fun (d : CrewDst) => d.cluster == c && d.slot == 128 + k

/-- `KERNEL_END` (R411). -/
def execKernelEnd (k now : Nat) (s : State) : Out :=
  let s := clock s now
  let x := krn s k
  .next (if (x.mode = .running ∨ ((x.mode = .preempting ∨ x.mode = .saved) ∧ x.contained)) ∧ kernelDone s k = true then
    endKernel s k (if x.contained then 0x20 else 0)
  else s)

/-! ### Preemption (R413 to R416) -/

/-- `KERNEL_PREEMPT` (R414, R423): the kernel with that `LAUNCH_ID`. A value that names no preemptible running
kernel gets `BAD_VALUE` (log 22). -/
def execKernelPreempt (w : ObjWrite) (s : State) : Out :=
  .next (objWrite s w 0x500003 0 fun s =>
    if s.beat.mode ≠ .beating then (0x45, s)
    else
      let ks := s.kernels.filter fun x => x.2.launchId == leNat w.val && x.2.mode == .running && x.2.saves
      if ks.isEmpty then (0x42, s) else (0, ks.foldl (fun s x => startPreempt s x.1) s))

/-- Whether everything kernel `k` issued on cluster `c` has completed (R413 stage 2). -/
def drained (s : State) (k c : Nat) : Bool :=
  let x := clu s c
  let mine := crewsOf x k
  !(x.entries.any fun e => e.kernel == k) && !(x.tlds.any fun j => mine.contains j.slot)
    && (mine.all fun j => !outstanding s c j false)
    && !s.headframes.any fun h => (h.2.runs ++ h.2.stores).any fun (q : Run) => q.crews.any fun n => n / 128 == c && mine.contains (n % 128)

/-- Completed `WAIT` polls are dropped (R413 stage 3). -/
def dropPolls (s : State) (k c : Nat) : State :=
  let f := fun (p : Path) => { p with wait := none }
  setClu s c { clu s c with crews := (clu s c).crews.map fun p =>
    if p.2.kernel = k then (p.1, { p.2 with run := p.2.run.map f, pending := p.2.pending.map f }) else p }

/-- Compute is HELD once no kernel still runs (R418). -/
def enterHeld (s : State) : State :=
  if (s.beat.mode == .freezing) && !s.kernels.any fun x => x.2.mode == .running && !x.2.contained then
    irq (trace { s with beat.mode := .held, beat.heldAt := s.pace.now } 0 6 s.pace.now 0) 0x111
  else s

/-- `PREEMPTION_POINT_REACHED` (R413, R415, R418): the cluster may save, or freezes. -/
def execPreemptionPointReached (k c now : Nat) (s : State) : Out :=
  let s := clock s now
  let x := krn s k
  .next (if x.clusters.contains c = false ∨ x.contained ∨ x.reached.contains c ∨ drained s k c = false then s
  else if x.mode = .preempting then
    let s := dropPolls s k c
    setKrn s k { krn s k with reached := x.reached ++ [c] }
  else if x.mode = .running ∧ s.beat.mode = .freezing then
    let s := dropPolls s k c
    let s := setClu s c { clu s c with mode := .held }
    let all := x.clusters.all fun d => (x.reached ++ [c]).contains d
    let s := setKrn s k { krn s k with reached := x.reached ++ [c], mode := if all then .frozen else .running }
    let s := if all then { s with beat.frozen := s.beat.frozen ++ [(x.launchId, x.q, x.clusters)] } else s
    enterHeld s
  else s)

/-- Slots or tiles of a lane: F has the lower slots and no tile, G the upper slots and every tile (Table 9.3). -/
def laneSlot (lane slot : Nat) : Bool :=
  match lane with
  | 1 => decide (slot < 16)
  | 2 => decide (16 ≤ slot)
  | _ => true

/-- Addresses of cluster `c`'s shared local memory. -/
def slmOf (c : Nat) : Nat := slmBase + c * 0x01000000

/-- What cluster `c` saves of kernel `k` (Table 13.9, R415). -/
def saveOf (s : State) (k c : Nat) : Saved :=
  let x := clu s c
  let lane := (krn s k).lane
  { rank := ((krn s k).clusters.findIdx? (· == c)).getD 0
    crews := x.crews.filter fun p => p.2.kernel == k
    barriers := x.barriers.filter fun b => laneBarriers lane b.1
    slm := (s.mem.filter fun e => decide (slmOf c ≤ e.1) && decide (e.1 < slmOf c + 0x100000)).map fun e => (e.1 - slmOf c, e.2)
    narrow := x.narrow.filter (laneSlot lane)
    acc := x.acc.filter fun e => laneSlot lane (e.1 / 32768)
    accPoison := x.accPoison.filter fun e => laneSlot lane (e / 32768)
    wgb := if lane = 1 then [] else x.wgb
    wgbPoison := if lane = 1 then [] else x.wgbPoison }

/-- The private bytes of a save area (R415, log 7). -/
def saveBytes (seed n : Nat) : List Byte := (List.range n).map fun i => Config.saveByte (seed * 2 ^ 24 + i)

/-- `PREEMPT_SAVE_DONE` (R415): the cluster's state is in its save area and the cluster is free; the kernel is
saved once its last cluster is. -/
def execPreemptSaveDone (k c : Nat) (s : State) : Out :=
  let x := krn s k
  .next (if x.mode = .preempting ∧ x.contained = false ∧ x.reached.contains c then
    let sv := saveOf s k c
    let s := post s { kind := .cmdproc, unit := x.q / 16 } (x.fld 5 47 0 + sv.rank * 0x900000) (saveBytes s.free 0x900000)
    let s := { s with free := s.free + 1 }
    let s := releaseCluster s c k
    let saved := x.savedOn ++ [sv]
    let done := saved.length = x.clusters.length
    let s := setKrn s k { krn s k with reached := x.reached.filter (· != c), savedOn := saved, mode := if done then .saved else .preempting }
    trace s (x.q / 64) 2 x.launchId (2 ^ (c % 32))
  else s)

/-- Put one saved cluster state onto cluster `c`. -/
def restoreOn (s : State) (k c : Nat) (sv : Saved) : State :=
  let x := clu s c
  let lane := (krn s k).lane
  let crews := sv.crews.map fun p => (p.1, { p.2 with start := p.2.start + x.nextStart })
  let top := crews.foldl (fun n p => max n (p.2.start + 1)) x.nextStart
  let s := setClu s c { noTiles x lane with
    kernels := addOnce x.kernels k
    mode := .running
    crews := ((seatAll x crews).getD x).crews
    nextStart := top
    barriers := sv.barriers.foldl (fun m b => mset m b.1 b.2) (x.barriers.filter fun b => !laneBarriers lane b.1)
    narrow := sv.narrow ++ x.narrow.filter fun n => !laneSlot lane n
    acc := sv.acc.foldl (fun m e => mset m e.1 e.2) (x.acc.filter fun e => !laneSlot lane (e.1 / 32768))
    accPoison := sv.accPoison ++ x.accPoison.filter fun e => !laneSlot lane (e / 32768)
    wgb := if lane = 1 then x.wgb else sv.wgb
    wgbPoison := if lane = 1 then x.wgbPoison else sv.wgbPoison }
  let s := zeroMem s (slmOf c) (slmOf c + 0x100000)
  { s with mem := sv.slm.foldl (fun m e => cellPut m (slmOf c + e.1) e.2) s.mem }

/-- `KERNEL_RESTORE` (R416, R485): onto the lowest free clusters of its tower, ranks in ascending cluster ID. -/
def execKernelRestore (k : Nat) (s : State) : Out :=
  .next (if canRestore s k then
    let x := krn s k
    let cs := (restoreOnto s k).take x.clusters.length
    let s := x.savedOn.foldl (fun s sv => restoreOn s k (cs.getD sv.rank 0) sv) s
    let s := setKrn s k { krn s k with mode := .running, clusters := cs, savedOn := [], reached := [],
                                       admitted := cs.flatMap fun c => (List.range x.crews).map fun i => c * 128 + i }
    trace s (x.q / 64) 2 x.launchId (cs.foldl (fun m c => m + 2 ^ (c % 32)) 0)
  else s)

/-! ### Heartbeat (R417 to R423) -/

/-- The state of every queue is taken again from its indices. -/
def refreshQueues (s : State) : State := { s with queues := s.queues.map fun x => (x.1, refresh s x.2) }

/-- Frozen kernels go on, and frozen clusters with them (R420, R422). -/
def thaw (s : State) : State :=
  s.kernels.foldl (fun s x =>
    if x.2.mode = .frozen ∨ (x.2.mode = .running ∧ x.2.reached ≠ []) then
      let s := setKrn s x.1 { x.2 with mode := .running, reached := [] }
      x.2.clusters.foldl (fun s c => setClu s c { clu s c with mode := if (clu s c).mode = .held then .running else (clu s c).mode }) s
    else s) s

/-- A beat at the present time (R417, R420). -/
def beat (s : State) : State :=
  let s := { s with beat.lastBeat := s.pace.now }
  match s.beat.mode with
  | .grace => refreshQueues { s with beat.mode := .beating, beat.cancelled := true }
  | .freezing => refreshQueues (thaw { s with beat.mode := .beating, beat.cancelled := true })
  | _ => s

/-- `HB_BEAT` (R417): only a write from a control-complex core counts. -/
def execHbBeat (core : Bool) (now : Nat) (s : State) : Out :=
  let s := clock s now
  .next (if core then beat s else s)

/-- The end of grace (R418): started `WAIT` commands are abandoned with `READ` pointing at them, at the first of a queue
(log 141), and every running cluster stops at its next preemption point. -/
def graceEnds (s : State) : State :=
  let f := fun (x : CmdQueue) =>
    match x.started.filter fun e => e.opcode == 3 with
    | [] => x
    | e :: _ => { x with read := e.index, started := x.started.filter fun y => y.opcode != 3 }
  enterHeld { s with beat.mode := .freezing, queues := s.queues.map fun x => (x.1, f x.2) }

/-- `HB_LAPSE` (R417, R418, R421): no CP fetches further; a launch not yet started stays in its ring. -/
def execHbLapse (now : Nat) (s : State) : Out :=
  let s := clock s now
  let iv := cfg s 0x501001
  .next (if s.beat.mode = .beating ∧ iv ≠ 0 ∧ s.beat.lastBeat + iv * 1000000 < s.pace.now then
    let b : Heartbeat := {
      mode := .grace
      lastBeat := s.beat.lastBeat
      lapseAt := s.pace.now
      recBeat := s.beat.lastBeat
      reads := (List.range 256).map fun q => (cq s q).read }
    let s := { s with beat := b, kernels := s.kernels.filter fun x => x.2.mode != .waiting }
    let s := irq (trace (refreshQueues s) 0 6 s.pace.now 0) 0x110
    if cfg s 0x501003 = 0 then graceEnds s else s
  else s)

/-- `HB_GRACE_EXPIRE` (R418). -/
def execHbGraceExpire (now : Nat) (s : State) : Out :=
  let s := clock s now
  .next (if s.beat.mode = .grace ∧ s.beat.lapseAt + cfg s 0x501003 * 1000000 ≤ s.pace.now then graceEnds s else s)

/-- Whether `HB_RESUME` may leave HELD: compute is HELD and a beat arrived within the last interval (R422). -/
def mayLeaveHeld (s : State) : Bool :=
  (s.beat.mode == .held) && (cfg s 0x501001 == 0 || decide (s.pace.now ≤ s.beat.lastBeat + cfg s 0x501001 * 1000000))

/-- `HB_RESUME` (R422): value 1; each frozen cluster is at a boundary for class B writes (R474). -/
def execHbResume (w : ObjWrite) (s : State) : Out :=
  .next (objWrite s w 0x501005 0 fun s =>
    if leNat w.val ≠ 1 ∨ mayLeaveHeld s = false then (0x42, s)
    else
      let cs := (s.kernels.filter fun x => x.2.mode == .frozen).flatMap fun x => x.2.clusters
      let s := cs.foldl boundary (thaw { s with beat.mode := .beating })
      (0, refreshQueues (trace s 0 6 s.pace.now 1)))

/-- Zero what a discard clears on a cluster: slots, wide buffer, shared local memory (R422). -/
def zeroCluster (s : State) (c : Nat) : State :=
  let s := setClu s c { clu s c with acc := [], accPoison := [], narrow := [], wgb := [], wgbPoison := [] }
  zeroMem s (slmOf c) (slmOf c + 0x100000)

/-- `HB_DISCARD` (R422): value 2; frozen kernels end `DISCARDED`, every queue is disabled with `READ` at `WRITE`. -/
def execHbDiscard (w : ObjWrite) (now : Nat) (s : State) : Out :=
  let s := clock s now
  .next (objWrite s w 0x501005 0 fun s =>
    if leNat w.val ≠ 2 ∨ mayLeaveHeld s = false then (0x42, s)
    else
      let fr := s.kernels.filter fun x => x.2.mode == .frozen
      let s := { s with beat.mode := .beating }
      let s := fr.foldl (fun s x => x.2.clusters.foldl zeroCluster (endKernel s x.1 0x22)) s
      let off := fun (x : CmdQueue) => { x with en := false, read := x.write, mode := .disabled }
      let s := { s with queues := s.queues.map fun (x : Nat × CmdQueue) => (x.1, off x.2) }
      (0, trace s 0 6 s.pace.now 2))

end Sys2Proof.Machine
end

