-- ==== Sys2Proof/Machine/Matrix.lean ====
section
/-!
DEFINITION. Matrix issue (R156, R157, R176 to R187, R210, R214, R223, R266), the checks of its descriptors, and what
`MZERO`, `MEPI` and `MSPILL` do (chapter 7, R266 to R272).
-/
namespace Sys2Proof.Machine
open Sys2Proof

/-! ### Descriptor checks -/

/-- A descriptor with its issuer: the cluster it is issued on, the kernel's lane (Table 9.3), and its words. -/
structure Desc where
  s : State
  x : Cluster
  lane : Nat
  d : List W64

/-- Word `i`, and its field. -/
def Desc.w (q : Desc) (i : Nat) : Nat := (q.d.getD i 0#64).toNat
def Desc.f (q : Desc) (i hi lo : Nat) : Nat := fld (q.w i) hi lo
/-- Whether word `i` has a bit at or above `n` set. -/
def Desc.beyond (q : Desc) (i n : Nat) : Bool := decide (2 ^ n ≤ q.w i)
/-- Whether word `i` is no aligned address in module-local memory (R173). -/
def Desc.badAddr (q : Desc) (i align : Nat) : Bool := q.beyond i 48 || q.w i % align != 0 || !localMemory q.s (q.w i)
/-- The lowest word that fails. -/
def firstBad (l : List Bool) : Option Nat := (List.range l.length).find? fun i => l.getD i false

/-- Whether a slot, tile or buffer lies outside the lane (R272). -/
def outsideLane (lane slot : Nat) : Bool := (lane == 1 && decide (16 ≤ slot)) || (lane == 2 && decide (slot < 16))
def bufferOutside (lane b : Nat) : Bool := (lane == 1 && b == 1) || (lane == 2 && b == 0)

/-- Failing word of an `MLOAD` descriptor (R568). -/
def mloadFault (q : Desc) : Option Nat :=
  let f := q.f 0 63 60
  let k := q.f 0 58 50 + 1
  let n := q.f 0 49 41 + 1
  let mx := tileMx f
  firstBad [
    !tileOk f || decide (tileK f < k) || decide (tileN f < n) || (mx && k % 32 != 0) || bufferOutside q.lane (q.f 0 59 59) || q.f 0 40 0 != 0,
    q.badAddr 1 8,
    q.beyond 2 40 || q.w 2 % 8 != 0 || decide (q.w 2 < cdiv (n * tileBits f) 64 * 8),
    if mx then q.badAddr 3 1 else q.w 3 != 0,
    if mx then q.beyond 4 40 || decide (q.w 4 < n) else q.w 4 != 0,
    q.w 5 != 0, q.w 6 != 0, q.w 7 != 0]

/-- Width a slot has once every entry accepted so far is done (R210, R214; log 47). -/
def narrowAfter (x : Cluster) (slot : Nat) : Bool :=
  x.entries.foldl (fun n e => if e.op == .mzero && e.uses.contains slot then bit (e.w 0) 53 else n) (x.narrow.contains slot)
/-- Rows a slot holds (Table 7.1). -/
def rowsPer (narrow : Bool) (cols : Nat) : Nat := (if cols = 256 then 64 else 32) * (if narrow then 2 else 1)
/-- Slots of `n` rows of a group from `slot`. -/
def groupSlots (slot per n : Nat) : List Nat := (List.range (cdiv n per)).map (slot + ·)

/-- Slots and tiles (32 + i) a stream uses, and the rows one of them holds (R186, R209, R215, R217, R261). -/
def streamUses (q : Desc) : List Nat × Nat :=
  let e : Entry := { id := 0, op := .mstream, d := q.d, slot := 0, kernel := 0, part := 0, q := 0, lanes := 0#32, pc := 0, instr := 0#64 }
  let slot := e.groupSlot 1
  if e.wide then
    let per := if e.cols = 256 then 256 else 128
    (groupSlots (32 + slot) per e.rows, per)
  else
    let per := rowsPer (narrowAfter q.x slot) e.cols
    if e.cplx ≠ 0 then
      (((List.range (e.cplx + 1)).flatMap fun g => groupSlots (e.groupSlot (g + 1)) per e.rows), per)
    else match e.outMode with
      | 0 => (groupSlots slot per e.rows, per)
      | 1 => (groupSlots slot per (q.f 6 31 0), per)
      | _ => ([], per)

/-- Whether the groups of a complex stream fail: past slot 31 or meeting. -/
def groupsBad (l : List Nat) : Bool := l.any (fun u => decide (31 < u)) || l.any fun u => decide (1 < (l.filter (· == u)).length)

/-- `KLEN` and `NLEN` of the tiles a stream uses (R181; of two buffers the larger, log 48). -/
def streamTile (x : Cluster) (bs : List Nat) : Nat × Nat :=
  bs.foldl (fun m b => let l := mget x.loaded b (0, 0, 0); (max m.1 l.2.1, max m.2 l.2.2)) (0, 0)

/-- Failing word of a stream descriptor (Table 6.5, R210, R261, R272). `ix` tells the mnemonic. A field that Table 6.4 gives
the row source but the mode does not use (`SLOT2`, `SLOT3`, `IM_OFFSET`, `NS_BASE`, `OUT_LIMIT`, `OUT_IX_BASE`) is not checked
(R187; log 126). -/
def streamFault (q : Desc) (ix : Bool) : Option Nat :=
  let fa := q.f 0 63 60
  let fw := q.f 0 59 56
  let sb := q.f 0 55 55
  let src := q.f 0 54 53
  let cplx := q.f 0 52 51
  let acc := q.f 0 49 49
  let dest := q.f 0 48 48
  let slot := q.f 0 47 43
  let rows := q.f 0 23 0 + 1
  let mode := if src = 2 then q.f 7 63 62 else 0
  let mx := tileMx fa
  let bs := if cplx ≠ 0 then [0, 1] else [sb]
  let u := streamUses q
  let cols := tileN fw
  let unloaded := bs.any fun b => match mfind q.x.loaded b with
    | some l => l.1 != fw
    | none => true
  let wide := dest == 1
  let slots := u.1.filter fun i => decide (i < 32)
  let narrow := slots.any (narrowAfter q.x)
  let mixed := narrow && (slots.any (fun i => !narrowAfter q.x i) || !(decide (1 ≤ fa) && decide (fa ≤ 9)) || decide (1 < mode))
  let room := (32 - slot) * u.2
  let klen := (streamTile q.x bs).1
  let taps := q.f 5 63 61 + 1
  let chan := q.f 5 57 49 + 1
  let bits := tileBits fa
  firstBad [
    !tileOk fa || !tileOk fw || src == 3 || cplx == 3 || (ix != (src == 2)) || !tilePair fa fw || unloaded
      || (cplx != 0 && (sb == 1 || src != 0 || wide || mx || fa == 0xB || groupsBad u.1))
      || (cplx == 2 && !q.x.cplx3)
      || (cplx == 0 && !wide && mode == 0 && decide (room < rows))
      || ((mode == 1 || mode == 2) && (acc == 0 || wide))
      || q.f 0 32 24 != 0
      || mixed
      || (wide && (decide (16 ≤ slot) || decide ((16 - slot) * u.2 < rows) || fw == 0xA))
      || (q.lane != 0 && (cplx != 0 || bs.any (bufferOutside q.lane) || slots.any (outsideLane q.lane) || (wide && q.lane == 1))),
    q.badAddr 1 8,
    q.beyond 2 40 || q.w 2 % 8 != 0 || (mx && q.w 2 % (4 * bits) != 0) || (src == 0 && decide (q.w 2 < cdiv (klen * bits) 8)),
    if mx then q.badAddr 3 1 else q.w 3 != 0,
    match src with
      | 0 => q.beyond 4 48 || (cplx != 0 && q.w 4 % 8 != 0)
      | 1 => q.beyond 4 40 || q.w 4 % 8 != 0
      | _ => q.beyond 4 48 || (mode == 2 && q.w 4 % 2048 != 0),
    match src with
      | 0 => q.w 5 != 0
      | 1 => q.f 5 48 48 != 0 || decide (klen < taps * chan) || chan * bits % 64 != 0 || (mx && chan % 32 != 0)
      | _ => q.badAddr 5 4,
    match src with
      | 0 => q.w 6 != 0
      | 1 => q.f 6 15 0 != 0
      | _ => q.f 6 63 32 == 0 || (mode == 1 && (q.f 6 31 0 == 0 || decide (room < q.f 6 31 0))) || (mode == 2 && q.f 6 31 0 == 0),
    match src with
      | 0 => q.w 7 != 0
      | 1 => q.beyond 7 24 || q.f 7 23 0 == 0 || rows % max 1 (q.f 7 23 0) != 0
      | _ => mode == 3 || q.f 7 61 48 != 0
          || (mode != 0 && (q.f 7 47 0 % 4 != 0 || !localMemory q.s (q.f 7 47 0)))]

/-- Failing word of an `MZERO` descriptor (R214, R272). -/
def mzeroFault (q : Desc) : Option Nat :=
  let slot := q.f 0 63 59
  let n := q.f 0 58 54 + 1
  firstBad [
    decide (32 < slot + n) || (bit (q.w 0) 53 && !q.x.fp16) || q.f 0 52 0 != 0 || (groupSlots slot 1 n).any (outsideLane q.lane),
    q.w 1 != 0, q.w 2 != 0, q.w 3 != 0, q.w 4 != 0, q.w 5 != 0, q.w 6 != 0, q.w 7 != 0]

/-! ### `MEPI` (R223 to R230) -/

/-- Fields of word 0 of an `MEPI` descriptor, `n` its word 0. -/
structure Epi where
  slots : List Nat
  rows : Nat
  ofmt : Nat
  eop : Nat
  bcast : Nat
  efmt : Nat
  order : Bool
  clr : Bool
  amax : Bool
  drain : Nat
  assay : Nat
  aint : Bool
  ncol : Nat
  cols : Nat
  wb : Bool
deriving DecidableEq, Repr

/-- Decode word 0 (Table 7.4). -/
def epiOf (n : Nat) : Epi :=
  let drain := fld n 33 32
  { slots := ([fld n 63 59, fld n 31 27, fld n 26 22]).take (drain + 1)
    rows := fld n 58 47 + 1
    ofmt := fld n 46 43
    eop := fld n 42 41
    bcast := fld n 40 39
    efmt := fld n 38 37
    order := bit n 36
    clr := bit n 35
    amax := bit n 34
    drain
    assay := fld n 21 16
    aint := bit n 15
    ncol := fld n 14 6 + 1
    cols := if bit n 5 then 256 else 512
    wb := bit n 4 }

/-- Whether a drain takes the integer path (R224). -/
def Epi.int (p : Epi) : Bool := p.aint && (p.ofmt == 0xC || p.ofmt == 0xE || (p.ofmt == 0 && p.wb))
/-- Bytes of an operand element. -/
def Epi.esize (p : Epi) : Nat := if p.efmt = 1 ∨ p.efmt = 2 then 2 else 4
/-- Bits of an output element (Table 7.5). -/
def Epi.bits (p : Epi) : Nat :=
  if p.ofmt = 0 then 0 else if p.ofmt < 0xA then tileBits p.ofmt else if p.ofmt = 0xA then 8 else 32
/-- Whether a drain's output goes out as accumulate-writes. -/
def Epi.accw (p : Epi) : Bool := p.ofmt == 0xD || p.ofmt == 0xE

/-- Slots a drain reads, and the rows one of them holds (R215, R223). -/
def epiUses (q : Desc) : List Nat × Nat :=
  let p := epiOf (q.w 0)
  let per := rowsPer (narrowAfter q.x (p.slots.headD 0)) p.cols
  (p.slots.flatMap fun g => groupSlots g per p.rows, per)

/-- Failing word of an `MEPI` descriptor (Table 7.7, R272). -/
def mepiFault (q : Desc) : Option Nat :=
  let p := epiOf (q.w 0)
  let u := epiUses q
  let narrow := (u.1.headD 0 |> narrowAfter q.x)
  let full := p.eop != 0 && p.bcast == 0
  let need := fun k => decide (k ≤ p.drain)
  let intBad := !(p.eop == 0 || (p.eop == 1 && p.efmt == 3)) || q.w 5 != 0x3F800000 || p.amax
  firstBad [
    p.ofmt == 0xF || p.eop == 3 || p.bcast == 3 || p.drain == 3 || groupsBad u.1 || u.1.any (fun i => narrowAfter q.x i != narrow)
      || (need 1 && q.f 0 31 27 == 0) || (!need 1 && q.f 0 31 27 != 0) || (need 2 && q.f 0 26 22 == 0) || (!need 2 && q.f 0 26 22 != 0)
      || (p.aint && narrow) || (if p.int then intBad else p.efmt == 3)
      || (p.wb && (p.ofmt != 0 || p.clr)) || (tileMx p.ofmt && p.ncol % 32 != 0) || decide (p.cols < p.ncol)
      || (p.assay != 0 && p.ofmt == 0) || q.f 0 3 0 != 0 || u.1.any (outsideLane q.lane),
    if p.ofmt = 0 then q.w 1 != 0
      else q.badAddr 1 8 || (p.accw && !(match home q.s (q.w 1) with | .scratch _ => true | _ => false)),
    q.beyond 2 40 || q.w 2 % 8 != 0 || decide (q.w 2 < cdiv (p.ncol * p.bits) 8),
    if p.eop = 0 then q.w 3 != 0 else q.badAddr 3 p.esize,
    if full then q.beyond 4 40 || q.w 4 % p.esize != 0 || decide (q.w 4 < p.ncol * p.esize) else q.w 4 != 0,
    q.beyond 5 32 || q.f 5 30 23 == 0xFF,
    if tileMx p.ofmt then q.badAddr 6 1 else q.w 6 != 0,
    if p.amax then q.badAddr 7 4 else q.w 7 != 0]

/-! ### `MSPILL` checks (R270, R272) -/

/-- Failing word of an `MSPILL` descriptor. -/
def mspillFault (q : Desc) : Option Nat :=
  let tile := q.f 0 63 60
  let n := q.f 0 59 56 + 1
  let mode := q.f 0 55 54
  let wide := q.f 0 53 53 == 1
  let cols := q.f 4 40 32 + 1
  let rows := q.f 4 8 0 + 1
  let clear := mode == 2
  let scratch := match home q.s (q.w 1) with
    | .scratch t => some t
    | _ => none
  firstBad [
    decide (16 < tile + n) || mode == 3 || decide ((if wide then 256 else 128) < rows) || decide ((if wide then 256 else 512) < cols)
      || (bit (q.w 0) 45 && scratch != some (q.f 0 44 37 / 64)) || (clear && (bit (q.w 0) 52 || bit (q.w 0) 45))
      || q.f 0 36 0 != 0 || q.lane == 1,
    if clear then q.w 1 != 0 else q.beyond 1 48 || scratch.isNone || q.w 1 % 128 != 0,
    if clear then q.w 2 != 0 else q.beyond 2 40 || q.w 2 % 128 != 0 || decide (q.w 2 < cdiv (4 * cols) 128 * 128),
    if clear then q.w 3 != 0 else q.beyond 3 40 || q.w 3 % 128 != 0 || decide (q.w 3 < rows * q.w 2),
    if clear then q.w 4 != 0 else q.beyond 4 41 || q.f 4 31 9 != 0,
    q.w 5 != 0, q.w 6 != 0, q.w 7 != 0]

/-! ### Issue (R101, R154, R156, R157, R180) -/

/-- Codes the bits of an asynchronous instruction raise where only `OPA` and `Q` are used. -/
def asyncCodes (i : Ins) (imm : Bool) : List Nat :=
  (if i.o 1 ≠ 0 ∨ i.o 2 ≠ 0 ∨ fld i.w 7 0 ≠ 0 ∨ (!imm && fld i.w 15 8 != 0) then [1] else [])
/-- Code of an `OPA` that is no scalar register at a multiple of 8. -/
def octetCodes (i : Ins) : List Nat := if opKind (i.o 0) ≠ .sca ∨ (i.o 0) % 8 ≠ 0 then [2] else []

/-- The eight scalar registers from `OPA`, and whether one of them is poisoned (R156, R167). -/
def octet (s : State) (i : Ins) : List W64 × Bool :=
  let x := crw s i.c i.slot
  let r := i.o 0 - 0x100
  ((List.range 8).map fun j => mget x.s (r + j) 0#64, (List.range 8).any fun j => mget x.sPoison (r + j) false)

/-- Whether a lane's queue has room for an entry, and the crew's counter too (R154, R180, Table 9.3). -/
def matrixRoom (s : State) (c slot lane q : Nat) : Bool :=
  let waiting := (queued (clu s c)).filter fun e => lane == 0 || e.lane == lane
  decide (mget (crw s c slot).q q 0 < 255) && decide (waiting.length < if lane = 0 then 16 else 8)

/-- Whether a crew of a lane has a ready matrix issue (R99, R180, R273). -/
def matrixReady (s : State) (c lane slot : Nat) : Bool :=
  mayIssue s c slot && (krn s (crw s c slot).kernel).lane == lane
    && match readIns s c slot (fun a b => a == 0x18 && decide (1 ≤ b) && decide (b ≤ 6)) true (fun _ i => asyncCodes i false ++ octetCodes i) (fun _ => []) with
      | some (i, []) => i.lanes != 0#32 && matrixRoom s c slot lane (fld i.w 17 16)
      | _ => false

/-- Whether the array's next issue is the other lane's: it accepted this lane's last, and both have one ready (R273). -/
def otherTurn (s : State) (c lane : Nat) : Bool :=
  lane != 0 && (clu s c).lastLane == lane && (clu s c).crews.any fun y => matrixReady s c (3 - lane) y.1

/-- Issue a matrix instruction: it waits for its lane's turn, for a free queue entry of its lane and for its counter, its descriptor is
checked, and its entry joins the queue. `finish` completes the entry from its descriptor. -/
def matrixIssue (c slot minor : Nat) (op : EntryOp) (fault : Desc → Option Nat) (finish : Desc → Entry → Entry) (s : State) : State :=
  issue s c slot (fun a b => a == 0x18 && b == minor) true (fun _ i => asyncCodes i false ++ octetCodes i) fun s i =>
    let x := clu s c
    let k := (crw s c slot).kernel
    let lane := (krn s k).lane
    let q := fld i.w 17 16
    if matrixRoom s c slot lane q = false ∨ otherTurn s c lane then s
    else
      let o := octet s i
      let d : Desc := { s, x, lane, d := o.1 }
      if o.2 then raiseIns s i { code := 9, lanes := i.active }
      else match fault d with
        | some w => raiseIns s i { code := 0x0A, lanes := i.active, detail := w }
        | none =>
          let e := finish d { id := x.nextEntry, op, d := o.1, slot, kernel := k, part := (krn s k).part, lane, q, lanes := i.active, pc := i.pc, instr := BitVec.ofNat 64 i.w }
          let loaded := if op = .mload then mset x.loaded (d.f 0 59 59) (d.f 0 63 60, e.klen, e.nlen) else x.loaded
          let s := setClu s c { x with entries := x.entries ++ [e], nextEntry := x.nextEntry + 1, lastLane := lane, loaded }
          step1 (addQ s c slot q) i

/-- A stream's entry: the tile lengths and the slots or tiles it uses. -/
def streamEntry (d : Desc) (e : Entry) : Entry :=
  let t := streamTile d.x e.buffers
  let u := streamUses d
  { e with klen := t.1, nlen := t.2, uses := u.1, per := u.2, narrow := u.1.any fun i => decide (i < 32) && narrowAfter d.x i }

/-- `MLOAD` (R176, R568). -/
def execMload (c k : Nat) (s : State) : Out :=
  .next (matrixIssue c k 1 .mload mloadFault (fun d e => { e with klen := d.f 0 58 50 + 1, nlen := d.f 0 49 41 + 1 }) s)
/-- `MSTREAM` (R185, R187). -/
def execMstream (c k : Nat) (s : State) : Out := .next (matrixIssue c k 2 .mstream (fun d => streamFault d false) streamEntry s)
/-- `MSTREAM.IX` (R185, R192). -/
def execMstreamIx (c k : Nat) (s : State) : Out := .next (matrixIssue c k 3 .mstreamIx (fun d => streamFault d true) streamEntry s)
/-- `MEPI` (R223, R230). -/
def execMepi (c k : Nat) (s : State) : Out :=
  .next (matrixIssue c k 4 .mepi mepiFault (fun d e =>
    { e with uses := (epiUses d).1, per := (epiUses d).2, narrow := (epiUses d).1.any (narrowAfter d.x) }) s)
/-- `MZERO` (R214). -/
def execMzero (c k : Nat) (s : State) : Out :=
  .next (matrixIssue c k 5 .mzero mzeroFault (fun d e => { e with uses := groupSlots (d.f 0 63 59) 1 (d.f 0 58 54 + 1) }) s)
/-- `MSPILL` (R266, R270). -/
def execMspill (c k : Nat) (s : State) : Out :=
  .next (matrixIssue c k 6 .mspill mspillFault (fun d e => { e with uses := groupSlots (32 + d.f 0 63 60) 1 (d.f 0 59 56 + 1) }) s)

/-- `AWAIT` (R154): the crew is held until its counter is at most `IMM8`. -/
def execAwait (c k : Nat) (s : State) : Out :=
  .next (issue s c k (fun a b => a == 0x18 && b == 0x0F) true (fun _ i => asyncCodes i true ++ (if i.o 0 ≠ 0 then [1] else [])) fun s i =>
    let q := fld i.w 17 16
    let n := fld i.w 15 8
    let s := step1 s i
    if mget (crw s c k).q q 0 ≤ n then s else updCrew s c k fun x => { x with hold := .await q n })

/-! ### `MZERO` (R214) -/

/-- `MZERO_CLEAR` (R214 to R216): the next slot, once released to it, is cleared, takes its width and is released. -/
def execMzeroClear (c e : Nat) (s : State) : Out :=
  let x := clu s c
  .next (match entry s c e with
  | none => s
  | some en =>
    let slot := fld (en.w 0) 63 59 + en.written
    if alive s = false ∨ en.op ≠ .mzero ∨ mayStart x en = false ∨ blocked x en slot then s
    else
      let rest := x.narrow.filter fun n => n != slot
      let s := setClu s c { x with
        acc := x.acc.filter fun y => y.1 / 32768 != slot
        accPoison := x.accPoison.filter fun k => k / 32768 != slot
        narrow := if bit (en.w 0) 53 then rest ++ [slot] else rest }
      let s := updEntry s c e fun f => { f with started := true, written := en.written + 1, released := f.released ++ [slot] }
      if en.written + 1 < en.uses.length then s else endEntry s c en)

/-! ### Drains (R224 to R228) -/

/-- Columns `n < ncol` of row `j` of a group, as codes with their poison. -/
def groupRow (x : Cluster) (slot per cols ncol j : Nat) : List (Nat × Bool) :=
  (List.range ncol).map fun n => (mget x.acc (accKey slot per cols j + n) 0, x.accPoison.contains (accKey slot per cols j + n))

/-- A binary32 value of an accumulator element. -/
def accValue (aint narrow : Bool) (v : Nat) : Nat :=
  if aint then (f32.convert (Num.ofInt (sext 32 v))).code else if narrow then (f32.convert (f16.decode v)).code else v

/-- Operand elements of row `j`, as values widened to binary32 or INT32 (R225): what is not applied is zero. -/
def fetchOperand (s : State) (c : Nat) (e : Entry) (p : Epi) (j : Nat) : Fetched (List (Nat × Bool)) :=
  let base := fld (e.w 3) 47 0
  let wide := fun (v : Nat) => match p.efmt with
    | 1 => (f32.convert (bf16.decode v)).code
    | 2 => (f32.convert (f16.decode v)).code
    | _ => v
  let els := fun (g : Fetched (List Got)) n => { g with v := (List.range n).map fun k =>
    let x := gotBits g.v (8 * p.esize * k) (8 * p.esize)
    if x.2.2 then (0, false) else (wide x.1, x.2.1) : Fetched (List (Nat × Bool)) }
  if p.eop = 0 then { s, v := [] }
  else match p.bcast with
    | 0 => els (arrayRead s (e.iss c) (base + j * fld (e.w 4) 39 0) (p.ncol * p.esize)) p.ncol
    | 1 => match e.operand with
      | some o => { s, v := o }
      | none => els (arrayRead s (e.iss c) base (p.ncol * p.esize)) p.ncol
    | _ =>
      let g := els (arrayRead s (e.iss c) (base + j * p.esize) p.esize) 1
      { g with v := List.replicate p.ncol (g.v.headD (0, false)) }

/-- One element of the floating-point path (R224): the value and how many steps saturated. -/
def epiFloat (p : Epi) (scale g1 g2 g3 e : Nat) : Nat × Nat :=
  let sub := fun (a : Nat × Nat) b => let r := f32.fsub a.1 b; (r.1, a.2 + b2n r.2)
  let v := match p.drain with
    | 0 => (g1, 0)
    | 1 => sub (g1, 0) g2
    | _ => sub (sub (g3, 0) g1) g2
  let eop := fun (a : Nat × Nat) =>
    match p.eop with
    | 0 => a
    | 1 => let r := f32.fadd a.1 e; (r.1, a.2 + b2n r.2)
    | _ => let r := f32.fmul a.1 e; (r.1, a.2 + b2n r.2)
  let mul := fun (a : Nat × Nat) => let r := f32.fmul a.1 scale; (r.1, a.2 + b2n r.2)
  if p.order then eop (mul v) else mul (eop v)

/-- One element of the integer path (R224). -/
def epiInt (p : Epi) (g1 g2 g3 e : Nat) : Nat :=
  let v : Int := match p.drain with
    | 0 => g1
    | 1 => (g1 : Int) - g2
    | _ => (g3 : Int) - g1 - g2
  wrap 32 (if p.eop = 1 then v + e else v)

/-- Convert a row of binary32 values into a block-scaled or plain output format: codes, scales with poison, zeros,
saturations, non-finite values (R224, R241, R243). -/
def epiConvert (ofmt : Nat) (int : Bool) (vs : List (Nat × Bool)) : List Nat × List (Nat × Bool) × Nat × Nat × Nat :=
  if ofmt = 0 then ([], [], 0, 0, 0)
  else if tileMx ofmt then
    let f := (tileFmt ofmt).getD e4m3
    (List.range (vs.length / 32)).foldl (fun (acc : List Nat × List (Nat × Bool) × Nat × Nat × Nat) b =>
      let blk := (vs.drop (32 * b)).take 32
      let r := mxBlock f (blk.map fun v => f32.decode v.1)
      (acc.1 ++ r.2.1, acc.2.1 ++ [(r.1, blk.any (·.2))], acc.2.2.1 + r.2.2.1, acc.2.2.2.1, acc.2.2.2.2 + r.2.2.2)) ([], [], 0, 0, 0)
  else
    let cs := vs.map fun v =>
      let n := if int then Num.ofInt (sext 32 v.1) else f32.decode v.1
      match ofmt with
      | 0xA => convertInt 8 n
      | 0xC | 0xE => convertInt 32 n
      | 0xB | 0xD => f32.convert n
      | f => ((tileFmt f).getD f32).convert n
    (cs.map (·.code), [], (cs.filter (·.zero)).length, (cs.filter (·.sat)).length, (cs.filter (·.nonfin)).length)

/-- `MEPI_ROW_READ` (R216, R223 to R225, R228): one row of each group is read, in ascending order, and computed. -/
def execMepiRowRead (c e : Nat) (errs : List (Nat × Nat)) (s : State) : Out :=
  let s := accErrs s c false errs
  let x := clu s c
  .next (match entry s c e with
  | none => s
  | some en =>
    let p := epiOf (en.w 0)
    let j := en.entered
    let units := p.slots.map fun g => g + j / en.per
    if alive s = false ∨ en.op ≠ .mepi ∨ p.rows ≤ j ∨ (j = 0 ∧ mayStart x en = false) ∨ units.any (blocked x en) then s
    else
      let op := fetchOperand s c en p j
      if op.wait then s
      else
        let narrow := en.narrow
        let g := p.slots.map fun sl => groupRow x sl en.per p.cols p.ncol j
        let get := fun k n => (g.getD k []).getD n (0, false)
        let row := (List.range p.ncol).map fun n =>
          let o := op.v.getD n (0, false)
          let pz := (get 0 n).2 || (get 1 n).2 || (get 2 n).2 || o.2
          if p.int then (epiInt p (get 0 n).1 (get 1 n).1 (get 2 n).1 o.1, 0, pz)
          else
            let v := fun k => accValue p.aint narrow (get k n).1
            let r := epiFloat p (fld (en.w 5) 31 0) (v 0) (v 1) (v 2) o.1
            (r.1, r.2, pz)
        let vs := row.map fun r => (r.1, r.2.2)
        let cv := epiConvert p.ofmt p.int vs
        let back := fun (v : Nat) => if narrow then (f16.convert (f32.decode v)).code else v
        let pzs := (List.range p.ncol).filter fun n => (vs.getD n (0, false)).2
        let out : RowOut := { row := j, target := j, passes := [{ sums := if p.wb then vs.map fun v => back v.1 else cv.1, poison := pzs }], scales := cv.2.1 }
        let y := clu op.s c
        let y := if p.ofmt = 0 then y
          else y.count p.assay p.ncol cv.2.2.1 (cv.2.2.2.1 + row.foldl (fun n r => n + r.2.1) 0) cv.2.2.2.2
        let gone := fun (k : Nat) => p.slots.any fun sl => decide (accKey sl en.per p.cols j ≤ k) && decide (k < accKey sl en.per p.cols j + p.cols)
        let y := if p.clr then { y with acc := y.acc.filter (fun v => !gone v.1), accPoison := y.accPoison.filter fun k => !gone k } else y
        let free := if p.wb then [] else p.slots.flatMap fun sl => rowEnds en sl j p.rows
        let s := updEntry (setClu op.s c y) c e fun f => { f with
          started := true
          entered := j + 1
          outs := f.outs ++ [out]
          operand := if p.bcast = 1 then some op.v else none
          released := f.released ++ free
          amax := if p.amax then vs.foldl (fun m v => max m (f32.fabs v.1)) f.amax else 0
          amaxPoison := f.amaxPoison || (p.amax && vs.any (·.2)) }
        charge s c en op.faults)

/-- Store bytes with their poison for an entry, in pieces of one line: the faults (R173, R227). -/
def arrayWrite (s : State) (iss : Issuer) (a : Nat) (bs : List (Byte × Bool)) : State × List (Nat × Nat) :=
  (linePieces a bs.length).foldl (fun (acc : State × List (Nat × Nat)) p =>
    let st := arrayStatus acc.1 iss .store p.1 p.2
    if st ≠ 0 then (acc.1, acc.2 ++ [(p.1, st)])
    else
      let r := writeUnits acc.1 p.1 ((bs.drop (p.1 - a)).take p.2)
      (r.1, if r.2 then acc.2 else acc.2 ++ [(p.1, 9)])) (s, [])

/-- The amax atomic of a drain (R226): the faults. -/
def amaxAtomic (s : State) (c : Nat) (e : Entry) : State × List (Nat × Nat) :=
  if (epiOf (e.w 0)).amax then
    let a := fld (e.w 7) 47 0
    let st := arrayStatus s (e.iss c) (.atom 8 false) a 4
    if st ≠ 0 then (s, [(a, st)])
    else
      let r := memAtomic s a 4 8 [(e.amax, 0, e.amaxPoison)]
      (r.1, if isFault r.2.1 then [(a, r.2.1)] else [])
  else (s, [])

/-- `MEPI_ROW_WRITE` (R227, R228): the oldest row that was read goes to memory, out as accumulate-writes, or back into
its slot. -/
def execMepiRowWrite (c e : Nat) (s : State) : Out :=
  .next (match entry s c e with
  | none => s
  | some en =>
    match en.outs with
    | [] => s
    | o :: more =>
      let p := epiOf (en.w 0)
      let dst := fld (en.w 1) 47 0 + o.row * fld (en.w 2) 39 0
      let ps := o.passes.headD { sums := [] }
      let els := (List.range ps.sums.length).map fun n => (ps.sums.getD n 0, ps.poison.contains n)
      let busy := p.ofmt ≠ 0 ∧ ((linePieces dst (cdiv (p.ncol * p.bits) 8)).any fun q => waits s q.1)
      if alive s = false ∨ en.op ≠ .mepi ∨ busy then s
      else
        let last := en.written + 1 = p.rows
        let r := if p.wb then
            let x := clu s c
            let key := accKey (p.slots.headD 0) en.per p.cols o.row
            let w := addPass x.acc x.accPoison key 0 { ps with sat := 0 } true
            (setClu s c { x with acc := w.1, accPoison := w.2.1 }, [])
          else if p.ofmt = 0 then (s, [])
          else if p.accw then sendAccw s (en.iss c) en.id dst (p.ofmt == 0xE) els
          else
            let w := arrayWrite s (en.iss c) dst (packBits p.bits els)
            let z := arrayWrite w.1 (en.iss c) (fld (en.w 6) 47 0 + o.row * 16) (o.scales.map fun b => (BitVec.ofNat 8 b.1, b.2))
            (z.1, w.2 ++ z.2)
        let ends := last ∧ (p.wb ∨ p.accw)
        let m := if ends then amaxAtomic r.1 c en else (r.1, [])
        let free := if p.wb then p.slots.flatMap fun sl => rowEnds en sl o.row p.rows else []
        let s := updEntry m.1 c e fun f => { f with written := en.written + 1, outs := more, released := free.foldl addOnce f.released }
        let s := if last ∧ p.wb then endEntry s c en else s
        charge s c en (r.2 ++ m.2))

/-- `MEPI_COMPLETE` (R226, R227): every row is written; the amax atomic is performed. -/
def execMepiComplete (c e : Nat) (s : State) : Out :=
  .next (match entry s c e with
  | none => s
  | some en =>
    let p := epiOf (en.w 0)
    if alive s = false ∨ en.op ≠ .mepi ∨ en.written < p.rows ∨ p.accw ∨ (p.amax ∧ waits s (fld (en.w 7) 47 0)) then s
    else
      let m := amaxAtomic s c en
      charge (endEntry m.1 c en) c en m.2)

/-! ### Spills (R267 to R269) -/

/-- Rows a spill sends. -/
def spillRows (e : Entry) : Nat := (fld (e.w 0) 59 56 + 1) * (fld (e.w 4) 8 0 + 1)

/-- `MSPILL_ROW` (R263, R267, R269): one row goes out as accumulate-writes, or one tile is cleared. -/
def execMspillRow (c e : Nat) (errs : List (Nat × Nat)) (s : State) : Out :=
  let s := accErrs s c true errs
  let x := clu s c
  .next (match entry s c e with
  | none => s
  | some en =>
    let mode := fld (en.w 0) 55 54
    let rows := if mode = 2 then 1 else fld (en.w 4) 8 0 + 1
    let i := en.written / rows
    let r := en.written % rows
    let tile := fld (en.w 0) 63 60 + i
    if alive s = false ∨ en.op ≠ .mspill ∨ (en.started = false ∧ mayStart x en = false) then s
    else if mode = 2 then
      if blocked x en (32 + tile) then s
      else
        let s := setClu s c { x with
          wgb := x.wgb.filter fun v => v.1 / 65536 != tile
          wgbPoison := x.wgbPoison.filter fun k => k / 65536 != tile }
        let s := updEntry s c e fun f => { f with started := true, written := en.written + 1, released := f.released ++ [32 + tile] }
        if en.written + 1 < en.uses.length then s else endEntry s c en
    else if spillRows en ≤ en.written ∨ blocked x en (32 + tile) then s
    else
      let cols := if bit (en.w 0) 53 then 256 else 512
      let n := fld (en.w 4) 40 32 + 1
      let key := tile * 65536 + r * cols
      let els := (List.range n).map fun k => (mget x.wgb (key + k) 0, x.wgbPoison.contains (key + k))
      let a := sendAccw s (en.iss c) en.id (fld (en.w 1) 47 0 + i * fld (en.w 3) 39 0 + r * fld (en.w 2) 39 0) false els
      let y := clu a.1 c
      let nums := els.map fun v => f32.decode v.1
      let y := if bit (en.w 0) 52 then
          y.count (fld (en.w 0) 51 46) n (nums.filter (·.isZero)).length 0 (nums.filter fun v => !v.isFin).length
        else y
      let gone := fun (k : Nat) => decide (key ≤ k) && decide (k < key + cols)
      let y := if mode = 1 then { y with wgb := y.wgb.filter (fun v => !gone v.1), wgbPoison := y.wgbPoison.filter fun k => !gone k } else y
      let s := updEntry (setClu a.1 c y) c e fun f => { f with
        started := true
        written := en.written + 1
        released := if r + 1 = rows then f.released ++ [32 + tile] else f.released }
      charge s c en a.2)

/-- `ACCW_ACK` (R182, R227, R268, R269): the last accumulate-write of a stream, drain or spill is acknowledged. -/
def execAccwAck (c e : Nat) (s : State) : Out :=
  .next (match entry s c e with
  | none => s
  | some en =>
    let done := match en.op with
      | .mepi => (epiOf (en.w 0)).accw && decide ((epiOf (en.w 0)).rows ≤ en.written)
      | .mspill => fld (en.w 0) 55 54 != 2 && decide (spillRows en ≤ en.written)
      | .mload | .mzero => false
      | _ => en.outMode == 2 && decide (en.rows ≤ en.written)
    if alive s = false ∨ done = false then s
    else
      let s := endEntry s c en
      if en.op = .mspill ∧ bit (en.w 0) 45 then addReady s (fld (en.w 0) 44 37) (fld (en.w 0) 59 56 + 1) else s)

/-! ### Assay sets (R257, R259) -/

/-- Clear the sets of a mask on a cluster. -/
def asyClear (x : Cluster) (mask : Nat) : Cluster := { x with assay := x.assay.filter fun y => !bit mask y.1 }

/-- `ASY_CLEAR` (R257, R259): the register of cluster `c`, or the object, which clears on every cluster of the session's
partition. -/
def execAsyClear (w : ObjWrite) (c : Nat) (s : State) : Out :=
  .next (if w.reg then setClu s c (asyClear (clu s c) (leNat w.val))
  else
    let part := match mfind s.sessions w.sid with
      | some x => x.part
      | none => 0
    objWrite s w 0x505003 0 fun s => (0, (partClusters s part).foldl (fun s c => setClu s c (asyClear (clu s c) (leNat w.val))) s))

end Sys2Proof.Machine
end

