-- ==== Sys2Proof/Machine/PitLog.lean ====
section
/-!
DEFINITION. The bytes of a Pit Log record (chapter 17, Table 17.7).
-/
namespace Sys2Proof.Machine
open Sys2Proof

/-- The 256 bytes of a record, its CRC in place (R542). -/
def PitRec.bytes (r : PitRec) : List Byte :=
  let e := r.ev
  let head := leBytes 8 (r.seq % 2 ^ 32 * 2 ^ 32 + min 0xFFFF r.repeats * 2 ^ 16 + r.upd % 256 * 2 ^ 8 + 2 ^ 7)
    ++ leBytes 8 (e.trig % 2 ^ 16 * 2 ^ 48 + e.unit % 2 ^ 16 * 2 ^ 32 + r.cls % 8 * 2 ^ 29 + min 48 r.words.length * 2 ^ 23 + b2n r.dropped * 2 ^ 22 + e.status % 2 ^ 16)
    ++ leBytes 8 (e.opSec % 2 ^ 32 * 2 ^ 32 + e.pcycle % 2 ^ 32) ++ leBytes 8 e.pace ++ leBytes 8 r.lastPace
    ++ leBytes 8 e.addr ++ leBytes 8 e.det0
  let tail := padTo 192 ((r.words.take 48).flatMap fun w => leBytes 4 w.toNat)
  let det1 := leBytes 4 e.det1
  let code := crc32c (head ++ List.replicate 4 0#8 ++ det1 ++ tail)
  head ++ leBytes 4 code ++ det1 ++ tail

/-- The newest record in place `i` of the ring. -/
def pitAt (s : State) (i : Nat) : Option PitRec :=
  s.pit.records.reverse.find? fun (r : PitRec) => (r.seq + 4095) % 4096 == i

end Sys2Proof.Machine
end

