-- ==== Sys2Proof/Machine/Verdict.lean ====
section
/-!
DEFINITION. The step verdict (chapter 9, R283 to R288) and its vote over the tree of R367.
-/
namespace Sys2Proof.Machine
open Sys2Proof

/-- Addresses of the verdict block's registers that act as objects (R289). -/
def stvReg (off : Nat) : Nat := 0x0F0800100000 + off

/-- Clear assay sets of a mask on the clusters of a partition (R257, R283). -/
def clearAssays (s : State) (part mask : Nat) : State :=
  (partClusters s part).foldl (fun s c =>
    setClu s c { clu s c with assay := (clu s c).assay.filter fun x => !bit mask x.1 }) s

/-- Bring the class B step objects into force (R474). -/
def stepBoundary (s : State) : State := { s with heldB := [] }

/-- A write of `STV_OPEN` (R283, R299): status and state. -/
def stvOpen (s : State) (n : Nat) : Nat × State :=
  let v := s.verdict
  if !(v.noneOpened && !v.rebased) ∧ n ≠ (v.last + 1) % 2 ^ 64 then (0x42, s)
  else if stepOpen s ∨ passesRun s then (0x45, s)
  else
    let s := stepBoundary s
    let s := clearAssays s (cfg s 0x50800D) (cfg s 0x508002)
    let s := { s with verdict := { v with
      mode := .opened
      result := false
      vote := false
      timedOut := false
      noneOpened := false
      rebased := false
      last := n
      closed := false
      forceFail := false
      abandoned := false } }
    (0, contribute (ueOpen s))

/-- A write of `STV_REBASE` (R283). -/
def stvRebase (s : State) (n : Nat) : Nat × State :=
  if stepOpen s ∨ passesRun s then (0x45, s)
  else (0, { s with verdict.last := (n + (2 ^ 64 - 1)) % 2 ^ 64, verdict.rebased := true })

/-- A write of `STV_CLOSE` (R286). -/
def stvClose (s : State) (n : Nat) : Nat × State :=
  if !(stepOpen s) ∨ n ≠ s.verdict.last then (0x42, s)
  else if s.verdict.closed then (0, s)
  else
    let s := { s with verdict.closed := true, verdict.closedAt := s.pace.now }
    (0, (List.range 256).foldl (fun s b =>
      if (bkt s b).live ∧ (bkt s b).step = n then setBkt s b { bkt s b with closedAt := some s.pace.now } else s) s)

/-- A write of `STV_FORCE_FAIL` (R284). -/
def stvForceFail (s : State) (n : Nat) : Nat × State :=
  if !(stepOpen s) ∨ n ≠ s.verdict.last then (0x42, s) else (0, { s with verdict.forceFail := true })

/-- `STV_OPEN` (R283, R299). -/
def execStvOpen (w : ObjWrite) (s : State) : Out := .next (objWrite s w 0x508005 (stvReg 0x10) fun s => stvOpen s (leNat w.val))
/-- `STV_REBASE` (R283). -/
def execStvRebase (w : ObjWrite) (s : State) : Out := .next (objWrite s w 0x50800C (stvReg 0x28) fun s => stvRebase s (leNat w.val))
/-- `STV_CLOSE` (R286). -/
def execStvClose (w : ObjWrite) (now : Nat) (s : State) : Out :=
  .next (objWrite (clock s now) w 0x508006 (stvReg 0x18) fun s => stvClose s (leNat w.val))
/-- `STV_FORCE_FAIL` (R284). -/
def execStvForceFail (w : ObjWrite) (s : State) : Out :=
  .next (objWrite s w 0x508007 (stvReg 0x20) fun s => stvForceFail s (leNat w.val))

/-- Bytes of a vote or result: step and value. -/
def voteBytes (n : Nat) (v : Bool) : List Byte := leBytes 8 n ++ leBytes 1 (b2n v)

/-- The result of step `n` arrives (R287): it is recorded and passed to the children. -/
def stvRecord (s : State) (n : Nat) (result : Bool) : State :=
  if s.verdict.mode ≠ .voted ∨ n ≠ s.verdict.last then s else
  let s := { s with verdict.mode := .recorded, verdict.result := result, verdict.passes := result }
  let s := trace s 0 4 n (b2n result)
  let s := (treeChildren s).foldl (fun s c => sendTree s c 0x1A (voteBytes n result)) s
  if result then settleStep s else skipStep s 2

/-- Pass the joined vote on once every child has voted: to the parent, or as the result at the root. -/
def voteAdvance (s : State) : State :=
  let n := s.verdict.last
  let of := fun c => (s.red.votes.find? fun x => x.1 == n && x.2.1 == c).map fun x => x.2.2
  if s.verdict.mode ≠ .voted ∨ s.red.voteSent ∨ !(treeChildren s).all (fun c => (of c).isSome) then s
  else
    let v := s.verdict.vote && (treeChildren s).all fun c => of c == some true
    let s := { s with red.voteSent := true }
    match treeParent s with
    | none => stvRecord s n v
    | some p => sendTree s p 0x1A (voteBytes n v)

/-- The module's vote now (R284). -/
def voteValue (s : State) : Bool :=
  let mask := inForce s 0x508002
  let nonfin := (partClusters s (cfg s 0x50800D)).any fun c => (clu s c).assay.any fun x => bit mask x.1 && x.2.nonfin != 0
  let bad := (List.range 256).any fun b => (bkt s b).step == s.verdict.last && ((bkt s b).mode == .failed || ((bkt s b).mode == .landed && (bkt s b).poison))
  !nonfin && !bad && !s.verdict.forceFail

/-- `STV_VOTE` (R286). -/
def execStvVote (now : Nat) (s : State) : Out :=
  let s := clock s now
  .next (if alive s = false ∨ s.verdict.mode ≠ .opened ∨ s.verdict.closed = false ∨ (List.range 256).any (fun b => (bkt s b).live) then s
  else
    let v := voteValue s
    let s := { s with verdict.mode := .voted, verdict.vote := v, verdict.votedAt := s.pace.now }
    voteAdvance (trace s 0 4 s.verdict.last (b2n v)))

/-- `STV_RESULT` (R287). -/
def execStvResult (n : Nat) (result : Bool) (s : State) : Out := .next (stvRecord s n result)

/-- `STV_TIMEOUT` (R288). -/
def execStvTimeout (now : Nat) (s : State) : Out :=
  let s := clock s now
  .next (if s.verdict.mode = .voted ∧ s.verdict.timedOut = false ∧ elapsedMs s s.verdict.votedAt (inForce s 0x508003) then
    pitEvent (irq { s with verdict.timedOut := true } 0x112) 0x0502 0xFFFF 0 0 s.verdict.last
  else s)

/-- `STV_ABANDON` (R288): the wait for a result ends, and the step is skipped on this module alone. -/
def execStvAbandon (w : ObjWrite) (s : State) : Out :=
  .next (objWrite s w 0x508008 0 fun s =>
    if s.verdict.mode ≠ .voted ∨ leNat w.val ≠ s.verdict.last then (0x42, s)
    else (0, skipStep { s with verdict.mode := .recorded, verdict.result := false, verdict.abandoned := true } 5))

/-- `DNY_VOTE` (R367): a child's vote on its way up, or the result on its way down. -/
def execDnyVote (p now : Nat) (pkt : Packet) (up : Bool) (step : Nat) (vote : Bool) (s : State) : Out :=
  .next (arrive s p now pkt 0x1A fun s =>
    if up then
      if s.red.votes.any fun x => x.1 == step && x.2.1 == pkt.src then s
      else voteAdvance { s with red.votes := s.red.votes ++ [(step, pkt.src, vote)] }
    else stvRecord s step vote)

end Sys2Proof.Machine
end

