-- ==== Sys2Proof/Machine/Seal.lean ====
section
/-!
DEFINITION. Sealing channels (chapter 16, R503 to R507; R528, R530), and the bulk packets and their answers (R356).
-/
namespace Sys2Proof.Machine
open Sys2Proof

/-! ### Channels (R504 to R507) -/

/-- Sealing channel 16t + c. -/
def chan (s : State) (c : Nat) : Channel := mget s.channels c {}
/-- The state with a channel replaced. -/
def setChan (s : State) (c : Nat) (x : Channel) : State := { s with channels := mset s.channels c x }
/-- Register address of a channel. -/
def chanReg (c : Nat) : Nat := 0x0F0026000000 + c / 16 * 2 ^ 32 + c % 16 * 0x40
/-- The CVU a channel passes its plaintext through. -/
def Channel.unit (x : Channel) (c : Nat) : Nat := 64 * (c / 16) + x.cvu
/-- Issuer of a channel's accesses. -/
def Channel.iss (x : Channel) (c : Nat) : Issuer := { kind := .sealing, unit := c, part := some x.part }

/-- `SIG_CTRL` fields of a written value. -/
def Channel.withCtrl (x : Channel) (v : Nat) : Channel :=
  { x with
    en := bit v 63
    dir := bit v 62
    keySlot := fld v 61 56
    part := fld v 55 52
    cvuEn := bit v 51
    cvu := fld v 50 45
    salt := fld v 31 0 }
/-- `SIG_CTRL`. -/
def Channel.ctrl (x : Channel) : Nat :=
  b2n x.en * 2 ^ 63 + b2n x.dir * 2 ^ 62 + x.keySlot * 2 ^ 56 + x.part * 2 ^ 52 + b2n x.cvuEn * 2 ^ 51 + x.cvu * 2 ^ 45 + x.salt

/-- Whether a key slot holds a key for a direction and partition. -/
def keyFor (s : State) (x : Channel) : Bool :=
  let k := mget s.trust.keys x.keySlot {}
  k.valid && k.part == x.part && bit k.use (b2n x.dir)

/-- Status of setting `EN` (R507, R528, R531): `BAD_VALUE` 0x42, `BLOCK_RUNNING` 0x45, or `OK`. -/
def enableCheck (s : State) (c : Nat) (x : Channel) : Nat :=
  if !keyFor s x || !inWindows s x.part x.base 1 (if x.dir then 4 else 2) || (x.cvuEn && cvuBad (cvu s (x.unit c)) x.part) then 0x42
  else if x.cvuEn && (cvu s (x.unit c)).busy then 0x45 else 0

/-- Take the channel's CVU for its job. -/
def takeCvu (s : State) (c : Nat) (x : Channel) : State :=
  if x.cvuEn then setCvu s (x.unit c) { cvu s (x.unit c) with busy := true, blocks := 0 } else s
/-- A channel's job ends with the clearing of `EN` (R528, R529). -/
def channelOff (s : State) (c : Nat) : State :=
  let x := chan s c
  let s := setChan s c { x with en := false }
  if x.en && x.cvuEn then cvuEnd s (x.unit c) else s

/-- Whether a write of `SIG_CTRL` changes a class S field. -/
def ctrlMoves (x : Channel) (v : Nat) : Bool := (x.withCtrl v).ctrl % 2 ^ 63 != x.ctrl % 2 ^ 63

/-- Header of a record (R503), which is the additional data of its tag. -/
def recHeader (n len : Nat) : List Byte := leBytes 8 n ++ leBytes 2 len ++ leBytes 6 0
/-- Nonce of record `n`. -/
def recNonce (x : Channel) (n : Nat) : List Byte := leBytes 4 x.salt ++ leBytes 8 n

/-- The ingest channel a bulk write is a record for (R504). -/
def ingestOf (s : State) (p : Packet) : Option Nat :=
  (List.range 64).find? fun c => let x := chan s c; x.en && !x.dir && x.base == p.offset && jkeyOf s x.part == p.jkey

/-- Take a sealed record at ingest channel `c` (R504, R505, R528, R530): the state and its completion status. -/
def takeRecord (s : State) (c : Nat) (p : Packet) : State × Nat :=
  let x := chan s c
  if keyFor s x = false then (s, 0x31)
  else
    let hdr := p.payload.take 16
    let n := leNat (hdr.take 8)
    let len := leNat ((hdr.drop 8).take 2)
    let ct := (p.payload.drop 16).take (p.payload.length - 32)
    let tag := p.payload.drop (p.payload.length - 16)
    let key := (mget s.trust.keys x.keySlot {}).key
    let plain := if p.payload.length = len + 32 ∧ len ≤ 1984 ∧ p.poison = false then Config.gcmOpen key (recNonce x n) hdr ct tag else none
    match plain with
    | none =>
      let s := setChan s c { x with fails := x.fails + 1 }
      (pitEvent s 0x0701 c 0x30 x.base n, 0x30)
    | some d =>
      let a := x.base + n * 1984
      if x.base + x.limit < a + len then (s, 5)
      else if inbound s p.jkey a len true = false then (s, 0x14)
      else
        let st := accessStatus s (x.iss c) .store a (max 1 len)
        if st ≠ 0 then (s, st)
        else
          let r := if x.cvuEn then cvuBlock s (x.unit c) (x.iss c) n a d else (s, 0)
          if r.2 = 0x32 then (r.1, 0x32)
          else if r.2 ≠ 0 then (channelOff r.1 c, r.2)
          else
            let w := (cuts a d.length).foldl (fun (acc : State × Nat) q =>
              let m := memWrite acc.1 q.1 ((d.drop (q.1 - a)).take q.2) false
              (m.1, if acc.2 = 0 then m.2 else acc.2)) (r.1, 0)
            (setChan w.1 c { chan w.1 c with records := (chan w.1 c).records + 1 }, w.2)

/-- Whether a bulk write would wait at a stack where it writes: a record's plaintext, or its own bytes (R61, R70). -/
def bwrWaits (s : State) (p : Packet) : Bool :=
  match ingestOf s p with
  | some c => bulkWaits s ((chan s c).base + leNat (p.payload.take 8) * 1984) (leNat ((p.payload.drop 8).take 2))
  | none => bulkWaits s p.offset p.payload.length

/-- `SEALED_RECORD` (R504, R505). -/
def execSealedRecord (pt now : Nat) (p : Packet) (s : State) : Out :=
  .next (if bwrWaits s p then clock s now
  else arrive s pt now p 8 fun s =>
    match ingestOf s p with
    | none => s
    | some c => let r := takeRecord s c p; answer r.1 pt (replyTo r.1 p 0xC r.2 [] false p.ecn))

/-- Seal and send or write one record of a job (R506): the state and its status; a remote record is answered later. -/
def sealOne (s : State) (c n : Nat) : State × Nat :=
  let x := chan s c
  let a := x.base + n * 1984
  let len := min 1984 (x.limit - n * 1984)
  let r := (cuts a len).foldl (fun (acc : State × List Byte × Nat) q =>
    let l := load acc.1 (x.iss c) q.1 q.2
    (l.1, acc.2.1 ++ l.2.2.1, if acc.2.2 = 0 then l.2.1 else acc.2.2)) (s, [], 0)
  if r.2.2 ≠ 0 then (r.1, r.2.2)
  else
    let v := if x.cvuEn then cvuBlock r.1 (x.unit c) (x.iss c) n a r.2.1 else (r.1, 0)
    if v.2 ≠ 0 ∧ v.2 ≠ 0x32 then v
    else
      let s := v.1
      let key := (mget s.trust.keys x.keySlot {}).key
      let e := Config.gcmSeal key (recNonce x n) (recHeader n len) r.2.1
      let body := padTo 2048 (recHeader n len ++ e.1 ++ e.2)
      let d := x.dest % 2 ^ 48 + n * 2048
      let node := fld x.dest 61 48
      if fld x.dest 63 62 = 1 ∧ node ≠ nodeId s then
        let p : Packet := { cls := 1, type := 8, dst := node, src := nodeId s, engine := 0x42C + c / 16, seq := 0, offset := d, jkey := jkeyOf s x.part, aux := n, payload := body }
        let st := sourceStatus s p
        if podOf node ≠ podOf (nodeId s) then (s, 0x13)
        else if st ≠ 0 then (s, st)
        else (newRequest s { id := 0, pkt := p, sealCh := some c }, 0)
      else if x.dest / 2 ^ 48 ≠ 0 ∧ fld x.dest 63 62 ≠ 1 then (s, 4)
      else
        let w := (cuts d 2048).foldl (fun (acc : State × Nat) q =>
          let m := store acc.1 (x.iss c) q.1 ((body.drop (q.1 - d)).take q.2)
          (m.1, if acc.2 = 0 then m.2 else acc.2)) (s, 0)
        if w.2 = 0 then (setChan w.1 c { chan w.1 c with records := (chan w.1 c).records + 1 }, 0) else w

/-- Whether record `n` of a job would wait at a stack: where its plaintext is read or its sealed form is stored (R61, R70). -/
def sealWaits (s : State) (x : Channel) (n : Nat) : Bool :=
  bulkWaits s (x.base + n * 1984) (min 1984 (x.limit - n * 1984))
    || (decide (fld x.dest 63 62 ≠ 1 ∨ fld x.dest 61 48 = nodeId s) && bulkWaits s (x.dest % 2 ^ 48 + n * 2048) 2048)

/-- A seal job goes on with its records, in order, until one would wait, fails, or all are sealed (R506). -/
def sealMore (s : State) (c : Nat) : State :=
  (List.range (cdiv (chan s c).limit 1984 - (chan s c).next)).foldl (fun s _ =>
    let x := chan s c
    if x.status ≠ 0 ∨ sealWaits s x x.next then s
    else
      let r := sealOne s c x.next
      setChan r.1 c { chan r.1 c with next := x.next + 1, status := r.2 }) s

/-- A write of `SIG_CTRL` (R475, R506, R507): status and state. A changed class S field of an enabled channel is
refused; setting `EN` starts ingest or the seal job, whose first status other than `OK` ends it; clearing it ends the
channel's use. -/
def sigWrite (s : State) (ch v : Nat) : Nat × State :=
  let x := chan s ch
  let y := x.withCtrl v
  if x.en && ctrlMoves x v then (0x45, s)
  else if x.en then (0, if y.en then s else channelOff s ch)
  else if y.en = false then (0, setChan s ch y)
  else
    let st := enableCheck s ch y
    if st ≠ 0 then (st, s)
    else
      let s := takeCvu (setChan s ch { y with records := 0, status := 0, next := 0 }) ch y
      (0, if y.dir then sealMore s ch else s)

/-- A store of `SIG_CTRL` that sets `EN` with direction `dir`. -/
def sigStart (s : State) (ch : Nat) (v : W64) (dir : Bool) : State :=
  if bit v.toNat 63 = false ∨ bit v.toNat 62 ≠ dir then s
  else
    let r := sigWrite s ch v.toNat
    if r.1 = 0 then r.2 else regReject s (chanReg ch)

/-- `SIG_CHANNEL_ENABLE` (R507): a write of `SIG_CTRL` with `EN` = 1 and `DIR` = 0. -/
def execSigChannelEnable (ch : Nat) (v : W64) (s : State) : Out := .next (sigStart s ch v false)

/-- `SEAL_JOB_START` (R506): a write of `SIG_CTRL` with `EN` = 1 and `DIR` = 1. -/
def execSealJobStart (ch : Nat) (v : W64) (s : State) : Out := .next (sigStart s ch v true)

/-- A remote record of a seal job is answered. -/
def sealAck (s : State) (c st : Nat) : State :=
  let x := chan s c
  setChan s c (if st = 0 then { x with records := x.records + 1 } else { x with status := if x.status = 0 then st else x.status })

/-- `SEAL_JOB_COMPLETE` (R506, R528): a job that waited at a stack goes on; it completes once every record is sealed and
acknowledged. -/
def execSealJobComplete (ch : Nat) (s : State) : Out :=
  .next (if (chan s ch).en = false ∨ (chan s ch).dir = false then s
  else
    let s := if alive s then sealMore s ch else s
    let x := chan s ch
    if (x.status = 0 ∧ x.next < cdiv x.limit 1984) ∨ (s.requests.any fun (r : Request) => r.sealCh == some ch) then s
    else post (channelOff s ch) (x.iss ch) (x.compl % 2 ^ 48) (leBytes 8 (x.status * 2 ^ 48 + x.records % 2 ^ 48)))

/-! ### Bulk writes and answers (R356) -/

/-- A bulk write's data in pieces of one unit and one tag (R82): address, bytes, tag. -/
def bwrPieces (pkt : Packet) : List (Nat × List Byte × Bool) :=
  let n := pkt.payload.length
  let bad := fun i => pkt.poison && (pkt.pz.isEmpty || pkt.pz.contains i)
  (cuts pkt.offset n).flatMap fun q =>
    let at_ := q.1 - pkt.offset
    (List.range q.2).foldr (fun j ps =>
      let b := pkt.payload.getD (at_ + j) 0#8
      match ps with
      | (a, bs, t) :: more => if t = bad (at_ + j) then (q.1 + j, b :: bs, t) :: more else (q.1 + j, [b], bad (at_ + j)) :: (a, bs, t) :: more
      | [] => [(q.1 + j, [b], bad (at_ + j))]) []

/-- `DNY_BWR` (R338, R339, R356, R504; log 36): plain writes, or a sealed record where it is one; it stays in the input buffer
while a local write would wait. -/
def execDnyBwr (p now : Nat) (pkt : Packet) (s : State) : Out :=
  .next (if bwrWaits s pkt then clock s now
  else arrive s p now pkt 8 fun s =>
    match ingestOf s pkt with
    | some c => let r := takeRecord s c pkt; answer r.1 p (replyTo r.1 pkt 0xC r.2 [] false pkt.ecn)
    | none =>
      let n := pkt.payload.length
      let st := remoteStatus s p pkt .store pkt.offset n
      if st ≠ 0 ∨ n = 0 then answer s p (replyTo s pkt 0xC st [] false pkt.ecn)
      else
        let r := (bwrPieces pkt).foldl (fun (acc : State × Nat) q =>
          let m := memWrite acc.1 q.1 q.2.1 q.2.2
          (m.1, if acc.2 = 0 then m.2 else acc.2)) (s, 0)
        answer r.1 p (replyTo r.1 pkt 0xC r.2 [] false pkt.ecn))

/-- A bulk request of this node completes with a status: its run, read, share, push, record or copy goes on. -/
def bulkEnd (s : State) (r : Request) (st : Nat) : State :=
  let s := dropReq s r.id
  let s := match r.run with
    | some (t, id) =>
      if isFault st then
        match (hf s t).runs.find? fun q => q.id == id with
        | some q => runsDone (failRun s t q st) t
        | none => s
      else endRun s t id
    | none => s
  let s := match r.read with
    | some (t, w) => endRead s r t w st [] false
    | none => s
  let s := match r.bucket with
    | some (b, _) => endShare s b st r.pkt
    | none => s
  let s := match r.sealCh with
    | some c => sealAck s c st
    | none => s
  pump (if r.push.isSome then endPush s r st else s)

/-- `DNY_BACK` (R356). -/
def execDnyBack (p now : Nat) (pkt : Packet) (s : State) : Out :=
  .next (arrive s p now pkt 0xC fun s =>
    let r := match matching s pkt.engine pkt.seq 8 with
      | some r => some r
      | none => matching s pkt.engine pkt.seq 9
    match r with
    | some r => bulkEnd (windowReply s 1 pkt.engine r.pkt.dst pkt.ece) r pkt.status
    | none => s)

/-- `BULK_TIMEOUT` (R356): unanswered for 1 ms, or not sent for want of a route. -/
def execBulkTimeout (i now : Nat) (s : State) : Out :=
  let s := clock s now
  .next (match s.requests.find? fun (r : Request) => r.id == i && r.pkt.cls == 1 && !r.passing with
  | none => s
  | some r =>
    if r.held = .sent ∧ r.issued + 1000000 ≤ s.pace.now then bulkEnd s r 0x11
    else if r.held ≠ .sent ∧ r.heldSince + 1000000 ≤ s.pace.now ∧ sourceStatus s r.pkt ≠ 0 then bulkEnd s r (sourceStatus s r.pkt)
    else s)

end Sys2Proof.Machine
end

