-- ==== Sys2Proof/Machine/Registers.lean ====
section
/-!
DEFINITION. Register space (R3, R4, R475, R565): every register of the manual's register maps, its value, and what a
write of it does under the apply class of each of its fields. The maps are R126, R206, R233, R258, R289 (cluster and
step blocks), Table 2.5 and 2.6 (joints), R274, R315, R371, R372, R404, R417, R428, R430, R454, R458, R507, R525, R539.
-/
namespace Sys2Proof.Machine
open Sys2Proof

/-! ### Places (R126 and the register maps) -/

/-- What an 8 B word of register space holds. Numbers name the tower, unit or entry, and the word in its block. -/
inductive Reg where
  | joint (t j : Nat)
  | shafts (t off : Nat)
  | bktDesc (b w : Nat)
  | bktReady (t : Nat)
  | bktStatus (b : Nat)
  | ue (n w : Nat)
  | port (p w : Nat)
  | cq (q w : Nat)
  | logEntry (t i w : Nat)
  | logIndex (t : Nat)
  | traceIndex (t : Nat)
  | sig (ch w : Nat)
  | cvu (u w : Nat)
  | cluster (c w : Nat)
  | stv (w : Nat)
  | hfWin (w half : Nat)
  | beat
  | pace (w : Nat)
  | pcs (e w : Nat)
  | localBase
  | localBell
  | pitWord (i w : Nat)
  | pitHead
  | pitDropped
  | none
deriving DecidableEq, Repr

/-- Register of a word in a tower's L0 window, by its offset. -/
def towerReg (t o : Nat) : Reg :=
  let b := o / 2 ^ 24
  let f := o % 2 ^ 24
  if b = 0x20 then
    if f < 0x30 then .joint t (f / 8) else if 0x1000 ≤ f ∧ f < 0x1C80 then .shafts t (f - 0x1000) else .none
  else if b = 0x21 then
    if f < 0x1000 then .bktDesc (64 * t + f / 64) (f / 8 % 8) else if f = 0x1000 then .bktReady t
    else if 0x1100 ≤ f ∧ f < 0x1300 then .bktStatus (64 * t + (f - 0x1100) / 8) else .none
  else if b = 0x22 then
    let w := f % 65536 / 8
    if f < 0x20000 ∧ (w = 0 ∨ w = 2 ∨ w = 3 ∨ (32 ≤ w ∧ w ≤ 38)) then .ue (2 * t + f / 65536) w else .none
  else if b = 0x23 then if f < 0x800 ∧ f % 256 < 0x40 then .port (8 * t + f / 256) (f % 256 / 8) else .none
  else if b = 0x24 then
    let q := 64 * t + 16 * (f / 4096) + f % 4096 / 32
    if f < 0x4000 ∧ f % 4096 < 0x200 ∧ f % 32 < 0x18 then .cq q (f % 32 / 8) else .none
  else if b = 0x25 then
    if f < 0x40000 then .logEntry t (f / 64) (f / 8 % 8) else if f = 0x40000 then .logIndex t else if f = 0x40008 then .traceIndex t else .none
  else if b = 0x26 then if f < 0x400 ∧ f % 64 < 0x30 then .sig (16 * t + f / 64) (f % 64 / 8) else .none
  else if b = 0x27 then if f < 0x1000 then .cvu (64 * t + f / 64) (f % 64 / 8) else .none
  else .none

/-- Register of a word in a cluster's block. -/
def clusterReg (c f : Nat) : Reg :=
  let w := f / 8
  if [0x000, 0x008, 0x100, 0x108, 0x110, 0x118, 0x120, 0x200, 0x208, 0x210, 0x218, 0x220, 0x300, 0x308, 0x310, 0xC00, 0xC08, 0xC10].contains f
      || (decide (0x400 ≤ f) && decide (f < 0xC00)) then .cluster c w else .none

/-- Register of a word in the module-wide blocks. -/
def moduleReg (o : Nat) : Reg :=
  let b := o / 2 ^ 20
  let f := o % 2 ^ 20
  if b = 1 then if f < 0x30 then .stv (f / 8) else .none
  else if b = 2 then if f < 0x100 then .hfWin (f / 16) (f / 8 % 2) else .none
  else if b = 3 then if f = 0 then .beat else .none
  else if b = 4 then
    if f < 0x10 then .pace (f / 8) else if 0x1000 ≤ f ∧ f < 0x1800 then .pcs ((f - 0x1000) / 32) (f / 8 % 4) else .none
  else if b = 5 then if f = 0 then .localBase else if f = 8 then .localBell else .none
  else if b = 6 then .pitWord (f / 256) (f / 8 % 32)
  else if b = 7 then if f = 0 then .pitHead else if f = 8 then .pitDropped else .none
  else .none

/-- The register of the 8 B word at an address. -/
def regAt (a : Nat) : Reg :=
  if a < 0x0F0000000000 then .none else
  let t := (a - 0x0F0000000000) / 2 ^ 32
  let o := a % 2 ^ 32 / 8 * 8
  if t = 8 then moduleReg o
  else if 4 ≤ t then .none
  else
    let l := o / 2 ^ 30
    if l = 0 then towerReg t o
    else
      let k := o % 2 ^ 30 / 2 ^ 24
      if l = 1 ∨ 16 ≤ k then .none else clusterReg (32 * t + 16 * (l - 2) + k) (o % 2 ^ 24)

/-! ### Values -/

/-- `SHF_JOINT_STATUS` (Table 2.5). -/
def jointWord (s : State) (t j : Nat) : Nat :=
  let n := fun (f : Shaft → Bool) => ((tow s t).shafts.filter fun (x : Nat × Shaft) => x.1 / 1024 == j && f x.2).length
  b2n (decide (retireLimit j < retiredCount s t j)) * 2 ^ 63 + n (fun x => x.mode == .retired) * 2 ^ 37
    + n (fun x => x.mode == .halfLower || x.mode == .halfUpper) * 2 ^ 26 + n (fun x => x.mode == .spared) * 2 ^ 15 + shaftCountOf j

/-- `SHF_SHAFT_STATE` at an offset of the shaft states: the joint directions follow one another at their bases. -/
def shaftByte (s : State) (t off : Nat) : Nat :=
  let bases := [0x000, 0x100, 0x200, 0x340, 0x480, 0x880, 0xC80]
  let j := ((List.range 6).find? fun j => decide (off < bases.getD (j + 1) 0)).getD 0
  (shaft s t j (off - bases.getD j 0)).word

/-- `CLU_SCHED_CFG`: the last value written of each field (Table 4.8). -/
def schedCfg (x : Cluster) : Nat :=
  2 ^ 32 * (mget x.waitCfg 1 x.rotLimit % 2 ^ 12) + 2 ^ 16 * (mget x.waitCfg 2 x.barTimeout % 2 ^ 16) + b2n x.l1Enable
/-- `MXA_CFG` (Table 6.10). -/
def mxaCfg (x : Cluster) : Nat := mget x.waitCfg 4 (b2n x.cplx3) % 2 * 2 ^ 16 + mget x.waitCfg 3 x.holdWindow % 2 ^ 16

/-- `CLU_STATUS` (Table 4.7). -/
def cluStatus (x : Cluster) : Nat :=
  let m := match x.mode with
    | .idle => 0 | .running => 1 | .held => 2 | .retired => 3
  m * 2 ^ 62 + x.crews.length * 2 ^ 46
    + (List.range 16).foldl (fun v b => if (mget x.barriers b {}).held.isEmpty then v else v + 2 ^ b) 0 * 2 ^ 30

/-- `TRN_LANE` (Table 9.6). -/
def trnLane (s : State) (x : Cluster) : Nat :=
  let g := (x.crews.filter fun (p : Nat × Crew) => (krn s p.2.kernel).lane == 2).length
  b2n (x.kernels.any fun k => (krn s k).lane != 0) * 2 ^ 63 + g * 2 ^ 8 + (x.crews.length - g)

/-- Word `w` of a cluster's block. -/
def clusterWord (s : State) (c w : Nat) : Nat :=
  let x := clu s c
  if 0x80 ≤ w ∧ w < 0x180 then
    let y := mget x.assay ((w - 0x80) / 4) {}
    match w % 4 with
    | 0 => y.elems | 1 => y.zeros | 2 => y.sat | _ => y.nonfin
  else match w with
    | 0x00 => cluStatus x
    | 0x01 => schedCfg x
    | 0x20 => mxaStatus s x
    | 0x21 => mxaCfg x
    | 0x22 => x.mxaBusy
    | 0x23 => x.mxaDummy
    | 0x24 => x.mxaIxOor
    | 0x40 => accStatus x
    | 0x41 => mget x.waitCfg 5 (b2n x.fp16)
    | 0x42 => x.accSat
    | 0x43 => x.accOutOor
    | 0x44 => x.accIxDrop
    | 0x61 => (List.range 64).foldl (fun v i => if (mget x.assay i {}).nonfin = 0 then v else v + 2 ^ i) 0
    | 0x62 => x.vecSat
    | 0x180 => wgbStatus x
    | 0x181 => x.wgbSat
    | 0x182 => trnLane s x
    | _ => 0

/-- `BKT_STATUS` (Table 9.8). -/
def bktStatus (x : Bucket) : Nat :=
  let m := match x.mode with
    | .idle => 0 | .armed => 1 | .ready => 2 | .shipping => 3 | .shipped => 4 | .landed => 5 | .failed => 6
  m * 2 ^ 61 + b2n x.poison * 2 ^ 60 + x.ready % 2 ^ 16 * 2 ^ 44 + x.shares.length % 2 ^ 15 * 2 ^ 29 + x.status % 2 ^ 16 * 2 ^ 13

/-- `UE_STATUS` (Table 10.7). -/
def ueStatus (u : Ue) : Nat :=
  let m := match u.mode with
    | .idle => 0 | .pass1 => 1 | .waiting => 2 | .factored => 3 | .pass2 => 4 | .completing => 5 | .paused => 6
  m * 2 ^ 61 + u.last % 8 * 2 ^ 58 + u.groups % 2 ^ 13 * 2 ^ 45 + u.doneGroups.length % 2 ^ 13 * 2 ^ 32 + u.failedGroups.length % 2 ^ 13 * 2 ^ 19

/-- Word `w` of an update engine's block (R315). -/
def ueWord (u : Ue) (w : Nat) : Nat :=
  match w with
  | 0 => ueStatus u
  | 3 => u.norm2.toNat
  | 32 => u.elems
  | 33 => u.zeros
  | 34 => u.sat
  | 35 => u.nonfin
  | 36 => u.poison
  | 37 => u.ixDup
  | 38 => u.ixOor
  | _ => 0

/-- `DNY_PORT_STATUS` and the counters of a port (R371). -/
def portWord (x : Port) (w : Nat) : Nat :=
  match w with
  | 0 =>
    let m := match x.mode with
      | .dark => 0 | .training => 1 | .active => 2 | .degraded => 3 | .disabled => 4 | .failed => 5
    m * 2 ^ 61 + x.wlTx.toNat * 2 ^ 53 + x.wlRx.toNat * 2 ^ 45 + x.peerNode % 2 ^ 14 * 2 ^ 31 + x.peerPort % 32 * 2 ^ 26 + b2n x.enc * 2 ^ 25 + x.cause % 32 * 2 ^ 20
  | 1 => x.corr
  | 2 => x.uncorr
  | 3 => x.replays
  | 4 => x.dropped
  | 5 => x.ecnMarked
  | 6 => x.replayHits
  | _ => x.combined

/-- `STV_STATUS` (Table 9.9). -/
def stvStatus (v : Verdict) : Nat :=
  let m := match v.mode with
    | .noStep => 0 | .opened => 1 | .voted => 2 | .recorded => 3
  m * 2 ^ 62 + b2n v.result * 2 ^ 61 + b2n v.vote * 2 ^ 60 + b2n v.timedOut * 2 ^ 59 + b2n v.noneOpened * 2 ^ 58

/-- `PACE_STATUS` (Table 14.9): the offset saturates at 32 bits. -/
def paceStatus (s : State) : Nat :=
  let p := s.pace
  let m := match p.mode with
    | .freerun => 0 | .acquiring => 1 | .locked => 2 | .holdover => 3
  m * 2 ^ 62 + cfg s 0x200001 % 4 * 2 ^ 60 + b2n p.behind * 2 ^ 59 + p.stratum % 16 * 2 ^ 55 + wrap 32 (max (-2 ^ 31) (min (2 ^ 31 - 1) p.offset))

/-- `CVU_CFG` (Table 17.1). -/
def cvuCfg (x : Cvu) : Nat :=
  x.width % 128 * 2 ^ 57 + b2n x.reflect * 2 ^ 56 + b2n x.invert * 2 ^ 55 + x.mode % 4 * 2 ^ 53 + x.tallyW % 4 * 2 ^ 51 + x.pos % 4 * 2 ^ 49
    + x.blk % 16 * 2 ^ 45 + x.part % 16 * 2 ^ 41
/-- `CVU_CFG` fields of a written value. -/
def Cvu.withCfg (x : Cvu) (v : Nat) : Cvu :=
  { x with
    width := fld v 63 57
    reflect := bit v 56
    invert := bit v 55
    mode := fld v 54 53
    tallyW := fld v 52 51
    pos := fld v 50 49
    blk := fld v 48 45
    part := fld v 44 41 }

/-- Word `w` of a CVU (R525). -/
def cvuWord (x : Cvu) (w : Nat) : Nat :=
  match w with
  | 0 => cvuCfg x
  | 1 => x.poly
  | 2 => x.init
  | 3 => x.exp
  | 4 => x.tally
  | 5 => b2n x.busy * 2 ^ 63 + x.blocks % 2 ^ 48
  | 6 => x.last
  | _ => x.mismatch

/-- `CML_LOCAL_BASE` (Table 15.1). -/
def localWord (x : LocalChannel) : Nat := b2n x.en * 2 ^ 63 + x.base

/-- The value of a register; none where the manual gives the word no content (log 11). -/
def regValue (s : State) (a : Nat) : Option Nat :=
  match regAt a with
  | .joint t j => some (jointWord s t j)
  | .shafts t off => some ((List.range 8).foldl (fun v i => v + shaftByte s t (off + i) * 2 ^ (8 * i)) 0)
  | .bktDesc b w => some (bw (bkt s b) w)
  | .bktReady _ => some 0
  | .bktStatus b => some (bktStatus (bkt s b))
  | .ue n w => some (ueWord (ue s n) w)
  | .port p w => some (portWord (prt s p) w)
  | .cq q w => some (match w with
      | 0 => (cq s q).ctrl
      | 1 => 0
      | _ => (cq s q).word)
  | .logEntry t i w =>
    match (mget s.fwLog t []).find? fun (e : FwLog) => e.seq % 4096 == i with
    | some e => some (match w with
        | 0 => e.seq * 2 ^ 32 + e.fwp * 2 ^ 24 + e.sev * 2 ^ 21 + e.code
        | 1 => e.pace
        | _ => (e.args.getD (w - 2) 0#64).toNat)
    | none => none
  | .logIndex t => some (mget s.fwLogSeq t 0 % 4096)
  | .traceIndex t => some (mget s.traceIndex t 0)
  | .sig ch w => some (match w with
      | 0 => (chan s ch).ctrl
      | 1 => (chan s ch).base
      | 2 => (chan s ch).limit
      | 3 => (chan s ch).dest
      | 4 => (chan s ch).compl
      | _ => (chan s ch).fails)
  | .cvu u w => some (cvuWord (cvu s u) w)
  | .cluster c w => some (clusterWord s c w)
  | .stv w => some (match w with
      | 0 => stvStatus s.verdict
      | 1 => s.verdict.last
      | _ => 0)
  | .hfWin w h => some (subNat (cfgB s (0x440001 + w)) (8 * h) 8)
  | .beat => some 0
  | .pace w => some (if w = 0 then s.pace.now else paceStatus s)
  | .pcs e w => some (match w with
      | 0 => (sched s e).ctrl
      | 1 => (sched s e).time
      | 2 => (sched s e).period
      | _ => (sched s e).arg)
  | .localBase => some (localWord s.localChan)
  | .localBell => some 0
  | .pitWord i w => (pitAt s i).map fun (r : PitRec) => subNat r.bytes (8 * w) 8
  | .pitHead => some (s.pit.written % 2 ^ 32 * 2 ^ 32 + s.pit.written % 4096)
  | .pitDropped => some s.pit.dropped
  | .none => none

/-- Read the 8 B word of register space that holds an address; a word without content reads as a free value (log 11). -/
def regRead (s : State) (a : Nat) : Nat × State :=
  match regValue s a with
  | some v => (v % 2 ^ 64, s)
  | none => draw s (2 ^ 64)

/-- Read `n` bytes of register space, at most 8 at a time, the lower address first (R565). -/
def regLoad (s : State) (a n : Nat) : List Byte × State :=
  let r := regRead s a
  if n ≤ 8 then (leBytes n (r.1 / 2 ^ (8 * (a % 8))), r.2)
  else
    let q := regRead r.2 (a + 8)
    (leBytes 8 r.1 ++ leBytes 8 q.1, q.2)

/-! ### Writes (R475, R565) -/

/-- Who writes a register: whether a control-complex core, and the session of a `DIAG_DATA` write. -/
structure RegBy where
  core : Bool
  diag : Option Nat := none
deriving DecidableEq, Repr

/-- A written value: bits the store does not cover keep the register's present ones (R565). -/
def merge (old v mask : Nat) : Nat := (old &&& (2 ^ 64 - 1 - mask)) ||| (v &&& mask)

/-- A class B field of a cluster, where the store covers one of its bits. -/
def writeField (x : Cluster) (key v mask hi lo : Nat) : Cluster := if fld mask hi lo = 0 then x else writeB x key (fld v hi lo)

/-- A write of `CLU_SCHED_CFG` (Table 4.8), with the word's other bits merged in. -/
def cfgWrite (s : State) (c v mask : Nat) : Nat × State :=
  let x := clu s c
  if bit v 0 != x.l1Enable && !x.free then (0x45, s)
  else
    let y := writeField (writeField x 1 v mask 43 32) 2 v mask 31 16
    (0, setClu s c { y with l1Enable := bit v 0, l1 := if bit v 0 then y.l1 else [] })

/-- A write of `MXA_CFG` (Table 6.10), with the word's other bits merged in. -/
def mxaWrite (s : State) (c v mask : Nat) : Nat × State :=
  (0, setClu s c (writeField (writeField (clu s c) 4 v mask 16 16) 3 v mask 15 0))

/-- Write word `w` of a cluster's block: status and state. -/
def clusterWrite (s : State) (c w v mask : Nat) : Nat × State :=
  let x := clu s c
  match w with
  | 0x01 => cfgWrite s c (merge (schedCfg x) v mask) mask
  | 0x21 => mxaWrite s c (merge (mxaCfg x) v mask) mask
  | 0x41 => (0, setClu s c (writeField x 5 (v &&& mask) mask 0 0))
  | 0x60 => (0, setClu s c (asyClear x (v &&& mask)))
  | _ => (0, s)

/-- Write word `w` of bucket `b`'s descriptor (R274): a word 0 with `ARM` arms it. -/
def bktWrite (s : State) (b w v mask : Nat) : Nat × State :=
  let x := bkt s b
  let v := merge (bw x w) v mask &&& bktMask w
  let d := lset x.desc w (BitVec.ofNat 64 v)
  if x.live then (if v = bw x w then 0 else 0x45, s)
  else if w = 0 ∧ bit v 63 then bucketArm s b d
  else (0, setBkt s b { x with desc := d })

/-- Write word `w` of a sealing channel (R507). -/
def sigWord (s : State) (ch w v mask : Nat) : Nat × State :=
  let x := chan s ch
  let put := fun (old : Nat) (f : Nat → Channel) =>
    let v := merge old v mask
    if x.en && v != old then (0x45, s) else (0, setChan s ch (f v))
  match w with
  | 0 => sigWrite s ch (merge x.ctrl v mask)
  | 1 => put x.base fun v => { x with base := v }
  | 2 => put x.limit fun v => { x with limit := v }
  | 3 => put x.dest fun v => { x with dest := v }
  | 4 => put x.compl fun v => { x with compl := v }
  | _ => (0, s)

/-- Write word `w` of a CVU (R525). -/
def cvuWrite (s : State) (u w v mask : Nat) : Nat × State :=
  let x := cvu s u
  let v := merge (cvuWord x w) v mask
  let y := match w with
    | 0 => x.withCfg v
    | 1 => { x with poly := v }
    | 2 => { x with init := v }
    | 3 => { x with exp := v % 2 ^ 48 }
    | 4 => { x with tally := v % 2 ^ 16 }
    | _ => x
  if x.busy && y != x then (0x45, s) else (0, setCvu s u y)

/-- The two words of a headframe window's registers without their reserved bits (R4, Tables 11.13, 11.14). -/
def hfWord (h v : Nat) : Nat := if h = 0 then fld v 63 62 * 2 ^ 62 + fld v 49 30 * 2 ^ 30 else fld v 63 50 * 2 ^ 50 + fld v 47 0

/-- Write half `h` of headframe window `w` (R372, R475): the shadow copy, only while the one who writes may. -/
def hfWrite (s : State) (who : RegBy) (w h v mask : Nat) : Nat × State :=
  let holds := match who.diag, s.quickset.holder with
    | some d, some k => d == k
    | none, some k => (mget s.sessions k {}).localPair.isSome
    | _, none => false
  if holds = false ∨ quicksetBusy s = true then (0x49, s)
  else
    let key := 0x440001 + w
    let b := padTo 16 (shadowB s key)
    let v := hfWord h (merge (subNat b (8 * h) 8) v mask)
    (0, { s with shadow := mset s.shadow key (if h = 0 then leBytes 8 v ++ b.drop 8 else b.take 8 ++ leBytes 8 v) })

/-- A write of `CML_LOCAL_BASE` (R458): an area that is not in the operating-system region leaves `EN` at 0, and `EN` 0
ends every local session. -/
def localBaseWrite (s : State) (v : Nat) : State :=
  let base := fld v 47 17 * 2 ^ 17
  let en := bit v 63 && inOs s base 0x20000
  let s := { s with localChan := if en && s.localChan.en && base == s.localChan.base then s.localChan else { en, base } }
  if en then s else endSessions s true

/-- A write of `CML_LOCAL_DOORBELL` (R458, R462): the requests of a ring pair up to `WRITE` are the server's; the pair's
session begins with the first. -/
def localBellWrite (s : State) (v : Nat) : State :=
  let j := fld v 4 3
  if s.localChan.en = false then s
  else
    let s := { s with localChan.writes := mset s.localChan.writes j (fld v 2 0) }
    if (mfind s.sessions j).isSome then s else startSession s j (some j) (cfg s 0x110003)

/-- Write the register that holds the word at an address, the bytes in `mask`: a status other than 0 says that the
register is unchanged and why. Fields that are read-only do not change. -/
def regWrite (s : State) (who : RegBy) (a v mask : Nat) : Nat × State :=
  match regAt a with
  | .bktDesc b w => bktWrite s b w v mask
  | .bktReady t => (0, addReady s (64 * t + fld (v &&& mask) 21 16) (fld (v &&& mask) 15 0))
  | .ue n w => (0, if w = 2 then gradReady s n ((v &&& mask) % 4096) else s)
  | .cq q w =>
    match w with
    | 0 => cqWrite s q (merge (cq s q).ctrl v mask)
    | 1 => (0, doorbell s q (v &&& mask))
    | _ => (0, s)
  | .sig ch w => sigWord s ch w v mask
  | .cvu u w => cvuWrite s u w v mask
  | .cluster c w => clusterWrite s c w v mask
  | .stv w =>
    match w with
    | 2 => stvOpen s (v &&& mask)
    | 3 => stvClose s (v &&& mask)
    | 4 => stvForceFail s (v &&& mask)
    | 5 => stvRebase s (v &&& mask)
    | _ => (0, s)
  | .hfWin w h => hfWrite s who w h v mask
  | .beat => (0, if who.core then beat s else s)
  | .pcs e w =>
    let x := sched s e
    match w with
    | 0 => schedWrite s e (merge x.ctrl v mask) x.time x.period x.arg
    | 1 => schedWrite s e x.ctrl (merge x.time v mask) x.period x.arg
    | 2 => schedWrite s e x.ctrl x.time (merge x.period v mask) x.arg
    | _ => schedWrite s e x.ctrl x.time x.period (merge x.arg v mask)
  | .localBase => (0, if who.core then localBaseWrite s (merge (localWord s.localChan) v mask) else s)
  | .localBell => (0, if who.core then localBellWrite s (v &&& mask) else s)
  | _ => (0, s)

/-- Bits of a word that `n` bytes at an address cover. -/
def coverMask (a n : Nat) : Nat := (2 ^ (8 * n) - 1) * 2 ^ (8 * (a % 8)) % 2 ^ 64

/-- Store at most 8 bytes into register space: a register that does not take the write is counted and recorded, and the
store completes with `OK` (R475). -/
def regStore8 (s : State) (who : RegBy) (a : Nat) (bs : List Byte) : State :=
  let r := regWrite s who (a / 8 * 8) (leNat bs * 2 ^ (8 * (a % 8))) (coverMask a bs.length)
  if r.1 = 0 then r.2 else regReject s a

/-- Store into register space; 16 B go as two 8 B stores, the lower address first (R565). -/
def regStore (s : State) (who : RegBy) (a : Nat) (bs : List Byte) : State :=
  if bs.length ≤ 8 then regStore8 s who a bs else regStore8 (regStore8 s who a (bs.take 8)) who (a + 8) (bs.drop 8)

/-- Who writes for an issuer. -/
def regBy (iss : Issuer) : RegBy := { core := iss.kind == .core }

/-! ### Rows -/

/-- `REGISTER_WRITE` (R475): a store of `size` bytes whose checks pass (R54, R140, R482, R40). -/
def execRegisterWrite (iss : Issuer) (addr size : Nat) (v : W64) (s : State) : Out :=
  .next (if alive s = false ∨ home s addr ≠ .regs ∨ accessStatus s iss .store addr size ≠ 0 then s
  else regStore s (regBy iss) addr (leBytes size v.toNat))

/-- `CML_LOCAL_BASE` (R458): only a write from a control-complex core counts. -/
def execCmlLocalBase (core : Bool) (v : W64) (s : State) : Out := .next (if core then localBaseWrite s v.toNat else s)

/-- `CML_LOCAL_DOORBELL` (R458): only a write from a control-complex core counts. -/
def execCmlLocalDoorbell (core : Bool) (v : W64) (now : Nat) (s : State) : Out :=
  let s := clock s now
  .next (if core then localBellWrite s v.toNat else s)

/-- `DIAG_DATA` (R475, R489): all 8 B are written; a register that does not take the write gives its status to the
session. -/
def execDiagData (w : ObjWrite) (s : State) : Out :=
  .next (objWrite s w 0xF00002 0 fun s =>
    let a := (mget s.sessions w.sid {}).diagAddr
    if a % 8 ≠ 0 ∨ home s a ≠ .regs then (0x42, s)
    else regWrite s { core := false, diag := some w.sid } a (leNat w.val) (2 ^ 64 - 1))

end Sys2Proof.Machine
end

