-- ==== Sys2Proof/Machine/Trust.lean ====
section
/-!
DEFINITION. Measurements, attestation, images, data keys and retirement (chapter 16, R490 to R502, R508, R518, R519,
R521). SPDM messages have the layouts of DSP0274 1.3, which the manual names and does not print (PRESUMED, log 24).
-/
namespace Sys2Proof.Machine
open Sys2Proof

/-! ### Measurements (R493, R494) -/

/-- Measurement register `i`; zero at module reset. -/
def mr (s : State) (i : Nat) : List Byte := mget s.trust.mr i (List.replicate 48 0#8)

/-- MRi := SHA-384(MRi ‖ d). -/
def mrExtend (s : State) (i : Nat) (d : List Byte) : State :=
  { s with trust.mr := mset s.trust.mr i (Config.sha384 (mr s i ++ d)) }

/-- The partition digest Dp that the active values and MR8 to MR15 give; p is hashed as one byte (log 24). -/
def digestOf (s : State) (p : Nat) : List Byte :=
  Config.sha384 (leBytes 1 p ++ ([1, 2, 3, 4].flatMap fun sub => cfgB s (partKey p sub)) ++ ((List.range 8).flatMap fun i => mr s (8 + i)))

/-- The digest kept for partition `p`. -/
def dp (s : State) (p : Nat) : List Byte := mget s.trust.dp p []

/-- An erased key slot. -/
def eraseKey (s : State) (k : Nat) : State := { s with trust.keys := mdel s.trust.keys k }

/-- `SEC0` recomputes every Dp and erases each key bound to a digest that no longer holds (R494, R502). -/
def recomputeDp (s : State) : State :=
  let s := { s with trust.dp := (List.range 16).map fun p => (p, digestOf s p) }
  { s with trust.keys := s.trust.keys.filter fun k => k.2.dp == dp s k.2.part }

/-- `MR_EXTEND` (R493, R502). -/
def execMrExtend (w : ObjWrite) (s : State) : Out :=
  .next (objWrite s w 0x700004 0 fun s =>
    let i := subNat w.val 0 1
    if w.val.length ≠ 49 then (0x41, s)
    else if i < 8 ∨ 15 < i then (0x42, s)
    else (0, recomputeDp (mrExtend s i (w.val.drop 1))))

/-! ### SPDM (R492, R495, R496) -/

/-- Certificate chain of a slot, empty where the slot is (R492). -/
def certChain (s : State) (slot : Nat) : List Byte :=
  let ak := Config.akCert (s.trust.ak.getD 0)
  if slot = 0 then Config.deviceChain ++ ak
  else if slot = 1 ∧ cfgB s 0x700002 ≠ [] then cfgB s 0x700002 ++ ak
  else []

/-- The response waits in the session's mailbox for the following `GET`. -/
def spdmAnswer (s : State) (sid : Nat) (r : List Byte) : State :=
  match mfind s.sessions sid with
  | some x => { s with sessions := mset s.sessions sid { x with spdm := r, lastMsg := s.pace.now } }
  | none => s

/-- An SPDM request of a session, executed by `run`, is held while `SEC0` restarts (R15). -/
def spdmServe (s : State) (sid code : Nat) (body : List Byte) (run : State) : State :=
  if (mfind s.sessions sid).isNone then s else if serves s 0 then run else hold s 0 (.spdm sid code body)

/-- An SPDM 1.3 header. -/
def spdmHead (code p1 p2 : Nat) : List Byte := leBytes 1 0x13 ++ leBytes 1 code ++ leBytes 1 p1 ++ leBytes 1 p2

/-- An SPDM `ERROR`: 0x01 InvalidRequest, 0x07 UnsupportedRequest. -/
def spdmError (e data : Nat) : List Byte := spdmHead 0x7F e data

/-- 32 free bytes: a nonce of `SEC0`'s generator. -/
def drawNonce (s : State) : List Byte × State :=
  (leBytes 32 (Config.freeNat s.free), { s with free := s.free + 1 })

/-- `GET_VERSION`: version 1.3 only. -/
def execGetVersion (sid : Nat) (body : List Byte) (s : State) : Out :=
  .next (spdmServe s sid 0x84 body (spdmAnswer s sid (leBytes 1 0x10 ++ leBytes 1 0x04 ++ leBytes 4 0x01000000 ++ leBytes 2 0x1300)))

/-- `GET_CAPABILITIES`: CERT_CAP, CHAL_CAP, MEAS_CAP with signatures. -/
def execGetCapabilities (sid : Nat) (body : List Byte) (s : State) : Out :=
  .next (spdmServe s sid 0xE1 body (spdmAnswer s sid (spdmHead 0x61 0 0 ++ leBytes 4 0 ++ leBytes 4 0x16 ++ leBytes 4 8192 ++ leBytes 4 8192)))

/-- `NEGOTIATE_ALGORITHMS`: ECDSA P-384, SHA-384, the DMTF measurement specification. -/
def execNegotiateAlgorithms (sid : Nat) (body : List Byte) (s : State) : Out :=
  .next (spdmServe s sid 0xE3 body (spdmAnswer s sid (spdmHead 0x63 0 0 ++ leBytes 2 36 ++ leBytes 1 1 ++ leBytes 1 0 ++ leBytes 4 4 ++ leBytes 4 0x80
    ++ leBytes 4 2 ++ leBytes 16 0)))

/-- `GET_DIGESTS`: SHA-384 of the chain of every slot that is not empty. -/
def execGetDigests (sid : Nat) (body : List Byte) (s : State) : Out :=
  let slots := [0, 1].filter fun i => certChain s i != []
  .next (spdmServe s sid 0x81 body (spdmAnswer s sid (spdmHead 0x01 0 (slots.foldl (fun m i => m + 2 ^ i) 0) ++ slots.flatMap fun i => Config.sha384 (certChain s i))))

/-- `GET_CERTIFICATE` (R492): a portion of a slot's chain; an empty slot is an error. -/
def execGetCertificate (sid : Nat) (body : List Byte) (s : State) : Out :=
  let slot := subNat body 2 1 % 16
  let c := certChain s slot
  let off := subNat body 4 2
  let part := (c.drop off).take (subNat body 6 2)
  .next (spdmServe s sid 0x82 body (spdmAnswer s sid (if c = [] then spdmError 1 0
    else spdmHead 0x02 slot 0 ++ leBytes 2 part.length ++ leBytes 2 (c.length - off - part.length) ++ part)))

/-- `CHALLENGE` (R491, R495): signed with the AK over request and response. -/
def execChallenge (sid : Nat) (body : List Byte) (s : State) : Out :=
  let slot := subNat body 2 1 % 16
  let r := drawNonce s
  let sum := if subNat body 3 1 = 0 then [] else Config.sha384 ((List.range 16).flatMap (mr s))
  let m := spdmHead 0x03 slot 1 ++ Config.sha384 (certChain s slot) ++ r.1 ++ sum ++ leBytes 2 0 ++ (body.drop 36).take 8
  .next (spdmServe s sid 0x83 body (if certChain s slot = [] then spdmAnswer s sid (spdmError 1 0)
    else spdmAnswer r.2 sid (m ++ Config.ecdsaSign (s.trust.ak.getD 0) (body ++ m))))

/-- Version of the bundle from which the running boot loaded its images (R569). -/
def bundleVersion (s : State) : Nat := s.boot.version

/-- The measurement of an index (Table 16.2): its value, and whether it is a digest; none for other indices. -/
def measurement (s : State) (i : Nat) : Option (List Byte × Bool) :=
  if 1 ≤ i ∧ i ≤ 16 then some (mr s (i - 1), true)
  else if 0x11 ≤ i ∧ i ≤ 0x20 then some (dp s (i - 0x11), true)
  else if i = 0x30 then some (match s.trust.krk with | some k => Config.pubKey k | none => [], false)
  else if i = 0x31 then some (leBytes 4 (bundleVersion s) ++ (List.range 5).flatMap fun k => leBytes 1 (mget s.kept.rollback k 0), false)
  else none

/-- A measurement block: DMTF digest (type 0) or raw value (type 0x80). -/
def measBlock (i : Nat) (v : List Byte × Bool) : List Byte :=
  leBytes 1 i ++ leBytes 1 1 ++ leBytes 2 (v.1.length + 3) ++ leBytes 1 (if v.2 then 0 else 0x80) ++ leBytes 2 v.1.length ++ v.1

/-- Indices of every block, in order. -/
def measIndices : List Nat := (List.range 32).map (· + 1) ++ [0x30, 0x31]

/-- `GET_MEASUREMENTS` (R496): the blocks of one index or all, signed over the nonce where asked. -/
def execGetMeasurements (sid : Nat) (body : List Byte) (s : State) : Out :=
  let op := subNat body 3 1
  let sign := bit (subNat body 2 1) 0
  let is := if op = 0xFF then measIndices else if op = 0 then [] else [op]
  let r := drawNonce s
  .next (spdmServe s sid 0xE0 body (if op ≠ 0 ∧ (is.any fun i => (measurement s i).isNone) then spdmAnswer s sid (spdmError 1 0)
  else
    let rec' := is.flatMap fun i => match measurement s i with
      | some v => measBlock i v
      | none => []
    let m := spdmHead 0x60 (if op = 0 then measIndices.length else 0) 0 ++ leBytes 1 is.length ++ leBytes 3 rec'.length ++ rec'
      ++ r.1 ++ leBytes 2 0
    spdmAnswer r.2 sid (if sign then m ++ Config.ecdsaSign (s.trust.ak.getD 0) (body ++ m) else m)))

/-- `SPDM_UNSUPPORTED_REQUEST` (R495). -/
def execSpdmUnsupportedRequest (sid code : Nat) (s : State) : Out :=
  .next (spdmServe s sid code [] (spdmAnswer s sid (spdmError 7 code)))

/-! ### Images (R497 to R500, R508, R518, R519) -/

/-- Header and body of an image as they are measured and signed. -/
def Image.bytes (i : Image) : List Byte :=
  leBytes 1 i.kind ++ leBytes 4 i.version ++ leBytes 1 i.svn ++ leBytes 4 i.body.length ++ i.key ++ i.body

/-- The fuse entry whose digest is that of a key, revoked or not. -/
def fuseOf (key : List Byte) : Option Nat := (List.range 4).find? fun k => Config.fuseKeyDigest k == Config.sha384 key

/-- Whether an image is accepted (R497). -/
def imageOk (s : State) (i : Image) : Bool :=
  (match fuseOf i.key with | some k => !s.kept.revoked.contains k | none => false)
    && Config.ecdsaVerify i.key (Config.sha384 (Image.bytes i)) i.sig && decide (mget s.kept.rollback i.kind 0 ≤ i.svn)

/-- Flash slot: 0 A, 1 B, 2 the golden image. -/
def flashSlot (s : State) (k : Nat) : Slot := if k = 0 then s.kept.slotA else if k = 1 then s.kept.slotB else s.kept.golden

/-- The state with a flash slot replaced. -/
def setSlot (s : State) (k : Nat) (x : Slot) : State :=
  if k = 0 then { s with kept.slotA := x } else if k = 1 then { s with kept.slotB := x } else { s with kept.golden := x }

/-- Kind of firmware processor `p` (R424): 0 SEC0, 1 TWC, 2 LNC, 3 MTC, 4 UEC. -/
def fwKind (p : Nat) : Nat := if p = 0 then 0 else if p < 5 then 1 else if p < 9 then 2 else if p < 13 then 3 else 4

/-- The image of a kind in a slot. -/
def slotImage (x : Slot) (kind : Nat) : Option Image := x.bundle.images.find? fun i => i.kind == kind

/-- `IMAGE_STAGE` (R519): into the inactive slot, where every image is verified. -/
def execImageStage (w : ObjWrite) (b : Bundle) (s : State) : Out :=
  .next (objWrite s w 0x701001 0 (fun s =>
    (0, setSlot s (1 - s.kept.activeSlot) { bundle := b, verified := b.images.all (imageOk s), booted := false })) (.stage w b))

/-- `ACTIVE_SLOT` (R519). -/
def execActiveSlot (w : ObjWrite) (s : State) : Out :=
  .next (objWrite s w 0x701003 0 fun s =>
    let v := leNat w.val
    let x := flashSlot s v
    let low := s.fw.any fun f => f.2.mode == .running && decide (f.2.version < x.bundle.minRunning)
    if v ≠ s.kept.activeSlot ∧ (x.verified = false ∨ low = true) then (0x42, s) else (0, { s with kept.activeSlot := v }))

/-- `GOLDEN_REPLACE` (R508). -/
def execGoldenReplace (w : ObjWrite) (s : State) : Out :=
  .next (objWrite s w 0x701004 0 fun s =>
    let x := flashSlot s s.kept.activeSlot
    if leNat w.val ≠ 1 ∨ x.booted = false then (0x42, s) else (0, { s with kept.golden := x }))

/-- Rollback counters raised to the active slot's SVNs; a counter never decreases (R498). -/
def raisedCounters (s : State) : Map Nat :=
  (List.range 5).map fun k =>
    let svn := match slotImage (flashSlot s s.kept.activeSlot) k with | some i => i.svn | none => 0
    (k, max (mget s.kept.rollback k 0) svn)

/-- `ROLLBACK_COMMIT` (R498). -/
def execRollbackCommit (w : ObjWrite) (s : State) : Out :=
  .next (objWrite s w 0x701005 0 fun s =>
    let c := raisedCounters s
    let old := s.kept.golden.bundle.images.any fun i => decide (i.svn < mget c i.kind 0)
    if leNat w.val ≠ 1 ∨ (flashSlot s s.kept.activeSlot).booted = false ∨ old = true then (0x42, s)
    else (0, { s with kept.rollback := c }))

/-- `SIGNKEY_REVOKE` (R499). -/
def execSignkeyRevoke (w : ObjWrite) (s : State) : Out :=
  .next (objWrite s w 0x701006 0 fun s =>
    let k := leNat w.val
    let signs := [s.kept.slotA, s.kept.slotB, s.kept.golden].any fun x =>
      x.bundle.images.any fun i => Config.fuseKeyDigest k == Config.sha384 i.key
    if 4 ≤ k ∨ signs = true then (0x42, s) else (0, { s with kept.revoked := addOnce s.kept.revoked k }))

/-- `CC_PAYLOAD` (R518): used from the next module reset. -/
def execCcPayload (w : ObjWrite) (s : State) : Out :=
  .next (objWrite s w 0x701007 0 fun s => (0, { s with kept.payload := w.val }))

/-! ### Data keys (R501, R502) -/

/-- Whether an enabled sealing channel uses key slot `k`. -/
def slotUsed (s : State) (k : Nat) : Bool := s.channels.any fun c => c.2.en && c.2.keySlot == k

/-- The data key a value of Table 16.3 unwraps to under the running KRK, where it does. -/
def unwrapKey (s : State) (v : List Byte) : Option (List Byte) :=
  match s.trust.krk with
  | none => none
  | some krk =>
    if (v.drop 56).take 48 ≠ Config.sha384 (Config.pubKey krk) then none
    else if (v.drop 8).take 48 ≠ dp s (subNat v 4 1) then none
    else Config.gcmOpen (Config.wrapKey krk ((v.drop 104).take 97)) ((v.drop 201).take 12) (v.take 104) ((v.drop 213).take 32) (v.drop 245)

/-- `KEY_IMPORT` (R501). -/
def execKeyImport (w : ObjWrite) (s : State) : Out :=
  .next (objWrite s w 0x710001 0 fun s =>
    let v := w.val
    let part := subNat v 4 1
    let use := subNat v 5 1
    let k := subNat v 6 1
    if v.length ≠ 261 then (0x41, s)
    else if 16 ≤ part ∨ use = 0 ∨ 3 < use ∨ 64 ≤ k ∨ subNat v 7 1 ≠ 0 then (0x42, s)
    else if slotUsed s k then (0x45, s)
    else match unwrapKey s v with
    | none => (0x42, { s with trust.refused := s.trust.refused + 1 })
    | some key =>
      let x : KeySlot := { valid := true, id := subNat v 0 4, part, use, dp := dp s part, key }
      (0, { s with trust.keys := mset s.trust.keys k x }))

/-- `KEY_ERASE` (R502). -/
def execKeyErase (w : ObjWrite) (s : State) : Out :=
  .next (objWrite s w 0x710003 0 fun s => if 64 ≤ leNat w.val then (0x42, s) else (0, eraseKey s (leNat w.val)))

/-! ### Retirement (R521) -/

/-- Units of a `RETIRED_UNITS` value: 2 B each; cluster ID c, 0x100 + die d, 0x200 + UE n (log 25). -/
def retiredList (v : List Byte) : List Nat := (List.range (v.length / 2)).map fun i => subNat v (2 * i) 2

/-- Whether a code names a unit. -/
def retiredCode (c : Nat) : Bool :=
  decide (c < 128) || (decide (0x100 ≤ c) && decide (c < 0x108)) || (decide (0x200 ≤ c) && decide (c < 0x208))

/-- Whether update engine `n` may not be retired: its group table is not empty, or it holds a part of the
operating-system region. -/
def ueKept (s : State) (n : Nat) : Bool := cfgB s (0x6102 * 256 + n + 1) != [] || (osBases s).contains (deepBase n + 0x002C00000000)

/-- `RETIRED_UNITS` (R521): a cluster without a kernel leaves its partition at once (R473), a UE at the next step open. -/
def execRetiredUnits (w : ObjWrite) (s : State) : Out :=
  .next (objWrite s w 0xA00004 0 fun s =>
    let us := retiredList w.val
    let new := us.filter fun c => decide (0x200 ≤ c) && !s.kept.retired.contains c
    if w.val.length % 2 ≠ 0 ∨ 512 < w.val.length then (0x41, s)
    else if (us.any fun c => !retiredCode c) ∨ (new.any fun c => ueKept s (c - 0x200)) then (0x42, s)
    else
      let s := { s with kept.retired := us }
      let s := (List.range 128).foldl (fun s c => if (clu s c).free && retiresCluster s c then boundary s c else s) s
      (0, (List.range 8).foldl (fun s n => if us.contains (0x200 + n) != (ue s n).retiring then setUe s n { ue s n with retiring := us.contains (0x200 + n) } else s) s))

end Sys2Proof.Machine
end

