-- ==== Sys2Proof/Machine/Objects.lean ====
section
/-!
DEFINITION. The values of the dictionary's objects as a `GET` returns them (R469, R476, R484, and the object tables).
A BLOB whose contents the manual names without a layout is an uninterpreted function of those contents (log 54).
-/
namespace Sys2Proof.Machine
open Sys2Proof

/-! ### Partition use and flags (R482, R484, Tables 15.6 to 15.8) -/

/-- Regions of Table 3.1, as (tier of `PART_MEM_QUOTA` or 4, first, end). -/
def tierRegions (s : State) : List (Nat × Nat × Nat) :=
  [(1, 0, fastEnd s), (2, 0x040000000000, 0x058000000000), (0, 0x080000000000, 0x080180000000), (4, slmBase, slmEnd),
    (3, 0x0A0000000000, 0x0B0000000000), (4, 0x0F0000000000, 0x0F0900000000)]

/-- Insert an interval in ascending order. -/
def insertRange (x : Nat × Nat) : List (Nat × Nat) → List (Nat × Nat)
  | [] => [x]
  | y :: ys => if x.1 ≤ y.1 then x :: y :: ys else y :: insertRange x ys

/-- Bytes that intervals [lo, hi) cover, each counted once. -/
def covered (l : List (Nat × Nat)) : Nat :=
  ((l.foldr insertRange []).foldl (fun (x : Nat × Nat) r => (x.1 + (r.2 - max x.2 r.1), max x.2 r.2)) (0, 0)).1

/-- A `PART_WINDOWS` value's use of a tier (R484): 0 near store, 1 fast, 2 deep, 3 headframe windows. -/
def tierUse (s : State) (v : List Byte) (tier : Nat) : Nat :=
  match (tierRegions s).find? fun (r : Nat × Nat × Nat) => r.1 == tier with
  | none => 0
  | some r => covered ((windowsOf v).filterMap fun (w : Nat × Nat × Nat) =>
      let lo := max w.2.1 r.2.1
      let hi := min (w.2.2 + 1) r.2.2
      if w.1 ≠ 0 ∧ lo < hi then some (lo, hi) else none)

/-- Whether a window fails R482: within one region, and clear of the operating-system region. -/
def windowBad (s : State) (w : Nat × Nat × Nat) : Bool :=
  decide (w.2.2 < w.2.1) || meetsOs s w.2.1 (w.2.2 + 1 - w.2.1)
    || !(tierRegions s).any fun (r : Nat × Nat × Nat) => decide (r.2.1 ≤ w.2.1) && decide (w.2.2 < r.2.2)

/-- Clusters cut from partition `p`'s quota that still run its kernel (Table 15.6). -/
def drainingOf (s : State) (p : Nat) : List Nat :=
  (List.range 128).filter fun c =>
    !bit (cfg s (partKey p 3)) c && (clu s c).kernels.any fun k => (krn s k).part == p

/-- `PART_FLAGS` (Table 15.7). -/
def partFlags (s : State) (p : Nat) : Nat :=
  let throttled := match mfind s.power.partThrottledAt p with
    | some t => decide (s.pace.now ≤ t + 10000000)
    | none => false
  b2n (!(drainingOf s p).isEmpty) * 2 ^ 7 + b2n throttled * 2 ^ 6 + mget s.overQuota p 0 % 16

/-- `PART_USAGE`: clusters held and draining, use per tier, power over 10 ms. -/
def partUsage (s : State) (p : Nat) : List Nat :=
  [(partClusters s p).length, (drainingOf s p).length] ++ ((List.range 4).map fun i => tierUse s (cfgB s (partKey p 4)) i) ++ [s.power.partW.getD p 0]

/-! ### Records -/

/-- A boot ledger record (Table 16.9). -/
def LedgerRec.bytes (r : LedgerRec) : List Byte :=
  let b := leBytes 4 r.sequence ++ leBytes 1 r.boot ++ leBytes 1 r.step ++ leBytes 2 r.unit ++ leBytes 1 r.attempt ++ leBytes 1 r.outcome
    ++ leBytes 1 r.image ++ leBytes 1 0 ++ leBytes 4 r.timeUs ++ leBytes 2 r.code ++ leBytes 6 0 ++ leBytes 4 r.opHours
  b ++ leBytes 4 (crc32c b)

/-- A firmware log entry's 64 bytes (Table 13.13). -/
def FwLog.bytes (e : FwLog) : List Byte :=
  padTo 64 (leBytes 8 (e.seq * 2 ^ 32 + e.fwp * 2 ^ 24 + e.sev * 2 ^ 21 + e.code) ++ leBytes 8 e.pace
    ++ (e.args.take 6).flatMap fun a => leBytes 8 a.toNat)

/-- `HB_STATUS` (Table 13.15): 0 beating, 1 grace, 2 HELD, 3 disabled. -/
def hbStatus (s : State) : Nat :=
  match s.beat.mode with
  | .grace => 1
  | .freezing => 1
  | .held => 2
  | .beating => if cfg s 0x501001 = 0 then 3 else 0

/-- `LEVELS_IN_SERVICE` (Table 2.7). -/
def levelsWord (s : State) : Nat :=
  (List.range 16).foldl (fun v i => if (tow s (i / 4)).levelsOut.contains (i % 4) then v else v + 2 ^ i) 0

/-- Code of a device's state (Table 3.8). -/
def devCode : DevState → Nat
  | .inService => 0
  | .excluded => 1
  | .failed => 2
  | .skipped => 3

/-- Registers at `n` places, 8 B each, in order. -/
def regsAt (s : State) (n : Nat) (at' : Nat → Nat) : List Byte :=
  (List.range n).flatMap fun i => leBytes 8 ((regValue s (at' i)).getD 0)

/-- Address of a cluster's register block (R126). -/
def cluBase (c : Nat) : Nat := 0x0F0000000000 + c / 32 * 2 ^ 32 + (2 + c / 16 % 2) * 2 ^ 30 + c % 16 * 0x01000000

/-- A register of every cluster, in cluster ID order. -/
def ofClusters (s : State) (off : Nat) : List Byte := regsAt s 128 fun c => cluBase c + off

/-- Totals of one assay set over the partition's clusters (R258). -/
def assayTotal (s : State) (p set : Nat) : List Nat :=
  (partClusters s p).foldl (fun t c =>
    let a := mget (clu s c).assay set {}
    [t.getD 0 0 + a.elems, t.getD 1 0 + a.zeros, t.getD 2 0 + a.sat, t.getD 3 0 + a.nonfin]) [0, 0, 0, 0]

/-- Fields of the heartbeat's lapse record (R421). -/
def lapseFields (s : State) : List Nat :=
  [s.beat.recBeat, s.beat.lapseAt, s.beat.heldAt] ++ s.beat.reads ++ (s.beat.frozen.flatMap fun (f : Nat × Nat × List Nat) => f.1 :: f.2.1 :: f.2.2)
    ++ (s.beat.endedIn.flatMap fun (e : Nat × Nat) => [e.1, e.2]) ++ [b2n s.beat.cancelled]

/-- Bytes of flash behind what is programmed read as ones. -/
def erasedTo (n : Nat) (l : List Byte) : List Byte := l ++ List.replicate (n - l.length) 0xFF#8

/-! ### Values of the objects -/

/-- Read-only objects of a fixed layout; `p` is the session's current partition. -/
def roBytes (s : State) (p key : Nat) : Option (List Byte) :=
  match key with
  | 0x100001 => some (strBytes "SKT9-48")
  | 0x100002 => some (strBytes "A1")
  | 0x100003 => some Config.moduleSerial
  | 0x100004 => some (leBytes 4 s.boot.version)
  | 0x120003 => some (leBytes 8 s.quickset.count)
  | 0x120005 => some (leBytes 8 s.regRejects)
  | 0x130001 => some (leBytes 1 (b2n s.mgmtUp))
  | 0x130004 => some (leBytes 8 (Config.macAddr % 2 ^ 48))
  | 0x200002 => some (leBytes 8 (paceStatus s))
  | 0x200003 => some (leBytes 8 s.pace.now)
  | 0x240001 => some ((List.range 114).flatMap fun i => leBytes 2 (wrap 16 (10 * mget s.power.temps i 0)))
  | 0x310003 => some (leBytes 8 s.accwSat)
  | 0x320001 => some (leBytes 8 (fastEnd s))
  | 0x320002 => some (s.stackMap.map (BitVec.ofNat 8))
  | 0x320003 => some ((List.range 32).map fun k => BitVec.ofNat 8 (devCode (stk s k).st))
  | 0x330001 => some (leBytes 8 (((List.range 8).filter fun n => (ue s n).inService).length * 0x3000000000))
  | 0x330003 => some ((List.range 32).map fun k => BitVec.ofNat 8 (devCode (mget s.packages k .skipped)))
  | 0x340001 => some ((List.range 24).flatMap fun i => leBytes 8 (jointWord s (i / 6) (i % 6)))
  | 0x340002 => some ((List.range (4 * 0xC80)).map fun i => BitVec.ofNat 8 (shaftByte s (i / 0xC80) (i % 0xC80)))
  | 0x340009 => some (leBytes 2 (levelsWord s))
  | 0x400002 => some ((List.range 32).flatMap fun i => leBytes 8 (portWord (prt s i) 0))
  | 0x400004 => some ((List.range 224).flatMap fun i => leBytes 8 (portWord (prt s (i / 7)) (i % 7 + 1)))
  | 0x440012 => some ((List.range 16).flatMap fun w => leBytes 8 (mget s.hfErrors w 0))
  | 0x500001 => some ((List.range 256).flatMap fun q => leBytes 8 (cq s q).word)
  | 0x501002 => some (leBytes 1 (hbStatus s))
  | 0x502004 => some (ofClusters s 0)
  | 0x502005 => some (leBytes 8 s.atomSat)
  | 0x502006 => some ((List.range 128).flatMap fun c => leBytes 8 (clu s c).slmReplays)
  | 0x502007 => some ((List.range 128).flatMap fun c => leBytes 8 (clu s c).acqFlushes)
  | 0x502008 => some ((List.range 128).flatMap fun c => leBytes 8 (clu s c).rangeLines)
  | 0x503003 => some (ofClusters s 0x100)
  | 0x503004 => some (ofClusters s 0x110)
  | 0x503005 => some (ofClusters s 0x118)
  | 0x503006 => some (ofClusters s 0x120)
  | 0x504002 => some (ofClusters s 0x200)
  | 0x504003 => some (ofClusters s 0x210)
  | 0x504004 => some (ofClusters s 0x218)
  | 0x504005 => some (ofClusters s 0x220)
  | 0x505001 => some ((List.range (128 * 256)).flatMap fun i => leBytes 8 (clusterWord s (i / 256) (0x80 + i % 256)))
  | 0x505002 => some ((List.range 64).flatMap fun m => (assayTotal s p m).flatMap (leBytes 8))
  | 0x505004 => some (ofClusters s 0x308)
  | 0x505005 => some (ofClusters s 0x310)
  | 0x506001 => some (ofClusters s 0xC00)
  | 0x506002 => some (ofClusters s 0xC08)
  | 0x507001 => some ((List.range 256).flatMap fun b => leBytes 8 (bktStatus (bkt s b)))
  | 0x507002 => some (leBytes 8 s.bktRejects)
  | 0x507003 => some (leBytes 8 s.bktSat)
  | 0x508001 => some (leBytes 8 (if s.verdict.noneOpened then 0 else s.verdict.last))
  | 0x508009 => some (leBytes 8 (stvStatus s.verdict))
  | 0x50800A => some (leBytes 8 s.verdict.applied)
  | 0x50800B => some (leBytes 8 s.verdict.skipped)
  | 0x610001 => some ((List.range 8).flatMap fun n => leBytes 8 (ueStatus (ue s n)))
  | 0x610002 => some ((List.range 56).flatMap fun i => leBytes 8 (ueWord (ue s (i / 7)) (32 + i % 7)))
  | 0x610004 => some (leBytes 4 (f32.convert (f64.decode (ue s ((uesOn s).headD 0)).norm2.toNat).sqrt).code)
  | 0x700001 => some (certChain s 0)
  | 0x700003 => some ((List.range 16).flatMap (mr s))
  | 0x710004 => some ((List.range 64).flatMap fun c => leBytes 8 (chan s c).ctrl ++ leBytes 8 (chan s c).fails)
  | 0x800001 => some (s.pit.records.flatMap PitRec.bytes)
  | 0x800009 => some (erasedTo 983040 (s.kept.pitCopy.flatMap id) ++ erasedTo 65536 (s.kept.eventPages.flatMap id))
  | 0x800021 => some ((List.range 256).flatMap fun u => leBytes 8 (cvuWord (cvu s u) 5) ++ leBytes 8 (cvu s u).last ++ leBytes 8 (cvu s u).mismatch)
  | 0x810002 => some ((List.range 4).flatMap fun t => (mget s.fwLog t []).flatMap FwLog.bytes)
  | 0x820004 => some (leBytes 8 s.traceDropped)
  | 0xA00001 => some (s.kept.ledger.flatMap LedgerRec.bytes)
  | 0xA00003 => some (leBytes 4 s.kept.bootCount)
  | _ => none

/-- Contents of the read-only BLOBs that have no layout (log 54). -/
def roFields (s : State) (key : Nat) : List Nat :=
  let per := fun (m : Map Nat) (n : Nat) => (List.range n).map fun i => mget m i 0
  match key with
  | 0x110001 => s.sessions.flatMap fun (x : Nat × Session) =>
      [x.1, b2n x.2.localPair.isSome, x.2.authority, b2n x.2.expert, x.2.outstanding.length]
  | 0x120001 => [s.quickset.holder.getD 0, b2n s.quickset.holder.isSome, (s.quickset.pending.map (·.2.2)).getD 0, s.quickset.lastResult, s.quickset.lastInstant]
  | 0x120002 => (s.shadow.filter fun (x : Nat × List Byte) => x.2 != cfgB s x.1).map (·.1)
  | 0x200009 => (List.range 32).flatMap fun p => [wrap 64 (prt s p).peerOffset, (prt s p).peerStratum, (prt s p).peerLate]
  | 0x220001 => [cfg s 0x220002, cfg s 0x220003, ceilingNow s, s.power.rampTo, s.power.rampStart + 1000 * s.power.rampUs]
  | 0x220006 => [s.power.peakW, s.power.avgW] ++ s.power.railW
  | 0x220007 => ((List.range 8).flatMap fun d => [(dvfs s d).inForce, (throttle s d).cause]) ++ (List.range 128).map fun c => (clu s c).cap
  | 0x240003 => (List.range 112).flatMap fun i => [mget s.power.throttleCount i 0, mget s.power.criticalCount i 0]
  | 0x330002 => osBases s
  | 0x350005 => per s.corrected 68
  | 0x350006 => per s.poisoned 68
  | 0x360001 => (List.range 32).flatMap fun e => [b2n (cpe s e).busy.isSome, (cpe s e).lastStatus, (cpe s e).done]
  | 0x430001 => (List.range 32).flatMap fun p =>
      [((prt s p).table.filter fun (r : Replay) => decide (s.pace.now < r.time + 200000)).length, (prt s p).side.length]
  | 0x501004 => lapseFields s
  | 0x700006 => (List.range 4).flatMap (fun k => (Config.fuseKeyDigest k).map (·.toNat)) ++ s.kept.revoked ++ per s.kept.rollback 5 ++ [b2n s.kept.debugFuse]
  | 0x701002 => [s.kept.slotA, s.kept.slotB, s.kept.golden].flatMap fun (x : Slot) =>
      [x.bundle.version] ++ x.bundle.images.map (·.svn) ++ [b2n x.verified, b2n x.booted]
  | 0x710002 => (s.trust.keys.flatMap fun (k : Nat × KeySlot) => [k.1, k.2.id, k.2.part, k.2.use, b2n k.2.valid]) ++ [s.trust.refused]
  | 0x800002 => [s.pit.written % 2 ^ 32, s.pit.written % 4096, s.pit.dropped, s.pit.queue.length]
  | 0x800005 => [s.opSeconds, s.kept.powerCycles]
  | 0x800010 => ((List.range 197).flatMap fun u => [mget s.pit.corrected u 0, mget s.pit.poisonMade u 0, mget s.pit.poisonUsed u 0]) ++ per s.pit.contained 16
  | 0x830001 => (List.range 21).flatMap fun p =>
      [match (fwp s p).mode with | .off => 3 | .running => 0 | .restarting => 1 | .failed => 2, (fwp s p).version, (fwp s p).restarts]
  | 0x900001 => (List.range 16).flatMap fun p => [cfg s (partKey p 1), partFlags s p] ++ partUsage s p
  | 0xA00002 => [s.boot.sequence, s.boot.boot, s.boot.image, b2n s.boot.reduced] ++ s.boot.skipped ++ s.kept.retired
  | _ => []

/-- Value of a partition's object. -/
def partBytes (s : State) (key : Nat) : List Byte :=
  let p := key / 256 - 0x9100
  match key % 256 with
  | 8 => Config.blobBytes key (partUsage s p)
  | 9 => leBytes 4 (partFlags s p)
  | _ => cfgB s key

/-- Value of an object that some block or session holds itself; none where the active set does. -/
def heldBytes (s : State) (x : Session) (key : Nat) : Option (List Byte) :=
  if key / 256 = 0x2100 then
    let y := sched s (key % 256 - 1)
    some (leBytes 8 y.ctrl ++ leBytes 8 y.time ++ leBytes 8 y.period ++ leBytes 8 y.arg)
  else match key with
    | 0x110005 => some (leBytes 1 x.part)
    | 0x110006 => some (padTo 64 x.notify)
    | 0x500002 => some ((List.range 256).flatMap fun q => leBytes 8 (cq s q).ctrl)
    | 0x700005 => some x.spdm
    | 0x701003 => some (leBytes 2 s.kept.activeSlot)
    | 0x800020 => some ((List.range 256).flatMap fun u => (List.range 5).flatMap fun w => leBytes 8 (cvuWord (cvu s u) w))
    | 0xA00004 => some (s.kept.retired.flatMap (leBytes 2))
    | 0xF00001 => some (leBytes 8 x.diagAddr)
    | _ => none

/-- Value of an object as session `x` reads it; a shadow value where asked and the object has one (R476). -/
def objBytes (s : State) (x : Session) (key : Nat) (shadow : Bool) : List Byte :=
  match objDef key with
  | none => []
  | some d =>
    if d.acc = .ro then
      if 0x9100 ≤ key / 256 ∧ key / 256 ≤ 0x910F then partBytes s key
      else (roBytes s x.part key).getD (Config.blobBytes key (roFields s key))
    else match heldBytes s x key with
      | some b => b
      | none => if shadow ∧ d.cls = .qs then shadowB s key else cfgB s key

/-- Whether a class B object waits for a boundary (R474). -/
def objPending (s : State) (key : Nat) : Bool :=
  let waiting := fun (n : Nat) => (List.range 128).any fun c => (mfind (clu s c).waitCfg n).isSome
  match key with
  | 0x502001 => waiting 1
  | 0x502002 => waiting 2
  | 0x503001 => waiting 3
  | 0x503002 => waiting 4
  | 0x504001 => waiting 5
  | 0x506003 => waiting 6
  | 0xA00004 => (List.range 128).any (fun c => retiresCluster s c && (clu s c).mode != .retired) || (List.range 8).any fun n => (ue s n).retiring
  | _ => (mfind s.heldB key).isSome

end Sys2Proof.Machine
end

