-- ==== Sys2Proof/Machine/Camlis.lean ====
section
/-!
DEFINITION. Camlis sessions and messages, writes of objects by class, the active and the shadow set, Quickset, and the
frames of the management port (chapter 15, R457 to R487).
-/
namespace Sys2Proof.Machine
open Sys2Proof

/-! ### Messages (R465, R466) -/

/-- Answer a message. -/
def camAnswer (s : State) (sid type : Nat) (m : CamMsg) (status : Nat) (payload : List Byte := []) (pending last : Bool := false) : State :=
  respond s sid { reqId := m.reqId, type, status, index := m.index, sub := m.sub, offset := m.offset, pending, last, payload }

/-- Whether a message's header or payload is bad (R465): version, flags, length, or a payload that its type does not
have; `len` is the payload's length where the type fixes it. -/
def badMsg (m : CamMsg) (len : Option Nat) : Bool :=
  m.version != 1 || decide (4 ≤ m.flags) || decide (1200 < m.payload.length) || m.length != m.payload.length
    || (match len with | some n => m.payload.length != n | none => false)

/-- A message reaches the server: an executed one whose form is bad gets `BAD_TYPE`. -/
def camlis (s : State) (sid now type : Nat) (m : CamMsg) (len : Option Nat) (run : State → Session → State) : State :=
  request (.message type sid m) (clock s now) sid m.reqId type fun s x => if badMsg m len then camAnswer s sid type m 0x41 else run s x

/-- A session's state replaced. -/
def setSession (s : State) (sid : Nat) (x : Session) : State := { s with sessions := mset s.sessions sid x }

/-! ### GET (R470, R471, R476, R489) -/

/-- Whether an object moves in segments. -/
def ObjDef.isBlob (d : ObjDef) : Bool := match d.typ with | .blob _ => true | _ => false

/-- One segment of a BLOB value, with `LAST` at its end; an offset beyond the value is a `SEGMENT_ERROR`. -/
def getSegment (s : State) (sid : Nat) (m : CamMsg) (v : List Byte) (pending : Bool) : State :=
  if v.length < m.offset then camAnswer s sid 1 m 0x4B
  else camAnswer s sid 1 m 0 ((v.drop m.offset).take 1024) pending (decide (v.length ≤ m.offset + 1024))

/-- A `GET` of an object that may be read. At offset 0 a BLOB is taken as a snapshot, which serves later segments for 1 s;
a segment without one reads the present value (log 55). -/
def getObject (s : State) (sid : Nat) (x : Session) (m : CamMsg) (d : ObjDef) : State :=
  let key := m.index * 256 + m.sub
  let shadow := bit m.flags 0
  if key = 0xF00002 then
    if x.diagAddr % 8 ≠ 0 ∨ home s x.diagAddr ≠ .regs then camAnswer s sid 1 m 0x42
    else
      let r := regRead s x.diagAddr
      camAnswer r.2 sid 1 m 0 (leBytes 8 r.1)
  else
    let v := objBytes s x key shadow
    let pending := objPending s key
    if d.isBlob = false then camAnswer s sid 1 m 0 v pending
    else if m.offset = 0 then getSegment (setSession s sid { x with snap := some (2 * key + b2n shadow, v, s.pace.now) }) sid m v pending
    else match x.snap with
      | some (k, b, t) =>
        if k = 2 * key + b2n shadow ∧ s.pace.now ≤ t + 1000000000 then getSegment s sid m b pending else getSegment s sid m v pending
      | none => getSegment s sid m v pending

/-- `GET`. -/
def execGetI (sid now : Nat) (m : CamMsg) (s : State) : Out :=
  .next (camlis s sid now 1 m (some 0) fun s x =>
    let key := m.index * 256 + m.sub
    match if served s key ∧ m.sub < 256 then objDef key else none with
    | none => camAnswer s sid 1 m 0x40
    | some d =>
      if d.acc = .wo then camAnswer s sid 1 m 0x43
      else if m.index = 0xF000 ∧ x.expert = false then camAnswer s sid 1 m 0x44
      else if d.isBlob = false ∧ m.offset ≠ 0 then camAnswer s sid 1 m 0x41
      else getObject s sid x m d)

/-- `BLOB_SNAPSHOT_EXPIRE` (R470). -/
def execBlobSnapshotExpire (sid now : Nat) (s : State) : Out :=
  let s := clock s now
  .next (match mfind s.sessions sid with
  | some x =>
    match x.snap with
    | some (_, _, t) => if t + 1000000000 < s.pace.now then setSession s sid { x with snap := none } else s
    | none => s
  | none => s)

/-! ### Checks of a written value (R469 and the owning chapters) -/

/-- Length a fixed-size BLOB must have. -/
def blobLength (key : Nat) : Option Nat :=
  if key / 256 = 0x2100 then some 32
  else if 0x440001 ≤ key ∧ key ≤ 0x440010 then some 16
  else if 0x9100 ≤ key / 256 ∧ key / 256 ≤ 0x910F then (match key % 256 with | 3 => some 16 | 5 => some 32 | _ => none)
  else mfind [(0x110006, 64), (0x410001, 65536), (0x500002, 2048), (0x500101, 1024), (0x610301, 64), (0x800003, 256), (0x800004, 12288), (0x800020, 10240)] key

/-- Size of the elements of a BLOB that is a list. -/
def blobUnit (key : Nat) : Nat :=
  if key / 256 = 0x6102 then 128
  else if 0x9100 ≤ key / 256 ∧ key / 256 ≤ 0x910F ∧ key % 256 = 4 then 16
  else (mfind [(0x450001, 24), (0x508004, 2), (0x610403, 2)] key).getD 1

/-- Whether a BLOB's length fits its object. -/
def blobFits (key : Nat) (v : List Byte) : Bool :=
  (match blobLength key with | some n => v.length == n | none => true) && v.length % blobUnit key == 0
    && (key != 0x701008 || v.length == 0 || v.length == 48)

/-- Bytes `i` of a 4 B value. -/
def byteOf (v : List Byte) (i : Nat) : Nat := subNat v i 1

/-- The class Q set a write of `key` would make. -/
def shadowWith (s : State) (key : Nat) (v : List Byte) (k : Nat) : List Byte := if k = key then v else shadowB s k

/-- Whether a written value fails a check of its owning chapter (`BAD_VALUE`). -/
def valueBad (s : State) (key : Nat) (v : List Byte) : Bool :=
  if key / 256 = 0x6101 then v != [] && recipeBad v
  else if key / 256 = 0x6102 then !ueMapped s (key % 256 - 1) || decide (4096 < nGroups v) || tableBad s (shadowWith s key v) (key % 256 - 1) v
  else if 0x9100 ≤ key / 256 ∧ key / 256 ≤ 0x910F ∧ key % 256 = 6 then leNat v != 0 && decide (leNat v < 100)
  else match key with
    | 0x310001 => (List.range 4).any fun t => decide (6 < byteOf v t)
    | 0x350001 => byteOf v 3 != 0 || (List.range 3).any fun i => byteOf v i != 1 && byteOf v i != 2
    | 0x420001 => byteOf v 3 != 0 || (List.range 3).any fun i => byteOf v i == 0
    | 0x500101 => (List.range 512).any fun i => decide (4 < fld (subNat v (2 * i) 2) 15 12)
    | 0x610403 => (List.range (v.length / 2)).any fun i => decide (16383 < subNat v (2 * i) 2)
    | 0x508004 => (List.range (v.length / 2)).any fun i => decide (16383 < subNat v (2 * i) 2)
    | 0x800003 => (List.range 256).any fun k => if trigDefined (k / 16) (k % 16) then fld (byteOf v k) 6 5 != 0 else byteOf v k != 0
    | 0x800004 => (List.range 1536).any fun i => fld (subNat v (8 * i) 8) 63 48 != 0 || bit (subNat v (8 * i) 8) 2
    | 0x820002 => leNat v % 4096 != 0 || meetsOs s (leNat v) (max 1 (cfg s 0x820003))
    | 0x820003 => leNat v % 4096 != 0 || meetsOs s (cfg s 0x820002) (max 1 (leNat v))
    | 0xF00001 => leNat v % 8 != 0 || home s (leNat v) != .regs
    | 0x720001 => decide (8 < (Config.rootEntries v).length)
    | _ => false

/-! ### Writes by class (R473 to R475) -/

/-- Write every element of a list of registers, all or none (R467). -/
def writeAll (s : State) (n : Nat) (f : State → Nat → Nat × State) : Nat × State :=
  (List.range n).foldl (fun (r : Nat × State) i => if r.1 = 0 then (let q := f r.2 i; if q.1 = 0 then q else (q.1, s)) else r) (0, s)

/-- A class Q value as it is kept: a headframe window without its reserved bits (R4, R372). -/
def keptValue (key : Nat) (v : List Byte) : List Byte :=
  if 0x440001 ≤ key ∧ key ≤ 0x440010 then leBytes 8 (hfWord 0 (subNat v 0 8)) ++ leBytes 8 (hfWord 1 (subNat v 8 8)) else v

/-- Write a class Q object (R477): the holder writes the shadow set, or a session with MODULE authority becomes it. -/
def writeQ (s : State) (sid : Nat) (x : Session) (key : Nat) (v : List Byte) : Nat × State :=
  let free := match s.quickset.holder with
    | some h => h == sid
    | none => true
  if quicksetBusy s || !free || !hasModule x then (0x49, s)
  else (0, { s with shadow := mset s.shadow key (keptValue key v), quickset.holder := some sid })

/-- Whether the owning block of a class S object runs for a write (Tables 3.8, 4.9, 9.10, 10.9, 11.15, 13.15). -/
def blockRuns (s : State) (x : Session) (key : Nat) (v : List Byte) : Bool :=
  let n := leNat v
  match key with
  | 0x360002 => (List.range 32).any fun e => bit (cfg s key) e && !bit n e && (cpe s e).busy.isSome
  | 0x400001 => (List.range 32).any fun p => [PortMode.training, .active, .degraded].contains (prt s p).mode
  | 0x470001 => (List.range 32).any fun p => bit (cfg s key) p != bit n p && (prt s p).mode != .dark && (prt s p).mode != .disabled
  | 0x502003 => (partClusters s x.part).any fun c => !(clu s c).free
  | 0x820002 => cfg s 0x820001 != 0
  | 0x820003 => cfg s 0x820001 != 0
  | _ => stepOpen s

/-- `L1D_ENABLE` reaches every cluster that runs no kernel (R116, R127). -/
def l1dWrite (s : State) (on : Bool) : State :=
  (List.range 128).foldl (fun s c =>
    let x := clu s c
    if x.free then setClu s c { x with l1Enable := on, l1 := if on then x.l1 else [] } else s) s

/-- A step object of class B: while a step or its passes run, the value in force stays until the next step opens. -/
def writeStepB (s : State) (key : Nat) (v : List Byte) : State :=
  let s := if (stepOpen s || passesRun s) && (mfind s.heldB key).isNone then { s with heldB := mset s.heldB key (cfgB s key) } else s
  { s with active := mset s.active key v }

/-- A class B object reaches its owning blocks. -/
def writeClassB (s : State) (key : Nat) (v : List Byte) : State :=
  let put := { s with active := mset s.active key v }
  match key with
  | 0x502001 => writeBAll put 1 (leNat v)
  | 0x502002 => writeBAll put 2 (leNat v)
  | 0x503001 => writeBAll put 3 (leNat v)
  | 0x503002 => writeBAll put 4 (leNat v)
  | 0x504001 => writeBAll put 5 (leNat v)
  | 0x506003 => writeBAll put 6 (leNat v)
  | 0x820001 => put
  | _ => writeStepB s key v

/-- An object whose fields apply one by one: `PACE_SCHED_ENTRY`, `CQ_CONFIG`, `CVU_CONFIG`. -/
def writeFields (s : State) (key : Nat) (v : List Byte) : Nat × State :=
  if key / 256 = 0x2100 then schedWrite s (key % 256 - 1) (subNat v 0 8) (subNat v 8 8) (subNat v 16 8) (subNat v 24 8)
  else if key = 0x500002 then writeAll s 256 fun s q => cqWrite s q (subNat v (8 * q) 8)
  else writeAll s 1280 fun s i => cvuWrite s (i / 5) (i % 5) (subNat v (8 * i) 8) (2 ^ 64 - 1)

/-- The SPDM request a `SET` of the mailbox carries (R495). -/
def spdmRequest (s : State) (sid : Nat) (b : List Byte) : State :=
  let o := match subNat b 1 1 with
    | 0x84 => execGetVersion sid b s
    | 0xE1 => execGetCapabilities sid b s
    | 0xE3 => execNegotiateAlgorithms sid b s
    | 0x81 => execGetDigests sid b s
    | 0x82 => execGetCertificate sid b s
    | 0x83 => execChallenge sid b s
    | 0xE0 => execGetMeasurements sid b s
    | c => execSpdmUnsupportedRequest sid c s
  match o with
  | .next t => t
  | _ => s

/-- A class I object: session objects, the slopes, and values that blocks read where they stand. -/
def writeClassI (s : State) (sid : Nat) (x : Session) (key : Nat) (v : List Byte) : Nat × State :=
  let put := fun (s : State) => { s with active := mset s.active key v }
  match key with
  | 0x110005 => if hasModule x || bit x.authority (leNat v) then (0, setSession s sid { x with part := leNat v }) else (0x47, s)
  | 0x110006 => (0, setSession s sid { x with notify := v })
  | 0xF00001 => (0, setSession s sid { x with diagAddr := leNat v })
  | 0x700005 => (0, spdmRequest s sid v)
  | 0x220002 => (0, put (rebaseRamps s))
  | 0x220003 => (0, put (rebaseRamps s))
  | _ => (0, put s)

/-- Write a whole value that passes the common checks: status and state. -/
def writeObject (s : State) (sid : Nat) (x : Session) (key : Nat) (d : ObjDef) (v : List Byte) : Nat × State :=
  if d.isBlob && !blobFits key v then (0x41, s)
  else if valueBad s key v then (0x42, s)
  else match d.cls with
    | .qs => writeQ s sid x key v
    | .stp =>
      if blockRuns s x key v then (0x45, s)
      else
        let s := { s with active := mset s.active key v }
        (0, if key = 0x502003 then l1dWrite s (leNat v != 0) else s)
    | .bnd => (0, writeClassB s key v)
    | .field => writeFields s key v
    | .imm => writeClassI s sid x key v

/-! ### SET (R467, R470, R473) -/

/-- Apply a whole value and answer. A value whose object has a command of its own is left to it (log 56). -/
def setValue (s : State) (sid : Nat) (x : Session) (m : CamMsg) (d : ObjDef) (v : List Byte) : State :=
  let key := m.index * 256 + m.sub
  let c := writeCheck s x key v
  if c ≠ 0 then camAnswer s sid 2 m c
  else if d.row then s
  else
    let r := writeObject s sid x key d v
    camAnswer r.2 sid 2 m r.1

/-- Take one segment of a BLOB: the one with `LAST` applies the staged value. -/
def setSegment (s : State) (sid : Nat) (x : Session) (m : CamMsg) (d : ObjDef) (most : Nat) : State :=
  let key := m.index * 256 + m.sub
  let part := decide (0x9100 ≤ m.index ∧ m.index ≤ 0x910F)
  let acc := writeCheck s x key []
  let drop := { x with staging := none }
  let have' := match x.staging with
    | none => if m.offset = 0 then some [] else none
    | some (k, b) => if k = key ∧ b.length = m.offset then some b else none
  if 1024 < m.payload.length then camAnswer s sid 2 m 0x41
  else if acc ≠ 0 then camAnswer s sid 2 m acc
  else match have' with
    | none => camAnswer (setSession s sid drop) sid 2 m 0x4B
    | some b =>
      let v := b ++ m.payload
      if most < v.length ∧ part = false then camAnswer (setSession s sid drop) sid 2 m 0x4B
      else if 2 ^ 20 < v.length then camAnswer (setSession s sid drop) sid 2 m 0x46
      else if bit m.flags 1 then setValue (setSession s sid drop) sid drop m d v
      else camAnswer (setSession s sid { x with staging := some (key, v) }) sid 2 m 0

/-- `SET`. -/
def execSetI (sid now : Nat) (m : CamMsg) (s : State) : Out :=
  .next (camlis s sid now 2 m none fun s x =>
    let key := m.index * 256 + m.sub
    match if served s key ∧ m.sub < 256 then objDef key else none with
    | none => camAnswer s sid 2 m 0x40
    | some d =>
      match d.typ with
      | .blob n => setSegment s sid x m d n
      | _ => if m.offset ≠ 0 then camAnswer s sid 2 m 0x41 else setValue s sid x m d m.payload)

/-! ### Sessions (R459, R462, R464) -/

/-- `SESSION_HANDSHAKE` (R459, R462): a client whose certificate chains to an operator root opens a session with that
entry's authority; beyond the limit it is refused. Numbers 0 to 3 are the local sessions'. -/
def execSessionHandshake (sid now : Nat) (chain : List Byte) (s : State) (v6 : Bool := false) : Out :=
  let s := clock s now
  let n := (s.sessions.filter fun (x : Nat × Session) => x.2.localPair.isNone).length
  let root := (Config.rootEntries (cfgB s 0x720001)).find? fun (e : List Byte × Nat) => Config.chainOk chain e.1
  .next (match root with
  | some e =>
    if s.mgmtUp = true ∧ 4 ≤ sid ∧ (mfind s.sessions sid).isNone = true ∧ n < cfg s 0x110002 then
      if serves s 0 then startSession s sid none e.2 v6 else hold s 0 (.handshake sid v6 chain)
    else s
  | none => s)

/-- `SESSION_IDLE_TIMEOUT` (R462, R463). -/
def execSessionIdleTimeout (sid now : Nat) (s : State) : Out :=
  let s := clock s now
  .next (match mfind s.sessions sid with
  | some x => if fwRuns s 0 = true ∧ x.lastMsg + cfg s 0x110004 * 1000000000 ≤ s.pace.now then endSession s sid else s
  | none => s)

/-- `EXPERT_OPEN` (R464). -/
def execExpertOpen (sid now : Nat) (m : CamMsg) (s : State) : Out :=
  .next (camlis s sid now 3 m (some 10) fun s x =>
    if bit x.authority 17 = false then camAnswer s sid 3 m 0x47
    else if m.payload ≠ padTo 8 (strBytes "SKT9-48") ++ strBytes "A1" then camAnswer s sid 3 m 0x48
    else camAnswer (setSession s sid { x with expert := true }) sid 3 m 0)

/-- `EXPERT_CLOSE` (R464). -/
def execExpertClose (sid now : Nat) (m : CamMsg) (s : State) : Out :=
  .next (camlis s sid now 4 m (some 0) fun s x => camAnswer (setSession s sid { x with expert := false }) sid 4 m 0)

/-- `KEEPALIVE` (R465). -/
def execKeepalive (sid now : Nat) (m : CamMsg) (s : State) : Out :=
  .next (camlis s sid now 0x0A m (some 0) fun s _ => camAnswer s sid 0x0A m 0)

/-- `CLOSE` (R462). -/
def execCloseI (sid now : Nat) (m : CamMsg) (s : State) : Out :=
  .next (camlis s sid now 0x0B m (some 0) fun s _ => endSession (camAnswer s sid 0x0B m 0) sid)

/-- Objects a saved record holds (R472): every RW object but those of a session, of 0xF000, and those flash keeps in
places of their own. -/
def savedKeys : List Nat :=
  let ds := objsLow ++ objsMid ++ objsHigh
  (ds.filter fun (x : Nat × ObjDef) => x.2.acc == .rw && x.1 / 256 != 0xF000 && !([0x110005, 0x110006, 0x700005, 0x701003, 0xA00004].contains x.1)).map (·.1)
    ++ ((List.range 64).map fun e => 0x210001 + e) ++ ((List.range 16).map fun w => 0x440001 + w)
    ++ ((List.range 16).map fun r => 0x610101 + r) ++ ((List.range 8).map fun n => 0x610201 + n)
    ++ (List.range 16).flatMap fun p => [1, 2, 3, 4, 5, 6, 7, 10].map (partKey p)

/-- `SAVE` (R472), by a session with MODULE authority (log 57). -/
def execSaveI (sid now : Nat) (m : CamMsg) (s : State) : Out :=
  .next (camlis s sid now 8 m (some 0) fun s x =>
    if hasModule x = false then camAnswer s sid 8 m 0x47
    else camAnswer { s with kept.config := some (savedKeys.map fun k => (k, objBytes s x k false)), kept.configBad := false } sid 8 m 0)

/-! ### Quickset (R476 to R485) -/

/-- Objects whose shadow differs. -/
def shadowDiff (s : State) : List (Nat × List Byte) := s.shadow.filter fun (x : Nat × List Byte) => x.2 != cfgB s x.1

/-- Whether partitions `p` and `q`, in use, conflict: a common cluster or job key (R483, R486). -/
def partsClash (look : Nat → List Byte) (p q : Nat) : Bool :=
  let cs := fun p => leNat (look (partKey p 3))
  (cs p &&& cs q) != 0 || leNat (look (partKey p 2)) == leNat (look (partKey q 2))

/-- Whether partition objects fail R482, R483 or R486, given which partitions are in use. -/
def partsBad (s : State) (look : Nat → List Byte) (on : Nat → Bool) : Bool :=
  (List.range 16).any fun p =>
    ((windowsOf (look (partKey p 4))).any (windowBad s))
      || (on p && (List.range p).any fun q => on q && partsClash look p q)

/-- Whether a tier's use rises above its quota (R484). -/
def quotaRises (s : State) (look : Nat → List Byte) : Bool :=
  (List.range 16).any fun p => (List.range 4).any fun i =>
    let new := tierUse s (look (partKey p 4)) i
    decide (tierUse s (cfgB s (partKey p 4)) i < new) && decide (subNat (look (partKey p 5)) (8 * i) 8 < new)

/-- Whether headframe windows fail R357. -/
def windowsClash (s : State) (look : Nat → List Byte) : Bool :=
  let at' := fun w => look (0x440001 + w)
  let lo := fun w => subNat (at' w) 0 8
  let base := fun w => fld (lo w) 39 30
  let size := fun w => fld (lo w) 49 40 + 1
  let on := fun w => bit (lo w) 63
  (List.range 16).any fun w => on w &&
    (decide (1024 < base w + size w) || fld (subNat (at' w) 8 8) 63 50 == cfg s 0x400001
      || (List.range w).any fun v => on v && rangesMeet (base w) (size w) (base v) (size v))

/-- Status of the checks of the shadow set as a whole (R293, R357, R459, R478, R482 to R486, R492). -/
def quicksetCheck (s : State) : Nat :=
  let look := shadowB s
  let chain := look 0x700002
  let roots := look 0x720001
  if partsBad s look (partOn s) || windowsClash s look
      || ((List.range 8).any fun n => tableBad s look n (look (0x610201 + n)))
      || (chain != cfgB s 0x700002 && chain != [] && !Config.certifies chain (Config.pubKey 0))
      || (roots != cfgB s 0x720001 && !(Config.rootEntries roots).any fun (e : List Byte × Nat) => bit e.2 16) then 0x42
  else if quotaRises s look then 0x46
  else 0

/-- Whether another session holds the shadow set. -/
def heldByOther (s : State) (sid : Nat) : Bool :=
  match s.quickset.holder with
  | some h => h != sid
  | none => false

/-- `QUICKSET` (R478, R479): its response follows at completion. -/
def execQuickset (sid now : Nat) (m : CamMsg) (s : State) : Out :=
  .next (camlis s sid now 5 m (some 8) fun s x =>
    let t := leNat m.payload
    if quicksetBusy s || heldByOther s sid then camAnswer s sid 5 m 0x49
    else if s.pace.now + 10000000000 < t then camAnswer s sid 5 m 0x42
    else if (shadowDiff s).isEmpty then camAnswer (dropShadow s) sid 5 m 0 (leBytes 8 s.pace.now)
    else
      let c := quicksetCheck s
      if c ≠ 0 then camAnswer { s with quickset.lastResult := c } sid 5 m c
      else setSession { s with quickset.pending := some (sid, m.reqId, max t (s.pace.now + 1)) } sid { x with outstanding := x.outstanding ++ [m.reqId] })

/-- `QUICKSET_CANCEL` (R479): from the holder it returns a pending Quickset to the state before; the cancelled request
gets no response (log 58). -/
def execQuicksetCancel (sid now : Nat) (m : CamMsg) (s : State) : Out :=
  .next (camlis s sid now 6 m (some 0) fun s x =>
    if heldByOther s sid || s.quickset.completing.isSome then camAnswer s sid 6 m 0x49
    else match s.quickset.pending with
      | some (_, r, _) =>
        camAnswer (setSession { s with quickset.pending := none } sid { x with outstanding := x.outstanding.filter (· != r) }) sid 6 m 0
      | none => camAnswer s sid 6 m 0)

/-- `SHADOW_DISCARD` (R477). -/
def execShadowDiscard (sid now : Nat) (m : CamMsg) (s : State) : Out :=
  .next (camlis s sid now 7 m (some 0) fun s _ =>
    if quicksetBusy s || heldByOther s sid then camAnswer s sid 7 m 0x49
    else camAnswer (if s.quickset.holder.isSome then dropShadow s else s) sid 7 m 0)

/-- Towers whose scratch split the active set changes (R60). -/
def splitTowers (s : State) : List Nat :=
  (List.range 4).filter fun t => byteOf (cfgB s 0x310001) t != scratchUnits s t

/-- Tower `t` begins its change of split (R60): from the instant the new split is in force, a unit that turns to scratch reads
as zero, one that turns to cache has lost its contents; its cache is written back, and accesses to its stacks wait. -/
def beginSplit (s : State) (t : Nat) : State :=
  let n := byteOf (cfgB s 0x310001) t
  let s := (tow s t).adder.foldl accwLine s
  let old := scratchUnits s t
  let b := 0x080000000000 + t * 0x60000000
  let s := zeroMem s (b + min old n * 0x10000000) (b + max old n * 0x10000000)
  let x := tow s t
  setTow s t { x with
    adder := [], scratchUnits := n, splitTo := some n
    cacheMode := if x.cacheMode = .normal then .writeback else x.cacheMode
    cacheSince := s.pace.now }

/-- `OVER_QUOTA` of every partition after a Quickset (Table 15.6). -/
def setOverQuota (s : State) : State :=
  { s with overQuota := (List.range 16).map fun p =>
      (p, (List.range 4).foldl (fun v i =>
        if subNat (cfgB s (partKey p 5)) (8 * i) 8 < tierUse s (cfgB s (partKey p 4)) i then v + 2 ^ i else v) 0) }

/-- Digest that extends MR7 (Table 16.1). -/
def rootsDigest (s : State) : List Byte := Config.sha384 (cfgB s 0x700002 ++ cfgB s 0x720001)

/-- The swap at a Quickset's instant: every changed object takes its shadow value, and blocks follow (R480); a local session has
the authority that `LOCAL_AUTHORITY` gives (R460). -/
def quicksetSwap (s : State) (sid req t : Nat) : State :=
  let diff := shadowDiff s
  let keys := diff.map (·.1)
  let s := { s with
    active := diff.foldl (fun a (x : Nat × List Byte) => mset a x.1 x.2) s.active
    shadow := []
    quickset.pending := none
    quickset.completing := some (sid, req)
    quickset.moved4 := keys.contains 0x130002
    quickset.moved6 := keys.contains 0x130003
    quickset.lastInstant := t
    quickset.count := s.quickset.count + 1 }
  let ts := if keys.contains 0x310001 then splitTowers s else []
  let s := ts.foldl beginSplit { s with quickset.waitingFor := ts }
  let s := if keys.contains 0x110003 then { s with sessions := s.sessions.map fun (x : Nat × Session) =>
      if x.2.localPair.isSome then (x.1, { x.2 with authority := cfg s 0x110003 }) else x } else s
  let s := if keys.contains 0x410001 then rePath s else s
  let s := if keys.contains 0x200001 then paceSourceChanged s else s
  let s := if keys.contains 0x700002 || keys.contains 0x720001 then mrExtend s 7 (rootsDigest s) else s
  let s := if keys.any fun k => decide (0x9100 ≤ k / 256 ∧ k / 256 ≤ 0x910F ∧ k % 256 ≤ 4) then recomputeDp s else s
  setOverQuota s

/-- `QUICKSET_INSTANT` (R480): it takes place also while `SEC0` restarts. -/
def execQuicksetInstant (now : Nat) (s : State) : Out :=
  let s := clock s now
  .next (match s.quickset.pending with
  | some (sid, req, t) => if t ≤ s.pace.now then quicksetSwap s sid req t else s
  | none => s)

/-- The management port's sessions on an address that moved end (R457). -/
def endMoved (s : State) (v4 v6 : Bool) : State :=
  ((s.sessions.filter fun (x : Nat × Session) => x.2.localPair.isNone && (if x.2.v6 then v6 else v4)).map (·.1)).foldl endSession s

/-- `QUICKSET_COMPLETE` (R480): every sequence has ended; the response is sent and the hold ends; the management port's sessions
on an address that moved end (R457). -/
def execQuicksetComplete (now : Nat) (s : State) : Out :=
  let s := clock s now
  .next (match s.quickset.completing with
  | some (sid, req) =>
    if fwRuns s 0 = true ∧ s.quickset.waitingFor.all (fun t => (tow s t).splitTo.isNone) = true then
      let q := s.quickset
      let s := respond s sid { reqId := req, type := 5, status := 0, payload := leBytes 8 s.quickset.lastInstant }
      let s := { s with quickset.completing := none, quickset.holder := none, quickset.waitingFor := [], quickset.moved4 := false, quickset.moved6 := false, quickset.lastResult := 0 }
      endMoved s q.moved4 q.moved6
    else s
  | none => s)

/-! ### PART_ENABLE (R481) -/

/-- Whether a partition's kernels or queues run. -/
def partRuns (s : State) (p : Nat) : Bool :=
  (s.queues.any fun (x : Nat × CmdQueue) => x.2.part == p && (x.2.en || !x.2.started.isEmpty))
    || s.kernels.any fun (x : Nat × Kernel) => x.2.part == p && x.2.mode != .ended

/-- `PART_ENABLE`: enabling applies the checks of a Quickset against the active set. The write takes the place of the value
that a containment left in the shadow set (R536). -/
def execPartEnable (p : Nat) (w : ObjWrite) (s : State) : Out :=
  .next (objWrite s w (partKey p 1) 0 fun s =>
    let on := leNat w.val == 1
    let look := cfgB s
    let excess := (List.range 4).any fun i => decide (subNat (look (partKey p 5)) (8 * i) 8 < tierUse s (look (partKey p 4)) i)
    let bad := ((windowsOf (look (partKey p 4))).any (windowBad s))
      || (List.range 16).any fun q => q != p && partOn s q && partsClash look p q
    if partRuns s p then (0x45, s)
    else if on && bad then (0x42, s)
    else if on && excess then (0x46, s)
    else (0, { s with active := mset s.active (partKey p 1) w.val, shadow := mdel s.shadow (partKey p 1) }))

/-! ### The management port (R457, R462) -/

/-- Whether the boot has brought the management port up (step 0x0C). -/
def mgmtInService (s : State) : Bool := s.boot.done.contains 0x0C || (s.boot.phase == .halted && s.boot.step2Ok)

/-- `MGMT_LINK_DOWN` (R462). -/
def execMgmtLinkDown (s : State) : Out := .next (endSessions { s with mgmtUp := false } false)

/-- `MGMT_LINK_UP` (R436). -/
def execMgmtLinkUp (s : State) : Out := .next (if mgmtInService s then { s with mgmtUp := true } else s)

/-- `MGMT_PORT_FRAME` (R457): ARP, neighbour discovery and echo are answered, a DHCP or SLAAC address is used where its
object is 0, and every other packet is dropped. -/
def execMgmtPortFrame (f : MgmtFrame) (s : State) : Out :=
  let reply := fun (b : List Byte) => { s with mgmtReplies := s.mgmtReplies ++ [b] }
  .next (if s.mgmtUp = false then s
  else match f with
    | .arp => reply (leBytes 6 (Config.macAddr % 2 ^ 48))
    | .neighbour => reply (leBytes 6 (Config.macAddr % 2 ^ 48))
    | .echo b => reply b
    | .dhcp a => if leNat (cfgB s 0x130002) = 0 then { s with dhcpAddr := a } else s
    | .advert a => if leNat (cfgB s 0x130003) = 0 then { s with slaacAddr := a } else s
    | .other => s)

end Sys2Proof.Machine
end

