-- ==== Sys2Proof/Machine/Package.lean ====
section
/-!
DEFINITION. Module resets, power-up and the pins of the package (R509, R510, R513, R552 to R559, R563, R564).
-/
namespace Sys2Proof.Machine
open Sys2Proof

/-- Causes of the last reset (Table 18.5): 0 cold, 1 `RESET_N`, 2 `MODULE_RESET`, 3 FATAL, 4 failed boot step,
5 restart after a thermal trip, 6 input overvoltage. Image and clocks of boot `n` of a sequence (R513). -/
def bootImage (s : State) (n : Nat) : Nat × Bool :=
  let a := s.kept.activeSlot
  if n ≤ 2 then (a, false) else if n ≤ 4 then (1 - a, false) else (2, decide (7 ≤ n))

/-- Everything a module reset clears is at its reset value (R5, R509); fuses, flash, operating seconds, the
waiting commands and the model's counter of free values stay. -/
def cleared (s : State) : State :=
  { pending := s.pending, kept := s.kept, opSeconds := s.opSeconds, free := s.free, tap := s.tap
    pins := { mated := s.pins.mated, inputMv := s.pins.inputMv, resetN := s.pins.resetN, refClk := s.pins.refClk, trstN := s.pins.trstN }
    boot := { sequence := s.boot.sequence, lastReset := s.boot.lastReset, pendingOver := s.boot.pendingOver }
    bsb := { lastReset := s.boot.lastReset } }

/-- The first boot of a new sequence is due (R513). -/
def newSequence (s : State) : State :=
  let im := bootImage s 1
  { s with boot.sequence := s.boot.sequence + 1, boot.boot := 1, boot.image := im.1, boot.reduced := im.2 }

/-- The events of 12 ms: rails good, Pace time 0 in `FREERUN` (Table 16.7, R432); reduced clocks put every compute
die at point 3 (R514). -/
def at12ms (s : State) : State :=
  let s := { s with pins.railsUp := true, pace := { on := true } }
  if s.boot.reduced then
    { s with power.dvfs := (List.range 8).map fun d => (d, { set := 0, throttle := 0, inForce := 3 }) }
  else s

/-- The boot ROM runs and the flash pins are driven: the first boot step begins. -/
def bootBegins (s : State) : State :=
  { s with boot.phase := .booting, pins.qspiDriven := true, kept.bootCount := s.kept.bootCount + 1 }

/-- The events of 13 ms (Table 16.7, R558): `PRESENT_N` low; with `QSPI_CS_N` low the module waits. -/
def at13ms (s : State) (csLow : Bool) : State :=
  let s := { s with pins.presentN := false }
  if csLow then { s with boot.phase := .waitFlash } else bootBegins s

/-- From the 12 ms point: a missing `REF_CLK` makes the module wait with `FAULT_N` low (R564). -/
def from12ms (s : State) (refClk csLow : Bool) : State :=
  if refClk then at13ms (at12ms { s with pins.refClk := true }) csLow
  else { s with boot.phase := .waitClock, pins.refClk := false, pins.railsUp := true, pins.faultN := false }

/-- Cold module reset (Table 16.6): the power-cycle count advances, the operating seconds resume from flash, a new
boot sequence begins, the rails rise. -/
def coldReset (s : State) (cause : Nat) : State :=
  let s := cleared { s with boot.lastReset := cause, boot.pendingOver := false }
  newSequence { s with
    kept.powerCycles := s.kept.powerCycles + 1
    opSeconds := s.kept.opStored
    boot.phase := .rising }

/-- What a warm reset leaves beyond a cold one: the Pit Log SRAM keeps its records (R539, log 23). -/
def warmCleared (s : State) (cause : Nat) : State :=
  let c := cleared { s with boot.lastReset := cause }
  { c with
    pit := { records := s.pit.records, written := s.pit.written, dropped := s.pit.dropped, dropFlag := s.pit.dropFlag }
    pins.railsUp := true }

/-- Warm module reset that starts a new boot sequence at the 12 ms point (R510, R513). -/
def warmReset (s : State) (cause : Nat) : State :=
  let s := newSequence (warmCleared s cause)
  if s.pins.resetN then from12ms s s.pins.refClk false else { s with boot.phase := .inReset }

/-- A failed non-skippable boot step (R513, R515): a warm reset into the sequence's next boot, or HALTED after the eighth. -/
def bootFailed (s : State) : State :=
  if 8 ≤ s.boot.boot then
    { s with boot.phase := .halted, pins.faultN := false, pins.lasersOn := false, mgmtUp := s.boot.step2Ok
             sessions := s.sessions.filter fun x => x.2.localPair.isNone, localChan := {} }
  else
    let n := s.boot.boot + 1
    let im := bootImage s n
    let c := warmCleared s 4
    let c := { c with boot.boot := n, boot.image := im.1, boot.reduced := im.2 }
    if c.pins.resetN then from12ms c c.pins.refClk false else { c with boot.phase := .inReset }

/-- Whether the rails are up and a reset by `RESET_N` reaches the module. -/
def railsUpPhase (s : State) : Bool :=
  match s.boot.phase with
  | .unpowered | .rising | .tripped => false
  | _ => true

/-- `INPUT_IN_RANGE` (R552, R553): with `MATE_SENSE` mated and 42 to 54 V, an unpowered module starts. -/
def execInputInRange (mated : Bool) (mv : Nat) (s : State) : Out :=
  let s := { s with pins.mated := mated, pins.inputMv := mv }
  .next (if s.boot.phase = .unpowered ∧ mated = true ∧ 42000 ≤ mv ∧ mv ≤ 54000 then
    coldReset s (if s.boot.pendingOver then 6 else 0) else s)

/-- `RAILS_GOOD` (R563, R564): the 12 ms point of power-up. -/
def execRailsGood (refClk csLow : Bool) (s : State) : Out :=
  .next (if s.boot.phase = .rising then
    if s.pins.resetN then from12ms s refClk csLow
    else { s with boot.phase := .waitReset, pins.railsUp := true, pins.refClk := refClk }
  else s)

/-- `REF_CLK_PRESENT` (R564). -/
def execRefClkPresent (csLow : Bool) (s : State) : Out :=
  .next (if s.boot.phase = .waitClock then from12ms { s with pins.faultN := true } true csLow else { s with pins.refClk := true })

/-- Whether an input of `mv` millivolts for `ns` nanoseconds is input loss (Table 18.2). -/
def inputLost (mv ns : Nat) : Bool :=
  (decide (40000 ≤ mv) && decide (mv < 42000) && decide (1000000 < ns)) || (decide (mv < 40000) && decide (20000 < ns))
    || (decide (56000 < mv) && decide (10000 < ns))

/-- `INPUT_LOSS` (R553): every rail falls; the thermal-trip latch clears with the input. -/
def execInputLoss (mv ns : Nat) (s : State) : Out :=
  let s := { s with pins.inputMv := mv }
  .next (if inputLost mv ns ∧ s.boot.phase ≠ .unpowered then
    cleared { s with boot.pendingOver := decide (56000 < mv) }
  else s)

/-- `RESET_N_ASSERT` (R509, R558, R564): low for at least 10 µs with the rails up is a warm reset; the module
then waits for the release. -/
def execResetNAssert (ns : Nat) (s : State) : Out :=
  .next (if ns < 10000 then s
  else
    let s := { s with pins.resetN := false }
    if railsUpPhase s then
      if s.boot.phase = .waitReset ∨ s.boot.phase = .inReset then s
      else { newSequence (warmCleared s 1) with boot.phase := .inReset }
    else s)

/-- `RESET_N_RELEASE` (R564): counts as the 12 ms point; after a thermal trip it restarts the rails. -/
def execResetNRelease (refClk csLow : Bool) (s : State) : Out :=
  let s := { s with pins.resetN := true }
  .next (match s.boot.phase with
  | .inReset => from12ms s refClk csLow
  | .waitReset => from12ms s refClk csLow
  | .tripped => coldReset s 5
  | _ => s)

/-- `FLASH_CS_RELEASE` (R558). -/
def execFlashCsRelease (us : Nat) (s : State) : Out :=
  .next (if s.boot.phase = .waitFlash ∧ 10 ≤ us then bootBegins s else s)

/-- `MODULE_RESET` (R509): the warm reset follows the response. -/
def execModuleReset (w : ObjWrite) (s : State) : Out :=
  let t := objWrite s w 0x701009 0 fun s => if leNat w.val = 1 then (0, { s with boot.phase := .inReset }) else (0x42, s)
  .next (if t.boot.phase = .inReset ∧ s.boot.phase ≠ .inReset then warmReset t 2 else t)

/-- `BSB_STATUS.STATE` (Table 18.5). -/
def bsbState (s : State) : Nat :=
  match s.boot.phase with
  | .booted => 1
  | .halted => 2
  | .fatal => 3
  | _ => 0

/-- `BSB_STATUS_REFRESH` (R559): inlet and outlet in °C, input power in W. -/
def execBsbStatusRefresh (inlet outlet inputW : Nat) (s : State) : Out :=
  .next (match s.boot.phase with
  | .unpowered => s
  | .tripped => s
  | _ => { s with bsb := { state := bsbState s, lastReset := s.boot.lastReset, inlet := min 255 inlet, outlet := min 255 outlet, inputW := min 0xFFFF inputW } })

/-- `BSB_STATUS` (Table 18.5). -/
def Bsb.word (b : Bsb) : Nat :=
  b.state % 256 * 2 ^ 56 + b.lastReset % 256 * 2 ^ 48 + b.inlet % 256 * 2 ^ 40 + b.outlet % 256 * 2 ^ 32 + b.inputW % 65536 * 2 ^ 16

/-- What the board sideband answers to a read at a 7-bit address and register offset (R559); none where it does not
acknowledge: at other addresses and offsets, and while the module is unpowered or its rails are down. -/
def bsbRead (s : State) (address offset : Nat) : Option (List Byte) :=
  if s.boot.phase = .unpowered ∨ s.boot.phase = .tripped ∨ address ≠ 0x4A ∨ offset ≠ 0 then none else some (leBytes 8 s.bsb.word)

/-! ### The test access port (R556) -/

/-- Whether the port takes operations: the module is powered and `TRST_N` is high. -/
def tapLive (s : State) : Bool := s.boot.phase != .unpowered && s.pins.trstN

/-- Whether the port admits an instruction: boundary scan at all times, others where the debug-unlock fuse is blown. -/
def tapAdmits (s : State) (op : TapOp) : Bool :=
  match op with
  | .other _ => s.kept.debugFuse
  | _ => true

/-- `TRST_N` changes: low holds the port in reset. -/
def tapTrst (s : State) (high : Bool) : State :=
  let s := { s with pins.trstN := high }
  if high then s else { s with tap := {} }

/-- An instruction is shifted into the port; one it does not admit is refused and changes nothing. -/
def tapInstr (s : State) (op : TapOp) : State := if tapLive s && tapAdmits s op then { s with tap.op := op } else s

/-- The pins a boundary scan samples: `RESET_N`, `PRESENT_N`, `FAULT_N`, `THERMTRIP_N`, `REF_CLK` (log 125). -/
def tapPins (s : State) : List Bool := [s.pins.resetN, s.pins.presentN, s.pins.faultN, s.pins.thermtripN, s.pins.refClk]

/-- The data register that the port's instruction selects, as a scan captures it: one bit at `BYPASS`, the identification code
at `IDCODE`, the pins at `SAMPLE/PRELOAD` and `EXTEST`; what a debug instruction selects the manual does not give. -/
def tapCapture (s : State) : List Bool :=
  match s.tap.op with
  | .bypass => [false]
  | .idcode => (List.range 32).map Config.idcode.getLsbD
  | .samplePreload => tapPins s
  | .extest => tapPins s
  | .other n => (List.range 32).map fun i => (Config.freeNat (s.free + n)).testBit i

/-- A scan of the data register: the bits that leave at `TDO` for those at `TDI`, and the state after it, in which boundary
scan holds the bits shifted in. -/
def tapScan (s : State) (tdi : List Bool) : List Bool × State :=
  if tapLive s then
    let r := tapCapture s
    let all := r ++ tdi
    let s' := match s.tap.op with
      | .samplePreload => { s with tap.cells := all.drop tdi.length }
      | .extest => { s with tap.cells := all.drop tdi.length }
      | _ => s
    (all.take tdi.length, s')
  else ([], s)

/-- What the output pins `PRESENT_N`, `FAULT_N` and `THERMTRIP_N` show: under `EXTEST` the boundary cells, else what the module
drives. -/
def outPins (s : State) : List Bool :=
  if tapLive s && s.tap.op == .extest then (s.tap.cells.drop 1).take 3 else [s.pins.presentN, s.pins.faultN, s.pins.thermtripN]

end Sys2Proof.Machine
end

