-- ==== Sys2Proof/Machine/Boot.lean ====
section
/-!
DEFINITION. The boot steps and the boot ledger (chapter 16, R511 to R517, R472, R491, R493, R569; Tables 16.1, 16.8, 16.9).
-/
namespace Sys2Proof.Machine
open Sys2Proof

/-! ### Ledger and steps -/

/-- One ledger record (R517): the ring drops a sector of 2,048 records when it wraps. -/
def ledger (s : State) (step unit attempt outcome us code : Nat) : State :=
  let b := s.boot
  let r : LedgerRec := {
    sequence := b.sequence
    boot := b.boot
    step
    unit
    attempt
    outcome
    image := b2n b.reduced * 128 + b.image
    timeUs := us
    code
    opHours := s.opSeconds / 3600 }
  let old := if 8192 ≤ s.kept.ledger.length then s.kept.ledger.drop 2048 else s.kept.ledger
  { s with kept.ledger := old ++ [r] }

/-- Units of a step, none where it is one whole. -/
def stepUnits (step : Nat) : Option Nat :=
  match step with
  | 5 => some 4
  | 6 => some 32
  | 8 => some 8
  | 10 => some 128
  | 11 => some 32
  | _ => none

/-- Key of a step's unit; 0xFFFF stands for the whole step. -/
def stepKey16 (step unit : Nat) : Nat := if unit = 0xFFFF then step else step * 65536 + unit

/-- Whether a step has ended; a disabled port is not brought up. -/
def stepEnded (s : State) (step : Nat) : Bool :=
  match stepUnits step with
  | none => s.boot.done.contains step
  | some n => (List.range n).all fun u => s.boot.done.contains (stepKey16 step u) || (step == 11 && !portEnabled s u)

/-- Whether an attempt of a step may end now: the module boots, the steps it needs have ended, and it has not. -/
def stepOpen16 (s : State) (step unit : Nat) (needs : List Nat) : Bool :=
  (s.boot.phase == .booting) && needs.all (stepEnded s) && !s.boot.done.contains (stepKey16 step unit)

/-- Pace time at `us` microseconds after the release of reset: 12 ms is Pace time 0. -/
def bootClock (s : State) (us : Nat) : State := clock s ((us - 12000) * 1000)

/-- A step or unit has ended. -/
def stepDone (s : State) (step unit : Nat) : State := { s with boot.done := s.boot.done ++ [stepKey16 step unit] }

/-- A whole, non-skippable step fails in this boot (R513); after the eighth boot the ledger says `HALTED`. -/
def stepFails (s : State) (step unit us code : Nat) : State :=
  let s := ledger s step unit 1 1 us code
  bootFailed (if 8 ≤ s.boot.boot then ledger s step unit 1 4 us code else s)

/-- The end of the attempt of a non-skippable step. -/
def bootWhole (s : State) (step us : Nat) (needs : List Nat) (ok : Bool) (code : Nat) (good : State → State) : State :=
  if stepOpen16 s step 0xFFFF needs then
    let s := bootClock s us
    if ok then stepDone (good (ledger s step 0xFFFF 1 0 us 0)) step 0xFFFF else stepFails s step 0xFFFF us code
  else s

/-- A unit is skipped for this boot. -/
def unitSkipped (s : State) (step unit : Nat) (skip : State → State) : State :=
  stepDone (skip { s with boot.skipped := s.boot.skipped ++ [stepKey16 step unit] }) step unit

/-- The end of an attempt of one unit of a skippable step (R511, R512): a retired unit is not attempted; the second
failure skips the unit. -/
def bootUnit (s : State) (step unit us : Nat) (needs : List Nat) (retired ok : Bool) (code : Nat) (good skip : State → State) : State :=
  if stepOpen16 s step unit needs then
    let s := bootClock s us
    let k := step * 65536 + unit
    let n := mget s.boot.attempts k 0 + 1
    if retired then
      let r := draw s 2
      unitSkipped (ledger r.2 step unit (1 + r.1) 3 us 0) step unit skip
    else
      let s := { s with boot.attempts := mset s.boot.attempts k n }
      if ok then stepDone (good (ledger s step unit n 0 us 0)) step unit
      else
        let s := ledger s step unit n 1 us code
        if 2 ≤ n then unitSkipped (ledger s step unit n 2 us code) step unit skip else s
  else s

/-! ### Images (R497, R493) -/

/-- The slot this boot reads. -/
def bootSlot (s : State) : Slot := flashSlot s s.boot.image

/-- Whether processor `p` has an image in the boot's slot that is accepted. -/
def procImageOk (s : State) (p : Nat) : Bool :=
  match slotImage (bootSlot s) (fwKind p) with
  | some i => imageOk s i
  | none => false

/-- Processor `p` starts; its image extends a measurement register. -/
def startProc (s : State) (p reg : Nat) : State :=
  match slotImage (bootSlot s) (fwKind p) with
  | some i => setFwp (mrExtend s reg (Config.sha384 (Image.bytes i))) p { fwp s p with mode := .running, version := i.version, runSince := s.pace.now }
  | none => s

/-- `BOOT_SEC0_VERIFY`: step 0x01. The boot ROM verifies and measures `SEC0`'s image, the fuse state is measured, the AK
is generated, and the bundle's version is fixed for this boot. -/
def execBootSec0Verify (us : Nat) (ok : Bool) (code : Nat) (s : State) : Out :=
  .next (bootWhole s 0x01 us [] (ok && procImageOk s 0) code fun s =>
    let s := startProc s 0 0
    let s := mrExtend s 2 (Config.sha384 (Config.blobBytes 0x700006 (roFields s 0x700006)))
    { s with
      trust.ak := some s.trust.nextKey
      trust.nextKey := s.trust.nextKey + 1
      boot.version := (bootSlot s).bundle.version })

/-- The processor the ledger names where an image of step 0x02 fails; 0xFFFF for another failure. -/
def badProc (s : State) : Nat := (((List.range 12).map (· + 1)).find? fun p => !procImageOk s p).getD 0xFFFF

/-- `BOOT_FW_IMAGES`: step 0x02. -/
def execBootFwImages (us : Nat) (ok : Bool) (code : Nat) (s : State) : Out :=
  .next (if stepOpen16 s 0x02 0xFFFF [0x01] then
    if badProc s = 0xFFFF then
      bootWhole s 0x02 us [0x01] ok code fun s =>
        let s := (List.range 12).foldl (fun s i => startProc s (i + 1) 1) s
        { s with boot.step2Ok := true }
    else stepFails (bootClock s us) 0x02 (badProc s) us code
  else s)

/-! ### The configuration record (R472) -/

/-- The module with every part in service, against which a record is checked before the tiers are built (log 59). -/
def fullMap (s : State) : State := { s with stackMap := List.range 32, packages := (List.range 32).map fun k => (k, DevState.inService) }

/-- Whether one value of a record passes the checks of its object. -/
def savedOk (s : State) (key : Nat) (v : List Byte) : Bool :=
  match objDef key with
  | none => false
  | some d =>
    let fits := match d.typ with
      | .str n => decide (v.length ≤ n)
      | .blob n => decide (v.length ≤ n) && blobFits key v
      | t => t.fixed == some v.length && decide (d.lo ≤ leNat v) && decide (leNat v ≤ d.hi)
    d.acc == .rw && fits && !valueBad s key v

/-- Whether a record passes every check: of each value, and of the set as a whole. -/
def recordOk (s : State) (rec' : Map (List Byte)) : Bool :=
  let f := { fullMap s with active := rec' }
  (rec'.all fun (x : Nat × List Byte) => savedOk f x.1 x.2) && !partsBad f (cfgB f) (partOn f) && !windowsClash f (cfgB f)

/-- Blocks take the fields of the record that they hold themselves. -/
def applyRecord (s : State) : State :=
  let has := fun k => (mfind s.active k).isSome
  let v := fun k => cfgB s k
  let queue := fun (s : State) (q : Nat) =>
    let w := subNat (v 0x500002) (8 * q) 8
    setCq s q (refresh s { cq s q with en := bit w 63, prio := fld w 62 61, preempt := bit w 60, log2n := fld w 59 56, part := fld w 55 48, base := fld w 47 12 * 4096 })
  let entry := fun (s : State) (e : Nat) =>
    let b := v (0x210001 + e)
    let w := subNat b 0 8
    setSched s e { kind := fld w 63 61, arm := bit w 60, irq := bit w 59, time := subNat b 8 8, period := subNat b 16 8, arg := subNat b 24 8 }
  let s := if has 0x500002 then (List.range 256).foldl queue s else s
  let s := (List.range 64).foldl (fun s e => if has (0x210001 + e) then entry s e else s) s
  let s := if has 0x800020 then (writeFields s 0x800020 (v 0x800020)).2 else s
  let s := [0x502001, 0x502002, 0x503001, 0x503002, 0x504001, 0x506003].foldl (fun s k => if has k then writeClassB s k (v k) else s) s
  let s := if has 0x502003 then l1dWrite s (cfg s 0x502003 != 0) else s
  let s := if has 0x400003 then portsEnabled s (cfg s 0x400003) else s
  let s := setPoints s (v 0x230001)
  let s := (List.range 4).foldl (fun s t => setTow s t { tow s t with scratchUnits := byteOf (v 0x310001) t }) s
  let gone := (List.range 128).filter fun c => (clu s c).mode == .retired || (tow s (cluTower c)).levelsOut.contains (cluLevel c)
  let s := gone.foldl dropFromParts s
  setOverQuota { s with power.rampFrom := cfg s 0x220004, power.rampTo := cfg s 0x220004 }

/-- `BOOT_CONFIG_LOAD`: step 0x03, which cannot fail. A record that fails a check is not loaded, and that is recorded; a
rounding seed that the record lacks is drawn. -/
def execBootConfigLoad (us : Nat) (s : State) : Out :=
  .next (bootWhole s 0x03 us [0x01] true 0 fun s =>
    let rec' := s.kept.config.getD []
    let good := !s.kept.configBad && recordOk s rec'
    let s := if good then { s with active := rec', shadow := [] }
      else pitEvent { s with active := [], shadow := [] } 0x0702 0xFFFF
    let s := if (mfind s.active 0x610406).isSome then s
      else
        let r := draw s (2 ^ 64)
        { r.2 with active := mset r.2.active 0x610406 (leBytes 8 r.1) }
    let s := mrExtend s 3 (Config.sha384 ((if good then rec' else []).flatMap fun (x : Nat × List Byte) => leBytes 3 x.1 ++ x.2))
    applyRecord (mrExtend s 7 (rootsDigest s)))

/-! ### Links and memory -/

/-- `BOOT_BRIDGE_TRAIN`: step 0x04. -/
def execBootBridgeTrain (us : Nat) (ok : Bool) (code : Nat) (s : State) : Out :=
  .next (bootWhole s 0x04 us [0x02] ok code fun s => s)

/-- `BOOT_SHAFT_TRAIN`: step 0x05 of tower `t`; lanes found failed take the fallback sequence, and the near store is
zeroed. A skipped tower has L1 to L3 out of service and its near store unmapped. -/
def execBootShaftTrain (t us : Nat) (ok : Bool) (code : Nat) (failed : List LaneRef) (s : State) : Out :=
  .next (bootUnit s 0x05 t us [0x04] false ok code
    (fun s =>
      let b := 0x080000000000 + t * 0x60000000
      let s := zeroMem s b (b + 0x60000000)
      failed.foldl (fun s (f : LaneRef) => laneFailure s t f.joint f.shaft f.lane) s)
    (fun s =>
      let s := levelsLeave s t 0
      setTow s t { tow s t with untrained := true, cacheMode := .bypass }))

/-- `BOOT_STACK_TRAIN`: step 0x06 of a stack, trained at the temperature its sensor last showed (R71), which is free before
the first sample. -/
def execBootStackTrain (st us : Nat) (ok : Bool) (code : Nat) (s : State) : Out :=
  .next (bootUnit s 0x06 st us [0x04] false ok code
    (fun s =>
      let r := match mfind s.power.temps (72 + st) with
        | some c => (c, s)
        | none => let d := draw s (2 ^ 16); (Int.ofNat d.1 - 2 ^ 15, d.2)
      setStk r.2 st { stk r.2 st with st := .inService, lastTrained := s.pace.now, lastTempC := r.1 })
    (fun s => setStk s st { stk s st with st := .skipped }))

/-- `BOOT_FAST_TIER_BUILD`: step 0x07 (R69). -/
def execBootFastTierBuild (us : Nat) (ok : Bool) (code : Nat) (s : State) : Out :=
  .next (bootWhole s 0x07 us [0x06] ok code fun s =>
    let s := { s with stackMap := (List.range 32).filter fun k => (stk s k).st != .skipped }
    zeroMem s 0 (fastEnd s))

/-- The packages of UE `n` in a state. -/
def setPackages (s : State) (n : Nat) (d : DevState) : State :=
  { s with packages := (List.range 4).foldl (fun m i => mset m (4 * n + i) d) s.packages }

/-- Whether UE `n`'s partner on its tower has been skipped. -/
def partnerSkipped (s : State) (n : Nat) : Bool := s.boot.skipped.contains (stepKey16 0x08 (if n % 2 = 0 then n + 1 else n - 1))

/-- `BOOT_UE_START`: step 0x08 of UE `n`; a boot in which both UEs of a tower would be skipped fails (R74). -/
def execBootUeStart (n us : Nat) (ok : Bool) (code : Nat) (s : State) : Out :=
  let good := ok && procImageOk s (13 + n)
  let retired := s.kept.retired.contains (0x200 + n)
  let last := retired || (!good && decide (1 ≤ mget s.boot.attempts (0x08 * 65536 + n) 0))
  .next (if stepOpen16 s 0x08 n [0x04] && last && partnerSkipped s n then
    let s := bootClock s us
    let s := ledger s 0x08 n (mget s.boot.attempts (0x08 * 65536 + n) 0 + 1) 1 us code
    bootFailed (if 8 ≤ s.boot.boot then ledger s 0x08 n (mget s.boot.attempts (0x08 * 65536 + n) 0 + 1) 4 us code else s)
  else bootUnit s 0x08 n us [0x04] retired good code
    (fun s => setUe (setPackages (startProc s (13 + n) 1) n .inService) n { ue s n with inService := true })
    (fun s => setPackages s n .skipped))

/-- `BOOT_DEEP_TIER_ZERO`: step 0x09. -/
def execBootDeepTierZero (us : Nat) (ok : Bool) (code : Nat) (s : State) : Out :=
  .next (bootWhole s 0x09 us [0x08] ok code fun s => zeroMem s 0x040000000000 0x058000000000)

/-- `BOOT_CLUSTER_TEST`: step 0x0A of cluster `c`; a skipped cluster is retired for this boot. -/
def execBootClusterTest (c us : Nat) (ok : Bool) (code : Nat) (s : State) : Out :=
  .next (bootUnit s 0x0A c us [0x05] (retiresCluster s c) ok code
    (fun s => s)
    (fun s => dropFromParts (setClu s c { clu s c with mode := .retired }) c))

/-! ### Ports, measurements, payload -/

/-- Whether what bring-up found lets a port enter service (R322). -/
def peerFits (s : State) (p : Nat) (i : PeerInfo) : Bool :=
  decide (4 ≤ wlCount (i.tx &&& litMask s (p / 8))) && decide (4 ≤ wlCount i.rx) && (i.enc == bit (cfg s 0x470001) p)

/-- `BOOT_PORT_BRINGUP`: step 0x0B of port `p`; `peer` is what its bring-up found. A port that fails keeps retrying. -/
def execBootPortBringup (p us : Nat) (ok : Bool) (code : Nat) (peer : Option PeerInfo) (s : State) : Out :=
  let fits := match peer with
    | some i => ok && peerFits s p i
    | none => false
  let enter := fun (s : State) => match peer with
    | some i => if portUp s p then s else portService { s with pins.lasersOn := true } p i
    | none => s
  let again := fun (s : State) => setPrt s p { prt s p with mode := .training, failedAt := some s.pace.now }
  let t := bootUnit s 0x0B p us [0x02] false fits code enter again
  .next (if portEnabled s p = false then s
  else if stepOpen16 s 0x0B p [0x02] && !fits && (t.boot.phase == .booting) then again { t with pins.lasersOn := true } else t)

/-- `BOOT_MGMT_PORT`: step 0x0C: the management port is up and the Pace source selected; without it Camlis runs over the
local channel only. -/
def execBootMgmtPort (us : Nat) (ok : Bool) (code : Nat) (s : State) : Out :=
  .next (bootUnit s 0x0C 0xFFFF us [0x03] false ok code (fun s => paceSourceChanged { s with mgmtUp := true }) paceSourceChanged)

/-- `BOOT_MEASUREMENTS_CLOSE`: step 0x0D: the boot summary is measured, every Dp computed, the KRK generated. -/
def execBootMeasurementsClose (us : Nat) (ok : Bool) (code : Nat) (s : State) : Out :=
  .next (bootWhole s 0x0D us ((List.range 12).map (· + 1)) ok code fun s =>
    let s := mrExtend s 4 (Config.sha384 (Config.blobBytes 0xA00002 (roFields s 0xA00002)))
    recomputeDp { s with trust.krk := some s.trust.nextKey, trust.nextKey := s.trust.nextKey + 1 })

/-- `BOOT_PAYLOAD_START`: step 0x0E (R500, R516): a payload that `OWNER_BOOT_KEY` demands a signature of and has none
fails; the payload is measured, the cores start, and the slot that booted is marked. -/
def execBootPayloadStart (us : Nat) (ok : Bool) (code : Nat) (s : State) : Out :=
  let key := cfgB s 0x701008
  let signed := key.isEmpty || Config.payloadOk key s.kept.payload
  .next (bootWhole s 0x0E us [0x0D] (ok && signed) code fun s =>
    let s := mrExtend s 5 (Config.sha384 s.kept.payload)
    let s := if s.boot.image < 2 then setSlot s s.boot.image { bootSlot s with booted := true } else s
    { s with boot.phase := .booted })

end Sys2Proof.Machine
end

