-- ==== Sys2Proof/Machine/Firmware.lean ====
section
/-!
DEFINITION. Restarts of the firmware processors (chapter 13, R424 to R427; R15, R314).
-/
namespace Sys2Proof.Machine
open Sys2Proof

/-- Tower whose floor die holds a firmware processor. -/
def fwTower (p : Nat) : Nat := if p = 0 then 0 else if p < 13 then (p - 1) % 4 else (p - 13) / 2

/-- Ask for a restart (R425): it joins the queue once. -/
def fwAsk (s : State) (p : Nat) (forced : Bool) : State :=
  let x := fwp s p
  if x.mode = .off ∨ x.mode = .restarting then s
  else
    let s := setFwp { s with fwQueue := addOnce s.fwQueue p } p { x with asked := some (x.asked.getD s.pace.now), forced := x.forced || forced }
    fwNext s

/-- `FW_RESTART` (R425, R427): a write of the number tries a failed processor again. -/
def execFwRestart (w : ObjWrite) (s : State) : Out :=
  .next (objWrite s w 0x830002 0 fun s =>
    let p := leNat w.val
    if 20 < p then (0x42, s)
    else
      let s := if (fwp s p).mode = .failed then setFwp s p { fwp s p with tries := 0 } else s
      (0, fwAsk s p false))

/-- A processor has failed for good (R427): its hardware keeps its settings. -/
def fwFail (s : State) (p : Nat) : State :=
  let s := setFwp { s with fwQueue := s.fwQueue.filter (· != p) } p { fwp s p with mode := .failed, forced := false, asked := none }
  fwNext (pitEvent (irq s 0x119) 0x0802 p)

/-- `FW_WATCHDOG_EXPIRY` (R427): a second expiry within 1 s of RUNNING, after the one retry, is a failure. -/
def execFwWatchdogExpiry (p now : Nat) (s : State) : Out :=
  let s := clock s now
  let x := fwp s p
  .next (if x.mode ≠ .running then s
  else if s.pace.now < x.runSince + 1000000000 then
    if 1 ≤ x.tries then fwFail s p else fwAsk (setFwp s p { x with tries := 1 }) p true
  else fwAsk (setFwp s p { x with tries := 0 }) p true)

/-- `FW_PROCESSOR_FAULT` (R427). -/
def execFwProcessorFault (p now : Nat) (s : State) : Out :=
  let s := clock s now
  .next (if (fwp s p).mode = .running then fwAsk s p true else s)

/-- `FW_RESTART_ACTION_TIMEOUT` (R426): a requested restart has waited 10 ms at its turn. -/
def execFwRestartActionTimeout (p now : Nat) (s : State) : Out :=
  let s := clock s now
  let busy := s.fw.any fun x => x.2.mode == .restarting
  .next (match (fwp s p).asked with
  | some t =>
    if !busy ∧ s.fwQueue.head? = some p ∧ (fwp s p).mode = .running ∧ t + 10000000 ≤ s.pace.now then fwBegin s p else s
  | none => s)

/-- The idle timers stood still for a time while `SEC0` restarted (R463). -/
def idleShift (s : State) (ns : Nat) : State :=
  { s with sessions := s.sessions.map fun (x : Nat × Session) => (x.1, { x.2 with lastMsg := min s.pace.now (x.2.lastMsg + ns) }) }

/-- Processor `p` writes an entry to its tower's log ring of 4,096, over the oldest where the ring is full; one at or above
`FWLOG_IRQ_SEV` raises 0x118 (R428, R429). -/
def fwNote (p : Nat) (s : State) (n : FwNote) : State :=
  let t := fwTower p
  let q := mget s.fwLogSeq t 0
  let e : FwLog := { seq := q, fwp := p, sev := n.sev, code := n.code, pace := s.pace.now, args := n.args }
  let l := mget s.fwLog t []
  let s := { s with fwLog := mset s.fwLog t (l.drop (l.length - 4095) ++ [e]), fwLogSeq := mset s.fwLogSeq t (q + 1) }
  if cfg s 0x810001 ≤ n.sev then irq s 0x118 else s

/-- `FW_RESTART_COMPLETE` (R425, R427): the processor runs with its image measured and the restart recorded, and writes
`notes` to the log (log 94); an image that fails is tried once more, then the processor is failed. -/
def execFwRestartComplete (p now : Nat) (ok : Bool) (notes : List FwNote) (s : State) : Out :=
  let s := clock s now
  let x := fwp s p
  .next (if x.mode ≠ .restarting then s
  else
    let im := slotImage (flashSlot s s.kept.activeSlot) (fwKind p)
    if ok then
      let s := setFwp s p { x with
        mode := .running
        version := match im with | some i => i.version | none => x.version
        restarts := x.restarts + 1
        forced := false
        runSince := s.pace.now }
      let s := match im with
        | some i => mrExtend s 6 (Config.sha384 (leBytes 1 p ++ Config.sha384 (Image.bytes i)))
        | none => s
      let s := pitEvent (irq s 0x119) 0x0801 p
      let s := trace s (fwTower p) 7 p (b2n x.forced)
      let s := if 13 ≤ p then
          let u := ue s (p - 13)
          if u.mode = .paused then setUe s (p - 13) { u with mode := u.before } else s
        else s
      let s := if p = 0 then idleShift s (s.pace.now - x.runSince) else s
      let s := if 9 ≤ p ∧ p < 13 then retrainNext s (p - 9) else s
      let s := if 1 ≤ p ∧ p < 5 then recalResume s (p - 1) else s
      fwNext (notes.foldl (fwNote p) s)
    else if 1 ≤ x.tries then fwFail s p
    else setFwp s p { x with tries := 1 })

end Sys2Proof.Machine
end

