-- ==== Sys2Proof/Machine/Memory.lean ====
section
/-!
DEFINITION. Memory transactions of any engine, accumulate-writes at the store die, stacks and packages that retrain or
fail, and the patrol scrubber (chapter 3, R54, R55, R62 to R66, R70 to R72, R76 to R81).
-/
namespace Sys2Proof.Machine
open Sys2Proof

/-! ### Transactions -/

/-- Tower whose headframe engine serves an issuer's window accesses. -/
def issTower (x : Issuer) : Nat :=
  match x.kind with
  | .core => x.unit / 4
  | .crew => cluTower x.unit
  | .array => cluTower x.unit
  | .tld => cluTower x.unit
  | .copy => x.unit / 8
  | .ue => x.unit / 2
  | .remote => x.unit / 8
  | .bucket => x.unit
  | .headframe => x.unit
  | .sealing => x.unit
  | .cmdproc => x.unit / 4
  | _ => 0

/-- Read `n` bytes of register space, one 8 B word after another. -/
def regBytes (s : State) (a n : Nat) : List Byte × State :=
  if n = 0 then ([], s)
  else (List.range ((a + n - 1) / 8 - a / 8 + 1)).foldl (fun (acc : List Byte × State) i =>
    let lo := max a ((a / 8 + i) * 8)
    let hi := min (a + n) ((a / 8 + i + 1) * 8)
    let r := regLoad acc.2 lo (hi - lo)
    (acc.1 ++ r.1, r.2)) ([], s)

/-- Store bytes into register space, one 8 B word after another. -/
def regPut (s : State) (who : RegBy) (a : Nat) (bs : List Byte) : State :=
  if bs.isEmpty then s
  else (List.range ((a + bs.length - 1) / 8 - a / 8 + 1)).foldl (fun s i =>
    let lo := max a ((a / 8 + i) * 8)
    let hi := min (a + bs.length) ((a / 8 + i + 1) * 8)
    regStore8 s who lo ((bs.drop (lo - a)).take (hi - lo))) s

/-- A transaction in register space: an atomic or a fetch is not applied there (log 52). -/
def regXact (s : State) (x : Xact) : State :=
  match x.kind with
  | .load => let r := regBytes s x.addr x.size; complete r.2 x.tag 0 r.1
  | .store => complete (regPut s (regBy x.iss) x.addr (padTo x.size x.data)) x.tag 0
  | .flagStore => complete (regPut s (regBy x.iss) x.addr (padTo x.size x.data)) x.tag 0
  | _ => complete s x.tag 4

/-- A transaction in a headframe window (R358, R359, R361). -/
def windowXact (s : State) (x : Xact) : State :=
  let t := issTower x.iss
  let put :=
    let r := hfStoreAt s t (0x8000 + x.iss.unit) (x.iss.part.getD 0) x.addr (padTo x.size x.data) x.poison
    complete r.1 x.tag r.2
  match x.kind with
  | .load => xactRead s t x
  | .store => put
  | .flagStore => put
  | _ => complete s x.tag 4

/-- A memory transaction at its target (R54, R55): checked, then performed there; `errs` are the errors of the units it reads
(R77, R78, R111). -/
def access (s : State) (x : Xact) (errs : List (Nat × Nat)) : State :=
  let st := accessStatus s x.iss x.kind x.addr x.size
  let reads := match x.kind with | .load => true | .fetch => true | .atom _ _ => true | _ => false
  if st ≠ 0 then complete s x.tag st (if x.kind = .load then List.replicate x.size 0#8 else [])
  else match home s x.addr with
    | .regs => regXact s x
    | .window => windowXact s x
    | _ => performOrWait (if reads && !failedHome s x.addr then readErrs s x.addr errs else s) { x }

/-- A memory transaction that is carried to its target and applied there, and whose response is discarded (R40, R46): a load
of a window changes nothing. -/
def accessUnheard (s : State) (x : Xact) : State :=
  if accessStatus s x.iss x.kind x.addr x.size ≠ 0 then s
  else match home s x.addr with
    | .regs => { regXact s x with completions := s.completions }
    | .window => if x.kind = .load then s else { windowXact s x with completions := s.completions }
    | _ => performOrWait s { x, answer := false }

/-- What the way of a transaction lets become of it (R40, R46, R48), given its ordinary course, its course with the response
discarded, and its completion with a status. Under a tower reset whether it is applied is free; so is, on a level in reset or
behind a relay out of service, whether it had already passed. -/
def onWay (f : Flight) (s : State) (run unheard : State → State) (fail : State → Nat → State) : State :=
  match f with
  | .free => run s
  | .lost => let r := draw s 2; fail (if r.1 = 1 then unheard r.2 else r.2) 2
  | .stopped => let r := draw s 2; if r.1 = 1 then unheard r.2 else r.2
  | .cut => let r := draw s 2; if r.1 = 1 then unheard r.2 else fail r.2 3

/-- `MEMORY_ACCESS` (R27, R40, R46, R48, R54, R55). -/
def execMemoryAccess (x : Xact) (errs : List (Nat × Nat)) (s : State) : Out :=
  .next (if alive s = false then s
  else onWay (flight s x.iss x.addr) s (fun s => access s x errs) (fun s => accessUnheard s x) fun s st => complete s x.tag st)

/-! ### Accumulate-writes -/

/-- An accumulate-write of an engine, after which the L1 of an issuing crew's cluster keeps no copy of the line (R113). -/
def accwFrom (s : State) (a : AccWrite) : State × Nat :=
  let r := accw s a
  (if a.iss.kind = .crew ∧ r.2 = 0 then
    let x := clu r.1 a.iss.unit
    setClu r.1 a.iss.unit { x with l1 := x.l1.filter fun l => l.line != a.addr / 128 }
  else r.1, r.2)

/-- `ACCW_REQUEST` (R62, R65): checked and acknowledged into the adder queue of its tower. -/
def execAccwRequest (a : AccWrite) (s : State) : Out :=
  .next (if alive s = false then s
  else onWay (flight s a.iss a.addr) s (fun s => let r := accwFrom s a; complete r.1 a.tag r.2) (fun s => (accwFrom s a).1)
    fun s st => complete s a.tag st)

/-- `ACCW_APPLY` (R63, R64): the store die applies one queued accumulate-write, in an order it may choose. -/
def execAccwApply (t i : Nat) (s : State) : Out :=
  .next (match (tow s t).adder[i]? with
  | some w => accwLine (setTow s t { tow s t with adder := (tow s t).adder.eraseIdx i }) w
  | none => s)

/-! ### Retraining and failures -/

/-- `STACK_RETRAIN` (R71): a write of a stack number. -/
def execStackRetrain (w : ObjWrite) (s : State) : Out :=
  .next (objWrite s w 0x320004 0 fun s =>
    let k := leNat w.val
    if 32 ≤ k ∨ (stk s k).st = .failed ∨ (stk s k).st = .skipped then (0x42, s) else (0, wantRetrain s k))

/-- `STACK_RETRAIN_INTERVAL` (R71): `RETRAIN_INTERVAL` seconds after a stack's last training; 0 disables it. -/
def execStackRetrainInterval (k now : Nat) (s : State) : Out :=
  let s := clock s now
  let n := cfg s 0x320005
  .next (if n ≠ 0 ∧ (stk s k).lastTrained + n * 1000000000 ≤ s.pace.now then wantRetrain s k else s)

/-- `STACK_TEMP_DELTA` (R71): the stack's temperature is read, and has moved by `RETRAIN_DELTA_C` since its last
training. -/
def execStackTempDelta (k : Nat) (tempC : Int) (now : Nat) (s : State) : Out :=
  let s := clock s now
  let s := { s with power.temps := mset s.power.temps (72 + k) tempC }
  .next (if cfg s 0x320006 ≤ (tempC - (stk s k).lastTempC).natAbs then wantRetrain s k else s)

/-- `STACK_RETRAIN_DONE` (R70, R71): the exclusion ends; the accesses that waited go on, and the next stack may follow.
A retraining that cannot restore the interface marks the stack failed. -/
def execStackRetrainDone (k now : Nat) (ok : Bool) (s : State) : Out :=
  let s := clock s now
  .next (if (stk s k).st ≠ .excluded then s
  else
    let x := stk s k
    let s := if ok then
        releaseStack (setStk s k { x with st := .inService, lastTrained := s.pace.now, lastTempC := mget s.power.temps (72 + k) x.lastTempC }) k
      else failStack s k
    fwNext (retrainNext s (k / 8)))

/-- `MEM_DEVICE_FAILURE` (R72, R76): a stack (0 to 31) or an LPDDR6 package (0x20 on) fails in service. -/
def execMemDeviceFailure (u : Nat) (s : State) : Out :=
  .next (if u < 32 then
    if (stk s u).st = .inService ∨ (stk s u).st = .excluded then retrainNext (failStack s u) (u / 8) else s
  else
    let p := u - 32
    if mget s.packages p .skipped = .inService then
      ueFailed (pitEvent { s with packages := mset s.packages p .failed } 0x0201 u) (p / 4)
    else s)

/-! ### Scrubbing -/

/-- `SCRUB_PATROL` (R79, R80): the patrol of a tier reads a unit and corrects it; a unit written in between keeps the newer data.
A period of 0 stops the tier's patrol, and an excluded stack waits. `near` tells that the patrol is the near store's: of a
fast-tier address it reads the copy that the cache part holds. -/
def execScrubPatrol (addr : Nat) (errs : List (Nat × Nat)) (newer : Bool) (s : State) (near : Bool := false) : Out :=
  let here := match home s addr with
    | .scratch _ => near && cfg s 0x350002 != 0
    | .fast k => if near then cfg s 0x350002 != 0 && cached s addr else cfg s 0x350003 != 0 && (stk s k).st != .excluded
    | .deep _ => !near && cfg s 0x350004 != 0
    | _ => false
  .next (if alive s = false ∨ here = false ∨ failedHome s addr then s
  else if cached s addr && !near then (if newer then s else readUnder s addr errs)
  else
    let r := readUnit s addr errs near
    if newer then { r with mem := s.mem, poison := s.poison } else r)

end Sys2Proof.Machine
end

