-- ==== Sys2Proof/Machine/Commands.lean ====
section
/-!
DEFINITION. The commands of the command queues' rings (chapter 13, R405 to R409, Table 13.5).
-/
namespace Sys2Proof.Machine
open Sys2Proof

/-- Whether a command other than `LAUNCH` sets a bit it does not use (R405, Table 13.5). -/
def reservedSet (w : List W64) : Bool :=
  let zero := fun i => cw w i == 0
  let addr := decide (cw w 1 < 2 ^ 48)
  let low := fun n => decide (cw w 0 % 2 ^ 54 < 2 ^ n)
  match opcodeOf w with
  | 0x00 => !(low 0 && (List.range 15).all fun i => zero (i + 1))
  | 0x02 => !(low 4 && (List.range 7).all fun i => zero (i + 1))
  | 0x03 => !(low 3 && addr && (List.range 13).all fun i => zero (i + 3))
  | 0x04 => !(low 3 && addr && (List.range 13).all fun i => zero (i + 3))
  | 0x05 => !(low 0 && addr && (List.range 14).all fun i => zero (i + 2))
  | _ => false

/-- Whether a command waits for earlier commands of its queue: `FENCE_BEFORE`, or a `SIGNAL` (R406, Table 13.5). -/
def fenced (s : State) (q : Nat) (w : List W64) : Bool :=
  (opcodeOf w == 4 || bit (cw w 0) 55) && !(cq s q).started.isEmpty

/-- Whether a queue has a command ready to start (R406): a valid one, behind no fence and no excluded stack. -/
def readyCmd (s : State) (q : Nat) : Bool :=
  match fetchCmd s q with
  | none => false
  | some w => decide (opcodeOf w ≤ 5) && !reservedSet w && !fenced s q w && !(decide (4 ≤ opcodeOf w) && waits s (cw w 1))

/-- Whether queue `q` is the one its command processor serves next (R406): no queue of the processor with a higher priority
has a command ready, and no queue of the same priority that comes before `q` in the round from the one served last. -/
def cpTurn (s : State) (q : Nat) : Bool :=
  let after := fun j => match mfind s.cpLast (q / 16) with
    | some l => (j + 15 - l) % 16
    | none => 0
  (List.range 16).all fun j =>
    let o := q / 16 * 16 + j
    o == q || !readyCmd s o || decide ((cq s o).prio < (cq s q).prio)
      || ((cq s o).prio == (cq s q).prio && decide (after (q % 16) ≤ after j))

/-- The command a queue starts next, where it has this opcode, sets no reserved bit, waits for no earlier command and its
queue's turn has come (R405, R406). -/
def nextCmd (s : State) (q op : Nat) : Option (List W64) :=
  match fetchCmd s q with
  | none => none
  | some w => if opcodeOf w ≠ op ∨ reservedSet w ∨ fenced s q w ∨ cpTurn s q = false then none else some w

/-- A command that completes at its start; `err` raises the command processor's source (R407). -/
def finishCmd (s : State) (q : Nat) (w : List W64) (err : Bool) : State :=
  let i := (cq s q).read
  let s := completeCmd (startCmd s q w) q i
  if err then irq s (cpSource q) else s

/-- Storer code of a queue's command processor at its tower's headframe engine. -/
def cpCode (q : Nat) : Nat := 0x8000 + q / 16
/-- Issuer of a queue's accesses. -/
def cpIss (s : State) (q : Nat) : Issuer := { kind := .cmdproc, unit := q / 16, part := some (cq s q).part }

/-- An 8 B store of a command (R407): its address has passed its checks. -/
def cpStore (s : State) (q a v : Nat) : State :=
  let iss := cpIss s q
  if accessStatus s iss .store a 8 ≠ 0 then s
  else match home s a with
    | .regs => regStore8 s (regBy iss) a (leBytes 8 v)
    | .window => (hfStoreAt s (q / 64) (cpCode q) (cq s q).part a (leBytes 8 v) false).1
    | _ => (store s iss a (leBytes 8 v)).1

/-- `CMD_NOP`. -/
def execCmdNop (q : Nat) (s : State) : Out :=
  .next (match nextCmd s q 0 with
  | some w => finishCmd s q w false
  | none => s)

/-- `CMD_LAUNCH` (R408 to R410). -/
def execCmdLaunch (q : Nat) (s : State) : Out :=
  .next (match nextCmd s q 1 with
  | some w =>
    let chk := launchCheck s q w
    if chk ≠ 0 then refuseLaunch s q w chk else acceptLaunch s q w
  | none => s)

/-- Whether a copy command would write where R407 forbids it. -/
def copyForbidden (s : State) (p : Nat) (j : CopyJob) : Bool :=
  !j.bad && (((List.range j.dstRows).any fun r => badArea s p (j.dst + r * j.dstStride) j.dstRow 1)
    || (bit (j.w 6) 63 && badArea s p (fld (j.w 6) 47 0) 8 8))

/-- `CMD_COPY` (R407): the descriptor joins a copy engine's queue; any enabled engine is a free choice. Without an
engine to take it the command completes with the source (log 53). -/
def execCmdCopy (q : Nat) (s : State) : Out :=
  .next (match nextCmd s q 2 with
  | some w =>
    let t := q / 64
    let n := cw w 0 % 16
    let es := ((if n = 15 then List.range 8 else if n < 8 then [n] else []).map (8 * t + ·)).filter (copyEnabled s)
    let j : CopyJob := { d := (w.drop 8).take 8, src := .cmd q (cq s q).read, part := (cq s q).part }
    if es.isEmpty || copyForbidden s (cq s q).part j then finishCmd s q w true
    else
      let r := if es.length = 1 then (0, s) else draw s es.length
      pushCopy (startCmd r.2 q w) (es.getD r.1 0) j
  | none => s)

/-- `CMD_WAIT`: it starts, and later commands of the queue may start. -/
def execCmdWait (q : Nat) (s : State) : Out :=
  .next (match nextCmd s q 3 with
  | some w => if cw w 1 % 8 = 0 then startCmd s q w else finishCmd s q w true
  | none => s)

/-- `CMD_WAIT_SATISFIED`: a started `WAIT` reads its word, and completes where it meets the condition (R146); a read that
fails ends the wait with the source (log 53). -/
def execCmdWaitSatisfied (q i : Nat) (s : State) : Out :=
  .next (match (cq s q).started.find? fun e => e.index == i && e.opcode == 3 with
  | none => s
  | some e =>
    let a := cw e.words 1
    if alive s = false ∨ waits s a then s
    else
      let iss := cpIss s q
      let r := match home s a with
        | .regs =>
          let st := accessStatus s iss .load a 8
          if st ≠ 0 then (s, st, [], false) else let x := regLoad s a 8; (x.2, 0, x.1, false)
        | .window => (s, 4, [], false)
        | _ => load s iss a 8
      if isFault r.2.1 then irq (completeCmd r.1 q i) (cpSource q)
      else if waitHolds (cw e.words 0 % 8) 64 (leNat r.2.2.1) (cw e.words 2) then completeCmd r.1 q i
      else r.1)

/-- `CMD_SIGNAL`: after every earlier command, a store with release at its scope (R407); at SYSTEM the processor's
window stores are acknowledged first (R360). -/
def execCmdSignal (q : Nat) (s : State) : Out :=
  .next (match nextCmd s q 4 with
  | some w =>
    let scope := cw w 0 % 8
    let a := cw w 1
    if scope < 3 ∨ 5 < scope ∨ badArea s (cq s q).part a 8 8 then finishCmd s q w true
    else
      let s := flushRunsAt s (q / 64) (cpCode q)
      if waits s a ∨ (scope = 5 ∧ holdsRunsAt s (q / 64) (cpCode q)) then s
      else
        let r := if scope = 5 then takeFailuresAt s (q / 64) (cpCode q) else ([], s)
        finishCmd (cpStore r.2 q a (cw w 2)) q w (!r.1.isEmpty)
  | none => s)

/-- `CMD_TIMESTAMP`: Pace time at its start is written. -/
def execCmdTimestamp (q now : Nat) (s : State) : Out :=
  let s := clock s now
  .next (match nextCmd s q 5 with
  | some w =>
    let a := cw w 1
    if badArea s (cq s q).part a 8 8 then finishCmd s q w true
    else if waits s a then s
    else finishCmd (cpStore s q a (paceAt s (q / 64))) q w false
  | none => s)

/-- `CMD_INVALID_OPCODE` (R405): an opcode no command has, or a reserved bit set in a command other than `LAUNCH`, stops
the queue at that command. -/
def execCmdInvalidOpcode (q : Nat) (s : State) : Out :=
  .next (match fetchCmd s q with
  | some w => if 5 < opcodeOf w then queueError s q 1 else if reservedSet w then queueError s q 3 else s
  | none => s)

end Sys2Proof.Machine
end

