-- ==== Sys2Proof/Machine/CrewAlu.lean ====
section
/-!
DEFINITION. Arithmetic, conversion, compare, select, move, lane exchange and scalar instructions (R135, R136, R245 to
R251, R566).
-/
namespace Sys2Proof.Machine
open Sys2Proof

/-! ### Operands with their negate bits (Table 5.2, R566) -/

/-- Two's complement of a `wd`-bit value. -/
def negInt (wd v : Nat) : Nat := wrap wd (-(v : Int))
/-- A binary32 value with its sign flipped; two packed 16-bit values with theirs. -/
def negF32 (v : Nat) : Nat := v ^^^ 0x80000000
def negPacked (v : Nat) : Nat := v ^^^ 0x80008000

/-- Source `k` (0 `SRCA`, 1 `SRCB`, 2 `SRCC`) in a lane, negated by `neg` where its `MOD` bit says so. A predicate
source is one bit and is inverted. -/
def source (s : State) (i : Ins) (wd : Nat) (neg : Nat → Nat) (k l : Nat) : Nat × Bool :=
  let code := i.o (k + 1)
  let r := srcLane s i wd code l
  if bit i.w (5 - k) then (if opKind code = .pred then 1 - r.1 else neg r.1, r.2) else r

/-- Sources 0 to `n` − 1 in a lane: their values, and whether one is poisoned. -/
def sources (s : State) (i : Ins) (wd : Nat) (neg : Nat → Nat) (n l : Nat) : List Nat × Bool :=
  let rs := (List.range n).map fun k => source s i wd neg k l
  (rs.map (·.1), rs.any (·.2))

/-- A lane-wise instruction of one operation: `f` gives a lane's result from its sources. -/
def laneOp (s : State) (c k major minor : Nat) (h : RShape) (f : State → Ins → State) : State :=
  issue s c k (fun a b => a == major && b == minor) h.uni (rCodes h) fun s i => step1 (f s i) i

/-- Write per-lane results of integer sources at the operand width. -/
def intLanes (n : Nat) (f : Nat → List Nat → Nat) (s : State) (i : Ins) : State :=
  writeLanes s i i.wd (i.o 0) fun l =>
    let r := sources s i i.wd (negInt i.wd) n l
    (f i.wd r.1, r.2)

/-- As `intLanes`, with 64 free bits for each lane from one free value (log 1): for operands whose result the spec
does not state. -/
def intLanesFree (n : Nat) (f : Nat → List Nat → Nat → Nat) (s : State) (i : Ins) : State :=
  let d := draw s (2 ^ 2048)
  writeLanes d.2 i i.wd (i.o 0) fun l =>
    let r := sources s i i.wd (negInt i.wd) n l
    (f i.wd r.1 (d.1 / 2 ^ (64 * l) % 2 ^ i.wd), r.2)

/-! ### Integer class (R135) -/

/-- Sum, difference, product and multiply-add, wrapping at the width. -/
def addW (wd : Nat) (a : List Nat) : Nat := (a.getD 0 0 + a.getD 1 0) % 2 ^ wd
def subW (wd : Nat) (a : List Nat) : Nat := wrap wd ((a.getD 0 0 : Int) - a.getD 1 0)
def mulW (wd : Nat) (a : List Nat) : Nat := a.getD 0 0 * a.getD 1 0 % 2 ^ wd
def mulaW (wd : Nat) (a : List Nat) : Nat := (a.getD 0 0 * a.getD 1 0 + a.getD 2 0) % 2 ^ wd
/-- Order of two values, signed or unsigned. -/
def ltW (uns : Bool) (wd a b : Nat) : Bool := if uns then decide (a < b) else decide (sext wd a < sext wd b)
def minW (uns : Bool) (wd : Nat) (a : List Nat) : Nat := if ltW uns wd (a.getD 1 0) (a.getD 0 0) then a.getD 1 0 else a.getD 0 0
def maxW (uns : Bool) (wd : Nat) (a : List Nat) : Nat := if ltW uns wd (a.getD 0 0) (a.getD 1 0) then a.getD 1 0 else a.getD 0 0
/-- Absolute value of a signed value; that of the least value is not stated, and is `z`. -/
def absW (wd : Nat) (a : List Nat) (z : Nat) : Nat :=
  if a.getD 0 0 = 2 ^ (wd - 1) then z else (sext wd (a.getD 0 0)).natAbs
/-- Shifts; a count of the width or more is not stated, and gives `z`. -/
def shlW (wd : Nat) (a : List Nat) (z : Nat) : Nat := if wd ≤ a.getD 1 0 then z else a.getD 0 0 * 2 ^ a.getD 1 0 % 2 ^ wd
def shrW (wd : Nat) (a : List Nat) (z : Nat) : Nat := if wd ≤ a.getD 1 0 then z else a.getD 0 0 / 2 ^ a.getD 1 0
def sarW (wd : Nat) (a : List Nat) (z : Nat) : Nat := if wd ≤ a.getD 1 0 then z else wrap wd (sext wd (a.getD 0 0) / (2 ^ a.getD 1 0 : Nat))
/-- Bits. -/
def notW (wd a : Nat) : Nat := 2 ^ wd - 1 - a % 2 ^ wd
def bcntW (wd a : Nat) : Nat := ((List.range wd).filter fun i => bit a i).length
def clzW (wd a : Nat) : Nat := if a = 0 then wd else wd - 1 - Nat.log2 a
def brevW (wd a : Nat) : Nat := (List.range wd).foldl (fun r i => if bit a i then r + 2 ^ (wd - 1 - i) else r) 0
/-- `BPICK`: result byte k is the byte that byte k of `SRCC` numbers, 0 to 3 from `SRCA` and 4 to 7 from `SRCB`
(log 49); an index above 7 is not stated, and the byte is that of `z`. -/
def bpickW (a : List Nat) (z : Nat) : Nat :=
  (List.range 4).foldl (fun r k =>
    let n := fld (a.getD 2 0) (8 * k + 7) (8 * k)
    let b := if n < 4 then fld (a.getD 0 0) (8 * n + 7) (8 * n) else if n < 8 then fld (a.getD 1 0) (8 * n - 25) (8 * n - 32) else fld z (8 * k + 7) (8 * k)
    r + b * 2 ^ (8 * k)) 0

/-- `IADD`. -/
def execIadd (c k : Nat) (s : State) : Out := .next (laneOp s c k 0x01 0x00 { n := 2, wide := true } (intLanes 2 addW))
/-- `ISUB`. -/
def execIsub (c k : Nat) (s : State) : Out := .next (laneOp s c k 0x01 0x01 { n := 2, wide := true } (intLanes 2 subW))
/-- `IMUL`. -/
def execImul (c k : Nat) (s : State) : Out := .next (laneOp s c k 0x01 0x02 { n := 2, wide := true } (intLanes 2 mulW))
/-- `IMULA`. -/
def execImula (c k : Nat) (s : State) : Out := .next (laneOp s c k 0x01 0x03 { n := 3 } (intLanes 3 mulaW))
/-- `IMIN` and `IMIN.U`. -/
def execImin (c k : Nat) (s : State) : Out :=
  .next (issue s c k (fun a b => a == 0x01 && b / 2 == 2) false (rCodes { n := 2, wide := true })
    fun s i => step1 (intLanes 2 (minW (bit i.w 50)) s i) i)
/-- `IMAX` and `IMAX.U`. -/
def execImax (c k : Nat) (s : State) : Out :=
  .next (issue s c k (fun a b => a == 0x01 && b / 2 == 3) false (rCodes { n := 2, wide := true })
    fun s i => step1 (intLanes 2 (maxW (bit i.w 50)) s i) i)
/-- `IABS`. -/
def execIabs (c k : Nat) (s : State) : Out := .next (laneOp s c k 0x01 0x08 { n := 1, wide := true } (intLanesFree 1 absW))
/-- `SHL`. -/
def execShl (c k : Nat) (s : State) : Out := .next (laneOp s c k 0x01 0x09 { n := 2, wide := true } (intLanesFree 2 shlW))
/-- `SHR`. -/
def execShr (c k : Nat) (s : State) : Out := .next (laneOp s c k 0x01 0x0A { n := 2, wide := true } (intLanesFree 2 shrW))
/-- `SAR`. -/
def execSar (c k : Nat) (s : State) : Out := .next (laneOp s c k 0x01 0x0B { n := 2, wide := true } (intLanesFree 2 sarW))
/-- `AND`. -/
def execAndI (c k : Nat) (s : State) : Out :=
  .next (laneOp s c k 0x01 0x0C { n := 2, wide := true } (intLanes 2 fun _ a => a.getD 0 0 &&& a.getD 1 0))
/-- `OR`. -/
def execOrI (c k : Nat) (s : State) : Out :=
  .next (laneOp s c k 0x01 0x0D { n := 2, wide := true } (intLanes 2 fun _ a => a.getD 0 0 ||| a.getD 1 0))
/-- `XOR`. -/
def execXorI (c k : Nat) (s : State) : Out :=
  .next (laneOp s c k 0x01 0x0E { n := 2, wide := true } (intLanes 2 fun _ a => a.getD 0 0 ^^^ a.getD 1 0))
/-- `NOT`. -/
def execNotI (c k : Nat) (s : State) : Out :=
  .next (laneOp s c k 0x01 0x0F { n := 1, wide := true } (intLanes 1 fun wd a => notW wd (a.getD 0 0)))
/-- `BCNT`. -/
def execBcnt (c k : Nat) (s : State) : Out :=
  .next (laneOp s c k 0x01 0x10 { n := 1, wide := true } (intLanes 1 fun wd a => bcntW wd (a.getD 0 0)))
/-- `CLZ`. -/
def execClz (c k : Nat) (s : State) : Out :=
  .next (laneOp s c k 0x01 0x11 { n := 1, wide := true } (intLanes 1 fun wd a => clzW wd (a.getD 0 0)))
/-- `BREV`. -/
def execBrev (c k : Nat) (s : State) : Out :=
  .next (laneOp s c k 0x01 0x12 { n := 1, wide := true } (intLanes 1 fun wd a => brevW wd (a.getD 0 0)))
/-- `BPICK`. -/
def execBpick (c k : Nat) (s : State) : Out := .next (laneOp s c k 0x01 0x13 { n := 3 } (intLanesFree 3 fun _ => bpickW))

/-! ### FP32, packed and special functions (R251) -/

/-- Per-lane floating-point results with the saturations each counts in `VEC_SAT` (R251). -/
def fpLanes (neg : Nat → Nat) (n : Nat) (f : List Nat → Nat × Nat) (s : State) (i : Ins) : State :=
  let sats := ((lanesOf i.lanes).map fun l => (f (sources s i 32 neg n l).1).2).foldl (· + ·) 0
  let s' := writeLanes s i 32 (i.o 0) fun l =>
    let r := sources s i 32 neg n l
    ((f r.1).1, r.2)
  setClu s' i.c { clu s' i.c with vecSat := (clu s' i.c).vecSat + sats }

/-- A result with its saturation as a count. -/
def sat1 (r : Nat × Bool) : Nat × Nat := (r.1, b2n r.2)

/-- A packed operation on both halves of a lane. -/
def packed (f : Nat → Nat → Nat → Nat × Bool) (a : List Nat) : Nat × Nat :=
  let half := fun sh => f (a.getD 0 0 / sh % 65536) (a.getD 1 0 / sh % 65536) (a.getD 2 0 / sh % 65536)
  let lo := half 1
  let hi := half 65536
  (lo.1 + hi.1 * 65536, b2n lo.2 + b2n hi.2)

/-- `FADD`. -/
def execFadd (c k : Nat) (s : State) : Out :=
  .next (laneOp s c k 0x02 0x00 { n := 2 } (fpLanes negF32 2 fun a => sat1 (f32.fadd (a.getD 0 0) (a.getD 1 0))))
/-- `FSUB`. -/
def execFsub (c k : Nat) (s : State) : Out :=
  .next (laneOp s c k 0x02 0x01 { n := 2 } (fpLanes negF32 2 fun a => sat1 (f32.fsub (a.getD 0 0) (a.getD 1 0))))
/-- `FMUL`. -/
def execFmul (c k : Nat) (s : State) : Out :=
  .next (laneOp s c k 0x02 0x02 { n := 2 } (fpLanes negF32 2 fun a => sat1 (f32.fmul (a.getD 0 0) (a.getD 1 0))))
/-- `FMAC`. -/
def execFmac (c k : Nat) (s : State) : Out :=
  .next (laneOp s c k 0x02 0x03 { n := 3 } (fpLanes negF32 3 fun a => sat1 (f32.ffma (a.getD 0 0) (a.getD 1 0) (a.getD 2 0))))
/-- `FMIN`. -/
def execFmin (c k : Nat) (s : State) : Out :=
  .next (laneOp s c k 0x02 0x04 { n := 2 } (fpLanes negF32 2 fun a => (f32.fmin (a.getD 0 0) (a.getD 1 0), 0)))
/-- `FMAX`. -/
def execFmax (c k : Nat) (s : State) : Out :=
  .next (laneOp s c k 0x02 0x05 { n := 2 } (fpLanes negF32 2 fun a => (f32.fmax (a.getD 0 0) (a.getD 1 0), 0)))
/-- `FABS`. -/
def execFabs (c k : Nat) (s : State) : Out :=
  .next (laneOp s c k 0x02 0x06 { n := 1 } (fpLanes negF32 1 fun a => (f32.fabs (a.getD 0 0), 0)))
/-- `FNEG`. -/
def execFneg (c k : Nat) (s : State) : Out :=
  .next (laneOp s c k 0x02 0x07 { n := 1 } (fpLanes negF32 1 fun a => (f32.fneg (a.getD 0 0), 0)))
/-- `PADD.BF16`. -/
def execPaddBf16 (c k : Nat) (s : State) : Out :=
  .next (laneOp s c k 0x03 0x00 { n := 2 } (fpLanes negPacked 2 (packed fun a b _ => bf16.fadd a b)))
/-- `PADD.F16`. -/
def execPaddF16 (c k : Nat) (s : State) : Out :=
  .next (laneOp s c k 0x03 0x01 { n := 2 } (fpLanes negPacked 2 (packed fun a b _ => f16.fadd a b)))
/-- `PMUL.BF16`. -/
def execPmulBf16 (c k : Nat) (s : State) : Out :=
  .next (laneOp s c k 0x03 0x02 { n := 2 } (fpLanes negPacked 2 (packed fun a b _ => bf16.fmul a b)))
/-- `PMUL.F16`. -/
def execPmulF16 (c k : Nat) (s : State) : Out :=
  .next (laneOp s c k 0x03 0x03 { n := 2 } (fpLanes negPacked 2 (packed fun a b _ => f16.fmul a b)))
/-- `PFMA.BF16`. -/
def execPfmaBf16 (c k : Nat) (s : State) : Out :=
  .next (laneOp s c k 0x03 0x04 { n := 3 } (fpLanes negPacked 3 (packed fun a b d => bf16.ffma a b d)))
/-- `PFMA.F16`. -/
def execPfmaF16 (c k : Nat) (s : State) : Out :=
  .next (laneOp s c k 0x03 0x05 { n := 3 } (fpLanes negPacked 3 (packed fun a b d => f16.ffma a b d)))

/-- A special function of the crews' units in each lane (R251). -/
def specialLanes (op : Nat) : State → Ins → State :=
  fpLanes negF32 1 fun a => (special 0 op (a.getD 0 0), b2n (specialSat op (a.getD 0 0)))

/-- `RCP`. -/
def execRcp (c k : Nat) (s : State) : Out := .next (laneOp s c k 0x05 0x00 { n := 1 } (specialLanes 0))
/-- `RSQ`. -/
def execRsq (c k : Nat) (s : State) : Out := .next (laneOp s c k 0x05 0x01 { n := 1 } (specialLanes 1))
/-- `EX2`. -/
def execEx2 (c k : Nat) (s : State) : Out := .next (laneOp s c k 0x05 0x02 { n := 1 } (specialLanes 2))
/-- `LG2`. -/
def execLg2 (c k : Nat) (s : State) : Out := .next (laneOp s c k 0x05 0x03 { n := 1 } (specialLanes 3))
/-- `SIN`. -/
def execSinI (c k : Nat) (s : State) : Out := .next (laneOp s c k 0x05 0x04 { n := 1 } (specialLanes 4))
/-- `COS`. -/
def execCosI (c k : Nat) (s : State) : Out := .next (laneOp s c k 0x05 0x05 { n := 1 } (specialLanes 5))

/-! ### Conversion class (R245 to R250) -/

/-- The assay set a counting conversion names, from a scalar register or an inline integer (R248). -/
def assaySet (s : State) (i : Ins) : Option Nat :=
  let code := i.o 3
  if opKind code = .sca ∨ opKind code = .inl then
    let v := (srcLane s i 64 code 0).1
    if v < 64 then some v else none
  else none

/-- Codes a `CVT` raises by its bits and its set operand (R245, R246, R248). -/
def cvtCodes (s : State) (x : Crew) (i : Ins) : List Nat :=
  let sw := (cvtWidth (fld i.w 57 54)).getD 32
  let dw := (cvtWidth (fld i.w 53 50)).getD 32
  let p := fld i.w 8 6
  let d := opKind (i.o 0)
  (if known 0x04 (fld i.w 57 50) then [] else [1]) ++ (if 32 / sw ≤ p ∨ 32 / dw ≤ p ∨ fld i.w 4 3 ≠ 0 ∨ fld i.w 1 0 ≠ 0 ∨ (bit i.w 2 = false ∧ i.o 3 ≠ 0) then [1] else [])
    ++ (if bit i.w 2 && (assaySet s i).isNone then [2] else [])
    ++ (if d = .vec ∨ d = .pred then [] else [2])
    ++ vecCodes x (i.o 0) 1 ++ vecCodes x (i.o 1) 1 ++ vecCodes x (i.o 2) 1

/-- The conversion of a lane: the value of its element, negated where `MOD`[5] says so, shifted and converted (R246,
R247). -/
def cvtLane (s : State) (i : Ins) (l : Nat) : Conv :=
  let sc := fld i.w 57 54
  let a := (srcLane s i 32 (i.o 1) l).1 / 2 ^ (fld i.w 8 6 * (cvtWidth sc).getD 32)
  let v := cvtValue sc (a % 2 ^ (cvtWidth sc).getD 32)
  cvtTo (fld i.w 53 50) ((if bit i.w 5 then v.neg else v).scale (sext 32 (srcLane s i 32 (i.o 2) l).1))

/-- `CVT`: each lane's element is converted into the destination's element; the counts go to an assay set (R256). -/
def cvtLanes (s : State) (i : Ins) : State :=
  let dw := (cvtWidth (fld i.w 53 50)).getD 32
  let lo := fld i.w 8 6 * dw
  let rs := (lanesOf i.lanes).map fun l => cvtLane s i l
  let n := fun (f : Conv → Bool) => (rs.filter f).length
  let s' := writeLanes s i 32 (i.o 0) fun l =>
    let old := srcLane s i 32 (i.o 0) l
    (setFld (if dw = 32 then 0 else old.1) (lo + dw - 1) lo (cvtLane s i l).code,
     (srcLane s i 32 (i.o 1) l).2 || (srcLane s i 32 (i.o 2) l).2 || (dw != 32 && old.2) || (bit i.w 2 && (srcLane s i 64 (i.o 3) l).2))
  match bit i.w 2, assaySet s i with
  | true, some k => setClu s' i.c ((clu s' i.c).count k rs.length (n (·.zero)) (n (·.sat)) (n (·.nonfin)))
  | _, _ => s'

/-- `CVT`. -/
def execCvt (c k : Nat) (s : State) : Out :=
  .next (issue s c k (fun a b => a == 0x04 && b != 0xFF) false (cvtCodes s) fun s i => step1 (cvtLanes s i) i)

/-- `AMAX` (R250): the largest magnitude over the active lanes, in the unsigned order of the bit patterns; a NaN is
written with its canonical code (R237). -/
def amaxLanes (s : State) (i : Ins) : State :=
  let rs := (lanesOf i.lanes).map fun l => srcLane s i 32 (i.o 1) l
  let m : Nat := rs.foldl (fun m r => max m (r.1 % 2 ^ 31)) 0
  let m : Nat := if 0x7F800000 < m then 0x7FC00000 else m
  writeLanes s i 32 (i.o 0) fun _ => (m, rs.any (·.2))

/-- `AMAX`. -/
def execAmax (c k : Nat) (s : State) : Out :=
  .next (issue s c k (fun a b => a == 0x04 && b == 0xFF) false
    (fun x i => rCodes { n := 1 } x i ++ (if i.mod ≠ 0 then [1] else [])) fun s i => step1 (amaxLanes s i) i)

/-! ### Compare and select (R136) -/

/-- A condition of `MOD`[2:0] from whether a is below and above b. -/
def condition (cond : Nat) (lt gt : Bool) : Bool :=
  match cond with
  | 0 => !lt && !gt
  | 1 => lt || gt
  | 2 => lt
  | 3 => !gt
  | 4 => gt
  | _ => !lt

/-- An integer comparison. -/
def icmpW (uns : Bool) (cond wd : Nat) (a : List Nat) : Nat :=
  b2n (condition cond (ltW uns wd (a.getD 0 0) (a.getD 1 0)) (ltW uns wd (a.getD 1 0) (a.getD 0 0)))

/-- A binary32 comparison: a NaN operand gives 0 but for `NE`. -/
def fcmpV (cond : Nat) (a : List Nat) : Nat :=
  match f32.decode (a.getD 0 0), f32.decode (a.getD 1 0) with
  | .nan, _ => b2n (cond == 1)
  | _, .nan => b2n (cond == 1)
  | x, y => b2n (condition cond (x.lt y) (y.lt x))

/-- `PLOG` functions: AND, OR, XOR, AND-NOT. -/
def plogV (op : Nat) (a b : Nat) : Nat :=
  match op with
  | 0 => a &&& b
  | 1 => a ||| b
  | 2 => a ^^^ b
  | _ => a &&& (1 - b)

/-- `ICMP` and `ICMP.U`. -/
def execIcmp (c k : Nat) (s : State) : Out :=
  .next (issue s c k (fun a b => a == 0x06 && b / 2 == 0) false (rCodes { n := 2, wide := true, cond := 5, dst := .pred })
    fun s i => step1 (intLanes 2 (icmpW (bit i.w 50) (fld i.w 2 0)) s i) i)
/-- `FCMP`. -/
def execFcmp (c k : Nat) (s : State) : Out :=
  .next (laneOp s c k 0x06 0x02 { n := 2, cond := 5, dst := .pred } fun s i =>
    writeLanes s i 32 (i.o 0) fun l => ((fcmpV (fld i.w 2 0) (sources s i 32 negF32 2 l).1), (sources s i 32 negF32 2 l).2))
/-- `PLOG`. -/
def execPlog (c k : Nat) (s : State) : Out :=
  .next (laneOp s c k 0x06 0x04 { n := 2, preds := [0, 1], cond := 3, dst := .pred }
    fun s i => intLanes 2 (fun _ a => plogV (fld i.w 2 0) (a.getD 0 0) (a.getD 1 0)) s i)
/-- `PICK`. -/
def execPick (c k : Nat) (s : State) : Out :=
  .next (laneOp s c k 0x06 0x06 { n := 3, preds := [2], wide := true }
    (intLanes 3 fun _ a => if a.getD 2 0 = 1 then a.getD 0 0 else a.getD 1 0))

/-! ### Move and lane exchange (R133, R136) -/

/-- `MOV`. -/
def execMovI (c k : Nat) (s : State) : Out :=
  .next (laneOp s c k 0x07 0x00 { n := 1, wide := true } (intLanes 1 fun _ a => a.getD 0 0))

/-- Lane exchange: `f` gives the source lane from the lane and the signed `SRCB`. -/
def xlane (f : Nat → Int → Int) (s : State) (i : Ins) : State :=
  writeLanes s i i.wd (i.o 0) fun l =>
    let b := source s i i.wd (negInt i.wd) 1 l
    let j := f l (sext i.wd b.1)
    let m := if 0 ≤ j ∧ j < 32 ∧ i.on j.toNat then j.toNat else l
    let a := source s i i.wd (negInt i.wd) 0 m
    (a.1, a.2 || b.2)

/-- `XLANE.IDX`. -/
def execXlaneIdx (c k : Nat) (s : State) : Out :=
  .next (laneOp s c k 0x07 0x01 { n := 2, wide := true } (xlane fun _ b => b))
/-- `XLANE.UP`. -/
def execXlaneUp (c k : Nat) (s : State) : Out :=
  .next (laneOp s c k 0x07 0x02 { n := 2, wide := true } (xlane fun l b => (l : Int) - b))
/-- `XLANE.DN`. -/
def execXlaneDn (c k : Nat) (s : State) : Out :=
  .next (laneOp s c k 0x07 0x03 { n := 2, wide := true } (xlane fun l b => (l : Int) + b))
/-- `XLANE.XOR`. -/
def execXlaneXor (c k : Nat) (s : State) : Out :=
  .next (laneOp s c k 0x07 0x04 { n := 2, wide := true } (xlane fun l b => if b < 0 then -1 else ((l ^^^ b.toNat : Nat) : Int)))

/-- A value formed from `SRCA`'s predicate over the active lanes, written into every one of them. -/
def lanesForm (f : W32 → W32 → Nat) (s : State) (i : Ins) : State :=
  let m := maskOf ((lanesOf i.lanes).filter fun l => (source s i 32 id 0 l).1 == 1)
  let pz := (lanesOf i.lanes).any fun l => (source s i 32 id 0 l).2
  writeLanes s i 32 (i.o 0) fun _ => (f i.lanes m, pz)

/-- `LANES.ALL`. -/
def execLanesAll (c k : Nat) (s : State) : Out :=
  .next (laneOp s c k 0x07 0x05 { n := 1, preds := [0], dst := .pred } (lanesForm fun on m => b2n (on == m)))
/-- `LANES.ANY`. -/
def execLanesAny (c k : Nat) (s : State) : Out :=
  .next (laneOp s c k 0x07 0x06 { n := 1, preds := [0], dst := .pred } (lanesForm fun _ m => b2n (m != 0#32)))
/-- `LANES.MASK`. -/
def execLanesMask (c k : Nat) (s : State) : Out :=
  .next (laneOp s c k 0x07 0x07 { n := 1, preds := [0] } (lanesForm fun _ m => m.toNat))

/-- Sources 0 to `n` − 1 of a crew-uniform instruction. `LANEID` and `MSTAT` differ between lanes and the spec does
not say what such an instruction reads of them: each is a free value of its width (log 50). -/
def uniSources (s : State) (i : Ins) (n : Nat) : (List Nat × Bool) × State :=
  let rs := sources s i i.wd (negInt i.wd) n 0
  if ((List.range n).any fun k => i.o (k + 1) == 0x148 || i.o (k + 1) == 0x14E) = false then (rs, s)
  else
    let d := draw s (2 ^ 96)
    ((((List.range n).map fun k =>
        let v := d.1 / 2 ^ (32 * k) % 2 ^ 32
        if i.o (k + 1) = 0x148 then v % 32 else if i.o (k + 1) = 0x14E then v else rs.1.getD k 0), rs.2), d.2)

/-- Codes a `VREAD` raises: it is crew-uniform, reads one vector register and writes a scalar register (R133). -/
def vreadCodes (x : Crew) (i : Ins) : List Nat :=
  rCodes { n := 2, wide := true, dst := .sca } x i
    ++ (if opKind (i.o 1) ≠ .vec ∨ opKind (i.o 2) = .vec ∨ opKind (i.o 2) = .pred then [2] else [])

/-- `VREAD` copies the lane that `SRCB` numbers; a lane above 31 is not stated and gives a free value. -/
def vread (s : State) (i : Ins) : State :=
  let b := uniSources s i 2
  let n := b.1.1.getD 1 0
  let bz := (source s i i.wd (negInt i.wd) 1 0).2
  if n < 32 then
    let a := source s i i.wd (negInt i.wd) 0 n
    updCrew b.2 i.c i.slot fun x => x.setSca (i.o 0 - 0x100) a.1 (a.2 || bz)
  else
    let d := draw b.2 (2 ^ i.wd)
    updCrew d.2 i.c i.slot fun x => x.setSca (i.o 0 - 0x100) d.1 bz

/-- `VREAD`. -/
def execVread (c k : Nat) (s : State) : Out :=
  .next (issue s c k (fun a b => a == 0x07 && b == 0x08) true vreadCodes fun s i => step1 (vread s i) i)

/-! ### Scalar class (R130, R133, R136) -/

/-- A crew-uniform scalar operation; 32-bit results are zero-extended (R566). -/
def scalarOp (s : State) (c k minor n : Nat) (f : Nat → List Nat → Nat) : State :=
  laneOp s c k 0x08 minor { n, wide := true, uni := true, dst := .sca } fun s i =>
    let r := uniSources s i n
    updCrew r.2 i.c i.slot fun x => x.setSca (i.o 0 - 0x100) (f i.wd r.1.1) r.1.2

/-- As `scalarOp`, with a free value where the count of a shift leaves the result open. -/
def scalarShift (s : State) (c k minor : Nat) (f : Nat → List Nat → Nat → Nat) : State :=
  laneOp s c k 0x08 minor { n := 2, wide := true, uni := true, dst := .sca } fun s i =>
    let r := uniSources s i 2
    let d := draw r.2 (2 ^ i.wd)
    updCrew d.2 i.c i.slot fun x => x.setSca (i.o 0 - 0x100) (f i.wd r.1.1 d.1) r.1.2

/-- `SADD`. -/
def execSadd (c k : Nat) (s : State) : Out := .next (scalarOp s c k 0x00 2 addW)
/-- `SSUB`. -/
def execSsub (c k : Nat) (s : State) : Out := .next (scalarOp s c k 0x01 2 subW)
/-- `SMUL`. -/
def execSmul (c k : Nat) (s : State) : Out := .next (scalarOp s c k 0x02 2 mulW)
/-- `SAND`. -/
def execSand (c k : Nat) (s : State) : Out := .next (scalarOp s c k 0x03 2 fun _ a => a.getD 0 0 &&& a.getD 1 0)
/-- `SOR`. -/
def execSor (c k : Nat) (s : State) : Out := .next (scalarOp s c k 0x04 2 fun _ a => a.getD 0 0 ||| a.getD 1 0)
/-- `SXOR`. -/
def execSxor (c k : Nat) (s : State) : Out := .next (scalarOp s c k 0x05 2 fun _ a => a.getD 0 0 ^^^ a.getD 1 0)
/-- `SSHL`. -/
def execSshl (c k : Nat) (s : State) : Out := .next (scalarShift s c k 0x06 shlW)
/-- `SSHR`. -/
def execSshr (c k : Nat) (s : State) : Out := .next (scalarShift s c k 0x07 shrW)
/-- `SMOV`. -/
def execSmov (c k : Nat) (s : State) : Out := .next (scalarOp s c k 0x08 1 fun _ a => a.getD 0 0)

/-- `SCMP` and `SCMP.U` write one value into every lane of a predicate. -/
def execScmp (c k : Nat) (s : State) : Out :=
  .next (issue s c k (fun a b => a == 0x08 && b / 2 == 5) true (rCodes { n := 2, wide := true, cond := 5, uni := true, dst := .pred })
    fun s i =>
      let r := uniSources s i 2
      let v := icmpW (bit i.w 50) (fld i.w 2 0) i.wd r.1.1 == 1
      step1 (updCrew r.2 i.c i.slot fun x => (List.range 32).foldl (fun x l => x.setPred (i.o 0 - 0x140) l v r.1.2) x) i)

end Sys2Proof.Machine
end

