-- ==== Sys2Proof/Machine/CrewCtl.lean ====
section
/-!
DEFINITION. Control, branch and barrier instructions, and the end of a crew (R102 to R107, R122 to R125, R160 to R166,
R128).
-/
namespace Sys2Proof.Machine
open Sys2Proof

/-! ### Control class (R162, R164, R166) -/

/-- Codes of the control class: every field but the guard and, where `imm` allows it, `IMM8` is 0. -/
def controlCodes (i : Ins) (imm : Nat → Bool) : List Nat :=
  if fld i.w 44 16 ≠ 0 ∨ fld i.w 7 0 ≠ 0 ∨ imm (fld i.w 15 8) = false then [1] else []

/-- Whether a request of a crew has not yet left it: at most scopes up to MODULE wait for it (R376). -/
def unsent (s : State) (c slot : Nat) : Bool :=
  s.requests.any fun (r : Request) => r.held == .turn && r.crew.any fun (d : CrewDst) => d.cluster == c && d.slot == slot

/-- `NOP`. -/
def execNopI (c k : Nat) (s : State) : Out :=
  .next (issue s c k (fun a b => a == 0x00 && b == 0x00) true (fun _ i => controlCodes i (· == 0)) fun s i => step1 s i)

/-- `TRAP`. -/
def execTrap (c k : Nat) (s : State) : Out :=
  .next (issue s c k (fun a b => a == 0x00 && b == 0x02) true (fun _ i => controlCodes i fun _ => true) fun s i =>
    raiseIns s i { code := 0x0F, lanes := i.lanes, detail := fld i.w 15 8 })

/-- `CMODE`. -/
def execCmode (c k : Nat) (s : State) : Out :=
  .next (issue s c k (fun a b => a == 0x00 && b == 0x03) true (fun _ i => controlCodes i (· < 2)) fun s i =>
    step1 (updCrew s i.c i.slot fun x => { x with mreport := bit i.w 8 }) i)

/-- `MSTAT.CLR` acts in the active lanes where the guard holds. -/
def execMstatClr (c k : Nat) (s : State) : Out :=
  .next (issue s c k (fun a b => a == 0x00 && b == 0x04) false (fun _ i => controlCodes i (· == 0)) fun s i =>
    step1 (updCrew s i.c i.slot fun x => { x with mstat := (lanesOf i.lanes).foldl (fun m l => mset m l 0#32) x.mstat }) i)

/-- An instruction word whose `MAJOR` or `MINOR` names no instruction (R128, R135). -/
def execIllegalInstr (c k : Nat) (s : State) : Out :=
  .next (issue s c k (fun a b => !known a b) true (fun _ _ => [1]) fun s i => step1 s i)

/-! ### Barriers (R122 to R125, R163, R272) -/

/-- How a path waits at barrier `b` for `n` crews, held there (`BAR.SYNC`) or not. -/
def barAt (b n : Nat) (sync : Bool) : Nat := b + 16 * (n + 256 * b2n sync)

/-- Every path of a crew that waited at a barrier goes on; the oldest eligible path runs. -/
def Crew.resume (x : Crew) : Crew :=
  { x with
    hold := .none
    pending := x.pending ++ x.atBarrier.map fun (p : Path) => { p with pc := p.pc + 8, bar := none, count := 0 }
    atBarrier := [] }.settle

/-- The phase of barrier `b` of a cluster is complete: every held crew goes on, with an acquire at CLUSTER scope (R122,
R125). -/
def openBarrier (s : State) (c b : Nat) : State :=
  let held := (mget (clu s c).barriers b {}).held
  let s := setClu s c { clu s c with barriers := mdel (clu s c).barriers b }
  held.foldl (fun s k => acquire (updCrew s c k Crew.resume) c 1) s

/-- The crew in a slot arrives at barrier `b` with count `n` (R122 to R124). A release that a recorded fault holds back
is not performed: the lanes record the status and the crew goes on without arriving (R383; log 51). -/
def arriveBarrier (s : State) (c k b n : Nat) (sync : Bool) (pc : Nat) (instr : W64) : State :=
  let x := crw s c k
  match (if x.mreport then x.shown else none) with
  | some st => updCrew s c k fun x => ((lanesOf x.live).foldl (fun x l => x.record l st) x).resume
  | none =>
    let br := mget (clu s c).barriers b {}
    if br.count ≠ 0 ∧ br.n ≠ n then raise s c k pc instr { code := 0x0C, lanes := x.live, detail := br.n * 256 + n }
    else
      let br : Barrier := if br.count = 0 then { n, count := 1, since := s.pace.now } else { br with count := br.count + 1 }
      let br : Barrier := if sync then { br with held := br.held ++ [k] } else br
      let s := setClu s c { clu s c with barriers := mset (clu s c).barriers b br }
      let s := updCrew s c k fun x => if sync then { x with hold := .barrier b } else x.resume
      if br.count = n then openBarrier s c b else s

/-- A crew all of whose remaining lanes wait at one barrier arrives there, as the path that reached it last says (R123). -/
def checkBarrier (s : State) (c k : Nat) : State :=
  match mfind (clu s c).crews k with
  | none => s
  | some x =>
    match x.atBarrier.getLast? with
    | some p =>
      let v := p.bar.getD 0
      if x.hold = .none ∧ x.atBarrier.foldl (fun m (q : Path) => m ||| q.mask) 0#32 = x.live
          ∧ (x.atBarrier.all fun (q : Path) => q.bar.getD 0 % 16 == v % 16) = true then
        arriveBarrier s c k (v % 16) (v / 16 % 256) (decide (v / 4096 = 1)) p.pc (BitVec.ofNat 64 (fetch s c k p.pc).2)
      else s
    | none => s

/-- Codes of a barrier instruction: no guard, unused fields 0, a count from 1 to 128 in a scalar register or an inline
integer, a barrier of the kernel's lane; a poisoned count raises `POISON_USE`. -/
def barrierCodes (s : State) (x : Crew) (i : Ins) : List Nat :=
  let v := srcLane s i 64 (i.o 0) 0
  (if fld i.w 49 48 ≠ 0 ∨ fld i.w 35 16 ≠ 0 ∨ fld i.w 15 12 ≠ 0 ∨ fld i.w 7 0 ≠ 0 then [1] else [])
    ++ (if (opKind (i.o 0) ≠ .sca ∧ opKind (i.o 0) ≠ .inl) ∨ v.1 = 0 ∨ 128 < v.1 ∨ laneBarriers (krn s x.kernel).lane (fld i.w 11 8) = false then [2] else [])
    ++ (if v.2 then [9] else [])

/-- The running path waits at a barrier; the crew arrives when all its lanes have. Its release sends the runs that hold
the crew's window stores (R360). -/
def barrierBody (sync : Bool) (s : State) (i : Ins) : State :=
  if unsent s i.c i.slot then s else
  let s := flushRuns s i.c i.slot
  let n := (srcLane s i 64 (i.o 0) 0).1
  let s := updCrew s i.c i.slot fun x =>
    { x with
      run := none
      atBarrier := x.atBarrier ++ x.run.toList.map fun (p : Path) => { p with bar := some (barAt (fld i.w 11 8) n sync) } }.settle
  checkBarrier s i.c i.slot

/-- `BAR.SYNC`. -/
def execBarSync (c k : Nat) (s : State) : Out :=
  .next (issue s c k (fun a b => a == 0x21 && b == 0x00) true (barrierCodes s) (barrierBody true))
/-- `BAR.ARRIVE`. -/
def execBarArrive (c k : Nat) (s : State) : Out :=
  .next (issue s c k (fun a b => a == 0x21 && b == 0x01) true (barrierCodes s) (barrierBody false))

/-- `BAR_TIMEOUT` (R124): every crew held at the barrier raises, in ascending slot order, and the kernel stops. -/
def execBarTimeout (c b now : Nat) (s : State) : Out :=
  let s := clock s now
  let x := clu s c
  let br := mget x.barriers b {}
  .next (if x.barTimeout ≠ 0 ∧ br.count ≠ 0 ∧ elapsedMs s br.since x.barTimeout then
    let held := (List.range 128).filter fun k => br.held.contains k
    held.foldl (fun s k =>
      let y := crw s c k
      let pc := (y.atBarrier.getLast?.map fun (p : Path) => p.pc).getD 0
      raise s c k pc (BitVec.ofNat 64 (fetch s c k pc).2) { code := 0x0D, lanes := y.live }) s
  else s)

/-! ### The end of lanes and crews (R162) -/

/-- `EXIT` ends the active lanes where its guard holds; the others go on. -/
def execExitI (c k : Nat) (s : State) : Out :=
  .next (issue s c k (fun a b => a == 0x00 && b == 0x01) false (fun _ i => controlCodes i (· == 0)) fun s i =>
    if !(crw s c k).atBarrier.isEmpty && unsent s c k then s else
    checkBarrier (updCrew s c k fun x =>
      let x := { x with run := x.run.map fun (p : Path) => { p with pc := i.pc + 8 } }
      if i.lanes = 0#32 then x.settle else x.exit i.lanes) c k)

/-- `CREW_RELEASE`: a crew whose lanes have all ended and whose counters are 0 gives up its slot and registers. -/
def execCrewRelease (c k : Nat) (s : State) : Out :=
  .next (match mfind (clu s c).crews k with
    | some x =>
      if x.hold = .ended ∧ ((List.range 4).all fun q => mget x.q q 0 == 0) = true then
        forgetCrews (setClu s c { clu s c with crews := mdel (clu s c).crews k }) c [k] x.kernel true
      else s
    | none => s)

/-! ### Branches (R102 to R105, R160, R161) -/

/-- Address of a signed word offset from an address. -/
def branchTo (pc off : Nat) : Nat := wrap 64 ((pc : Int) + 8 * sext 18 off)

/-- The running path takes a branch: a backward one may rotate it (R105, R160). -/
def takeBranch (s : State) (i : Ins) (pc : Nat) (back : Bool) : State :=
  updCrew s i.c i.slot fun x => if back then x.backward (max 1 (clu s i.c).rotLimit) pc none else x.goto pc

/-- The active lanes disagree (R102): the fall-through path runs first, the taken path becomes the youngest pending
path; both lie in a new divergence. -/
def Crew.diverge (x : Crew) (taken : W32) (pc target reconv : Nat) : Crew :=
  match x.run with
  | none => x
  | some p =>
    let d := x.nextDiv
    let y : Crew := { x with
      run := some { p with mask := p.mask &&& ~~~taken, pc, divs := d :: p.divs, count := 0, wait := none }
      pending := x.pending ++ [{ mask := taken, pc := target, divs := d :: p.divs, age := x.nextAge }]
      divs := x.divs ++ [{ id := d, reconv, lanes := p.mask }]
      nextDiv := d + 1
      nextAge := x.nextAge + 1 }
    y.settle

/-- Codes of a `BRA`: `LINK` 0, and `RECONV` not 0 exactly where it has a guard (R161). -/
def braCodes (i : Ins) : List Nat :=
  if fld i.w 8 0 ≠ 0 ∨ (fld i.w 49 48 = 0) ≠ (fld i.w 26 9 = 0) then [1] else []

/-- `BRA`: lanes that disagree beyond the 32nd divergence raise `DIV_DEPTH`. -/
def execBra (c k : Nat) (s : State) : Out :=
  .next (issue s c k (fun a b => a == 0x20 && b == 0x01) false (fun _ i => braCodes i) (fun s i =>
    let off := fld i.w 44 27
    let target := branchTo i.pc off
    if i.lanes = 0#32 then step1 s i
    else if i.lanes = i.active then takeBranch s i target (decide (sext 18 off ≤ 0))
    else updCrew s c k fun x => x.diverge i.lanes (i.pc + 8) target (branchTo i.pc (fld i.w 26 9))) fun i =>
      if i.lanes ≠ 0#32 ∧ i.lanes ≠ i.active ∧ 32 ≤ ((crw s c k).run.map fun (p : Path) => p.divs.length).getD 0 then
        [{ code := 4, lanes := i.active }]
      else [])

/-- Codes of a branch through `LINK`: `RECONV` 0, `TARGET` 0 where `LINK` gives the target, a scalar `LINK` (R160). -/
def linkCodes (i : Ins) (reads : Bool) : List Nat :=
  (if fld i.w 26 9 ≠ 0 ∨ (reads = true ∧ fld i.w 44 27 ≠ 0) then [1] else [])
    ++ (if opKind (i.o 4) ≠ .sca then [2] else [])

/-- What a `LINK` that is read may raise: an address that is not 8 B-aligned, and poison (R161, R167). -/
def linkExcs (s : State) (i : Ins) : List Exc :=
  let v := srcLane s i 64 (i.o 4) 0
  if i.lanes = 0#32 then [] else
  (if v.1 % 8 ≠ 0 then [{ code := 5, lanes := i.lanes, addr := v.1 }] else []) ++ (if v.2 then [{ code := 9, lanes := i.lanes }] else [])

/-- A branch to the address in `LINK`, backward where it is at or below the branch. -/
def linkBranch (s : State) (i : Ins) : State :=
  let a := (srcLane s i 64 (i.o 4) 0).1
  takeBranch s i a (decide (a ≤ i.pc))

/-- `BRX`. -/
def execBrx (c k : Nat) (s : State) : Out :=
  .next (issue s c k (fun a b => a == 0x20 && b == 0x02) true (fun _ i => linkCodes i true) linkBranch (linkExcs s))
/-- `CALL`. -/
def execCallI (c k : Nat) (s : State) : Out :=
  .next (issue s c k (fun a b => a == 0x20 && b == 0x03) true (fun _ i => linkCodes i false) fun s i =>
    let s := updCrew s c k fun x => x.setSca (i.o 4 - 0x100) (i.pc + 8 * i.len) false
    takeBranch s i (branchTo i.pc (fld i.w 44 27)) (decide (sext 18 (fld i.w 44 27) ≤ 0)))
/-- `RET`. -/
def execRetI (c k : Nat) (s : State) : Out :=
  .next (issue s c k (fun a b => a == 0x20 && b == 0x04) true (fun _ i => linkCodes i true) linkBranch (linkExcs s))

end Sys2Proof.Machine
end

