-- ==== Sys2Proof/Machine/CrewMem.lean ====
section
/-!
DEFINITION. Crew memory instructions: addresses, loads, stores, waits, atomics and fences, with the L1 data cache, the
banks of shared local memory, window and direct accesses, release and acquire (R108, R112 to R121, R137 to R153, R165 to
R167, R358 to R362, R376 to R384).
-/
namespace Sys2Proof.Machine
open Sys2Proof

/-! ### Fields and checks by bits (R129, R132, R137, R141 to R149) -/

/-- `AM`, `ORD`, `SCOPE`, `OP` and `RET` of a memory instruction. -/
def Ins.am (i : Ins) : Nat := fld i.w 8 7
def Ins.ord (i : Ins) : Nat := fld i.w 6 5
def Ins.scope (i : Ins) : Nat := fld i.w 4 2
def Ins.op (i : Ins) : Nat := fld i.w 53 50
def Ins.ret (i : Ins) : Bool := bit i.w 54
/-- Whether the instruction is `LD` or `LDS`, and whether it is an atomic. -/
def Ins.loads (i : Ins) : Bool := i.op == 0 || i.op == 3
def Ins.atom (i : Ins) : Bool := decide (4 ≤ i.op)
/-- Whether it is a scalar load or store (R142). -/
def Ins.scalar (i : Ins) : Bool := opKind (i.o 0) == .sca && (i.loads || i.op == 1)
/-- Distance from a `CAS`'s compare operand to its new value (R149). -/
def Ins.casStep (i : Ins) : Nat := if opKind (i.o 3) = .vec ∧ i.size = 8 then 2 else 1

/-- Codes a word of the memory class raises by its bits. -/
def memCodes (x : Crew) (i : Ins) : List Nat :=
  let op := i.op
  let narrow := i.size == 4 || i.size == 8
  let n := max 1 (i.size / 4)
  let data := opKind (i.o 0)
  let opnd := opKind (i.o 3)
  let uses := op != 2 && (!i.atom || i.ret)
  let reads := op == 2 || i.atom
  let illegal := [
    decide (4 < fld i.w 57 55), decide (5 < i.scope), i.ord == 0 && i.scope != 0,
    i.ord == 1 && !(i.loads || op == 2 || i.atom), i.ord == 2 && !(op == 1 || i.atom), i.ord == 3 && !i.atom,
    bit i.w 1 && !(i.loads && i.ord == 0), bit i.w 0 && op != 1, i.ret && !i.atom,
    i.am != 3 && i.o 2 != 0, (i.loads || op == 1) && i.o 3 != 0, op == 2 && (!narrow || decide (7 < i.o 0)),
    i.atom && (!narrow || (op == 0xC && i.size != 4) || (!i.ret && i.o 0 != 0))]
  let operand := [
    if i.am ≤ 1 then opKind (i.o 1) != .vec else opKind (i.o 1) != .sca,
    i.am == 3 && opKind (i.o 2) != .vec,
    uses && i.loads && data != .vec && data != .sca,
    uses && i.atom && data != .vec,
    i.scalar && (i.am != 2 || decide (8 < i.size)),
    op == 0xE && ((opnd != .vec && opnd != .sca) || decide ((if opnd = .vec then 0xFF else 0x13F) < i.o 3 + i.casStep))]
  (if illegal.any (· == true) then [1] else []) ++ (if operand.any (· == true) then [2] else [])
    ++ vecCodes x (i.o 1) (if i.am = 1 then 2 else 1)
    ++ (if i.am = 3 then vecCodes x (i.o 2) 1 else [])
    ++ (if uses then vecCodes x (i.o 0) n else [])
    ++ (if reads then vecCodes x (i.o 3) n else [])
    ++ (if op = 0xE ∧ opnd = .vec then vecCodes x (i.o 3 + i.casStep) n else [])

/-! ### Addresses (R137 to R140, R150, R152, R153) -/

/-- Lanes a memory instruction makes accesses for: a scalar load or store is one access, charged to the lowest lane. -/
def Ins.acting (i : Ins) : List Nat := if i.scalar then (lanesOf i.lanes).take 1 else lanesOf i.lanes

/-- Crew address of a lane, with the poison of what it is formed from. -/
def rawAddr (s : State) (i : Ins) (l : Nat) : Nat × Bool :=
  match i.am with
  | 0 => let a := srcLane s i 32 (i.o 1) l; (slmBase + i.c * 2 ^ 24 + a.1, a.2)
  | 3 =>
    let b := srcLane s i 64 (i.o 1) l
    let x := srcLane s i 32 (i.o 2) l
    ((b.1 + x.1) % 2 ^ 64, b.2 || x.2)
  | _ => srcLane s i 64 (i.o 1) l

/-- Whether a crew address has none of the forms of R138. -/
def badForm (raw : Nat) : Bool := decide (1 < raw / 2 ^ 62) || (decide (raw < 2 ^ 62) && decide (raw / 2 ^ 48 ≠ 0))
/-- The other node a direct crew address names. -/
def farNode (s : State) (raw : Nat) : Option Nat := if raw / 2 ^ 62 = 1 ∧ fld raw 61 48 ≠ nodeId s then some (fld raw 61 48) else none

/-- Whether a module-local address lies in a headframe window or in register space (R150). -/
def deviceHome (s : State) (a : Nat) : Bool :=
  match home s a with
  | .window => true
  | .regs => true
  | _ => false
/-- Whether it lies in a headframe window. -/
def windowHome (s : State) (a : Nat) : Bool :=
  match home s a with
  | .window => true
  | _ => false

/-- Exceptions the operands of a memory instruction raise; no lane is performed then. -/
def memExcs (s : State) (i : Ins) : List Exc :=
  let of := fun (code : Nat) (p : Nat → Bool) =>
    match i.acting.filter p with
    | [] => []
    | l :: more => [({ code, lanes := maskOf (l :: more), addr := (rawAddr s i l).1 } : Exc)]
  let raw := fun l => (rawAddr s i l).1
  of 5 (fun l => decide (raw l % i.size ≠ 0))
    ++ of 6 (fun l => badForm (raw l))
    ++ of 7 (fun l => (i.op == 2 || i.atom) && (farNode s (raw l)).isNone && deviceHome s (raw l % 2 ^ 48))
    ++ of 9 (fun l => (rawAddr s i l).2 || (i.op == 2 && (srcLane s i (8 * i.size) (i.o 3) l).2))

/-- One lane's access: its crew address, the address on its node, the other node it names, and the status its checks
give before it is performed. -/
structure LaneAt where
  lane : Nat
  raw : Nat
  addr : Nat
  node : Option Nat
  st : Nat
deriving DecidableEq, Repr

/-- Denyan engine number of a crew's scheduler. -/
def Ins.engine (i : Ins) : Nat := i.c * 8 + i.slot / 16
/-- Partition of the instruction's kernel. -/
def Ins.part (i : Ins) (s : State) : Nat := (krn s (crw s i.c i.slot).kernel).part
/-- A D-class packet of the instruction to a node. -/
def Ins.packet (i : Ins) (s : State) (node type offset : Nat) : Packet :=
  { cls := 0, type, dst := node, src := nodeId s, engine := i.engine, seq := 0, offset, jkey := jkeyOf s (i.part s) }

/-- Form a lane's access and check it (R54, R137, R140, R323, R324, R358, R482). -/
def laneAt (s : State) (i : Ins) (k : XKind) (l : Nat) : LaneAt :=
  let raw := (rawAddr s i l).1
  let addr := raw % 2 ^ 48
  match farNode s raw with
  | some n => { lane := l, raw, addr, node := some n, st := sourceStatus s (i.packet s n 1 addr) }
  | none =>
    let own := slmBase + i.c * 2 ^ 24
    let st := if i.am = 0 ∧ own + 2 ^ 20 ≤ raw then 4 else accessStatus s (crewIss s i.c i.slot) k addr i.size
    let st := if st ≠ 0 ∨ windowHome s addr = false then st
      else match hfWindow s addr i.size with
        | none => 4
        | some w => if xkWrites k && !bit (hfLocal s w) 62 then 5 else 0
    { lane := l, raw, addr, node := none, st }

/-- Whether some access must wait for its stack or near-store cache (R61, R70). -/
def mustWait (s : State) (ls : List LaneAt) : Bool := ls.any fun x => x.node.isNone && x.st == 0 && waits s x.addr
/-- The accesses that pass their checks and go to this module's memory; to its register space; to its windows; to
other nodes. -/
def toMemory (s : State) (ls : List LaneAt) : List LaneAt := ls.filter fun x => x.node.isNone && x.st == 0 && !deviceHome s x.addr
def toRegs (s : State) (ls : List LaneAt) : List LaneAt := ls.filter fun x => x.node.isNone && x.st == 0 && home s x.addr == .regs
def toWindows (s : State) (ls : List LaneAt) : List LaneAt := ls.filter fun x => x.node.isNone && x.st == 0 && windowHome s x.addr
def toNodes (ls : List LaneAt) : List LaneAt := ls.filter fun x => x.node.isSome && x.st == 0

/-- A lane's completed access. -/
structure LaneDone where
  lane : Nat
  st : Nat
  val : Nat := 0
  pz : Bool := false
  addr : Nat
deriving DecidableEq, Repr

/-- The accesses that fail their checks. -/
def failedLanes (ls : List LaneAt) : List LaneDone := (ls.filter fun x => x.st != 0).map fun x => { lane := x.lane, st := x.st, addr := x.raw }

/-- Whether the instruction's crew is still resident. -/
def resident (s : State) (i : Ins) : Bool := (mfind (clu s i.c).crews i.slot).isSome
/-- Report completed lanes while the crew is resident. -/
def reportDone (s : State) (i : Ins) (ds : List LaneDone) : State :=
  if resident s i then report s i.c i.slot i.pc (BitVec.ofNat 64 i.w) (ds.map fun d => (d.lane, d.st, d.addr)) else s

/-! ### Banks of shared local memory (R108, Table 4.5) -/

/-- Waves of an access. -/
def waves (addrs : List Nat) (size : Nat) : Nat :=
  let words := (addrs.flatMap fun a => if size = 16 then [a / 8, a / 8 + 1] else [a / 8]).foldl addOnce []
  (List.range 32).foldl (fun m b => max m (words.filter fun w => w % 32 == b).length) 0
/-- Bank cycles of an atomic whose groups (address, lanes) each take one cycle, or one per lane. -/
def atomWaves (groups : List (Nat × Nat)) (serial : Bool) : Nat :=
  (List.range 32).foldl (fun m b => max m ((groups.filter fun (g : Nat × Nat) => g.1 / 8 % 32 == b).foldl (fun n g => n + if serial then g.2 else 1) 0)) 0
/-- Count the waves beyond the first. -/
def addWaves (s : State) (c w : Nat) : State := setClu s c { clu s c with slmReplays := (clu s c).slmReplays + (w - 1) }
/-- Addresses in the cluster's own shared local memory. -/
def ownSlm (s : State) (c : Nat) (ls : List LaneAt) : List Nat := (ls.filter fun x => home s x.addr == .slm c).map (·.addr)

/-! ### Loads (R112, R140, R142, R361) -/

/-- Lines of 128 B that accesses name, in their order. -/
def linesOf (ls : List LaneAt) : List Nat := ls.foldl (fun m x => addOnce m (x.addr / 128)) []
/-- Lowest address of accesses, and one past their highest byte. -/
def spanOf (ls : List LaneAt) (size : Nat) : Nat × Nat :=
  ls.foldl (fun m x => (min m.1 x.addr, max m.2 (x.addr + size))) ((ls.headD ⟨0, 0, 0, none, 0⟩).addr, 0)

/-- Read one line's lanes: from the L1 data cache, filling it, or past it (R112, R113). -/
def readLine (s : State) (i : Ins) (cache : Bool) (mine : List LaneAt) (line : Nat) : State × List LaneDone :=
  let a0 := line * 128
  let take := fun (base : Nat) (bs : List Byte) (pz : Nat → Bool) => mine.map fun x =>
    ({ lane := x.lane, st := if pz x.addr then 8 else 0, val := leNat ((bs.drop (x.addr - base)).take i.size), pz := pz x.addr, addr := x.raw } : LaneDone)
  let past :=
    let p := spanOf mine i.size
    let r := memRead s p.1 (p.2 - p.1)
    (r.1, take p.1 r.2.1 fun a => failedHome r.1 a || poisoned r.1 a i.size)
  if cache && l1Holds s a0 then
    match l1Find (clu s i.c) a0 with
    | some l => (setClu s i.c (l1Touch (clu s i.c) l.set l.way), take a0 l.data fun a => l.poison.contains (a % 128 / 64))
    | none =>
      if accessStatus s (crewIss s i.c i.slot) .load a0 128 ≠ 0 then past
      else
        let r := memRead s a0 128
        let bad := [0, 1].filter fun u => failedHome r.1 a0 || poisoned r.1 (a0 + 64 * u) 64
        (setClu r.1 i.c (l1Fill (clu r.1 i.c) line r.2.1 bad), take a0 r.2.1 fun a => bad.contains (a % 128 / 64))
  else past

/-- Read the lanes that go to this module's memory and registers. -/
def readLanes (s : State) (i : Ins) (cache : Bool) (ls : List LaneAt) : State × List LaneDone :=
  let ram := toMemory s ls
  let own := ownSlm s i.c ram
  let s1 := if own.isEmpty then s else addWaves s i.c (waves own i.size)
  let r := (linesOf ram).foldl (fun (acc : State × List LaneDone) l =>
    let q := readLine acc.1 i cache (ram.filter fun x => x.addr / 128 == l) l
    (q.1, acc.2 ++ q.2)) (s1, failedLanes ls)
  (toRegs s ls).foldl (fun (acc : State × List LaneDone) x =>
    let q := regLoad acc.1 x.addr i.size
    (q.2, acc.2 ++ [{ lane := x.lane, st := 0, val := leNat q.1, addr := x.raw }])) r

/-- Where a request of the instruction returns its lanes. -/
def Ins.dst (i : Ins) (code base : Nat) (lanes : List (Nat × Nat)) (hasDst : Bool) : CrewDst :=
  { cluster := i.c, slot := i.slot, dst := code, size := i.size, signed := i.op == 3, lanes, base, pc := i.pc
    instr := BitVec.ofNat 64 i.w, hasDst }

/-- Nodes and lines of accesses to other nodes, in their order. -/
def farLines (ls : List LaneAt) : List (Nat × Nat) :=
  ls.foldl (fun m x => let k := (x.node.getD 0, x.addr / 128); if m.contains k then m else m ++ [k]) []
/-- The accesses to one line of one node. -/
def onLine (ls : List LaneAt) (k : Nat × Nat) : List LaneAt := ls.filter fun x => x.node == some k.1 && x.addr / 128 == k.2

/-- The D-class loads of the accesses to other nodes: one for each line (R140, R152). `code` names their destination. -/
def farLoads (s : State) (i : Ins) (code : Nat) (ls : List LaneAt) : List (List (Packet × CrewDst)) :=
  (farLines ls).map fun k =>
    let mine := onLine ls k
    let p := spanOf mine i.size
    let lo := p.1 / 8 * 8
    let x := mine.headD ⟨0, 0, 0, none, 0⟩
    [({ i.packet s k.1 1 lo with aux := cdiv (p.2 - lo) 8 }, i.dst code (x.raw - x.addr + lo) (mine.map fun y => (y.lane, y.addr - lo)) true)]

/-- Send the instruction's requests while its crew is resident. -/
def sendAll (s : State) (i : Ins) (ps : List (List (Packet × CrewDst))) : State :=
  ps.foldl (fun s p => if resident s i then sendChain s p else s) s

/-- Insert a number into an ascending list. -/
def insertNat (n : Nat) : List Nat → List Nat
  | [] => [n]
  | m :: ms => if n ≤ m then n :: m :: ms else m :: insertNat n ms
/-- A list in ascending order. -/
def ascending (l : List Nat) : List Nat := l.foldr insertNat []

/-- Read the lines of windows that the accesses need, joined into reads of up to 16 lines (R361). -/
def readWindows (s : State) (i : Ins) (ls : List LaneAt) : State :=
  let sorted := (List.range 32).flatMap fun w =>
    let mine := ls.filter fun x => hfWindow s x.addr i.size == some w
    let ns := ascending (linesOf mine)
    (lineRuns ns).map fun r => (w, r, mine.filter fun x => decide (r.1 ≤ x.addr / 128) && decide (x.addr / 128 < r.1 + r.2))
  sorted.foldl (fun s (q : Nat × (Nat × Nat) × List LaneAt) =>
    let x := q.2.2.headD ⟨0, 0, 0, none, 0⟩
    let base := q.2.1.1 * 128
    if resident s i then
      readWindow s (cluTower i.c) q.1 (i.part s) q.2.1.1 q.2.1.2
        (.crew (i.dst (i.o 0) (x.raw - x.addr + base) (q.2.2.map fun y => (y.lane, y.addr - base)) true))
    else s) s

/-- Whether a run of window stores shares a line with the accesses. -/
def meetsRun (ls : List LaneAt) (q : Run) : Bool :=
  ls.any fun x => decide (q.first < (x.addr / 128 + 1) * 128) && decide (x.addr / 128 * 128 < q.first + q.bytes.length)

/-- Write loaded or returned values into `DATA`: 0 where the access was not applied (R166, R167). -/
def putLanes (s : State) (i : Ins) (ds : List LaneDone) : State :=
  let wd := dataWidth (i.o 0) i.size
  updCrew s i.c i.slot fun x => ds.foldl (fun x d => if isFault d.st then x.put wd (i.o 0) d.lane 0 false else x.put wd (i.o 0) d.lane d.val d.pz) x

/-- The words of this module that accesses read, as (address, bytes). -/
def wordsOf (ls : List LaneAt) (size : Nat) : List (Nat × Nat) :=
  (ls.filter fun x => x.node.isNone && x.st == 0).map fun x => (x.addr, size)

/-- `LD` and `LDS`, with the wrong bits found in the words they read. -/
def loadBody (errs : List (Nat × Nat)) (s : State) (i : Ins) : State :=
  let ls := i.acting.map (laneAt s i .load)
  let s := meetErrs s i.c (wordsOf ls i.size) errs
  let cache := i.ord == 0 && !bit i.w 1 && (clu s i.c).l1Enable
  let hit := fun (x : LaneAt) => cache && (l1Find (clu s i.c) x.addr).isSome
  let wins := toWindows s ls
  let t := cluTower i.c
  if ls.isEmpty then step1 s i
  else if mustWait s (ls.filter fun x => !hit x) then s
  else if (allRuns s t).any (meetsRun wins) then dueRuns s t (meetsRun wins)
  else
    let r := readLanes s i cache ls
    let out := r.2.map fun d => { d with val := extend i.size (dataWidth (i.o 0) i.size) (i.op == 3) d.val }
    let s := step1 (putLanes r.1 i out) i
    let s := sendAll (readWindows s i wins) i (farLoads s i (i.o 0) (toNodes ls))
    acquiredBy (reportDone s i out) i.c i.slot i.w

/-! ### Release (R360, R362, R376, R379, R383) -/

/-- Record a withheld release or flagged store in lanes, which then go on. -/
def recordLanes (s : State) (i : Ins) (lanes : List Nat) (st : Nat) : State :=
  updCrew s i.c i.slot fun x => lanes.foldl (fun x l => x.record l st) x

/-- Perform `body` after the release part of an instruction: the crew's window stores are sent, and it waits for what
its scope asks. A kept failure is reported at SYSTEM scope; a recorded fault withholds it, and `held` follows. -/
def afterRelease (s : State) (i : Ins) (lanes : List Nat) (held body : State → State) : State :=
  let s := flushRuns s i.c i.slot
  if unsent s i.c i.slot then s
  else if decide (4 ≤ i.scope) && outstanding s i.c i.slot false then s
  else if i.scope == 5 && holdsRuns s i.c i.slot then s
  else
    let r := if i.scope = 5 then takeFailures s i.c i.slot else ([], s)
    let s := r.1.foldl (fun s (f : Nat × Nat) => reportDone s i (lanes.map fun l => { lane := l, st := f.1, addr := f.2 })) r.2
    if resident s i = false then s
    else match withheld s i with
      | some st => held (recordLanes s i lanes st)
      | none => body s

/-! ### Stores (R113, R143, R145, R153, R333, R359) -/

/-- Runs of consecutive numbers of an ascending list that satisfy `has`: first and length. -/
def coverRuns (has : Nat → Bool) : List Nat → List (Nat × Nat)
  | [] => []
  | b :: bs =>
    if has b then
      match coverRuns has bs with
      | (o, n) :: more => if o = b + 1 then (b, n + 1) :: more else (b, 1) :: (o, n) :: more
      | [] => [(b, 1)]
    else coverRuns has bs

/-- A lane's store: its access, its bytes, its poison. -/
structure LaneStore where
  at_ : LaneAt
  bytes : List Byte
  pz : Bool
deriving DecidableEq, Repr

/-- The byte at offset `b` of the line that remains when lanes of one instruction write it: the highest lane's. -/
def lastByte (ss : List LaneStore) (b : Nat) : Option (Byte × Bool) :=
  (ss.reverse.find? fun (x : LaneStore) => decide (x.at_.addr % 128 ≤ b) && decide (b < x.at_.addr % 128 + x.bytes.length)).map fun x =>
    (x.bytes.getD (b - x.at_.addr % 128) 0#8, x.pz)

/-- Write one line's bytes, by guarded units: a unit gets the tag of any poisoned byte written into it (R82, R167). A
copy of the line in the cluster's L1 is updated (R113). -/
def storeLine (s : State) (i : Ins) (mine : List LaneStore) (line : Nat) : State × Nat :=
  let n := (unitOf (line * 128)).2.1
  let got := lastByte mine
  (List.range (128 / n)).foldl (fun (acc : State × Nat) u =>
    let bytes := (List.range n).map (n * u + ·)
    let tag := bytes.any fun b => match got b with | some x => x.2 | none => false
    (coverRuns (fun b => (got b).isSome) bytes).foldl (fun (acc : State × Nat) r =>
      if acc.2 ≠ 0 then acc
      else
        let bs := (List.range r.2).map fun j => ((got (r.1 + j)).getD (0#8, false)).1
        let w := memWrite acc.1 (line * 128 + r.1) bs tag
        if w.2 ≠ 0 then w else (setClu w.1 i.c (l1Store (clu w.1 i.c) (line * 128 + r.1) bs tag), 0)) acc) (s, 0)

/-- The D-class stores of one instruction: one for each line of a node, poisoned bytes apart (R140, R167, R333). -/
def farStores (s : State) (i : Ins) (ss : List LaneStore) : List (List (Packet × CrewDst)) :=
  (farLines (ss.map (·.at_))).flatMap fun k =>
    let mine := ss.filter fun x => x.at_.node == some k.1 && x.at_.addr / 128 == k.2
    let got := lastByte mine
    [false, true].filterMap fun tag =>
      let has := fun b => match got b with | some x => x.2 == tag | none => false
      let on := (List.range 128).filter has
      match on.head?, on.getLast? with
      | some lo, some hi =>
        let lo := lo / 8 * 8
        let mask := on.foldl (fun m b => m + 2 ^ b) 0
        let bytes := (List.range (hi / 8 * 8 + 8 - lo)).map fun j => ((got (lo + j)).getD (0#8, false)).1
        let x := (mine.headD ⟨⟨0, 0, 0, none, 0⟩, [], false⟩).at_
        let lanes := (mine.filter fun y => y.pz == tag).map fun y => (y.at_.lane, y.at_.addr % 128)
        let p := { i.packet s k.1 3 (k.2 * 128 + lo) with payload := leBytes 16 mask ++ bytes, poison := tag, flag := bit i.w 0, scope := i.scope }
        some [(p, i.dst 0 (x.raw - x.addr + k.2 * 128) lanes false)]
      | _, _ => none

/-- Perform the stores of an instruction. -/
def storeLanes (s : State) (i : Ins) : State :=
  let ls := i.acting.map (laneAt s i .store)
  let wins := toWindows s ls
  if mustWait s ls then s
  else
    let value := fun (x : LaneAt) =>
      let v := srcLane s i (max 32 (8 * i.size)) (i.o 0) x.lane
      ({ at_ := x, bytes := leBytes i.size v.1, pz := v.2 } : LaneStore)
    let ram := toMemory s ls
    let own := ownSlm s i.c ram
    let s1 := if own.isEmpty then s else addWaves s i.c (waves own i.size)
    let r := (linesOf ram).foldl (fun (acc : State × List LaneDone) l =>
      let mine := ram.filter fun x => x.addr / 128 == l
      let w := storeLine acc.1 i (mine.map value) l
      (w.1, acc.2 ++ mine.map fun x => { lane := x.lane, st := w.2, addr := x.raw })) (s1, failedLanes ls)
    let part := i.part s
    let r := wins.foldl (fun (acc : State × List LaneDone) x =>
      let v := value x
      let w := hfStore acc.1 i.c i.slot part x.addr v.bytes v.pz
      (w.1, acc.2 ++ [{ lane := x.lane, st := w.2, addr := x.raw }])) r
    let far := farStores s i ((toNodes ls).map value)
    let s2 := (toRegs s ls).foldl (fun s x => regStore s (regBy (crewIss s i.c i.slot)) x.addr (value x).bytes) r.1
    reportDone (sendAll (step1 s2 i) i far) i r.2

/-- `ST`, with its release or flag. -/
def storeBody (s : State) (i : Ins) : State :=
  if i.lanes = 0#32 then step1 s i
  else if i.ord = 2 then afterRelease s i i.acting (fun s => step1 s i) fun s => storeLanes s i
  else match (if bit i.w 0 then withheld s i else none) with
    | some st => step1 (recordLanes s i i.acting st) i
    | none => storeLanes s i

/-! ### Atomics (R117 to R121, R149 to R151) -/

/-- Whether the lanes of an atomic are applied one at a time (Table 4.5). -/
def Ins.serial (i : Ins) : Bool := decide (0xC ≤ i.op)

/-- The D-class atomics of the accesses to other nodes (R121): a combined group carries its total, the lanes of a
serialised group follow one another. -/
def farAtoms (s : State) (i : Ins) (ls : List LaneAt) : List (List (Packet × CrewDst)) :=
  let wait := i.ret || bit i.w 5
  let code := if i.ret then i.o 0 else 0x201
  let targets := ls.foldl (fun (m : List (Nat × Nat)) x => let k := (x.node.getD 0, x.addr); if m.contains k then m else m ++ [k]) []
  targets.map fun k =>
    let mine := ls.filter fun x => x.node == some k.1 && x.addr == k.2
    let x := mine.headD ⟨0, 0, 0, none, 0⟩
    let p := { i.packet s k.1 5 k.2 with aop := i.op - 4, aux := 2 * b2n i.ret + b2n (i.size == 8), scope := i.scope }
    if i.serial then mine.map fun y =>
      let o := atomOperand s i y.lane
      ({ p with payload := leBytes 8 o.1 ++ (if i.op = 0xE then leBytes 8 o.2.1 else []), poison := o.2.2 }, i.dst code x.raw [(y.lane, 0)] wait)
    else
      let os := mine.map fun y => atomOperand s i y.lane
      let total := (os.drop 1).foldl (fun t o => (atomOp i.op (8 * i.size) t o.1 0).1) (os.headD (0, 0, false)).1
      [({ p with payload := leBytes 8 total, poison := os.any fun o => o.2.2 }, i.dst code x.raw (mine.map fun y => (y.lane, 0)) wait)]

/-- Perform the atomics of an instruction: one indivisible operation for each target (R117). -/
def atomLanes (errs : List (Nat × Nat)) (s : State) (i : Ins) : State :=
  let ls := i.acting.map (laneAt s i (.atom i.op i.ret))
  if mustWait s ls then s
  else
    let s := meetErrs s i.c (wordsOf (ls.filter fun x => inSlm x.addr) i.size) errs
    let ram := toMemory s ls
    let targets := ram.foldl (fun m x => addOnce m x.addr) []
    let own := targets.filter fun a => home s a == .slm i.c
    let s1 := if own.isEmpty then s
      else addWaves s i.c (atomWaves (own.map fun a => (a, (ram.filter fun x => x.addr == a).length)) i.serial)
    let r := targets.foldl (fun (acc : State × List LaneDone) a =>
      let mine := ram.filter fun x => x.addr == a
      let w := memAtomic acc.1 a i.size i.op (mine.map fun x => atomOperand s i x.lane)
      (setClu w.1 i.c (l1Drop (clu w.1 i.c) a),
       acc.2 ++ List.zipWith (fun (x : LaneAt) (v : Nat × Bool) => { lane := x.lane, st := w.2.1, val := v.1, pz := v.2, addr := x.raw }) mine w.2.2))
      (s1, failedLanes ls)
    let far := farAtoms s i (toNodes ls)
    let s2 := step1 (if i.ret then putLanes r.1 i r.2 else r.1) i
    acquiredBy (reportDone (sendAll s2 i far) i r.2) i.c i.slot i.w

/-- An atomic, with its release. -/
def atomBody (errs : List (Nat × Nat)) (s : State) (i : Ins) : State :=
  if i.lanes = 0#32 then step1 s i
  else if 2 ≤ i.ord then
    let zero := fun (s : State) => if i.ret then putLanes s i (i.acting.map fun l => { lane := l, st := 1, addr := 0 }) else s
    afterRelease s i i.acting (fun s => step1 (zero s) i) fun s => atomLanes errs s i
  else atomLanes errs s i

/-! ### Waits (R146, R147) -/

/-- Poll the lanes the running path waits for. -/
def poll (errs : List (Nat × Nat)) (s : State) (i : Ins) (left : W32) : State :=
  let ls := (lanesOf left).map (laneAt s i .load)
  if mustWait s ls then s
  else
    let s := meetErrs s i.c (wordsOf (ls.filter fun x => inSlm x.addr) i.size) errs
    let r := readLanes s i false ls
    let far := farLoads s i 0x200 (toNodes ls)
    let s := pollLanes (updCrew r.1 i.c i.slot fun x => { x with run := x.run.map fun (p : Path) => { p with wait := some left } }) i
      (r.2.map fun d => (d.lane, d.st, d.val, d.addr))
    let s := sendAll s i far
    if outstanding s i.c i.slot true then s else endPoll s i

/-- The lanes the crew's running path waits for. -/
def waitMask (s : State) (i : Ins) : Option W32 := (crw s i.c i.slot).run.bind fun (p : Path) => p.wait

/-! ### Rows -/

/-- Whether a word is the memory instruction with code `op`. -/
def memRow (op major minor : Nat) : Bool := major == 0x10 && minor % 16 == op

/-- A memory instruction. -/
def memory (op : Nat) (body : State → Ins → State) (c k : Nat) (s : State) : State :=
  issue s c k (memRow op) false memCodes body (memExcs s)

/-- `LD` (R142). -/
def execLd (c k : Nat) (errs : List (Nat × Nat)) (s : State) : Out := .next (memory 0 (loadBody errs) c k s)
/-- `LDS` (R142). -/
def execLds (c k : Nat) (s : State) (errs : List (Nat × Nat) := []) : Out := .next (memory 3 (loadBody errs) c k s)
/-- `ST` (R142, R143). -/
def execSt (c k : Nat) (s : State) : Out := .next (memory 1 storeBody c k s)
/-- `WAIT` (R146): its first poll. -/
def execWaitI (c k : Nat) (s : State) (errs : List (Nat × Nat) := []) : Out :=
  .next (memory 2 (fun s i =>
    if (waitMask s i).isSome then s else if i.lanes = 0#32 then step1 s i else poll errs s i i.lanes) c k s)
/-- `WAIT_POLL` (R147): a further poll. -/
def execWaitPoll (c k : Nat) (s : State) (errs : List (Nat × Nat) := []) : Out :=
  .next (memory 2 (fun s i => match waitMask s i with | some m => poll errs s i m | none => s) c k s)
/-- `ATOM.ADD` (R149). -/
def execAtomAdd (c k : Nat) (s : State) (errs : List (Nat × Nat) := []) : Out := .next (memory 0x4 (atomBody errs) c k s)
/-- `ATOM.MIN.S` (R149). -/
def execAtomMinS (c k : Nat) (s : State) (errs : List (Nat × Nat) := []) : Out := .next (memory 0x5 (atomBody errs) c k s)
/-- `ATOM.MIN.U` (R149). -/
def execAtomMinU (c k : Nat) (s : State) (errs : List (Nat × Nat) := []) : Out := .next (memory 0x6 (atomBody errs) c k s)
/-- `ATOM.MAX.S` (R149). -/
def execAtomMaxS (c k : Nat) (s : State) (errs : List (Nat × Nat) := []) : Out := .next (memory 0x7 (atomBody errs) c k s)
/-- `ATOM.MAX.U` (R149). -/
def execAtomMaxU (c k : Nat) (s : State) (errs : List (Nat × Nat) := []) : Out := .next (memory 0x8 (atomBody errs) c k s)
/-- `ATOM.AND` (R149). -/
def execAtomAnd (c k : Nat) (s : State) (errs : List (Nat × Nat) := []) : Out := .next (memory 0x9 (atomBody errs) c k s)
/-- `ATOM.OR` (R149). -/
def execAtomOr (c k : Nat) (s : State) (errs : List (Nat × Nat) := []) : Out := .next (memory 0xA (atomBody errs) c k s)
/-- `ATOM.XOR` (R149). -/
def execAtomXor (c k : Nat) (s : State) (errs : List (Nat × Nat) := []) : Out := .next (memory 0xB (atomBody errs) c k s)
/-- `ATOM.FADD` (R120). -/
def execAtomFadd (c k : Nat) (s : State) (errs : List (Nat × Nat) := []) : Out := .next (memory 0xC (atomBody errs) c k s)
/-- `ATOM.SWAP` (R149). -/
def execAtomSwap (c k : Nat) (s : State) (errs : List (Nat × Nat) := []) : Out := .next (memory 0xD (atomBody errs) c k s)
/-- `ATOM.CAS` (R149). -/
def execAtomCas (c k : Nat) (s : State) (errs : List (Nat × Nat) := []) : Out := .next (memory 0xE (atomBody errs) c k s)

/-! ### Fences (R148, R360, R380, R381, R384) -/

/-- Codes of a fence word. -/
def fenceCodes (i : Ins) : List Nat :=
  let ranged := fld i.w 53 50 == 3
  (if fld i.w 8 5 ≠ 0 ∨ fld i.w 1 0 ≠ 0 ∨ i.o 0 ≠ 0 ∨ i.o 2 ≠ 0 ∨ 5 < i.scope ∨ (!ranged && (i.o 1 != 0 || i.o 3 != 0)) then [1] else [])
    ++ (if ranged && (opKind (i.o 1) != .sca || opKind (i.o 3) != .sca) then [2] else [])

/-- A fence of a kind. -/
def fence (kind : Nat) (body : State → Ins → State) (c k : Nat) (s : State) : State :=
  issue s c k (fun a b => a == 0x11 && b == kind) true (fun _ i => fenceCodes i) body (fun i =>
    if kind = 3 then
      let a := srcLane s i 64 (i.o 1) 0
      (if badForm a.1 then [{ code := 6, lanes := i.active, addr := a.1 }] else []) ++ (if a.2 then [{ code := 9, lanes := i.active, addr := a.1 }] else [])
    else [])

/-- `FENCE` (R381). A withheld release leaves its acquire part. -/
def execFence (c k : Nat) (s : State) : Out :=
  .next (fence 0 (fun s i =>
    let go := fun (s : State) => step1 (acquire s c i.scope) i
    afterRelease s i (lanesOf i.active) go go) c k s)
/-- `FENCE.ACQ` (R380). -/
def execFenceAcq (c k : Nat) (s : State) : Out := .next (fence 1 (fun s i => step1 (acquire s c i.scope) i) c k s)
/-- `FENCE.REL` (R379). -/
def execFenceRel (c k : Nat) (s : State) : Out :=
  .next (fence 2 (fun s i => afterRelease s i (lanesOf i.active) (fun s => step1 s i) fun s => step1 s i) c k s)

/-- Invalidate the lines of a cluster's L1 that overlap a range (R380, R384): more than 2,048 lines empty it. -/
def dropRange (s : State) (c a n : Nat) : State :=
  if n = 0 then s
  else
    let first := a / 128
    let last := (a + n - 1) / 128
    if 2048 < last - first + 1 then acquire s c 1
    else
      let x := clu s c
      let keep := x.l1.filter fun l => decide (l.line < first) || decide (last < l.line)
      setClu s c { x with l1 := keep, rangeLines := x.rangeLines + (x.l1.length - keep.length) }

/-- `FENCE.ACQ.RANGE` (R148, R384). A range of another node's memory holds no line of the cache. -/
def execFenceAcqRange (c k : Nat) (s : State) : Out :=
  .next (fence 3 (fun s i =>
    let a := (srcLane s i 64 (i.o 1) 0).1
    let n := (srcLane s i 64 (i.o 3) 0).1
    step1 (if i.scope = 0 ∨ (farNode s a).isSome then s else dropRange s c (a % 2 ^ 48) n) i) c k s)

end Sys2Proof.Machine
end

