-- ==== Sys2Proof/Machine/CrewAsync.lean ====
section
/-!
DEFINITION. The transposing load unit and the hand-over of copy descriptors (R94, R154, R155, R157 to R159).
-/
namespace Sys2Proof.Machine
open Sys2Proof

/-! ### Transposing loads (R155) -/

/-- Geometry of a transposing load: rows, source stride, destination pitch. -/
def tldRows (g : Nat) : Nat := fld g 47 40 + 1
def tldStride (g : Nat) : Nat := fld g 39 0
def tldPitch (g : Nat) : Nat := fld g 63 48

/-- Codes of a `TLD` word. -/
def tldCodes (i : Ins) : List Nat :=
  (if 3 < fld i.w 15 8 ∨ fld i.w 7 0 ≠ 0 then [1] else [])
    ++ (if [i.o 0, i.o 1, i.o 2].any fun c => opKind c != .sca then [2] else [])

/-- Exceptions of a `TLD`'s operands: a pitch too small or too many rows, an address of no form, poison (R138, R155, R167). -/
def tldExcs (s : State) (i : Ins) : List Exc :=
  let v := fun n => srcLane s i 64 (i.o n) 0
  let g := (v 2).1
  let e := fun (code addr : Nat) (p : Bool) => if p then [({ code, lanes := i.active, addr } : Exc)] else []
  e 2 0 (decide (2 * tldPitch g < tldRows g * 2 ^ fld i.w 10 8) || decide (128 < tldRows g))
    ++ e 6 (v 1).1 (badForm (v 1).1)
    ++ e 9 0 ((v 0).2 || (v 1).2 || (v 2).2)

/-- `TLD`: the tile joins the queue of the cluster's transposing load unit. -/
def execTld (c k : Nat) (s : State) : Out :=
  .next (issue s c k (fun a b => a == 0x12 && b == 0) true (fun _ i => tldCodes i) (fun s i =>
    let q := fld i.w 17 16
    if 255 ≤ mget (crw s c k).q q 0 then s
    else
      let v := fun n => (srcLane s i 64 (i.o n) 0).1
      let j : TldJob := {
        slot := k, q, dst := v 0, src := BitVec.ofNat 64 (v 1), rows := tldRows (v 2), stride := tldStride (v 2)
        pitch := tldPitch (v 2), esize := fld i.w 10 8, lanes := i.active, pc := i.pc, instr := BitVec.ofNat 64 i.w }
      let s := setClu s c { clu s c with tlds := (clu s c).tlds ++ [j] }
      step1 (addQ s c k q) i) (tldExcs s))

/-- Bits of an element, elements in a row, and bytes of a destination row. -/
def TldJob.bits (j : TldJob) : Nat := 4 * 2 ^ j.esize
def TldJob.cols (j : TldJob) : Nat := 1024 / j.bits
def TldJob.rowBytes (j : TldJob) : Nat := cdiv (j.rows * j.bits) 8
/-- One past the last destination offset. -/
def TldJob.beyond (j : TldJob) : Nat := j.dst + (j.cols - 1) * j.pitch + j.rowBytes
/-- Address of source row `r` on its node, and the crew address of an address on that node. -/
def TldJob.rowAt (j : TldJob) (r : Nat) : Nat := j.src.toNat % 2 ^ 48 + r * j.stride
def TldJob.crewAddr (j : TldJob) (a : Nat) : Nat := j.src.toNat / 2 ^ 48 * 2 ^ 48 + a
/-- The source in pieces of one 128 B line. -/
def TldJob.pieces (j : TldJob) : List (Nat × Nat) := (List.range j.rows).flatMap fun r => linePieces (j.rowAt r) 128
/-- Issuer of a transposing load's accesses. -/
def TldJob.iss (j : TldJob) (s : State) (c : Nat) : Issuer :=
  { kind := .tld, unit := c, part := some (krn s (crw s c j.slot).kernel).part }

/-- Change the transposing load at the front of a cluster's queue. -/
def updTld (s : State) (c : Nat) (f : TldJob → TldJob) : State :=
  match (clu s c).tlds with
  | [] => s
  | j :: more => setClu s c { clu s c with tlds := f j :: more }

/-- Lines of the source that lie in headframe windows, by window. -/
def TldJob.windowLines (j : TldJob) (s : State) (iss : Issuer) : List (Nat × Nat) :=
  (j.pieces.filterMap fun p =>
    if windowHome s p.1 && accessStatus s iss .load p.1 p.2 == 0 then (hfWindow s p.1 p.2).map fun w => (w, p.1 / 128) else none).foldl
      (fun m x => if m.contains x then m else m ++ [x]) []

/-- Send one read of the front transposing load and note that it is awaited. -/
def tldSend (s : State) (c : Nat) (key : Nat) (r : Request) : State :=
  let id := s.nextReq
  newRequest (updTld s c fun j => { j with left := j.left ++ [(id, key)] }) { r with tld := some c }

/-- Keep a status for a source line that cannot be read. -/
def tldFail (s : State) (c key st : Nat) : State := updTld s c fun j => { j with got := j.got ++ [(key, st, [], false)] }

/-- Send the reads of other nodes and windows that the front transposing load needs; its window lines are joined (R361). -/
def tldBegin (s : State) (c : Nat) (j : TldJob) : State :=
  let iss := j.iss s c
  let part := iss.part.getD 0
  let s := updTld s c fun j => { j with begun := true }
  match farNode s j.src.toNat with
  | some n =>
    (j.pieces.foldl (fun m p => addOnce m (p.1 / 128)) []).foldl (fun s l =>
      let p : Packet := { cls := 0, type := 1, dst := n, src := nodeId s, engine := c * 8 + j.slot / 16, seq := 0
                          offset := l * 128 % 2 ^ 48, jkey := jkeyOf s part, aux := 16 }
      let st := if 2 ^ 48 ≤ l * 128 then 4 else sourceStatus s p
      if st ≠ 0 then tldFail s c (l * 128) st else tldSend s c (l * 128) { id := 0, pkt := p }) s
  | none =>
    let need := j.windowLines s iss
    let s := updTld s c fun j => { j with lines := need.map fun x => x.2 * 128 }
    (List.range 16).foldl (fun s w =>
      (lineRuns (ascending ((need.filter fun x => x.1 == w).map (·.2)))).foldl (fun s r => readWindow s (cluTower c) w part r.1 r.2 (.tld c)) s) s

/-- Read one piece of the source: its bytes with their poison, zero where not applied, and its fault. -/
def TldJob.readPiece (j : TldJob) (s : State) (iss : Issuer) (p : Nat × Nat) : State × List (Byte × Bool) × Option (Nat × Nat) :=
  let none_ := List.replicate p.2 ((0#8 : Byte), false)
  let fail := fun (s : State) st => (s, none_, some (j.crewAddr p.1, st))
  let kept :=
    match j.got.find? fun (g : Nat × Nat × List Byte × Bool) => g.1 == p.1 / 128 * 128 with
    | some g => if isFault g.2.1 then fail s g.2.1 else (s, (padTo p.2 (g.2.2.1.drop (p.1 % 128))).map fun b => (b, g.2.2.2), none)
    | none => fail s 4
  if (farNode s j.src.toNat).isSome then kept
  else
    let st := accessStatus s iss .load p.1 p.2
    if st ≠ 0 then fail s st
    else match home s p.1 with
      | .window => kept
      | .regs =>
        let r := (linePieces p.1 p.2).foldl (fun (acc : State × List Byte) q =>
          (List.range (cdiv (q.1 % 8 + q.2) 8)).foldl (fun (acc : State × List Byte) n =>
            let lo := max q.1 ((q.1 / 8 + n) * 8)
            let hi := min (q.1 + q.2) ((q.1 / 8 + n + 1) * 8)
            let x := regLoad acc.1 lo (hi - lo)
            (x.2, acc.2 ++ x.1)) acc) (s, [])
        (r.1, r.2.map fun b => (b, false), none)
      | _ =>
        let r := memRead s p.1 p.2
        let bad := fun a => failedHome r.1 a || poisoned r.1 a 1
        (r.1, (List.range p.2).map fun n => (r.2.1.getD n 0#8, r.2.2 && bad (p.1 + n)), none)

/-- Element (row, column) of a source read as bytes with poison: its code and poison. -/
def TldJob.elem (j : TldJob) (rows : List (List (Byte × Bool))) (r c : Nat) : Nat × Bool :=
  let w := cdiv j.bits 8
  let bs := ((rows.getD r []).drop (c * j.bits / 8)).take w
  (leNat (bs.map (·.1)) / 2 ^ (c * j.bits % 8) % 2 ^ j.bits, bs.any (·.2))

/-- Bytes of destination row `c`, with their poison; the upper half of a last byte of 4-bit elements stays. -/
def TldJob.column (j : TldJob) (s : State) (rows : List (List (Byte × Bool))) (base c : Nat) : List (Byte × Bool) :=
  (List.range j.rowBytes).map fun b =>
    if j.bits = 4 then
      let lo := j.elem rows (2 * b) c
      let hi := if 2 * b + 1 < j.rows then j.elem rows (2 * b + 1) c else ((cellGet s.mem (base + b)).toNat / 16, false)
      (BitVec.ofNat 8 (lo.1 + 16 * hi.1), lo.2 || hi.2)
    else
      let n := j.bits / 8
      let e := j.elem rows (b / n) c
      (BitVec.ofNat 8 (e.1 / 2 ^ (8 * (b % n))), e.2)

/-- Write the transposed tile (R155): the state, and the faults of its writes. -/
def TldJob.writeTile (j : TldJob) (s : State) (c : Nat) (iss : Issuer) (rows : List (List (Byte × Bool))) : State × List (Nat × Nat) :=
  (List.range j.cols).foldl (fun (acc : State × List (Nat × Nat)) col =>
    let base := slmBase + c * 2 ^ 24 + j.dst + col * j.pitch
    let st := accessStatus acc.1 iss .store base j.rowBytes
    if st ≠ 0 then (acc.1, acc.2 ++ [(base, st)])
    else
      let bytes := j.column acc.1 rows base col
      ((cuts base j.rowBytes).foldl (fun s p =>
        let part := (bytes.drop (p.1 - base)).take p.2
        (memWrite s p.1 (part.map (·.1)) (part.any (·.2))).1) acc.1, acc.2)) (s, [])

/-- `TLD_COMPLETE` (R154, R155, R157): the front transposing load reads its rows, writes the transpose, reports its
faults and drops its counter. Source lines in windows or on other nodes are requested first and awaited; `errs` are wrong bits
of source words in shared local memory (R111). -/
def execTldComplete (c : Nat) (s : State) (errs : List (Nat × Nat) := []) : Out :=
  .next (match (clu s c).tlds with
  | [] => s
  | j :: more =>
    if alive s = false then s
    else
      let iss := j.iss s c
      let wins := j.windowLines s iss
      let meets := fun (q : Run) => wins.any fun x => q.win == x.1 && decide (q.first < (x.2 + 1) * 128) && decide (x.2 * 128 < q.first + q.bytes.length)
      let local_ := (farNode s j.src.toNat).isNone
      if j.begun = false ∧ local_ ∧ (allRuns s (cluTower c)).any meets then dueRuns s (cluTower c) meets
      else
        let s := if j.begun then s else tldBegin s c j
        let j := (clu s c).tlds.headD j
        if j.left ≠ [] ∨ j.lines ≠ [] ∨ (local_ ∧ j.pieces.any fun p => waits s p.1) then s
        else
          let done := fun (s : State) (fs : List (Nat × Nat)) =>
            let s := setClu s c { clu s c with tlds := more }
            let s := fs.foldl (fun s f => asyncFault s c j.slot j.pc j.instr j.lanes f.1 f.2) s
            dropQ s c j.slot j.q
          let s := meetErrs s c (if local_ then (j.pieces.filter fun p => inSlm p.1 && accessStatus s iss .load p.1 p.2 == 0) else []) errs
          if 2 ^ 20 < j.beyond then done s [(slmBase + c * 2 ^ 24 + j.dst, 4)]
          else
            let r := (List.range j.rows).foldl (fun (acc : State × List (List (Byte × Bool)) × List (Nat × Nat)) n =>
              let q := (linePieces (j.rowAt n) 128).foldl (fun (a : State × List (Byte × Bool) × List (Nat × Nat)) p =>
                let x := j.readPiece a.1 iss p
                (x.1, a.2.1 ++ x.2.1, a.2.2 ++ x.2.2.toList)) (acc.1, [], [])
              (q.1, acc.2.1 ++ [q.2.1], acc.2.2 ++ q.2.2)) (s, [], [])
            let w := j.writeTile r.1 c iss r.2.1
            done w.1 (r.2.2 ++ w.2))

/-! ### Copy descriptors (R158, R159) -/

/-- Descriptors of crews queued at a copy engine. -/
def crewJobs (s : State) (e : Nat) : Nat :=
  ((cpe s e).queue.filter fun j => match j.src with | .crew _ _ _ => true | .cmd _ _ => false).length

/-- Enabled engines `DMA.ISSUE` may hand to: the named one, or any of the tower. -/
def dmaEngines (s : State) (i : Ins) : List Nat :=
  let t := cluTower i.c
  let n := fld i.w 11 8
  ((if n = 0xF then List.range 8 else [n]).map (8 * t + ·)).filter (copyEnabled s)

/-- `DMA.ISSUE` (R158, R159): a release at MODULE scope, which sends the crew's window stores (R360); then its descriptor joins the queue of the named engine, or
of one of the tower's that has room, a free choice. -/
def execDmaIssue (c k : Nat) (s : State) : Out :=
  .next (issue s c k (fun a b => a == 0x13 && b == 0) true
    (fun _ i =>
      let n := fld i.w 15 8
      (if asyncCodes i true ≠ [] ∨ fld i.w 17 16 ≠ 0 ∨ (8 ≤ n ∧ n ≠ 0xF) then [1] else []) ++ octetCodes i)
    (fun s i =>
      let room := (dmaEngines s i).filter fun e => decide (crewJobs s e < 64)
      if room.isEmpty then s else
      let s := flushRuns s c k
      if unsent s c k then s
      else
        let r := if room.length = 1 then (0, s) else draw s room.length
        let e := room.getD r.1 0
        let kern := (crw s c k).kernel
        step1 (pushCopy r.2 e { d := (octet s i).1, src := .crew c k kern, part := (krn s kern).part }) i)
    fun i =>
      (if (dmaEngines s i).isEmpty then [{ code := 0x0B, lanes := i.active }] else [])
        ++ (if (octet s i).2 then [{ code := 9, lanes := i.active }] else []))

end Sys2Proof.Machine
end

