-- ==== Sys2Proof/Machine/Errors.lean ====
section
/-!
DEFINITION. The Pit Log recorder, partition containment, FATAL errors and the thermal sample (chapter 17, R534 to R547,
and R452, R453).
-/
namespace Sys2Proof.Machine
open Sys2Proof

/-! ### The recorder (R540 to R545) -/

/-- `CLASS` of a trigger (Table 17.6): 0 EVENT, 1 CORRECTED, 2 DEFERRED, 3 CONTAINED, 4 FATAL, 5 TRIP. -/
def trigClass (trig : Nat) : Nat :=
  match trig / 256, trig % 256 with
  | 2, _ => 2
  | 4, _ => 3
  | 6, 6 => 5
  | 9, 2 => 1
  | 9, 3 => 2
  | 9, 4 => 3
  | 9, 5 => 4
  | _, _ => 0

/-- Base of the relative capture entries of a trigger and unit (Table 17.6). -/
def captureBase (trig unit : Nat) : Nat :=
  let tower := fun t => 0x0F0000000000 + t * 2 ^ 32
  let module := 0x0F0800000000
  match trig / 256, trig % 256 with
  | 1, _ => tower unit
  | 2, _ => tower (if unit < 32 then unit / 8 else (unit - 32) / 8)
  | 3, 3 => module
  | 3, 4 => module
  | 3, _ => tower (unit / 8) + 0x23000000 + unit % 8 * 0x100
  | 4, _ => tower (unit / 32) + (2 + unit / 16 % 2) * 2 ^ 30 + unit % 16 * 0x01000000
  | 7, 1 => tower (unit / 16) + 0x26000000 + unit % 16 * 0x40
  | 9, 1 => tower (unit / 64) + 0x27000000 + unit % 64 * 0x40
  | _, _ => module

/-- The 48 entries of capture list `l`; an entry of zero is none (log 13). -/
def captureList (s : State) (l : Nat) : List Nat :=
  let b := cfgB s 0x800004
  ((List.range 48).map fun i => subNat b (384 * l + 8 * i) 8).filter (· != 0)

/-- One captured word (R541): all ones where the address completes other than `OK`. -/
def capture (s : State) (base e : Nat) : W32 × State :=
  let off := fld e 47 3 * 8
  let a := if bit e 1 then (base + off) % 2 ^ 48 else off
  if home s a = .regs ∧ levelStatus s a = 0 then
    let r := regRead s a
    (BitVec.ofNat 32 (if bit e 0 then r.1 / 2 ^ 32 else r.1), r.2)
  else (0xFFFFFFFF#32, s)

/-- The captured words of a list, in order. -/
def captures (s : State) (base : Nat) (es : List Nat) : List W32 × State :=
  es.foldl (fun (x : List W32 × State) e => let r := capture x.2 base e; (x.1 ++ [r.1], r.2)) ([], s)

/-- Whether an event folds into the newest record (R544). -/
def folds (s : State) (r : PitRec) (e : PitEvent) : Bool :=
  let within := cfg s 0x800008
  r.ev.trig == e.trig && r.ev.unit == e.unit && r.ev.addr == e.addr && within != 0
    && decide (e.pace ≤ r.lastPace + within * 1000000000) && decide (r.repeats < 0xFFFF)

/-- A fold: `REPEAT`, `LAST_PACE` and `UPD` change, and nothing is raised (R544). -/
def foldRecord (s : State) (r : PitRec) (e : PitEvent) : State :=
  let r := { r with repeats := r.repeats + 1, lastPace := e.pace, upd := r.upd + 1 }
  { s with pit.records := s.pit.records.dropLast ++ [r] }

/-- A new record (R540 to R542): it takes the `DROPPED` flag, and source 0x1B7 follows by its class (R538). -/
def newRecord (s : State) (e : PitEvent) : State :=
  let w := captures s (captureBase e.trig e.unit) (captureList s (trigByte s e.trig % 32))
  let s := w.2
  let r : PitRec := { seq := s.pit.written + 1, ev := e, cls := trigClass e.trig, dropped := s.pit.dropFlag, lastPace := e.pace, words := w.1 }
  let rs := s.pit.records ++ [r]
  let s := { s with pit.records := rs.drop (rs.length - 4096), pit.written := s.pit.written + 1, pit.dropFlag := false }
  if cfg s 0x800007 ≤ r.cls then irq s 0x1B7 else s

/-- The recorder serves the event at the head of its queue. -/
def serveEvent (s : State) : State :=
  match s.pit.queue with
  | [] => s
  | e :: q =>
    let s := { s with pit.queue := q }
    match s.pit.records.getLast? with
    | some r => if folds s r e then foldRecord s r e else newRecord s e
    | none => newRecord s e

/-- The recorder serves its whole queue. -/
def serveAll (s : State) : State := (List.range s.pit.queue.length).foldl (fun s _ => serveEvent s) s

/-- `PIT_RECORD_WRITE` (R545). -/
def execPitRecordWrite (now : Nat) (s : State) : Out :=
  let s := clock s now
  .next (match s.boot.phase with
  | .unpowered => s
  | .tripped => s
  | _ => serveEvent s)

/-- A record goes into the next erased event page, if there is one (R547). -/
def eventPage (s : State) (r : PitRec) : State :=
  if s.kept.eventPages.length < 256 then { s with kept.eventPages := s.kept.eventPages ++ [r.bytes] } else s

/-- The newest record of an enabled trigger goes into an event page. -/
def pageOf (s : State) (trig : Nat) : State :=
  if bit (trigByte s trig) 7 = false then s else
  match s.pit.records.reverse.find? fun (r : PitRec) => r.ev.trig == trig with
  | some r => eventPage s r
  | none => s

/-! ### Flash (R543, R547) -/

/-- `PIT_FLASH_CLEAR` (R547): 1 record copy, 2 event pages, 3 both. -/
def execPitFlashClear (w : ObjWrite) (s : State) : Out :=
  .next (objWrite s w 0x80000A 0 fun s =>
    let v := leNat w.val
    if s.pit.programming then (0x45, s)
    else if v < 1 ∨ 3 < v then (0x42, s)
    else
      (0, { s with
        kept.pitCopy := if bit v 0 then [] else s.kept.pitCopy
        kept.eventPages := if bit v 1 then [] else s.kept.eventPages }))

/-- `OP_SECONDS_SAVE` (R543): the count reached `secs`, and `SEC0` stores it. -/
def execOpSecondsSave (secs : Nat) (s : State) : Out :=
  .next (if s.boot.phase = .unpowered ∨ s.boot.phase = .tripped ∨ fwRuns s 0 = false then s
    else { s with opSeconds := secs, kept.opStored := secs })

/-- `ERR_HOUR_ROLL` (R534): the count reached `secs`; in a new operating hour the hourly counts start again at 0. -/
def execErrHourRoll (secs : Nat) (s : State) : Out :=
  .next (if s.boot.phase = .unpowered ∨ s.boot.phase = .tripped then s
    else if s.opSeconds / 3600 < secs / 3600 then { s with opSeconds := secs, pit.hourly := [], pit.raised := [] }
    else { s with opSeconds := secs })

/-! ### Containment and FATAL (R536, R537) -/

/-- Every descriptor of an engine that belongs to partition `p` ends with `CONTAINED`, its requests forgotten. -/
def containEngine (s : State) (p e : Nat) : State :=
  let x := cpe s e
  let mine := fun (j : CopyJob) => j.part == p
  let ends := x.queue.filter mine
  let s := setCpe s e { x with queue := x.queue.filter fun j => !mine j }
  let s := match x.busy with
    | some j =>
      if mine j then
        let s := setCpe s e { cpe s e with busy := none, ended := false, reads := [], left := 0 }
        let s := { s with headframes := s.headframes.map fun h => (h.1, { h.2 with
          waiting := h.2.waiting.filter fun (l : WinLoad) => match l.who with | .copy e' => e' != e | _ => true }) }
        j.finish s e 0x20 true
      else s
    | none => s
  ends.foldl (fun s j => j.finish s e 0x20 false) s

/-- Every kernel of partition `p` is stopped: a launch that waits is dropped, a frozen kernel ends with its record. -/
def containKernels (s : State) (p : Nat) : State :=
  (s.kernels.filter fun (x : Nat × Kernel) => x.2.part == p).foldl (fun s (x : Nat × Kernel) =>
    match x.2.mode with
    | .waiting => setKrn s x.1 { x.2 with mode := .ended }
    | _ => containOrEnd s x.1) s

/-- `EN` of each command queue of partition `p` is cleared. -/
def containQueues (s : State) (p : Nat) : State :=
  { s with queues := s.queues.map fun (x : Nat × CmdQueue) =>
      if x.2.part = p ∧ x.2.en then (x.1, refresh s { x.2 with en := false }) else x }

/-- The sealing channels of partition `p` are switched off, and its key slots erased. -/
def containKeys (s : State) (p : Nat) : State :=
  let s := (s.channels.filter fun (x : Nat × Channel) => x.2.part == p && x.2.en).foldl (fun s (x : Nat × Channel) => channelOff s x.1) s
  (s.trust.keys.filter fun (k : Nat × KeySlot) => k.2.part == p).foldl (fun s (k : Nat × KeySlot) => eraseKey s k.1) s

/-- `PARTITION_CONTAIN` (R536). -/
def execPartitionContain (p now : Nat) (s : State) : Out :=
  let s := clock s now
  let s := containQueues (containKernels s p) p
  let s := containKeys ((List.range 32).foldl (fun s e => containEngine s p e) s) p
  let off := leBytes 1 0
  let s := { s with active := mset s.active (partKey p 1) off, shadow := mset s.shadow (partKey p 1) off }
  .next (pitEvent (irq s 0x1B5) 0x0904 p)

/-- `FATAL_ERROR` (R537). -/
def execFatalError (cause now : Nat) (s : State) : Out :=
  let s := clock s now
  .next (match s.boot.phase with
  | .booting => { fatal s cause with pit.programming := true }
  | .booted => { fatal s cause with pit.programming := true }
  | _ => s)

/-- `FATAL_RECORD_PROGRAMMED` (R537): the queued events and the FATAL record are in the log, the FATAL record is in its
event page and the record copy is programmed anew; a warm module reset follows. -/
def execFatalRecordProgrammed (s : State) : Out :=
  .next (if s.boot.phase = .fatal then
    let s := pageOf (serveAll s) 0x0905
    let rs := s.pit.records
    warmReset { s with kept.pitCopy := (rs.drop (rs.length - 3840)).map PitRec.bytes } 3
  else s)

/-! ### Thermal sample (R452, R453) -/

/-- Limits of a sensor in °C: throttle, critical, trip (Table 14.7); none for the coolant. -/
def thermLimits (s : State) (i : Nat) : Option (Int × Int × Int) :=
  if i < 64 then some (cfg s 0x240002, 105, 115)
  else if i < 72 then some (100, 110, 115)
  else if i < 104 then some (90, 95, 105)
  else if i < 112 then some (100, 105, 115)
  else none

/-- Whether a reading at sensor `i` reaches the limit that `f` selects. -/
def reaches (s : State) (f : Int × Int × Int → Int) (i : Nat) (t : Int) : Bool :=
  match thermLimits s i with
  | some l => decide (f l ≤ t)
  | none => false

/-- Throttle events: a sensor rises above its throttle limit; it stays hot until it falls 3 °C below. -/
def thermHot (s : State) (i : Nat) (t : Int) : State :=
  match thermLimits s i with
  | none => s
  | some l =>
    if s.power.hot.contains i then
      if t ≤ l.1 - 3 then { s with power.hot := s.power.hot.filter (· != i) } else s
    else if l.1 < t then
      pitEvent { s with
        power.hot := s.power.hot ++ [i]
        power.throttleCount := mset s.power.throttleCount i (mget s.power.throttleCount i 0 + 1) } 0x0604 0xFFFF 0 0 i
    else s

/-- Critical events of a sensor (R453). -/
def thermCritical (s : State) (i : Nat) (t : Int) : State :=
  let now := reaches s (·.2.1) i t
  if now && !s.power.critical.contains i then
    pitEvent { s with
      power.critical := s.power.critical ++ [i]
      power.criticalCount := mset s.power.criticalCount i (mget s.power.criticalCount i 0 + 1) } 0x0605 0xFFFF 0 0 i
  else if now then s
  else { s with power.critical := s.power.critical.filter (· != i) }

/-- A die goes to point 3 and its arrays' caps to at most 0.25. -/
def dieCritical (s : State) (d : Nat) : State :=
  let s := retarget (setDvfs s d { dvfs s d with throttle := 3 }) d
  let s := (dieClusters d).foldl (fun s c => setClu s c (capTo s (clu s c) (min 16 (clu s c).cap))) s
  noteCaps (addCause s d 5) d

/-- Compute dies a critical column or hotspot acts on: the die of each cluster of the column, both of a hotspot's tower. -/
def criticalDies (i : Nat) : List Nat :=
  if i < 64 then [2 * (i / 16), 2 * (i / 16) + 1]
  else if i < 72 then [2 * ((i - 64) / 2), 2 * ((i - 64) / 2) + 1]
  else []

/-- A thermal trip (R453): recorded in the log and in flash, `THERMTRIP_N` low, and every rail but the input falls. -/
def thermTrip (s : State) (i : Nat) : State :=
  let s := pageOf (serveAll (pitEvent s 0x0606 0xFFFF 0 0 i)) 0x0606
  let c := cleared s
  { c with boot.phase := .tripped, pins.thermtripN := false }

/-- The readings of the 114 sensors of `Power`, given those on L2 for the columns, and those on L3: a column's is the higher of
its two (R52, R452). -/
def columnTemps (temps upper : List Int) : List Int :=
  (List.range temps.length).map fun i => if i < 64 ∧ i < upper.length then max (temps.getD i 0) (upper.getD i 0) else temps.getD i 0

/-- `THERMAL_SAMPLE` (R52, R452, R453): readings in °C, sensors in the order of `Power`, of a column that on L2; `upper` are the
columns' sensors on L3. -/
def execThermalSample (now : Nat) (temps : List Int) (s : State) (upper : List Int := []) : Out :=
  let s := clock s now
  .next (if railsUpPhase s = false then s else
    let rs := (List.range temps.length).zip (columnTemps temps upper)
    let s := { s with power.temps := rs, power.colLower := temps.take 64, power.colUpper := upper }
    match rs.find? fun (r : Nat × Int) => reaches s (·.2.2) r.1 r.2 with
    | some r => thermTrip s r.1
    | none =>
      let s := rs.foldl (fun s (r : Nat × Int) => thermCritical (thermHot s r.1 r.2) r.1 r.2) s
      let cols := s.power.hot.filter fun i => decide (i < 64)
      let s := cols.foldl (fun s i => lowerCaps s [32 * (i / 16) + i % 16, 32 * (i / 16) + 16 + i % 16] 5) s
      let s := ((s.power.critical.flatMap criticalDies).foldl addOnce []).foldl dieCritical s
      let s := (List.range 8).foldl (fun s d =>
        let x := throttle s d
        if x.causes.contains 5 && !thermalCalm s d then setThrottle s d { x with clearSince := none } else s) s
      { s with
        power.halfStacks := (s.power.critical.filter fun i => decide (72 ≤ i) && decide (i < 104)).map (· - 72)
        power.halfUes := (s.power.critical.filter fun i => decide (104 ≤ i)).map (· - 104) })

end Sys2Proof.Machine
end

