-- ==== Sys2Proof/Machine/Dispatch.lean ====
section
/-! DEFINITION. Which meaning each command has: one arm per row of the opcode table, in its order. -/
namespace Sys2Proof.Machine
open Sys2Proof

/-- The effect of a command on everything but the queue. -/
def exec (i : Instr) (s : State) : Host.Outcome State Fault Refusal :=
  match i with
  | .inputInRange mated mv => Sys2Proof.Machine.execInputInRange mated mv s
  | .railsGood refClk csLow => Sys2Proof.Machine.execRailsGood refClk csLow s
  | .refClkPresent csLow => Sys2Proof.Machine.execRefClkPresent csLow s
  | .inputLoss mv ns => Sys2Proof.Machine.execInputLoss mv ns s
  | .resetNAssert ns => Sys2Proof.Machine.execResetNAssert ns s
  | .resetNRelease refClk csLow => Sys2Proof.Machine.execResetNRelease refClk csLow s
  | .flashCsRelease us => Sys2Proof.Machine.execFlashCsRelease us s
  | .moduleReset w => Sys2Proof.Machine.execModuleReset w s
  | .bootSec0Verify us ok code => Sys2Proof.Machine.execBootSec0Verify us ok code s
  | .bootFwImages us ok code => Sys2Proof.Machine.execBootFwImages us ok code s
  | .bootConfigLoad us => Sys2Proof.Machine.execBootConfigLoad us s
  | .bootBridgeTrain us ok code => Sys2Proof.Machine.execBootBridgeTrain us ok code s
  | .bootShaftTrain t us ok code failed => Sys2Proof.Machine.execBootShaftTrain t us ok code failed s
  | .bootStackTrain st us ok code => Sys2Proof.Machine.execBootStackTrain st us ok code s
  | .bootFastTierBuild us ok code => Sys2Proof.Machine.execBootFastTierBuild us ok code s
  | .bootUeStart n us ok code => Sys2Proof.Machine.execBootUeStart n us ok code s
  | .bootDeepTierZero us ok code => Sys2Proof.Machine.execBootDeepTierZero us ok code s
  | .bootClusterTest c us ok code => Sys2Proof.Machine.execBootClusterTest c us ok code s
  | .bootPortBringup p us ok code peer => Sys2Proof.Machine.execBootPortBringup p us ok code peer s
  | .bootMgmtPort us ok code => Sys2Proof.Machine.execBootMgmtPort us ok code s
  | .bootMeasurementsClose us ok code => Sys2Proof.Machine.execBootMeasurementsClose us ok code s
  | .bootPayloadStart us ok code => Sys2Proof.Machine.execBootPayloadStart us ok code s
  | .fwRestart w => Sys2Proof.Machine.execFwRestart w s
  | .fwWatchdogExpiry p now => Sys2Proof.Machine.execFwWatchdogExpiry p now s
  | .fwProcessorFault p now => Sys2Proof.Machine.execFwProcessorFault p now s
  | .fwRestartActionTimeout p now => Sys2Proof.Machine.execFwRestartActionTimeout p now s
  | .fwRestartComplete p now ok notes => Sys2Proof.Machine.execFwRestartComplete p now ok notes s
  | .paceTowerCompare now d1 d2 d3 => Sys2Proof.Machine.execPaceTowerCompare now d1 d2 d3 s
  | .shaftFrame t j sh new flips mended => Sys2Proof.Machine.execShaftFrame t j sh new flips mended s
  | .laneLossOfSignal t j sh lane => Sys2Proof.Machine.execLaneLossOfSignal t j sh lane s
  | .laneErrorThreshold t j sh lane count => Sys2Proof.Machine.execLaneErrorThreshold t j sh lane count s
  | .recalRoundStart t now => Sys2Proof.Machine.execRecalRoundStart t now s
  | .recalNow w => Sys2Proof.Machine.execRecalNow w s
  | .shaftRecalDone t now healed => Sys2Proof.Machine.execShaftRecalDone t now healed s
  | .levelRestore w => Sys2Proof.Machine.execLevelRestore w s
  | .levelReset w => Sys2Proof.Machine.execLevelReset w s
  | .levelResetDrainDone t l => Sys2Proof.Machine.execLevelResetDrainDone t l s
  | .levelResetRelease t l => Sys2Proof.Machine.execLevelResetRelease t l s
  | .levelReady t l => Sys2Proof.Machine.execLevelReady t l s
  | .towerReset w => Sys2Proof.Machine.execTowerReset w s
  | .towerResetWritebackDone t => Sys2Proof.Machine.execTowerResetWritebackDone t s
  | .towerPllLocked t => Sys2Proof.Machine.execTowerPllLocked t s
  | .towerJointsTrained t => Sys2Proof.Machine.execTowerJointsTrained t s
  | .towerReady t => Sys2Proof.Machine.execTowerReady t s
  | .nsCacheWritebackDone t => Sys2Proof.Machine.execNsCacheWritebackDone t s
  | .nsWritebackTimeout t now => Sys2Proof.Machine.execNsWritebackTimeout t now s
  | .memoryAccess x errs => Sys2Proof.Machine.execMemoryAccess x errs s
  | .accwRequest a => Sys2Proof.Machine.execAccwRequest a s
  | .accwApply t n => Sys2Proof.Machine.execAccwApply t n s
  | .nsSplitChangeDone t => Sys2Proof.Machine.execNsSplitChangeDone t s
  | .nsFlush w => Sys2Proof.Machine.execNsFlush w s
  | .stackRetrain w => Sys2Proof.Machine.execStackRetrain w s
  | .stackRetrainInterval st now => Sys2Proof.Machine.execStackRetrainInterval st now s
  | .stackTempDelta st tempC now => Sys2Proof.Machine.execStackTempDelta st tempC now s
  | .stackRetrainDone st now ok => Sys2Proof.Machine.execStackRetrainDone st now ok s
  | .memDeviceFailure u => Sys2Proof.Machine.execMemDeviceFailure u s
  | .scrubPatrol addr errs newer near => Sys2Proof.Machine.execScrubPatrol addr errs newer s near
  | .copyI e => Sys2Proof.Machine.execCopyI e s
  | .transposeI e => Sys2Proof.Machine.execTransposeI e s
  | .fillI e => Sys2Proof.Machine.execFillI e s
  | .accwI e => Sys2Proof.Machine.execAccwI e s
  | .copyTransferDone e => Sys2Proof.Machine.execCopyTransferDone e s
  | .crewAdmit k c n => Sys2Proof.Machine.execCrewAdmit k c n s
  | .crewRelease c k => Sys2Proof.Machine.execCrewRelease c k s
  | .nopI c k => Sys2Proof.Machine.execNopI c k s
  | .exitI c k => Sys2Proof.Machine.execExitI c k s
  | .trap c k => Sys2Proof.Machine.execTrap c k s
  | .cmode c k => Sys2Proof.Machine.execCmode c k s
  | .mstatClr c k => Sys2Proof.Machine.execMstatClr c k s
  | .iadd c k => Sys2Proof.Machine.execIadd c k s
  | .isub c k => Sys2Proof.Machine.execIsub c k s
  | .imul c k => Sys2Proof.Machine.execImul c k s
  | .imula c k => Sys2Proof.Machine.execImula c k s
  | .imin c k => Sys2Proof.Machine.execImin c k s
  | .imax c k => Sys2Proof.Machine.execImax c k s
  | .iabs c k => Sys2Proof.Machine.execIabs c k s
  | .shl c k => Sys2Proof.Machine.execShl c k s
  | .shr c k => Sys2Proof.Machine.execShr c k s
  | .sar c k => Sys2Proof.Machine.execSar c k s
  | .andI c k => Sys2Proof.Machine.execAndI c k s
  | .orI c k => Sys2Proof.Machine.execOrI c k s
  | .xorI c k => Sys2Proof.Machine.execXorI c k s
  | .notI c k => Sys2Proof.Machine.execNotI c k s
  | .bcnt c k => Sys2Proof.Machine.execBcnt c k s
  | .clz c k => Sys2Proof.Machine.execClz c k s
  | .brev c k => Sys2Proof.Machine.execBrev c k s
  | .bpick c k => Sys2Proof.Machine.execBpick c k s
  | .fadd c k => Sys2Proof.Machine.execFadd c k s
  | .fsub c k => Sys2Proof.Machine.execFsub c k s
  | .fmul c k => Sys2Proof.Machine.execFmul c k s
  | .fmac c k => Sys2Proof.Machine.execFmac c k s
  | .fmin c k => Sys2Proof.Machine.execFmin c k s
  | .fmax c k => Sys2Proof.Machine.execFmax c k s
  | .fabs c k => Sys2Proof.Machine.execFabs c k s
  | .fneg c k => Sys2Proof.Machine.execFneg c k s
  | .paddBf16 c k => Sys2Proof.Machine.execPaddBf16 c k s
  | .paddF16 c k => Sys2Proof.Machine.execPaddF16 c k s
  | .pmulBf16 c k => Sys2Proof.Machine.execPmulBf16 c k s
  | .pmulF16 c k => Sys2Proof.Machine.execPmulF16 c k s
  | .pfmaBf16 c k => Sys2Proof.Machine.execPfmaBf16 c k s
  | .pfmaF16 c k => Sys2Proof.Machine.execPfmaF16 c k s
  | .cvt c k => Sys2Proof.Machine.execCvt c k s
  | .amax c k => Sys2Proof.Machine.execAmax c k s
  | .rcp c k => Sys2Proof.Machine.execRcp c k s
  | .rsq c k => Sys2Proof.Machine.execRsq c k s
  | .ex2 c k => Sys2Proof.Machine.execEx2 c k s
  | .lg2 c k => Sys2Proof.Machine.execLg2 c k s
  | .sinI c k => Sys2Proof.Machine.execSinI c k s
  | .cosI c k => Sys2Proof.Machine.execCosI c k s
  | .icmp c k => Sys2Proof.Machine.execIcmp c k s
  | .fcmp c k => Sys2Proof.Machine.execFcmp c k s
  | .plog c k => Sys2Proof.Machine.execPlog c k s
  | .pick c k => Sys2Proof.Machine.execPick c k s
  | .movI c k => Sys2Proof.Machine.execMovI c k s
  | .xlaneIdx c k => Sys2Proof.Machine.execXlaneIdx c k s
  | .xlaneUp c k => Sys2Proof.Machine.execXlaneUp c k s
  | .xlaneDn c k => Sys2Proof.Machine.execXlaneDn c k s
  | .xlaneXor c k => Sys2Proof.Machine.execXlaneXor c k s
  | .lanesAll c k => Sys2Proof.Machine.execLanesAll c k s
  | .lanesAny c k => Sys2Proof.Machine.execLanesAny c k s
  | .lanesMask c k => Sys2Proof.Machine.execLanesMask c k s
  | .vread c k => Sys2Proof.Machine.execVread c k s
  | .sadd c k => Sys2Proof.Machine.execSadd c k s
  | .ssub c k => Sys2Proof.Machine.execSsub c k s
  | .smul c k => Sys2Proof.Machine.execSmul c k s
  | .sand c k => Sys2Proof.Machine.execSand c k s
  | .sor c k => Sys2Proof.Machine.execSor c k s
  | .sxor c k => Sys2Proof.Machine.execSxor c k s
  | .sshl c k => Sys2Proof.Machine.execSshl c k s
  | .sshr c k => Sys2Proof.Machine.execSshr c k s
  | .smov c k => Sys2Proof.Machine.execSmov c k s
  | .scmp c k => Sys2Proof.Machine.execScmp c k s
  | .ld c k errs => Sys2Proof.Machine.execLd c k errs s
  | .lds c k errs => Sys2Proof.Machine.execLds c k s errs
  | .st c k => Sys2Proof.Machine.execSt c k s
  | .waitI c k errs => Sys2Proof.Machine.execWaitI c k s errs
  | .waitPoll c k errs => Sys2Proof.Machine.execWaitPoll c k s errs
  | .atomAdd c k errs => Sys2Proof.Machine.execAtomAdd c k s errs
  | .atomMinS c k errs => Sys2Proof.Machine.execAtomMinS c k s errs
  | .atomMinU c k errs => Sys2Proof.Machine.execAtomMinU c k s errs
  | .atomMaxS c k errs => Sys2Proof.Machine.execAtomMaxS c k s errs
  | .atomMaxU c k errs => Sys2Proof.Machine.execAtomMaxU c k s errs
  | .atomAnd c k errs => Sys2Proof.Machine.execAtomAnd c k s errs
  | .atomOr c k errs => Sys2Proof.Machine.execAtomOr c k s errs
  | .atomXor c k errs => Sys2Proof.Machine.execAtomXor c k s errs
  | .atomFadd c k errs => Sys2Proof.Machine.execAtomFadd c k s errs
  | .atomSwap c k errs => Sys2Proof.Machine.execAtomSwap c k s errs
  | .atomCas c k errs => Sys2Proof.Machine.execAtomCas c k s errs
  | .fence c k => Sys2Proof.Machine.execFence c k s
  | .fenceAcq c k => Sys2Proof.Machine.execFenceAcq c k s
  | .fenceRel c k => Sys2Proof.Machine.execFenceRel c k s
  | .fenceAcqRange c k => Sys2Proof.Machine.execFenceAcqRange c k s
  | .tld c k => Sys2Proof.Machine.execTld c k s
  | .tldComplete c errs => Sys2Proof.Machine.execTldComplete c s errs
  | .dmaIssue c k => Sys2Proof.Machine.execDmaIssue c k s
  | .mload c k => Sys2Proof.Machine.execMload c k s
  | .mstream c k => Sys2Proof.Machine.execMstream c k s
  | .mstreamIx c k => Sys2Proof.Machine.execMstreamIx c k s
  | .mepi c k => Sys2Proof.Machine.execMepi c k s
  | .mzero c k => Sys2Proof.Machine.execMzero c k s
  | .mspill c k => Sys2Proof.Machine.execMspill c k s
  | .await c k => Sys2Proof.Machine.execAwait c k s
  | .bra c k => Sys2Proof.Machine.execBra c k s
  | .brx c k => Sys2Proof.Machine.execBrx c k s
  | .callI c k => Sys2Proof.Machine.execCallI c k s
  | .retI c k => Sys2Proof.Machine.execRetI c k s
  | .barSync c k => Sys2Proof.Machine.execBarSync c k s
  | .barArrive c k => Sys2Proof.Machine.execBarArrive c k s
  | .barTimeout c b now => Sys2Proof.Machine.execBarTimeout c b now s
  | .mloadComplete c e => Sys2Proof.Machine.execMloadComplete c e s
  | .streamStart c e => Sys2Proof.Machine.execStreamStart c e s
  | .rowEnter c e => Sys2Proof.Machine.execRowEnter c e s
  | .currentHoldOp c => Sys2Proof.Machine.execCurrentHoldOp c s
  | .holdWindowExpire c => Sys2Proof.Machine.execHoldWindowExpire c s
  | .outputRowWrite c e errs => Sys2Proof.Machine.execOutputRowWrite c e errs s
  | .mzeroClear c e => Sys2Proof.Machine.execMzeroClear c e s
  | .mepiRowRead c e errs => Sys2Proof.Machine.execMepiRowRead c e errs s
  | .mepiRowWrite c e => Sys2Proof.Machine.execMepiRowWrite c e s
  | .mepiComplete c e => Sys2Proof.Machine.execMepiComplete c e s
  | .mspillRow c e errs => Sys2Proof.Machine.execMspillRow c e errs s
  | .accwAck c e => Sys2Proof.Machine.execAccwAck c e s
  | .asyClear w c => Sys2Proof.Machine.execAsyClear w c s
  | .bucketArm b d => Sys2Proof.Machine.execBucketArm b d s
  | .bktReady t v => Sys2Proof.Machine.execBktReady t v s
  | .bucketShip b => Sys2Proof.Machine.execBucketShip b s
  | .bucketShipped b => Sys2Proof.Machine.execBucketShipped b s
  | .bucketContribution pt p => Sys2Proof.Machine.execBucketContribution pt p s
  | .bucketLand b => Sys2Proof.Machine.execBucketLand b s
  | .bucketSendFail b status => Sys2Proof.Machine.execBucketSendFail b status s
  | .bucketLandTimeout b now => Sys2Proof.Machine.execBucketLandTimeout b now s
  | .stvOpen w => Sys2Proof.Machine.execStvOpen w s
  | .stvRebase w => Sys2Proof.Machine.execStvRebase w s
  | .stvClose w now => Sys2Proof.Machine.execStvClose w now s
  | .stvForceFail w => Sys2Proof.Machine.execStvForceFail w s
  | .stvVote now => Sys2Proof.Machine.execStvVote now s
  | .stvResult n result => Sys2Proof.Machine.execStvResult n result s
  | .stvTimeout now => Sys2Proof.Machine.execStvTimeout now s
  | .stvAbandon w => Sys2Proof.Machine.execStvAbandon w s
  | .ueGradReady n v => Sys2Proof.Machine.execUeGradReady n v s
  | .uePass1 n g => Sys2Proof.Machine.execUePass1 n g s
  | .jobReductionResult r => Sys2Proof.Machine.execJobReductionResult r s
  | .ueFactoredUpdate n => Sys2Proof.Machine.execUeFactoredUpdate n s
  | .uePass2 n g => Sys2Proof.Machine.execUePass2 n g s
  | .ueStepComplete => Sys2Proof.Machine.execUeStepComplete s
  | .wlLossOfSignal p wl rx => Sys2Proof.Machine.execWlLossOfSignal p wl rx s
  | .laserFault t wl => Sys2Proof.Machine.execLaserFault t wl s
  | .wlUncorrLimitReached p wl count rx => Sys2Proof.Machine.execWlUncorrLimitReached p wl count s rx
  | .wlRetrainStart p wl now => Sys2Proof.Machine.execWlRetrainStart p wl now s
  | .wlRetrainDone p wl ok => Sys2Proof.Machine.execWlRetrainDone p wl ok s
  | .portAckTimeout p now => Sys2Proof.Machine.execPortAckTimeout p now s
  | .portEnable w => Sys2Proof.Machine.execPortEnable w s
  | .portRetrain w => Sys2Proof.Machine.execPortRetrain w s
  | .portBringupStart p now => Sys2Proof.Machine.execPortBringupStart p now s
  | .portTrainingDone p now peer => Sys2Proof.Machine.execPortTrainingDone p now peer s
  | .portKeyExchangeDone p now ok => Sys2Proof.Machine.execPortKeyExchangeDone p now ok s
  | .portBringupRetry p now => Sys2Proof.Machine.execPortBringupRetry p now s
  | .portLightDetect p wls now => Sys2Proof.Machine.execPortLightDetect p wls now s
  | .elsfpRemove k => Sys2Proof.Machine.execElsfpRemove k s
  | .elsfpInsert k normal => Sys2Proof.Machine.execElsfpInsert k normal s
  | .linkFrame p seq now f fecOk ask fixed => Sys2Proof.Machine.execLinkFrame p seq now f fecOk ask fixed s
  | .packetForward p now pkt => Sys2Proof.Machine.execPacketForward p now pkt s
  | .dnyLd p now pkt => Sys2Proof.Machine.execDnyLd p now pkt s
  | .dnyLdRsp p now pkt => Sys2Proof.Machine.execDnyLdRsp p now pkt s
  | .dnySt p now pkt => Sys2Proof.Machine.execDnySt p now pkt s
  | .dnyStAck p now pkt => Sys2Proof.Machine.execDnyStAck p now pkt s
  | .dnyAtom p now pkt => Sys2Proof.Machine.execDnyAtom p now pkt s
  | .dnyAtomRsp p now pkt => Sys2Proof.Machine.execDnyAtomRsp p now pkt s
  | .dnyBwr p now pkt => Sys2Proof.Machine.execDnyBwr p now pkt s
  | .dnyBacc p now pkt => Sys2Proof.Machine.execDnyBacc p now pkt s
  | .dnyBrd p now pkt => Sys2Proof.Machine.execDnyBrd p now pkt s
  | .dnyBrdRsp p now pkt => Sys2Proof.Machine.execDnyBrdRsp p now pkt s
  | .dnyBack p now pkt => Sys2Proof.Machine.execDnyBack p now pkt s
  | .dnyMsg p now pkt total => Sys2Proof.Machine.execDnyMsg p now pkt total s
  | .dnyMsgAck p now pkt => Sys2Proof.Machine.execDnyMsgAck p now pkt s
  | .dnyMsgNak p now pkt => Sys2Proof.Machine.execDnyMsgNak p now pkt s
  | .dnyLink p now pkt => Sys2Proof.Machine.execDnyLink p now pkt s
  | .dnyPace p now pkt m => Sys2Proof.Machine.execDnyPace p now pkt m s
  | .dnyVote p now pkt up step vote => Sys2Proof.Machine.execDnyVote p now pkt up step vote s
  | .dnyRed p now pkt total => Sys2Proof.Machine.execDnyRed p now pkt total s
  | .dnyRedRes p now pkt total => Sys2Proof.Machine.execDnyRedRes p now pkt total s
  | .dnyKeyx p now pkt => Sys2Proof.Machine.execDnyKeyx p now pkt s
  | .ldTimeout n now => Sys2Proof.Machine.execLdTimeout n now s
  | .stAckTimeout n now => Sys2Proof.Machine.execStAckTimeout n now s
  | .atomRetryTimeout n now => Sys2Proof.Machine.execAtomRetryTimeout n now s
  | .bulkTimeout n now => Sys2Proof.Machine.execBulkTimeout n now s
  | .msgResend n now => Sys2Proof.Machine.execMsgResend n now s
  | .msgRetryExpire n now => Sys2Proof.Machine.execMsgRetryExpire n now s
  | .pathChangeRelease n now => Sys2Proof.Machine.execPathChangeRelease n now s
  | .creditEpoch now => Sys2Proof.Machine.execCreditEpoch now s
  | .atomSideQueueRelease p now => Sys2Proof.Machine.execAtomSideQueueRelease p now s
  | .hotLineApply t line now => Sys2Proof.Machine.execHotLineApply t line now s
  | .hfGatherTimeout t r now => Sys2Proof.Machine.execHfGatherTimeout t r now s
  | .linkRekey p now seq => Sys2Proof.Machine.execLinkRekey p now seq s
  | .pacePacketSend p now => Sys2Proof.Machine.execPacePacketSend p now s
  | .cqCtrl q v => Sys2Proof.Machine.execCqCtrl q v s
  | .cqDoorbell q v => Sys2Proof.Machine.execCqDoorbell q v s
  | .cmdNop q => Sys2Proof.Machine.execCmdNop q s
  | .cmdLaunch q => Sys2Proof.Machine.execCmdLaunch q s
  | .cmdCopy q => Sys2Proof.Machine.execCmdCopy q s
  | .cmdWait q => Sys2Proof.Machine.execCmdWait q s
  | .cmdWaitSatisfied q n => Sys2Proof.Machine.execCmdWaitSatisfied q n s
  | .cmdSignal q => Sys2Proof.Machine.execCmdSignal q s
  | .cmdTimestamp q now => Sys2Proof.Machine.execCmdTimestamp q now s
  | .kernelStart k now => Sys2Proof.Machine.execKernelStart k now s
  | .kernelEnd k now => Sys2Proof.Machine.execKernelEnd k now s
  | .kernelPreempt w => Sys2Proof.Machine.execKernelPreempt w s
  | .preemptionPointReached k c now => Sys2Proof.Machine.execPreemptionPointReached k c now s
  | .preemptSaveDone k c => Sys2Proof.Machine.execPreemptSaveDone k c s
  | .kernelRestore k => Sys2Proof.Machine.execKernelRestore k s
  | .hbBeat core now => Sys2Proof.Machine.execHbBeat core now s
  | .hbLapse now => Sys2Proof.Machine.execHbLapse now s
  | .hbGraceExpire now => Sys2Proof.Machine.execHbGraceExpire now s
  | .hbResume w => Sys2Proof.Machine.execHbResume w s
  | .hbDiscard w now => Sys2Proof.Machine.execHbDiscard w now s
  | .ptpMeasurement now off => Sys2Proof.Machine.execPtpMeasurement now off s
  | .ppsEdge now => Sys2Proof.Machine.execPpsEdge now s
  | .paceHoldoverTimeout now => Sys2Proof.Machine.execPaceHoldoverTimeout now s
  | .paceSetSeconds w => Sys2Proof.Machine.execPaceSetSeconds w s
  | .pcsCtrl e v now => Sys2Proof.Machine.execPcsCtrl e v now s
  | .stepBegin e now => Sys2Proof.Machine.execStepBegin e now s
  | .bucketWindow e now => Sys2Proof.Machine.execBucketWindow e now s
  | .powerRamp e now => Sys2Proof.Machine.execPowerRamp e now s
  | .checkpoint e now => Sys2Proof.Machine.execCheckpoint e now s
  | .checkpointSignal e => Sys2Proof.Machine.execCheckpointSignal e s
  | .fenceEpoch e now => Sys2Proof.Machine.execFenceEpoch e now s
  | .fenceEpochSignal e => Sys2Proof.Machine.execFenceEpochSignal e s
  | .pwrCeiling w now => Sys2Proof.Machine.execPwrCeiling w now s
  | .arithPoint w => Sys2Proof.Machine.execArithPoint w s
  | .dvfsChangeDone d => Sys2Proof.Machine.execDvfsChangeDone d s
  | .powerMeasure now m => Sys2Proof.Machine.execPowerMeasure now m s
  | .throttleDiePoint d now => Sys2Proof.Machine.execThrottleDiePoint d now s
  | .throttleRelease d now => Sys2Proof.Machine.execThrottleRelease d now s
  | .throttleHeld1s d now => Sys2Proof.Machine.execThrottleHeld1s d now s
  | .thermalSample now temps upper => Sys2Proof.Machine.execThermalSample now temps s upper
  | .sessionHandshake sid now chain v6 => Sys2Proof.Machine.execSessionHandshake sid now chain s v6
  | .mgmtLinkDown => Sys2Proof.Machine.execMgmtLinkDown s
  | .sessionIdleTimeout sid now => Sys2Proof.Machine.execSessionIdleTimeout sid now s
  | .getI sid now m => Sys2Proof.Machine.execGetI sid now m s
  | .setI sid now m => Sys2Proof.Machine.execSetI sid now m s
  | .expertOpen sid now m => Sys2Proof.Machine.execExpertOpen sid now m s
  | .expertClose sid now m => Sys2Proof.Machine.execExpertClose sid now m s
  | .quickset sid now m => Sys2Proof.Machine.execQuickset sid now m s
  | .quicksetCancel sid now m => Sys2Proof.Machine.execQuicksetCancel sid now m s
  | .shadowDiscard sid now m => Sys2Proof.Machine.execShadowDiscard sid now m s
  | .saveI sid now m => Sys2Proof.Machine.execSaveI sid now m s
  | .keepalive sid now m => Sys2Proof.Machine.execKeepalive sid now m s
  | .closeI sid now m => Sys2Proof.Machine.execCloseI sid now m s
  | .quicksetInstant now => Sys2Proof.Machine.execQuicksetInstant now s
  | .quicksetComplete now => Sys2Proof.Machine.execQuicksetComplete now s
  | .blobSnapshotExpire sid now => Sys2Proof.Machine.execBlobSnapshotExpire sid now s
  | .cmlLocalBase core v => Sys2Proof.Machine.execCmlLocalBase core v s
  | .cmlLocalDoorbell core v now => Sys2Proof.Machine.execCmlLocalDoorbell core v now s
  | .registerWrite iss addr size v => Sys2Proof.Machine.execRegisterWrite iss addr size v s
  | .diagData w => Sys2Proof.Machine.execDiagData w s
  | .partEnable p w => Sys2Proof.Machine.execPartEnable p w s
  | .getVersion sid body => Sys2Proof.Machine.execGetVersion sid body s
  | .getCapabilities sid body => Sys2Proof.Machine.execGetCapabilities sid body s
  | .negotiateAlgorithms sid body => Sys2Proof.Machine.execNegotiateAlgorithms sid body s
  | .getDigests sid body => Sys2Proof.Machine.execGetDigests sid body s
  | .getCertificate sid body => Sys2Proof.Machine.execGetCertificate sid body s
  | .challenge sid body => Sys2Proof.Machine.execChallenge sid body s
  | .getMeasurements sid body => Sys2Proof.Machine.execGetMeasurements sid body s
  | .spdmUnsupportedRequest sid code => Sys2Proof.Machine.execSpdmUnsupportedRequest sid code s
  | .mrExtend w => Sys2Proof.Machine.execMrExtend w s
  | .keyImport w => Sys2Proof.Machine.execKeyImport w s
  | .keyErase w => Sys2Proof.Machine.execKeyErase w s
  | .sealedRecord pt now p => Sys2Proof.Machine.execSealedRecord pt now p s
  | .sigChannelEnable ch v => Sys2Proof.Machine.execSigChannelEnable ch v s
  | .sealJobStart ch v => Sys2Proof.Machine.execSealJobStart ch v s
  | .sealJobComplete ch => Sys2Proof.Machine.execSealJobComplete ch s
  | .imageStage w b => Sys2Proof.Machine.execImageStage w b s
  | .activeSlot w => Sys2Proof.Machine.execActiveSlot w s
  | .goldenReplace w => Sys2Proof.Machine.execGoldenReplace w s
  | .rollbackCommit w => Sys2Proof.Machine.execRollbackCommit w s
  | .signkeyRevoke w => Sys2Proof.Machine.execSignkeyRevoke w s
  | .ccPayload w => Sys2Proof.Machine.execCcPayload w s
  | .retiredUnits w => Sys2Proof.Machine.execRetiredUnits w s
  | .partitionContain p now => Sys2Proof.Machine.execPartitionContain p now s
  | .fatalError cause now => Sys2Proof.Machine.execFatalError cause now s
  | .fatalRecordProgrammed => Sys2Proof.Machine.execFatalRecordProgrammed s
  | .errHourRoll secs => Sys2Proof.Machine.execErrHourRoll secs s
  | .pitRecordWrite now => Sys2Proof.Machine.execPitRecordWrite now s
  | .pitFlashClear w => Sys2Proof.Machine.execPitFlashClear w s
  | .opSecondsSave secs => Sys2Proof.Machine.execOpSecondsSave secs s
  | .illegalInstr c k => Sys2Proof.Machine.execIllegalInstr c k s
  | .cmdInvalidOpcode q => Sys2Proof.Machine.execCmdInvalidOpcode q s
  | .sendQueueDoorbell sq node rq now body => Sys2Proof.Machine.execSendQueueDoorbell sq node rq now body s
  | .mgmtLinkUp => Sys2Proof.Machine.execMgmtLinkUp s
  | .mgmtPortFrame f => Sys2Proof.Machine.execMgmtPortFrame f s
  | .bsbStatusRefresh inlet outlet inputW => Sys2Proof.Machine.execBsbStatusRefresh inlet outlet inputW s

end Sys2Proof.Machine
end

