-- ==== Sys2Proof/Machine/Held.lean ====
section
/-!
DEFINITION. Commands that waited for a firmware processor take effect (R15): each is served as the command it was.
-/
namespace Sys2Proof.Machine
open Sys2Proof

/-- A Camlis message by its type (Table 15.4); `now` is the Pace time of its service. -/
def heldMessage (type sid now : Nat) (m : CamMsg) (s : State) : Out :=
  match type with
  | 1 => execGetI sid now m s
  | 2 => execSetI sid now m s
  | 3 => execExpertOpen sid now m s
  | 4 => execExpertClose sid now m s
  | 5 => execQuickset sid now m s
  | 6 => execQuicksetCancel sid now m s
  | 7 => execShadowDiscard sid now m s
  | 8 => execSaveI sid now m s
  | 0x0A => execKeepalive sid now m s
  | 0x0B => execCloseI sid now m s
  | _ => .next s

/-- An SPDM request by its code (R495). -/
def heldSpdm (sid code : Nat) (body : List Byte) (s : State) : Out :=
  match code with
  | 0x84 => execGetVersion sid body s
  | 0xE1 => execGetCapabilities sid body s
  | 0xE3 => execNegotiateAlgorithms sid body s
  | 0x81 => execGetDigests sid body s
  | 0x82 => execGetCertificate sid body s
  | 0x83 => execChallenge sid body s
  | 0xE0 => execGetMeasurements sid body s
  | c => execSpdmUnsupportedRequest sid c s

/-- A write of an object that has a row of its own, by the object's key. -/
def heldWrite (key : Nat) (w : ObjWrite) (s : State) : Out :=
  let now := s.pace.now
  match key with
  | 0x200008 => execPaceSetSeconds w s
  | 0x220004 => execPwrCeiling w now s
  | 0x230001 => execArithPoint w s
  | 0x310004 => execNsFlush w s
  | 0x320004 => execStackRetrain w s
  | 0x340005 => execRecalNow w s
  | 0x340006 => execLevelRestore w s
  | 0x340007 => execLevelReset w s
  | 0x340008 => execTowerReset w s
  | 0x400003 => execPortEnable w s
  | 0x400007 => execPortRetrain w s
  | 0x500003 => execKernelPreempt w s
  | 0x501005 => if leNat w.val = 2 then execHbDiscard w now s else execHbResume w s
  | 0x505003 => execAsyClear w 0 s
  | 0x508005 => execStvOpen w s
  | 0x508006 => execStvClose w now s
  | 0x508007 => execStvForceFail w s
  | 0x508008 => execStvAbandon w s
  | 0x50800C => execStvRebase w s
  | 0x700004 => execMrExtend w s
  | 0x701003 => execActiveSlot w s
  | 0x701004 => execGoldenReplace w s
  | 0x701005 => execRollbackCommit w s
  | 0x701006 => execSignkeyRevoke w s
  | 0x701007 => execCcPayload w s
  | 0x701009 => execModuleReset w s
  | 0x710001 => execKeyImport w s
  | 0x710003 => execKeyErase w s
  | 0x80000A => execPitFlashClear w s
  | 0x830002 => execFwRestart w s
  | 0xA00004 => execRetiredUnits w s
  | 0xF00002 => execDiagData w s
  | k => if 0x9100 ≤ k / 256 ∧ k / 256 ≤ 0x910F then execPartEnable (k / 256 - 0x9100) w s else .next s

/-- A held command takes effect. -/
def heldRun (c : HeldCmd) (s : State) : Out :=
  match c with
  | .write key w => heldWrite key w s
  | .stage w b => execImageStage w b s
  | .message type sid m => heldMessage type sid s.pace.now m s
  | .spdm sid code body => heldSpdm sid code body s
  | .handshake sid v6 chain => execSessionHandshake sid s.pace.now chain s v6

/-- The first held command whose processor runs again is served; what is held behind it stays in order. None: the state
as it is. -/
def serveHeld (s : State) : Option Out :=
  match s.held.findIdx? fun h => fwRuns s h.1 && s.boot.phase != .fatal with
  | none => none
  | some i =>
    match s.held[i]? with
    | none => none
    | some (p, c) =>
      let rest := s.held.eraseIdx i
      some (match heldRun c { s with held := rest.filter fun h => h.1 != p } with
        | .next t => .next { t with held := if t.boot.phase = s.boot.phase then rest.filter (fun h => h.1 == p) ++ t.held else t.held }
        | o => o)

end Sys2Proof.Machine
end

