-- ==== Sys2Proof/Machine/Step.lean ====
section
/-!
DEFINITION. One step: the command at the front of the queue takes effect on the state that holds the
rest of the queue. On an empty queue a command held for a firmware processor that runs again is served (R15); else the
block's clocks run (`idle`; log 9).
-/
namespace Sys2Proof.Machine
open Sys2Proof

/-- Take the front command; with none waiting, one held command or one tick of the clocks. -/
def step (s : State) : Host.Outcome State Fault Refusal :=
  match s.pending with
  | [] => (serveHeld s).getD (.next (idle s))
  | c :: rest => exec c { s with pending := rest }

/-- The state with the command a word spells put at the front of the queue; unchanged where the word
spells none. -/
def State.withFetchWord (s : State) (nbits w : Nat) : State :=
  match decodeTableWord nbits w with
  | some c => { s with pending := c :: s.pending }
  | none => s

end Sys2Proof.Machine
end

