-- ==== Sys2Proof/Safety.lean ====
section
/-!
DEFINITION. The words the statements are written in: when a command is accepted, what a run may rely on, and what
one command leaves alone.
-/
namespace Sys2Proof.Safety
open Sys2Proof Sys2Proof.Machine

/-- A write of object `key` reaches its effect: it came by the register that acts as the object, or it is a new
request of a session that has room for it while `SEC0` takes requests, and it passes the checks common to every write
(R15, R460, R463, R466, R473, R475). -/
def accepted (s : State) (w : ObjWrite) (key : Nat) : Bool :=
  w.reg || match mfind s.sessions w.sid with
    | some x => serves s 0 && (x.kept.all fun r => r.reqId != w.reqId) && decide (x.outstanding.length < 8)
        && writeCheck s x key w.val == 0
    | none => false

/-- The answer to a write goes to no ring in memory: it came by a register, or by a session that is not a local one (R458). -/
def noRing (s : State) (w : ObjWrite) : Bool :=
  w.reg || match mfind s.sessions w.sid with
    | some x => x.localPair.isNone
    | none => true

/-- The recorder takes the event of a trigger (R542): it is enabled and the queue has room. -/
def records (s : State) (trig : Nat) : Bool := bit (trigByte s trig) 7 && decide (s.pit.queue.length < 256)

/-- The answer the session of a request was given last. -/
def lastStatus (s : State) (sid : Nat) : Option Nat :=
  (mfind s.sessions sid).bind fun x => x.kept.getLast?.map (·.status)

/-- The instruction with words `w` and `ext` at the running path of the crew in slot `k` of cluster `c`: its active lanes are
the path's, narrowed by its guard (R130). -/
def insAt (s : State) (c k w ext : Nat) : Ins :=
  let x := crw s c k
  let p := x.run.getD { mask := 0#32, pc := 0 }
  { c, slot := k, w, ext, pc := p.pc, len := insLen w, active := p.mask
    lanes := guardLanes w p.mask (mget x.p (fld w 47 45) 0#32) }

/-- The crew in slot `k` of cluster `c` performs the instruction whose word is `w` next: it may issue, the word (and its
extension, where it has one) is fetched, its bits and operands raise none of `codes`, its guard is not poisoned, and where it
reads `MSTAT` nothing of the crew's is outstanding. -/
def performs (s : State) (c k w ext : Nat) (codes : List Nat) : Bool :=
  let i := insAt s c k w ext
  mayIssue s c k && fetch s c k i.pc == (0, w) && !waits s i.pc && commonCodes w == [] && codes == []
    && (if insLen w = 2 then fetch s c k (i.pc + 8) == (0, ext) else ext == 0)
    && (fld w 49 48 == 0 || mget (crw s c k).pPoison (fld w 47 45) 0#32 &&& i.active == 0#32)
    && (!(opFields w).contains 0x14E || !outstanding s c k false)

/-- Nothing but the crew in slot `k` of cluster `c`, that cluster's `VEC_SAT` and assay sets, and the model's count of free
values differs between two states. -/
def onlyCrew (s t : State) (c k : Nat) : Prop :=
  t = { s with clusters := t.clusters, free := t.free } ∧ (∀ d, d ≠ c → clu t d = clu s d)
    ∧ clu t c = { clu s c with crews := (clu t c).crews, vecSat := (clu t c).vecSat, assay := (clu t c).assay }
    ∧ ∀ j, j ≠ k → mfind (clu t c).crews j = mfind (clu s c).crews j

/-- Every register of a crew but the vector registers `v` to `v + n − 1`, the scalar register `sc` and the predicate `pr` keeps
its value and its poison bits. -/
def keepsRegs (x y : Crew) (v n sc pr : Nat) : Prop :=
  (∀ r l, l < 32 → r < v ∨ v + n ≤ r → y.vLane r l = x.vLane r l ∧ mget y.vPoison (32 * r + l) false = mget x.vPoison (32 * r + l) false)
    ∧ (∀ r, r ≠ sc → mget y.s r 0#64 = mget x.s r 0#64 ∧ mget y.sPoison r false = mget x.sPoison r false)
    ∧ (∀ p, p ≠ pr → mget y.p p 0#32 = mget x.p p 0#32 ∧ mget y.pPoison p 0#32 = mget x.pPoison p 0#32)

/-- Only the register a destination operand names may change: `code` is a vector register (with its pair at 64 bits), a scalar
register or a predicate. -/
def keepsOthers (x y : Crew) (wd code : Nat) : Prop :=
  match opKind code with
  | .vec => keepsRegs x y code (max 1 (wd / 32)) 64 8
  | .sca => keepsRegs x y 256 0 (code - 0x100) 8
  | .pred => keepsRegs x y 256 0 64 (code - 0x140)
  | _ => keepsRegs x y 256 0 64 8

/-- Between two states an instruction wrote its destination, at width `wd`, in its lanes and nowhere else: the value `val` (a
predicate its bit 0; `none`: any value), with poison bit `pz`. -/
def lanesGive (s t : State) (i : Ins) (wd : Nat) (pz : Nat → Bool) (val : Nat → Option Nat) : Prop :=
  keepsOthers (crw s i.c i.slot) (crw t i.c i.slot) wd (i.o 0)
    ∧ (∀ l, l < 32 → i.on l = false → srcLane t i wd (i.o 0) l = srcLane s i wd (i.o 0) l)
    ∧ ∀ l, l < 32 → i.on l = true → (srcLane t i wd (i.o 0) l).2 = pz l
      ∧ ∀ v, val l = some v → (srcLane t i wd (i.o 0) l).1 = if opKind (i.o 0) = .pred then v % 2 else v

/-- The keys of a table rise strictly. -/
def rising {α : Type} (m : Map α) : Prop := m.Pairwise fun a b => a.1 < b.1

/-- Every byte reads alike in two states. -/
def sameBytes (s t : State) : Prop := ∀ a, readMem t a 1 = readMem s a 1

/-- Every byte outside `n` bytes from `a` reads alike in two states. -/
def sameBytesBut (s t : State) (a n : Nat) : Prop := ∀ b, b < a ∨ a + n ≤ b → readMem t b 1 = readMem s b 1

/-- No acknowledged accumulate-write waits to be applied, and the patrol has found no error under a line a near-store cache holds. -/
def settled (s : State) : Prop := ∀ t, (tow s t).adder = [] ∧ ∀ l ∈ (tow s t).lines, l.under = []

/-- No access waits or meets a failed stack or package: every stack and package is in service or absent, no near-store cache is
written back or held, no accumulate-write waits; and memory has its canonical form. -/
def calm (s : State) : Prop :=
  (∀ k, (stk s k).st ≠ .excluded ∧ (stk s k).st ≠ .failed) ∧ (∀ p, mget s.packages p .skipped ≠ .failed)
    ∧ (∀ t, (tow s t).cacheMode ≠ .writeback ∧ (tow s t).cacheMode ≠ .held) ∧ settled s ∧ Memory.wf s.mem = true

/-- A packet of a type reaches this module: an accepted frame has put it at the front of its channel of a port's input buffer, it
is for this node, and its code is right (R319, R334). -/
def reaches (s : State) (p : Nat) (pkt : Packet) (type : Nat) : Bool :=
  alive s && pkt.type == type && pkt.dst == nodeId s && atFront (prt s p) pkt && pktCode pkt == pkt.ecrc

/-- No trace point is enabled (R430). -/
def untraced (s : State) : Prop := ∀ p, bit (cfg s 0x820001) p = false

/-- Nothing that a release of the crew in slot `k` of cluster `c` waits for or reports is left, and no recorded fault holds
the release back. -/
def quiet (s : State) (c k : Nat) : Prop :=
  (hf s (cluTower c)).runs = [] ∧ (hf s (cluTower c)).stores = [] ∧ (hf s (cluTower c)).failures = [] ∧ s.requests = [] ∧ (∀ h ∈ s.headframes, h.2.waiting = [])
    ∧ ((crw s c k).mreport = true → (crw s c k).shown = none)

/-- A crew runs as one path, in no divergence, with no lane waiting anywhere. -/
def whole (x : Crew) (p : Path) : Prop :=
  x.run = some p ∧ p.divs = [] ∧ x.pending = [] ∧ x.atReconv = [] ∧ x.atBarrier = [] ∧ x.divs = []

/-- Of a crew's lanes, each that has not exited is on exactly one path, an exited one on none; paths are told apart by age. -/
def lanesPlaced (x : Crew) : Prop :=
  let ps := x.run.toList ++ x.pending ++ x.atReconv ++ x.atBarrier
  (∀ l, l < 32 → (ps.countP fun p => p.mask.getLsbD l) = if x.exited.getLsbD l then 0 else 1)
    ∧ (x.pending ++ x.atBarrier).Pairwise (fun p q => p.age ≠ q.age) ∧ ∀ p ∈ ps, p.age < x.nextAge

/-- Between two states the crew in slot `k` of cluster `c` raised an exception, and its kernel is stopped by it (R168, R169): it ends
as contained, the crew does nothing more, and the record of Table 5.8 joins those of the kernel, behind those of lower schedulers and
slots, or is counted where the exception area is full. In a calm module its bytes are in the area, where a command processor may
write there, and no byte outside the area changes. -/
def raised (s t : State) (c k pc : Nat) (instr : W64) (e : Exc) : Prop :=
  let n := (crw s c k).kernel
  let x := krn s n
  let y := krn t n
  let before := (x.excs.takeWhile fun f => decide (f.1 ≤ 128 * k + c)).length
  let cap := x.fld 4 15 0
  let area := x.fld 3 47 0 + 64 * before
  y.contained = true ∧ mfind (clu t c).crews k = none
    ∧ y.excCount = min cap (x.excs.length + 1) ∧ y.excDropped = min 0xFFFF (x.excs.length + 1 - cap)
    ∧ (calm s → sameBytesBut s t (x.fld 3 47 0) (64 * cap)
      ∧ (before < cap → (∀ p ∈ linePieces area 64, accessStatus s { kind := .cmdproc, unit := x.q / 16 } .store p.1 p.2 = 0) →
        readNat t area 8 = (e.code * 2 ^ 56 + pc % 2 ^ 48) % 2 ^ 64
        ∧ readNat t (area + 8) 8 = (c * 2 ^ 50 + k / 16 * 2 ^ 47 + k % 16 * 2 ^ 43 + e.lanes.toNat) % 2 ^ 64
        ∧ readNat t (area + 16) 8 = e.addr % 2 ^ 64 ∧ readNat t (area + 24) 8 = e.status * 2 ^ 48 % 2 ^ 64
        ∧ readNat t (area + 32) 8 = s.pace.now % 2 ^ 64 ∧ readNat t (area + 40) 8 = instr.toNat
        ∧ readNat t (area + 48) 8 = e.detail % 2 ^ 64 ∧ readNat t (area + 56) 8 = 0))

/-- Between two states a packet was answered (R334, R337): the response of a type, with a status and a payload, joins the output queue
of a port of a route to the packet's source. -/
def answers (s t : State) (q : Packet) (type st : Nat) (payload : List Byte) : Prop :=
  ∃ port ∈ routes s q.src, ∃ e : Queued, (prt t port).outQ = (prt s port).outQ ++ [e] ∧ e.pkt.rsp = true ∧ e.pkt.type = type
    ∧ e.pkt.cls = q.cls ∧ e.pkt.dst = q.src ∧ e.pkt.src = nodeId s ∧ e.pkt.engine = q.engine ∧ e.pkt.seq = q.seq ∧ e.pkt.status = st
    ∧ e.pkt.payload = payload ∧ pktCode e.pkt = e.pkt.ecrc

end Sys2Proof.Safety
end

