-- ==== Sys2Proof/Certificates/Slice0/Obligations.lean ====
section
/-!
DEFINITION. The statements for the provers, from the numbered rules of spec/. Log numbers are rows of notes/assumptions/.
-/
open Sys2Proof Sys2Proof.Machine

/-- Power-up and the module's reset pins (R509, R510, R552, R553, R558, R563, R564). The input within 42 to 54 V with
`MATE_SENSE` mated starts the rails in a cold reset; with the rails good Pace time is 0 and the boot ROM runs, unless `REF_CLK`
is missing (`FAULT_N` is low), `QSPI_CS_N` is low, or `RESET_N` is low; each of those waits ends by its own event; a lost input
takes everything volatile away; `RESET_N` low for 10 µs holds the module in reset, and its release goes on as the rails did, but
after a thermal trip raises them in a cold reset; a `MODULE_RESET` write of 1 is a warm reset. -/
def Obligations.PowerUpAndResetPins : Prop :=
  (∀ (s : State) (mv : Nat), s.boot.phase = .unpowered → 42000 ≤ mv → mv ≤ 54000 →
    ∃ t, Machine.exec (.inputInRange true mv) s = .next t ∧ t.boot.phase = .rising
      ∧ t.boot.sequence = s.boot.sequence + 1 ∧ t.boot.boot = 1 ∧ t.kept.powerCycles = s.kept.powerCycles + 1
      ∧ t.opSeconds = s.kept.opStored ∧ t.mem = [] ∧ t.pending = s.pending)
  ∧ (∀ (s : State) (clk cs : Bool), s.boot.phase = .rising → s.pins.resetN = true →
    ∃ t, Machine.exec (.railsGood clk cs) s = .next t ∧ t.pins.railsUp = true
      ∧ t.boot.phase = (if clk then if cs then .waitFlash else .booting else .waitClock)
      ∧ t.pins.faultN = (if clk then s.pins.faultN else false)
      ∧ (clk = true → t.pace.on = true ∧ t.pace.now = 0 ∧ t.pace.mode = .freerun ∧ t.pins.presentN = false))
  ∧ (∀ (s : State) (clk cs : Bool), s.boot.phase = .rising → s.pins.resetN = false →
    ∃ t, Machine.exec (.railsGood clk cs) s = .next t ∧ t.pins.railsUp = true ∧ t.boot.phase = .waitReset)
  ∧ (∀ (s : State) (cs : Bool), s.boot.phase = .waitClock →
    ∃ t, Machine.exec (.refClkPresent cs) s = .next t ∧ t.pins.faultN = true ∧ t.pins.refClk = true ∧ t.pace.on = true
      ∧ t.boot.phase = (if cs then .waitFlash else .booting))
  ∧ (∀ (s : State) (us : Nat), s.boot.phase = .waitFlash → 10 ≤ us →
    ∃ t, Machine.exec (.flashCsRelease us) s = .next t ∧ t.boot.phase = .booting ∧ t.pins.qspiDriven = true
      ∧ t.kept.bootCount = s.kept.bootCount + 1)
  ∧ (∀ (s : State) (mv ns : Nat), s.boot.phase ≠ .unpowered →
      ((40000 ≤ mv ∧ mv < 42000 ∧ 1000000 < ns) ∨ (mv < 40000 ∧ 20000 < ns) ∨ (56000 < mv ∧ 10000 < ns)) →
    ∃ t, Machine.exec (.inputLoss mv ns) s = .next t ∧ t.boot.phase = .unpowered ∧ t.kept = s.kept ∧ t.mem = []
      ∧ t.sessions = [] ∧ t.clusters = [] ∧ t.trust = {} ∧ t.pins.railsUp = false)
  ∧ (∀ (s : State) (ns : Nat), 10000 ≤ ns → railsUpPhase s = true → s.boot.phase ≠ .waitReset → s.boot.phase ≠ .inReset →
    ∃ t, Machine.exec (.resetNAssert ns) s = .next t ∧ t.boot.phase = .inReset ∧ t.pins.resetN = false ∧ t.mem = []
      ∧ t.trust = {} ∧ t.pins.qspiDriven = false ∧ t.pit.records = s.pit.records
      ∧ t.boot.sequence = s.boot.sequence + 1)
  ∧ (∀ (s : State) (clk cs : Bool), s.boot.phase = .inReset ∨ s.boot.phase = .waitReset →
    ∃ t, Machine.exec (.resetNRelease clk cs) s = .next t ∧ t.pins.resetN = true
      ∧ t.boot.phase = (if clk then if cs then .waitFlash else .booting else .waitClock)
      ∧ (clk = true → t.pace.on = true ∧ t.pace.now = 0) ∧ (clk = false → t.pins.faultN = false))
  ∧ (∀ (s : State) (clk cs : Bool), s.boot.phase = .tripped →
    ∃ t, Machine.exec (.resetNRelease clk cs) s = .next t ∧ t.boot.phase = .rising ∧ t.boot.lastReset = 5
      ∧ t.kept.powerCycles = s.kept.powerCycles + 1)
  ∧ (∀ (s : State) (w : ObjWrite), Safety.accepted s w 0x701009 = true → leNat w.val = 1 → s.boot.phase ≠ .inReset →
    ∃ t, Machine.exec (.moduleReset w) s = .next t ∧ t.boot.lastReset = 2 ∧ t.mem = [] ∧ t.trust = {}
      ∧ t.pit.records = s.pit.records ∧ t.boot.sequence = s.boot.sequence + 1)

/-- The whole steps of the boot (R511, R513, R517, Table 16.8). An attempt that ends well, once the steps it needs have
ended, ends its step with a `PASSED` record in the ledger: firmware runs (0x01, 0x02), the fast tier is the stacks not
skipped and reads zero (0x07), the deep tier reads zero (0x09), the KRK exists (0x0D), the module has booted (0x0E). Whether
an image, or a payload under an owner's key, is accepted is left to the uninterpreted signature check: where it is not, the step
fails like any other. -/
def Obligations.BootWholeSteps : Prop :=
  let passed := fun (s t : State) (step : Nat) =>
    t.boot.done = s.boot.done ++ [step] ∧
      ∃ r, t.kept.ledger.getLast? = some r ∧ r.step = step ∧ r.unit = 0xFFFF ∧ r.attempt = 1 ∧ r.outcome = 0 ∧ r.boot = s.boot.boot
  (∀ (s : State) (us code : Nat), stepOpen16 s 0x01 0xFFFF [] = true →
    ∃ t, Machine.exec (.bootSec0Verify us true code) s = .next t ∧
      if procImageOk s 0 = true then passed s t 0x01 ∧ fwRuns t 0 = true ∧ t.trust.ak = some s.trust.nextKey
        ∧ t.boot.version = (bootSlot s).bundle.version
      else t = stepFails (bootClock s us) 0x01 0xFFFF us code)
  ∧ (∀ (s : State) (us code : Nat), stepOpen16 s 0x02 0xFFFF [0x01] = true →
    ∃ t, Machine.exec (.bootFwImages us true code) s = .next t ∧
      if badProc s = 0xFFFF then passed s t 0x02 ∧ t.boot.step2Ok = true ∧ ∀ p, 1 ≤ p → p ≤ 12 → fwRuns t p = true
      else t = stepFails (bootClock s us) 0x02 (badProc s) us code)
  ∧ (∀ (s : State) (us code : Nat), stepOpen16 s 0x04 0xFFFF [0x02] = true →
    ∃ t, Machine.exec (.bootBridgeTrain us true code) s = .next t ∧ passed s t 0x04 ∧ t.mem = s.mem)
  ∧ (∀ (s : State) (us code : Nat), stepOpen16 s 0x07 0xFFFF [0x06] = true →
    ∃ t, Machine.exec (.bootFastTierBuild us true code) s = .next t ∧ passed s t 0x07
      ∧ t.stackMap = (List.range 32).filter (fun k => (stk s k).st != .skipped)
      ∧ (∀ a, a < fastEnd t → readMem t a 1 = [0#8]) ∧ (∀ a, fastEnd t ≤ a → readMem t a 1 = readMem s a 1))
  ∧ (∀ (s : State) (us code : Nat), stepOpen16 s 0x09 0xFFFF [0x08] = true →
    ∃ t, Machine.exec (.bootDeepTierZero us true code) s = .next t ∧ passed s t 0x09
      ∧ ∀ a, readMem t a 1 = if 0x040000000000 ≤ a ∧ a < 0x058000000000 then [0#8] else readMem s a 1)
  ∧ (∀ (s : State) (us code : Nat), stepOpen16 s 0x0D 0xFFFF ((List.range 12).map (· + 1)) = true →
    ∃ t, Machine.exec (.bootMeasurementsClose us true code) s = .next t ∧ passed s t 0x0D
      ∧ t.trust.krk = some s.trust.nextKey)
  ∧ (∀ (s : State) (us code : Nat), stepOpen16 s 0x0E 0xFFFF [0x0D] = true →
    ∃ t, Machine.exec (.bootPayloadStart us true code) s = .next t ∧
      if cfgB s 0x701008 = [] ∨ Config.payloadOk (cfgB s 0x701008) s.kept.payload = true then passed s t 0x0E ∧ t.boot.phase = .booted
      else t = stepFails (bootClock s us) 0x0E 0xFFFF us code)

/-- The steps of one unit of a skippable kind (R511, R512, Table 16.8). An attempt that ends well ends the step for the unit with a
`PASSED` record and puts the unit into service; a first failure leaves the step open for a second attempt; a second failure
skips the unit, with a record, and the boot goes on; a retired unit is skipped without an attempt. A second update engine of
one tower that would be skipped fails the boot (R74). -/
def Obligations.BootUnitSteps : Prop :=
  let open' := fun (s : State) (step u before : Nat) => s.boot.phase = .booting ∧ stepEnded s before = true ∧ stepKey16 step u ∉ s.boot.done
  let tries := fun (s : State) (step u : Nat) => mget s.boot.attempts (step * 65536 + u) 0
  let last := fun (t : State) => t.kept.ledger.getLast?.map fun r => (r.step, r.unit, r.outcome)
  let passed := fun (s t : State) (step u : Nat) => t.boot.done = s.boot.done ++ [stepKey16 step u] ∧ last t = some (step, u, 0)
  let again := fun (s t : State) (step u : Nat) =>
    t.boot.phase = .booting ∧ t.boot.done = s.boot.done ∧ t.boot.skipped = s.boot.skipped ∧ tries t step u = 1 ∧ last t = some (step, u, 1)
  let gone := fun (s t : State) (step u out : Nat) => t.boot.phase = .booting ∧ t.boot.done = s.boot.done ++ [stepKey16 step u]
    ∧ t.boot.skipped = s.boot.skipped ++ [stepKey16 step u] ∧ last t = some (step, u, out)
  (∀ (s : State) (us code st : Nat), open' s 0x06 st 0x04 →
    (∃ t, Machine.exec (.bootStackTrain st us true code) s = .next t ∧ passed s t 0x06 st
      ∧ (stk t st).st = .inService ∧ (stk t st).lastTrained = t.pace.now)
    ∧ ∃ t, Machine.exec (.bootStackTrain st us false code) s = .next t ∧
      if tries s 0x06 st = 0 then again s t 0x06 st else gone s t 0x06 st 2 ∧ (stk t st).st = .skipped)
  ∧ (∀ (s : State) (us code tw : Nat) (lanes : List LaneRef), tw < 4 → open' s 0x05 tw 0x04 →
    (∃ t, Machine.exec (.bootShaftTrain tw us true code lanes) s = .next t ∧ passed s t 0x05 tw
      ∧ (lanes = [] → ∀ a, 0x080000000000 + tw * 0x60000000 ≤ a → a < 0x080000000000 + (tw + 1) * 0x60000000 → readMem t a 1 = [0#8]))
    ∧ ∃ t, Machine.exec (.bootShaftTrain tw us false code lanes) s = .next t ∧
      if tries s 0x05 tw = 0 then again s t 0x05 tw
      else gone s t 0x05 tw 2 ∧ (tow t tw).untrained = true ∧ ∀ l, 1 ≤ l → l ≤ 3 → l ∈ (tow t tw).levelsOut)
  ∧ (∀ (s : State) (us code c : Nat), open' s 0x0A c 0x05 →
    (retiresCluster s c = false →
      (∃ t, Machine.exec (.bootClusterTest c us true code) s = .next t ∧ passed s t 0x0A c ∧ t.clusters = s.clusters)
      ∧ ∃ t, Machine.exec (.bootClusterTest c us false code) s = .next t ∧
        if tries s 0x0A c = 0 then again s t 0x0A c else gone s t 0x0A c 2 ∧ (clu t c).mode = .retired)
    ∧ (retiresCluster s c = true → ∀ ok, ∃ t, Machine.exec (.bootClusterTest c us ok code) s = .next t ∧ gone s t 0x0A c 3
        ∧ (clu t c).mode = .retired))
  ∧ (∀ (s : State) (us code : Nat), open' s 0x0C 0xFFFF 0x03 →
    (∃ t, Machine.exec (.bootMgmtPort us true code) s = .next t ∧ passed s t 0x0C 0xFFFF ∧ t.mgmtUp = true)
    ∧ ∃ t, Machine.exec (.bootMgmtPort us false code) s = .next t ∧
      if tries s 0x0C 0xFFFF = 0 then again s t 0x0C 0xFFFF else gone s t 0x0C 0xFFFF 2 ∧ t.mgmtUp = s.mgmtUp)
  ∧ (∀ (s : State) (us code n : Nat) (ok : Bool), n < 8 → open' s 0x08 n 0x04 → s.kept.retired.contains (0x200 + n) = false →
    ∃ t, Machine.exec (.bootUeStart n us ok code) s = .next t ∧
      if ok = true ∧ procImageOk s (13 + n) = true then passed s t 0x08 n ∧ (ue t n).inService = true
          ∧ (∀ i, i < 4 → mget t.packages (4 * n + i) .skipped = .inService) ∧ fwRuns t (13 + n) = true
      else if tries s 0x08 n = 0 then again s t 0x08 n
      else if partnerSkipped s n = true then s.boot.boot < 8 → t.boot.boot = s.boot.boot + 1 ∧ t.boot.done = []
      else gone s t 0x08 n 2 ∧ ∀ i, i < 4 → mget t.packages (4 * n + i) .skipped = .skipped)
  ∧ (∀ (s : State) (us code n : Nat) (ok : Bool), n < 8 → open' s 0x08 n 0x04 → s.kept.retired.contains (0x200 + n) = true →
      partnerSkipped s n = false →
    ∃ t, Machine.exec (.bootUeStart n us ok code) s = .next t ∧ gone s t 0x08 n 3
      ∧ ∀ i, i < 4 → mget t.packages (4 * n + i) .skipped = .skipped)
  ∧ (∀ (s : State) (us code p : Nat) (peer : PeerInfo), open' s 0x0B p 0x02 → portEnabled s p = true →
    (peerFits s p peer = true → portUp s p = false →
      ∃ t, Machine.exec (.bootPortBringup p us true code (some peer)) s = .next t ∧ passed s t 0x0B p
        ∧ portUp t p = true ∧ t.pins.lasersOn = true)
    ∧ ∃ t, Machine.exec (.bootPortBringup p us false code (some peer)) s = .next t ∧ (prt t p).mode = .training ∧
      if tries s 0x0B p = 0 then again s t 0x0B p else gone s t 0x0B p 2)

/-- The configuration record at boot (R472, Table 16.8 step 0x03) and a failed non-skippable step (R513, R517). A good record
becomes the active set, with the default of every object it lacks; a record that fails a check leaves every object at its
default and is recorded; the rounding seed a set lacks is drawn, and the step ends all the same. (The quotas, from which retired
clusters leave, apart.) A failed step appends a `FAILED` record and begins the next boot of the sequence, whose image is the
active slot for boots 1 and 2, the other slot for 3 and 4, the golden image for 5 to 8, with reduced clocks for 7 and 8; after
the eighth the module is `HALTED` with `FAULT_N` low. -/
def Obligations.ConfigLoadAndBootFailure : Prop :=
  (∀ (s : State) (us : Nat), stepOpen16 s 0x03 0xFFFF [0x01] = true →
    let set := s.kept.config.getD []
    let good := !s.kept.configBad && recordOk (ledger (bootClock s us) 0x03 0xFFFF 1 0 us 0) set
    ∃ t, Machine.exec (.bootConfigLoad us) s = .next t ∧ t.boot.done = s.boot.done ++ [0x03] ∧ t.boot.phase = .booting
      ∧ t.kept.config = s.kept.config ∧ (t.kept.ledger.getLast?.map fun r => (r.step, r.unit, r.outcome)) = some (0x03, 0xFFFF, 0)
      ∧ (good = true → ∀ key v, key % 256 ≠ 3 ∨ key / 256 < 0x9100 ∨ 0x910F < key / 256 → mfind set key = some v → cfgB t key = v)
      ∧ (∀ key, key % 256 ≠ 3 ∨ key / 256 < 0x9100 ∨ 0x910F < key / 256 → key ≠ 0x610406 → good = false ∨ mfind set key = none →
          cfgB t key = objDefault s key)
      ∧ (good = false → t.pit = (pitEvent (bootClock s us) 0x0702 0xFFFF).pit)
      ∧ (good = false ∨ mfind set 0x610406 = none → (cfgB t 0x610406).length = 8))
  ∧ (∀ (s : State) (us code : Nat) (c : Instr) (step unit : Nat) (needs : List Nat),
      (c, step, unit, needs) ∈ [(Instr.bootSec0Verify us false code, 0x01, 0xFFFF, []), (.bootFwImages us false code, 0x02, badProc s, [0x01]),
        (.bootBridgeTrain us false code, 0x04, 0xFFFF, [0x02]), (.bootFastTierBuild us false code, 0x07, 0xFFFF, [0x06]),
        (.bootDeepTierZero us false code, 0x09, 0xFFFF, [0x08]), (.bootMeasurementsClose us false code, 0x0D, 0xFFFF, (List.range 12).map (· + 1)),
        (.bootPayloadStart us false code, 0x0E, 0xFFFF, [0x0D])] → stepOpen16 s step 0xFFFF needs = true →
    (s.boot.boot < 8 → s.pins.resetN = true → s.pins.refClk = true →
      ∃ t, Machine.exec c s = .next t ∧ t.boot.phase = .booting
        ∧ t.boot.boot = s.boot.boot + 1 ∧ t.boot.sequence = s.boot.sequence ∧ t.boot.done = []
        ∧ t.boot.image = (if s.boot.boot + 1 ≤ 2 then s.kept.activeSlot else if s.boot.boot + 1 ≤ 4 then 1 - s.kept.activeSlot else 2)
        ∧ t.boot.reduced = decide (7 ≤ s.boot.boot + 1) ∧ t.mem = [] ∧ t.pit.records = s.pit.records
        ∧ (t.kept.ledger.getLast?.map fun r => (r.step, r.unit, r.outcome, r.code)) = some (step, unit, 1, code))
    ∧ (8 ≤ s.boot.boot →
      ∃ t, Machine.exec c s = .next t ∧ t.boot.phase = .halted ∧ t.pins.faultN = false
        ∧ t.mgmtUp = s.boot.step2Ok
        ∧ (t.kept.ledger.getLast?.map fun r => (r.step, r.unit, r.outcome)) = some (step, unit, 4)))

/-- Restarts of the firmware processors (R424 to R429), where none runs and none waits. A request for a running or failed
processor begins its restart, or waits for its processor's action; an expired watchdog, a fault, and a request that has waited
10 ms for that action each begin the restart of a running processor; a restart that
completes leaves it running with one more restart counted, interrupt 0x119 raised and the restart recorded; the second
image that fails, and a second watchdog expiry within 1 s of running, leave it `FAILED`. What a processor writes to its
tower's log is counted and last in its ring, and raises 0x118 at or above the threshold. -/
def Obligations.FirmwareRestarts : Prop :=
  let quiet := fun (s : State) => s.fwQueue = [] ∧ s.fw.any (fun x => x.2.mode == .restarting) = false
  (∀ (s : State) (w : ObjWrite) (p : Nat), Safety.accepted s w 0x830002 = true → leNat w.val = p → p ≤ 20 → quiet s →
      fwRuns s p = true ∨ (fwp s p).mode = .failed → (fwp s p).forced = false →
    ∃ t, Machine.exec (.fwRestart w) s = .next t ∧
      if hasAction s p = true then (fwp t p).mode = (fwp s p).mode ∧ t.fwQueue = [p]
      else (fwp t p).mode = .restarting ∧ t.fwQueue = [])
  ∧ (∀ (s : State) (p now : Nat), quiet s → fwRuns s p = true →
    ∃ t, Machine.exec (.fwWatchdogExpiry p now) s = .next t ∧
      if (clock s now).pace.now < (fwp s p).runSince + 1000000000 ∧ 1 ≤ (fwp s p).tries then
        (fwp t p).mode = .failed ∧ t.irqs = s.irqs ++ [0x119]
      else (fwp t p).mode = .restarting ∧ (hasAction s p = false → t.irqs = s.irqs))
  ∧ (∀ (s : State) (p now : Nat), quiet s → fwRuns s p = true →
    ∃ t, Machine.exec (.fwProcessorFault p now) s = .next t ∧ (fwp t p).mode = .restarting ∧ (hasAction s p = false → t.irqs = s.irqs))
  ∧ (∀ (s : State) (p now u : Nat), s.fw.any (fun x => x.2.mode == .restarting) = false → s.fwQueue.head? = some p →
      fwRuns s p = true → (fwp s p).asked = some u → u + 10000000 ≤ (clock s now).pace.now →
    ∃ t, Machine.exec (.fwRestartActionTimeout p now) s = .next t ∧ (fwp t p).mode = .restarting ∧ t.fwQueue = s.fwQueue.filter (· != p))
  ∧ (∀ (s : State) (p now : Nat) (notes : List FwNote), (fwp s p).mode = .restarting → s.fwQueue = [] →
    ∃ t, Machine.exec (.fwRestartComplete p now true notes) s = .next t ∧ (fwp t p).mode = .running
      ∧ (fwp t p).restarts = (fwp s p).restarts + 1 ∧ (fwp t p).runSince = (clock s now).pace.now ∧ 0x119 ∈ t.irqs
      ∧ (bit (trigByte s 0x0801) 7 = true → s.pit.queue.length < 256 → ∃ e ∈ t.pit.queue, e.trig = 0x0801 ∧ e.unit = p)
      ∧ mget t.fwLogSeq (fwTower p) 0 = mget s.fwLogSeq (fwTower p) 0 + notes.length
      ∧ (∀ n ∈ notes, cfg s 0x810001 ≤ n.sev → 0x118 ∈ t.irqs)
      ∧ ∀ n, notes.getLast? = some n → (mget t.fwLog (fwTower p) []).getLast? =
          some ⟨mget s.fwLogSeq (fwTower p) 0 + notes.length - 1, p, n.sev, n.code, (clock s now).pace.now, n.args⟩)
  ∧ (∀ (s : State) (p now : Nat) (notes : List FwNote), (fwp s p).mode = .restarting → s.fwQueue = [] →
    ∃ t, Machine.exec (.fwRestartComplete p now false notes) s = .next t ∧
      if 1 ≤ (fwp s p).tries then (fwp t p).mode = .failed ∧ 0x119 ∈ t.irqs
      else (fwp t p).mode = .restarting ∧ (fwp t p).tries = 1)

/-- Shafts and Pace time of the towers (R22, R29, R31, R34 to R37, R41, R50, R83). A new frame of a line goes over the line's
shaft; arriving as it was sent, with nothing outstanding, it is delivered once and leaves the replay buffer. Of any frame: one
whose CRC and parity hold is delivered in its place only; one that fails asks for a replay and is not delivered, and where no
replay can mend it the units of its line are poisoned. A lane that fails joins the shaft's failed lanes, and the shaft takes the
step of Table 2.3 that they leave it; one that fails early in a tower reset waits for the training. Recalibration takes one
shaft at a time out of the hash: a round begins with the first (under a tower reset it waits), each shaft that ends hands over
to the next, a healed lane works again. A tower's Pace time that differs by more than 4 ns is read with its difference. -/
def Obligations.ShaftFramesLanesAndRecalibration : Prop :=
  (∀ (s : State) (tw j sh line : Nat) (data : List Byte), takesLine s tw j sh line = true → (shaft s tw j sh).buf = [] →
      (shaft s tw j sh).seq = (shaft s tw j sh).tx → (shaft s tw j sh).tx < 256 →
    ∃ t, Machine.exec (.shaftFrame tw j sh (some (line, data)) [] true) s = .next t
      ∧ shaft t tw j sh = { shaft s tw j sh with
          seq := ((shaft s tw j sh).tx + 1) % 256, tx := ((shaft s tw j sh).tx + 1) % 256, replay := false
          got := (shaft s tw j sh).got ++ [(padTo (frameBytes (shaft s tw j sh).mode) data, false)] }
      ∧ t = { s with towers := t.towers })
  ∧ (∀ (s : State) (tw j sh : Nat) (new : Option (Nat × List Byte)) (flips : List Nat) (mended : Bool),
    ∃ t, Machine.exec (.shaftFrame tw j sh new flips mended) s = .next t ∧ t = { s with towers := t.towers, poison := t.poison } ∧
      match frameSent s tw j sh new with
      | none => t = s
      | some (f, x) =>
        let d := flipBits f.data flips
        let w := flipFraming (8 * f.data.length) (framing f.seq f.data) flips
        if w = framing (w / 2 ^ 24) d then t.poison = s.poison ∧
          (shaft t tw j sh).got = (if w / 2 ^ 24 = x.seq then x.got ++ [(d, false)] else x.got)
        else if mended = true ∨ f.seq ≠ x.seq then t.poison = s.poison ∧ shaft t tw j sh = { x with replay := true }
        else (∀ u ∈ unitsOf (f.line * 128) f.data.length, u ∈ t.poison) ∧ (shaft t tw j sh).seq = (x.seq + 1) % 256)
  ∧ (∀ (s : State) (tw j sh lane n : Nat), tw < 4 → j < 6 → sh < shaftCountOf j → lane < 71 →
    (∃ t, Machine.exec (.laneLossOfSignal tw j sh lane) s = .next t ∧
      if (tow s tw).reset ≠ .none ∧ (tow s tw).reset ≠ .zeroing then
        (tow t tw).late = (tow s tw).late ++ [(shaftKey j sh, lane)] ∧ (tow t tw).shafts = (tow s tw).shafts
      else if lane ∈ (shaft s tw j sh).failed then t = s
      else (shaft t tw j sh).failed = (shaft s tw j sh).failed ++ [lane]
        ∧ (shaft t tw j sh).mode = (if (shaft s tw j sh).mode = .recal then .recal else (shaftFit sh ((shaft s tw j sh).failed ++ [lane])).1))
    ∧ (cfg s 0x340003 ≤ n → ∃ t, Machine.exec (.laneErrorThreshold tw j sh lane n) s = .next t ∧ Machine.exec (.laneLossOfSignal tw j sh lane) s = .next t)
    ∧ (n < cfg s 0x340003 → Machine.exec (.laneErrorThreshold tw j sh lane n) s = .next s))
  ∧ (∀ (s : State) (tw now : Nat), fwRuns s (1 + tw) = true → cfg s 0x340004 ≠ 0 → (tow s tw).recal = none → (tow s tw).recalNext = none →
      (tow s tw).recalEnd + cfg s 0x340004 * 10 ^ 9 ≤ (clock s now).pace.now →
    ∃ t, Machine.exec (.recalRoundStart tw now) s = .next t ∧
      if (tow s tw).reset = .none then (tow t tw).recal = some 0 ∧ (shaft t tw 0 0).mode = .recal else (tow t tw).recalNext = some 0)
  ∧ (∀ (s : State) (w : ObjWrite) (tw : Nat), Safety.accepted s w 0x340005 = true → leNat w.val = tw → tw < 4 → serves s (1 + tw) = true →
      (tow s tw).recal = none → (tow s tw).recalNext = none →
    ∃ t, Machine.exec (.recalNow w) s = .next t ∧
      if (tow s tw).reset = .none then (tow t tw).recal = some 0 ∧ (shaft t tw 0 0).mode = .recal else (tow t tw).recalNext = some 0)
  ∧ (∀ (s : State) (tw now i : Nat) (healed : List Nat), fwRuns s (1 + tw) = true → (tow s tw).recal = some i →
    ∃ t, Machine.exec (.shaftRecalDone tw now healed) s = .next t
      ∧ (tow t tw).recal = (if i + 1 < 3200 ∧ s.fwQueue.contains (1 + tw) = false then some (i + 1) else none)
      ∧ (i + 1 < 3200 → s.fwQueue.contains (1 + tw) = true → (tow t tw).recalNext = some (i + 1))
      ∧ ∀ l, l ∈ (shaft t tw (roundShaft i).1 (roundShaft i).2).failed ↔
          l ∉ healed ∧ (l ∈ (shaft s tw (roundShaft i).1 (roundShaft i).2).atTake ∨ l ∈ (shaft s tw (roundShaft i).1 (roundShaft i).2).failed))
  ∧ (∀ (s : State) (now : Nat) (d1 d2 d3 : Int),
    ∃ t, Machine.exec (.paceTowerCompare now d1 d2 d3) s = .next t ∧ t.pace.now = (clock s now).pace.now
      ∧ ∀ k d, (k, d) ∈ [(1, d1), (2, d2), (3, d3)] →
        mfind t.pace.skew k = (if 4 < d.natAbs then some d else none)
        ∧ (paceAt t k : Int) = (if 4 < d.natAbs then max 0 (t.pace.now + d) else t.pace.now))

/-- Level resets and the restoring of levels (R42, R43, R45, R47, R50, R61, R412, Table 2.9). A reset of a level is accepted and
recorded, but merged where the level is in reset already or its tower is; then the acknowledged accumulate-writes of L1 are in
its arrays, the level is held, released (the clusters of a compute level at their reset values with zero shared local memory,
the counts since module reset kept) and ready, each at its own event; a level that was being restored is back in service, the
last of them with interrupt 0x114 + t. `LEVEL_RESTORE` resets every level from l up that is out; it is refused with none of its
effect where none is, under a tower reset, or where a joint would be over its limit of retired shafts (which status comes
first is the model's choice, log 122). -/
def Obligations.LevelResetsAndRestore : Prop :=
  (∀ (s : State) (w : ObjWrite) (tw l : Nat), Safety.accepted s w 0x340007 = true → leNat w.val = 4 * tw + l → 1 ≤ l → l ≤ 3 → tw < 4 →
    ∃ t, Machine.exec (.levelReset w) s = .next t ∧ (tow t tw).levelsOut = (tow s tw).levelsOut ∧ (tow t tw).restoring = (tow s tw).restoring ∧
      if (tow s tw).reset = .none ∧ mget (tow s tw).levelReset l .none = .none then
        mget (tow t tw).levelReset l .none = .accepted
        ∧ (l = 1 → (tow t tw).cacheMode ≠ .normal)
        ∧ (Safety.records s 0x0104 = true → ∃ e ∈ t.pit.queue, e.trig = 0x0104 ∧ e.unit = tw ∧ e.addr = l)
      else (tow t tw).levelReset = (tow s tw).levelReset ∧ (tow t tw).reset = (tow s tw).reset)
  ∧ (∀ (s : State) (tw l : Nat), mget (tow s tw).levelReset l .none = .accepted →
    ∃ t, Machine.exec (.levelResetDrainDone tw l) s = .next t ∧ mget (tow t tw).levelReset l .none = .held
      ∧ (tow t tw).adder = (if l = 1 then [] else (tow s tw).adder)
      ∧ t.mem = (if l = 1 then ((tow s tw).adder.foldl accwLine s).mem else s.mem))
  ∧ (∀ (s : State) (tw l : Nat), mget (tow s tw).levelReset l .none = .held →
    ∃ t, Machine.exec (.levelResetRelease tw l) s = .next t ∧ mget (tow t tw).levelReset l .none = .released
      ∧ (l < 2 → t.mem = s.mem ∧ t.clusters = s.clusters)
      ∧ (2 ≤ l → ∀ i, i < 16 → let c := 32 * tw + 16 * (l - 2) + i
          (clu t c).crews = [] ∧ (clu t c).acc = [] ∧ (clu t c).entries = [] ∧ (clu t c).l1 = [] ∧ (clu t c).accSat = (clu s c).accSat
          ∧ (clu t c).mode = (if (clu s c).mode = .retired then .retired else .idle)
          ∧ ∀ a, slmBase + c * 0x01000000 ≤ a → a < slmBase + c * 0x01000000 + 0x100000 → readMem t a 1 = [0#8]))
  ∧ (∀ (s : State) (tw l : Nat), mget (tow s tw).levelReset l .none = .released →
    ∃ t, Machine.exec (.levelReady tw l) s = .next t ∧ mget (tow t tw).levelReset l .none = .none
      ∧ ((tow s tw).restoring.contains l = true → l ∉ (tow t tw).levelsOut ∧ l ∉ (tow t tw).restoring
          ∧ ((∀ k ∈ (tow s tw).restoring, k = l) → 0x114 + tw ∈ t.irqs))
      ∧ ((tow s tw).restoring.contains l = false → (tow t tw).levelsOut = (tow s tw).levelsOut ∧ (l ≠ 1 → t.irqs = s.irqs))
      ∧ (l ≠ 1 → t.mem = s.mem ∧ (tow t tw).cacheMode = (tow s tw).cacheMode)
      ∧ (l = 1 → (tow t tw).cacheMode = cacheAfterReset (tow s tw) ((tow s tw).restoring.contains 1)))
  ∧ (∀ (s : State) (w : ObjWrite) (tw l : Nat), leNat w.val = 4 * tw + l → l ≤ 3 → tw < 4 →
      Safety.accepted s w 0x340006 = true → serves s (1 + tw) = true →
    let out := (List.range 4).filter fun k => decide (l ≤ k) && (tow s tw).levelsOut.contains k
    let beyond := ∃ j, j < 6 ∧ retireLimit j < retiredCount s tw j ∧ ∃ k ∈ out, levelAbove j ≤ k
    ∃ t, Machine.exec (.levelRestore w) s = .next t ∧ (tow t tw).levelsOut = (tow s tw).levelsOut ∧
      (l = 0 ∨ out = [] ∨ (tow s tw).reset ≠ .none ∨ beyond →
          (tow t tw).restoring = (tow s tw).restoring ∧ (tow t tw).levelReset = (tow s tw).levelReset
          ∧ (w.reg = false → ∃ st, Safety.lastStatus t w.sid = some st
              ∧ (st = 0x42 ∧ (l = 0 ∨ out = []) ∨ st = 0x45 ∧ (tow s tw).reset ≠ .none ∨ st = 0x46 ∧ beyond)))
      ∧ (¬ (l = 0 ∨ out = [] ∨ (tow s tw).reset ≠ .none ∨ beyond) →
          (∀ k ∈ out, k ∈ (tow t tw).restoring
            ∧ mget (tow t tw).levelReset k .none = (if mget (tow s tw).levelReset k .none = .none then .accepted else mget (tow s tw).levelReset k .none))
          ∧ (w.reg = false → Safety.lastStatus t w.sid = some 0)))

/-- A tower reset runs through Table 2.10 (R48 to R50, R61, R65): write-back of the near-store cache, relock of the PLL, training
of the joints (lanes that failed meanwhile are applied, the near store and the shared local memories are zero), then ready
with interrupt 0x114 + t; the accumulate-writes it acknowledged are in the arrays, and the shafts' endpoints are reset. A
write-back that L1's loss asked for ends with the tower's stacks served without the cache; one that takes 2 ms is FATAL;
a change of split ends with an empty cache; `NS_FLUSH` leaves no dirty line in the towers it names. -/
def Obligations.TowerResetStages : Prop :=
  (∀ (s : State) (w : ObjWrite) (tw : Nat), Safety.accepted s w 0x340008 = true → leNat w.val = tw → tw < 4 →
    ∃ t, Machine.exec (.towerReset w) s = .next t ∧
      if (tow s tw).reset = .none then (tow t tw).reset = .writeback
        ∧ (tow t tw).cacheMode = .writeback ∧ (tow t tw).levelReset = [] ∧ (tow t tw).restoring = [] ∧ (tow t tw).recal = none
      else (tow t tw).reset = (tow s tw).reset ∧ (tow t tw).cacheMode = (tow s tw).cacheMode)
  ∧ (∀ (s : State) (tw : Nat), (tow s tw).reset = .relock →
    ∃ t, Machine.exec (.towerPllLocked tw) s = .next t ∧ t = setTow s tw { tow s tw with reset := .training })
  ∧ (∀ (s : State) (tw : Nat), (tow s tw).reset = .training →
    ∃ t, Machine.exec (.towerJointsTrained tw) s = .next t ∧ (tow t tw).reset = .zeroing ∧ (tow t tw).late = []
      ∧ (∀ x ∈ (tow s tw).late, x.2 ∈ (shaft t tw (x.1 / 1024) (x.1 % 1024)).failed)
      ∧ ((tow s tw).late = [] → (tow t tw).shafts = (tow s tw).shafts ∧ (tow t tw).levelsOut = (tow s tw).levelsOut)
      ∧ (∀ a, 0x080000000000 + tw * 0x60000000 ≤ a → a < 0x080000000000 + (tw + 1) * 0x60000000 → readMem t a 1 = [0#8])
      ∧ (∀ i, i < 32 → (clu t (32 * tw + i)).crews = [] ∧ (clu t (32 * tw + i)).entries = []
          ∧ ∀ a, slmBase + (32 * tw + i) * 0x01000000 ≤ a → a < slmBase + (32 * tw + i) * 0x01000000 + 0x100000 → readMem t a 1 = [0#8]))
  ∧ (∀ (s : State) (tw : Nat), (tow s tw).reset = .zeroing →
    ∃ t, Machine.exec (.towerReady tw) s = .next t ∧ (tow t tw).reset = .none ∧ (tow t tw).lines = []
      ∧ (tow t tw).cacheMode = (if (tow s tw).levelsOut.contains 1 then .bypass else if (tow s tw).splitTo.isSome then .writeback else .normal)
      ∧ ((tow s tw).recalNext = none → (tow t tw).shafts = (tow s tw).shafts) ∧ (tow t tw).levelsOut = (tow s tw).levelsOut
      ∧ t.irqs = s.irqs ++ [0x114 + tw] ∧ ((∀ l ∈ (tow s tw).lines, l.dirty = true ∨ l.under = []) → t.mem = s.mem))
  ∧ (∀ (s : State) (tw : Nat), (tow s tw).reset = .writeback →
    ∃ t, Machine.exec (.towerResetWritebackDone tw) s = .next t ∧ (tow t tw).reset = .relock ∧ (tow t tw).cacheMode = .bypass
      ∧ (tow t tw).adder = [] ∧ (∀ x ∈ (tow t tw).shafts, x.2.seq = 0 ∧ x.2.tx = 0 ∧ x.2.buf = [])
      ∧ ((∀ st, (stk s st).waiting = []) → t.mem = ((tow s tw).adder.foldl accwLine (writebackLines s tw)).mem))
  ∧ (∀ (s : State) (tw : Nat), (tow s tw).cacheMode = .writeback → (tow s tw).reset = .none → (tow s tw).splitTo = none →
    ∃ t, Machine.exec (.nsCacheWritebackDone tw) s = .next t ∧ (tow t tw).cacheMode = .bypass ∧ (tow t tw).lines = [])
  ∧ (∀ (s : State) (tw now : Nat), (tow s tw).cacheMode = .writeback →
      (tow s tw).cacheSince + 2000000 ≤ (clock s now).pace.now →
    ∃ t, Machine.exec (.nsWritebackTimeout tw now) s = .next t ∧ t.boot.phase = .fatal ∧ t.pins.faultN = false)
  ∧ (∀ (s : State) (tw n : Nat), (tow s tw).splitTo = some n →
    ∃ t, Machine.exec (.nsSplitChangeDone tw) s = .next t ∧ (tow t tw).splitTo = none
      ∧ (tow t tw).cacheMode = cacheAfterSplit (tow s tw) ∧ (tow t tw).scratchUnits = (tow s tw).scratchUnits
      ∧ ((∀ st, (stk s st).waiting = []) → (tow t tw).lines = []))
  ∧ (∀ (s : State) (w : ObjWrite), Safety.accepted s w 0x310004 = true → leNat w.val < 16 →
    ∃ t, Machine.exec (.nsFlush w) s = .next t ∧ (w.reg = false → Safety.lastStatus t w.sid = some 0)
      ∧ (Safety.noRing s w = true → ∀ tw, tw < 4 → bit (leNat w.val) tw = true → ∀ x ∈ (tow t tw).lines, x.dirty = false))

/-- A module-local memory transaction (R48, R54, R55, R70, R72, R82). An access that a check refuses completes with the check's
status and touches nothing; a load or fetch completes with the bytes memory holds, tagged where a unit is poisoned; one within
a line observes the accumulate-writes acknowledged for it (R392); a store's bytes read back and every other byte is as before;
an atomic returns the old value and writes the new one; a store to a failed stack or package is not applied (MEM_FAILED); an
access to a stack that is excluded waits there; one in the relays of a tower under reset is lost. -/
def Obligations.MemoryTransactions : Prop :=
  let last := fun (t : State) => t.completions.getLast?
  let goes := fun (s : State) (x : Xact) => alive s = true ∧ flight s x.iss x.addr = .free
  let lands := fun (s : State) (x : Xact) => goes s x ∧ accessStatus s x.iss x.kind x.addr x.size = 0 ∧ localMemory s x.addr = true
    ∧ waits s x.addr = false ∧ Memory.wf s.mem = true ∧ 1 ≤ x.size ∧ x.size ≤ 128
  let whole := fun (s : State) (x : Xact) => ∀ p ∈ linePieces x.addr x.size, failedHome s p.1 = false
  (∀ (s : State) (x : Xact) (errs : List (Nat × Nat)), goes s x → accessStatus s x.iss x.kind x.addr x.size ≠ 0 →
    ∃ t, Machine.exec (.memoryAccess x errs) s = .next t ∧ t = { s with completions := t.completions }
      ∧ t.completions.length = s.completions.length + 1
      ∧ (last t).map (fun c => (c.tag, c.status)) = some (x.tag, accessStatus s x.iss x.kind x.addr x.size))
  ∧ (∀ (s : State) (x : Xact), lands s x → whole s x → x.kind = .load ∨ x.kind = .fetch → Safety.settled s →
    ∃ t, Machine.exec (.memoryAccess x []) s = .next t ∧ t.mem = s.mem
      ∧ last t = some { tag := x.tag, data := readMem s x.addr x.size, poison := poisoned s x.addr x.size
                        status := if poisoned s x.addr x.size then 8 else 0 })
  ∧ (∀ (s : State) (x : Xact), lands s x → whole s x → x.kind = .load ∨ x.kind = .fetch → linePieces x.addr x.size = [(x.addr, x.size)] →
      (∀ tw, ∀ l ∈ (tow s tw).lines, l.under = []) →
    ∃ t, Machine.exec (.memoryAccess x []) s = .next t ∧ t.mem = (drainLines s x.addr x.size).mem
      ∧ (last t).map (·.data) = some (readMem (drainLines s x.addr x.size) x.addr x.size))
  ∧ (∀ (s : State) (x : Xact), lands s x → whole s x → x.kind = .store ∨ x.kind = .flagStore → x.data.length = x.size → Safety.settled s →
    ∃ t, Machine.exec (.memoryAccess x []) s = .next t ∧ readMem t x.addr x.size = x.data
      ∧ Safety.sameBytesBut s t x.addr x.size ∧ t.poison = poisonAfter s.poison x.addr x.size x.poison
      ∧ last t = some { tag := x.tag, status := 0 })
  ∧ (∀ (s : State) (x : Xact) (op : Nat) (ret : Bool), lands s x → failedHome s x.addr = false → x.kind = .atom op ret → x.size = 4 ∨ x.size = 8 →
      Safety.settled s →
    ∃ t, Machine.exec (.memoryAccess x []) s = .next t
      ∧ readNat t x.addr x.size = (atomOp op (8 * x.size) (readNat s x.addr x.size) (leNat (x.data.take x.size))
          (leNat ((x.data.drop x.size).take x.size))).1 % 256 ^ x.size
      ∧ Safety.sameBytesBut s t x.addr x.size
      ∧ (last t).map (fun c => (c.tag, c.status, c.data)) = some (x.tag, if poisoned s x.addr x.size then 8 else 0,
          if ret then leBytes x.size (readNat s x.addr x.size) else []))
  ∧ (∀ (s : State) (x : Xact), lands s x → x.kind = .store ∨ x.kind = .flagStore → x.data.length = x.size →
      linePieces x.addr x.size = [(x.addr, x.size)] → failedHome s x.addr = true → Safety.settled s →
    ∃ t, Machine.exec (.memoryAccess x []) s = .next t ∧ t.mem = s.mem ∧ last t = some { tag := x.tag, status := 9 })
  ∧ (∀ (s : State) (x : Xact) (st : Nat), goes s x → home s x.addr = .fast st → waits s x.addr = true →
      accessStatus s x.iss x.kind x.addr x.size = 0 →
    ∃ t, Machine.exec (.memoryAccess x []) s = .next t ∧ t = setStk s st { stk s st with waiting := (stk s st).waiting ++ [{ x }] })
  ∧ (∀ (s : State) (x : Xact) (errs : List (Nat × Nat)), alive s = true → flight s x.iss x.addr = .lost →
    ∃ t, Machine.exec (.memoryAccess x errs) s = .next t ∧ (last t).map (fun c => (c.tag, c.status)) = some (x.tag, 2))

/-- Accumulate-writes at the store die (R62 to R66). A request that passes its checks is acknowledged into the adder queue of
its tower; one that fails completes with its status and nothing is added. An applied accumulate-write adds each element its
mask names to the element in memory and leaves every other byte. The L1 of a crew that issues one keeps no copy of its line
(R113). -/
def Obligations.AccumulateWrites : Prop :=
  (∀ (s : State) (a : AccWrite) (tw : Nat), alive s = true → flight s a.iss a.addr = .free → accwStatus s a.iss a.addr = 0 → home s a.addr = .scratch tw →
    ∃ t, Machine.exec (.accwRequest a) s = .next t ∧ (tow t tw).adder = (tow s tw).adder ++ [a] ∧ t.mem = s.mem
      ∧ (t.completions.getLast?.map fun c => (c.tag, c.status)) = some (a.tag, 0)
      ∧ (a.iss.kind = .crew → ∀ l ∈ (clu t a.iss.unit).l1, l.line ≠ a.addr / 128))
  ∧ (∀ (s : State) (a : AccWrite), alive s = true → flight s a.iss a.addr = .free → accwStatus s a.iss a.addr ≠ 0 →
    ∃ t, Machine.exec (.accwRequest a) s = .next t ∧ t.towers = s.towers ∧ t.mem = s.mem
      ∧ (t.completions.getLast?.map fun c => (c.tag, c.status)) = some (a.tag, accwStatus s a.iss a.addr))
  ∧ (∀ (s : State) (tw i : Nat) (w : AccWrite), (tow s tw).adder[i]? = some w → Memory.wf s.mem = true →
    ∃ t, Machine.exec (.accwApply tw i) s = .next t ∧ (tow t tw).adder = (tow s tw).adder.eraseIdx i
      ∧ (∀ e, e < 32 → readNat t (w.addr + 4 * e) 4 = if w.mask.getLsbD e
          then (accwAdd w.int (readNat s (w.addr + 4 * e) 4) (w.data.getD e 0#32).toNat).1 % 2 ^ 32
          else readNat s (w.addr + 4 * e) 4)
      ∧ Safety.sameBytesBut s t w.addr 128)

/-- Retraining, failure and scrubbing of memory devices (R70 to R72, R76, R79, R80, R91). A stack whose retraining is due, by
command, interval or temperature, is excluded when its controller's firmware runs and no stack beside the tower is
excluded or wanted before it, and else waits for that; the end of the retraining puts it into service or marks it failed; a device
that fails in service is marked failed. The patrol reads one unit of any tier, or the near store's copy of a fast-tier unit: a unit
without error stays as it is, one wrong symbol is counted and corrected, and a unit written meanwhile keeps its newer data; of a
unit the near-store cache holds, the stack's own copy is read beneath it. -/
def Obligations.StackRetrainingFailureAndScrub : Prop :=
  let alone := fun (s : State) (st : Nat) => fwRuns s (9 + st / 8) = true ∧
    ∀ j, j / 8 = st / 8 → (stk s j).st ≠ .excluded ∧ ((stk s j).wanted = true → j = st)
  let due := fun (s t : State) (st : Nat) => ((stk t st).st = .excluded ∨ (stk t st).wanted = true) ∧ (alone s st → (stk t st).st = .excluded)
  (∀ (s : State) (w : ObjWrite) (st : Nat), Safety.accepted s w 0x320004 = true → leNat w.val = st → st < 32 → (stk s st).st = .inService →
    ∃ t, Machine.exec (.stackRetrain w) s = .next t ∧ due s t st ∧ (alone s st → (stk t st).since = s.pace.now))
  ∧ (∀ (s : State) (st now : Nat), (stk s st).st = .inService → cfg s 0x320005 ≠ 0 →
      (stk s st).lastTrained + cfg s 0x320005 * 1000000000 ≤ (clock s now).pace.now →
    ∃ t, Machine.exec (.stackRetrainInterval st now) s = .next t ∧ due s t st)
  ∧ (∀ (s : State) (st now : Nat) (c : Int), (stk s st).st = .inService → cfg s 0x320006 ≤ (c - (stk s st).lastTempC).natAbs →
    ∃ t, Machine.exec (.stackTempDelta st c now) s = .next t ∧ due s t st ∧ mfind t.power.temps (72 + st) = some c)
  ∧ (∀ (s : State) (st now : Nat), (stk s st).st = .excluded → (stk s st).wanted = false →
    (∃ t, Machine.exec (.stackRetrainDone st now true) s = .next t ∧ (stk t st).st = .inService
      ∧ (stk t st).lastTrained = (clock s now).pace.now)
    ∧ ∃ t, Machine.exec (.stackRetrainDone st now false) s = .next t ∧ (stk t st).st = .failed)
  ∧ (∀ (s : State) (st : Nat), st < 32 → (stk s st).st = .inService ∨ (stk s st).st = .excluded →
    ∃ t, Machine.exec (.memDeviceFailure st) s = .next t ∧ (stk t st).st = .failed)
  ∧ (∀ (s : State) (p : Nat), mget s.packages p .skipped = .inService →
    ∃ t, Machine.exec (.memDeviceFailure (32 + p)) s = .next t ∧ mget t.packages p .skipped = .failed ∧ t.mem = s.mem)
  ∧ (∀ (s : State) (a u : Nat) (errs : List (Nat × Nat)) (newer near : Bool), alive s = true → failedHome s a = false → Memory.wf s.mem = true →
      a / 64 ∉ s.poison →
      (∃ tw, home s a = .scratch tw ∧ near = true ∧ cfg s 0x350002 ≠ 0 ∧ u = tw)
        ∨ (∃ k, home s a = .fast k ∧ near = true ∧ cfg s 0x350002 ≠ 0 ∧ cached s a = true ∧ u = k / 8)
        ∨ (∃ k, home s a = .fast k ∧ near = false ∧ cfg s 0x350003 ≠ 0 ∧ (stk s k).st ≠ .excluded ∧ cached s a = false ∧ u = 4 + k)
        ∨ (∃ p, home s a = .deep p ∧ near = false ∧ cfg s 0x350004 ≠ 0 ∧ u = 36 + p) →
    ∃ t, Machine.exec (.scrubPatrol a errs newer near) s = .next t ∧ (newer = true → t.mem = s.mem ∧ t.poison = s.poison)
      ∧ (newer = false → t = readUnit s a errs near)
      ∧ (errs = [] → t.mem = s.mem ∧ t.poison = s.poison ∧ t.corrected = s.corrected)
      ∧ (errs = [(0, 1)] → Safety.sameBytes s t ∧ t.poison = s.poison ∧ mget t.corrected u 0 = mget s.corrected u 0 + 1))
  ∧ (∀ (s : State) (a k : Nat) (errs : List (Nat × Nat)), alive s = true → home s a = .fast k → failedHome s a = false → cfg s 0x350003 ≠ 0 →
      (stk s k).st ≠ .excluded → cached s a = true →
    ∃ t, Machine.exec (.scrubPatrol a errs false false) s = .next t ∧ t.mem = s.mem ∧ t.poison = s.poison
      ∧ (errs = [(0, 1)] → mget t.corrected (4 + k) 0 = mget s.corrected (4 + k) 0 + 1))

/-- `FILL` and `COPY` in module-local memory (R84 to R86, Table 3.5): an idle, enabled engine takes the next valid descriptor and
moves all its rows; `FILL` repeats the 64-bit pattern from the start of each row, `COPY` moves the source's bytes; nothing else in
memory changes. Under a check-value unit the same holds where the job's status is `OK`, but for the check table. A descriptor
with a field out of its range ends with `BAD_DESCRIPTOR` and moves nothing. The hypotheses say that every piece of the rows may be
written, that rows of the destination do not meet, and, for `COPY`, that the source may be read and lies apart. -/
def Obligations.CopyEngineFillAndCopy : Prop :=
  let takes := fun (s : State) (e : Nat) (j : CopyJob) (more : List CopyJob) =>
    alive s = true ∧ (cpe s e).busy = none ∧ (cpe s e).queue = j :: more ∧ copyEnabled s e = true
  let starts := fun (s : State) (e : Nat) (j : CopyJob) (more : List CopyJob) => takes s e j more ∧ j.bad = false
      ∧ (∀ u, j.cvu e = some u → cvuBad (cvu s u) j.part = false ∧ (cvu s u).busy = false)
      ∧ j.waits s = false ∧ (j.rows = 1 ∨ j.dstRow ≤ j.dstStride) ∧ Memory.wf s.mem = true ∧ Safety.settled s
      ∧ ∀ p ∈ j.pieces false, j.writeStatus s { kind := .copy, unit := e, part := some j.part } p = 0 ∧ localMemory s (j.at p) = true
  let done := fun (t : State) (e : Nat) (j : CopyJob) (more : List CopyJob) =>
    (cpe t e).busy = some j ∧ (cpe t e).queue = more ∧ (cpe t e).ended = true ∧ (j.cvu e = none → (cpe t e).status = 0)
  let apart := fun (s t : State) (j : CopyJob) => ∀ a, (∀ r, r < j.rows → a < j.dst + r * j.dstStride ∨ j.dst + r * j.dstStride + j.dstRow ≤ a) →
    readMem t a 1 = readMem s a 1
  (∀ (s : State) (e : Nat) (j : CopyJob) (more : List CopyJob), starts s e j more → j.op = 3 →
    ∃ t, Machine.exec (.fillI e) s = .next t ∧ done t e j more
      ∧ ((cpe t e).status = 0 → ∀ r i, r < j.rows → i < j.dstRow → readMem t (j.dst + r * j.dstStride + i) 1 = [(leBytes 8 (j.w 1)).getD (i % 8) 0#8])
      ∧ (j.cvu e = none → apart s t j))
  ∧ (∀ (s : State) (e : Nat) (j : CopyJob) (more : List CopyJob), starts s e j more → j.op = 1 → j.overlaps = false →
      (∀ r, r < j.rows → ∀ c ∈ cuts (j.srcAt + r * j.srcStride) j.srcRow,
        accessStatus s { kind := .copy, unit := e, part := some j.part } .load c.1 c.2 = 0
        ∧ localMemory s c.1 = true ∧ failedHome s c.1 = false ∧ poisoned s c.1 c.2 = false) →
    ∃ t, Machine.exec (.copyI e) s = .next t ∧ done t e j more
      ∧ ((cpe t e).status = 0 → ∀ r i, r < j.rows → i < j.dstRow →
          readMem t (j.dst + r * j.dstStride + i) 1 = readMem s (j.srcAt + r * j.srcStride + i) 1)
      ∧ (j.cvu e = none → apart s t j))
  ∧ (∀ (s : State) (e : Nat) (j : CopyJob) (more : List CopyJob), takes s e j more → j.bad = true →
    ∃ c t, c ∈ [Instr.copyI e, .transposeI e, .fillI e, .accwI e] ∧ Machine.exec c s = .next t
      ∧ t = setCpe s e { cpe s e with queue := more, busy := some j, status := 7, ended := true })

/-- `TRANSPOSE`, `ACCW` and the end of a transfer (R62, R86, R88, R89). A transpose puts element (r, c) of the source at row c,
element r of the destination, for every element size down to 4 bits; an accumulate transfer gives its tower's adder one
accumulate-write for each line of its destination, with the source's elements at their places, and leaves memory; the end of a
transfer frees the engine, counts it, reports its status, and writes the completion record, status in [63:48], where one is
asked for. -/
def Obligations.CopyEngineTransposeAccwAndEnd : Prop :=
  let starts := fun (s : State) (e : Nat) (j : CopyJob) (more : List CopyJob) =>
    alive s = true ∧ (cpe s e).busy = none ∧ (cpe s e).queue = j :: more ∧ copyEnabled s e = true ∧ j.bad = false
      ∧ j.cvu e = none ∧ j.waits s = false ∧ j.overlaps = false ∧ Memory.wf s.mem = true ∧ Safety.settled s
      ∧ (j.dstRows = 1 ∨ j.dstRow ≤ j.dstStride)
      ∧ (∀ p ∈ j.pieces false, j.writeStatus s { kind := .copy, unit := e, part := some j.part } p = 0)
      ∧ ∀ r, r < j.rows → ∀ c ∈ cuts (j.srcAt + r * j.srcStride) j.srcRow,
        accessStatus s { kind := .copy, unit := e, part := some j.part } .load c.1 c.2 = 0
        ∧ localMemory s c.1 = true ∧ failedHome s c.1 = false ∧ poisoned s c.1 c.2 = false
  let nib := fun (s : State) (a k : Nat) => readNat s (a + k / 2) 1 / 16 ^ (k % 2) % 16
  (∀ (s : State) (e : Nat) (j : CopyJob) (more : List CopyJob), starts s e j more → j.op = 2 →
      (∀ p ∈ j.pieces false, localMemory s (j.at p) = true) →
    ∃ t, Machine.exec (.transposeI e) s = .next t ∧ (cpe t e).busy = some j ∧ (cpe t e).ended = true ∧ (cpe t e).status = 0
      ∧ (8 ≤ j.bits → ∀ r c b, r < j.rows → c < j.cols → b < j.bits / 8 →
          readMem t (j.dst + c * j.dstStride + r * (j.bits / 8) + b) 1 = readMem s (j.srcAt + r * j.srcStride + c * (j.bits / 8) + b) 1)
      ∧ (j.bits = 4 → ∀ r c, r < j.rows → c < j.cols → nib t (j.dst + c * j.dstStride) r = nib s (j.srcAt + r * j.srcStride) c))
  ∧ (∀ (s : State) (e tw : Nat) (j : CopyJob) (more : List CopyJob), starts s e j more → j.op = 4 →
      (∀ p ∈ j.pieces false, home s (j.at p / 128 * 128) = .scratch tw) →
    ∃ t, Machine.exec (.accwI e) s = .next t ∧ (cpe t e).busy = some j ∧ (cpe t e).ended = true ∧ (cpe t e).status = 0 ∧ t.mem = s.mem
      ∧ List.Forall₂ (fun (p : Piece) (w : AccWrite) => w.addr = j.at p / 128 * 128 ∧ w.int = bit (j.w 0) 53 ∧ w.poison = false
          ∧ ∀ k, k < 32 → w.mask.getLsbD k = (decide (j.at p % 128 / 4 ≤ k) && decide (k < j.at p % 128 / 4 + p.len / 4))
            ∧ (w.mask.getLsbD k = true → (w.data.getD k 0#32).toNat
                = readNat s (j.srcAt + p.row * j.srcStride + p.off + 4 * (k - j.at p % 128 / 4)) 4)) (j.pieces false) (tow t tw).adder)
  ∧ (∀ (s : State) (e : Nat) (j : CopyJob), alive s = true → (cpe s e).busy = some j → (cpe s e).ended = true →
      (hf s (e / 8)).runs = [] → (hf s (e / 8)).stores = [] → (fld (j.w 0) 56 54 = 5 → (hf s (e / 8)).failures = []) → Safety.settled s →
      (j.record = true → localMemory s j.recordAt = true ∧ waits s j.recordAt = false ∧ failedHome s j.recordAt = false
        ∧ accessStatus s { kind := .copy, unit := e, part := some j.part } .store j.recordAt 8 = 0) →
      Memory.wf s.mem = true →
    ∃ t, Machine.exec (.copyTransferDone e) s = .next t ∧ (cpe t e).busy = none ∧ (cpe t e).lastStatus = (cpe s e).status
      ∧ (cpe t e).done = (cpe s e).done + 1
      ∧ (j.record = true → readNat t j.recordAt 8 = ((cpe s e).status * 2 ^ 48 + fld (j.w 7) 47 0) % 2 ^ 64
        ∧ Safety.sameBytesBut s t j.recordAt 8)
      ∧ (j.record = false → t.mem = s.mem))

/-- The integer class, `ICMP`, `PLOG`, `PICK` and `MOV` (R130 to R136, R566). In every lane where the guard holds, the
destination takes the operation's result at the operand width, computed from the sources before the instruction (a predicate
takes its bit 0), with poison where a source lane is poisoned (R167). Every other lane, every other register and every byte
of memory stays. Counts of the width or more, the absolute value of the least value and `BPICK` indices above 7 have no
stated result, and nothing is claimed of them. -/
def Obligations.IntegerLaneResults : Prop :=
  let bv := fun (w : Nat) (a : List Nat) (n : Nat) => BitVec.ofNat w (a.getD n 0)
  let ops : List ((Nat → Nat → Instr) × Nat × Nat × RShape × (Nat → Nat → List Nat → Option Nat)) := [
    (.iadd, 0x01, 0x00, { n := 2, wide := true }, fun _ w a => some (bv w a 0 + bv w a 1).toNat),
    (.isub, 0x01, 0x01, { n := 2, wide := true }, fun _ w a => some (bv w a 0 - bv w a 1).toNat),
    (.imul, 0x01, 0x02, { n := 2, wide := true }, fun _ w a => some (bv w a 0 * bv w a 1).toNat),
    (.imula, 0x01, 0x03, { n := 3 }, fun _ w a => some (bv w a 0 * bv w a 1 + bv w a 2).toNat),
    (.imin, 0x01, 0x04, { n := 2, wide := true }, fun _ w a => some (if (bv w a 1).slt (bv w a 0) then bv w a 1 else bv w a 0).toNat),
    (.imin, 0x01, 0x05, { n := 2, wide := true }, fun _ w a => some (if (bv w a 1).ult (bv w a 0) then bv w a 1 else bv w a 0).toNat),
    (.imax, 0x01, 0x06, { n := 2, wide := true }, fun _ w a => some (if (bv w a 0).slt (bv w a 1) then bv w a 1 else bv w a 0).toNat),
    (.imax, 0x01, 0x07, { n := 2, wide := true }, fun _ w a => some (if (bv w a 0).ult (bv w a 1) then bv w a 1 else bv w a 0).toNat),
    (.iabs, 0x01, 0x08, { n := 1, wide := true }, fun _ w a => if bv w a 0 = BitVec.intMin w then none else some (bv w a 0).toInt.natAbs),
    (.shl, 0x01, 0x09, { n := 2, wide := true }, fun _ w a => if a.getD 1 0 < w then some (bv w a 0 <<< a.getD 1 0).toNat else none),
    (.shr, 0x01, 0x0A, { n := 2, wide := true }, fun _ w a => if a.getD 1 0 < w then some (bv w a 0 >>> a.getD 1 0).toNat else none),
    (.sar, 0x01, 0x0B, { n := 2, wide := true }, fun _ w a => if a.getD 1 0 < w then some ((bv w a 0).sshiftRight (a.getD 1 0)).toNat else none),
    (.andI, 0x01, 0x0C, { n := 2, wide := true }, fun _ w a => some (bv w a 0 &&& bv w a 1).toNat),
    (.orI, 0x01, 0x0D, { n := 2, wide := true }, fun _ w a => some (bv w a 0 ||| bv w a 1).toNat),
    (.xorI, 0x01, 0x0E, { n := 2, wide := true }, fun _ w a => some (bv w a 0 ^^^ bv w a 1).toNat),
    (.notI, 0x01, 0x0F, { n := 1, wide := true }, fun _ w a => some (~~~ bv w a 0).toNat),
    (.bcnt, 0x01, 0x10, { n := 1, wide := true }, fun _ w a => some ((List.range w).countP fun b => (bv w a 0).getLsbD b)),
    (.clz, 0x01, 0x11, { n := 1, wide := true }, fun _ w a => some ((List.range w).takeWhile fun b => !(bv w a 0).getMsbD b).length),
    (.brev, 0x01, 0x12, { n := 1, wide := true }, fun _ w a => some (bv w a 0).reverse.toNat),
    (.bpick, 0x01, 0x13, { n := 3 }, fun _ _ a => if ∀ b, b < 4 → fld (a.getD 2 0) (8 * b + 7) (8 * b) < 8 then
      some ((List.range 4).foldl (fun r b => r + (a.getD 0 0 + a.getD 1 0 * 2 ^ 32) / 256 ^ fld (a.getD 2 0) (8 * b + 7) (8 * b) % 256 * 256 ^ b) 0)
      else none),
    (.icmp, 0x06, 0x00, { n := 2, wide := true, cond := 5, dst := .pred }, fun m w a =>
      some (b2n (condition m ((bv w a 0).slt (bv w a 1)) ((bv w a 1).slt (bv w a 0))))),
    (.icmp, 0x06, 0x01, { n := 2, wide := true, cond := 5, dst := .pred }, fun m w a =>
      some (b2n (condition m ((bv w a 0).ult (bv w a 1)) ((bv w a 1).ult (bv w a 0))))),
    (.plog, 0x06, 0x04, { n := 2, preds := [0, 1], cond := 3, dst := .pred }, fun m _ a =>
      some (if m = 0 then a.getD 0 0 &&& a.getD 1 0 else if m = 1 then a.getD 0 0 ||| a.getD 1 0
        else if m = 2 then a.getD 0 0 ^^^ a.getD 1 0 else a.getD 0 0 &&& (1 - a.getD 1 0))),
    (.pick, 0x06, 0x06, { n := 3, preds := [2], wide := true }, fun _ _ a => some (if a.getD 2 0 = 1 then a.getD 0 0 else a.getD 1 0)),
    (.movI, 0x07, 0x00, { n := 1, wide := true }, fun _ _ a => some (a.getD 0 0))]
  ∀ op ∈ ops, ∀ (s : State) (c k w ext : Nat), fld w 63 58 = op.2.1 → fld w 57 50 = op.2.2.1 →
    Safety.performs s c k w ext (rCodes op.2.2.2.1 (crw s c k) (Safety.insAt s c k w ext)) = true →
    let i := Safety.insAt s c k w ext
    let src := fun l => sources s i i.wd (negInt i.wd) op.2.2.2.1.n l
    ∃ t, Machine.exec (op.1 c k) s = .next t ∧ Safety.onlyCrew s t c k
      ∧ Safety.lanesGive s t i i.wd (fun l => (src l).2) fun l => op.2.2.2.2 (fld w 2 0) i.wd (src l).1

/-- The `FP32`, packed, special-function classes and `FCMP` (R135, R136, R237, R251). In every lane where the guard holds, the
destination takes the IEEE 754 result: the exact value of the operation, rounded once to nearest even, a finite result beyond
the range becoming the largest finite magnitude; each such saturation in a lane (a half of a packed lane) adds 1 to the cluster's
`VEC_SAT`. Of `FMIN` and `FMAX`, NaN operands give NaN and -0 lies below +0 (the model's choice, log 17). The special functions
give NaN for NaN, the infinities `RCP` and `RSQ` give for ±0, NaN for `RSQ` and `LG2` of a negative value; another result is
claimed only by the rule of accuracy (log 4). `FCMP` with a NaN is 0 but for `NE`. -/
def Obligations.FloatLaneResults : Prop :=
  let two := fun (f : Fmt) (g : Sys2Proof.Machine.Num → Sys2Proof.Machine.Num → Sys2Proof.Machine.Num) (a b : Nat) => f.convert (g (f.decode a) (f.decode b))
  let fma := fun (f : Fmt) (a b d : Nat) => f.convert (((f.decode a).mul (f.decode b)).add (f.decode d))
  let one := fun (r : Conv) => (some r.code, if r.sat then 1 else 0)
  let halves := fun (g : Nat → Conv) =>
    (some ((g 0).code + (g 1).code * 65536), (if (g 0).sat then 1 else 0) + (if (g 1).sat then 1 else 0))
  let half := fun (a : List Nat) (k h : Nat) => a.getD k 0 / 65536 ^ h % 65536
  let less := fun (a b : Nat) => (f32.decode a).lt (f32.decode b)
  let nan := fun (a : Nat) => decide (f32.decode a = .nan)
  let minus := fun (a : Nat) => a.testBit 31
  let ops : List ((Nat → Nat → Instr) × Nat × Nat × RShape × (Nat → Nat) × (Nat → List Nat → Option Nat × Nat)) := [
    (.fadd, 0x02, 0x00, { n := 2 }, negF32, fun _ a => one (two f32 Sys2Proof.Machine.Num.add (a.getD 0 0) (a.getD 1 0))),
    (.fsub, 0x02, 0x01, { n := 2 }, negF32, fun _ a => one (two f32 (fun x y => x.add y.neg) (a.getD 0 0) (a.getD 1 0))),
    (.fmul, 0x02, 0x02, { n := 2 }, negF32, fun _ a => one (two f32 Sys2Proof.Machine.Num.mul (a.getD 0 0) (a.getD 1 0))),
    (.fmac, 0x02, 0x03, { n := 3 }, negF32, fun _ a => one (fma f32 (a.getD 0 0) (a.getD 1 0) (a.getD 2 0))),
    (.fmin, 0x02, 0x04, { n := 2 }, negF32, fun _ a => (some (if nan (a.getD 0 0) || nan (a.getD 1 0) then 0x7FC00000
      else if less (a.getD 0 0) (a.getD 1 0) || (minus (a.getD 0 0) && !less (a.getD 1 0) (a.getD 0 0)) then a.getD 0 0 else a.getD 1 0), 0)),
    (.fmax, 0x02, 0x05, { n := 2 }, negF32, fun _ a => (some (if nan (a.getD 0 0) || nan (a.getD 1 0) then 0x7FC00000
      else if less (a.getD 0 0) (a.getD 1 0) || (minus (a.getD 0 0) && !less (a.getD 1 0) (a.getD 0 0)) then a.getD 1 0 else a.getD 0 0), 0)),
    (.fabs, 0x02, 0x06, { n := 1 }, negF32, fun _ a => (some (if nan (a.getD 0 0) then 0x7FC00000 else a.getD 0 0 % 2 ^ 31), 0)),
    (.fneg, 0x02, 0x07, { n := 1 }, negF32, fun _ a =>
      (some (if nan (a.getD 0 0) then 0x7FC00000 else (BitVec.ofNat 32 (a.getD 0 0) ^^^ 0x80000000#32).toNat), 0)),
    (.paddBf16, 0x03, 0x00, { n := 2 }, negPacked, fun _ a => halves fun h => two bf16 Sys2Proof.Machine.Num.add (half a 0 h) (half a 1 h)),
    (.paddF16, 0x03, 0x01, { n := 2 }, negPacked, fun _ a => halves fun h => two f16 Sys2Proof.Machine.Num.add (half a 0 h) (half a 1 h)),
    (.pmulBf16, 0x03, 0x02, { n := 2 }, negPacked, fun _ a => halves fun h => two bf16 Sys2Proof.Machine.Num.mul (half a 0 h) (half a 1 h)),
    (.pmulF16, 0x03, 0x03, { n := 2 }, negPacked, fun _ a => halves fun h => two f16 Sys2Proof.Machine.Num.mul (half a 0 h) (half a 1 h)),
    (.pfmaBf16, 0x03, 0x04, { n := 3 }, negPacked, fun _ a => halves fun h => fma bf16 (half a 0 h) (half a 1 h) (half a 2 h)),
    (.pfmaF16, 0x03, 0x05, { n := 3 }, negPacked, fun _ a => halves fun h => fma f16 (half a 0 h) (half a 1 h) (half a 2 h)),
    (.rcp, 0x05, 0x00, { n := 1 }, negF32, fun _ a => (if nan (a.getD 0 0) then some 0x7FC00000
      else if a.getD 0 0 % 2 ^ 31 = 0 then some (a.getD 0 0 + 0x7F800000)
      else if a.getD 0 0 % 2 ^ 31 = 0x7F800000 then some (a.getD 0 0 - 0x7F800000) else none, b2n (specialSat 0 (a.getD 0 0)))),
    (.rsq, 0x05, 0x01, { n := 1 }, negF32, fun _ a => (if a.getD 0 0 % 2 ^ 31 = 0 then some (a.getD 0 0 + 0x7F800000)
      else if nan (a.getD 0 0) || minus (a.getD 0 0) then some 0x7FC00000 else if a.getD 0 0 = 0x7F800000 then some 0 else none, 0)),
    (.ex2, 0x05, 0x02, { n := 1 }, negF32, fun _ a => (if nan (a.getD 0 0) then some 0x7FC00000
      else if a.getD 0 0 = 0x7F800000 then some 0x7F800000 else if a.getD 0 0 = 0xFF800000 then some 0 else none, b2n (specialSat 2 (a.getD 0 0)))),
    (.lg2, 0x05, 0x03, { n := 1 }, negF32, fun _ a => (if a.getD 0 0 % 2 ^ 31 = 0 then some 0xFF800000
      else if nan (a.getD 0 0) || minus (a.getD 0 0) then some 0x7FC00000 else if a.getD 0 0 = 0x7F800000 then some 0x7F800000 else none, 0)),
    (.sinI, 0x05, 0x04, { n := 1 }, negF32, fun _ a => (if 0x7F800000 ≤ a.getD 0 0 % 2 ^ 31 then some 0x7FC00000 else none, 0)),
    (.cosI, 0x05, 0x05, { n := 1 }, negF32, fun _ a => (if 0x7F800000 ≤ a.getD 0 0 % 2 ^ 31 then some 0x7FC00000 else none, 0)),
    (.fcmp, 0x06, 0x02, { n := 2, cond := 5, dst := .pred }, negF32, fun m a =>
      (some (if nan (a.getD 0 0) || nan (a.getD 1 0) then b2n (m == 1)
        else b2n (condition m (less (a.getD 0 0) (a.getD 1 0)) (less (a.getD 1 0) (a.getD 0 0)))), 0))]
  ∀ op ∈ ops, ∀ (s : State) (c k w ext : Nat), fld w 63 58 = op.2.1 → fld w 57 50 = op.2.2.1 →
    Safety.performs s c k w ext (rCodes op.2.2.2.1 (crw s c k) (Safety.insAt s c k w ext)) = true →
    let i := Safety.insAt s c k w ext
    let src := fun l => sources s i 32 op.2.2.2.2.1 op.2.2.2.1.n l
    ∃ t, Machine.exec (op.1 c k) s = .next t ∧ Safety.onlyCrew s t c k
      ∧ Safety.lanesGive s t i 32 (fun l => (src l).2) (fun l => (op.2.2.2.2.2 (fld w 2 0) (src l).1).1)
      ∧ (clu t c).vecSat = (clu s c).vecSat + ((lanesOf i.lanes).map fun l => (op.2.2.2.2.2 (fld w 2 0) (src l).1).2).sum

/-- `CVT` and `AMAX` (R245 to R250, R254, R256). `CVT` takes the element at position p of `SRCA`'s lane, negated where
`MOD`[5] says so, scales it by 2 to the power of the `INT32` in `SRCB`, converts it by *convert*, and writes the destination's
element at position p; a narrow destination keeps the lane's other bits. Where `MOD`[2] is 1, assay set k of the cluster adds the
elements, saturations, zeros and non-finite values of the lanes, each counter stopping at all ones. `AMAX` writes into every
lane the largest magnitude over the lanes, a NaN with its canonical code. -/
def Obligations.ConversionLaneResults : Prop :=
  (∀ (s : State) (c k w ext : Nat), fld w 63 58 = 0x04 → fld w 57 50 ≠ 0xFF →
    Safety.performs s c k w ext (cvtCodes s (crw s c k) (Safety.insAt s c k w ext)) = true →
    let i := Safety.insAt s c k w ext
    let sw := (cvtWidth (fld w 57 54)).getD 32
    let dw := (cvtWidth (fld w 53 50)).getD 32
    let p := fld w 8 6
    let lane := fun (n l : Nat) => srcLane s i 32 (i.o n) l
    let conv := fun l =>
      let v := cvtValue (fld w 57 54) ((lane 1 l).1 / 2 ^ (p * sw) % 2 ^ sw)
      cvtTo (fld w 53 50) ((if w.testBit 5 then v.neg else v).scale (BitVec.ofNat 32 (lane 2 l).1).toInt)
    let all := ((List.range 32).filter fun l => i.on l).map conv
    ∃ t, Machine.exec (.cvt c k) s = .next t ∧ Safety.onlyCrew s t c k
      ∧ Safety.lanesGive s t i 32
          (fun l => (lane 1 l).2 || (lane 2 l).2 || (dw != 32 && (lane 0 l).2) || (w.testBit 2 && (srcLane s i 64 (i.o 3) l).2))
          (fun l => some (if dw = 32 then (conv l).code % 2 ^ 32
            else (lane 0 l).1 - (lane 0 l).1 / 2 ^ (p * dw) % 2 ^ dw * 2 ^ (p * dw) + (conv l).code % 2 ^ dw * 2 ^ (p * dw)))
      ∧ (∀ n, mget (clu t c).assay n {} =
          if w.testBit 2 = true ∧ assaySet s i = some n then
            let a := mget (clu s c).assay n {}
            let top := fun x => min (2 ^ 64 - 1) x
            { a with elems := top (a.elems + all.length), sat := top (a.sat + all.countP (·.sat)), zeros := top (a.zeros + all.countP (·.zero)),
                     nonfin := top (a.nonfin + all.countP (·.nonfin)) }
          else mget (clu s c).assay n {}))
  ∧ (∀ (s : State) (c k w ext : Nat), fld w 63 58 = 0x04 → fld w 57 50 = 0xFF → fld w 8 0 = 0 →
      Safety.performs s c k w ext (rCodes { n := 1 } (crw s c k) (Safety.insAt s c k w ext)) = true →
      let i := Safety.insAt s c k w ext
      let on := (List.range 32).filter fun l => i.on l
      let lane := fun l => srcLane s i 32 (i.o 1) l
      let top := on.foldl (fun m l => max m ((lane l).1 % 2 ^ 31)) 0
      ∃ t, Machine.exec (.amax c k) s = .next t ∧ Safety.onlyCrew s t c k
        ∧ Safety.lanesGive s t i 32 (fun _ => on.any fun l => (lane l).2) fun _ => some (if 0x7F800000 < top then 0x7FC00000 else top))

/-- Lane exchange, the lane forms, `VREAD` and the scalar class (R133, R136, R566). `XLANE` writes the value of `SRCA` in the
lane that the form and the signed `SRCB` (log 50: read at the operand width) name, a lane's own where that lies outside the lanes.
`LANES` forms one value from a predicate over the lanes. `VREAD` copies lane `SRCB` of a vector register; the scalar class computes
as the integer class does, with 32-bit results zero-extended; both are crew-uniform: skipped where the guard holds in no lane.
Scalar operands `LANEID` and `MSTAT`, shift counts of the width or more and lanes above 31 have no stated result; nothing is claimed
of them. -/
def Obligations.LaneExchangeAndScalarResults : Prop :=
  let bv := fun (w : Nat) (a : List Nat) (n : Nat) => BitVec.ofNat w (a.getD n 0)
  (∀ op ∈ ([(.xlaneIdx, 0x01, fun _ b => b), (.xlaneUp, 0x02, fun l b => l - b), (.xlaneDn, 0x03, fun l b => l + b),
      (.xlaneXor, 0x04, fun l b => (BitVec.ofInt 64 l ^^^ BitVec.ofInt 64 b).toInt)] : List ((Nat → Nat → Instr) × Nat × (Int → Int → Int))),
    ∀ (s : State) (c k w ext : Nat), fld w 63 58 = 0x07 → fld w 57 50 = op.2.1 →
    Safety.performs s c k w ext (rCodes { n := 2, wide := true } (crw s c k) (Safety.insAt s c k w ext)) = true →
    let i := Safety.insAt s c k w ext
    let src := fun n l => source s i i.wd (negInt i.wd) n l
    let at_ := fun (l : Nat) => op.2.2 l (bv i.wd [(src 1 l).1] 0).toInt
    let from_ := fun (l : Nat) => if 0 ≤ at_ l ∧ at_ l < 32 ∧ i.on (at_ l).toNat = true then (at_ l).toNat else l
    ∃ t, Machine.exec (op.1 c k) s = .next t ∧ Safety.onlyCrew s t c k
      ∧ Safety.lanesGive s t i i.wd (fun l => (src 0 (from_ l)).2 || (src 1 l).2) (fun l => some (src 0 (from_ l)).1))
  ∧ (∀ op ∈ ([(.lanesAll, 0x05, .pred, fun on m => b2n (on == m)), (.lanesAny, 0x06, .pred, fun _ m => b2n (m != 0#32)),
      (.lanesMask, 0x07, .vec, fun _ m => m.toNat)] : List ((Nat → Nat → Instr) × Nat × OpKind × (W32 → W32 → Nat))),
    ∀ (s : State) (c k w ext : Nat), fld w 63 58 = 0x07 → fld w 57 50 = op.2.1 →
    Safety.performs s c k w ext (rCodes { n := 1, preds := [0], dst := op.2.2.1 } (crw s c k) (Safety.insAt s c k w ext)) = true →
    let i := Safety.insAt s c k w ext
    let one := fun l => (source s i 32 id 0 l).1 == 1
    ∃ t, Machine.exec (op.1 c k) s = .next t ∧ Safety.onlyCrew s t c k
      ∧ Safety.lanesGive s t i 32 (fun _ => (List.range 32).any fun l => i.on l && (source s i 32 id 0 l).2)
          (fun _ => some (op.2.2.2 i.lanes ((List.range 32).foldl (fun m l => if i.on l && one l then m ||| 1#32 <<< l else m) 0#32))))
  ∧ (∀ (s : State) (c k w ext : Nat), fld w 63 58 = 0x07 → fld w 57 50 = 0x08 →
    Safety.performs s c k w ext (vreadCodes (crw s c k) (Safety.insAt s c k w ext)) = true →
    let i := Safety.insAt s c k w ext
    let b := source s i i.wd (negInt i.wd) 1 0
    let a := source s i i.wd (negInt i.wd) 0 b.1
    i.o 2 ≠ 0x148 → i.o 2 ≠ 0x14E → b.1 < 32 →
    ∃ t, Machine.exec (.vread c k) s = .next t ∧ Safety.onlyCrew s t c k
      ∧ Safety.keepsRegs (crw s c k) (crw t c k) 256 0 (if i.lanes = 0#32 then 64 else i.o 0 - 0x100) 8
      ∧ (i.lanes ≠ 0#32 → mget (crw t c k).s (i.o 0 - 0x100) 0#64 = BitVec.ofNat 64 a.1
          ∧ mget (crw t c k).sPoison (i.o 0 - 0x100) false = (a.2 || b.2)))
  ∧ (∀ op ∈ ([(.sadd, 0x00, 2, fun w a => some (bv w a 0 + bv w a 1).toNat), (.ssub, 0x01, 2, fun w a => some (bv w a 0 - bv w a 1).toNat),
      (.smul, 0x02, 2, fun w a => some (bv w a 0 * bv w a 1).toNat), (.sand, 0x03, 2, fun w a => some (bv w a 0 &&& bv w a 1).toNat),
      (.sor, 0x04, 2, fun w a => some (bv w a 0 ||| bv w a 1).toNat), (.sxor, 0x05, 2, fun w a => some (bv w a 0 ^^^ bv w a 1).toNat),
      (.sshl, 0x06, 2, fun w a => if a.getD 1 0 < w then some (bv w a 0 <<< a.getD 1 0).toNat else none),
      (.sshr, 0x07, 2, fun w a => if a.getD 1 0 < w then some (bv w a 0 >>> a.getD 1 0).toNat else none),
      (.smov, 0x08, 1, fun _ a => some (a.getD 0 0))] : List ((Nat → Nat → Instr) × Nat × Nat × (Nat → List Nat → Option Nat))),
    ∀ (s : State) (c k w ext : Nat), fld w 63 58 = 0x08 → fld w 57 50 = op.2.1 →
    Safety.performs s c k w ext (rCodes { n := op.2.2.1, wide := true, uni := true, dst := .sca } (crw s c k) (Safety.insAt s c k w ext)) = true →
    let i := Safety.insAt s c k w ext
    let a := sources s i i.wd (negInt i.wd) op.2.2.1 0
    (∀ n, n < op.2.2.1 → i.o (n + 1) ≠ 0x148 ∧ i.o (n + 1) ≠ 0x14E) →
    ∃ t, Machine.exec (op.1 c k) s = .next t ∧ Safety.onlyCrew s t c k
      ∧ Safety.keepsRegs (crw s c k) (crw t c k) 256 0 (if i.lanes = 0#32 then 64 else i.o 0 - 0x100) 8
      ∧ (i.lanes ≠ 0#32 → mget (crw t c k).sPoison (i.o 0 - 0x100) false = a.2
          ∧ ∀ v, op.2.2.2 i.wd a.1 = some v → mget (crw t c k).s (i.o 0 - 0x100) 0#64 = BitVec.ofNat 64 v))
  ∧ (∀ (s : State) (c k w ext : Nat) (uns : Bool), fld w 63 58 = 0x08 → fld w 57 50 = (if uns then 0x0B else 0x0A) →
    Safety.performs s c k w ext
      (rCodes { n := 2, wide := true, cond := 5, uni := true, dst := .pred } (crw s c k) (Safety.insAt s c k w ext)) = true →
    let i := Safety.insAt s c k w ext
    let a := sources s i i.wd (negInt i.wd) 2 0
    let lt := fun p q => if uns then (bv i.wd a.1 p).ult (bv i.wd a.1 q) else (bv i.wd a.1 p).slt (bv i.wd a.1 q)
    (∀ n, n < 2 → i.o (n + 1) ≠ 0x148 ∧ i.o (n + 1) ≠ 0x14E) →
    ∃ t, Machine.exec (.scmp c k) s = .next t ∧ Safety.onlyCrew s t c k
      ∧ Safety.keepsRegs (crw s c k) (crw t c k) 256 0 64 (if i.lanes = 0#32 then 8 else i.o 0 - 0x140)
      ∧ (i.lanes ≠ 0#32 → mget (crw t c k).p (i.o 0 - 0x140) 0#32 = (if condition (fld w 2 0) (lt 0 1) (lt 1 0) then 0xFFFFFFFF#32 else 0#32)
          ∧ mget (crw t c k).pPoison (i.o 0 - 0x140) 0#32 = if a.2 then 0xFFFFFFFF#32 else 0#32))

/-- The control class and words that name no instruction (R128, R130, R135, R162, R164, R166, R168). `NOP` and `CMODE` move
past themselves; `CMODE` sets `MREPORT` from `IMM8`[0]; `MSTAT.CLR` clears `MSTAT` in its lanes; `EXIT` ends its lanes, and the
crew when all 32 have ended; where all lanes that are left wait at one barrier, the crew arrives there, after its window stores have
left. `TRAP` raises code 0x0F with `IMM8` in its record, and a word that names no instruction raises 0x01.
Registers keep their values. -/
def Obligations.ControlInstructions : Prop :=
  let codes := fun (s : State) (c k w : Nat) (imm : Nat → Bool) => controlCodes (Safety.insAt s c k w 0) imm
  let regsKept := fun (s t : State) (c k : Nat) => Safety.keepsRegs (crw s c k) (crw t c k) 256 0 64 8
  let past := fun (s t : State) (c k : Nat) => ∀ p, Safety.whole (crw s c k) p →
    (crw t c k).run = some { p with pc := p.pc + 8, wait := none }
  (∀ (s : State) (c k w : Nat), fld w 63 50 = 0 → Safety.performs s c k w 0 (codes s c k w (· == 0)) = true →
    ∃ t, Machine.exec (.nopI c k) s = .next t ∧ Safety.onlyCrew s t c k ∧ regsKept s t c k ∧ past s t c k
      ∧ (crw t c k).mreport = (crw s c k).mreport ∧ (crw t c k).mstat = (crw s c k).mstat ∧ (crw t c k).exited = (crw s c k).exited)
  ∧ (∀ (s : State) (c k w : Nat), fld w 63 50 = 0x03 → Safety.performs s c k w 0 (codes s c k w (· < 2)) = true →
    ∃ t, Machine.exec (.cmode c k) s = .next t ∧ Safety.onlyCrew s t c k ∧ regsKept s t c k ∧ past s t c k
      ∧ (crw t c k).mreport = (if (Safety.insAt s c k w 0).lanes = 0#32 then (crw s c k).mreport else w.testBit 8)
      ∧ (crw t c k).mstat = (crw s c k).mstat)
  ∧ (∀ (s : State) (c k w : Nat), fld w 63 50 = 0x04 → Safety.performs s c k w 0 (codes s c k w (· == 0)) = true →
    ∃ t, Machine.exec (.mstatClr c k) s = .next t ∧ Safety.onlyCrew s t c k ∧ regsKept s t c k ∧ past s t c k
      ∧ (∀ l, l < 32 → mget (crw t c k).mstat l 0#32 = if (Safety.insAt s c k w 0).on l then 0#32 else mget (crw s c k).mstat l 0#32)
      ∧ (crw t c k).mreport = (crw s c k).mreport)
  ∧ (∀ (s : State) (c k w : Nat), fld w 63 50 = 0x01 → Safety.performs s c k w 0 (codes s c k w (· == 0)) = true →
    let lanes := (Safety.insAt s c k w 0).lanes
    let gone := (crw s c k).exited ||| lanes
    let there := (crw s c k).atBarrier.foldl (fun m q => m ||| q.mask) 0#32
    ((crw s c k).atBarrier ≠ [] → unsent s c k = true → Machine.exec (.exitI c k) s = .next s)
    ∧ (∀ (q : Path) (b n : Nat), (crw s c k).atBarrier = [q] → unsent s c k = false → q.mask = ~~~gone → q.mask ≠ 0#32 → b < 16 → 1 < n → n < 256 →
        q.bar = some (b + 16 * (n + 256)) → (mget (clu s c).barriers b {}).count = 0 → (crw s c k).mreport = false →
      ∃ t, Machine.exec (.exitI c k) s = .next t ∧ regsKept s t c k ∧ (crw t c k).exited = gone ∧ (crw t c k).hold = .barrier b
        ∧ (let y := mget (clu t c).barriers b {}; y.n = n ∧ y.count = 1 ∧ y.held = [k]))
    ∧ ((crw s c k).atBarrier = [] ∨ (unsent s c k = false ∧ gone ||| there ≠ 0xFFFFFFFF#32) →
      ∃ t, Machine.exec (.exitI c k) s = .next t ∧ Safety.onlyCrew s t c k ∧ regsKept s t c k ∧ (crw t c k).exited = gone
      ∧ (lanes ≠ 0#32 → gone = 0xFFFFFFFF#32 → (crw t c k).hold = .ended ∧ (crw t c k).run = none ∧ (crw t c k).pending = [])
      ∧ (gone ≠ 0xFFFFFFFF#32 → ∀ p, Safety.whole (crw s c k) p → p.mask &&& ~~~lanes ≠ 0#32 →
          (crw t c k).run = some { p with mask := p.mask &&& ~~~lanes, pc := p.pc + 8 })))
  ∧ (∀ (s : State) (c k w : Nat), fld w 63 50 = 0x02 →
      Safety.performs s c k w 0 (codes s c k w fun _ => true) = true →
    let i := Safety.insAt s c k w 0
    (i.lanes = 0#32 → ∃ t, Machine.exec (.trap c k) s = .next t ∧ Safety.onlyCrew s t c k ∧ regsKept s t c k ∧ past s t c k)
    ∧ (i.lanes ≠ 0#32 → ∃ t, Machine.exec (.trap c k) s = .next t
      ∧ Safety.raised s t c k i.pc (BitVec.ofNat 64 w) { code := 0x0F, lanes := i.lanes, detail := fld w 15 8 }))
  ∧ (∀ (s : State) (c k w : Nat) (p : Path), known (fld w 63 58) (fld w 57 50) = false →
      mayIssue s c k = true → (crw s c k).run = some p → waits s p.pc = false → fetch s c k p.pc = (0, w) →
    ∃ t, Machine.exec (.illegalInstr c k) s = .next t ∧ Safety.raised s t c k p.pc (BitVec.ofNat 64 w) { code := 0x01, lanes := p.mask })

/-- Branches (R102, R103, R105, R160, R161). A `BRA` whose lanes agree branches or falls through as one path; one whose lanes
disagree splits: the fall-through path runs and the taken path is pending, both inside a divergence that names the reconvergence
point; a path that is already there waits, and where both are, they merge at once. `CALL` saves the address after itself, `CALL`,
`BRX` and `RET` go to their target; a target that is not a multiple of 8 raises 0x05, and poison in `LINK` 0x09. `off` is the signed offset in
8 B words from the branch. Registers but `LINK` of a `CALL` keep their values. Where the paths go is said of a crew that runs as one path. -/
def Obligations.BranchesAndDivergence : Prop :=
  let at_ := fun (pc f : Nat) => (((pc : Int) + 8 * (BitVec.ofNat 18 f).toInt) % 2 ^ 64).toNat
  let regsKept := fun (s t : State) (c k : Nat) => Safety.keepsRegs (crw s c k) (crw t c k) 256 0 64 8
  let went := fun (s t : State) (c k : Nat) (p : Path) (pc : Nat) (back : Bool) => Safety.whole (crw s c k) p →
    (crw t c k).run = some { p with pc, wait := none, count := if back then p.count + 1 else p.count }
  let jump := fun (x : Nat → Nat → Instr) (minor : Nat) => ∀ (s : State) (c k w : Nat) (p : Path), fld w 63 58 = 0x20 → fld w 57 50 = minor →
      (crw s c k).run = some p →
    let i := Safety.insAt s c k w 0
    let v := srcLane s i 64 (fld w 8 0) 0
    Safety.performs s c k w 0 (linkCodes i true) = true →
    (v.1 % 8 = 0 → v.2 = false → i.lanes ≠ 0#32 →
      ∃ t, Machine.exec (x c k) s = .next t ∧ Safety.onlyCrew s t c k ∧ regsKept s t c k ∧ went s t c k p v.1 (decide (v.1 ≤ p.pc)))
    ∧ (i.lanes = 0#32 → ∃ t, Machine.exec (x c k) s = .next t ∧ Safety.onlyCrew s t c k ∧ regsKept s t c k ∧ went s t c k p (p.pc + 8) false)
    ∧ (v.1 % 8 ≠ 0 → i.lanes ≠ 0#32 → ∃ t, Machine.exec (x c k) s = .next t
      ∧ Safety.raised s t c k p.pc (BitVec.ofNat 64 w) { code := 0x05, lanes := i.lanes, addr := v.1 })
    ∧ (v.1 % 8 = 0 → v.2 = true → i.lanes ≠ 0#32 → ∃ t, Machine.exec (x c k) s = .next t
      ∧ Safety.raised s t c k p.pc (BitVec.ofNat 64 w) { code := 0x09, lanes := i.lanes })
  (∀ (s : State) (c k w : Nat) (p : Path), fld w 63 58 = 0x20 → fld w 57 50 = 0x01 → (crw s c k).run = some p →
    let i := Safety.insAt s c k w 0
    let target := at_ p.pc (fld w 44 27)
    let join := at_ p.pc (fld w 26 9)
    let rest := p.mask &&& ~~~i.lanes
    let d := (crw s c k).nextDiv
    Safety.performs s c k w 0 (braCodes i) = true → i.lanes = 0#32 ∨ i.lanes = p.mask ∨ p.divs.length < 32 →
    ∃ t, Machine.exec (.bra c k) s = .next t ∧ Safety.onlyCrew s t c k ∧ regsKept s t c k
      ∧ (i.lanes = 0#32 → went s t c k p (p.pc + 8) false)
      ∧ (i.lanes ≠ 0#32 → i.lanes = p.mask → went s t c k p target (decide ((BitVec.ofNat 18 (fld w 44 27)).toInt ≤ 0)))
      ∧ (Safety.whole (crw s c k) p → i.lanes ≠ 0#32 → rest ≠ 0#32 →
          (join ≠ p.pc + 8 →
            (crw t c k).run = some { mask := rest, pc := p.pc + 8, divs := [d], age := p.age, bar := p.bar }
            ∧ (crw t c k).pending = [{ mask := i.lanes, pc := target, divs := [d], age := (crw s c k).nextAge }]
            ∧ (crw t c k).divs = [{ id := d, reconv := join, lanes := p.mask }])
          ∧ (join = p.pc + 8 → target ≠ join → p.mask &&& (crw s c k).exited = 0#32 →
            (crw t c k).run = some { mask := i.lanes, pc := target, divs := [d], age := (crw s c k).nextAge } ∧ (crw t c k).pending = []
            ∧ (crw t c k).atReconv = [{ mask := rest, pc := join, divs := [d], age := p.age, bar := p.bar }])
          ∧ (join = p.pc + 8 → target = join → p.mask &&& (crw s c k).exited = 0#32 →
            (crw t c k).run.map (fun q => (q.mask, q.pc, q.divs)) = some (p.mask, join, []) ∧ (crw t c k).divs = []
            ∧ (crw t c k).atReconv = [])))
  ∧ jump .brx 0x02 ∧ jump .retI 0x04
  ∧ (∀ (s : State) (c k w : Nat) (p : Path), fld w 63 58 = 0x20 → fld w 57 50 = 0x03 → (crw s c k).run = some p →
    let i := Safety.insAt s c k w 0
    Safety.performs s c k w 0 (linkCodes i false) = true →
    (i.lanes = 0#32 → ∃ t, Machine.exec (.callI c k) s = .next t ∧ Safety.onlyCrew s t c k ∧ regsKept s t c k ∧ went s t c k p (p.pc + 8) false)
    ∧ (i.lanes ≠ 0#32 → ∃ t, Machine.exec (.callI c k) s = .next t ∧ Safety.onlyCrew s t c k
      ∧ Safety.keepsRegs (crw s c k) (crw t c k) 256 0 (fld w 8 0 - 0x100) 8
      ∧ mget (crw t c k).s (fld w 8 0 - 0x100) 0#64 = BitVec.ofNat 64 (p.pc + 8)
      ∧ mget (crw t c k).sPoison (fld w 8 0 - 0x100) false = false
      ∧ went s t c k p (at_ p.pc (fld w 44 27)) (decide ((BitVec.ofNat 18 (fld w 44 27)).toInt ≤ 0))))

/-- Barriers, and the start and end of crews (R96, R97, R122 to R125, R162, R163, R272). An arrival counts; `BAR.SYNC` holds
the crew, `BAR.ARRIVE` lets it go on; the n-th arrival frees every held crew and begins a phase with count 0; an arrival with
another n raises 0x0C; a fault that `MSTAT` shows holds the arrival back, and the crew goes on (R383). A crew with lanes on other paths waits for them, and one whose window stores have not left waits before it arrives. A phase that is not complete in `BARRIER_TIMEOUT` stops the
kernels of the held crews. A crew starts with all lanes at the launch's code address and s0 to s7 of Table 13.7; it leaves its slot
when its lanes have ended and its counters are 0. -/
def Obligations.BarriersAndCrewLife : Prop :=
  let arrive := fun (x : Nat → Nat → Instr) (minor : Nat) (sync : Bool) => ∀ (s : State) (c k w : Nat) (p : Path),
      fld w 63 58 = 0x21 → fld w 57 50 = minor → (crw s c k).run = some p → (mfind (clu s c).crews k).isSome = true →
    let i := Safety.insAt s c k w 0
    let b := fld w 11 8
    let n := (srcLane s i 64 (i.o 0) 0).1
    let br := mget (clu s c).barriers b {}
    let before := if br.count = 0 then [] else br.held
    Safety.performs s c k w 0 (barrierCodes s (crw s c k) i) = true →
    (unsent s c k = true → Machine.exec (x c k) s = .next s)
    ∧ (unsent s c k = false → Safety.whole (crw s c k) p → p.mask = ~~~(crw s c k).exited → p.mask ≠ 0#32 → (crw s c k).mreport = false → br.count < n →
        br.count = 0 ∨ br.n = n →
      ∃ t, Machine.exec (x c k) s = .next t ∧ Safety.keepsRegs (crw s c k) (crw t c k) 256 0 64 8 ∧ t.mem = s.mem
        ∧ (br.count + 1 < n →
            (let y := mget (clu t c).barriers b {}
             y.n = n ∧ y.count = br.count + 1 ∧ y.held = before ++ (if sync then [k] else [])
              ∧ y.since = if br.count = 0 then s.pace.now else br.since)
            ∧ (crw t c k).hold = (if sync then .barrier b else .none)
            ∧ (sync = false → ((crw t c k).run.map fun q => (q.mask, q.pc)) = some (p.mask, p.pc + 8)))
        ∧ (br.count + 1 = n → mget (clu t c).barriers b {} = {}
            ∧ (∀ j ∈ before ++ [k], (mfind (clu s c).crews j).isSome = true → (crw t c j).hold = .none)
            ∧ (k ∉ before → ((crw t c k).run.map fun q => (q.mask, q.pc)) = some (p.mask, p.pc + 8))))
    ∧ (unsent s c k = false → Safety.whole (crw s c k) p → p.mask = ~~~(crw s c k).exited → p.mask ≠ 0#32 → (crw s c k).mreport = false →
        br.count ≠ 0 → br.n ≠ n →
      ∃ t, Machine.exec (x c k) s = .next t
        ∧ Safety.raised s t c k p.pc (BitVec.ofNat 64 w) { code := 0x0C, lanes := p.mask, detail := br.n * 256 + n })
    ∧ (∀ st, unsent s c k = false → Safety.whole (crw s c k) p → p.mask = ~~~(crw s c k).exited → p.mask ≠ 0#32 → (crw s c k).mreport = true →
        (crw s c k).shown = some st →
      ∃ t, Machine.exec (x c k) s = .next t ∧ (clu t c).barriers = (clu s c).barriers ∧ (crw t c k).hold = .none
        ∧ ((crw t c k).run.map fun q => (q.mask, q.pc)) = some (p.mask, p.pc + 8)
        ∧ ∀ l, l < 32 → p.mask.getLsbD l = true → (mget (crw t c k).mstat l 0#32).toNat / 65536 = min 0xFFFF ((mget (crw s c k).mstat l 0#32).toNat / 65536 + 1))
    ∧ (unsent s c k = false → (crw s c k).atBarrier = [] → p.mask &&& (~~~(crw s c k).exited) ≠ ~~~(crw s c k).exited →
      ∃ t, Machine.exec (x c k) s = .next t ∧ (clu t c).barriers = (clu s c).barriers ∧ (crw t c k).hold = .none
        ∧ ((crw t c k).atBarrier.map fun q => (q.mask, q.pc)) = [(p.mask, p.pc)])
  arrive .barSync 0x00 true ∧ arrive .barArrive 0x01 false
  ∧ (∀ (s : State) (c b now : Nat), (clu s c).barTimeout ≠ 0 → (mget (clu s c).barriers b {}).count ≠ 0 →
      elapsedMs (clock s now) (mget (clu s c).barriers b {}).since (clu s c).barTimeout = true →
    ∃ t, Machine.exec (.barTimeout c b now) s = .next t
      ∧ ∀ j ∈ (mget (clu s c).barriers b {}).held, j < 128 → (krn s (crw s c j).kernel).mode ≠ .ended → (krn t (crw s c j).kernel).contained = true)
  ∧ (∀ (s : State) (k c i slot : Nat), (krn s k).mode = .running → (krn s k).contained = false → c ∈ (krn s k).clusters →
      i < (krn s k).crews → c * 128 + i ∉ (krn s k).admitted → admitSlot (clu s c) i (krn s k).vregs = some slot →
    ∃ t, Machine.exec (.crewAdmit k c i) s = .next t ∧ t = { s with clusters := t.clusters, kernels := t.kernels }
      ∧ (∀ j, j ≠ slot → mfind (clu t c).crews j = mfind (clu s c).crews j)
      ∧ (crw t c slot).kernel = k ∧ (crw t c slot).index = i ∧ (crw t c slot).vcount = (krn s k).vregs
      ∧ (crw t c slot).run = some { mask := 0xFFFFFFFF#32, pc := (krn s k).fld 1 47 0 } ∧ (crw t c slot).mreport = false
      ∧ (∀ r l, (crw t c slot).vLane r l = 0) ∧ (∀ r, 8 ≤ r → mget (crw t c slot).s r 0#64 = 0#64)
      ∧ mget (crw t c slot).s 0 0#64 = BitVec.ofNat 64 (cw (krn s k).words 2)
      ∧ mget (crw t c slot).s 2 0#64 = BitVec.ofNat 64 ((krn s k).crews * 2 ^ 32 + i)
      ∧ mget (crw t c slot).s 5 0#64 = BitVec.ofNat 64 (mget (krn s k).startsOn c 0)
      ∧ mget (crw t c slot).s 7 0#64 = BitVec.ofNat 64 (cw (krn s k).words 7)
      ∧ (krn t k).admitted = (krn s k).admitted ++ [c * 128 + i])
  ∧ (∀ (s : State) (c k : Nat) (x : Crew), mfind (clu s c).crews k = some x → x.hold = .ended → (∀ q, q < 4 → mget x.q q 0 = 0) →
    ∃ t, Machine.exec (.crewRelease c k) s = .next t ∧ mfind (clu t c).crews k = none ∧ t.mem = s.mem
      ∧ ∀ j, j ≠ k → mfind (clu t c).crews j = mfind (clu s c).crews j)

/-- `LD`, `LDS` and `ST` to the module's memory (R115, R137, R139, R142, R143, R145, R165, R166, R379, R380, R383). Where no line of the
cluster's L1 is stale and nothing is poisoned, a load's lanes get the little-endian bytes at their addresses, zero- or sign-extended,
and memory stays; `LD.ACQ` at CLUSTER scope or wider empties the L1. A store puts each lane's bytes at its address, the highest lane's
where lanes overlap, and every other byte stays. A lane that fails its checks touches nothing: with `MREPORT` 0 the first raises
`MEM_FAULT`, with `MREPORT` 1 the lane's `MSTAT` records it and a loaded lane gets 0. A release that a recorded fault holds back stores
nothing. A wrong bit found in a word that a load reads, in shared local memory or in a line of the L1, and two in such a line, are
mended before the load, CORRECTED and counted (R111, R115). -/
def Obligations.LoadsAndStores : Prop :=
  let lane := fun (s : State) (i : Ins) (k : XKind) (l : Nat) => laneAt s i k l
  let mine := fun (s : State) (i : Ins) (k : XKind) => i.acting ≠ [] ∧ ∀ l ∈ i.acting,
    (laneAt s i k l).node = none ∧ (laneAt s i k l).st = 0 ∧ localMemory s (laneAt s i k l).addr = true
  let past := fun (s t : State) (i : Ins) => ∀ p, Safety.whole (crw s i.c i.slot) p →
    (crw t i.c i.slot).run = some { p with pc := p.pc + 8 * i.len, wait := none }
  (∀ op ∈ ([(.ld, 0, false), ((.lds · · ·), 3, true)] : List ((Nat → Nat → List (Nat × Nat) → Instr) × Nat × Bool)),
      ∀ (s : State) (c k w ext : Nat) (errs : List (Nat × Nat)), (∀ e ∈ errs, e.2 ≤ 1 ∨ (e.2 = 2 ∧ inSlm (8 * e.1) = false)) → fld w 63 58 = 0x10 → fld w 53 50 = op.2.1 →
      let i := Safety.insAt s c k w ext
      Safety.performs s c k w ext (memCodes (crw s c k) i) = true → memExcs s i = [] → Safety.calm s → s.poison = [] →
      (∀ x ∈ (clu s c).l1, x.data = readMem s (128 * x.line) 128 ∧ x.poison = []) → mine s i .load →
      let wd := if opKind (i.o 0) = .sca then 64 else max 32 (8 * i.size)
      ∃ t, Machine.exec (op.1 c k errs) s = .next t ∧ Safety.sameBytes s t ∧ past s t i
        ∧ (∀ e, errs = [e] → (∃ l ∈ i.acting, (lane s i .load l).addr / 8 ≤ e.1 ∧ e.1 ≤ ((lane s i .load l).addr + i.size - 1) / 8) →
            (inSlm (8 * e.1) = false → (l1Find (clu s c) (8 * e.1)).isSome = true → 0 < e.2 →
              mget t.pit.corrected (68 + c) 0 = mget s.pit.corrected (68 + c) 0 + 1)
            ∧ ∀ d, home s (8 * e.1) = .slm d → e.2 = 1 → mget t.pit.corrected (68 + d) 0 = mget s.pit.corrected (68 + d) 0 + 1)
        ∧ Safety.keepsOthers (crw s c k) (crw t c k) wd (i.o 0)
        ∧ (i.scalar = false → ∀ l, l < 32 → l ∉ i.acting → srcLane t i wd (i.o 0) l = srcLane s i wd (i.o 0) l)
        ∧ (∀ l ∈ i.acting, srcLane t i wd (i.o 0) l =
            (let v := readNat s (lane s i .load l).addr i.size
             if op.2.2 then ((BitVec.ofNat (8 * i.size) v).signExtend wd).toNat else v, false))
        ∧ (i.ord = 1 → i.scope ≠ 0 → (clu t c).l1 = []))
  ∧ (∀ (s : State) (c k w ext : Nat), fld w 63 58 = 0x10 → fld w 53 50 = 1 →
      let i := Safety.insAt s c k w ext
      Safety.performs s c k w ext (memCodes (crw s c k) i) = true → memExcs s i = [] → Safety.calm s → mine s i .store →
      (i.ord = 2 ∨ w.testBit 0 = true → Safety.quiet s c k) →
      let a := fun l => (lane s i .store l).addr
      ∃ t, Machine.exec (.st c k) s = .next t ∧ past s t i ∧ Safety.keepsRegs (crw s c k) (crw t c k) 256 0 64 8
        ∧ (∀ l ∈ i.acting, (∀ m ∈ i.acting, l < m → a m + i.size ≤ a l ∨ a l + i.size ≤ a m) →
            readNat t (a l) i.size = (srcLane s i (max 32 (8 * i.size)) (i.o 0) l).1 % 256 ^ i.size)
        ∧ ∀ b, (∀ l ∈ i.acting, b < a l ∨ a l + i.size ≤ b) → readMem t b 1 = readMem s b 1)
  ∧ (∀ op ∈ ([(fun c k => .ld c k [], 0, .load), (fun c k => .lds c k [], 3, .load), (.st, 1, .store)] : List ((Nat → Nat → Instr) × Nat × XKind)), ∀ (s : State) (c k w ext : Nat),
      fld w 63 58 = 0x10 → fld w 53 50 = op.2.1 →
      let i := Safety.insAt s c k w ext
      Safety.performs s c k w ext (memCodes (crw s c k) i) = true → memExcs s i = [] → i.scalar = false →
      i.ord = 0 → fld w 1 0 = 0 → i.acting ≠ [] → (∀ l ∈ i.acting, (lane s i op.2.2 l).node = none ∧ (lane s i op.2.2 l).st ≠ 0
        ∧ (lane s i op.2.2 l).st ≠ 8) →
      ∃ t, Machine.exec (op.1 c k) s = .next t
        ∧ ((crw s c k).mreport = false → Safety.raised s t c k i.pc (BitVec.ofNat 64 w)
            { code := 8, lanes := i.lanes, addr := (lane s i op.2.2 (i.acting.headD 0)).raw, status := (lane s i op.2.2 (i.acting.headD 0)).st })
        ∧ ((crw s c k).mreport = true → Safety.sameBytes s t ∧ past s t i
          ∧ ∀ l ∈ i.acting, (op.2.2 = .load → srcLane t i (max 32 (8 * i.size)) (i.o 0) l = (0, false))
            ∧ (mget (crw s c k).mstat l 0#32 = 0#32 → (lane s i op.2.2 l).st < 65536 →
                mget (crw t c k).mstat l 0#32 = BitVec.ofNat 32 (65536 + (lane s i op.2.2 l).st))))
  ∧ (∀ (s : State) (c k w ext st : Nat), fld w 63 58 = 0x10 → fld w 53 50 = 1 →
      let i := Safety.insAt s c k w ext
      Safety.performs s c k w ext (memCodes (crw s c k) i) = true → memExcs s i = [] → i.ord = 2 → i.acting ≠ [] →
      (hf s (cluTower c)).runs = [] → (hf s (cluTower c)).stores = [] → (hf s (cluTower c)).failures = [] → s.requests = [] → (∀ h ∈ s.headframes, h.2.waiting = []) →
      (crw s c k).mreport = true → (crw s c k).shown = some st →
      ∃ t, Machine.exec (.st c k) s = .next t ∧ Safety.sameBytes s t ∧ past s t i
        ∧ ∀ l ∈ i.acting, (mget (crw t c k).mstat l 0#32).toNat % 65536 ≠ 0 ∨ st % 65536 = 0)

/-- Atomics and `WAIT` on the module's memory (R117, R118, R120, R146, R147, R149, R380). The lanes of an atomic that name one
address are applied to it in lane order as one operation; with `RET` each lane gets the value it found; every other byte stays, and the
L1's copies of the lines go. A `WAIT` whose every lane's condition holds lets the path go on, with the acquire of `.ACQ`; otherwise the path
stays, waiting for the other lanes, and the poll counts as a taken backward branch. A wrong bit found in a word of shared local memory is mended first (R111). -/
def Obligations.AtomicsAndWaits : Prop :=
  let ops : List ((Nat → Nat → List (Nat × Nat) → Instr) × Nat × (Nat → Nat → Nat → Nat → Nat)) := [
    ((.atomAdd · · ·), 0x4, fun n v x _ => (BitVec.ofNat n v + BitVec.ofNat n x).toNat),
    ((.atomMinS · · ·), 0x5, fun n v x _ => if (BitVec.ofNat n x).slt (BitVec.ofNat n v) then x else v),
    ((.atomMinU · · ·), 0x6, fun _ v x _ => min v x),
    ((.atomMaxS · · ·), 0x7, fun n v x _ => if (BitVec.ofNat n v).slt (BitVec.ofNat n x) then x else v),
    ((.atomMaxU · · ·), 0x8, fun _ v x _ => max v x),
    ((.atomAnd · · ·), 0x9, fun _ v x _ => v &&& x), ((.atomOr · · ·), 0xA, fun _ v x _ => v ||| x), ((.atomXor · · ·), 0xB, fun _ v x _ => v ^^^ x),
    ((.atomFadd · · ·), 0xC, fun _ v x _ => (f32.convert ((f32.decode v).add (f32.decode x))).code),
    ((.atomSwap · · ·), 0xD, fun _ _ x _ => x), ((.atomCas · · ·), 0xE, fun _ v x y => if v = x then y else v)]
  let mine := fun (s : State) (i : Ins) (k : XKind) (ls : List Nat) => ls ≠ [] ∧ ∀ l ∈ ls,
    (laneAt s i k l).node = none ∧ (laneAt s i k l).st = 0 ∧ localMemory s (laneAt s i k l).addr = true
  let past := fun (s t : State) (i : Ins) => ∀ p, Safety.whole (crw s i.c i.slot) p →
    (crw t i.c i.slot).run = some { p with pc := p.pc + 8 * i.len, wait := none }
  let meets := fun (cond n v o : Nat) => [v == o, v != o, decide (o ≤ v), decide (v < o), decide ((BitVec.ofNat n o).sle (BitVec.ofNat n v)),
    decide ((BitVec.ofNat n v).slt (BitVec.ofNat n o)), v &&& o != 0, v &&& o == o].getD cond false
  (∀ op ∈ ops, ∀ (s : State) (c k w ext : Nat) (errs : List (Nat × Nat)), (∀ e ∈ errs, e.2 ≤ 1) → fld w 63 58 = 0x10 → fld w 53 50 = op.2.1 →
      let i := Safety.insAt s c k w ext
      Safety.performs s c k w ext (memCodes (crw s c k) i) = true → memExcs s i = [] → Safety.calm s → s.poison = [] →
      mine s i (.atom i.op i.ret) i.acting → (∀ l ∈ i.acting, (atomOperand s i l).2.2 = false) → (2 ≤ i.ord → Safety.quiet s c k) →
      let a := fun l => (laneAt s i (.atom i.op i.ret) l).addr
      let upto := fun (ls : List Nat) (old : Nat) => ls.foldl (fun v l => op.2.2 (8 * i.size) v (atomOperand s i l).1 (atomOperand s i l).2.1) old
      ∃ t, Machine.exec (op.1 c k errs) s = .next t ∧ past s t i
        ∧ (∀ l ∈ i.acting, readNat t (a l) i.size = upto (i.acting.filter fun m => a m == a l) (readNat s (a l) i.size))
        ∧ (∀ b, (∀ l ∈ i.acting, b < a l ∨ a l + i.size ≤ b) → readMem t b 1 = readMem s b 1)
        ∧ (i.ret = false → Safety.keepsRegs (crw s c k) (crw t c k) 256 0 64 8)
        ∧ (i.ret = true → Safety.keepsOthers (crw s c k) (crw t c k) (max 32 (8 * i.size)) (i.o 0)
          ∧ (∀ l, l < 32 → l ∉ i.acting → srcLane t i (max 32 (8 * i.size)) (i.o 0) l = srcLane s i (max 32 (8 * i.size)) (i.o 0) l)
          ∧ ∀ l ∈ i.acting, srcLane t i (max 32 (8 * i.size)) (i.o 0) l =
              (upto (i.acting.filter fun m => decide (m < l) && a m == a l) (readNat s (a l) i.size), false))
        ∧ (∀ x ∈ (clu t c).l1, ∀ l ∈ i.acting, x.line ≠ a l / 128)
        ∧ (i.ord = 1 ∨ i.ord = 3 → i.scope ≠ 0 → (clu t c).l1 = []))
  ∧ (∀ op ∈ ([((.waitI · · ·), false), ((.waitPoll · · ·), true)] : List ((Nat → Nat → List (Nat × Nat) → Instr) × Bool)),
      ∀ (s : State) (c k w ext : Nat) (p : Path) (left : W32) (errs : List (Nat × Nat)), (∀ e ∈ errs, e.2 ≤ 1) → fld w 63 58 = 0x10 → fld w 53 50 = 2 → Safety.whole (crw s c k) p →
      let i := Safety.insAt s c k w ext
      (if op.2 then p.wait = some left else p.wait = none ∧ left = i.lanes ∧ left ≠ 0#32) →
      let ls := lanesOf left
      Safety.performs s c k w ext (memCodes (crw s c k) i) = true → memExcs s i = [] → Safety.calm s → s.poison = [] → mine s i .load ls →
      s.requests = [] → (∀ h ∈ s.headframes, h.2.waiting = []) →
      let ok := fun l => meets (i.o 0) (8 * i.size) (readNat s (laneAt s i .load l).addr i.size) (srcLane s i (8 * i.size) (i.o 3) l).1
      ∃ t, Machine.exec (op.1 c k errs) s = .next t ∧ Safety.sameBytes s t ∧ Safety.keepsRegs (crw s c k) (crw t c k) 256 0 64 8
        ∧ ((∀ l ∈ ls, ok l = true) → (crw t c k).run = some { p with pc := p.pc + 8 * i.len, wait := none }
            ∧ (i.ord = 1 → i.scope ≠ 0 → (clu t c).l1 = []))
        ∧ ((∃ l ∈ ls, ok l = false) → ((crw t c k).run.map fun q => (q.mask, q.pc, q.count)) = some (p.mask, p.pc, p.count + 1)
            ∧ ∀ l, l < 32 → (((crw t c k).run.bind (·.wait)).getD 0#32).getLsbD l = (left.getLsbD l && !ok l)))

/-- Fences, the transposing load unit and `DMA.ISSUE` (R148, R154, R155, R158, R159, R379 to R381, R384). An acquire at CLUSTER
scope or wider empties the cluster's L1; one of a range drops the lines that overlap it, and empties the cache above 2,048 lines; a release
with nothing to wait for goes on. `TLD` queues its tile and counts it; when it completes, element (r, c) of the source is element (c, r) of the
destination in the cluster's shared local memory, nothing else changes, and its counter drops. `DMA.ISSUE` hands its descriptor to the engine it names, or one of the tower's with room, waits where none has
room, and raises `DMA_REFUSED` (0x0B) where none is enabled. Each is skipped where its guard holds in no lane (R130). -/
def Obligations.FencesTransposesAndHandovers : Prop :=
  let past := fun (s t : State) (i : Ins) => ∀ p, Safety.whole (crw s i.c i.slot) p →
    (crw t i.c i.slot).run = some { p with pc := p.pc + 8 * i.len, wait := none }
  let nib := fun (s : State) (a k : Nat) => readNat s (a + k / 2) 1 / 16 ^ (k % 2) % 16
  (∀ op ∈ ([(.fence, 0, true, true), (.fenceAcq, 1, true, false), (.fenceRel, 2, false, true), (.fenceAcqRange, 3, true, false)] :
      List ((Nat → Nat → Instr) × Nat × Bool × Bool)), ∀ (s : State) (c k w ext : Nat), fld w 63 58 = 0x11 → fld w 57 50 = op.2.1 →
      let i := Safety.insAt s c k w ext
      let a := srcLane s i 64 (i.o 1) 0
      let n := (srcLane s i 64 (i.o 3) 0).1
      let lo := a.1 % 2 ^ 48
      let lines := (lo + n - 1) / 128 - lo / 128 + 1
      let none_ := i.scope = 0 ∨ op.2.2.1 = false ∨ (op.2.1 = 3 ∧ (n = 0 ∨ (farNode s a.1).isSome = true))
      Safety.performs s c k w ext (fenceCodes i) = true →
      (i.lanes = 0#32 → ∃ t, Machine.exec (op.1 c k) s = .next t ∧ Safety.onlyCrew s t c k ∧ past s t i)
      ∧ (i.lanes ≠ 0#32 → op.2.1 = 3 → badForm a.1 = true → ∃ t, Machine.exec (op.1 c k) s = .next t
        ∧ Safety.raised s t c k i.pc (BitVec.ofNat 64 w) { code := 0x06, lanes := i.active, addr := a.1 })
      ∧ (i.lanes ≠ 0#32 → (op.2.2.2 = true → Safety.quiet s c k) → (op.2.1 = 3 → a.2 = false ∧ badForm a.1 = false) →
      ∃ t, Machine.exec (op.1 c k) s = .next t ∧ Safety.sameBytes s t ∧ past s t i ∧ Safety.keepsRegs (crw s c k) (crw t c k) 256 0 64 8
        ∧ (none_ → (clu t c).l1 = (clu s c).l1)
        ∧ (¬ none_ → op.2.1 ≠ 3 ∨ 2048 < lines → (clu t c).l1 = [] ∧ (clu t c).acqFlushes = (clu s c).acqFlushes + 1)
        ∧ (¬ none_ → op.2.1 = 3 → lines ≤ 2048 →
            (clu t c).l1 = (clu s c).l1.filter (fun x => decide (x.line < lo / 128) || decide ((lo + n - 1) / 128 < x.line))
            ∧ (clu t c).rangeLines = (clu s c).rangeLines + ((clu s c).l1.length - (clu t c).l1.length))))
  ∧ (∀ (s : State) (c k w : Nat), fld w 63 58 = 0x12 → fld w 57 50 = 0 →
      let i := Safety.insAt s c k w 0
      let v := fun n => (srcLane s i 64 (i.o n) 0).1
      let q := fld w 17 16
      Safety.performs s c k w 0 (tldCodes i) = true →
      (i.lanes = 0#32 → ∃ t, Machine.exec (.tld c k) s = .next t ∧ Safety.onlyCrew s t c k ∧ past s t i)
      ∧ (∀ e, i.lanes ≠ 0#32 → tldExcs s i = [e] → ∃ t, Machine.exec (.tld c k) s = .next t ∧ Safety.raised s t c k i.pc (BitVec.ofNat 64 w) e)
      ∧ (tldExcs s i = [] → i.lanes ≠ 0#32 → mget (crw s c k).q q 0 = 255 → Machine.exec (.tld c k) s = .next s)
      ∧ (tldExcs s i = [] → i.lanes ≠ 0#32 → mget (crw s c k).q q 0 < 255 →
      ∃ t, Machine.exec (.tld c k) s = .next t ∧ t.mem = s.mem ∧ past s t i ∧ mget (crw t c k).q q 0 = mget (crw s c k).q q 0 + 1
        ∧ ∃ j : TldJob, (clu t c).tlds = (clu s c).tlds ++ [j] ∧ j.slot = k ∧ j.q = q ∧ j.dst = v 0 ∧ j.src = BitVec.ofNat 64 (v 1)
          ∧ j.rows = v 2 / 2 ^ 40 % 256 + 1 ∧ j.stride = v 2 % 2 ^ 40 ∧ j.pitch = v 2 / 2 ^ 48 ∧ j.esize = fld w 10 8 ∧ j.begun = false))
  ∧ (∀ (s : State) (c : Nat) (j : TldJob) (more : List TldJob) (errs : List (Nat × Nat)), (∀ e ∈ errs, e.2 ≤ 1) → (clu s c).tlds = j :: more → alive s = true → Safety.calm s → s.poison = [] →
      j.left = [] → j.lines = [] → farNode s j.src.toNat = none → j.beyond ≤ 2 ^ 20 → j.rowBytes ≤ j.pitch → 0 < j.rows →
      (∀ p ∈ j.pieces, accessStatus s (j.iss s c) .load p.1 p.2 = 0 ∧ localMemory s p.1 = true) →
      (∀ col, col < j.cols → accessStatus s (j.iss s c) .store (slmBase + c * 2 ^ 24 + j.dst + col * j.pitch) j.rowBytes = 0
        ∧ localMemory s (slmBase + c * 2 ^ 24 + j.dst + col * j.pitch) = true) →
      let e := j.bits / 8
      let base := slmBase + c * 2 ^ 24 + j.dst
      ∃ t, Machine.exec (.tldComplete c errs) s = .next t ∧ (clu t c).tlds = more
        ∧ mget (crw t c j.slot).q j.q 0 = mget (crw s c j.slot).q j.q 0 - 1
        ∧ (j.esize ≠ 0 → ∀ r col, r < j.rows → col < j.cols → readNat t (base + col * j.pitch + r * e) e = readNat s (j.rowAt r + col * e) e)
        ∧ (j.esize = 0 → ∀ r col, r < j.rows → col < j.cols → nib t (base + col * j.pitch) r = nib s (j.rowAt r) col)
        ∧ ∀ b, (∀ col, col < j.cols → b < base + col * j.pitch ∨ base + col * j.pitch + j.rowBytes ≤ b) → readMem t b 1 = readMem s b 1)
  ∧ (∀ (s : State) (c k w : Nat), fld w 63 58 = 0x13 → fld w 57 50 = 0 →
      let i := Safety.insAt s c k w 0
      let n := fld w 15 8
      Safety.performs s c k w 0 ((if asyncCodes i true ≠ [] ∨ fld w 17 16 ≠ 0 ∨ (8 ≤ n ∧ n ≠ 0xF) then [1] else []) ++ octetCodes i) = true →
      let kern := (crw s c k).kernel
      let room := (dmaEngines s i).filter fun e => decide (crewJobs s e < 64)
      (i.lanes = 0#32 → ∃ t, Machine.exec (.dmaIssue c k) s = .next t ∧ Safety.onlyCrew s t c k ∧ past s t i)
      ∧ (i.lanes ≠ 0#32 → dmaEngines s i = [] → (octet s i).2 = false → ∃ t, Machine.exec (.dmaIssue c k) s = .next t
        ∧ Safety.raised s t c k i.pc (BitVec.ofNat 64 w) { code := 0x0B, lanes := i.active })
      ∧ (i.lanes ≠ 0#32 → dmaEngines s i ≠ [] → (octet s i).2 = true → ∃ t, Machine.exec (.dmaIssue c k) s = .next t
        ∧ Safety.raised s t c k i.pc (BitVec.ofNat 64 w) { code := 0x09, lanes := i.active })
      ∧ (i.lanes ≠ 0#32 → dmaEngines s i ≠ [] → (octet s i).2 = false → room = [] → Machine.exec (.dmaIssue c k) s = .next s)
      ∧ (i.lanes ≠ 0#32 → (octet s i).2 = false → unsent s c k = false → room ≠ [] → (hf s (cluTower c)).runs = [] → (hf s (cluTower c)).stores = [] →
      ∃ t, Machine.exec (.dmaIssue c k) s = .next t ∧ past s t i
        ∧ ∃ e ∈ room, t.copyEngines = (pushCopy s e { d := (octet s i).1, src := .crew c k kern, part := (krn s kern).part }).copyEngines))

/-- The matrix issue class and `AWAIT` (R101, R154, R156, R157, R180, R272). A matrix instruction whose lane has room in the
array's queue and whose counter is below 255 puts its eight descriptor words in the queue, in order, and its counter gains 1; a
descriptor that fails a check raises `MDESC_FAULT` with the number of its first failing word, a poisoned one `POISON_USE`; with no room, or
while it is the other lane's turn (R273), it waits; with its guard in no lane it is skipped (R130). `AWAIT` lets the crew go on when its counter is at most `IMM8`, and holds it otherwise. -/
def Obligations.MatrixIssue : Prop :=
  let past := fun (s t : State) (c k : Nat) => ∀ p, Safety.whole (crw s c k) p → (crw t c k).run = some { p with pc := p.pc + 8, wait := none }
  let full := fun (s : State) (c k : Nat) =>
    let lane := (krn s (crw s c k).kernel).lane
    (if lane = 0 then 16 else 8) ≤ ((queued (clu s c)).filter fun e => lane == 0 || e.lane == lane).length
  let ops : List ((Nat → Nat → Instr) × Nat × EntryOp × (Desc → Option Nat)) := [
    (.mload, 1, .mload, mloadFault), (.mstream, 2, .mstream, fun d => streamFault d false), (.mstreamIx, 3, .mstreamIx, fun d => streamFault d true),
    (.mepi, 4, .mepi, mepiFault), (.mzero, 5, .mzero, mzeroFault), (.mspill, 6, .mspill, mspillFault)]
  (∀ op ∈ ops, ∀ (s : State) (c k w : Nat), fld w 63 58 = 0x18 → fld w 57 50 = op.2.1 →
      let i := Safety.insAt s c k w 0
      let q := fld w 17 16
      let kern := (crw s c k).kernel
      let words := (List.range 8).map fun j => mget (crw s c k).s (fld w 44 36 - 0x100 + j) 0#64
      let bad := (List.range 8).any fun j => mget (crw s c k).sPoison (fld w 44 36 - 0x100 + j) false
      let d : Desc := { s, x := clu s c, lane := (krn s kern).lane, d := words }
      let stay := 255 ≤ mget (crw s c k).q q 0 ∨ full s c k ∨ otherTurn s c (krn s kern).lane = true
      Safety.performs s c k w 0 (asyncCodes i false ++ octetCodes i) = true →
      (i.lanes = 0#32 → ∃ t, Machine.exec (op.1 c k) s = .next t ∧ Safety.onlyCrew s t c k ∧ past s t c k)
      ∧ (i.lanes ≠ 0#32 → stay → Machine.exec (op.1 c k) s = .next s)
      ∧ (i.lanes ≠ 0#32 → ¬ stay → bad = false → op.2.2.2 d = none →
          ∃ t, Machine.exec (op.1 c k) s = .next t ∧ t.mem = s.mem ∧ past s t c k ∧ Safety.keepsRegs (crw s c k) (crw t c k) 256 0 64 8
            ∧ mget (crw t c k).q q 0 = mget (crw s c k).q q 0 + 1
            ∧ ∃ e : Entry, (clu t c).entries = (clu s c).entries ++ [e] ∧ e.id = (clu s c).nextEntry ∧ e.op = op.2.2.1 ∧ e.d = words
              ∧ e.slot = k ∧ e.kernel = kern ∧ e.q = q ∧ e.started = false ∧ e.entered = 0 ∧ e.written = 0 ∧ e.released = [])
      ∧ (i.lanes ≠ 0#32 → ¬ stay → bad = true ∨ op.2.2.2 d ≠ none →
          ∃ t, Machine.exec (op.1 c k) s = .next t
            ∧ Safety.raised s t c k i.pc (BitVec.ofNat 64 w)
                (if bad then { code := 9, lanes := i.active } else { code := 0x0A, lanes := i.active, detail := (op.2.2.2 d).getD 0 })))
  ∧ (∀ (s : State) (c k w : Nat), fld w 63 58 = 0x18 → fld w 57 50 = 0x0F →
      let i := Safety.insAt s c k w 0
      let q := fld w 17 16
      Safety.performs s c k w 0 (asyncCodes i true ++ (if i.o 0 ≠ 0 then [1] else [])) = true →
      (i.lanes = 0#32 → ∃ t, Machine.exec (.await c k) s = .next t ∧ Safety.onlyCrew s t c k ∧ past s t c k)
      ∧ (i.lanes ≠ 0#32 → ∃ t, Machine.exec (.await c k) s = .next t ∧ t = { s with clusters := t.clusters } ∧ past s t c k
        ∧ Safety.keepsRegs (crw s c k) (crw t c k) 256 0 64 8
        ∧ (crw t c k).hold = if mget (crw s c k).q q 0 ≤ fld w 15 8 then .none else .await q (fld w 15 8)))

/-- Streams (R178, R180, R182, R188, R201, R204, R205, R211, R212, R215, R217). A tile load puts element (k, n) of the tile where the
descriptor lays it, with its block scales, and ends; a stream starts once all before it have started and its tile is loaded; a row that enters forms each
column's exact sum of products, rounded once (the sum is stated of plain formats that need one pass); at an activity of 0 none enters. The
oldest output row is written over, or added to, its accumulator or wide-buffer row, or goes out as accumulate-writes, and a dropped row is
counted and writes nothing. A row of any form enters, and is written, where its crew records faults. Hold operations are counted; when the
hold window ends, the activity falls from where it is. -/
def Obligations.StreamsThroughTheArray : Prop :=
  let elem := fun (s : State) (a bits n : Nat) => readNat s a (cdiv ((n + 1) * bits) 8) / 2 ^ (n * bits) % 2 ^ bits
  let mild := fun (s : State) (c : Nat) (en : Entry) => mfind (clu s c).crews en.slot = none ∨ (crw s c en.slot).mreport = true
  let ok := fun (s : State) (iss : Issuer) (a n : Nat) => ∀ p ∈ linePieces a n, arrayStatus s iss .load p.1 p.2 = 0
  (∀ (s : State) (c e : Nat) (en : Entry), entry s c e = some en → en.op = .mload → alive s = true → Safety.calm s → s.poison = [] →
      (∀ f ∈ (clu s c).entries, f.id < en.id → f.op ≠ .mload ∧ (f.stream = true → fld (en.w 0) 59 59 ∈ f.buffers → f.rows ≤ f.entered)) →
      let fmt := fld (en.w 0) 63 60
      let bits := tileBits fmt
      let at_ := fun k => fld (en.w 1) 47 0 + k * fld (en.w 2) 39 0
      let sc := fun b => fld (en.w 3) 47 0 + b * fld (en.w 4) 39 0
      en.nlen ≤ 512 → (∀ k, k < en.klen → ok s (en.iss c) (at_ k) (cdiv (en.nlen * bits) 8)) →
      (tileMx fmt = true → ∀ b, b < en.klen / 32 → ok s (en.iss c) (sc b) en.nlen) →
      ∃ t, Machine.exec (.mloadComplete c e) s = .next t ∧ t.mem = s.mem ∧ entry t c e = none
        ∧ mget (crw t c en.slot).q en.q 0 = mget (crw s c en.slot).q en.q 0 - 1
        ∧ (let y := if fld (en.w 0) 59 59 = 0 then (clu t c).sb0 else (clu t c).sb1
           y.valid = true ∧ y.fmt = fmt ∧ y.klen = en.klen ∧ y.nlen = en.nlen ∧ y.poison = []
            ∧ (∀ k n, k < en.klen → n < en.nlen → mget y.elems (tileKey k n) 0 = elem s (at_ k) bits n)
            ∧ (tileMx fmt = true → ∀ b n, b < en.klen / 32 → n < en.nlen → mget y.scales (tileKey b n) 127 = readNat s (sc b + n) 1)))
  ∧ (∀ (s : State) (c e : Nat) (en : Entry), entry s c e = some en → en.stream = true → en.started = false → alive s = true →
      mayStart (clu s c) en = true →
      (∀ f ∈ (clu s c).entries, f.id < en.id → (f.stream = true → f.rows ≤ f.entered) ∧ (f.op = .mload → ∀ b ∈ en.buffers, b ∉ f.buffers)) →
      (∀ b ∈ en.buffers, (if b = 0 then (clu s c).sb0 else (clu s c).sb1).valid = true) →
      ∃ t, Machine.exec (.streamStart c e) s = .next t ∧ t = { s with clusters := t.clusters } ∧ (entry t c e).map (·.started) = some true
        ∧ (clu t c).acc = (clu s c).acc ∧ (clu t c).crews = (clu s c).crews)
  ∧ (∀ (s : State) (c e : Nat) (en : Entry), entry s c e = some en → en.stream = true → en.started = true → alive s = true → Safety.calm s →
      en.entered < en.rows →
      (∀ u ∈ (if en.cplx ≠ 0 ∨ en.outMode = 1 then (if en.entered = 0 then en.uses else []) else (en.uses[en.entered / en.per]?).toList),
        blocked (clu s c) en u = false) →
      let n := match en.cplx with | 0 => (if fld (en.w 0) 63 60 = 0xB then 3 else 1) | 1 => 4 | _ => 3
      (activityNow s (clu s c) = 0 → ∃ t, Machine.exec (.rowEnter c e) s = .next t ∧ t = { s with clusters := t.clusters }
        ∧ (clu t c).entries = (clu s c).entries ∧ (clu t c).acc = (clu s c).acc ∧ (clu t c).mxaBusy = (clu s c).mxaBusy)
      ∧ (0 < activityNow s (clu s c) → mild s c en → ∃ t, Machine.exec (.rowEnter c e) s = .next t ∧ t.mem = s.mem
        ∧ (clu t c).acc = (clu s c).acc ∧ (clu t c).wgb = (clu s c).wgb ∧ (clu t c).mxaBusy = (clu s c).mxaBusy + n
        ∧ ∃ o : RowOut, (entry t c e).map (fun f => (f.entered, f.outs)) = some (en.entered + 1, en.outs ++ [o]) ∧ o.row = en.entered
          ∧ o.passes.length = (if en.outMode = 2 then 1 else n) ∧ ∀ p ∈ o.passes, p.sums.length = en.cols))
  ∧ (∀ (s : State) (c e : Nat) (en : Entry), entry s c e = some en → en.stream = true → en.started = true → alive s = true → Safety.calm s →
      0 < activityNow s (clu s c) → s.poison = [] → en.cplx = 0 → en.src = 0 → en.entered < en.rows → (∀ u ∈ (en.uses[en.entered / en.per]?).toList, blocked (clu s c) en u = false) →
      let fmt := fld (en.w 0) 63 60
      let tile := if (en.w 0).testBit 55 then (clu s c).sb1 else (clu s c).sb0
      let a := fld (en.w 1) 47 0 + en.entered * fld (en.w 2) 39 0
      tileOk fmt = true → fmt ≠ 0xB → tileMx fmt = false → tile.poison = [] → ok s (en.iss c) a (cdiv (en.klen * tileBits fmt) 8) →
      let sum := fun n => (List.range en.klen).foldl (fun (v : Sys2Proof.Machine.Num) k =>
        let x := (elemNum fmt (elem s a (tileBits fmt) k) 127).mul
          (elemNum tile.fmt (mget tile.elems (tileKey k n) 0) (mget tile.scales (tileKey (k / 32) n) 127))
        v.add (if (en.w 0).testBit 50 then x.neg else x)) (.fin false 0 0)
      let code := fun (v : Sys2Proof.Machine.Num) => if fld (en.w 0) 59 56 = 0xA then (convertInt 32 v).code
        else if en.narrow then (f16.convert v).code else (f32.convert v).code
      ∃ t, Machine.exec (.rowEnter c e) s = .next t ∧ t.mem = s.mem ∧ (clu t c).acc = (clu s c).acc
        ∧ (clu t c).mxaBusy = (clu s c).mxaBusy + 1
        ∧ ∃ o : RowOut, (entry t c e).map (fun f => (f.entered, f.outs)) = some (en.entered + 1, en.outs ++ [o])
          ∧ o.row = en.entered ∧ o.target = en.entered ∧ o.drop = 0 ∧ o.passes.length = 1
          ∧ ∀ n, n < en.cols → ((o.passes.headD { sums := [] }).sums.getD n 0) = if n < tile.nlen then code (sum n) else code (.fin false 0 0))
  ∧ (∀ (s : State) (c e : Nat) (en : Entry) (o : RowOut) (more : List RowOut), entry s c e = some en → en.outs = o :: more → en.stream = true →
      alive s = true → (∀ f ∈ (clu s c).entries, f.stream = true → f.id < en.id → f.outs = []) →
      let key := fun n => (if en.wide then wgbKey else accKey) (en.groupSlot 1) en.per en.cols o.target + n
      let store := fun (x : Cluster) => if en.wide then x.wgb else x.acc
      (en.outMode = 2 → o.drop ≠ 0 ∨ mild s c en → ∃ t, Machine.exec (.outputRowWrite c e []) s = .next t ∧ t.mem = s.mem
        ∧ (entry t c e).map (fun f => (f.written, f.outs)) = some (en.written + 1, more) ∧ (clu t c).acc = (clu s c).acc
        ∧ (o.drop ≠ 0 → (clu t c).accOutOor = (clu s c).accOutOor + 1 ∧ ∀ tw, (tow t tw).adder = (tow s tw).adder))
      ∧ (en.outMode ≠ 2 → ∃ t, Machine.exec (.outputRowWrite c e []) s = .next t ∧ t.mem = s.mem
        ∧ (en.written + 1 ≠ en.rows → (entry t c e).map (fun f => (f.written, f.outs)) = some (en.written + 1, more))
        ∧ (en.written + 1 = en.rows → entry t c e = none ∧ mget (crw t c en.slot).q en.q 0 = mget (crw s c en.slot).q en.q 0 - 1)
        ∧ (o.drop ≠ 0 → (clu t c).acc = (clu s c).acc ∧ (clu t c).wgb = (clu s c).wgb ∧ (clu t c).accOutOor = (clu s c).accOutOor + 1)
        ∧ (∀ p, o.drop = 0 → o.passes = [p] → p.group = 1 → (if en.wide then (clu t c).acc = (clu s c).acc else (clu t c).wgb = (clu s c).wgb)
          ∧ (∀ k, (∀ n, n < p.sums.length → k ≠ key n) → mget (store (clu t c)) k 0 = mget (store (clu s c)) k 0)
          ∧ ∀ n, n < p.sums.length →
            let old := mget (store (clu s c)) (key n) 0
            let v := p.sums.getD n 0
            mget (store (clu t c)) (key n) 0 = if (en.w 0).testBit 49 = false then v else if en.wide then (f32.fadd old v).1
              else if fld (en.w 0) 59 56 = 0xA then (old + v) % 2 ^ 32 else if en.narrow then (f16.fadd old v).1 else (f32.fadd old v).1)))
  ∧ (∀ (s : State) (c : Nat), alive s = true → (clu s c).holdCount < (clu s c).holdWindow ∨ 0 < activityNow s (clu s c) →
      ∃ t, Machine.exec (.currentHoldOp c) s = .next t ∧ t = { s with clusters := t.clusters }
        ∧ clu t c = { clu s c with mxaDummy := (clu s c).mxaDummy + 1, holdCount := (clu s c).holdCount + 1 })
  ∧ (∀ (s : State) (c : Nat), (clu s c).holdWindow ≤ (clu s c).holdCount →
      ∃ t, Machine.exec (.holdWindowExpire c) s = .next t ∧ t = { s with clusters := t.clusters } ∧ (clu t c).ramp = .down ∧ (clu t c).actFloor = 0
        ∧ activityNow t (clu t c) = activityNow s (clu s c))

/-- `MZERO`, drains, spills, their acknowledgements and `ASY_CLEAR` (R182, R213, R214 to R216, R223 to R228, R257, R259, R263, R266 to
R269). `MZERO` clears its slots, one after another, gives them their width and releases each. A drained row is read once its slots are released to it (its value is stated of the plainest drain), and the oldest row read goes
to memory in its format, packed, with its scales, or back into its slot; the drain ends when its last row is written, or its last accumulate-write acknowledged. A spilled row goes out as accumulate-writes, one for each 32 columns; a clearing spill clears its tiles one after
another. A word of the store or the buffer with two wrong bits poisons its elements and raises 0x1B4. Clearing an assay set clears that set alone. -/
def Obligations.DrainsSpillsAndAssays : Prop :=
  let mild := fun (s : State) (c : Nat) (en : Entry) => mfind (clu s c).crews en.slot = none ∨ (crw s c en.slot).mreport = true
  let elem := fun (s : State) (a bits n : Nat) => readNat s a (cdiv ((n + 1) * bits) 8) / 2 ^ (n * bits) % 2 ^ bits
  let ends := fun (s t : State) (c e : Nat) (en : Entry) =>
    entry t c e = none ∧ mget (crw t c en.slot).q en.q 0 = mget (crw s c en.slot).q en.q 0 - 1
  (∀ (s : State) (c e : Nat) (en : Entry), entry s c e = some en → en.op = .mzero → alive s = true → mayStart (clu s c) en = true →
      let slot := fld (en.w 0) 63 59 + en.written
      blocked (clu s c) en slot = false →
      ∃ t, Machine.exec (.mzeroClear c e) s = .next t ∧ t = { s with clusters := t.clusters }
        ∧ (∀ k, mget (clu t c).acc k 0 = if k / 32768 = slot then 0 else mget (clu s c).acc k 0)
        ∧ (∀ u, u ∈ (clu t c).narrow ↔ if u = slot then (en.w 0).testBit 53 = true else u ∈ (clu s c).narrow)
        ∧ (en.written + 1 < en.uses.length → (entry t c e).map (fun f => (f.written, f.released)) = some (en.written + 1, en.released ++ [slot]))
        ∧ (en.uses.length ≤ en.written + 1 → ends s t c e en))
  ∧ (∀ (s : State) (c e : Nat) (en : Entry), entry s c e = some en → en.op = .mepi → alive s = true → Safety.calm s →
      let p := epiOf (en.w 0)
      en.entered < p.rows → (en.entered = 0 → mayStart (clu s c) en = true) → (∀ sl ∈ p.slots, blocked (clu s c) en (sl + en.entered / en.per) = false) →
      p.eop = 0 ∨ mild s c en →
      ∃ t, Machine.exec (.mepiRowRead c e []) s = .next t ∧ t.mem = s.mem
        ∧ ∃ o : RowOut, (entry t c e).map (fun f => (f.entered, f.outs)) = some (en.entered + 1, en.outs ++ [o]) ∧ o.row = en.entered)
  ∧ (∀ (s : State) (c e : Nat) (en : Entry), entry s c e = some en → en.op = .mepi → alive s = true → Safety.calm s →
      let p := epiOf (en.w 0)
      let j := en.entered
      let g := (en.w 0) / 2 ^ 59 % 32
      j < p.rows → (j = 0 → mayStart (clu s c) en = true) → (∀ sl ∈ p.slots, blocked (clu s c) en (sl + j / en.per) = false) →
      p.drain = 0 → p.eop = 0 → p.aint = false → p.wb = false → p.ofmt = 0xB → p.clr = false → en.narrow = false →
      let v := fun n => f32.fmul (mget (clu s c).acc (accKey g en.per p.cols j + n) 0) (fld (en.w 5) 31 0)
      let out := fun n => f32.convert (f32.decode (v n).1)
      let all := List.range p.ncol
      ∃ t, Machine.exec (.mepiRowRead c e []) s = .next t ∧ t.mem = s.mem ∧ (clu t c).acc = (clu s c).acc
        ∧ (clu t c).assay = ((clu s c).count p.assay p.ncol (all.countP fun n => (out n).zero)
            (all.countP (fun n => (out n).sat) + all.countP fun n => (v n).2) (all.countP fun n => (out n).nonfin)).assay
        ∧ ∃ o : RowOut, (entry t c e).map (fun f => (f.entered, f.outs)) = some (j + 1, en.outs ++ [o]) ∧ o.row = j
          ∧ (o.passes.headD { sums := [] }).sums = all.map fun n => (out n).code)
  ∧ (∀ (s : State) (c e : Nat) (en : Entry) (o : RowOut) (more : List RowOut), entry s c e = some en → en.outs = o :: more → en.op = .mepi →
      alive s = true → Safety.calm s →
      let p := epiOf (en.w 0)
      let ps := (o.passes.headD { sums := [] })
      let dst := fld (en.w 1) 47 0 + o.row * fld (en.w 2) 39 0
      let n := ps.sums.length
      let size := cdiv (n * p.bits) 8
      let sc := fld (en.w 6) 47 0 + o.row * 16
      (p.wb = false → p.accw = false → p.ofmt ≠ 0 →
        (∀ q ∈ linePieces dst size ++ linePieces sc o.scales.length, arrayStatus s (en.iss c) .store q.1 q.2 = 0) →
        o.scales = [] ∨ sc + o.scales.length ≤ dst ∨ dst + size ≤ sc →
        ∃ t, Machine.exec (.mepiRowWrite c e) s = .next t ∧ (entry t c e).map (fun f => (f.written, f.outs)) = some (en.written + 1, more)
          ∧ (∀ k, k < n → elem t dst p.bits k = ps.sums.getD k 0 % 2 ^ p.bits)
          ∧ (∀ k, k < o.scales.length → readNat t (sc + k) 1 = (o.scales.getD k (0, false)).1 % 256)
          ∧ ∀ b, b < dst ∨ dst + size ≤ b → b < sc ∨ sc + o.scales.length ≤ b → readMem t b 1 = readMem s b 1)
      ∧ (p.wb = false → p.accw = true → mild s c en → ∃ t, Machine.exec (.mepiRowWrite c e) s = .next t
          ∧ (entry t c e).map (fun f => (f.written, f.outs)) = some (en.written + 1, more))
      ∧ (p.wb = true → p.ofmt = 0 → p.amax = false → ∃ t, Machine.exec (.mepiRowWrite c e) s = .next t ∧ t.mem = s.mem
          ∧ (∀ k, mget (clu t c).acc k 0 = if accKey (p.slots.headD 0) en.per p.cols o.row ≤ k ∧ k < accKey (p.slots.headD 0) en.per p.cols o.row + n
              then ps.sums.getD (k - accKey (p.slots.headD 0) en.per p.cols o.row) 0 else mget (clu s c).acc k 0)
          ∧ (en.written + 1 = p.rows → ends s t c e en)
          ∧ (en.written + 1 ≠ p.rows → (entry t c e).map (fun f => (f.written, f.outs)) = some (en.written + 1, more))))
  ∧ (∀ (s : State) (c e : Nat) (en : Entry), entry s c e = some en → en.op = .mepi → alive s = true → Safety.calm s → s.poison = [] →
      let p := epiOf (en.w 0)
      let a := fld (en.w 7) 47 0
      p.rows ≤ en.written → p.accw = false → en.amaxPoison = false → (p.amax = true → arrayStatus s (en.iss c) (.atom 8 false) a 4 = 0) →
      ∃ t, Machine.exec (.mepiComplete c e) s = .next t ∧ ends s t c e en
        ∧ (p.amax = false → t.mem = s.mem)
        ∧ (p.amax = true → readNat t a 4 = max (readNat s a 4) en.amax % 2 ^ 32 ∧ Safety.sameBytesBut s t a 4))
  ∧ (∀ (s : State) (c e : Nat) (en : Entry), entry s c e = some en → en.op = .mspill → alive s = true → (en.started = false → mayStart (clu s c) en = true) →
      let w0 := en.w 0
      let rows := fld (en.w 4) 8 0 + 1
      let r := en.written % rows
      let tile := fld w0 63 60 + en.written / rows
      let key := tile * 65536 + r * (if w0.testBit 53 then 256 else 512)
      let n := fld (en.w 4) 40 32 + 1
      let a := fld (en.w 1) 47 0 + en.written / rows * fld (en.w 3) 39 0 + r * fld (en.w 2) 39 0
      (∀ tw, fld w0 55 54 ≠ 2 → en.written < spillRows en → blocked (clu s c) en (32 + tile) = false → a % 128 = 0 →
        (∀ k, k ∉ (clu s c).wgbPoison) → (∀ i, i < cdiv n 32 → accwStatus s (en.iss c) (a + 128 * i) = 0 ∧ home s (a + 128 * i) = .scratch tw) →
        ∃ t, Machine.exec (.mspillRow c e []) s = .next t ∧ (entry t c e).map (·.written) = some (en.written + 1) ∧ t.mem = s.mem
          ∧ ∃ ws : List AccWrite, (tow t tw).adder = (tow s tw).adder ++ ws ∧ ws.length = cdiv n 32
            ∧ ∀ (i : Nat) (w : AccWrite), ws[i]? = some w → w.addr = a + 128 * i ∧ w.int = false ∧ w.poison = false ∧ w.entry = en.id
              ∧ ∀ l, l < 32 → w.mask.getLsbD l = decide (32 * i + l < n)
                ∧ (32 * i + l < n → w.data.getD l 0#32 = BitVec.ofNat 32 (mget (clu s c).wgb (key + 32 * i + l) 0)))
      ∧ (fld w0 55 54 = 2 → blocked (clu s c) en (32 + fld w0 63 60 + en.written) = false →
        ∃ t, Machine.exec (.mspillRow c e []) s = .next t ∧ t = { s with clusters := t.clusters }
          ∧ (∀ k, mget (clu t c).wgb k 0 = if k / 65536 = fld w0 63 60 + en.written then 0 else mget (clu s c).wgb k 0)
          ∧ (en.written + 1 < en.uses.length → (entry t c e).map (·.written) = some (en.written + 1))
          ∧ (en.uses.length ≤ en.written + 1 → ends s t c e en)))
  ∧ (∀ (s : State) (c e : Nat) (en : Entry), entry s c e = some en → alive s = true →
      (match en.op with
        | .mepi => (epiOf (en.w 0)).accw = true ∧ (epiOf (en.w 0)).rows ≤ en.written
        | .mspill => fld (en.w 0) 55 54 ≠ 2 ∧ spillRows en ≤ en.written
        | .mstream | .mstreamIx => en.outMode = 2 ∧ en.rows ≤ en.written
        | _ => False) →
      ∃ t, Machine.exec (.accwAck c e) s = .next t ∧ ends s t c e en)
  ∧ (∀ (s : State) (w : ObjWrite) (c : Nat), Safety.accepted s w 0x505003 = true →
      ∃ t, Machine.exec (.asyClear w c) s = .next t
        ∧ (∀ d, (if w.reg then d = c else d ∈ partClusters s ((mfind s.sessions w.sid).map (·.part) |>.getD 0)) →
            ∀ k, mget (clu t d).assay k {} = if (leNat w.val).testBit k then {} else mget (clu s d).assay k {})
        ∧ ∀ d, (if w.reg then d ≠ c else d ∉ partClusters s ((mfind s.sessions w.sid).map (·.part) |>.getD 0)) → clu t d = clu s d)
  ∧ (∀ (s : State) (c e a : Nat), alive s = true →
      let m := if a / 32768 ∈ (clu s c).narrow then 4 else 2
      (∃ u, Machine.exec (.mepiRowRead c e [(a, 2)]) s = Machine.exec (.mepiRowRead c e []) u ∧ u.mem = s.mem ∧ (clu u c).acc = (clu s c).acc
        ∧ (∀ i, i < m → a / m * m + i ∈ (clu u c).accPoison) ∧ 0x1B4 ∈ u.irqs)
      ∧ (∀ en, entry s c e = some en → en.wide = false →
        ∃ u, Machine.exec (.outputRowWrite c e [(a, 2)]) s = Machine.exec (.outputRowWrite c e []) u ∧ u.mem = s.mem ∧ (clu u c).acc = (clu s c).acc
          ∧ (∀ i, i < m → a / m * m + i ∈ (clu u c).accPoison) ∧ 0x1B4 ∈ u.irqs)
      ∧ ∃ u, Machine.exec (.mspillRow c e [(a, 2)]) s = Machine.exec (.mspillRow c e []) u ∧ u.mem = s.mem ∧ (clu u c).wgb = (clu s c).wgb
        ∧ (∀ i, i < 2 → a / 2 * 2 + i ∈ (clu u c).wgbPoison) ∧ 0x1B4 ∈ u.irqs)

/-- Gradient buckets (R274 to R282). A valid descriptor arms an idle bucket, its reserved bits reading 0; a bad one changes nothing and counts as a rejected
write. Readiness counts up to the target. A ready bucket ships, and is shipped once nothing of it is still to be sent, with zero written over `SRC` under
`ZERO_AFTER`; a shipped bucket with every share lands: `LAND` takes the sums of `STAGE`, which becomes zero. A failing send, or a landing that is late, fails
the bucket with its first status, and so does a near store its engine cannot reach (the model's choice, log 131). A contribution of a later step than the armed one is held, and keeps its
credits; one of an earlier step, for another tag or a failed bucket is discarded and counted, and one in its place, where an inbound window allows it, is counted for its rank. -/
def Obligations.GradientBuckets : Prop :=
  let zero := fun (t : State) (a n : Nat) => ∀ b, a ≤ b → b < a + n → readNat t b 1 = 0
  (∀ (s : State) (b : Nat) (d : List W64), alive s = true →
      let x : Bucket := { desc := (List.range 8).map fun i => d.getD i 0#64 &&& BitVec.ofNat 64 (bktMask i), mode := .armed, part := cfg s 0x50800D,
                          step := s.verdict.last, closedAt := if s.verdict.closed then some s.verdict.closedAt else none }
      let good := (bkt s b).live = false ∧ (d.getD 0 0#64).toNat.testBit 63 = true ∧ armBad s b x = false
      (good → ∃ t, Machine.exec (.bucketArm b d) s = .next t ∧ (bkt t b).desc = x.desc ∧ (bkt t b).mode = .armed ∧ (bkt t b).ready = 0
        ∧ (bkt t b).step = x.step ∧ t.mem = s.mem
        ∧ ((∀ h ∈ s.heldShares, leNat (h.2.payload.take 1) ≠ b ∨ x.step < leNat ((h.2.payload.drop 8).take 8)) → t = setBkt s b x))
      ∧ (¬ good → ∃ t, Machine.exec (.bucketArm b d) s = .next t ∧ t.buckets = s.buckets ∧ t.regRejects = s.regRejects + 1 ∧ t.mem = s.mem))
  ∧ (∀ (s : State) (tw : Nat) (v : W64), Safety.untraced s →
      let b := 64 * tw + v.toNat / 65536 % 64
      let n := min 0xFFFF ((bkt s b).ready + v.toNat % 65536)
      ∃ t, Machine.exec (.bktReady tw v) s = .next t
        ∧ t = if (bkt s b).mode = .armed then setBkt s b { bkt s b with ready := n, mode := if (bkt s b).target ≤ n then .ready else .armed } else s)
  ∧ (∀ (s : State) (b : Nat), alive s = true → (bkt s b).mode = .ready → bit (bw (bkt s b) 0) 61 = false →
      let x := bkt s b
      let st := bucketStatus s b .load x.src x.bytes
      (st ≠ 0 → ∃ t, Machine.exec (.bucketShip b) s = .next t ∧ (bkt t b).mode = .failed ∧ t.mem = s.mem ∧ (bkt t b).status = if x.status = 0 then st else x.status)
      ∧ (st = 0 → ∃ t, Machine.exec (.bucketShip b) s = .next t ∧ ((bkt t b).mode = .shipping ∨ (bkt t b).mode = .failed))
      ∧ (st = 0 → Safety.calm s → s.poison = [] → x.g = 1 → x.rank = 0 →
        (∀ a, x.stage / 128 ≤ a / 128 → a < x.stage + x.shard → accwStatus s (bucketIss b) (a / 128 * 128) = 0) →
        ∃ t, Machine.exec (.bucketShip b) s = .next t ∧ t.mem = s.mem ∧ (bkt t b).mode = .shipping ∧ 0 ∈ (bkt t b).shares))
  ∧ (∀ (s : State) (b : Nat), alive s = true → Safety.calm s → Safety.untraced s → (bkt s b).mode = .shipping →
      let x := bkt s b
      let unsent := fun (r : Request) => r.held ≠ .sent ∧ ∃ j, r.bucket = some (b, j)
      ((∃ r ∈ s.requests, unsent r) → Machine.exec (.bucketShipped b) s = .next s)
      ∧ ((∀ r ∈ s.requests, ¬ unsent r) → ∃ t, Machine.exec (.bucketShipped b) s = .next t ∧ (bkt t b).mode = .shipped
        ∧ (bit (bw x 0) 60 = false → t.mem = s.mem)
        ∧ (bit (bw x 0) 60 = true → bucketStatus s b .store x.src x.bytes = 0 → zero t x.src x.bytes ∧ Safety.sameBytesBut s t x.src x.bytes)))
  ∧ (∀ (s : State) (b : Nat), alive s = true → (bkt s b).mode = .shipped →
      let x := bkt s b
      let st := bucketStatus s b .load x.stage x.shard
      (x.complete = false → Machine.exec (.bucketLand b) s = .next s)
      ∧ (x.complete = true → st ≠ 0 → ∃ t, Machine.exec (.bucketLand b) s = .next t ∧ (bkt t b).mode = .failed ∧ t.mem = s.mem)
      ∧ (x.complete = true → st = 0 → ∃ t, Machine.exec (.bucketLand b) s = .next t ∧ (bkt t b).mode = .landed)
      ∧ (x.complete = true → st = 0 → Safety.calm s → s.poison = [] → Safety.untraced s → x.stage + x.shard ≤ x.land ∨ x.land + x.shard ≤ x.stage →
        ∃ t, Machine.exec (.bucketLand b) s = .next t ∧ (bkt t b).mode = .landed ∧ (bkt t b).poison = false ∧ zero t x.stage x.shard
          ∧ (∀ o, o < x.shard → readNat t (x.land + o) 1 = readNat s (x.stage + o) 1)
          ∧ ∀ a, a < x.stage ∨ x.stage + x.shard ≤ a → a < x.land ∨ x.land + x.shard ≤ a → readNat t a 1 = readNat s a 1))
  ∧ (∀ (s : State) (b st : Nat), (bkt s b).mode = .shipping ∨ (bkt s b).mode = .shipped ∨ (bkt s b).mode = .landed → st ≠ 0 → st ≠ 8 →
      ∃ t, Machine.exec (.bucketSendFail b st) s = .next t ∧ (bkt t b).mode = .failed
        ∧ (bkt t b).status = (if (bkt s b).status = 0 then st else (bkt s b).status) ∧ t = { s with buckets := t.buckets, pit := t.pit })
  ∧ (∀ (s : State) (b now c : Nat), Safety.calm s →
      let x := bkt s b
      let u := clock s now
      x.live = true → x.closedAt = some c → inForce u 0x507004 ≠ 0 → elapsedMs u c (inForce u 0x507004) = true →
      ∃ t, Machine.exec (.bucketLandTimeout b now) s = .next t ∧ (bkt t b).mode = .failed ∧ (bkt t b).status = (if x.status = 0 then 0x11 else x.status)
        ∧ (bucketStatus u b .store x.stage x.shard = 0 → zero t x.stage x.shard) ∧ Safety.sameBytesBut s t x.stage x.shard)
  ∧ (∀ (s : State) (port : Nat) (p : Packet), Safety.reaches s port p 9 = true →
      let w := leNat (p.payload.take 8)
      let step := leNat ((p.payload.drop 8).take 8)
      let b := w % 256
      let x := bkt s b
      let armed := if x.mode = .idle then 0 else x.step
      let early := x.mode = .idle ∨ armed < step
      let stale := step < armed ∨ x.live = false ∨ fld w 63 32 ≠ x.tag
      (early → ∃ t, Machine.exec (.bucketContribution port p) s = .next t ∧ t = { s with heldShares := s.heldShares ++ [(port, p)], ports := t.ports }
        ∧ (prt t port).inQ = (prt s port).inQ.erase p ∧ (prt t port).kept = (prt s port).kept + flitsOf p)
      ∧ (¬ early → stale → ∃ t, Machine.exec (.bucketContribution port p) s = .next t
          ∧ t = { s with bktRejects := s.bktRejects + 1, pit := t.pit, ports := t.ports } ∧ (prt t port).inQ = (prt s port).inQ.erase p)
      ∧ (∀ j, ¬ early → ¬ stale → ((List.range x.g).find? fun j => x.node s j == p.src && j != x.rank) = some j →
          let n := (p.payload.length - 16) / (if w.testBit 8 then 2 else 4)
          p.offset + 4 * n ≤ x.len x.rank → j ∉ x.shares →
          (inbound s p.jkey (x.stage + p.offset) (4 * n) true = false → ∃ t, Machine.exec (.bucketContribution port p) s = .next t
            ∧ t.mem = s.mem ∧ t.buckets = s.buckets ∧ t.towers = s.towers)
          ∧ (inbound s p.jkey (x.stage + p.offset) (4 * n) true = true →
            (∀ a, x.stage + p.offset ≤ a → a < x.stage + p.offset + 4 * n → accwStatus s (bucketIss b) (a / 128 * 128) = 0) →
            ∃ t, Machine.exec (.bucketContribution port p) s = .next t ∧ t.mem = s.mem
              ∧ mget (bkt t b).got j 0 = mget x.got j 0 + 4 * n
              ∧ (j ∈ (bkt t b).shares ↔ x.len x.rank ≤ mget x.got j 0 + 4 * n))))

/-- The step verdict (R257, R283, R284, R286 to R288, R299). `STV_OPEN` takes only the next step and only when none is open or being
applied; it clears the verdict's assay sets and begins pass 1 on every engine in service. `STV_REBASE`, `STV_CLOSE` and `STV_FORCE_FAIL` act only as
their rules allow. The vote is true unless a set of the mask counted a non-finite value, a bucket of the step failed or landed poison, or failure was
forced. A true result lets the engines apply the step; a false one, a veto, an abandoned vote, skips it, but for the groups of pass 1 that are ready, which run
first (the model's choice, log 129). A late result raises source 0x112. -/
def Obligations.StepVerdict : Prop :=
  let undecided := fun (s : State) => s.verdict.mode = .opened ∨ s.verdict.mode = .voted
  let skipped := fun (s t : State) (why : Nat) => t.verdict.skipped = s.verdict.skipped + 1 ∧ t.verdict.passes = false
    ∧ ∀ n, n < 8 → (ue s n).inService = true → (ue t n).last = why
      ∧ ((ue s n).stage = .pass1 ∧ nextPass1 (ue s n) ≠ none → (ue t n).ending = true ∧ (ue t n).mode = (ue s n).mode)
      ∧ (¬ ((ue s n).stage = .pass1 ∧ nextPass1 (ue s n) ≠ none) → (ue t n).ending = false ∧ (ue t n).stage = .idle)
  (∀ (s : State) (w : ObjWrite), Safety.accepted s w 0x508005 = true →
      let v := s.verdict
      let ok := ((v.noneOpened = true ∧ v.rebased = false) ∨ leNat w.val = (v.last + 1) % 2 ^ 64) ∧ ¬ undecided s ∧ passesRun s = false
      (ok → ∃ t, Machine.exec (.stvOpen w) s = .next t ∧ t.heldB = []
        ∧ t.verdict = { v with mode := .opened, result := false, vote := false, timedOut := false, noneOpened := false, rebased := false,
                               last := leNat w.val, closed := false, forceFail := false, abandoned := false, mismatches := t.verdict.mismatches }
        ∧ (∀ c ∈ partClusters s (cfg s 0x50800D), ∀ k, mget (clu t c).assay k {} = if (cfg s 0x508002).testBit k then {} else mget (clu s c).assay k {})
        ∧ (∀ c, c ∉ partClusters s (cfg s 0x50800D) → clu t c = clu s c)
        ∧ ∀ n, n < 8 → (ue s n).inService = true → (ue s n).mode ≠ .paused →
            (ue t n).mode = (if nGroups (cfgB s (0x610201 + n)) = 0 then .waiting else .pass1) ∧ (ue t n).table = cfgB s (0x610201 + n))
      ∧ (¬ ok → ∃ t, Machine.exec (.stvOpen w) s = .next t ∧ t.verdict = v ∧ t.ues = s.ues ∧ t.clusters = s.clusters))
  ∧ (∀ (s : State) (w : ObjWrite), Safety.accepted s w 0x50800C = true →
      ∃ t, Machine.exec (.stvRebase w) s = .next t
        ∧ (¬ undecided s → passesRun s = false → t.verdict = { s.verdict with last := (leNat w.val + (2 ^ 64 - 1)) % 2 ^ 64, rebased := true })
        ∧ (undecided s ∨ passesRun s = true → t.verdict = s.verdict))
  ∧ (∀ (s : State) (w : ObjWrite) (now : Nat), Safety.accepted (clock s now) w 0x508006 = true →
      ∃ t, Machine.exec (.stvClose w now) s = .next t
        ∧ t.verdict = if ¬ undecided s ∨ leNat w.val ≠ s.verdict.last ∨ s.verdict.closed = true then s.verdict else { s.verdict with closed := true, closedAt := (clock s now).pace.now })
  ∧ (∀ (s : State) (w : ObjWrite), Safety.accepted s w 0x508007 = true →
      ∃ t, Machine.exec (.stvForceFail w) s = .next t
        ∧ t.verdict = { s.verdict with forceFail := s.verdict.forceFail || decide (undecided s ∧ leNat w.val = s.verdict.last) })
  ∧ (∀ (s : State) (now : Nat), alive s = true → s.verdict.mode = .opened → s.verdict.closed = true → s.red.voteSent = false →
      (∀ b, b < 256 → (bkt s b).live = false) →
      let bad := (∃ c ∈ partClusters s (cfg s 0x50800D), ∃ a ∈ (clu s c).assay, (inForce s 0x508002).testBit a.1 = true ∧ a.2.nonfin ≠ 0)
        ∨ (∃ b, b < 256 ∧ (bkt s b).step = s.verdict.last ∧ ((bkt s b).mode = .failed ∨ ((bkt s b).mode = .landed ∧ (bkt s b).poison = true)))
        ∨ s.verdict.forceFail = true
      ∃ t, Machine.exec (.stvVote now) s = .next t ∧ (t.verdict.vote = true ↔ ¬ bad)
        ∧ (treeChildren s = [] → treeParent s = none → t.verdict.mode = .recorded ∧ t.verdict.result = t.verdict.vote ∧ (bad → skipped s t 2))
        ∧ t.verdict.votedAt = (clock s now).pace.now
        ∧ (treeParent s ≠ none → t.verdict.mode = .voted))
  ∧ (∀ (s : State) (n : Nat) (result : Bool), s.verdict.mode = .voted → n = s.verdict.last →
      ∃ t, Machine.exec (.stvResult n result) s = .next t ∧ t.verdict.mode = .recorded ∧ t.verdict.result = result
        ∧ (result = false → skipped s t 2)
        ∧ (result = true → (∀ r, s.red.result = some r → r.veto = 0 ∧ r.mismatch = false) → t.verdict.passes = true ∧ t.verdict.skipped = s.verdict.skipped ∧ t.ues = s.ues)
        ∧ (result = true → ∀ r, s.red.result = some r → r.veto ≠ 0 ∨ r.mismatch = true → skipped s t 3))
  ∧ (∀ (s : State) (now : Nat), s.verdict.mode = .voted → s.verdict.timedOut = false →
      elapsedMs (clock s now) s.verdict.votedAt (inForce (clock s now) 0x508003) = true →
      ∃ t, Machine.exec (.stvTimeout now) s = .next t ∧ t.verdict = { s.verdict with timedOut := true } ∧ 0x112 ∈ t.irqs ∧ t.mem = s.mem)
  ∧ (∀ (s : State) (w : ObjWrite), Safety.accepted s w 0x508008 = true → s.verdict.mode = .voted → leNat w.val = s.verdict.last →
      ∃ t, Machine.exec (.stvAbandon w) s = .next t ∧ t.verdict.mode = .recorded ∧ t.verdict.result = false ∧ t.verdict.abandoned = true ∧ skipped s t 5)

/-- Update engines through a step (R300 to R305, R309, R313, R314). A ready group's pass 1 adds its non-finite elements to the veto;
the reduction's result reaches every engine, and a veto skips the step; the factored statistics are ka times the old one plus kb times the sum, each operation
rounded once, a group at a time; pass 2 takes the groups in table order, and writes memory only where its recipe puts or pushes or the group is an embedding; when every engine has finished, each is idle
with its result, the step count rises by 1, and 1 is added at `UE_PUSH_DONE_ADDR`. -/
def Obligations.UpdateEngineSteps : Prop :=
  let runs := fun (s : State) (n : Nat) (m : UeMode) => alive s = true ∧ (ue s n).inService = true ∧ (ue s n).mode = m ∧ fwRuns s (13 + n) = true
  let first := fun (s : State) (n : Nat) (ok : Nat → Prop) (g : Nat) => g < (ue s n).groups ∧ ok g ∧ ∀ h, h < g → ¬ ok h
  let two := fun (s : State) => s.verdict.mode = .recorded ∧ s.verdict.passes = true ∧ s.verdict.result = true
    ∧ ∃ r, s.red.result = some r ∧ r.veto = 0 ∧ r.mismatch = false
  (∀ (s : State) (n : Nat) (v : W64), (ue s n).inService = true → (ue s n).stage = .pass1 → v.toNat % 4096 < (ue s n).groups →
      ∃ t, Machine.exec (.ueGradReady n v) s = .next t ∧ t = { s with ues := t.ues } ∧ v.toNat % 4096 ∈ (ue t n).readyGroups
        ∧ ∀ m, m ≠ n → ue t m = ue s m)
  ∧ (∀ (s : State) (n : Nat) (v : W64), (ue s n).inService = false ∨ (ue s n).stage ≠ .pass1 ∨ (ue s n).groups ≤ v.toNat % 4096 →
      Machine.exec (.ueGradReady n v) s = .next s)
  ∧ (∀ (s : State) (n g : Nat), n < 8 → runs s n .pass1 → first s n (fun h => h ∉ (ue s n).pass1Groups ∧ groupReady (ue s n) h = true) g → Safety.untraced s →
      let u := ue s n
      let r := latched s u g
      let rows := groupRows s u.table g
      let row := fun (x : Nat × Nat) => runRow s.latch { s, tbl := u.table, r, g, gradRow := x.1, row := x.2 } 0 (rcpP1 r)
      ∃ t, Machine.exec (.uePass1 n g) s = .next t ∧ (ue t n).pass1Groups = u.pass1Groups ++ [g]
        ∧ (ue t n).veto = u.veto + (rows.1.map fun x => (row x).bad.count true).sum
        ∧ (ue t n).ixDup = u.ixDup + rows.2.1 ∧ (ue t n).ixOor = u.ixOor + rows.2.2
        ∧ (u.ending = false → u.pass1Groups.length + 1 < u.groups → (ue t n).mode = .pass1)
        ∧ (u.ending = false → u.groups ≤ u.pass1Groups.length + 1 → s.verdict.mode = .opened → (ue t n).mode = .waiting)
        ∧ (u.ending = true → u.groups ≤ u.pass1Groups.length + 1 → (ue t n).mode = .idle ∧ (ue t n).ending = false)
        ∧ (rcpFact r = false → t.mem = s.mem))
  ∧ (∀ (s : State) (r : RedVal), s.red.result = none → s.red.own ≠ none →
      ∃ t, Machine.exec (.jobReductionResult r) s = .next t ∧ t.red.result = some r ∧ t.mem = s.mem
        ∧ (∀ n, n < 8 → (ue s n).inService = true → (ue t n).norm2 = r.norm)
        ∧ (s.verdict.mode = .recorded → s.verdict.passes = true → r.veto ≠ 0 ∨ r.mismatch = true →
            t.verdict.skipped = s.verdict.skipped + 1 ∧ t.verdict.passes = false)
        ∧ (r.mismatch = true → s.verdict.last ∈ t.verdict.mismatches)
        ∧ (r.veto = 0 → r.mismatch = false → t.verdict = s.verdict))
  ∧ (∀ (s : State) (n : Nat), n < 8 → two s → Safety.untraced s →
      let u := ue s n
      let left := fun g => g < u.groups ∧ rcpFact (latched s u g) = true ∧ g ∉ u.factDone
      (runs s n .waiting → ∃ t, Machine.exec (.ueFactoredUpdate n) s = .next t ∧ t = { s with ues := t.ues } ∧ ue t n = { u with mode := .factored }
        ∧ ∀ m, m ≠ n → ue t m = ue s m)
      ∧ (runs s n .factored → (∀ g, ¬ left g) → ∃ t, Machine.exec (.ueFactoredUpdate n) s = .next t ∧ t = { s with ues := t.ues }
        ∧ (ue t n).mode = if u.groups = 0 then .completing else .pass2)
      ∧ (∀ g, runs s n .factored → left g → (∀ h, h < g → ¬ left h) → Safety.calm s → s.poison = [] →
        let r := latched s u g
        let k := fun (hi : Nat) => (s.latch.scalars.getD (fld (rcpHdr r) hi (hi - 3)) 0#32).toNat
        let a := gw u.table g 8
        let b := gw u.table g 9
        let rows := gRows u.table g
        let cols := gCols u.table g
        let key := fld (gw u.table g 0) 44 28
        let colSum := fun i => if bit (gw u.table g 0) 57 then (match s.red.result with | some x => (x.vec.getD (key + i) 0#64).toNat | none => 0)
          else readNat s (gw u.table g 11 + 8 * i) 8
        let out := fun (old sum : Nat) => (f32.fadd (f32.fmul (k 25) old).1 (f32.fmul (k 21) (f32.convert (f64.decode sum)).code).1).1
        a + 4 * rows ≤ b ∨ b + 4 * cols ≤ a → meetsOs s a (4 * rows) = false → meetsOs s b (4 * cols) = false →
        ∃ t, Machine.exec (.ueFactoredUpdate n) s = .next t ∧ (ue t n).mode = .factored ∧ (ue t n).factDone = u.factDone ++ [g]
          ∧ (∀ i, i < rows → readNat t (a + 4 * i) 4 = out (readNat s (a + 4 * i) 4) (readNat s (gw u.table g 10 + 8 * i) 8))
          ∧ (∀ i, i < cols → readNat t (b + 4 * i) 4 = out (readNat s (b + 4 * i) 4) (colSum i))
          ∧ ∀ x, x < a ∨ a + 4 * rows ≤ x → x < b ∨ b + 4 * cols ≤ x → readNat t x 1 = readNat s x 1))
  ∧ (∀ (s : State) (n g : Nat), n < 8 → runs s n .pass2 → first s n (fun h => h ∉ (ue s n).doneGroups) g → Safety.untraced s →
      let u := ue s n
      let r := latched s u g
      ∃ t, Machine.exec (.uePass2 n g) s = .next t ∧ (ue t n).doneGroups = u.doneGroups ++ [g]
        ∧ (ue t n).mode = (if u.doneGroups.length + 1 < u.groups then .pass2 else .completing)
        ∧ (gEmb u.table g = false → (∀ i, i < rcpP2 r → fld (rcpOp r (rcpP1 r + i)) 31 26 ≠ 2 ∧ fld (rcpOp r (rcpP1 r + i)) 31 26 ≠ 3) → t.mem = s.mem))
  ∧ (∀ (s : State), alive s = true → two s → (∀ n, n < 8 → (ue s n).inService = true → (ue s n).mode = .completing) →
      (∀ k ∈ s.stackUnits, ∀ w ∈ k.2.waiting, w.x.iss.kind ≠ .ue) →
      let d := s.latch.pushDone
      ∃ t, Machine.exec .ueStepComplete s = .next t ∧ (d = 0 → t.mem = s.mem)
        ∧ (d ≠ 0 → d % 8 = 0 → localMemory s d = true → accessStatus s (ueIss 0) (.atom 4 false) d 8 = 0 → Safety.calm s →
            readNat t d 8 = (readNat s d 8 + 1) % 2 ^ 64 ∧ Safety.sameBytesBut s t d 8)
        ∧ t.verdict.applied = s.verdict.applied + 1 ∧ t.verdict.passes = false
        ∧ cfg t 0x610003 = (cfg s 0x610003 + 1) % 2 ^ 64
        ∧ ∀ n, n < 8 → (ue s n).inService = true → (ue t n).mode = .idle ∧ (ue t n).last = if (ue s n).failedGroups = [] then 1 else 4)

/-- Ports and their wavelengths (R317, R318, R320 to R322, R369, R373, R520). A lost or failed wavelength leaves the stripe: the port is
`DEGRADED`, and with fewer than 4 left it is out of service; each removed one is retrained at its own interval, and one that trains rejoins. Bring-up trains an enabled port; it enters service
with the wavelengths that passed, after its key exchange where the link is encrypted, and otherwise stays in `TRAINING` for another try after 1 s. Removing an ELSFP takes its 8 ports out of service; an inserted
one that reports normal power is lit again. The state and cause a port is left in are the model's (log 31). -/
def Obligations.PortsAndWavelengths : Prop :=
  let live := fun (s : State) (p : Nat) => (prt s p).mode = .active ∨ (prt s p).mode = .degraded
  let few := fun (tx rx : BitVec 8) => wlCount tx < 4 ∨ wlCount rx < 4
  let down := fun (t : State) (p : Nat) (mode : PortMode) (cause : Nat) => let x := prt t p
    x.mode = mode ∧ x.cause = cause ∧ x.wlTx = 0#8 ∧ x.wlRx = 0#8 ∧ x.outQ = [] ∧ x.sending = [] ∧ x.retry = [] ∧ x.keyed = false
  let out := fun (s t : State) (p wl : Nat) (rx : Bool) (cause : Nat) =>
    let b : BitVec 8 := 1#8 <<< wl
    let tx := if rx then (prt s p).wlTx else (prt s p).wlTx &&& ~~~b
    let rx' := if rx then (prt s p).wlRx &&& ~~~b else (prt s p).wlRx
    (few tx rx' → down t p (downMode cause) 8)
      ∧ (¬ few tx rx' → (prt t p).mode = .degraded ∧ (prt t p).wlTx = tx ∧ (prt t p).wlRx = rx' ∧ mget (prt t p).lastRetrain wl 0 = s.pace.now)
  let trains := fun (s : State) (p : Nat) => bit (cfg s 0x400003) p = true ∧ fwRuns s (5 + p / 8) = true ∧ p / 8 ∉ s.elsfpOut
  (∀ (s : State) (p wl : Nat) (rx : Bool), live s p → ((if rx then (prt s p).wlRx else (prt s p).wlTx).getLsbD wl) = true →
      ∃ t, Machine.exec (.wlLossOfSignal p wl rx) s = .next t ∧ out s t p wl rx 1 ∧ ∀ q, q ≠ p → (prt t q).mode = (prt s q).mode ∧ (prt t q).wlTx = (prt s q).wlTx ∧ (prt t q).wlRx = (prt s q).wlRx)
  ∧ (∀ (s : State) (tw wl i : Nat), i < 8 → live s (8 * tw + i) → (prt s (8 * tw + i)).wlTx.getLsbD wl = true →
      ∃ t, Machine.exec (.laserFault tw wl) s = .next t ∧ (tw, wl) ∈ t.laserBad ∧ out s t (8 * tw + i) wl false 3)
  ∧ (∀ (s : State) (p wl n : Nat) (rx : Bool), live s p → ((if rx then (prt s p).wlRx else (prt s p).wlTx).getLsbD wl) = true →
      (rx = false ∨ cfg s 0x400005 ≤ n → ∃ t, Machine.exec (.wlUncorrLimitReached p wl n rx) s = .next t ∧ out s t p wl rx 2)
      ∧ (rx = true → n < cfg s 0x400005 → Machine.exec (.wlUncorrLimitReached p wl n rx) s = .next s))
  ∧ (∀ (s : State) (p wl now : Nat), live s p → fwRuns s (5 + p / 8) = true → cfg s 0x400006 ≠ 0 →
      ((prt s p).wlTx.getLsbD wl = false ∨ (prt s p).wlRx.getLsbD wl = false) → (prt s p).retrain = none →
      mget (prt s p).lastRetrain wl 0 + cfg s 0x400006 * 1000000000 ≤ (clock s now).pace.now →
      ∃ t, Machine.exec (.wlRetrainStart p wl now) s = .next t ∧ (prt t p).retrain = some wl ∧ (∀ w, mget (prt t p).lastRetrain w 0 = if w = wl then (clock s now).pace.now else mget (prt s p).lastRetrain w 0)
        ∧ (prt t p).mode = (prt s p).mode)
  ∧ (∀ (s : State) (p wl : Nat) (ok : Bool), live s p → s.fwQueue = [] → fwRuns s (5 + p / 8) = true → (prt s p).retrain = some wl →
      let b : BitVec 8 := 1#8 <<< wl
      ∃ t, Machine.exec (.wlRetrainDone p wl ok) s = .next t ∧ (prt t p).retrain = none
        ∧ (prt t p).wlRx = (if ok then (prt s p).wlRx ||| b else (prt s p).wlRx)
        ∧ (prt t p).wlTx = (if ok ∧ (litMask s (p / 8)).getLsbD wl then (prt s p).wlTx ||| b else (prt s p).wlTx)
        ∧ ((prt t p).wlTx = 0xFF#8 → (prt t p).wlRx = 0xFF#8 → (prt t p).mode = .active))
  ∧ (∀ (s : State) (p now : Nat), live s p → (prt s p).lastAck + 100000 ≤ (clock s now).pace.now →
      ∃ t, Machine.exec (.portAckTimeout p now) s = .next t ∧ down t p .failed 4)
  ∧ (∀ (s : State) (w : ObjWrite) (p : Nat), Safety.accepted s w 0x400003 = true → p < 32 →
      ∃ t, Machine.exec (.portEnable w) s = .next t ∧ cfg t 0x400003 = leNat w.val % 2 ^ 32
        ∧ ((leNat w.val).testBit p = true → (prt s p).mode = .disabled → (prt t p).mode = .dark)
        ∧ ((leNat w.val).testBit p = true → (prt s p).mode ≠ .disabled → (prt t p).mode = (prt s p).mode)
        ∧ ((leNat w.val).testBit p = false → (prt t p).mode = .disabled))
  ∧ (∀ (s : State) (w : ObjWrite), Safety.accepted s w 0x400007 = true → bit (cfg s 0x400003) (leNat w.val) = true → leNat w.val < 32 →
      (serves s (5 + leNat w.val / 8) = false →
        ∃ t, Machine.exec (.portRetrain w) s = .next t ∧ t = { s with held := s.held ++ [(5 + leNat w.val / 8, .write 0x400007 w)] })
      ∧ (serves s (5 + leNat w.val / 8) = true → leNat w.val / 8 ∉ s.elsfpOut → ∃ t, Machine.exec (.portRetrain w) s = .next t ∧ (prt t (leNat w.val)).mode = .training ∧ (prt t (leNat w.val)).trainSince = s.pace.now))
  ∧ (∀ (s : State) (p now : Nat), (prt s p).mode ≠ .active → (prt s p).mode ≠ .degraded → (prt s p).mode ≠ .training → trains s p →
      ∃ t, Machine.exec (.portBringupStart p now) s = .next t ∧ (prt t p).mode = .training ∧ (prt t p).trainSince = (clock s now).pace.now)
  ∧ (∀ (s : State) (p now : Nat) (i : PeerInfo), s.fwQueue = [] → (prt s p).mode = .training → (prt s p).failedAt = none → fwRuns s (5 + p / 8) = true →
      let tx := i.tx &&& litMask s (p / 8)
      (i.enc = false → bit (cfg s 0x470001) p = false → ¬ few tx i.rx → ∃ t, Machine.exec (.portTrainingDone p now (some i)) s = .next t
        ∧ (prt t p).mode = (if tx = 0xFF#8 ∧ i.rx = 0xFF#8 then .active else .degraded) ∧ (prt t p).wlTx = tx ∧ (prt t p).wlRx = i.rx
        ∧ (prt t p).peerNode = i.node ∧ (prt t p).peerPort = i.port ∧ (prt t p).rxSeq = 0 ∧ (prt t p).txSeq = 0)
      ∧ (i.enc = true → bit (cfg s 0x470001) p = true → ¬ few tx i.rx → ∃ t, Machine.exec (.portTrainingDone p now (some i)) s = .next t
        ∧ (prt t p).mode = .training ∧ (prt t p).peer = some i ∧ (prt t p).failedAt = none ∧ (prt t p).farPub = [] ∧ (prt t p).ecdh = s.trust.nextKey)
      ∧ (few tx i.rx ∨ i.enc ≠ bit (cfg s 0x470001) p → ∃ t, Machine.exec (.portTrainingDone p now (some i)) s = .next t
        ∧ (prt t p).mode = .training ∧ (prt t p).failedAt = some (clock s now).pace.now)
      ∧ (∃ t, Machine.exec (.portTrainingDone p now none) s = .next t
        ∧ (prt t p).mode = .training ∧ (prt t p).failedAt = some (clock s now).pace.now))
  ∧ (∀ (s : State) (p now : Nat) (ok : Bool) (i : PeerInfo), s.fwQueue = [] → (prt s p).mode = .training → (prt s p).peer = some i → fwRuns s 0 = true →
      let x := prt s p
      let key := fun (e : Nat) => Config.linkKey (Config.ecdhShared x.ecdh x.farPub) (x.keyEpoch + 1) e
      ∃ t, Machine.exec (.portKeyExchangeDone p now ok) s = .next t ∧ (prt t p).peer = none
        ∧ (ok = true → x.farPub ≠ [] → ((prt t p).mode = .active ∨ (prt t p).mode = .degraded) ∧ (prt t p).keyEpoch = x.keyEpoch + 1 ∧ (prt t p).keyPackets = 0
          ∧ (prt t p).keysTx = [(0, key (nodeId s * 32 + p))] ∧ (prt t p).keysRx = [(0, key (x.peerNode * 32 + x.peerPort))])
        ∧ (ok = false ∨ x.farPub = [] → (prt t p).mode = .training ∧ (prt t p).failedAt = some (clock s now).pace.now))
  ∧ (∀ (s : State) (p now at_ : Nat), (prt s p).mode = .training → (prt s p).failedAt = some at_ → at_ + 1000000000 ≤ (clock s now).pace.now → trains s p →
      ∃ t, Machine.exec (.portBringupRetry p now) s = .next t ∧ (prt t p).mode = .training ∧ (prt t p).failedAt = none
        ∧ (prt t p).trainSince = (clock s now).pace.now)
  ∧ (∀ (s : State) (p wls now : Nat), (prt s p).mode = .dark → (prt s p).cause = 1 ∨ (prt s p).cause = 8 → 4 ≤ wls → trains s p →
      ∃ t, Machine.exec (.portLightDetect p wls now) s = .next t ∧ (prt t p).mode = .training)
  ∧ (∀ (s : State) (k : Nat), ∃ t, Machine.exec (.elsfpRemove k) s = .next t ∧ k ∈ t.elsfpOut
      ∧ ∀ i, i < 8 → (prt s (8 * k + i)).mode = .active ∨ (prt s (8 * k + i)).mode = .degraded ∨ (prt s (8 * k + i)).mode = .training →
          down t (8 * k + i) .dark 3)
  ∧ (∀ (s : State) (k : Nat), Machine.exec (.elsfpInsert k false) s = .next s)
  ∧ (∀ (s : State) (k : Nat), fwRuns s (5 + k) = true → ∃ t, Machine.exec (.elsfpInsert k true) s = .next t ∧ k ∉ t.elsfpOut
      ∧ (∀ wl, (k, wl) ∉ t.laserBad)
      ∧ ∀ i, i < 8 → bit (cfg s 0x400003) (8 * k + i) = true → (prt s (8 * k + i)).mode ≠ .active → (prt s (8 * k + i)).mode ≠ .degraded →
          (prt t (8 * k + i)).mode = .training)

/-- Links and what passes over them (R319, R324, R326, R328, R331, R334, R335, R366, R368 to R371, R438, R439, R486). A link frame with an uncorrectable codeword or
a failed tag asks for a replay, and the sixteenth failed tag within 1 ms takes the port out of service. Any other acknowledges this end's frames; its packet, opened by the key of its number where the link is encrypted, is accepted once, in order, where its
channel has room. A new key begins a new epoch. A Pace packet records its peer's offset, stratum and delay. Each port in service sends its time once a millisecond.
Every 100 µs credits are divided among the waiting partitions by their shares. A packet for another node leaves on a port of its route with one hop less; one too old, without a
hop, or without a route is discarded and counted, and a request without a hop or a route gets `NODE_UNREACHABLE`; one whose code fails is counted too. -/
def Obligations.LinksAndPassingPackets : Prop :=
  let onPort := fun (s t : State) (p : Nat) (pkt : Packet) => ∃ e : Queued, (prt t p).outQ = (prt s p).outQ ++ [e] ∧ e.pkt = pkt
  let taken := fun (s t : State) (p : Nat) (pkt : Packet) => (prt t p).inQ = (prt s p).inQ.erase pkt
  let unreached := fun (s t : State) (p : Nat) (pkt : Packet) => (prt t p).dropped = (prt s p).dropped + 1 ∧ t.mem = s.mem
    ∧ ∀ ty, pkt.rsp = false → responseType pkt.type = some ty → routes s pkt.src ≠ [] →
        Safety.answers s t pkt ty 0x12 (if pkt.type = 5 then List.replicate 8 0#8 else [])
  (∀ (s : State) (p seq now : Nat) (f : LinkFrame) (fecOk ask : Bool) (fixed : Nat), linkUp s p = true →
      let x := prt s p
      let u := (clock s now).pace.now
      let fails := (x.encFails.filter fun a => decide (u < a + 1000000)) ++ [u]
      (fecOk = false → ∃ t, Machine.exec (.linkFrame p seq now f fecOk ask fixed) s = .next t ∧ t.mem = s.mem
        ∧ prt t p = { x with corr := x.corr + fixed, uncorr := x.uncorr + 1, replayAsk := true })
      ∧ (fecOk = true → ∃ t, Machine.exec (.linkFrame p seq now f fecOk ask fixed) s = .next t
        ∧ (frameBody x seq f = none → (prt t p).inQ = x.inQ ∧ (prt t p).rxSeq = x.rxSeq
          ∧ (fails.length < 16 → prt t p = { x with corr := x.corr + fixed, replayAsk := true, encFails := fails })
          ∧ (16 ≤ fails.length → (prt t p).mode = .failed ∧ (prt t p).cause = 6))
        ∧ (∀ body, frameBody x seq f = some body →
          let pkt := pktParse f.word0 body f.poison f.pz
          let left := x.retry.filter fun r => decide (f.ack ≤ r.seq)
          let taken := body ≠ [] ∧ seq = x.rxSeq ∧ heldFlits x (vcOf pkt) + flitsOf pkt ≤ vcFlits (vcOf pkt)
          t = { clock s now with ports := t.ports } ∧ (∀ q, q ≠ p → prt t q = prt s q)
          ∧ (prt t p).corr = x.corr + fixed ∧ (prt t p).retry = left
          ∧ (prt t p).replays = (if ask then x.replays + left.length else x.replays)
          ∧ (left.length < x.retry.length ∨ left = [] → (prt t p).lastAck = u)
          ∧ (taken → (prt t p).rxSeq = x.rxSeq + 1 ∧ (prt t p).inQ = x.inQ ++ [pkt] ∧ (prt t p).replayAsk = false)
          ∧ (¬ taken → (prt t p).rxSeq = x.rxSeq ∧ (prt t p).inQ = x.inQ ∧ (prt t p).replayAsk = x.replayAsk))))
  ∧ (∀ (s : State) (p now seq : Nat), portUp s p = true → (prt s p).keyed = true → fwRuns s 0 = true → (prt s p).txSeq ≤ seq → (prt s p).rxSeq ≤ seq →
      2 ^ 32 ≤ (prt s p).keyPackets ∨ (prt s p).keySince + cfg s 0x470002 * 1000000000 ≤ (clock s now).pace.now →
      let x := prt s p
      let key := fun e => Config.linkKey x.shared (x.keyEpoch + 1) e
      ∃ t, Machine.exec (.linkRekey p now seq) s = .next t ∧ t = setPrt (clock s now) p { x with
        keyEpoch := x.keyEpoch + 1, keyPackets := 0, keySince := (clock s now).pace.now
        keysTx := (seq, key (nodeId s * 32 + p)) :: x.keysTx, keysRx := (seq, key (x.peerNode * 32 + x.peerPort)) :: x.keysRx })
  ∧ (∀ (s : State) (p now : Nat) (pkt : Packet), Safety.reaches s p pkt 0x18 = true →
      ∃ t, Machine.exec (.dnyLink p now pkt) s = .next t ∧ t = { clock s now with ports := t.ports } ∧ taken s t p pkt ∧ ∀ q, q ≠ p → prt t q = prt s q)
  ∧ (∀ (s : State) (p now : Nat) (pkt : Packet), Safety.reaches s p pkt 0x1D = true →
      ∃ t, Machine.exec (.dnyKeyx p now pkt) s = .next t ∧ t = { clock s now with ports := t.ports } ∧ taken s t p pkt ∧ (prt t p).farPub = pkt.payload
        ∧ ∀ q, q ≠ p → prt t q = prt s q)
  ∧ (∀ (s : State) (p now : Nat) (pkt : Packet) (m : PaceMsg), Safety.reaches s p pkt 0x19 = true →
      ∃ t, Machine.exec (.dnyPace p now pkt m) s = .next t ∧ (prt t p).peerOffset = m.offset ∧ (prt t p).peerStratum = m.stratum
        ∧ (prt t p).peerLocked = m.locked ∧ (prt t p).linkDelay = m.delay ∧ t.mem = s.mem ∧ taken s t p pkt
        ∧ (prt t p).peerLate = (prt s p).peerLate + (if 5000 < m.offset.natAbs then 1 else 0)
        ∧ (cfg s 0x200001 ≠ 2 → t.pace = (clock s now).pace))
  ∧ (∀ (s : State) (p now seq : Nat) (u : State), portUp s p = true → (prt s p).lastPace + 1000000 ≤ (clock s now).pace.now →
      takeSeq (clock s now) (0x441 + p / 8) = some (seq, u) →
      ∃ t, Machine.exec (.pacePacketSend p now) s = .next t ∧ (prt t p).lastPace = (clock s now).pace.now
        ∧ ∃ pkt, onPort s t p pkt ∧ pkt.type = 0x19 ∧ pkt.cls = 3 ∧ pkt.dst = (prt s p).peerNode ∧ pkt.src = nodeId s ∧ pkt.seq = seq
          ∧ leNat (pkt.payload.take 8) = (clock s now).pace.now % 2 ^ 64 ∧ pktCode pkt = pkt.ecrc)
  ∧ (∀ (s : State) (now p q cls total : Nat), (cls, total) ∈ [(1, 8192), (2, 1024)] → q < 16 → (mfind s.ports p).isSome = true →
      let waits := fun q' => (prt s p).outQ.any fun e => e.pkt.cls == cls && !e.pkt.rsp && jkeyPart s e.pkt.jkey == q'
      let share := fun q' => cfg s (partKey q' 7)
      ((clock s now).pace.now < s.lastEpoch + 100000 → Machine.exec (.creditEpoch now) s = .next (clock s now))
      ∧ (s.lastEpoch + 100000 ≤ (clock s now).pace.now → waits q = true →
        ∃ t, Machine.exec (.creditEpoch now) s = .next t ∧ t.lastEpoch = (clock s now).pace.now
          ∧ mget (prt t p).credits (cls * 16 + q) 0 = total * share q / max 1 (((List.range 16).filter fun q' => waits q').map share).sum))
  ∧ (∀ (s : State) (p now : Nat) (pkt : Packet), alive s = true → pkt.dst ≠ nodeId s → atFront (prt s p) pkt = true →
      let u := clock s now
      let d := pkt.cls = 0 ∧ pkt.rsp = false
      let old := tooOld u pkt = true
      let free := ¬ d ∨ (s.paths = [] ∧ (∀ r ∈ s.requests, r.passing = false) ∧ cfg s 0x420002 = 0)
      let out := { pkt with hops := pkt.hops - 1 }
      let own := joinedAlready s out = true ∨ (pkt.type = 5 ∧ pkt.rsp = false ∧ splitResult u out ≠ none)
      (d → channelStopped u p = true → Machine.exec (.packetForward p now pkt) s = .next u)
      ∧ (¬ d ∨ channelStopped u p = false →
        (d → old → ∃ t, Machine.exec (.packetForward p now pkt) s = .next t ∧ t = { u with ports := t.ports } ∧ taken s t p pkt
          ∧ (prt t p).dropped = (prt s p).dropped + 1 ∧ ∀ q, q ≠ p → prt t q = prt s q)
        ∧ (¬ d ∨ ¬ old → pkt.hops ≤ 1 ∨ (routes s pkt.dst = [] ∧ ¬ own) →
          ∃ t, Machine.exec (.packetForward p now pkt) s = .next t ∧ taken s t p pkt ∧ unreached s t p pkt)
        ∧ (¬ d ∨ ¬ old → 1 < pkt.hops → routes s pkt.dst ≠ [] → ¬ own → free →
          ∃ t port, Machine.exec (.packetForward p now pkt) s = .next t ∧ taken s t p pkt ∧ port ∈ routes s pkt.dst ∧ onPort s t port out ∧ t.mem = s.mem
            ∧ ∀ x, x ≠ port → (prt t x).outQ = (prt s x).outQ)))
  ∧ (∀ (s : State) (i now : Nat) (r : Request), r ∈ s.requests → r.id = i → (∀ q ∈ s.requests, q.id = i → q = r) → r.held = .path → r.passing = true →
      let u := clock s now
      let gone := fun (t : State) => ∀ q ∈ t.requests, q.id ≠ i
      (tooOld u r.pkt = true → ∃ t, Machine.exec (.pathChangeRelease i now) s = .next t ∧ gone t ∧ (prt t r.port).dropped = (prt s r.port).dropped + 1)
      ∧ (tooOld u r.pkt = false → routes s r.pkt.dst = [] → ∃ t, Machine.exec (.pathChangeRelease i now) s = .next t ∧ gone t ∧ unreached s t r.port r.pkt)
      ∧ (tooOld u r.pkt = false → r.pkt.cls = 0 → routes s r.pkt.dst ≠ [] → cfg s 0x420002 = 0 → s.paths = [] → (∀ q ∈ s.requests, q.passing = true → q = r) →
        ∃ t port, Machine.exec (.pathChangeRelease i now) s = .next t ∧ gone t ∧ port ∈ routes s r.pkt.dst ∧ onPort s t port r.pkt))
  ∧ (∀ (s : State) (p now : Nat) (pkt : Packet), alive s = true → pkt.type = 0x18 → pkt.dst = nodeId s → atFront (prt s p) pkt = true → pktCode pkt ≠ pkt.ecrc →
      ∃ t, Machine.exec (.dnyLink p now pkt) s = .next t ∧ taken s t p pkt ∧ (prt t p).dropped = (prt s p).dropped + 1)

/-- D-class requests at their destination (R335, R338, R339, R341, R343 to R345, R352, R353, Table 11.9). A request is performed as a module-local access and
answered with its status: a load with the bytes read, a store after its masked bytes, and only they, are written, an atomic with the old value after the new one is
written, its tag and outcome recorded at its port. A request its checks refuse changes no byte. A tag the port holds is answered from the table; a retry whose tag it
does not hold is answered `OUTCOME_UNKNOWN` and recorded; with a full table an atomic waits in the side queue. A request to a busy line waits in the hot-line buffer; with that buffer or the
side queue full the port's request channel stops; and a request older than 40 µs is discarded. -/
def Obligations.RemoteRequestsAtTheirDestination : Prop :=
  let recs := fun (t : State) (p : Nat) (q : Packet) (st v : Nat) =>
    (prt t p).table.getLast?.map (fun (e : Replay) => (e.src, e.engine, e.seq, e.status, e.value)) = some (q.src, q.engine, q.seq, st, v)
  let loaded := fun (s t : State) (p : Nat) (q : Packet) =>
    let n := 8 * (q.aux % 32)
    let st := remoteStatus s p q .load q.offset n
    Safety.sameBytes s t ∧ (st ≠ 0 → Safety.answers s t q 2 st [])
      ∧ (st = 0 → Safety.answers s t q 2 (if poisoned s q.offset n then 8 else 0) (readMem s q.offset n))
  let stored := fun (s t : State) (p : Nat) (q : Packet) =>
    let runs := maskRuns q.payload
    let base := q.offset / 128 * 128
    let first := (runs.headD (0, [])).1
    let last := (runs.getLast?.map fun r => r.1 + r.2.length).getD first
    let mask := leNat (q.payload.take 16)
    let unit0 := ((List.range 16).find? fun u => fld mask (8 * u + 7) (8 * u) != 0).getD 0
    let st := remoteStatus s p q .store (base + first) (last - first)
    (st ≠ 0 → Safety.answers s t q 4 st [] ∧ Safety.sameBytes s t)
      ∧ (st = 0 → Safety.answers s t q 4 0 [] ∧ Safety.sameBytesBut s t base 128
        ∧ ∀ b, b < 128 → readMem t (base + b) 1 = if bit mask b then [q.payload.getD (16 + (b - 8 * unit0)) 0#8] else readMem s (base + b) 1)
  let applied := fun (s t : State) (p : Nat) (q : Packet) =>
    let n := if q.aux % 2 = 1 then 8 else 4
    let st := remoteStatus s p q (.atom (q.aop + 4) true) q.offset n
    let old := readNat s q.offset n
    (st ≠ 0 → Safety.answers s t q 6 st (leBytes 8 0) ∧ Safety.sameBytes s t ∧ recs t p q st 0)
      ∧ (st = 0 → Safety.answers s t q 6 (if poisoned s q.offset n then 8 else 0) (leBytes 8 old)
        ∧ recs t p q (if poisoned s q.offset n then 8 else 0) old
        ∧ Safety.sameBytesBut s t q.offset n
        ∧ readNat t q.offset n = (atomOp (q.aop + 4) (8 * n) old (pktOperand q % 2 ^ (8 * n)) (leNat ((q.payload.drop 8).take 8) % 2 ^ (8 * n))).1 % 256 ^ n)
  let ready := fun (s : State) (q : Packet) => Safety.calm s ∧ routes s q.src ≠ [] ∧ lineWaits s (pktLine q) = 0 ∧ waits s q.offset = false
  let opens := fun (s : State) (p now : Nat) (q : Packet) => channelStopped s p = false ∧ hotBlocked (clock s now) q = false
  let ops : List (Nat × (Nat → Nat → Packet → Instr)) := [(1, .dnyLd), (3, .dnySt), (5, .dnyAtom)]
  (∀ (s : State) (p now : Nat) (q : Packet), Safety.reaches s p q 1 = true → channelStopped s p = false → tooOld (clock s now) q = false → ready s q →
      ∃ t, Machine.exec (.dnyLd p now q) s = .next t ∧ loaded (clock s now) t p q)
  ∧ (∀ (s : State) (p now : Nat) (q : Packet), Safety.reaches s p q 3 = true → channelStopped s p = false → tooOld (clock s now) q = false → ready s q →
      lineBusy (clock s now) (pktLine q) = false → ∃ t, Machine.exec (.dnySt p now q) s = .next t ∧ stored (clock s now) t p q)
  ∧ (∀ (s : State) (p now : Nat) (q : Packet), Safety.reaches s p q 5 = true → channelStopped s p = false → tooOld (clock s now) q = false → recorded s p q = none →
      tableFull (clock s now) p = false → (prt s p).side = [] → q.retry = 0 → ready s q → lineBusy (clock s now) (pktLine q) = false →
      ∃ t, Machine.exec (.dnyAtom p now q) s = .next t ∧ applied (clock s now) t p q)
  ∧ (∀ (s : State) (p now : Nat) (q : Packet), Safety.reaches s p q 5 = true → opens s p now q → tooOld (clock s now) q = false → routes s q.src ≠ [] →
      (∀ e, recorded s p q = some e → ∃ t, Machine.exec (.dnyAtom p now q) s = .next t ∧ Safety.answers s t q 6 e.status (leBytes 8 e.value)
        ∧ t.mem = s.mem ∧ (prt t p).replayHits = (prt s p).replayHits + 1)
      ∧ (recorded s p q = none → tableFull (clock s now) p = false → (prt s p).side = [] → q.retry ≠ 0 →
        ∃ t, Machine.exec (.dnyAtom p now q) s = .next t ∧ Safety.answers s t q 6 0x10 (leBytes 8 0) ∧ t.mem = s.mem ∧ recs t p q 0x10 0)
      ∧ (recorded s p q = none → tableFull (clock s now) p = true ∨ (prt s p).side ≠ [] →
        ∃ t e, Machine.exec (.dnyAtom p now q) s = .next t ∧ (prt t p).side = (prt s p).side ++ [{ q with ecn := e }] ∧ t.mem = s.mem))
  ∧ (∀ (s : State) (p now : Nat) (q : Packet) (more : List Packet), (prt s p).side = q :: more → tableFull (clock s now) p = false → hotBlocked (clock s now) q = false → routes s q.src ≠ [] →
      (tooOld (clock s now) q = true → ∃ t, Machine.exec (.atomSideQueueRelease p now) s = .next t ∧ (prt t p).side = more
        ∧ (prt t p).dropped = (prt s p).dropped + 1 ∧ t.mem = s.mem)
      ∧ (tooOld (clock s now) q = false → q.retry ≠ 0 → ∃ t, Machine.exec (.atomSideQueueRelease p now) s = .next t ∧ (prt t p).side = more
        ∧ Safety.answers s t q 6 0x10 (leBytes 8 0) ∧ t.mem = s.mem ∧ recs t p q 0x10 0)
      ∧ (tooOld (clock s now) q = false → q.type = 5 → q.retry = 0 → ready s q → lineBusy (clock s now) (pktLine q) = false →
        ∃ t, Machine.exec (.atomSideQueueRelease p now) s = .next t ∧ (prt t p).side = more ∧ applied (clock s now) t p q))
  ∧ (∀ (s : State) (tw line now p : Nat) (q : Packet) (rest : List (Nat × Packet)), s.hotLines = (p, q) :: rest → pktLine q = line → homeTower s q.offset = tw →
      lineBusy (clock s now) line = false → waits s q.offset = false →
      (tooOld (clock s now) q = true → ∃ t, Machine.exec (.hotLineApply tw line now) s = .next t ∧ t.hotLines = rest
        ∧ (prt t p).dropped = (prt s p).dropped + 1 ∧ t.mem = s.mem)
      ∧ (tooOld (clock s now) q = false → Safety.calm s → routes s q.src ≠ [] →
        ∃ t, Machine.exec (.hotLineApply tw line now) s = .next t ∧ t.hotLines = rest ∧ (q.type = 1 → loaded (clock s now) t p q)
          ∧ (q.type = 3 → stored (clock s now) t p q) ∧ (q.type = 5 → applied (clock s now) t p q)))
  ∧ (∀ op ∈ ops, ∀ (s : State) (p now : Nat) (q : Packet), Safety.reaches s p q op.1 = true →
      (channelStopped s p = true ∨ hotBlocked (clock s now) q = true → Machine.exec (op.2 p now q) s = .next (clock s now))
      ∧ (opens s p now q → tooOld (clock s now) q = true → ∃ t, Machine.exec (op.2 p now q) s = .next t ∧ t = { clock s now with ports := t.ports }
        ∧ (prt t p).inQ = (prt s p).inQ.erase q ∧ (prt t p).dropped = (prt s p).dropped + 1)
      ∧ (opens s p now q → tooOld (clock s now) q = false → op.1 ≠ 5 → needsHot (clock s now) q = true →
        ∃ t e, Machine.exec (op.2 p now q) s = .next t ∧ t.hotLines = s.hotLines ++ [(p, { q with ecn := e })] ∧ t.mem = s.mem))

/-- What answers to D-class requests, and their absence, do at the source (R118, R166, R337, R340, R341, R346, R355, R380). A load's lanes get the response's
bytes, extended, a merged atomic's lanes the values they would have met one after another; a fault, and 50 µs without an answer to a load or store
(`NO_RESPONSE`), give the lanes 0 and are recorded in `MSTAT` or raised as `MEM_FAULT` with the address of the lowest lane; an atomic is sent again, three times with the same tag, and then ends as
`OUTCOME_UNKNOWN`. A response that answers no request only leaves the input buffer; one with `ECE` halves its window. -/
def Obligations.AnswersToDirectRequests : Prop :=
  let one := fun (s : State) (r : Request) => s.requests = [r] ∧ r.held = .sent ∧ r.passing = false ∧ r.joined = [] ∧ r.next = [] ∧ r.tld = none
  let ofCrew := fun (s : State) (r : Request) (d : CrewDst) => r.crew = some d ∧ (mfind (clu s d.cluster).crews d.slot).isSome = true ∧ d.dst ≠ 0x200
    ∧ opKind d.dst = .vec ∧ d.size ∈ [1, 2, 4, 8] ∧ (∀ l ∈ d.lanes, l.1 < 32) ∧ (d.lanes.map (·.1)).Nodup ∧ d.lanes ≠ []
  let at_ := fun (t : State) (d : CrewDst) (l : Nat) => srcLane t (insAt t d.cluster d.slot d.pc d.instr) (max 32 (8 * d.size)) d.dst l
  let minor := fun (d : CrewDst) => fld d.instr.toNat 53 50
  let acq := fun (s t : State) (d : CrewDst) => fld d.instr.toNat 63 58 = 0x10 → minor d ≠ 2 → bit d.instr.toNat 5 = true → fld d.instr.toNat 4 2 ≠ 0 →
    (∀ h ∈ s.headframes, h.2.waiting = []) → (clu t d.cluster).l1 = []
  let fails := fun (s t : State) (d : CrewDst) (st : Nat) =>
    let x := crw s d.cluster d.slot
    (x.mreport = true → t.requests = [] ∧ Safety.sameBytes s t ∧ (d.hasDst = true → ∀ l ∈ d.lanes, at_ t d l.1 = (0, false))
      ∧ ∀ l ∈ d.lanes, mget x.mstat l.1 0#32 = 0#32 → mget (crw t d.cluster d.slot).mstat l.1 0#32 = BitVec.ofNat 32 (65536 + st))
    ∧ (x.mreport = false → (krn s x.kernel).mode ≠ .ended → (krn s x.kernel).contained = false →
      ∃ l ∈ d.lanes, (∀ m ∈ d.lanes, l.1 ≤ m.1) ∧ Safety.raised s t d.cluster d.slot d.pc d.instr
        { code := 8, lanes := maskOf (d.lanes.map (·.1)), addr := d.base + l.2, status := st })
  let answer := fun (s : State) (p : Nat) (q : Packet) (type of : Nat) (r : Request) => Safety.reaches s p q type = true ∧ one s r ∧ r.pkt.type = of
    ∧ r.pkt.engine = q.engine ∧ r.pkt.seq = q.seq
  (∀ (s : State) (p now : Nat) (q : Packet) (r : Request) (d : CrewDst), answer s p q 2 1 r → ofCrew s r d → d.hasDst = true → minor d < 4 → q.status = 0 ∨ q.status = 8 →
      ∃ t, Machine.exec (.dnyLdRsp p now q) s = .next t ∧ t.requests = [] ∧ Safety.sameBytes s t ∧ acq s t d
        ∧ ∀ l ∈ d.lanes, at_ t d l.1 = (let v := leNat ((q.payload.drop l.2).take d.size)
            if d.signed then ((BitVec.ofNat (8 * d.size) v).signExtend (max 32 (8 * d.size))).toNat else v, q.poison))
  ∧ (∀ (s : State) (p now : Nat) (q : Packet) (r : Request) (d : CrewDst), answer s p q 4 3 r → ofCrew s r d → d.hasDst = false → q.status = 0 →
      ∃ t, Machine.exec (.dnyStAck p now q) s = .next t ∧ t.requests = [] ∧ Safety.sameBytes s t ∧ crw t d.cluster d.slot = crw s d.cluster d.slot)
  ∧ (∀ (s : State) (p now : Nat) (q : Packet) (r : Request) (d : CrewDst), answer s p q 6 5 r → ofCrew s r d → d.hasDst = true → 4 ≤ minor d → 4 ≤ d.size →
      q.status = 0 → q.poison = false → (∀ l ∈ d.lanes, (atomOperand s (insAt s d.cluster d.slot d.pc d.instr) l.1).2.2 = false) →
      (insAt s d.cluster d.slot d.pc d.instr).size = d.size →
      let i := insAt s d.cluster d.slot d.pc d.instr
      let u := clock s now
      ∃ t, Machine.exec (.dnyAtomRsp p now q) s = .next t ∧ t.requests = [] ∧ Safety.sameBytes s t ∧ acq s t d
        ∧ ∀ j, ∀ l ∈ d.lanes[j]?, at_ t d l.1 = (((d.lanes.take j).foldl (fun v m => (atomOp (minor d) (8 * d.size) v (atomOperand u i m.1).1 (atomOperand u i m.1).2.1).1)
            (leNat (q.payload.take d.size))) % 256 ^ d.size, false))
  ∧ (∀ op ∈ ([(.dnyLdRsp, 2, 1), (.dnyStAck, 4, 3), (.dnyAtomRsp, 6, 5)] : List ((Nat → Nat → Packet → Instr) × Nat × Nat)),
      ∀ (s : State) (p now : Nat) (q : Packet), Safety.reaches s p q op.2.1 = true →
      (matching s q.engine q.seq op.2.2 = none → ∃ t, Machine.exec (op.1 p now q) s = .next t ∧ t = { clock s now with ports := t.ports }
        ∧ (prt t p).inQ = (prt s p).inQ.erase q)
      ∧ (∀ r d, answer s p q op.2.1 op.2.2 r → ofCrew s r d → q.status ≠ 0 → q.status ≠ 8 → q.status < 65536 →
          ∃ t, Machine.exec (op.1 p now q) s = .next t ∧ fails (clock s now) t d q.status)
      ∧ (∀ r, answer s p q op.2.1 op.2.2 r → r.crew = none → q.ece = true → (window s 0 q.engine r.pkt.dst).halvedAt = none →
          ∃ t, Machine.exec (op.1 p now q) s = .next t ∧ t.requests = []
            ∧ (window t 0 q.engine r.pkt.dst).size = max 1 ((window s 0 q.engine r.pkt.dst).size / 2)))
  ∧ (∀ op ∈ ([(.ldTimeout, 1), (.stAckTimeout, 3)] : List ((Nat → Nat → Instr) × Nat)), ∀ (s : State) (now : Nat) (r : Request) (d : CrewDst),
      one s r → ofCrew s r d → r.pkt.type = op.2 → r.issued + 50000 ≤ (clock s now).pace.now →
      ∃ t, Machine.exec (op.1 r.id now) s = .next t ∧ fails (clock s now) t d 0x11)
  ∧ (∀ (s : State) (now : Nat) (r : Request), one s r → r.pkt.type = 5 → r.issued + 50000 ≤ (clock s now).pace.now →
      (r.pkt.retry < 3 → r.read = none → (∀ x ∈ s.ports, x.2.split = []) → sourceStatus s r.pkt ≠ 0 → ∃ t q, Machine.exec (.atomRetryTimeout r.id now) s = .next t
        ∧ t.requests = [q] ∧ q.pkt.retry = r.pkt.retry + 1 ∧ q.pkt.seq = r.pkt.seq ∧ q.held = .sent ∧ q.issued = (clock s now).pace.now ∧ t.ports = s.ports ∧ t.mem = s.mem)
      ∧ (r.pkt.retry < 3 → r.read = none → (∀ x ∈ s.ports, x.2.split = []) → r.pkt.cls = 0 → r.pkt.rsp = false → sourceStatus s r.pkt = 0 →
        0 < (window s 0 r.pkt.engine r.pkt.dst).size → ∃ t, Machine.exec (.atomRetryTimeout r.id now) s = .next t ∧ t.mem = s.mem
        ∧ ∃ port ∈ routes s r.pkt.dst, ∃ e : Queued, (prt t port).outQ = (prt s port).outQ ++ [e] ∧ e.pkt.retry = r.pkt.retry + 1
          ∧ e.pkt.engine = r.pkt.engine ∧ e.pkt.seq = r.pkt.seq ∧ e.pkt.src = r.pkt.src ∧ e.pkt.offset = r.pkt.offset ∧ e.pkt.payload = r.pkt.payload
          ∧ e.pkt.birth = (clock s now).pace.now % 2 ^ 32)
      ∧ (∀ d, 3 ≤ r.pkt.retry → ofCrew s r d → ∃ t, Machine.exec (.atomRetryTimeout r.id now) s = .next t ∧ fails (clock s now) t d 0x10))

/-- B-class transfers and headframe windows (R279, R338, R339, R356, R359, R361, R362). An allowed bulk write puts its payload at its address and nothing else, and is
answered `OK`; one its checks refuse writes nothing; a bulk read returns the bytes; both stay in the input buffer while a local access would wait. An accumulating share goes to its bucket. At the source, the answer to a read completes
the load, copy or transaction that waited for it, and the acknowledgement of a run removes it; a failed run is kept for its crews and counted; a transfer unanswered for 1 ms ends as
`NO_RESPONSE`. A run that has not grown for the gather time is sent as one bulk write, or fails where its node has no route. -/
def Obligations.BulkTransfersAndWindows : Prop :=
  let only := fun (s : State) (r : Request) => s.requests = [r] ∧ r.held = .sent ∧ r.passing = false ∧ r.bucket = none ∧ r.sealCh = none ∧ r.push = none ∧ r.tld = none
  let match_ := fun (r : Request) (q : Packet) (type : Nat) => r.pkt.engine = q.engine ∧ r.pkt.seq = q.seq ∧ r.pkt.type = type
  let err := fun (s t : State) (w : Nat) => mget t.hfErrors w 0 = mget s.hfErrors w 0 + 1
  let lost := fun (s t : State) (tw : Nat) (g : Run) (st : Nat) => (hf t tw).runs = [] ∧ t.requests = [] ∧ t.mem = s.mem ∧ err s t g.win
    ∧ (hf t tw).failures = (hf s tw).failures ++ g.crews.map fun c => (c, st, g.first)
  (∀ (s : State) (p now : Nat) (q : Packet), bwrWaits s q = true → Machine.exec (.dnyBwr p now q) s = .next (clock s now))
  ∧ (∀ (s : State) (p now : Nat) (q : Packet), Safety.reaches s p q 8 = true → ingestOf s q = none → Safety.calm s → routes s q.src ≠ [] →
      let st := remoteStatus s p q .store q.offset q.payload.length
      (st ≠ 0 → ∃ t, Machine.exec (.dnyBwr p now q) s = .next t ∧ Safety.answers s t q 0xC st [] ∧ Safety.sameBytes s t)
      ∧ (st = 0 → ∃ t, Machine.exec (.dnyBwr p now q) s = .next t ∧ Safety.answers s t q 0xC 0 []
        ∧ readMem t q.offset q.payload.length = q.payload ∧ Safety.sameBytesBut s t q.offset q.payload.length))
  ∧ (∀ (s : State) (p now : Nat) (q : Packet), ∃ t, Machine.exec (.dnyBacc p now q) s = .next t ∧ Machine.exec (.bucketContribution p q) (clock s now) = .next t)
  ∧ (∀ (s : State) (p now j : Nat) (q : Packet), Safety.reaches s p q 9 = true → routes s q.src ≠ [] →
      let w := leNat (q.payload.take 8)
      let b := w % 256
      let x := bkt s b
      let n := (q.payload.length - 16) / (if w.testBit 8 then 2 else 4)
      x.live = true → leNat ((q.payload.drop 8).take 8) = x.step → fld w 63 32 = x.tag →
      ((List.range x.g).find? fun j => x.node s j == q.src && j != x.rank) = some j → q.offset + 4 * n ≤ x.len x.rank → j ∉ x.shares →
      (inbound s q.jkey (x.stage + q.offset) (4 * n) true = false → ∃ t, Machine.exec (.dnyBacc p now q) s = .next t ∧ Safety.answers s t q 0xC 0x14 [] ∧ t.towers = s.towers)
      ∧ (inbound s q.jkey (x.stage + q.offset) (4 * n) true = true →
        (∀ a, x.stage + q.offset ≤ a → a < x.stage + q.offset + 4 * n → accwStatus s (bucketIss b) (a / 128 * 128) = 0) →
        ∃ t, Machine.exec (.dnyBacc p now q) s = .next t ∧ t.mem = s.mem ∧ mget (bkt t b).got j 0 = mget x.got j 0 + 4 * n
          ∧ Safety.answers s t q 0xC 0 []))
  ∧ (∀ (s : State) (p now : Nat) (q : Packet), Safety.reaches s p q 0xA = true → routes s q.src ≠ [] →
      let n := q.aux % 65536
      let st := remoteStatus s p q .load q.offset n
      (bulkWaits s q.offset n = true → Machine.exec (.dnyBrd p now q) s = .next (clock s now))
      ∧ (bulkWaits s q.offset n = false → st ≠ 0 → ∃ t, Machine.exec (.dnyBrd p now q) s = .next t ∧ t.mem = s.mem ∧ Safety.answers s t q 0xB st [])
      ∧ (Safety.calm s → st = 0 → ∃ t, Machine.exec (.dnyBrd p now q) s = .next t ∧ Safety.sameBytes s t
        ∧ Safety.answers s t q 0xB (if poisoned s q.offset n then 8 else 0) (readMem s q.offset n)))
  ∧ (∀ (s : State) (p now : Nat) (q : Packet) (r : Request) (tw w : Nat) (l : WinLoad), Safety.reaches s p q 0xB = true → only s r → match_ r q 0xA →
      r.read = some (tw, w) → (hf s tw).waiting = [l] → l.req = r.id →
      let data := (q.payload.drop (l.off - r.pkt.offset)).take l.size
      let bad := q.status ≠ 0 ∧ q.status ≠ 8
      let done := fun (t : State) => t.requests = [] ∧ (hf t tw).waiting = [] ∧ Safety.sameBytes s t ∧ (bad → err s t w) ∧ (¬ bad → t.hfErrors = s.hfErrors)
      (∀ x, l.who = .xact x → ∃ t, Machine.exec (.dnyBrdRsp p now q) s = .next t ∧ done t
        ∧ ∃ d, t.completions = s.completions ++ [{ tag := x.tag, status := q.status, data := d, poison := q.poison }]
          ∧ d = if bad then List.replicate x.size 0#8 else padTo x.size (data.drop (x.addr - l.addr)))
      ∧ (∀ e, l.who = .copy e → ∃ t, Machine.exec (.dnyBrdRsp p now q) s = .next t ∧ done t
        ∧ (cpe t e).reads = (cpe s e).reads ++ [(l.addr, q.status, padTo l.size data, q.poison)] ∧ (cpe t e).left = (cpe s e).left - 1)
      ∧ (∀ d, l.who = .crew d → (mfind (clu s d.cluster).crews d.slot).isSome = true → d.hasDst = true → d.dst ≠ 0x200 → opKind d.dst = .vec → d.size ∈ [1, 2, 4, 8] →
        fld d.instr.toNat 53 50 < 4 → (∀ m ∈ d.lanes, m.1 < 32) → (d.lanes.map (·.1)).Nodup → ¬ bad ∨ (crw s d.cluster d.slot).mreport = true →
        ∃ t, Machine.exec (.dnyBrdRsp p now q) s = .next t ∧ done t
          ∧ ∀ m ∈ d.lanes, srcLane t (insAt t d.cluster d.slot d.pc d.instr) (max 32 (8 * d.size)) d.dst m.1 = if bad then (0, false) else
              (let v := leNat ((data.drop m.2).take d.size)
               if d.signed then ((BitVec.ofNat (8 * d.size) v).signExtend (max 32 (8 * d.size))).toNat else v, q.poison)))
  ∧ (∀ (s : State) (r : Request) (tw : Nat) (g : Run), only s r → r.read = none → r.run = some (tw, g.id) → (hf s tw).runs = [g] → (hf s tw).held = [] → (hf s tw).stores = [] →
      (∀ (p now : Nat) (q : Packet), Safety.reaches s p q 0xC = true → match_ r q 8 →
        (q.status = 0 ∨ q.status = 8 → ∃ t, Machine.exec (.dnyBack p now q) s = .next t ∧ (hf t tw).runs = [] ∧ t.requests = [] ∧ t.mem = s.mem ∧ (hf t tw).failures = (hf s tw).failures)
        ∧ (q.status ≠ 0 → q.status ≠ 8 → ∃ t, Machine.exec (.dnyBack p now q) s = .next t ∧ lost s t tw g q.status))
      ∧ (∀ now, r.pkt.cls = 1 → r.issued + 1000000 ≤ (clock s now).pace.now → ∃ t, Machine.exec (.bulkTimeout r.id now) s = .next t ∧ lost s t tw g 0x11))
  ∧ (∀ (s : State) (tw now : Nat) (g : Run), (hf s tw).runs = [g] → g.sent = false → s.requests = [] → s.seqTimes = [] →
      g.grewAt + cfg s 0x440011 ≤ (clock s now).pace.now →
      let node := fld (hfRemote s g.win) 63 50
      (routes s node = [] → ∃ t, Machine.exec (.hfGatherTimeout tw g.id now) s = .next t ∧ lost s t tw g 0x12)
      ∧ (routes s node ≠ [] → (window s 1 (0x42C + tw) node).size ≠ 0 →
        ∃ t, Machine.exec (.hfGatherTimeout tw g.id now) s = .next t ∧ t.mem = s.mem ∧ (hf t tw).runs = [{ g with due := true, sent := true }]
        ∧ ∃ port ∈ routes s node, ∃ e : Queued, (prt t port).outQ = (prt s port).outQ ++ [e] ∧ e.pkt.type = 8 ∧ e.pkt.cls = 1 ∧ e.pkt.dst = node
          ∧ e.pkt.payload = g.bytes ∧ e.pkt.offset = fld (hfRemote s g.win) 47 0 + (g.first - hfBase s g.win)))

/-- M-class messages (R363 to R365). A doorbell posts a message with the next sequence number of its queue and node and sends it once those before it have ended. An
arriving message that is later than the last of its source fills the next posted buffer, whose entry becomes free, with a completion entry and source 0x120 + queue, and is acknowledged; a part of one is kept; a duplicate is acknowledged and discarded;
without a buffer it is not acknowledged. The sender counts it delivered on the acknowledgement, sends it again every 10 µs without, and ends it after `MSG_RETRY_MS` as `QUEUE_FULL`, or
`NODE_UNREACHABLE` where no packet of it could be routed. Where the rings lie in the operating-system region is the model's choice (log 37). -/
def Obligations.Messages : Prop :=
  let sent := fun (s t : State) (m : Message) => ∃ port ∈ routes s m.node, ∃ e : Queued, (prt t port).outQ = (prt s port).outQ ++ [e] ∧ e.pkt.type = 0x10
    ∧ e.pkt.cls = 2 ∧ e.pkt.dst = m.node ∧ e.pkt.src = nodeId s ∧ e.pkt.payload = m.body ∧ e.pkt.aux = m.rq * 65536 + m.seq
  let again := fun (m : Message) (now : Nat) (l : List Nat) => { m with sentAt := now, nakked := false, noRoute := false, waiting := false, seqs := l }
  let fresh := fun (seq want : Nat) => (seq + 65536 - want) % 65536 < 32768
  -- a buffer at `addr` that the receive path may write, apart from the ring entries it changes
  let fits := fun (s : State) (rq n addr : Nat) =>
    let a := postRing s rq (mget s.recvQueues rq {}).taken
    let d := doneRing s rq (mget s.recvQueues rq {}).written
    Safety.calm s ∧ (∀ p ∈ linePieces addr n ++ linePieces (a + 8) 8 ++ linePieces d 16, accessStatus s rxIss .store p.1 p.2 = 0)
      ∧ (addr + n ≤ a + 8 ∨ a + 16 ≤ addr) ∧ (addr + n ≤ d ∨ d + 16 ≤ addr)
  let into := fun (s t : State) (src sq rq seq : Nat) (body : List Byte) (addr : Nat) =>
    let x := mget s.recvQueues rq {}
    let y := mget t.recvQueues rq {}
    let a := postRing s rq x.taken
    let d := doneRing s rq x.written
    readMem t addr body.length = body ∧ readNat t (a + 8) 8 = 0
      ∧ readNat t d 4 = src % 2 ^ 32 ∧ readNat t (d + 4) 4 = seq % 2 ^ 32 ∧ readNat t (d + 8) 8 = body.length % 2 ^ 64
      ∧ (∀ b, b < addr ∨ addr + body.length ≤ b → b < a + 8 ∨ a + 16 ≤ b → b < d ∨ d + 16 ≤ b → readMem t b 1 = readMem s b 1)
      ∧ y.taken = x.taken + 1 ∧ y.written = x.written + 1 ∧ mget t.recvSeq (src * 64 + sq) 0 = (seq + 1) % 65536 ∧ (0x120 + rq) ∈ t.irqs
  (∀ (s : State) (sq node rq now : Nat) (body : List Byte), alive s = true → body.length ≤ 65536 →
      let seq := mget s.msgSeq (sq * 16384 + node) 0
      let m : Message := { id := s.messages.length, sq, node, rq, seq, body, posted := (clock s now).pace.now, sentAt := (clock s now).pace.now }
      ((∃ x ∈ s.messages, x.sq = sq ∧ x.node = node ∧ x.waiting = false ∧ x.status = none) →
        ∃ t, Machine.exec (.sendQueueDoorbell sq node rq now body) s = .next t ∧ t.messages = s.messages ++ [{ m with waiting := true }] ∧ t.ports = s.ports
          ∧ mget t.msgSeq (sq * 16384 + node) 0 = (seq + 1) % 65536)
      ∧ ((∀ x ∈ s.messages, x.id < s.messages.length ∧ (x.sq = sq → x.node = node → x.waiting = false ∧ x.status ≠ none)) → node ≠ nodeId s → routes s node ≠ [] →
        s.seqTimes = [] →
        ∃ t l, Machine.exec (.sendQueueDoorbell sq node rq now body) s = .next t ∧ t.messages = s.messages ++ [{ m with seqs := l }] ∧ l.length = max 1 (cdiv body.length 2048)
          ∧ t.mem = s.mem ∧ (body.length ≤ 2048 → sent s t m))
      ∧ (∀ addr len, s.messages = [] → node = nodeId s → sq < 64 → rq < 64 → seq < 65536 → fresh seq (mget s.recvSeq (node * 64 + sq) 0) →
        nextBuffer s rq = some (addr, len) → body.length ≤ len → body.length ≤ 2048 →
        (∀ x ∈ (mget s.recvQueues rq {}).parts, x.key ≠ node * 64 + sq) → fits s rq body.length addr →
        ∃ t, Machine.exec (.sendQueueDoorbell sq node rq now body) s = .next t ∧ t.messages = [{ m with delivered := true, status := some 0 }]
          ∧ into s t node sq rq seq body addr))
  ∧ (∀ (s : State) (sq node rq now : Nat) (body : List Byte), 65536 < body.length → Machine.exec (.sendQueueDoorbell sq node rq now body) s = .next (clock s now))
  ∧ (∀ (s : State) (p now : Nat) (q : Packet) (total : Nat), Safety.reaches s p q 0x10 = true → routes s q.src ≠ [] →
      let sq := q.offset / 65536 % 64
      let rq := fld q.aux 21 16
      let seq := q.aux % 65536
      let want := mget s.recvSeq (q.src * 64 + sq) 0
      let x := mget s.recvQueues rq {}
      let key := q.src * 64 + sq
      (∀ addr len, fresh seq want → nextBuffer s rq = some (addr, len) → total ≤ len → q.payload.length = total → q.offset % 65536 = 0 →
        (∀ y ∈ x.parts, y.key ≠ key) → fits s rq total addr →
        ∃ t, Machine.exec (.dnyMsg p now q total) s = .next t ∧ into s t q.src sq rq seq q.payload addr ∧ Safety.answers s t q 0x11 0 [])
      ∧ (∀ addr len, fresh seq want → nextBuffer s rq = some (addr, len) → total ≤ len → q.payload.length < total → (∀ y ∈ x.parts, y.key ≠ key) →
        ∃ t, Machine.exec (.dnyMsg p now q total) s = .next t ∧ t.mem = s.mem ∧ (∀ o, (prt t o).outQ = (prt s o).outQ)
          ∧ (mget t.recvQueues rq {}).parts = x.parts ++ [{ key, seq, off := q.offset % 65536, bytes := q.payload, poison := q.poison }])
      ∧ (fresh seq want → (∀ addr len, nextBuffer s rq = some (addr, len) → len < total) →
        ∃ t, Machine.exec (.dnyMsg p now q total) s = .next t ∧ Safety.answers s t q 0x12 0 [] ∧ t.mem = s.mem)
      ∧ (¬ fresh seq want → ∃ t, Machine.exec (.dnyMsg p now q total) s = .next t ∧ Safety.answers s t q 0x11 0 [] ∧ t.mem = s.mem ∧ t.recvQueues = s.recvQueues))
  ∧ (∀ (s : State) (p now : Nat) (q : Packet) (m : Message), msgOf s q = some m →
      (Safety.reaches s p q 0x11 = true → ∃ t, Machine.exec (.dnyMsgAck p now q) s = .next t
        ∧ ∃ y ∈ t.messages, y.id = m.id ∧ y.delivered = true ∧ y.status = some 0)
      ∧ (Safety.reaches s p q 0x12 = true → ∃ t, Machine.exec (.dnyMsgNak p now q) s = .next t ∧ t.mem = s.mem ∧ (∀ o, (prt t o).outQ = (prt s o).outQ)
        ∧ ∃ y ∈ t.messages, y.id = m.id ∧ y.nakked = true ∧ y.noRoute = (q.status == 0x12) ∧ y.sentAt = (clock s now).pace.now ∧ y.status = none))
  ∧ (∀ (s : State) (now : Nat) (m : Message), s.messages = [m] → m.status = none →
      (m.waiting = false → m.sentAt + 10000 ≤ (clock s now).pace.now → m.node ≠ nodeId s →
        (routes s m.node ≠ [] → s.seqTimes = [] → ∃ t l, Machine.exec (.msgResend m.id now) s = .next t ∧ t.mem = s.mem ∧ (m.body.length ≤ 2048 → sent s t m)
          ∧ t.messages = [again m (clock s now).pace.now l] ∧ l.length = max 1 (cdiv m.body.length 2048))
        ∧ (routes s m.node = [] → ∃ t, Machine.exec (.msgResend m.id now) s = .next t ∧ t.ports = s.ports
          ∧ t.messages = [{ again m (clock s now).pace.now [] with nakked := true, noRoute := true }]))
      ∧ (m.posted + cfg s 0x480001 * 1000000 ≤ (clock s now).pace.now →
        ∃ t, Machine.exec (.msgRetryExpire m.id now) s = .next t ∧ t.ports = s.ports
          ∧ t.messages = [{ m with nakked := false, waiting := false, status := some (if m.noRoute then 0x12 else 0x16) }]))

/-- Votes and job reductions over the tree of `STV_GROUP` (R302, R303, R367). A child's vote or contribution is kept for its step, once; a piece of a contribution is kept until the rest has come. With every child's, and its own, a
node joins them, votes by AND and veto counts by addition, and at the root the join is the result; a result that comes down is recorded, and the reduced values reach every update
engine. How a contribution is laid out in its packets is the model's choice (log 138). -/
def Obligations.VotesAndReductionsOverTheTree : Prop :=
  let taken := fun (s t : State) (p : Nat) (q : Packet) => (prt t p).inQ = (prt s p).inQ.erase q
  -- the packet begins a contribution or result of which no other piece is there
  let whole := fun (s : State) (q : Packet) => q.offset = 0 ∧ ∀ y ∈ s.red.parts, y.type ≠ q.type ∨ y.src ≠ q.src ∨ y.step ≠ q.aux
  (∀ (s : State) (p now n : Nat) (q : Packet) (v : Bool), Safety.reaches s p q 0x1A = true →
      ((∀ x ∈ s.red.votes, x.1 ≠ n ∨ x.2.1 ≠ q.src) → s.verdict.mode ≠ .voted →
        ∃ t, Machine.exec (.dnyVote p now q true n v) s = .next t ∧ taken s t p q ∧ t.red = { s.red with votes := s.red.votes ++ [(n, q.src, v)] } ∧ t.verdict = s.verdict)
      ∧ ((∃ x ∈ s.red.votes, x.1 = n ∧ x.2.1 = q.src) →
        ∃ t, Machine.exec (.dnyVote p now q true n v) s = .next t ∧ taken s t p q ∧ t = { clock s now with ports := t.ports })
      ∧ (s.verdict.mode = .voted → s.red.voteSent = false → s.red.votes = [] → treeParent s = none → treeChildren s = [q.src] → n = s.verdict.last →
        ∃ t, Machine.exec (.dnyVote p now q true n v) s = .next t ∧ t.verdict.mode = .recorded ∧ t.verdict.result = (s.verdict.vote && v)
          ∧ (s.red.result = none → t.verdict.passes = (s.verdict.vote && v)))
      ∧ (s.verdict.mode = .voted → n = s.verdict.last →
        ∃ t, Machine.exec (.dnyVote p now q false n v) s = .next t ∧ t.verdict.mode = .recorded ∧ t.verdict.result = v
          ∧ (v = false → t.verdict.skipped = s.verdict.skipped + 1 ∧ t.verdict.passes = false))
      ∧ (s.verdict.mode ≠ .voted ∨ n ≠ s.verdict.last →
        ∃ t, Machine.exec (.dnyVote p now q false n v) s = .next t ∧ taken s t p q ∧ t = { clock s now with ports := t.ports }))
  ∧ (∀ (s : State) (p now : Nat) (q : Packet), Safety.reaches s p q 0x1B = true → s.verdict.mode ≠ .noStep → q.aux = s.verdict.last % 2 ^ 32 →
      (∀ x ∈ s.red.got, x.1 ≠ s.verdict.last ∨ x.2.1 ≠ q.src) → whole s q →
      let r := Machine.redOf q.payload
      (s.red.own = none → ∃ t, Machine.exec (.dnyRed p now q q.payload.length) s = .next t ∧ t.red = { s.red with got := s.red.got ++ [(s.verdict.last, q.src, r)] } ∧ t.mem = s.mem)
      ∧ (∀ o, s.red.own = some o → s.red.sentUp = false → s.red.result = none → s.red.got = [] → treeParent s = none → treeChildren s = [q.src] →
        ∃ t x, Machine.exec (.dnyRed p now q q.payload.length) s = .next t ∧ t.red.result = some x ∧ x.veto = o.veto + r.veto
          ∧ (x.mismatch = false ↔ o.mismatch = false ∧ r.mismatch = false ∧ o.layers.length = r.layers.length ∧ o.vec.length = r.vec.length)
          ∧ (x.mismatch = true → s.verdict.last ∈ t.verdict.mismatches)
          ∧ ∀ n, n < 8 → (ue s n).inService = true → (ue t n).norm2 = x.norm))
  ∧ (∀ (s : State) (p now total : Nat) (q : Packet), Safety.reaches s p q 0x1B = true → q.payload.length < total →
      (∀ y ∈ s.red.parts, y.type ≠ q.type ∨ y.src ≠ q.src ∨ y.step ≠ q.aux) →
      ∃ t, Machine.exec (.dnyRed p now q total) s = .next t ∧ taken s t p q ∧ t.mem = s.mem
        ∧ t.red = { s.red with parts := s.red.parts ++ [{ type := 0x1B, src := q.src, step := q.aux, total, off := q.offset, bytes := q.payload }] })
  ∧ (∀ (s : State) (p now : Nat) (q : Packet), Safety.reaches s p q 0x1C = true → q.aux = s.verdict.last % 2 ^ 32 → s.red.result = none →
      s.red.own ≠ none → whole s q →
      ∃ t, Machine.exec (.dnyRedRes p now q q.payload.length) s = .next t ∧ t.red.result = some (Machine.redOf q.payload) ∧ t.mem = s.mem
        ∧ ∀ n, n < 8 → (ue s n).inService = true → (ue t n).norm2 = (Machine.redOf q.payload).norm)

/-- Command queues (R404 to R407, R409, Tables 13.2 to 13.6). `CQ_CTRL` enables a queue whose ring and partition are allowed and refuses a change of a
running one; a doorbell sets `WRITE`, or stops the queue where it would pass its ring. The command at `READ` starts when what it waits for has completed, and `READ` advances: `NOP`
completes; a `LAUNCH` waits for its clusters, or is refused with the number of its check in its record; `COPY` goes to its engine; `WAIT` completes when its word meets the condition; `SIGNAL` and
`TIMESTAMP` store 8 bytes. Of the queues of one processor with a command ready, one of higher priority goes first, and of two of one
priority the one that comes first in the round after the queue served last. An unknown opcode or a reserved bit stops the queue at the command. -/
def Obligations.CommandQueues : Prop :=
  let next := fun (s : State) (q op : Nat) (w : List W64) => fetchCmd s q = some w ∧ opcodeOf w = op ∧ reservedSet w = false
    ∧ ((op = 4 ∨ bit (cw w 0) 55 = true) → (cq s q).started = []) ∧ Safety.untraced s ∧ cpTurn s q = true ∧ ∀ e ∈ (cq s q).started, e.index ≠ (cq s q).read
  let moved := fun (s t : State) (q : Nat) => (cq t q).read = ((cq s q).read + 1) % 2 ^ 32 ∧ mfind t.cpLast (q / 16) = some (q % 16)
  let done := fun (s t : State) (q : Nat) (w : List W64) => moved s t q ∧ (cq t q).started = (cq s q).started ∧ (bit (cw w 0) 54 = true → q ∈ t.irqs)
  let stops := fun (t : State) (q err : Nat) => (cq t q).en = false ∧ (cq t q).mode = .error ∧ (cq t q).err = err ∧ cpSource q ∈ t.irqs
  let mine := fun (s : State) (q a : Nat) (k : XKind) => accessStatus s (cpIss s q) k a 8 = 0 ∧ localMemory s a = true ∧ waits s a = false ∧ Safety.calm s
  let meets := fun (cond v o : Nat) => [v == o, v != o, decide (o ≤ v), decide (v < o), decide ((BitVec.ofNat 64 o).sle (BitVec.ofNat 64 v)),
    decide ((BitVec.ofNat 64 v).slt (BitVec.ofNat 64 o)), v &&& o != 0, v &&& o == o].getD cond false
  (∀ (s : State) (q : Nat) (v : W64),
      let x := cq s q
      let base := fld v.toNat 47 12 * 4096
      let n := fld v.toNat 59 56
      let part := fld v.toNat 55 48
      (x.en = false → x.started = [] → bit v.toNat 63 = true → n ≤ 10 → inOs s base (2 ^ (n + 6) * 128) = true → partOn s part = true →
        ∃ t, Machine.exec (.cqCtrl q v) s = .next t ∧ t = { s with queues := t.queues } ∧ (∀ j, j ≠ q → cq t j = cq s j)
          ∧ (cq t q).en = true ∧ (cq t q).base = base ∧ (cq t q).log2n = n ∧ (cq t q).part = part ∧ (cq t q).prio = fld v.toNat 62 61
          ∧ (cq t q).preempt = bit v.toNat 60 ∧ (cq t q).err = 0 ∧ (cq t q).read = x.read ∧ (cq t q).write = x.write)
      ∧ (x.en = true ∨ x.started ≠ [] → x.ctrl % 2 ^ 63 ≠ fld v.toNat 62 60 * 2 ^ 60 + n * 2 ^ 56 + part * 2 ^ 48 + base →
        ∃ t, Machine.exec (.cqCtrl q v) s = .next t ∧ t.queues = s.queues ∧ t.regRejects = s.regRejects + 1)
      ∧ (bit v.toNat 63 = true → 10 < n ∨ inOs s base (2 ^ (n + 6) * 128) = false ∨ partOn s part = false →
        ∃ t, Machine.exec (.cqCtrl q v) s = .next t ∧ t.queues = s.queues ∧ t.regRejects = s.regRejects + 1))
  ∧ (∀ (s : State) (q : Nat) (v : W64),
      let x := cq s q
      let w := v.toNat % 2 ^ 32
      ((w + 2 ^ 32 - x.read) % 2 ^ 32 ≤ x.entries → ∃ t, Machine.exec (.cqDoorbell q v) s = .next t ∧ t = { s with queues := t.queues } ∧ (cq t q).write = w
        ∧ (cq t q).read = x.read ∧ (cq t q).en = x.en ∧ (x.en = true → x.mode ≠ .waiting → s.beat.mode = .beating →
          (cq t q).mode = if x.read = w then .empty else .fetching))
      ∧ (x.entries < (w + 2 ^ 32 - x.read) % 2 ^ 32 → ∃ t, Machine.exec (.cqDoorbell q v) s = .next t ∧ stops t q 2 ∧ (cq t q).write = x.write))
  ∧ (∀ (s : State) (q : Nat) (w : List W64), next s q 0 w → ∃ t, Machine.exec (.cmdNop q) s = .next t ∧ done s t q w ∧ t.mem = s.mem)
  ∧ (∀ (s : State) (q : Nat) (w : List W64), next s q 1 w →
      let rec_ := cw w 6 % 2 ^ 48
      (launchCheck s q w = 0 → (cq s q).preempt = false ∨ (∀ c ∈ launchClusters q w, (clu s c).kernels = []) → ∃ t, Machine.exec (.cmdLaunch q) s = .next t ∧ (cq t q).mode = .waiting ∧ (cq t q).read = (cq s q).read
        ∧ t.mem = s.mem ∧ t.nextKernel = s.nextKernel + 1
        ∧ krn t s.nextKernel = { q, index := (cq s q).read, words := w, part := (cq s q).part, clusters := launchClusters q w })
      ∧ (launchCheck s q w ≠ 0 → ∃ t, Machine.exec (.cmdLaunch q) s = .next t ∧ done s t q w ∧ cpSource q ∈ t.irqs ∧ t.kernels = s.kernels
        ∧ (badArea s (cq s q).part rec_ 32 32 = true → t.mem = s.mem)
        ∧ (badArea s (cq s q).part rec_ 32 32 = false → Safety.calm s → localMemory s rec_ = true → Safety.sameBytesBut s t rec_ 32
          ∧ (accessStatus s { kind := .cmdproc, unit := q / 16 } .store rec_ 32 = 0 → readNat t rec_ 8 = 0x21 * 2 ^ 48 + launchCheck s q w * 2 ^ 40 + cw w 4 / 2 ^ 32 ∧ readNat t (rec_ + 8) 8 = 0
          ∧ readNat t (rec_ + 24) 8 = s.pace.now % 2 ^ 64))))
  ∧ (∀ (s : State) (q : Nat) (w : List W64), next s q 2 w →
      let n := cw w 0 % 16
      let e := 8 * (q / 64) + n
      let j : CopyJob := { d := (w.drop 8).take 8, src := .cmd q (cq s q).read, part := (cq s q).part }
      let given := fun (t : State) (e : Nat) => (cpe t e).queue = (cpe s e).queue ++ [j] ∧ ∀ k, k ≠ e → cpe t k = cpe s k
      (n < 8 ∨ n = 15 → (∃ k, k / 8 = q / 64 ∧ (n < 8 → k = e) ∧ copyEnabled s k = true) → copyForbidden s (cq s q).part j = false →
        ∃ t k, Machine.exec (.cmdCopy q) s = .next t ∧ moved s t q ∧ t.mem = s.mem ∧ k / 8 = q / 64 ∧ (n < 8 → k = e) ∧ copyEnabled s k = true ∧ given t k
          ∧ (cq t q).started = (cq s q).started ++ [{ index := (cq s q).read, opcode := 2, words := w }])
      ∧ ((n < 8 → copyEnabled s e = false) ∧ (n = 15 → ∀ k, k / 8 = q / 64 → copyEnabled s k = false) ∨ copyForbidden s (cq s q).part j = true → ∃ t, Machine.exec (.cmdCopy q) s = .next t ∧ done s t q w
        ∧ cpSource q ∈ t.irqs ∧ t.mem = s.mem ∧ ∀ k, cpe t k = cpe s k))
  ∧ (∀ (s : State) (q : Nat) (w : List W64), next s q 3 w → ∃ t, Machine.exec (.cmdWait q) s = .next t ∧ t.mem = s.mem
      ∧ (cw w 1 % 8 = 0 → moved s t q ∧ (cq t q).started = (cq s q).started ++ [{ index := (cq s q).read, opcode := 3, words := w }])
      ∧ (cw w 1 % 8 ≠ 0 → done s t q w ∧ cpSource q ∈ t.irqs))
  ∧ (∀ (s : State) (q : Nat) (e : Started), e ∈ (cq s q).started → e.opcode = 3 → (∀ f ∈ (cq s q).started, f.index = e.index → f = e) → alive s = true →
      mine s q (cw e.words 1) .load → poisoned s (cw e.words 1) 8 = false →
      let ok := meets (cw e.words 0 % 8) (readNat s (cw e.words 1) 8) (cw e.words 2)
      ∃ t, Machine.exec (.cmdWaitSatisfied q e.index) s = .next t ∧ t.mem = s.mem
        ∧ (cq t q).started = (if ok then (cq s q).started.filter fun f => f.index != e.index else (cq s q).started)
        ∧ (ok = true → bit (cw e.words 0) 54 = true → q ∈ t.irqs))
  ∧ (∀ (s : State) (q : Nat) (w : List W64), next s q 4 w → cw w 0 % 8 ∈ [3, 4, 5] → badArea s (cq s q).part (cw w 1) 8 8 = false → mine s q (cw w 1) .store →
      (hf s (q / 64)).runs = [] → (hf s (q / 64)).stores = [] → (hf s (q / 64)).failures = [] →
      ∃ t, Machine.exec (.cmdSignal q) s = .next t ∧ done s t q w ∧ readNat t (cw w 1) 8 = cw w 2 ∧ Safety.sameBytesBut s t (cw w 1) 8)
  ∧ (∀ (s : State) (q now : Nat) (w : List W64), next s q 5 w → badArea s (cq s q).part (cw w 1) 8 8 = false → mine s q (cw w 1) .store →
      ∃ t, Machine.exec (.cmdTimestamp q now) s = .next t ∧ done s t q w ∧ readNat t (cw w 1) 8 = paceAt (clock s now) (q / 64) % 2 ^ 64
        ∧ Safety.sameBytesBut s t (cw w 1) 8)
  ∧ (∀ (s : State) (q : Nat) (w : List W64), fetchCmd s q = some w →
      (5 < opcodeOf w → ∃ t, Machine.exec (.cmdInvalidOpcode q) s = .next t ∧ stops t q 1 ∧ (cq t q).read = (cq s q).read ∧ t.mem = s.mem)
      ∧ (opcodeOf w ≤ 5 → reservedSet w = true → ∃ t, Machine.exec (.cmdInvalidOpcode q) s = .next t ∧ stops t q 3 ∧ (cq t q).read = (cq s q).read ∧ t.mem = s.mem))
  ∧ (∀ (s : State) (q o now : Nat) (w : List W64), o / 16 = q / 16 → o ≠ q → fetchCmd s o = some w → opcodeOf w ≤ 3 → reservedSet w = false →
      (bit (cw w 0) 55 = true → (cq s o).started = []) →
      (cq s q).prio < (cq s o).prio ∨ ((cq s q).prio = (cq s o).prio ∧ ∃ l, mfind s.cpLast (q / 16) = some l ∧ l < 16 ∧ (o + 15 - l) % 16 < (q + 15 - l) % 16) →
      (∀ i ∈ [.cmdNop q, .cmdLaunch q, .cmdCopy q, .cmdWait q, .cmdSignal q], Machine.exec i s = .next s)
      ∧ Machine.exec (.cmdTimestamp q now) s = .next (clock s now))

/-- Kernels from their start to their end, and preemption (R410, R411, R413 to R416, R423, Tables 13.8 and 13.9). A launch whose clusters are free starts on all of them and
its command with it. A kernel whose crews have ended writes its record, frees its clusters and completes its command. A preempted kernel, with the partners of its clusters, stops
issuing; at its preemption points each cluster saves its part and is free; restored, it goes on with the same crews and shared local memory on the lowest free clusters. Frozen by a lapse, a kernel
stays where it is, and with the last one compute is HELD. -/
def Obligations.KernelsAndPreemption : Prop :=
  let said := fun (t : State) (w : ObjWrite) (st : Nat) => w.reg = false → Safety.lastStatus t w.sid = some st
  (∀ (s : State) (k now : Nat), canStart (clock s now) k = true → Safety.untraced s →
      let x := krn s k
      ∃ t, Machine.exec (.kernelStart k now) s = .next t ∧ t.mem = s.mem ∧ (krn t k).mode = .running ∧ (krn t k).startAt = (clock s now).pace.now
        ∧ (∀ c ∈ x.clusters, (clu t c).mode = .running ∧ k ∈ (clu t c).kernels)
        ∧ (cq t x.q).read = ((cq s x.q).read + 1) % 2 ^ 32
        ∧ (cq t x.q).started = (cq s x.q).started ++ [{ index := (cq s x.q).read, opcode := opcodeOf x.words, words := x.words, kernel := k }])
  ∧ (∀ (s : State) (k j c now : Nat), (krn s k).mode = .waiting → (krn s k).clusters = [c] → (cq s (krn s k).q).preempt = true → (clu s c).kernels = [j] → freeFor s k c = false →
      (cq s (krn s j).q).prio < (cq s (krn s k).q).prio → partners s j = [j] → (krn s j).saves = true → (krn s j).mode = .running → (krn s j).contained = false →
      alive s = true → s.beat.mode = .beating →
      ∃ t, Machine.exec (.kernelStart k now) s = .next t ∧ (krn t j).mode = .preempting ∧ (∀ d ∈ (krn s j).clusters, j ∈ (clu t d).stopping) ∧ krn t k = krn s k
        ∧ (clu t c).kernels = [j] ∧ t.queues = s.queues ∧ t.mem = s.mem)
  ∧ (∀ (s : State) (k now : Nat), (krn s k).mode = .running ∨ (((krn s k).mode = .preempting ∨ (krn s k).mode = .saved) ∧ (krn s k).contained = true) →
      kernelDone (clock s now) k = true → Safety.untraced s → Safety.calm s → s.kept.retired = [] → localMemory s ((krn s k).fld 6 47 0) = true →
      accessStatus s { kind := .cmdproc, unit := (krn s k).q / 16 } .store ((krn s k).fld 6 47 0) 32 = 0 → (krn s k).fld 6 47 0 % 32 = 0 →
      let x := krn s k
      let a := x.fld 6 47 0
      ∃ t, Machine.exec (.kernelEnd k now) s = .next t ∧ (krn t k).mode = .ended ∧ Safety.sameBytesBut s t a 32
        ∧ readNat t a 8 = (if x.contained then 0x20 * 2 ^ 48 else 0) + x.launchId ∧ readNat t (a + 8) 8 = x.excDropped * 2 ^ 48 % 2 ^ 64
        ∧ readNat t (a + 16) 8 = x.startAt % 2 ^ 64 ∧ readNat t (a + 24) 8 = (clock s now).pace.now % 2 ^ 64
        ∧ (∀ c ∈ x.clusters, k ∉ (clu t c).kernels ∧ crewsOf (clu t c) k = [] ∧ ((clu s c).kernels = [k] → (clu s c).mode ≠ .retired → (clu t c).mode = .idle))
        ∧ (∀ e ∈ (cq t x.q).started, e.index ≠ x.index) ∧ (x.contained = true → cpSource x.q ∈ t.irqs))
  ∧ (∀ (s : State) (w : ObjWrite), Safety.accepted s w 0x500003 = true →
      (s.beat.mode ≠ .beating → ∃ t, Machine.exec (.kernelPreempt w) s = .next t ∧ t.kernels = s.kernels ∧ t.clusters = s.clusters ∧ said t w 0x45)
      ∧ (s.beat.mode = .beating → (∀ x ∈ s.kernels, x.2.launchId = leNat w.val → x.2.mode ≠ .running ∨ x.2.saves = false) →
        ∃ t, Machine.exec (.kernelPreempt w) s = .next t ∧ t.kernels = s.kernels ∧ t.clusters = s.clusters ∧ said t w 0x42)
      ∧ (∀ k, s.beat.mode = .beating → (s.kernels.filter fun x => x.2.launchId == leNat w.val && x.2.mode == .running && x.2.saves) = [(k, krn s k)] →
        (∀ j ∈ partners s k, (krn s j).saves = true ∧ (krn s j).mode = .running ∧ (krn s j).contained = false) →
        ∃ t, Machine.exec (.kernelPreempt w) s = .next t ∧ said t w 0 ∧ ∀ j ∈ partners s k, (krn t j).mode = .preempting ∧ (krn t j).reached = []
          ∧ ∀ c ∈ (krn s j).clusters, j ∈ (clu t c).stopping))
  ∧ (∀ (s : State) (k c now : Nat), c ∈ (krn s k).clusters → c ∉ (krn s k).reached → (krn s k).contained = false → drained s k c = true → Safety.untraced s →
      let x := krn s k
      (x.mode = .preempting → ∃ t, Machine.exec (.preemptionPointReached k c now) s = .next t ∧ t.mem = s.mem
        ∧ krn t k = { x with reached := x.reached ++ [c] } ∧ (clu t c).mode = (clu s c).mode)
      ∧ (x.mode = .running → s.beat.mode = .freezing → x.clusters = [c] →
        ∃ t, Machine.exec (.preemptionPointReached k c now) s = .next t ∧ t.mem = s.mem ∧ krn t k = { x with reached := x.reached ++ [c], mode := .frozen }
          ∧ (clu t c).mode = .held ∧ t.beat.frozen = s.beat.frozen ++ [(x.launchId, x.q, [c])]
          ∧ (Safety.rising s.kernels → (∀ e ∈ s.kernels, e.1 = k ∨ e.2.mode ≠ .running ∨ e.2.contained = true) → t.beat.mode = .held ∧ t.beat.heldAt = (clock s now).pace.now ∧ 0x111 ∈ t.irqs)))
  ∧ (∀ (s : State) (k c : Nat), (krn s k).mode = .preempting → (krn s k).contained = false → c ∈ (krn s k).reached → Safety.untraced s → Safety.calm s →
      let x := krn s k
      let rank := (x.clusters.findIdx? (· == c)).getD 0
      ∃ t sv, Machine.exec (.preemptSaveDone k c) s = .next t ∧ Safety.sameBytesBut s t (x.fld 5 47 0 + rank * 0x900000) 0x900000
        ∧ (krn t k).savedOn = x.savedOn ++ [sv] ∧ c ∉ (krn t k).reached ∧ k ∉ (clu t c).kernels ∧ crewsOf (clu t c) k = []
        ∧ (krn t k).mode = (if x.savedOn.length + 1 = x.clusters.length then .saved else .preempting)
        ∧ sv.rank = rank ∧ (∀ p, p ∈ sv.crews ↔ p ∈ (clu s c).crews ∧ p.2.kernel = k)
        ∧ (∀ o v, (o, v) ∈ sv.slm ↔ (slmOf c + o, v) ∈ s.mem ∧ o < 0x100000)
        ∧ (x.lane = 0 → sv.acc = (clu s c).acc ∧ sv.narrow = (clu s c).narrow ∧ sv.wgb = (clu s c).wgb))
  ∧ (∀ (s : State) (k : Nat) (sv : Saved), canRestore s k = true → (krn s k).savedOn = [sv] → (krn s k).clusters.length = 1 → sv.rank = 0 → (krn s k).lane = 0 →
      (sv.crews.map (·.1)).Nodup → sv.slm.Pairwise (fun a b => a.1 < b.1) → (∀ e ∈ sv.slm, e.1 < 0x100000) → Safety.untraced s → Memory.wf s.mem = true →
      let c := (restoreOnto s k).headD 0
      ∃ t, Machine.exec (.kernelRestore k) s = .next t ∧ (krn t k).mode = .running ∧ (krn t k).clusters = [c] ∧ (clu t c).mode = .running ∧ k ∈ (clu t c).kernels
        ∧ ((clu s c).crews = [] → ∀ p ∈ sv.crews, ∃ n, mfind (clu t c).crews p.1 = some { p.2 with start := n })
        ∧ Safety.sameBytesBut s t (slmOf c) 0x100000
        ∧ ∀ o, o < 0x100000 → readMem t (slmOf c + o) 1 = [((sv.slm.find? fun e => e.1 == o).map (·.2)).getD 0#8])

/-- The driver heartbeat (R417, R418, R420, R422, Table 13.10). Only a core's beat counts. A beat that is late by more than the interval lapses: source 0x110, enabled
queues held, launches not yet started given up, the lapse recorded. After the grace, waits are abandoned with `READ` at them and running clusters are to freeze; compute is HELD at once, with source
0x111, where none runs. A beat before HELD cancels the lapse; in HELD it is only recorded. Out of HELD, resume lets frozen kernels go on, and discard ends them with `DISCARDED`, their clusters cleared and every queue
disabled with `READ` at `WRITE`. -/
def Obligations.HeartbeatLapses : Prop :=
  let said := fun (t : State) (w : ObjWrite) (st : Nat) => w.reg = false → Safety.lastStatus t w.sid = some st
  let ready := fun (t : State) (q : Nat) => (cq t q).mode = if (cq t q).read = (cq t q).write then .empty else .fetching
  let frozenOnly := fun (s : State) (k : Nat) (x : Kernel) => mfind s.kernels k = some x ∧ x.mode = .frozen ∧ ∀ e ∈ s.kernels, e.1 = k → e.2 = x
  (∀ (s : State) (now : Nat), Machine.exec (.hbBeat false now) s = .next (clock s now))
  ∧ (∀ (s : State) (now : Nat),
      let b := { s.beat with lastBeat := (clock s now).pace.now }
      (s.beat.mode = .beating ∨ s.beat.mode = .held → ∃ t, Machine.exec (.hbBeat true now) s = .next t ∧ t.beat = b ∧ t.kernels = s.kernels ∧ t.queues = s.queues)
      ∧ (s.beat.mode = .grace ∨ s.beat.mode = .freezing → ∃ t, Machine.exec (.hbBeat true now) s = .next t ∧ t.beat = { b with mode := .beating, cancelled := true }
        ∧ (∀ q, (cq s q).en = true → ready t q)
        ∧ ∀ k x, s.beat.mode = .freezing → frozenOnly s k x → krn t k = { x with mode := .running, reached := [] }
          ∧ ∀ c ∈ x.clusters, (clu s c).mode = .held → (clu t c).mode = .running))
  ∧ (∀ (s : State) (now : Nat), s.beat.mode = .beating → cfg s 0x501001 ≠ 0 → s.beat.lastBeat + cfg s 0x501001 * 1000000 < (clock s now).pace.now → Safety.untraced s →
      ∃ t, Machine.exec (.hbLapse now) s = .next t ∧ t.mem = s.mem ∧ 0x110 ∈ t.irqs ∧ t.beat.lapseAt = (clock s now).pace.now ∧ t.beat.recBeat = s.beat.lastBeat
        ∧ t.beat.reads = (List.range 256).map (fun q => (cq s q).read)
        ∧ (cfg s 0x501003 ≠ 0 → t.beat.mode = .grace ∧ t.kernels = (s.kernels.filter fun x => x.2.mode != .waiting) ∧ t.clusters = s.clusters
          ∧ ∀ q, (cq s q).en = true → (cq t q).mode = .held ∧ (cq t q).read = (cq s q).read))
  ∧ (∀ (s : State) (now : Nat), s.beat.mode = .grace → s.beat.lapseAt + cfg s 0x501003 * 1000000 ≤ (clock s now).pace.now → Safety.untraced s →
      ∃ t, Machine.exec (.hbGraceExpire now) s = .next t ∧ t.mem = s.mem ∧ t.kernels = s.kernels
        ∧ ((∃ e ∈ s.kernels, e.2.mode = .running ∧ e.2.contained = false) → t.beat.mode = .freezing)
        ∧ ((∀ e ∈ s.kernels, e.2.mode ≠ .running ∨ e.2.contained = true) → t.beat.mode = .held ∧ t.beat.heldAt = (clock s now).pace.now ∧ 0x111 ∈ t.irqs)
        ∧ ∀ q e, ((cq s q).started.find? fun f => f.opcode == 3) = some e → (cq t q).read = e.index ∧ ∀ f ∈ (cq t q).started, f.opcode ≠ 3)
  ∧ (∀ (s : State) (w : ObjWrite), Safety.accepted s w 0x501005 = true →
      (mayLeaveHeld s = false ∨ (leNat w.val ≠ 1 ∧ leNat w.val ≠ 2) → ∃ t, Machine.exec (.hbResume w) s = .next t ∧ said t w 0x42 ∧ t.beat = s.beat ∧ t.kernels = s.kernels ∧ t.clusters = s.clusters ∧ t.queues = s.queues)
      ∧ (mayLeaveHeld s = true → leNat w.val = 1 → ∃ t, Machine.exec (.hbResume w) s = .next t ∧ said t w 0 ∧ t.beat.mode = .beating ∧ (∀ q, (cq s q).en = true → ready t q)
        ∧ ∀ k x, frozenOnly s k x → krn t k = { x with mode := .running, reached := [] }
          ∧ (s.kept.retired = [] → ∀ c ∈ x.clusters, (clu s c).mode = .held → (clu t c).mode = .running)))
  ∧ (∀ (s : State) (w : ObjWrite) (now : Nat), Safety.accepted (clock s now) w 0x501005 = true →
      (mayLeaveHeld (clock s now) = false → ∃ t, Machine.exec (.hbDiscard w now) s = .next t ∧ said t w 0x42 ∧ t.beat = s.beat ∧ t.kernels = s.kernels ∧ t.queues = s.queues)
      ∧ (∀ k x, mayLeaveHeld (clock s now) = true → leNat w.val = 2 → (s.kernels.filter fun y => y.2.mode == .frozen) = [(k, x)] → krn s k = x → Safety.untraced s →
        Safety.calm s → Safety.noRing s w = true →
        let a := x.fld 6 47 0
        localMemory s a = true → accessStatus s { kind := .cmdproc, unit := x.q / 16 } .store a 32 = 0 → a % 32 = 0 →
        (∀ c ∈ x.clusters, a + 32 ≤ slmOf c ∨ slmOf c + 0x100000 ≤ a) →
        ∃ t, Machine.exec (.hbDiscard w now) s = .next t ∧ said t w 0 ∧ t.beat.mode = .beating ∧ (krn t k).mode = .ended ∧ cpSource x.q ∈ t.irqs
          ∧ readNat t a 8 = 0x22 * 2 ^ 48 + x.launchId
          ∧ (∀ c ∈ x.clusters, k ∉ (clu t c).kernels ∧ (clu t c).acc = [] ∧ (clu t c).narrow = [] ∧ (clu t c).wgb = []
            ∧ ∀ o, o < 0x100000 → readNat t (slmOf c + o) 1 = 0)
          ∧ (∀ b, (b < a ∨ a + 32 ≤ b) → (∀ c ∈ x.clusters, b < slmOf c ∨ slmOf c + 0x100000 ≤ b) → readMem t b 1 = readMem s b 1)
          ∧ ∀ q, (mfind s.queues q).isSome = true → (cq t q).en = false ∧ (cq t q).read = (cq s q).write ∧ (cq t q).write = (cq s q).write))

/-- Pace sources and the schedule table (R433 to R437, R440 to R443, Tables 14.1 and 14.3). A measurement is recorded; 16 in a row within the lock limit lock an acquiring
unit, an offset above four times the limit, or 3 s without a measurement, puts a locked one in holdover, and an acquiring unit steps forward by an offset above the step limit, never back. A `PPS` edge
marks the second it stands for. An armed entry that is due fires once, advances `TIME` by whole periods past now, or disarms, and performs its kind's action: a signal write, the shipping of
ready buckets, or a wait for the step or for the engines' writes before its signal write. -/
def Obligations.PaceTimeAndSchedule : Prop :=
  let sec := 1000000000
  let fires := fun (s t : State) (e now : Nat) =>
    let x := sched s e
    let y := sched t e
    y.fired = (x.fired + 1) % 2 ^ 32 ∧ y.late = decide (x.time + 100 < (clock s now).pace.now) ∧ y.arm = (x.period != 0)
      ∧ (x.period = 0 → y.time = x.time) ∧ (x.period ≠ 0 → (clock s now).pace.now < y.time ∧ y.time ≤ (clock s now).pace.now + x.period
        ∧ (y.time - x.time) % x.period = 0) ∧ y.kind = x.kind ∧ y.period = x.period ∧ y.arg = x.arg ∧ y.irq = x.irq
  let signals := fun (s t : State) (e v : Nat) =>
    let a := (sched s e).arg % 2 ^ 48
    readNat t a 8 = v % 2 ^ 64 ∧ Safety.sameBytesBut s t a 8 ∧ ((sched s e).irq = true → 0x160 + e ∈ t.irqs)
  let mine := fun (s : State) (e : Nat) => Safety.calm s ∧ (sched s e).arg % 8 = 0 ∧ localMemory s ((sched s e).arg % 2 ^ 48) = true
    ∧ accessStatus s { kind := .sched, unit := e } .store ((sched s e).arg % 2 ^ 48) 8 = 0
  let ran := fun (s : State) => ∀ tw, (hf s tw).runs = [] ∧ (hf s tw).stores = []
  (∀ (s : State) (now : Nat) (off : Int), cfg s 0x200001 ≠ 0 ∨ s.mgmtUp = false ∨ s.pace.on = false → Machine.exec (.ptpMeasurement now off) s = .next (clock s now))
  ∧ (∀ (s : State) (now : Nat) (off : Int), cfg s 0x200001 = 0 → s.mgmtUp = true → s.pace.on = true →
      let u := clock s now
      let lock := cfg s 0x200006
      let step : Int := (cfg s 0x200007 : Nat)
      ∃ t, Machine.exec (.ptpMeasurement now off) s = .next t ∧ t.mem = s.mem ∧ t.pace.offset = off ∧ u.pace.now ≤ t.pace.now
        ∧ (s.pace.mode = .locked → off.natAbs ≤ 4 * lock → t.pace.mode = .locked ∧ t.pace.stratum = 0 ∧ t.pace.now = u.pace.now)
        ∧ (s.pace.mode = .locked → 4 * lock < off.natAbs → t.pace.mode = .holdover ∧ t.pace.now = u.pace.now)
        ∧ (s.pace.mode = .acquiring → off ≤ step → t.pace.now = u.pace.now
          ∧ (off.natAbs ≤ lock → 15 ≤ s.pace.good → t.pace.mode = .locked ∧ t.pace.stratum = 0)
          ∧ (off.natAbs ≤ lock → s.pace.good < 15 → t.pace.mode = .acquiring ∧ t.pace.good = s.pace.good + 1)
          ∧ (lock < off.natAbs → t.pace.mode = .acquiring ∧ t.pace.good = 0))
        ∧ (s.pace.mode = .acquiring → lock < off.natAbs → step < off → t.pace.mode = .acquiring ∧ t.pace.now = u.pace.now + off.natAbs)
        ∧ (s.pace.mode = .freerun ∨ s.pace.mode = .holdover → t.pace.mode = .acquiring))
  ∧ (∀ (s : State) (now : Nat), cfg s 0x200001 = 1 → s.pace.on = true →
      let u := (clock s now).pace.now
      (∀ n, s.pace.setSeconds = some n → ∃ t, Machine.exec (.ppsEdge now) s = .next t ∧ t.pace.offset = (n * sec : Nat) - (u : Int) ∧ t.pace.lastPps = n
        ∧ t.pace.setSeconds = none ∧ t.pace.nextPps = some (t.pace.now + sec))
      ∧ (∀ e, s.pace.setSeconds = none → s.pace.nextPps = some e → e ≤ u + 1000000 → u ≤ e + 1000000 → ∃ t, Machine.exec (.ppsEdge now) s = .next t
        ∧ t.pace.lastPps = s.pace.lastPps + 1 ∧ t.pace.offset = ((s.pace.lastPps + 1) * sec : Nat) - (u : Int) ∧ t.pace.nextPps = some (t.pace.now + sec))
      ∧ (∀ e, s.pace.setSeconds = none → s.pace.nextPps = some e → e ≤ u → 1000000 < (u - e) % sec → (u - e) % sec < sec - 1000000 →
        Machine.exec (.ppsEdge now) s = .next (clock s now)))
  ∧ (∀ (s : State) (now : Nat), s.pace.mode = .locked → s.pace.lastGood + 3 * sec ≤ (clock s now).pace.now →
      ∃ t, Machine.exec (.paceHoldoverTimeout now) s = .next t ∧ t.pace.mode = .holdover ∧ t.pace.stratum = 15 ∧ t.pace.now = (clock s now).pace.now)
  ∧ (∀ (s : State) (w : ObjWrite), Safety.accepted s w 0x200008 = true →
      ∃ t, Machine.exec (.paceSetSeconds w) s = .next t ∧ t.pace = { s.pace with setSeconds := some (leNat w.val) })
  ∧ (∀ (s : State) (e now : Nat) (v : W64),
      let x := sched s e
      let y := { x with kind := fld v.toNat 63 61, arm := bit v.toNat 60, irq := bit v.toNat 59 }
      (x.arm = true → y.kind ≠ x.kind ∨ y.irq ≠ x.irq → ∃ t, Machine.exec (.pcsCtrl e v now) s = .next t ∧ t.sched = s.sched ∧ t.regRejects = s.regRejects + 1)
      ∧ (x.arm = true → y.kind = x.kind → y.irq = x.irq → ∃ t, Machine.exec (.pcsCtrl e v now) s = .next t ∧ sched t e = y ∧ ∀ j, j ≠ e → sched t j = sched s j)
      ∧ (x.arm = false → y.arm = false → ∃ t, Machine.exec (.pcsCtrl e v now) s = .next t ∧ sched t e = y ∧ ∀ j, j ≠ e → sched t j = sched s j)
      ∧ (x.arm = false → y.arm = true → badSched s y = true → ∃ t, Machine.exec (.pcsCtrl e v now) s = .next t ∧ t.sched = s.sched ∧ t.regRejects = s.regRejects + 1)
      ∧ (x.arm = false → y.arm = true → badSched s y = false → ∃ t, Machine.exec (.pcsCtrl e v now) s = .next t
        ∧ sched t e = { y with fired := 0, late := false } ∧ ∀ j, j ≠ e → sched t j = sched s j))
  ∧ (∀ (s : State) (e now : Nat), due (clock s now) e 1 = true → mine s e →
      ∃ t, Machine.exec (.stepBegin e now) s = .next t ∧ fires s t e now ∧ signals s t e (((sched s e).fired + 1) % 2 ^ 32))
  ∧ (∀ (s : State) (e now b : Nat), due (clock s now) e 2 = true → alive s = true → Safety.calm s → s.poison = [] →
      let m := (sched s e).arg % 16
      let x := bkt s b
      ((List.range 256).filter fun b => (m == 0 || m.testBit (b / 64)) && (bkt s b).mode == .ready && bit (bw (bkt s b) 0) 61) = [b] → x.g = 1 → x.rank = 0 → accessStatus s (bucketIss b) .load x.src x.bytes = 0 →
      (∀ a, x.stage / 128 ≤ a / 128 → a < x.stage + x.shard → accwStatus s (bucketIss b) (a / 128 * 128) = 0) →
      ∃ t, Machine.exec (.bucketWindow e now) s = .next t ∧ fires s t e now ∧ (bkt t b).mode = .shipping ∧ t.mem = s.mem
        ∧ ((sched s e).irq = true → 0x160 + e ∈ t.irqs))
  ∧ (∀ (s : State) (e now : Nat), due (clock s now) e 4 = true →
      ∃ t, Machine.exec (.checkpoint e now) s = .next t ∧ fires s t e now ∧ e ∈ t.checkpointWait ∧ t.mem = s.mem)
  ∧ (∀ (s : State) (e : Nat), e ∈ s.checkpointWait → stepBusy s = false → mine s e →
      ∃ t, Machine.exec (.checkpointSignal e) s = .next t ∧ e ∉ t.checkpointWait ∧ signals s t e s.verdict.last)
  ∧ (∀ (s : State) (e now : Nat), due (clock s now) e 5 = true → ran s →
      ∃ t, Machine.exec (.fenceEpoch e now) s = .next t ∧ fires s t e now ∧ t.mem = s.mem
        ∧ t.fenceWait = s.fenceWait ++ [(e, s.nextReq, (List.range 4).map fun tw => (hf s tw).nextRun)])
  ∧ (∀ (s : State) (e : Nat) (x : Nat × List Nat) (rest : List (Nat × Nat × List Nat)), s.fenceWait = (e, x) :: rest → (∀ r ∈ s.requests, x.1 ≤ r.id) →
      ran s → (∀ k ∈ s.stackUnits, k.2.waiting = []) → mine s e →
      ∃ t, Machine.exec (.fenceEpochSignal e) s = .next t ∧ signals s t e (mget s.fenceEpochs e 0 + 1) ∧ mget t.fenceEpochs e 0 = mget s.fenceEpochs e 0 + 1
        ∧ (e, x) ∉ t.fenceWait)

/-- Power and thermal control (R444, R446, R447, R449 to R453, R487, Tables 14.5 to 14.7). A ramp starts at the present ceiling and goes to a target clamped to 1,000 to 6,000 W. A
die's point changes to the lower of the set and the throttle's. Each limit that a measurement exceeds lowers the caps of the arrays concerned by 1/64, and an activity above its cap falls, for the peak limit alone at its own slope; after 1 ms below 0.5 the die goes one
point lower, and at point 3 to half issue rate; calm for 10 ms undoes the last step; an action of more than 1 s is recorded. A column reads the higher of its two sensors; above its limit it lowers its two clusters' caps, at critical it sets the dies to point 3 and caps their arrays at 0.25; a stack or engine at critical is halved, and any
sensor at trip takes the module down with `THERMTRIP_N` low. -/
def Obligations.PowerAndThermal : Prop :=
  let ramp := fun (s t : State) (now target us : Nat) => t.power.rampFrom = ceilingNow (clock s now) ∧ t.power.rampTo = min 6000 (max 1000 target)
    ∧ t.power.rampStart = (clock s now).pace.now ∧ t.power.rampUs = us
  let lowered := fun (s t : State) (cs : List Nat) => ∀ c, c < 128 → (clu t c).cap = if c ∈ cs then (clu s c).cap - 1 else (clu s c).cap
  (∀ (s : State) (e now : Nat), due (clock s now) e 3 = true →
      ∃ t, Machine.exec (.powerRamp e now) s = .next t ∧ ramp s t now (fld (sched s e).arg 63 48) (fld (sched s e).arg 47 16) ∧ t.mem = s.mem
        ∧ (sched t e).fired = ((sched s e).fired + 1) % 2 ^ 32 ∧ ((sched s e).irq = true → 0x160 + e ∈ t.irqs))
  ∧ (∀ (s : State) (w : ObjWrite) (now : Nat), Safety.accepted (clock s now) w 0x220004 = true →
      ∃ t, Machine.exec (.pwrCeiling w now) s = .next t ∧ ramp s t now (leNat w.val) (cfg s 0x220005) ∧ cfg t 0x220004 = leNat w.val)
  ∧ (∀ (s : State) (w : ObjWrite), Safety.accepted s w 0x230001 = true →
      (w.val.length = 8 → (∀ b ∈ w.val, b.toNat ≤ 3) → ∃ t, Machine.exec (.arithPoint w) s = .next t ∧ ∀ d, d < 8 →
        let x := dvfs s d
        let want := if s.boot.reduced then 3 else min 3 (max (w.val.getD d 0#8).toNat x.throttle)
        dvfs t d = { x with set := (w.val.getD d 0#8).toNat, target := if x.target = none ∧ want ≠ x.inForce then some want else x.target })
      ∧ (w.val.length ≠ 8 ∨ (∃ b ∈ w.val, 3 < b.toNat) → ∃ t, Machine.exec (.arithPoint w) s = .next t ∧ t.power = s.power ∧ t.active = s.active))
  ∧ (∀ (s : State) (d p : Nat), (dvfs s d).target = some p →
      let x := dvfs s d
      let want := if s.boot.reduced then 3 else min 3 (max x.set x.throttle)
      ∃ t, Machine.exec (.dvfsChangeDone d) s = .next t ∧ t = { s with power := t.power }
        ∧ dvfs t d = { x with inForce := p, target := if want ≠ p then some want else none } ∧ ∀ e, e ≠ d → dvfs t e = dvfs s e)
  ∧ (∀ (s : State) (now : Nat) (m : PowerReading),
      let u := clock s now
      let excess := fun (p : Nat) => p < 16 ∧ partOn s p = true ∧ cfg s (partKey p 6) ≠ 0 ∧ cfg s (partKey p 6) < m.parts.getD p 0
      let mine := fun (c : Nat) => (List.range 16).countP fun p => decide (excess p) && (partClusters s p).contains c
      let causes := fun (c : Nat) => b2n (decide (6800 < m.peakW)) + b2n (decide (6000 < m.avgW)) + b2n (decide (ceilingNow u < m.ceilW)) + mine c
      ∃ t, Machine.exec (.powerMeasure now m) s = .next t ∧ t.mem = s.mem
        ∧ t.power.peakW = m.peakW ∧ t.power.avgW = m.avgW ∧ t.power.partW = m.parts ∧ t.power.railW = m.rails
        ∧ (∀ c, c < 128 → (clu t c).cap = (clu s c).cap - causes c ∧ (causes c = 0 → clu t c = clu s c)
          ∧ (causes c ≠ 0 → capUnits (clu t c).cap < activityNow u (clu s c) → (clu t c).ramp = if 6800 < m.peakW ∧ causes c = 1 then .fast else .down))
        ∧ (∀ p, excess p → mget t.power.partThrottledAt p 0 = u.pace.now)
        ∧ ((∀ c, (clu s c).cap ≤ 64) → ∀ d, d < 8 → (6800 < m.peakW → 1 ∈ (throttle t d).causes) ∧ (6000 < m.avgW → 2 ∈ (throttle t d).causes)
          ∧ (ceilingNow u < m.ceilW → 3 ∈ (throttle t d).causes)))
  ∧ (∀ (s : State) (d now at_ : Nat), (throttle s d).lowSince = some at_ → at_ + 1000000 ≤ (clock s now).pace.now →
      let x := dvfs s d
      (x.inForce < 3 → x.target = none → s.boot.reduced = false → ∃ t, Machine.exec (.throttleDiePoint d now) s = .next t ∧ t.mem = s.mem
        ∧ dvfs t d = { x with throttle := x.inForce + 1, target := some (min 3 (max x.set (x.inForce + 1))) } ∧ (throttle t d).half = (throttle s d).half)
      ∧ (3 ≤ x.inForce → ∃ t, Machine.exec (.throttleDiePoint d now) s = .next t ∧ t.mem = s.mem ∧ (throttle t d).half = true ∧ dvfs t d = x))
  ∧ (∀ (s : State) (d now at_ : Nat), (throttle s d).clearSince = some at_ → at_ + 10000000 ≤ (clock s now).pace.now →
      let x := dvfs s d
      ((throttle s d).half = true → ∃ t, Machine.exec (.throttleRelease d now) s = .next t ∧ (throttle t d).half = false ∧ dvfs t d = x ∧ lowered s t [])
      ∧ ((throttle s d).half = false → 0 < x.throttle → ∃ t, Machine.exec (.throttleRelease d now) s = .next t ∧ (dvfs t d).throttle = x.throttle - 1 ∧ lowered s t [])
      ∧ ((throttle s d).half = false → x.throttle = 0 → ∃ t, Machine.exec (.throttleRelease d now) s = .next t ∧ dvfs t d = x
        ∧ ∀ c, (clu t c).cap = if c / 16 = d then min 64 ((clu s c).cap + 1) else (clu s c).cap))
  ∧ (∀ (s : State) (d now at_ : Nat), (throttle s d).actSince = some at_ → at_ + 1000000000 < (clock s now).pace.now →
      ∃ t, Machine.exec (.throttleHeld1s d now) s = .next t ∧ (throttle t d).recorded = true ∧ t.mem = s.mem ∧ t.clusters = s.clusters
        ∧ ((throttle s d).recorded = false → Safety.records s 0x0603 = true → ∃ e, t.pit.queue = s.pit.queue ++ [e] ∧ e.trig = 0x0603 ∧ e.det1 = (throttle s d).cause))
  ∧ (∀ (s : State) (now : Nat) (temps upper : List Int), railsUpPhase s = true →
      let at_ := fun (i : Nat) => (temps[i]?).map fun v => if i < 64 then max v (upper.getD i v) else v
      let trips := ∃ i v, at_ i = some v ∧ ((i < 72 ∧ 115 ≤ v) ∨ (72 ≤ i ∧ i < 104 ∧ 105 ≤ v) ∨ (104 ≤ i ∧ i < 112 ∧ 115 ≤ v))
      let struck := fun (t : State) (d : Nat) => (dvfs t d).throttle = 3 ∧ ∀ c, c / 16 = d → (clu t c).cap ≤ 16
      (trips → ∃ t, Machine.exec (.thermalSample now temps upper) s = .next t ∧ t.boot.phase = .tripped ∧ t.pins.thermtripN = false)
      ∧ (¬ trips → ∃ t, Machine.exec (.thermalSample now temps upper) s = .next t ∧ t.mem = s.mem ∧ t.boot = s.boot ∧ (∀ i, mfind t.power.temps i = at_ i)
        ∧ (∀ i v, i < 64 → at_ i = some v → 105 ≤ v → struck t (2 * (i / 16)) ∧ struck t (2 * (i / 16) + 1))
        ∧ (∀ k v, k < 8 → at_ (64 + k) = some v → 110 ≤ v → struck t (2 * (k / 2)) ∧ struck t (2 * (k / 2) + 1))
        ∧ (∀ k v, k < 32 → at_ (72 + k) = some v → 95 ≤ v → k ∈ t.power.halfStacks) ∧ (∀ k v, k < 8 → at_ (104 + k) = some v → 105 ≤ v → k ∈ t.power.halfUes))
      ∧ (∀ i v, i < 64 → at_ i = some v → (cfg s 0x240002 : Int) < v → v < 105 → s.power.hot = [] → s.power.critical = [] →
        (∀ j x l, j ≠ i → at_ j = some x → thermLimits s j = some l → x ≤ l.1 ∧ x < l.2.1 ∧ x < l.2.2) →
        ∃ t, Machine.exec (.thermalSample now temps upper) s = .next t ∧ lowered s t [32 * (i / 16) + i % 16, 32 * (i / 16) + 16 + i % 16]
          ∧ mget t.power.throttleCount i 0 = mget s.power.throttleCount i 0 + 1))

/-- Camlis sessions and messages (R457, R459, R462 to R467, R470 to R474, R476, R477). A message of good form that the server hears is executed and answered, one of bad form or beyond 8 outstanding is refused, one with a kept response is not executed again, and one that comes while `SEC0` restarts is held (R15): `GET` gives the value, a BLOB in
segments of 1,024 bytes; `SET` writes an object by its class, at once, in the shadow set under its holder, or not at all while its block runs or a check fails, and a BLOB's segments are
staged until the last; `EXPERT_OPEN` needs its authority and the model and revision; `SAVE` keeps every saved object's value in flash; `CLOSE`, an idle time-out and the loss of the management link end
sessions. The management port answers ARP, neighbour discovery and echo. -/
def Obligations.CamlisSessionsAndMessages : Prop :=
  let hears := fun (s : State) (sid : Nat) (m : CamMsg) (len : Option Nat) (x : Session) => mfind s.sessions sid = some x ∧ serves s 0 = true
    ∧ (∀ r ∈ x.kept, r.reqId ≠ m.reqId) ∧ x.outstanding.length < 8 ∧ badMsg m len = false
  let now_ := fun (t : State) (sid : Nat) => (mfind t.sessions sid).getD {}
  let said := fun (t : State) (sid type : Nat) (m : CamMsg) (status : Nat) (payload : List Byte) (pending last : Bool) =>
    (now_ t sid).kept.getLast? = some { reqId := m.reqId, type, status, index := m.index, sub := m.sub, offset := m.offset, pending, last, payload }
  let key := fun (m : CamMsg) => m.index * 256 + m.sub
  let stored := fun (s : State) (m : CamMsg) (x : Session) (d : ObjDef) => served s (key m) = true ∧ m.sub < 256 ∧ objDef (key m) = some d ∧ d.acc = .rw
    ∧ heldBytes s x (key m) = none ∧ m.index ≠ 0xF000
  let messages := fun (sid now : Nat) (m : CamMsg) => [(Instr.getI sid now m, 1), (.setI sid now m, 2), (.expertOpen sid now m, 3), (.expertClose sid now m, 4), (.quickset sid now m, 5),
    (.quicksetCancel sid now m, 6), (.shadowDiscard sid now m, 7), (.saveI sid now m, 8), (.keepalive sid now m, 0x0A), (.closeI sid now m, 0x0B)]
  (∀ (s : State) (sid now : Nat) (m : CamMsg) (x : Session), mfind s.sessions sid = some x → ∀ p ∈ messages sid now m,
      (serves s 0 = false → Machine.exec p.1 s = .next (hold (clock s now) 0 (.message p.2 sid m)))
      ∧ (serves s 0 = true → (∃ r ∈ x.kept, r.reqId = m.reqId) → ∃ t, Machine.exec p.1 s = .next t ∧ (now_ t sid).kept = x.kept ∧ t.active = s.active ∧ t.shadow = s.shadow)
      ∧ (serves s 0 = true → (∀ r ∈ x.kept, r.reqId ≠ m.reqId) → 8 ≤ x.outstanding.length → ∃ t, Machine.exec p.1 s = .next t ∧ t.active = s.active
        ∧ (now_ t sid).kept.getLast? = some { reqId := m.reqId, type := p.2, status := 0x4A })
      ∧ (serves s 0 = true → (∀ r ∈ x.kept, r.reqId ≠ m.reqId) → x.outstanding.length < 8 → badMsg m none = true → ∃ t, Machine.exec p.1 s = .next t ∧ t.active = s.active
        ∧ said t sid p.2 m 0x41 [] false false))
  ∧ (∀ (s : State) (sid now : Nat) (m : CamMsg) (x : Session), hears s sid m (some 0) x →
      (∃ t, Machine.exec (.keepalive sid now m) s = .next t ∧ said t sid 0x0A m 0 [] false false ∧ (now_ t sid).lastMsg = (clock s now).pace.now)
      ∧ (∃ t, Machine.exec (.expertClose sid now m) s = .next t ∧ said t sid 4 m 0 [] false false ∧ (now_ t sid).expert = false)
      ∧ (∃ t, Machine.exec (.closeI sid now m) s = .next t ∧ mfind t.sessions sid = none
        ∧ (s.quickset.holder = some sid → quicksetBusy s = false → t.shadow = [] ∧ t.quickset.holder = none)
        ∧ (s.quickset.holder ≠ some sid → t.shadow = s.shadow ∧ t.quickset = s.quickset))
      ∧ (hasModule x = true → ∃ t c, Machine.exec (.saveI sid now m) s = .next t ∧ said t sid 8 m 0 [] false false ∧ t.kept = { s.kept with config := some c, configBad := false }
        ∧ ∀ k ∈ savedKeys, ∀ d, objDef k = some d → d.acc = .rw → heldBytes s x k = none → (k, cfgB s k) ∈ c)
      ∧ (hasModule x = false → ∃ t, Machine.exec (.saveI sid now m) s = .next t ∧ said t sid 8 m 0x47 [] false false ∧ t.kept = s.kept)
      ∧ (∀ d, stored s m x d → d.isBlob = false → m.offset = 0 → ∃ t, Machine.exec (.getI sid now m) s = .next t
        ∧ said t sid 1 m 0 (if bit m.flags 0 = true ∧ d.cls = .qs then shadowB s (key m) else cfgB s (key m)) (objPending s (key m)) false)
      ∧ (∀ d v, served s (key m) = true → m.sub < 256 → objDef (key m) = some d → d.acc = .ro → d.isBlob = false → m.offset = 0 → m.index < 0x9100 →
        roBytes (clock s now) x.part (key m) = some v → ∃ t, Machine.exec (.getI sid now m) s = .next t ∧ said t sid 1 m 0 v (objPending s (key m)) false)
      ∧ (∀ d, stored s m x d → d.isBlob = true → m.offset = 0 → bit m.flags 0 = false → ∃ t, Machine.exec (.getI sid now m) s = .next t
        ∧ said t sid 1 m 0 ((cfgB s (key m)).take 1024) (objPending s (key m)) (decide ((cfgB s (key m)).length ≤ 1024))
        ∧ (now_ t sid).snap = some (2 * key m, cfgB s (key m), (clock s now).pace.now))
      ∧ (∀ d b t0, stored s m x d → d.isBlob = true → m.offset ≠ 0 → bit m.flags 0 = false → x.snap = some (2 * key m, b, t0) → (clock s now).pace.now ≤ t0 + 1000000000 →
        m.offset ≤ b.length → ∃ t, Machine.exec (.getI sid now m) s = .next t
          ∧ said t sid 1 m 0 ((b.drop m.offset).take 1024) (objPending s (key m)) (decide (b.length ≤ m.offset + 1024)))
      ∧ (objDef (key m) = none → ∃ t, Machine.exec (.getI sid now m) s = .next t ∧ said t sid 1 m 0x40 [] false false))
  ∧ (∀ (s : State) (sid now : Nat) (m : CamMsg) (x : Session), hears s sid m (some 10) x →
      let right := m.payload = padTo 8 (strBytes "SKT9-48") ++ strBytes "A1"
      (bit x.authority 17 = true → right → ∃ t, Machine.exec (.expertOpen sid now m) s = .next t ∧ said t sid 3 m 0 [] false false ∧ (now_ t sid).expert = true)
      ∧ (bit x.authority 17 = true → ¬ right → ∃ t, Machine.exec (.expertOpen sid now m) s = .next t ∧ said t sid 3 m 0x48 [] false false ∧ (now_ t sid).expert = x.expert)
      ∧ (bit x.authority 17 = false → ∃ t, Machine.exec (.expertOpen sid now m) s = .next t ∧ said t sid 3 m 0x47 [] false false ∧ (now_ t sid).expert = x.expert))
  ∧ (∀ (s : State) (sid now : Nat) (m : CamMsg) (x : Session) (d : ObjDef), hears s sid m none x → stored s m x d →
      let val := d.isBlob = false ∧ m.offset = 0 ∧ d.row = false ∧ valueBad s (key m) m.payload = false
      let ok := writeCheck s x (key m) m.payload = 0
      (d.isBlob = false → m.offset = 0 → ¬ ok → ∃ t, Machine.exec (.setI sid now m) s = .next t ∧ t.active = s.active ∧ t.shadow = s.shadow
        ∧ said t sid 2 m (writeCheck s x (key m) m.payload) [] false false)
      ∧ (val → ok → d.cls = .imm → ∃ t, Machine.exec (.setI sid now m) s = .next t ∧ said t sid 2 m 0 [] false false
        ∧ cfgB t (key m) = m.payload ∧ ∀ k, k ≠ key m → mfind t.active k = mfind s.active k)
      ∧ (val → ok → d.cls = .stp → blockRuns s x (key m) m.payload = false → ∃ t, Machine.exec (.setI sid now m) s = .next t ∧ said t sid 2 m 0 [] false false
        ∧ cfgB t (key m) = m.payload)
      ∧ (val → ok → d.cls = .stp → blockRuns s x (key m) m.payload = true → ∃ t, Machine.exec (.setI sid now m) s = .next t ∧ said t sid 2 m 0x45 [] false false
        ∧ t.active = s.active)
      ∧ (val → ok → d.cls = .bnd → ∃ t, Machine.exec (.setI sid now m) s = .next t ∧ said t sid 2 m 0 [] false false ∧ cfgB t (key m) = m.payload)
      ∧ (val → ok → d.cls = .qs → quicksetBusy s = false → s.quickset.holder = none ∨ s.quickset.holder = some sid → hasModule x = true →
        ∃ t, Machine.exec (.setI sid now m) s = .next t ∧ said t sid 2 m 0 [] false false ∧ shadowB t (key m) = m.payload ∧ t.quickset.holder = some sid ∧ t.active = s.active)
      ∧ (val → ok → d.cls = .qs → quicksetBusy s = true ∨ (∃ h, s.quickset.holder = some h ∧ h ≠ sid) →
        ∃ t, Machine.exec (.setI sid now m) s = .next t ∧ said t sid 2 m 0x49 [] false false ∧ t.shadow = s.shadow ∧ t.active = s.active)
      ∧ (∀ b, d.isBlob = true → m.payload.length ≤ 1024 → writeCheck s x (key m) [] = 0 → bit m.flags 1 = false →
        (x.staging = some (key m, b) ∧ b.length = m.offset ∨ x.staging = none ∧ b = [] ∧ m.offset = 0) → (∀ n, d.typ = .blob n → (b ++ m.payload).length ≤ n) →
        (b ++ m.payload).length ≤ 2 ^ 20 →
        ∃ t, Machine.exec (.setI sid now m) s = .next t ∧ said t sid 2 m 0 [] false false ∧ (now_ t sid).staging = some (key m, b ++ m.payload) ∧ t.active = s.active)
      ∧ (∀ b, d.isBlob = true → m.payload.length ≤ 1024 → writeCheck s x (key m) [] = 0 → bit m.flags 1 = true → x.staging = some (key m, b) ∧ b.length = m.offset →
        (∀ n, d.typ = .blob n → (b ++ m.payload).length ≤ n) → (b ++ m.payload).length ≤ 2 ^ 20 → writeCheck s x (key m) (b ++ m.payload) = 0 → d.row = false →
        blobFits (key m) (b ++ m.payload) = true → valueBad s (key m) (b ++ m.payload) = false → d.cls = .qs → quicksetBusy s = false →
        s.quickset.holder = none ∨ s.quickset.holder = some sid → hasModule x = true → key m < 0x440001 ∨ 0x440010 < key m →
        ∃ t, Machine.exec (.setI sid now m) s = .next t ∧ said t sid 2 m 0 [] false false ∧ (now_ t sid).staging = none ∧ shadowB t (key m) = b ++ m.payload ∧ t.active = s.active)
      ∧ (d.isBlob = true → m.payload.length ≤ 1024 → writeCheck s x (key m) [] = 0 → x.staging = none → m.offset ≠ 0 →
        ∃ t, Machine.exec (.setI sid now m) s = .next t ∧ said t sid 2 m 0x4B [] false false ∧ t.active = s.active ∧ t.shadow = s.shadow))
  ∧ (∀ (s : State) (sid now : Nat) (x : Session), mfind s.sessions sid = some x →
      (fwRuns s 0 = true → x.lastMsg + cfg s 0x110004 * 1000000000 ≤ (clock s now).pace.now →
        ∃ t, Machine.exec (.sessionIdleTimeout sid now) s = .next t ∧ mfind t.sessions sid = none)
      ∧ (∀ k b t0, x.snap = some (k, b, t0) → t0 + 1000000000 < (clock s now).pace.now →
        ∃ t, Machine.exec (.blobSnapshotExpire sid now) s = .next t ∧ mfind t.sessions sid = some { x with snap := none }))
  ∧ (∀ (s : State) (sid now : Nat) (v6 : Bool) (chain : List Byte),
      let room := (s.sessions.filter fun x => x.2.localPair.isNone).length < cfg s 0x110002
      let root := (Config.rootEntries (cfgB s 0x720001)).find? fun e => Config.chainOk chain e.1
      let opens := s.mgmtUp = true ∧ 4 ≤ sid ∧ mfind s.sessions sid = none ∧ room
      (∀ e, root = some e → opens → serves s 0 = true → ∃ t y, Machine.exec (.sessionHandshake sid now chain v6) s = .next t ∧ mfind t.sessions sid = some y ∧ y.authority = e.2
        ∧ y.localPair = none ∧ y.v6 = v6 ∧ y.expert = false ∧ y.kept = [])
      ∧ (∀ e, root = some e → opens → serves s 0 = false → Machine.exec (.sessionHandshake sid now chain v6) s = .next (hold (clock s now) 0 (.handshake sid v6 chain)))
      ∧ (root = none ∨ ¬ opens → Machine.exec (.sessionHandshake sid now chain v6) s = .next (clock s now)))
  ∧ (∀ (s : State), (∃ t, Machine.exec .mgmtLinkDown s = .next t ∧ t.mgmtUp = false ∧ (∀ sid x, mfind s.sessions sid = some x → x.localPair = none → mfind t.sessions sid = none)
        ∧ (Safety.rising s.sessions → ∀ sid x, mfind s.sessions sid = some x → x.localPair ≠ none → mfind t.sessions sid = some x))
      ∧ (mgmtInService s = true → ∃ t, Machine.exec .mgmtLinkUp s = .next t ∧ t = { s with mgmtUp := true })
      ∧ (s.mgmtUp = true → (∀ f ∈ [.arp, .neighbour], ∃ t, Machine.exec (.mgmtPortFrame f) s = .next t ∧ t.mgmtReplies = s.mgmtReplies ++ [leBytes 6 (Config.macAddr % 2 ^ 48)])
        ∧ (∀ a, Machine.exec (.mgmtPortFrame (.dhcp a)) s = .next (if leNat (cfgB s 0x130002) = 0 then { s with dhcpAddr := a } else s)
          ∧ Machine.exec (.mgmtPortFrame (.advert a)) s = .next (if leNat (cfgB s 0x130003) = 0 then { s with slaacAddr := a } else s))
        ∧ (∀ b, ∃ t, Machine.exec (.mgmtPortFrame (.echo b)) s = .next t ∧ t.mgmtReplies = s.mgmtReplies ++ [b])
        ∧ Machine.exec (.mgmtPortFrame .other) s = .next s))

/-- The shadow set and Quickset (R457, R476 to R486). A Quickset of a set that passes its checks waits for its instant; one that fails changes nothing and says why; with no difference it
answers at once. At the instant every changed object takes its shadow value together, a scratch split takes effect with the units that change cleared (R60), and the response follows once every sequence it started has ended. The holder may cancel before the
instant, or discard the shadow set. A partition is enabled or disabled only while nothing of it runs and its configuration passes the checks. -/
def Obligations.QuicksetAndPartitions : Prop :=
  let hears := fun (s : State) (sid : Nat) (m : CamMsg) (len : Nat) (x : Session) => mfind s.sessions sid = some x ∧ serves s 0 = true
    ∧ (∀ r ∈ x.kept, r.reqId ≠ m.reqId) ∧ x.outstanding.length < 8 ∧ badMsg m (some len) = false
  let said := fun (t : State) (sid type req status : Nat) (payload : List Byte) =>
    (((mfind t.sessions sid).getD {}).kept.getLast?.map fun r => (r.type, r.reqId, r.status, r.payload)) = some (type, req, status, payload)
  let mine := fun (s : State) (sid : Nat) => s.quickset.holder = none ∨ s.quickset.holder = some sid
  (∀ (s : State) (sid now : Nat) (m : CamMsg) (x : Session), hears s sid m 8 x → mine s sid → quicksetBusy s = false →
      let u := (clock s now).pace.now
      let at_ := leNat m.payload
      (u + 10000000000 < at_ → ∃ t, Machine.exec (.quickset sid now m) s = .next t ∧ said t sid 5 m.reqId 0x42 [] ∧ t.quickset = s.quickset ∧ t.shadow = s.shadow)
      ∧ (at_ ≤ u + 10000000000 → shadowDiff s = [] → ∃ t, Machine.exec (.quickset sid now m) s = .next t ∧ said t sid 5 m.reqId 0 (leBytes 8 u) ∧ t.shadow = []
        ∧ t.quickset.holder = none ∧ t.active = s.active)
      ∧ (at_ ≤ u + 10000000000 → shadowDiff s ≠ [] → quicksetCheck s ≠ 0 → ∃ t, Machine.exec (.quickset sid now m) s = .next t
        ∧ said t sid 5 m.reqId (quicksetCheck s) [] ∧ t.quickset = { s.quickset with lastResult := quicksetCheck s } ∧ t.shadow = s.shadow ∧ t.active = s.active)
      ∧ (at_ ≤ u + 10000000000 → shadowDiff s ≠ [] → quicksetCheck s = 0 → ∃ t, Machine.exec (.quickset sid now m) s = .next t ∧ t.shadow = s.shadow ∧ t.active = s.active
        ∧ t.quickset = { s.quickset with pending := some (sid, m.reqId, max at_ (u + 1)) } ∧ ((mfind t.sessions sid).getD {}).outstanding = x.outstanding ++ [m.reqId]))
  ∧ (∀ (s : State) (sid now : Nat) (m : CamMsg) (x : Session), hears s sid m 8 x → quicksetBusy s = true ∨ ¬ mine s sid →
      ∃ t, Machine.exec (.quickset sid now m) s = .next t ∧ said t sid 5 m.reqId 0x49 [] ∧ t.quickset = s.quickset ∧ t.active = s.active)
  ∧ (∀ (s : State) (sid now : Nat) (m : CamMsg) (x : Session), hears s sid m 0 x →
      (∀ p, mine s sid → s.quickset.completing = none → s.quickset.pending = some p → ∃ t, Machine.exec (.quicksetCancel sid now m) s = .next t ∧ said t sid 6 m.reqId 0 []
        ∧ t.quickset = { s.quickset with pending := none } ∧ t.shadow = s.shadow ∧ p.2.1 ∉ ((mfind t.sessions sid).getD {}).outstanding)
      ∧ (mine s sid → quicksetBusy s = false → ∃ t, Machine.exec (.quicksetCancel sid now m) s = .next t ∧ said t sid 6 m.reqId 0 [] ∧ t.quickset = s.quickset ∧ t.shadow = s.shadow)
      ∧ (s.quickset.completing ≠ none ∨ ¬ mine s sid → ∃ t, Machine.exec (.quicksetCancel sid now m) s = .next t ∧ said t sid 6 m.reqId 0x49 [] ∧ t.quickset = s.quickset)
      ∧ (mine s sid → quicksetBusy s = false → s.quickset.holder ≠ none → ∃ t, Machine.exec (.shadowDiscard sid now m) s = .next t ∧ said t sid 7 m.reqId 0 [] ∧ t.shadow = []
        ∧ t.quickset = { s.quickset with holder := none } ∧ t.active = s.active)
      ∧ (s.quickset.holder = none → quicksetBusy s = false → ∃ t, Machine.exec (.shadowDiscard sid now m) s = .next t ∧ said t sid 7 m.reqId 0 [] ∧ t.shadow = s.shadow)
      ∧ (quicksetBusy s = true ∨ ¬ mine s sid → ∃ t, Machine.exec (.shadowDiscard sid now m) s = .next t ∧ said t sid 7 m.reqId 0x49 [] ∧ t.shadow = s.shadow))
  ∧ (∀ (s : State) (now sid req at_ : Nat), s.quickset.pending = some (sid, req, at_) →
      ((clock s now).pace.now < at_ → Machine.exec (.quicksetInstant now) s = .next (clock s now))
      ∧ (at_ ≤ (clock s now).pace.now → ∃ t, Machine.exec (.quicksetInstant now) s = .next t ∧ (Safety.rising s.shadow → ∀ k, cfgB t k = shadowB s k) ∧ t.shadow = []
        ∧ t.quickset.pending = none ∧ t.quickset.completing = some (sid, req) ∧ t.quickset.count = s.quickset.count + 1 ∧ t.quickset.lastInstant = at_
        ∧ (mfind s.shadow 0x310001 = none → t.mem = s.mem ∧ t.quickset.waitingFor = [])
        ∧ (Safety.rising s.shadow → ∀ tw ∈ t.quickset.waitingFor, let n := byteOf (shadowB s 0x310001) tw
          tw < 4 ∧ n ≠ scratchUnits s tw ∧ (n ≤ 6 → scratchUnits t tw = n) ∧ (tow t tw).splitTo = some n ∧ (tow t tw).cacheMode ≠ .normal
          ∧ (Safety.settled s → ∀ i, min (scratchUnits s tw) n * 0x10000000 ≤ i → i < max (scratchUnits s tw) n * 0x10000000 → readMem t (0x080000000000 + tw * 0x60000000 + i) 1 = [0#8]))))
  ∧ (∀ (s : State) (now sid req : Nat) (x : Session), s.quickset.completing = some (sid, req) → mfind s.sessions sid = some x → fwRuns s 0 = true →
      (∀ tw ∈ s.quickset.waitingFor, (tow s tw).splitTo = none) →
      let gone := fun (y : Session) => y.localPair = none ∧ (if y.v6 then s.quickset.moved6 else s.quickset.moved4) = true
      ∃ t, Machine.exec (.quicksetComplete now) s = .next t ∧ t.quickset.completing = none ∧ t.quickset.holder = none
        ∧ (¬ gone x → said t sid 5 req 0 (leBytes 8 s.quickset.lastInstant))
        ∧ (∀ j y, mfind s.sessions j = some y → gone y → (∀ e ∈ s.sessions, e.1 = j → e.2 = y) → mfind t.sessions j = none)
        ∧ (Safety.rising s.sessions → ∀ j y, mfind s.sessions j = some y → ¬ gone y → (mfind t.sessions j).isSome = true))
  ∧ (∀ (s : State) (p : Nat) (w : ObjWrite), Safety.accepted s w (partKey p 1) = true →
      let on := leNat w.val = 1
      let tooMuch := (List.range 4).any fun i => decide (subNat (cfgB s (partKey p 5)) (8 * i) 8 < tierUse s (cfgB s (partKey p 4)) i)
      let bad := ((windowsOf (cfgB s (partKey p 4))).any (windowBad s)) || (List.range 16).any fun q => q != p && partOn s q && partsClash (cfgB s) p q
      let answered := fun (t : State) (st : Nat) => w.reg = false → Safety.lastStatus t w.sid = some st
      (partRuns s p = false → (on → bad = false ∧ tooMuch = false) → ∃ t, Machine.exec (.partEnable p w) s = .next t ∧ answered t 0 ∧ cfgB t (partKey p 1) = w.val
        ∧ ∀ k, k ≠ partKey p 1 → mfind t.active k = mfind s.active k)
      ∧ (partRuns s p = true ∨ (on ∧ (bad = true ∨ tooMuch = true)) → ∃ t, Machine.exec (.partEnable p w) s = .next t ∧ t.active = s.active
        ∧ answered t (if partRuns s p then 0x45 else if bad then 0x42 else 0x46)))

/-- Registers and the local channel (R458, R460, R462, R475, R489, R565). A store into register space reaches the registers its bytes cover; a register that does not take it is as before, and
the store counts and is recorded. Only a core's write to the local channel counts: its area must lie in the operating-system region, and a pair's session begins with its first request. A
`DIAG_DATA` write stores 8 bytes at the session's diagnostic address. -/
def Obligations.RegistersAndLocalChannel : Prop :=
  (∀ (s : State) (iss : Issuer) (a size : Nat) (v : W64), alive s = true → home s a = .regs → accessStatus s iss .store a size = 0 → size ≤ 8 →
      let r := regWrite s (regBy iss) (a / 8 * 8) (v.toNat % 256 ^ size * 2 ^ (8 * (a % 8))) (coverMask a size)
      (r.1 = 0 → ∃ t, Machine.exec (.registerWrite iss a size v) s = .next t ∧ t = r.2)
      ∧ (r.1 ≠ 0 → ∃ t, Machine.exec (.registerWrite iss a size v) s = .next t ∧ t.regRejects = s.regRejects + 1 ∧ t = { s with regRejects := t.regRejects, pit := t.pit }))
  ∧ (∀ (s : State) (iss : Issuer) (b w : Nat) (v : W64), alive s = true → b < 256 → 0 < w → w < 8 → (bkt s b).desc.length = 8 →
      let a := 0x0F0021000000 + b / 64 * 2 ^ 32 + b % 64 * 64 + 8 * w
      home s a = .regs → accessStatus s iss .store a 8 = 0 →
      ((bkt s b).live = false → ∃ t, Machine.exec (.registerWrite iss a 8 v) s = .next t ∧ (bkt t b).desc[w]? = some (v &&& BitVec.ofNat 64 (bktMask w)) ∧ (∀ i, i ≠ w → (bkt t b).desc[i]? = (bkt s b).desc[i]?)
        ∧ (bkt t b).mode = (bkt s b).mode ∧ t = { s with buckets := t.buckets })
      ∧ ((bkt s b).live = true → bw (bkt s b) w ≠ v.toNat &&& bktMask w → ∃ t, Machine.exec (.registerWrite iss a 8 v) s = .next t ∧ t.buckets = s.buckets ∧ t.regRejects = s.regRejects + 1))
  ∧ (∀ (s : State) (iss : Issuer) (a size : Nat) (v : W64), alive s = false ∨ home s a ≠ .regs ∨ accessStatus s iss .store a size ≠ 0 →
      Machine.exec (.registerWrite iss a size v) s = .next s)
  ∧ (∀ (s : State) (v : W64),
      let base := fld v.toNat 47 17 * 2 ^ 17
      Machine.exec (.cmlLocalBase false v) s = .next s
      ∧ (bit v.toNat 63 = true → inOs s base 0x20000 = true → ∃ t, Machine.exec (.cmlLocalBase true v) s = .next t ∧ t.localChan.en = true ∧ t.localChan.base = base
        ∧ t.sessions = s.sessions)
      ∧ (bit v.toNat 63 = false ∨ inOs s base 0x20000 = false → ∃ t, Machine.exec (.cmlLocalBase true v) s = .next t ∧ t.localChan.en = false
        ∧ (∀ j x, mfind s.sessions j = some x → x.localPair ≠ none → mfind t.sessions j = none)))
  ∧ (∀ (s : State) (v : W64) (now : Nat),
      let j := fld v.toNat 4 3
      Machine.exec (.cmlLocalDoorbell false v now) s = .next (clock s now)
      ∧ (s.localChan.en = true → mfind s.sessions j = none → ∃ t y, Machine.exec (.cmlLocalDoorbell true v now) s = .next t ∧ mfind t.sessions j = some y
        ∧ y.localPair = some j ∧ y.authority = cfg s 0x110003 ∧ mget t.localChan.writes j 0 = fld v.toNat 2 0)
      ∧ (s.localChan.en = true → mfind s.sessions j ≠ none → ∃ t, Machine.exec (.cmlLocalDoorbell true v now) s = .next t ∧ t.sessions = s.sessions
        ∧ mget t.localChan.writes j 0 = fld v.toNat 2 0)
      ∧ (s.localChan.en = false → Machine.exec (.cmlLocalDoorbell true v now) s = .next (clock s now)))
  ∧ (∀ (s : State) (w : ObjWrite) (x : Session), Safety.accepted s w 0xF00002 = true → w.reg = false → mfind s.sessions w.sid = some x →
      (x.diagAddr % 8 ≠ 0 ∨ home s x.diagAddr ≠ .regs → ∃ t, Machine.exec (.diagData w) s = .next t ∧ Safety.lastStatus t w.sid = some 0x42 ∧ t.active = s.active
        ∧ t.clusters = s.clusters ∧ t.buckets = s.buckets)
      ∧ (∀ e, x.diagAddr = 0x0F0800401000 + e * 0x20 + 8 → e < 64 → home s x.diagAddr = .regs → (sched s e).arm = false → ∃ t, Machine.exec (.diagData w) s = .next t
        ∧ Safety.lastStatus t w.sid = some 0 ∧ (sched t e).time = leNat w.val % 2 ^ 64))

/-- Measurements, attestation and data keys (R491 to R496, R501, R502). An answered SPDM request leaves its response in the session's mailbox and changes nothing else, and one that comes while `SEC0` restarts is held (R15); the layouts are those of
DSP0274 1.3 (assumption 24). Extending a measurement register recomputes every partition digest and erases the keys bound to one that no longer holds. A data key enters its slot only where it
unwraps under the running KRK and is bound to the partition's digest. -/
def Obligations.AttestationAndDataKeys : Prop :=
  let mails := fun (o : Out) (s : State) (sid draws : Nat) (x : Session) (r : List Byte) =>
    o = .next { s with sessions := mset s.sessions sid { x with spdm := r, lastMsg := s.pace.now }, free := s.free + draws }
  let said := fun (t : State) (w : ObjWrite) (c : Nat) => w.reg = false → Safety.lastStatus t w.sid = some c
  (∀ (s : State) (sid : Nat) (body : List Byte) (x : Session), mfind s.sessions sid = some x → serves s 0 = true →
      (∃ r, mails (Machine.exec (.getVersion sid body) s) s sid 0 x r ∧ r.length = 8 ∧ subNat r 0 1 = 0x10 ∧ subNat r 1 1 = 0x04 ∧ subNat r 5 1 = 1 ∧ subNat r 6 2 = 0x1300)
      ∧ (∃ r, mails (Machine.exec (.getCapabilities sid body) s) s sid 0 x r ∧ subNat r 0 1 = 0x13 ∧ subNat r 1 1 = 0x61 ∧ subNat r 8 4 = 0x16)
      ∧ (∃ r, mails (Machine.exec (.negotiateAlgorithms sid body) s) s sid 0 x r ∧ subNat r 1 1 = 0x63 ∧ subNat r 6 1 = 1 ∧ subNat r 8 4 = 4 ∧ subNat r 12 4 = 0x80 ∧ subNat r 16 4 = 2)
      ∧ (∃ r, mails (Machine.exec (.getDigests sid body) s) s sid 0 x r ∧ subNat r 1 1 = 0x01 ∧ subNat r 3 1 = b2n (certChain s 0 != []) + 2 * b2n (certChain s 1 != [])
        ∧ r.drop 4 = (if certChain s 0 = [] then [] else Config.sha384 (certChain s 0)) ++ if certChain s 1 = [] then [] else Config.sha384 (certChain s 1))
      ∧ (let slot := subNat body 2 1 % 16
        let off := subNat body 4 2
        let n := subNat body 6 2
        let c := certChain s slot
        (c = [] → ∃ r, mails (Machine.exec (.getCertificate sid body) s) s sid 0 x r ∧ subNat r 1 1 = 0x7F)
        ∧ (c ≠ [] → c.length < 65536 → ∃ r, mails (Machine.exec (.getCertificate sid body) s) s sid 0 x r ∧ subNat r 1 1 = 0x02 ∧ r.drop 8 = (c.drop off).take n
          ∧ subNat r 4 2 = min n (c.length - off) ∧ subNat r 6 2 = c.length - off - min n (c.length - off))
        ∧ (c = [] → ∃ r, mails (Machine.exec (.challenge sid body) s) s sid 0 x r ∧ subNat r 1 1 = 0x7F)
        ∧ (c ≠ [] → ∃ r m, mails (Machine.exec (.challenge sid body) s) s sid 1 x r ∧ r = m ++ Config.ecdsaSign (s.trust.ak.getD 0) (body ++ m) ∧ subNat m 1 1 = 0x03
          ∧ Config.sha384 c <+: m.drop 4))
      ∧ (let op := subNat body 3 1
        let sign := bit (subNat body 2 1) 0
        let known := measIndices.contains op
        (op ≠ 0 → op ≠ 0xFF → known = false → ∃ r, mails (Machine.exec (.getMeasurements sid body) s) s sid 0 x r ∧ subNat r 1 1 = 0x7F)
        ∧ (op = 0 ∨ op = 0xFF ∨ known = true → ∃ r m, mails (Machine.exec (.getMeasurements sid body) s) s sid 1 x r ∧ subNat m 1 1 = 0x60
          ∧ r = m ++ (if sign then Config.ecdsaSign (s.trust.ak.getD 0) (body ++ m) else [])
          ∧ subNat m 4 1 = (if op = 0 then 0 else if op = 0xFF then 34 else 1)
          ∧ (∀ i, op = i + 1 → i < 16 → measBlock op (mr s i, true) <+: m.drop 8)
          ∧ (∀ p, op = 0x11 + p → p < 16 → measBlock op (dp s p, true) <+: m.drop 8)))
      ∧ (∀ code, code < 256 → ∃ r, mails (Machine.exec (.spdmUnsupportedRequest sid code) s) s sid 0 x r ∧ subNat r 1 1 = 0x7F ∧ subNat r 2 1 = 7 ∧ subNat r 3 1 = code))
  ∧ (∀ (s : State) (sid code : Nat) (body : List Byte) (x : Session), mfind s.sessions sid = some x → serves s 0 = false →
      (∀ r ∈ [(Instr.getVersion sid body, 0x84), (.getCapabilities sid body, 0xE1), (.negotiateAlgorithms sid body, 0xE3), (.getDigests sid body, 0x81),
        (.getCertificate sid body, 0x82), (.challenge sid body, 0x83), (.getMeasurements sid body, 0xE0)], Machine.exec r.1 s = .next (hold s 0 (.spdm sid r.2 body)))
      ∧ Machine.exec (.spdmUnsupportedRequest sid code) s = .next (hold s 0 (.spdm sid code [])))
  ∧ (∀ (s : State) (w : ObjWrite), Safety.accepted s w 0x700004 = true →
      let i := subNat w.val 0 1
      (w.val.length = 49 → 8 ≤ i → i < 16 → ∃ t, Machine.exec (.mrExtend w) s = .next t ∧ said t w 0 ∧ mr t i = Config.sha384 (mr s i ++ w.val.drop 1) ∧ (∀ j, j ≠ i → mr t j = mr s j)
        ∧ (∀ p, p < 16 → dp t p = digestOf t p) ∧ (∀ k y, mfind t.trust.keys k = some y → y.dp = dp t y.part)
        ∧ (∀ k y, mfind s.trust.keys k = some y → y.dp = dp t y.part → mfind t.trust.keys k = some y) ∧ t.active = s.active)
      ∧ (w.val.length ≠ 49 ∨ i < 8 ∨ 16 ≤ i → ∃ t, Machine.exec (.mrExtend w) s = .next t ∧ said t w (if w.val.length ≠ 49 then 0x41 else 0x42) ∧ t.trust = s.trust))
  ∧ (∀ (s : State) (w : ObjWrite), Safety.accepted s w 0x710001 = true →
      let v := w.val
      let part := subNat v 4 1
      let use := subNat v 5 1
      let k := subNat v 6 1
      let form := v.length = 261 ∧ part < 16 ∧ 1 ≤ use ∧ use ≤ 3 ∧ k < 64 ∧ subNat v 7 1 = 0
      (form → slotUsed s k = false → ∀ key, unwrapKey s v = some key → ∃ t y, Machine.exec (.keyImport w) s = .next t ∧ said t w 0 ∧ mfind t.trust.keys k = some y ∧ y.valid = true
        ∧ y.id = subNat v 0 4 ∧ y.part = part ∧ y.use = use ∧ y.dp = dp s part ∧ y.key = key ∧ (∀ j, j ≠ k → mfind t.trust.keys j = mfind s.trust.keys j)
        ∧ t.trust = { s.trust with keys := t.trust.keys })
      ∧ (form → slotUsed s k = false → unwrapKey s v = none → ∃ t, Machine.exec (.keyImport w) s = .next t ∧ said t w 0x42 ∧ t.trust = { s.trust with refused := s.trust.refused + 1 })
      ∧ (form → slotUsed s k = true → ∃ t, Machine.exec (.keyImport w) s = .next t ∧ said t w 0x45 ∧ t.trust = s.trust)
      ∧ (¬ form → ∃ t, Machine.exec (.keyImport w) s = .next t ∧ said t w (if v.length ≠ 261 then 0x41 else 0x42) ∧ t.trust = s.trust)
      ∧ (s.trust.krk = none ∨ (v.drop 8).take 48 ≠ dp s part → unwrapKey s v = none))
  ∧ (∀ (s : State) (w : ObjWrite), Safety.accepted s w 0x710003 = true →
      (leNat w.val < 64 → ∃ t, Machine.exec (.keyErase w) s = .next t ∧ said t w 0 ∧ mfind t.trust.keys (leNat w.val) = none
        ∧ (∀ j, j ≠ leNat w.val → mfind t.trust.keys j = mfind s.trust.keys j) ∧ t.trust = { s.trust with keys := t.trust.keys })
      ∧ (64 ≤ leNat w.val → ∃ t, Machine.exec (.keyErase w) s = .next t ∧ said t w 0x42 ∧ t.trust = s.trust))

/-- Sealing (R503 to R507). A record reaches memory only where the channel holds a key for its direction and the tag is right: then the plaintext stands at base + n × 1984 and nowhere else; a
record whose tag fails writes nothing, counts, and is recorded in the Pit Log. `EN` is set only where the key, the windows and the check-value unit allow it, and class S fields hold while it is
set. A record or job that would wait at a stack waits (R70). A job writes the sealed record; its end clears `EN` and stores the completion word. -/
def Obligations.SealedRecordsAndJobs : Prop :=
  (∀ (s : State) (p now c : Nat) (q : Packet), Safety.reaches s p q 8 = true → ingestOf s q = some c → routes s q.src ≠ [] → bwrWaits s q = false →
      let x := chan s c
      let hdr := q.payload.take 16
      let n := leNat (hdr.take 8)
      let len := leNat ((hdr.drop 8).take 2)
      let key := (mget s.trust.keys x.keySlot {}).key
      let plain := Config.gcmOpen key (recNonce x n) hdr ((q.payload.drop 16).take (q.payload.length - 32)) (q.payload.drop (q.payload.length - 16))
      let a := x.base + n * 1984
      let form := q.payload.length = len + 32 ∧ len ≤ 1984 ∧ q.poison = false
      (keyFor s x = false → ∃ t, Machine.exec (.sealedRecord p now q) s = .next t ∧ Safety.answers s t q 0xC 0x31 [] ∧ t.mem = s.mem ∧ t.channels = s.channels)
      ∧ (keyFor s x = true → ¬ form ∨ plain = none → ∃ t, Machine.exec (.sealedRecord p now q) s = .next t ∧ Safety.answers s t q 0xC 0x30 [] ∧ t.mem = s.mem
        ∧ (chan t c).fails = x.fails + 1 ∧ (bit (trigByte s 0x0701) 7 = true → s.pit.queue.length < 256 → ∃ e, t.pit.queue = s.pit.queue ++ [e] ∧ e.trig = 0x0701 ∧ e.unit = c ∧ e.status = 0x30))
      ∧ (∀ d, keyFor s x = true → form → plain = some d → d.length = len → x.cvuEn = false → Safety.calm s → a + len ≤ x.base + x.limit → inbound s q.jkey a len true = true →
          accessStatus s (x.iss c) .store a (max 1 len) = 0 → ∃ t, Machine.exec (.sealedRecord p now q) s = .next t ∧ Safety.answers s t q 0xC 0 [] ∧ readMem t a len = d
            ∧ Safety.sameBytesBut s t a len ∧ (chan t c).records = x.records + 1)
      ∧ (∀ d, keyFor s x = true → form → plain = some d → x.base + x.limit < a + len → ∃ t, Machine.exec (.sealedRecord p now q) s = .next t ∧ Safety.answers s t q 0xC 5 [] ∧ t.mem = s.mem)
      ∧ (∀ d, keyFor s x = true → form → plain = some d → a + len ≤ x.base + x.limit → inbound s q.jkey a len true = false ∨ accessStatus s (x.iss c) .store a (max 1 len) ≠ 0 →
          ∃ t, Machine.exec (.sealedRecord p now q) s = .next t ∧ t.mem = s.mem
            ∧ Safety.answers s t q 0xC (if inbound s q.jkey a len true then accessStatus s (x.iss c) .store a (max 1 len) else 0x14) []))
  ∧ (∀ (s : State) (p now : Nat) (q : Packet), bwrWaits s q = true → Machine.exec (.sealedRecord p now q) s = .next (clock s now))
  ∧ (∀ (s : State) (ch : Nat) (v : W64),
      let x := chan s ch
      let y := x.withCtrl v.toNat
      let row := fun (dir : Bool) => if dir then Instr.sealJobStart ch v else Instr.sigChannelEnable ch v
      (∀ dir, bit v.toNat 63 = false ∨ bit v.toNat 62 ≠ dir → Machine.exec (row dir) s = .next s)
      ∧ (∀ dir, bit v.toNat 63 = true → bit v.toNat 62 = dir → (x.en = true → ctrlMoves x v.toNat = true) → (x.en = false → enableCheck s ch y ≠ 0) →
          ∃ t, Machine.exec (row dir) s = .next t ∧ t.regRejects = s.regRejects + 1 ∧ t = { s with regRejects := t.regRejects, pit := t.pit })
      ∧ (∀ dir, bit v.toNat 63 = true → bit v.toNat 62 = dir → x.en = true → ctrlMoves x v.toNat = false → Machine.exec (row dir) s = .next s)
      ∧ (bit v.toNat 63 = true → bit v.toNat 62 = false → x.en = false → enableCheck s ch y = 0 → y.cvuEn = false →
          Machine.exec (.sigChannelEnable ch v) s = .next (setChan s ch { y with records := 0, status := 0, next := 0 }))
      ∧ (bit v.toNat 63 = true → bit v.toNat 62 = true → x.en = false → enableCheck s ch y = 0 → y.cvuEn = false → 0 < y.limit → y.limit ≤ 1984 → y.dest < 2 ^ 48 → Safety.calm s →
          (∀ q ∈ cuts y.base y.limit, accessStatus s (y.iss ch) .load q.1 q.2 = 0 ∧ poisoned s q.1 q.2 = false) →
          (∀ q ∈ cuts y.dest 2048, accessStatus s (y.iss ch) .store q.1 q.2 = 0) →
          let e := Config.gcmSeal (mget s.trust.keys y.keySlot {}).key (recNonce y 0) (recHeader 0 y.limit) (readMem s y.base y.limit)
          ∃ t, Machine.exec (.sealJobStart ch v) s = .next t ∧ readMem t y.dest 2048 = padTo 2048 (recHeader 0 y.limit ++ e.1 ++ e.2) ∧ Safety.sameBytesBut s t y.dest 2048
            ∧ (chan t ch).en = true ∧ (chan t ch).records = 1 ∧ (chan t ch).status = 0))
  ∧ (∀ (s : State) (ch : Nat),
      let x := chan s ch
      let open' := s.requests.any fun (r : Request) => r.sealCh == some ch
      let a := x.compl % 2 ^ 48
      let sealed := x.status ≠ 0 ∨ cdiv x.limit 1984 ≤ x.next
      (x.en = false ∨ x.dir = false ∨ (sealed ∧ open' = true) → Machine.exec (.sealJobComplete ch) s = .next s)
      ∧ (¬ sealed → alive s = false ∨ sealWaits s x x.next = true → Machine.exec (.sealJobComplete ch) s = .next s)
      ∧ (x.en = true → x.dir = true → sealed → open' = false → ∃ t, Machine.exec (.sealJobComplete ch) s = .next t ∧ (chan t ch).en = false
        ∧ (x.cvuEn = true → (cvu t (x.unit ch)).busy = false ∧ (cvu t (x.unit ch)).tally = ((cvu s (x.unit ch)).tally + 1) % 65536)
        ∧ (Safety.calm s → accessStatus s (x.iss ch) .store a 8 = 0 → a % 8 = 0 → localMemory s a = true → readNat t a 8 = (x.status * 2 ^ 48 + x.records % 2 ^ 48) % 2 ^ 64 ∧ Safety.sameBytesBut s t a 8)))

/-- Images, revocation and retirement (R497 to R500, R508, R518, R519, R521). Each of these commands does one thing to flash or the fuses where its condition holds, and otherwise changes neither:
a staged bundle enters the inactive slot, verified where every image is accepted; the active slot moves only to a verified one; rollback counters only rise, and only past a golden image that keeps
them; a signing key that signed an image in flash stays. Retiring a cluster that runs no kernel takes it out of its partition at once; an update engine is marked to go at the next, or no longer marked. -/
def Obligations.ImagesAndRetirement : Prop :=
  let said := fun (t : State) (w : ObjWrite) (c : Nat) => w.reg = false → Safety.lastStatus t w.sid = some c
  let refused := fun (c : Instr) (s : State) (w : ObjWrite) (code : Nat) => ∃ t, Machine.exec c s = .next t ∧ said t w code ∧ t.kept = s.kept ∧ t.clusters = s.clusters ∧ t.ues = s.ues
  (∀ (s : State) (w : ObjWrite) (b : Bundle), Safety.accepted s w 0x701001 = true →
      ∃ t, Machine.exec (.imageStage w b) s = .next t ∧ said t w 0
        ∧ t.kept = (setSlot s (1 - s.kept.activeSlot) { bundle := b, verified := b.images.all (imageOk s), booted := false }).kept ∧ t.fw = s.fw)
  ∧ (∀ (s : State) (w : ObjWrite), Safety.accepted s w 0x701003 = true →
      let v := leNat w.val
      let x := flashSlot s v
      let old := s.fw.any fun f => f.2.mode == .running && decide (f.2.version < x.bundle.minRunning)
      (v = s.kept.activeSlot ∨ (x.verified = true ∧ old = false) → ∃ t, Machine.exec (.activeSlot w) s = .next t ∧ said t w 0 ∧ t.kept = { s.kept with activeSlot := v })
      ∧ (v ≠ s.kept.activeSlot → x.verified = false ∨ old = true → refused (.activeSlot w) s w 0x42))
  ∧ (∀ (s : State) (w : ObjWrite), Safety.accepted s w 0x701004 = true →
      let x := flashSlot s s.kept.activeSlot
      (leNat w.val = 1 → x.booted = true → ∃ t, Machine.exec (.goldenReplace w) s = .next t ∧ said t w 0 ∧ t.kept = { s.kept with golden := x })
      ∧ (leNat w.val ≠ 1 ∨ x.booted = false → refused (.goldenReplace w) s w 0x42))
  ∧ (∀ (s : State) (w : ObjWrite), Safety.accepted s w 0x701005 = true →
      let x := flashSlot s s.kept.activeSlot
      let c := raisedCounters s
      let old := s.kept.golden.bundle.images.any fun i => decide (i.svn < mget c i.kind 0)
      (leNat w.val = 1 → x.booted = true → old = false → ∃ t, Machine.exec (.rollbackCommit w) s = .next t ∧ said t w 0 ∧ t.kept = { s.kept with rollback := c }
        ∧ ∀ k, k < 5 → mget s.kept.rollback k 0 ≤ mget t.kept.rollback k 0 ∧ ∀ i, slotImage x k = some i → i.svn ≤ mget t.kept.rollback k 0)
      ∧ (leNat w.val ≠ 1 ∨ x.booted = false ∨ old = true → refused (.rollbackCommit w) s w 0x42))
  ∧ (∀ (s : State) (w : ObjWrite), Safety.accepted s w 0x701006 = true →
      let k := leNat w.val
      let signs := ∃ x ∈ [s.kept.slotA, s.kept.slotB, s.kept.golden], ∃ i ∈ x.bundle.images, Config.fuseKeyDigest k = Config.sha384 i.key
      (k < 4 → ¬ signs → ∃ t, Machine.exec (.signkeyRevoke w) s = .next t ∧ said t w 0 ∧ k ∈ t.kept.revoked ∧ (∀ j ∈ s.kept.revoked, j ∈ t.kept.revoked)
        ∧ t.kept = { s.kept with revoked := t.kept.revoked } ∧ ∀ i : Image, fuseOf i.key = some k → imageOk t i = false)
      ∧ (4 ≤ k ∨ signs → refused (.signkeyRevoke w) s w 0x42))
  ∧ (∀ (s : State) (w : ObjWrite), Safety.accepted s w 0x701007 = true → ∃ t, Machine.exec (.ccPayload w) s = .next t ∧ said t w 0 ∧ t.kept = { s.kept with payload := w.val })
  ∧ (∀ (s : State) (w : ObjWrite), Safety.accepted s w 0xA00004 = true →
      let us := retiredList w.val
      let form := w.val.length % 2 = 0 ∧ w.val.length ≤ 512
      let wrong := (∃ c ∈ us, retiredCode c = false) ∨ ∃ c ∈ us, 0x200 ≤ c ∧ c ∉ s.kept.retired ∧ ueKept s (c - 0x200) = true
      (¬ form → refused (.retiredUnits w) s w 0x41) ∧ (form → wrong → refused (.retiredUnits w) s w 0x42)
      ∧ (form → ¬ wrong → ∃ t, Machine.exec (.retiredUnits w) s = .next t ∧ said t w 0 ∧ t.kept = { s.kept with retired := us }
        ∧ (∀ c, c < 128 → (clu s c).free = true → us.contains c = true ∨ us.contains (0x100 + c / 16) = true →
            (∀ p, p < 16 → bit (cfg t (partKey p 3)) c = false) ∧ (clu t c).mode = .retired)
        ∧ (∀ c, c < 128 → (clu s c).free = false → clu t c = clu s c)
        ∧ (∀ n, n < 8 → (ue t n).retiring = us.contains (0x200 + n))))

/-- Errors and the Pit Log (R534, R536, R537, R540 to R545, R547, R559). Containing a partition stops every kernel, queue, copy descriptor and sealing channel of it, erases its keys and takes it out
of use; other partitions' keys stay. A FATAL error stops the module until its record is programmed, then a warm reset follows that keeps the log. The recorder writes one record per event, or folds
it into the newest one; the clear of flash, the hour roll and the operating seconds do what their rules say and nothing else. -/
def Obligations.ErrorsAndPitLog : Prop :=
  (∀ (s : State) (p now : Nat), p < 16 →
      ∃ t, Machine.exec (.partitionContain p now) s = .next t
        ∧ (∀ k x, mfind t.kernels k = some x → x.part = p → x.contained = true ∨ x.mode = .ended)
        ∧ (∀ q y, mfind t.queues q = some y → y.part = p → y.en = false)
        ∧ (∀ e, e < 32 → (∀ j ∈ (cpe t e).queue, j.part ≠ p) ∧ ∀ j, (cpe t e).busy = some j → j.part ≠ p)
        ∧ (∀ c y, mfind t.channels c = some y → y.part = p → y.en = false)
        ∧ (∀ k y, mfind t.trust.keys k = some y → y.part ≠ p)
        ∧ (Safety.rising s.trust.keys → ∀ k y, mfind s.trust.keys k = some y → y.part ≠ p → mfind t.trust.keys k = some y)
        ∧ partOn t p = false ∧ leNat (shadowB t (partKey p 1)) = 0 ∧ t.irqs.getLast? = some 0x1B5
        ∧ (bit (trigByte s 0x0904) 7 = true → (t.pit.queue.getLast?.map fun e => (e.trig, e.unit)) = some (0x0904, p) ∨ t.pit.dropFlag = true))
  ∧ (∀ (s : State) (cause now : Nat),
      (s.boot.phase = .booting ∨ s.boot.phase = .booted → ∃ t, Machine.exec (.fatalError cause now) s = .next t ∧ t.boot.phase = .fatal ∧ alive t = false ∧ t.pins.faultN = false
        ∧ t.pins.lasersOn = false ∧ t.pit.programming = true ∧ t.mem = s.mem
        ∧ (bit (trigByte s 0x0905) 7 = true → s.pit.queue.length < 256 → ∃ e, t.pit.queue = s.pit.queue ++ [e] ∧ e.trig = 0x0905 ∧ e.det1 = cause % 2 ^ 32))
      ∧ (s.boot.phase ≠ .booting → s.boot.phase ≠ .booted → Machine.exec (.fatalError cause now) s = .next (clock s now)))
  ∧ (∀ s : State,
      (s.boot.phase = .fatal → ∃ t, Machine.exec .fatalRecordProgrammed s = .next t ∧ t.boot.lastReset = 3 ∧ t.boot.sequence = s.boot.sequence + 1 ∧ t.boot.boot = 1 ∧ t.sessions = [] ∧ t.mem = []
        ∧ t.pit.records = (serveAll s).pit.records ∧ t.pit.queue = [] ∧ t.kept.eventPages = (pageOf (serveAll s) 0x0905).kept.eventPages
        ∧ t.kept.pitCopy = ((serveAll s).pit.records.drop ((serveAll s).pit.records.length - 3840)).map PitRec.bytes
        ∧ t.kept.revoked = s.kept.revoked ∧ t.kept.rollback = s.kept.rollback ∧ t.kept.powerCycles = s.kept.powerCycles)
      ∧ (s.boot.phase ≠ .fatal → Machine.exec .fatalRecordProgrammed s = .next s))
  ∧ (∀ (s : State) (now : Nat), s.boot.phase ≠ .unpowered → s.boot.phase ≠ .tripped →
      (s.pit.queue = [] → Machine.exec (.pitRecordWrite now) s = .next (clock s now))
      ∧ (∀ e q, s.pit.queue = e :: q →
        (∀ r, s.pit.records.getLast? = some r → folds s r e = true → ∃ t, Machine.exec (.pitRecordWrite now) s = .next t ∧ t.pit.queue = q ∧ t.pit.written = s.pit.written ∧ t.irqs = s.irqs
          ∧ t.pit.records = s.pit.records.dropLast ++ [{ r with repeats := r.repeats + 1, lastPace := e.pace, upd := r.upd + 1 }])
        ∧ ((∀ r, s.pit.records.getLast? = some r → folds s r e = false) → ∃ t r, Machine.exec (.pitRecordWrite now) s = .next t ∧ t.pit.queue = q ∧ t.pit.written = s.pit.written + 1
          ∧ t.pit.records = (s.pit.records ++ [r]).drop (s.pit.records.length + 1 - 4096) ∧ r.seq = s.pit.written + 1 ∧ r.ev = e ∧ r.cls = trigClass e.trig ∧ r.dropped = s.pit.dropFlag ∧ r.repeats = 0
          ∧ r.words.length = (captureList s (trigByte s e.trig % 32)).length ∧ t.pit.dropFlag = false
          ∧ t.irqs = s.irqs ++ if cfg s 0x800007 ≤ trigClass e.trig then [0x1B7] else [])))
  ∧ (∀ (s : State) (base e : Nat),
      let off := fld e 47 3 * 8
      let a := if bit e 1 then (base + off) % 2 ^ 48 else off
      (home s a ≠ .regs ∨ levelStatus s a ≠ 0 → capture s base e = (0xFFFFFFFF#32, s))
      ∧ (∀ v, home s a = .regs → levelStatus s a = 0 → regValue s a = some v → capture s base e = (BitVec.ofNat 32 (if bit e 0 then v % 2 ^ 64 / 2 ^ 32 else v), s)))
  ∧ (∀ (s : State) (w : ObjWrite), Safety.accepted s w 0x80000A = true →
      let v := leNat w.val
      let said := fun (t : State) (c : Nat) => w.reg = false → Safety.lastStatus t w.sid = some c
      (s.pit.programming = true ∨ v < 1 ∨ 3 < v → ∃ t, Machine.exec (.pitFlashClear w) s = .next t ∧ said t (if s.pit.programming then 0x45 else 0x42) ∧ t.kept = s.kept)
      ∧ (s.pit.programming = false → 1 ≤ v → v ≤ 3 → ∃ t, Machine.exec (.pitFlashClear w) s = .next t ∧ said t 0
        ∧ t.kept.pitCopy = (if v = 2 then s.kept.pitCopy else []) ∧ t.kept.eventPages = (if v = 1 then s.kept.eventPages else [])
        ∧ t.kept = { s.kept with pitCopy := t.kept.pitCopy, eventPages := t.kept.eventPages }))
  ∧ (∀ (s : State) (secs : Nat), s.boot.phase ≠ .unpowered → s.boot.phase ≠ .tripped →
      (fwRuns s 0 = true → Machine.exec (.opSecondsSave secs) s = .next { s with opSeconds := secs, kept := { s.kept with opStored := secs } })
      ∧ (s.opSeconds / 3600 < secs / 3600 → Machine.exec (.errHourRoll secs) s = .next { s with opSeconds := secs, pit := { s.pit with hourly := [], raised := [] } })
      ∧ (secs / 3600 ≤ s.opSeconds / 3600 → Machine.exec (.errHourRoll secs) s = .next { s with opSeconds := secs })
      ∧ ∀ inlet outlet inputW, ∃ t, Machine.exec (.bsbStatusRefresh inlet outlet inputW) s = .next t ∧ t = { s with bsb := t.bsb } ∧ t.bsb.inlet = min 255 inlet ∧ t.bsb.outlet = min 255 outlet
        ∧ t.bsb.inputW = min 0xFFFF inputW ∧ t.bsb.lastReset = s.boot.lastReset
        ∧ t.bsb.state = (if s.boot.phase = .booted then 1 else if s.boot.phase = .halted then 2 else if s.boot.phase = .fatal then 3 else 0))
  ∧ (∀ (s : State) (secs inlet outlet inputW now : Nat), s.boot.phase = .unpowered ∨ s.boot.phase = .tripped →
      Machine.exec (.opSecondsSave secs) s = .next s ∧ Machine.exec (.errHourRoll secs) s = .next s ∧ Machine.exec (.bsbStatusRefresh inlet outlet inputW) s = .next s
        ∧ Machine.exec (.pitRecordWrite now) s = .next (clock s now))

/-- A step takes the command at the front of the queue and runs it on the state that holds the queue's rest. With nothing waiting the first command held for a firmware processor that runs again is served
(R15), and what is held behind it for that processor stays in its order; with none, one `PACE` cycle passes, a choice of this model (assumption 9): Pace time advances by 1 ns where its counter runs, each die's
cycle count with its `ARITH` frequency (R131, R432), each port whose link is up sends at most one flit, and nothing else changes. -/
def Obligations.StepTakesTheFrontCommand : Prop :=
  (∀ (s : State) (c : Instr) (rest : List Instr), s.pending = c :: rest → Machine.step s = Machine.exec c { s with pending := rest })
  ∧ (∀ (s : State) (a b : List (Nat × HeldCmd)) (p : Nat) (c : HeldCmd), s.pending = [] → s.boot.phase ≠ .fatal → s.held = a ++ (p, c) :: b → (∀ h ∈ a, fwRuns s h.1 = false) → fwRuns s p = true →
      ∃ t, heldRun c { s with held := (a ++ b).filter fun h => h.1 != p } = .next t
        ∧ Machine.step s = .next { t with held := if t.boot.phase = s.boot.phase then (a ++ b).filter (fun h => h.1 == p) ++ t.held else t.held })
  ∧ (∀ s : State, s.pending = [] → (∀ h ∈ s.held, fwRuns s h.1 = false ∨ s.boot.phase = .fatal) → ∃ t, Machine.step s = .next t
      ∧ t = { s with pace := t.pace, cycles := t.cycles, cyclePart := t.cyclePart, ports := t.ports, outbox := t.outbox, seqs := t.seqs, seqTimes := t.seqTimes }
      ∧ (s.pace.on = false → t.pace = s.pace ∧ t.cycles = s.cycles ∧ t.cyclePart = s.cyclePart)
      ∧ (s.pace.on = true → t.pace = { s.pace with now := s.pace.now + 1 }
        ∧ ∀ d, d < 8 → 1000 * mget t.cycles d 0 + mget t.cyclePart d 0 = 1000 * mget s.cycles d 0 + mget s.cyclePart d 0 + arithMHz (dvfs s d).point)
      ∧ (s.outbox = [] → t.outbox = [] ∧ t.seqs = s.seqs ∧ t.seqTimes = s.seqTimes
        ∧ ∀ p, (linkUp s p = false → prt t p = prt s p) ∧ (Safety.rising s.ports → prt t p = prt s p
          ∨ ∃ vc, (prt t p).sentFlits = mset (prt s p).sentFlits vc (mget (prt s p).sentFlits vc 0 + 1) ∧ (prt t p).inQ = (prt s p).inQ ∧ (prt t p).mode = (prt s p).mode)))

/-- No command stops the block: in every state every command answers a next state, whatever its operands. What a check refuses is answered, counted or recorded, as its rule says. -/
def Obligations.EveryCommandCompletes : Prop := ∀ (c : Instr) (s : State), ∃ t, Machine.exec c s = .next t

/-- The module before its input is in range (assumption 10): no rail, no clock and no pin of Table 18.4 that a running module drives; no session, request, kernel or key; measurement registers zero
(R493), every object that has a default at it (R5, R469), the log empty, no fuse blown. Every register the manual gives no reset value reads 0 (assumption 10); memory lists nothing, and a byte nothing
has written reads 0 (assumption 14). -/
def Obligations.ResetState : Prop :=
  let r := Machine.State.reset
  r.pending = [] ∧ r.held = [] ∧ r.outbox = [] ∧ r.boot.phase = .unpowered ∧ alive r = false ∧ r.pace.on = false ∧ r.pace.now = 0 ∧ r.pins.railsUp = false ∧ r.pins.lasersOn = false
  ∧ r.sessions = [] ∧ r.requests = [] ∧ r.kernels = [] ∧ r.shadow = [] ∧ r.quickset.holder = none ∧ r.trust.keys = [] ∧ r.poison = [] ∧ r.pit.records = [] ∧ r.pit.queue = []
  ∧ r.kept.revoked = [] ∧ (∀ a n, readNat r a n = 0) ∧ (∀ i, mr r i = List.replicate 48 0#8) ∧ (∀ key, cfgB r key = objDefault r key)
  ∧ (∀ p, (fwp r p).mode = .off) ∧ (∀ q, (cq r q).en = false) ∧ (∀ c, (clu r c).kernels = [] ∧ (clu r c).crews = []) ∧ (∀ b, (bkt r b).mode = .idle) ∧ (∀ c, (chan r c).en = false)
  ∧ (∀ p, (prt r p).mode = .dark) ∧ (∀ n, (ue r n).mode = .idle) ∧ ∀ e, (sched r e).arm = false

/-- At reset memory has its canonical form. -/
def Obligations.MemoryIsCanonicalAtReset : Prop := Memory.wf Machine.State.reset.mem = true

/-- Every step keeps memory in its canonical form, addresses strictly rising and no byte listed that reads as an unlisted one: two states whose memory reads alike hold equal lists. -/
def Obligations.EveryStepKeepsMemoryCanonical : Prop :=
  (∀ s t : State, Memory.wf s.mem = true → Machine.step s = .next t → Memory.wf t.mem = true)
  ∧ ∀ s t : State, Memory.wf s.mem = true → Memory.wf t.mem = true → (∀ a, cellGet s.mem a = cellGet t.mem a) → s.mem = t.mem

/-- Fuses and their counters only move forward (R498, R499, R509): no step of any command, no reset among them, unblows a revocation fuse, lowers a rollback counter, lowers the count of power cycles
or of boots, or changes the debug fuse. -/
def Obligations.FusesOnlyMoveForward : Prop :=
  ∀ s t : State, Machine.step s = .next t →
    (∀ k ∈ s.kept.revoked, k ∈ t.kept.revoked) ∧ (∀ k, k < 5 → mget s.kept.rollback k 0 ≤ mget t.kept.rollback k 0) ∧ s.kept.powerCycles ≤ t.kept.powerCycles
      ∧ s.kept.bootCount ≤ t.kept.bootCount ∧ t.kept.debugFuse = s.kept.debugFuse

/-- Poison follows data (R82), for a plain store of any size to any tier of module-local memory, in the guarded units it reaches: tagged data poisons each of them; untagged data clears those it
covers whole and leaves the others as they were; no other unit changes. `f` is a unit's first address, `n` its length: 64, or 8 in shared local memory (R111). -/
def Obligations.PoisonFollowsData : Prop :=
  ∀ (s : State) (x : Xact) (f n : Nat), alive s = true → flight s x.iss x.addr = .free → x.kind = .store ∨ x.kind = .flagStore → accessStatus s x.iss x.kind x.addr x.size = 0 → localMemory s x.addr = true →
    waits s x.addr = false → 0 < x.size → (∀ p ∈ linePieces x.addr x.size, failedHome s p.1 = false) → Safety.settled s →
    n = (unitOf x.addr).2.1 → f % n = 0 → (unitOf f).2.1 = n → (∀ b, x.addr ≤ b → b < x.addr + x.size → (unitOf b).2.1 = n) →
    ∃ t, Machine.exec (.memoryAccess x []) s = .next t
      ∧ (x.poison = false → x.addr ≤ f → f + n ≤ x.addr + x.size → poisoned t f n = false)
      ∧ (x.poison = false → f < x.addr ∨ x.addr + x.size < f + n → poisoned t f n = poisoned s f n)
      ∧ (x.poison = true → f < x.addr + x.size → x.addr < f + n → poisoned t f n = true)
      ∧ (x.poison = true → x.addr + x.size ≤ f ∨ f + n ≤ x.addr → poisoned t f n = poisoned s f n)

/-- Poison and accumulate-writes (R66): an applied accumulate-write adds its elements whether its data or its target is poisoned or not; poisoned data leaves every unit that an element of it reaches
poisoned, and a poisoned unit stays poisoned. -/
def Obligations.AccumulateWritesAndPoison : Prop :=
  ∀ (s : State) (tw i e : Nat) (w : AccWrite), (tow s tw).adder[i]? = some w → e < 32 → w.mask.getLsbD e = true → Memory.wf s.mem = true → inSlm (w.addr + 4 * e) = false → w.addr % 128 = 0 →
    let a := w.addr + 4 * e
    ∃ t, Machine.exec (.accwApply tw i) s = .next t
      ∧ readNat t a 4 = (accwAdd w.int (readNat s a 4) (w.data.getD e 0#32).toNat).1 % 2 ^ 32
      ∧ (w.poison = true → poisoned t (a / 64 * 64) 64 = true) ∧ (poisoned s (a / 64 * 64) 64 = true → poisoned t (a / 64 * 64) 64 = true)
      ∧ (w.poison = false → ∀ b n, poisoned t b n = poisoned s b n)

/-- Divergences nest to a depth of 32 (R104): a `BRA` at which the active lanes disagree opens one more level where its path lies in fewer than 32, and no path then lies in more than 32; where its
path lies in 32, it raises `DIV_DEPTH`, code 0x04, for the active lanes. -/
def Obligations.DivergenceDepth : Prop :=
  let paths := fun (x : Crew) => x.run.toList ++ x.pending ++ x.atReconv ++ x.atBarrier
  ∀ (s : State) (c k w : Nat) (p : Path), fld w 63 58 = 0x20 → fld w 57 50 = 0x01 → (crw s c k).run = some p →
    let i := Safety.insAt s c k w 0
    Safety.performs s c k w 0 (braCodes i) = true → i.lanes ≠ 0#32 → i.lanes ≠ p.mask →
    (p.divs.length < 32 → (∀ q ∈ paths (crw s c k), q.divs.length ≤ 32) → ∃ t, Machine.exec (.bra c k) s = .next t ∧ Safety.onlyCrew s t c k
      ∧ (crw t c k).nextDiv = (crw s c k).nextDiv + 1 ∧ ∀ q ∈ paths (crw t c k), q.divs.length ≤ 32)
    ∧ (p.divs.length = 32 → ∃ t, Machine.exec (.bra c k) s = .next t
      ∧ Safety.raised s t c k p.pc (BitVec.ofNat 64 w) { code := 0x04, lanes := p.mask })

/-- No control or branch instruction loses or doubles a lane (R102, R103, R162): where each lane of a crew that has not ended is on exactly one path and an ended one on none, the same holds after the
instruction, whether it is performed, waits or raises, as long as the crew is there; and it holds of a crew just admitted. -/
def Obligations.LanesStayPlaced : Prop :=
  (∀ (s t : State) (c k : Nat) (i : Instr), i ∈ [.nopI c k, .trap c k, .cmode c k, .mstatClr c k, .illegalInstr c k, .exitI c k, .bra c k, .brx c k, .callI c k, .retI c k] →
      Safety.lanesPlaced (crw s c k) → Machine.exec i s = .next t → (mfind (clu t c).crews k).isSome = true → Safety.lanesPlaced (crw t c k))
  ∧ (∀ (s t : State) (k c i slot : Nat), Machine.exec (.crewAdmit k c i) s = .next t → mfind (clu s c).crews slot = none → (mfind (clu t c).crews slot).isSome = true → Safety.lanesPlaced (crw t c slot))

/-- Codes and values agree (R235, R237, R241, Table 8.1): in every floating-point format the code of a finite value is what converting that value back gives, nothing counted but a zero; an infinity
converts back to itself; every other code above the largest finite one reads as NaN and converts to the canonical one. Two's-complement integers of 4, 8, 16 and 32 bits read back as well. -/
def Obligations.CodesRoundTrip : Prop :=
  (∀ f ∈ [f64, f32, f16, bf16, e4m3, e5m2, e3m2, e2m3, e2m1], ∀ code, code < 2 ^ f.width →
      let mag := code % 2 ^ (f.width - 1)
      (mag ≤ f.maxFin → f.convert (f.decode code) = { code, zero := mag == 0 })
      ∧ (f.infCode = some mag → f.convert (f.decode code) = { code, nonfin := true })
      ∧ (f.maxFin < mag → f.infCode ≠ some mag → f.decode code = .nan ∧ ∃ c, f.nanCode = some c ∧ f.convert (f.decode code) = { code := c, nonfin := true }))
  ∧ (∀ n ∈ [4, 8, 16, 32], ∀ v, v < 2 ^ n → (convertInt n (Sys2Proof.Machine.Num.ofInt (sext n v))).code = v ∧ (convertInt n (Sys2Proof.Machine.Num.ofInt (sext n v))).sat = false)

/-- Conversion rounds to the nearest value (R241): of all finite codes of a format, none lies nearer to an exact value than the code it converts to, and where the value lies exactly between two
neighbours the result is the even one. `units` is what a finite value is in units of 2^k, a whole number for every k no greater than its exponent. -/
def Obligations.ConversionIsNearest : Prop :=
  let units := fun (k : Int) (v : Sys2Proof.Machine.Num) => match v with
    | .fin neg m e => (if neg then -1 else 1) * (m * 2 ^ (e - k).toNat : Int)
    | _ => 0
  ∀ f ∈ [f64, f32, f16, bf16, e4m3, e5m2, e3m2, e2m3, e2m1], ∀ (neg : Bool) (m : Nat) (e : Int),
    let v := Sys2Proof.Machine.Num.fin neg m e
    let r := f.convert v
    let k := min e (1 - (f.bias : Int) - f.mb)
    let away := fun (code : Nat) => (units k (f.decode code) - units k v).natAbs
    f.roundMag m e ≤ f.maxFin → ∀ code, code < 2 ^ f.width → code % 2 ^ (f.width - 1) ≤ f.maxFin →
      away r.code ≤ away code ∧ (away r.code = away code → units k (f.decode code) ≠ units k (f.decode r.code) → r.code % 2 = 0)
end

