-- ==== Sys2Proof/Laws/Tables.lean ====
section
/-! SUPPORT. Laws of tables and of the one memory: what a read gives after an update, and that every memory
operation keeps the canonical form. -/
namespace Sys2Proof.Machine
open Sys2Proof

/-! ### Tables -/

theorem mfind_mset {α : Type} (m : Map α) (k : Nat) (v : α) (j : Nat) :
    mfind (mset m k v) j = if k = j then some v else mfind m j := by
  induction m with
  | nil => simp [mset, mfind]
  | cons p m ih =>
    obtain ⟨i, w⟩ := p
    unfold mset
    split
    · subst_vars; simp only [mfind]; split <;> simp_all
    · split
      · simp only [mfind]
      · simp only [mfind, ih]; split <;> split <;> simp_all

@[simp] theorem mfind_mset_self {α : Type} (m : Map α) (k : Nat) (v : α) : mfind (mset m k v) k = some v := by
  simp [mfind_mset]

theorem mget_mset {α : Type} (m : Map α) (k : Nat) (v : α) (j : Nat) (d : α) :
    mget (mset m k v) j d = if k = j then v else mget m j d := by
  unfold mget; rw [mfind_mset]; split <;> rfl

@[simp] theorem mget_mset_self {α : Type} (m : Map α) (k : Nat) (v d : α) : mget (mset m k v) k d = v := by
  simp [mget_mset]

theorem mget_mset_ne {α : Type} (m : Map α) {k j : Nat} (v d : α) (h : k ≠ j) : mget (mset m k v) j d = mget m j d := by
  simp [mget_mset, h]

/-! ### Memory: reads after writes -/

theorem cellGet_below {lo : Nat} {m : List Host.Cell} (h : cellsWfFrom lo m = true) {x : Nat} (hx : x < lo) :
    cellGet m x = 0#8 := by
  induction m generalizing lo with
  | nil => rfl
  | cons p m ih =>
    obtain ⟨b, w⟩ := p
    simp only [cellsWfFrom, Bool.and_eq_true, decide_eq_true_eq] at h
    simp only [cellGet, show b ≠ x by omega, if_false]
    exact ih h.2 (by omega)

theorem cellGet_cellPut {lo : Nat} (m : List Host.Cell) (h : cellsWfFrom lo m = true) (a : Nat) (v : Byte) (x : Nat) :
    cellGet (cellPut m a v) x = if a = x then v else cellGet m x := by
  induction m generalizing lo with
  | nil => unfold cellPut; split <;> simp_all [cellGet]
  | cons p m ih =>
    obtain ⟨b, w⟩ := p
    simp only [cellsWfFrom, Bool.and_eq_true, decide_eq_true_eq] at h
    have hb : ∀ y, y < b + 1 → cellGet m y = 0#8 := fun y hy => cellGet_below h.2 hy
    unfold cellPut
    split
    · simp only [cellGet, ih h.2]
      split <;> split <;> first | rfl | (exfalso; omega)
    · split
      · subst_vars
        split
        · split
          · subst_vars; exact hb _ (by omega)
          · simp only [cellGet]; split <;> first | rfl | contradiction
        · simp only [cellGet]; split <;> rfl
      · split
        · split
          · subst_vars; simp only [cellGet]; rw [if_neg (by omega)]; exact hb _ (by omega)
          · rfl
        · simp only [cellGet]

theorem cellPut_wfFrom {lo : Nat} (m : List Host.Cell) (h : cellsWfFrom lo m = true) {a : Nat} (ha : lo ≤ a) (v : Byte) :
    cellsWfFrom lo (cellPut m a v) = true := by
  induction m generalizing lo with
  | nil => unfold cellPut; split <;> simp_all [cellsWfFrom]
  | cons p m ih =>
    obtain ⟨b, w⟩ := p
    simp only [cellsWfFrom, Bool.and_eq_true, decide_eq_true_eq] at h
    have up : cellsWfFrom lo m = true := by
      have : ∀ (l : List Host.Cell) (i j : Nat), i ≤ j → cellsWfFrom j l = true → cellsWfFrom i l = true := by
        intro l i j hij hl
        cases l with
        | nil => rfl
        | cons q l => simp only [cellsWfFrom, Bool.and_eq_true, decide_eq_true_eq] at *; exact ⟨⟨by omega, hl.1.2⟩, hl.2⟩
      exact this _ _ _ (by omega) h.2
    unfold cellPut
    split
    · simp only [cellsWfFrom, Bool.and_eq_true, decide_eq_true_eq]
      exact ⟨h.1, ih h.2 (by omega)⟩
    · split
      · subst_vars
        split
        · exact up
        · simp only [cellsWfFrom, Bool.and_eq_true, decide_eq_true_eq]; exact ⟨⟨by omega, by assumption⟩, h.2⟩
      · split
        · simp only [cellsWfFrom, Bool.and_eq_true, decide_eq_true_eq]; exact h
        · simp only [cellsWfFrom, Bool.and_eq_true, decide_eq_true_eq]
          exact ⟨⟨ha, by assumption⟩, ⟨by omega, h.1.2⟩, h.2⟩

/-- A byte write keeps memory canonical. -/
theorem cellPut_wf {m : List Host.Cell} (h : Memory.wf m = true) (a : Nat) (v : Byte) : Memory.wf (cellPut m a v) = true :=
  cellPut_wfFrom m h (Nat.zero_le a) v

/-- Writing bytes keeps memory canonical. -/
theorem cellsPut_wf {m : List Host.Cell} (h : Memory.wf m = true) (a : Nat) (bs : List Byte) :
    Memory.wf (cellsPut m a bs) = true := by
  induction bs generalizing m a with
  | nil => exact h
  | cons v vs ih => exact ih (cellPut_wf h a v) (a + 1)

/-- A byte after a write of `bs` at `a`: the byte written where there is one, else the byte before. -/
theorem cellGet_cellsPut {m : List Host.Cell} (h : Memory.wf m = true) (a : Nat) (bs : List Byte) (x : Nat) :
    cellGet (cellsPut m a bs) x = if a ≤ x ∧ x < a + bs.length then bs.getD (x - a) 0#8 else cellGet m x := by
  induction bs generalizing m a with
  | nil => simp only [cellsPut, List.length_nil]; rw [if_neg (by omega)]
  | cons v vs ih =>
    simp only [cellsPut, List.length_cons]
    rw [ih (cellPut_wf h a v), cellGet_cellPut m h]
    by_cases h1 : a + 1 ≤ x ∧ x < a + 1 + vs.length
    · rw [if_pos h1, if_pos (by omega), show x - a = (x - (a + 1)) + 1 by omega, List.getD_cons_succ]
    · rw [if_neg h1]
      by_cases h2 : a = x
      · subst h2; rw [if_pos rfl, if_pos (by omega)]; simp
      · rw [if_neg h2, if_neg (by omega)]

theorem cellsZero_wfFrom {lo : Nat} (m : List Host.Cell) (h : cellsWfFrom lo m = true) (x y : Nat) :
    cellsWfFrom lo (cellsZero m x y) = true := by
  have up : ∀ (l : List Host.Cell) (i j : Nat), i ≤ j → cellsWfFrom j l = true → cellsWfFrom i l = true := by
    intro l i j hij hl
    cases l with
    | nil => rfl
    | cons q l => simp only [cellsWfFrom, Bool.and_eq_true, decide_eq_true_eq] at *; exact ⟨⟨by omega, hl.1.2⟩, hl.2⟩
  induction m generalizing lo with
  | nil => rfl
  | cons p m ih =>
    obtain ⟨b, w⟩ := p
    simp only [cellsWfFrom, Bool.and_eq_true, decide_eq_true_eq] at h
    have := ih h.2
    unfold cellsZero at this ⊢
    rw [List.filter_cons]
    split
    · simp only [cellsWfFrom, Bool.and_eq_true, decide_eq_true_eq]; exact ⟨h.1, this⟩
    · exact up _ _ _ (by omega) this

/-- Zeroing a range keeps memory canonical. -/
theorem cellsZero_wf {m : List Host.Cell} (h : Memory.wf m = true) (x y : Nat) : Memory.wf (cellsZero m x y) = true :=
  cellsZero_wfFrom m h x y

/-- A byte after a range was zeroed. -/
theorem cellGet_cellsZero (m : List Host.Cell) (lo hi x : Nat) :
    cellGet (cellsZero m lo hi) x = if lo ≤ x ∧ x < hi then 0#8 else cellGet m x := by
  unfold cellsZero
  induction m with
  | nil => simp [cellGet]
  | cons p m ih =>
    obtain ⟨b, w⟩ := p
    rw [List.filter_cons]
    by_cases hb : b < lo ∨ hi ≤ b
    · rw [if_pos (by simpa using hb)]
      simp only [cellGet, ih]
      by_cases e : b = x
      · subst e; rw [if_pos rfl, if_pos rfl, if_neg (by omega)]
      · rw [if_neg e, if_neg e]
    · rw [if_neg (by simpa using hb), ih]
      by_cases e : b = x
      · subst e; rw [if_pos (by omega), if_pos (by omega)]
      · simp [cellGet, e]

/-! ### Memory operations on the state -/

/-- All a write of bytes does. -/
theorem writeMem_eq (s : State) (a : Nat) (bs : List Byte) (tag : Bool) :
    writeMem s a bs tag = { s with mem := cellsPut s.mem a bs, poison := poisonAfter s.poison a bs.length tag } := rfl

theorem writeMem_wf {s : State} (h : Memory.wf s.mem = true) (a : Nat) (bs : List Byte) (tag : Bool) :
    Memory.wf (writeMem s a bs tag).mem = true := cellsPut_wf h a bs

theorem writeNat_wf {s : State} (h : Memory.wf s.mem = true) (a n v : Nat) (tag : Bool) :
    Memory.wf (writeNat s a n v tag).mem = true := cellsPut_wf h a _

theorem zeroMem_wf {s : State} (h : Memory.wf s.mem = true) (lo hi : Nat) : Memory.wf (zeroMem s lo hi).mem = true :=
  cellsZero_wf h lo hi

/-- Every byte outside the written ones reads as before. -/
theorem readMem_writeMem_outside {s : State} (h : Memory.wf s.mem = true) (a : Nat) (bs : List Byte) (tag : Bool) (x : Nat)
    (hx : x < a ∨ a + bs.length ≤ x) : readMem (writeMem s a bs tag) x 1 = readMem s x 1 := by
  simp only [readMem, writeMem, List.range_one, List.map_cons, List.map_nil, Nat.add_zero]
  rw [cellGet_cellsPut h, if_neg (by omega)]

/-- The written bytes read back. -/
theorem readMem_writeMem {s : State} (h : Memory.wf s.mem = true) (a : Nat) (bs : List Byte) (tag : Bool) :
    readMem (writeMem s a bs tag) a bs.length = bs := by
  refine List.ext_getElem (by simp [readMem]) fun i h1 h2 => ?_
  simp only [readMem, writeMem, List.getElem_map, List.getElem_range]
  rw [cellGet_cellsPut h, if_pos (by omega), Nat.add_sub_cancel_left]
  simp [List.getD_eq_getElem?_getD, h2]

theorem leBytes_length (n v : Nat) : (leBytes n v).length = n := by
  induction n generalizing v with
  | zero => rfl
  | succ n ih => simp [leBytes, ih]

theorem leNat_leBytes (n v : Nat) : leNat (leBytes n v) = v % 256 ^ n := by
  induction n generalizing v with
  | zero => simp [leBytes, leNat, Nat.mod_one]
  | succ n ih =>
    simp only [leBytes, leNat, ih, BitVec.toNat_ofNat]
    rw [show 256 ^ (n + 1) = 256 * 256 ^ n from Nat.pow_succ'.trans rfl, Nat.mod_mul]
    congr 1
    omega

/-- A value written little-endian reads back, narrowed to its bytes. -/
theorem readNat_writeNat {s : State} (h : Memory.wf s.mem = true) (a n v : Nat) (tag : Bool) :
    readNat (writeNat s a n v tag) a n = v % 256 ^ n := by
  have := readMem_writeMem h a (leBytes n v) tag
  rw [leBytes_length] at this
  rw [readNat, writeNat, this, leNat_leBytes]

end Sys2Proof.Machine
end

