-- ==== Sys2Proof/Laws/State.lean ====
section
/-! SUPPORT. What each update of one unit leaves in every field of the state: one lemma per field per update, and
the unit read back. -/
namespace Sys2Proof.Machine
open Sys2Proof
section
variable (s : State) (i : Nat) (x : Tower)
@[simp] theorem setTow_pending : (setTow s i x).pending = s.pending := rfl
@[simp] theorem setTow_held : (setTow s i x).held = s.held := rfl
@[simp] theorem setTow_boot : (setTow s i x).boot = s.boot := rfl
@[simp] theorem setTow_pins : (setTow s i x).pins = s.pins := rfl
@[simp] theorem setTow_tap : (setTow s i x).tap = s.tap := rfl
@[simp] theorem setTow_cores : (setTow s i x).cores = s.cores := rfl
@[simp] theorem setTow_kept : (setTow s i x).kept = s.kept := rfl
@[simp] theorem setTow_pace : (setTow s i x).pace = s.pace := rfl
@[simp] theorem setTow_sched : (setTow s i x).sched = s.sched := rfl
@[simp] theorem setTow_checkpointWait : (setTow s i x).checkpointWait = s.checkpointWait := rfl
@[simp] theorem setTow_fenceWait : (setTow s i x).fenceWait = s.fenceWait := rfl
@[simp] theorem setTow_fenceEpochs : (setTow s i x).fenceEpochs = s.fenceEpochs := rfl
@[simp] theorem setTow_power : (setTow s i x).power = s.power := rfl
@[simp] theorem setTow_cycles : (setTow s i x).cycles = s.cycles := rfl
@[simp] theorem setTow_cyclePart : (setTow s i x).cyclePart = s.cyclePart := rfl
@[simp] theorem setTow_towers : (setTow s i x).towers = mset s.towers i x := rfl
@[simp] theorem setTow_mem : (setTow s i x).mem = s.mem := rfl
@[simp] theorem setTow_poison : (setTow s i x).poison = s.poison := rfl
@[simp] theorem setTow_stackUnits : (setTow s i x).stackUnits = s.stackUnits := rfl
@[simp] theorem setTow_stackMap : (setTow s i x).stackMap = s.stackMap := rfl
@[simp] theorem setTow_packages : (setTow s i x).packages = s.packages := rfl
@[simp] theorem setTow_accwSat : (setTow s i x).accwSat = s.accwSat := rfl
@[simp] theorem setTow_corrected : (setTow s i x).corrected = s.corrected := rfl
@[simp] theorem setTow_poisoned : (setTow s i x).poisoned = s.poisoned := rfl
@[simp] theorem setTow_copyEngines : (setTow s i x).copyEngines = s.copyEngines := rfl
@[simp] theorem setTow_completions : (setTow s i x).completions = s.completions := rfl
@[simp] theorem setTow_clusters : (setTow s i x).clusters = s.clusters := rfl
@[simp] theorem setTow_atomSat : (setTow s i x).atomSat = s.atomSat := rfl
@[simp] theorem setTow_buckets : (setTow s i x).buckets = s.buckets := rfl
@[simp] theorem setTow_heldShares : (setTow s i x).heldShares = s.heldShares := rfl
@[simp] theorem setTow_bktRejects : (setTow s i x).bktRejects = s.bktRejects := rfl
@[simp] theorem setTow_bktSat : (setTow s i x).bktSat = s.bktSat := rfl
@[simp] theorem setTow_verdict : (setTow s i x).verdict = s.verdict := rfl
@[simp] theorem setTow_ues : (setTow s i x).ues = s.ues := rfl
@[simp] theorem setTow_latch : (setTow s i x).latch = s.latch := rfl
@[simp] theorem setTow_red : (setTow s i x).red = s.red := rfl
@[simp] theorem setTow_pushWait : (setTow s i x).pushWait = s.pushWait := rfl
@[simp] theorem setTow_pushBad : (setTow s i x).pushBad = s.pushBad := rfl
@[simp] theorem setTow_ports : (setTow s i x).ports = s.ports := rfl
@[simp] theorem setTow_elsfpOut : (setTow s i x).elsfpOut = s.elsfpOut := rfl
@[simp] theorem setTow_laserBad : (setTow s i x).laserBad = s.laserBad := rfl
@[simp] theorem setTow_requests : (setTow s i x).requests = s.requests := rfl
@[simp] theorem setTow_nextReq : (setTow s i x).nextReq = s.nextReq := rfl
@[simp] theorem setTow_seqs : (setTow s i x).seqs = s.seqs := rfl
@[simp] theorem setTow_seqTimes : (setTow s i x).seqTimes = s.seqTimes := rfl
@[simp] theorem setTow_paths : (setTow s i x).paths = s.paths := rfl
@[simp] theorem setTow_pathAt : (setTow s i x).pathAt = s.pathAt := rfl
@[simp] theorem setTow_lastEpoch : (setTow s i x).lastEpoch = s.lastEpoch := rfl
@[simp] theorem setTow_outbox : (setTow s i x).outbox = s.outbox := rfl
@[simp] theorem setTow_lineTimes : (setTow s i x).lineTimes = s.lineTimes := rfl
@[simp] theorem setTow_windows : (setTow s i x).windows = s.windows := rfl
@[simp] theorem setTow_hotLines : (setTow s i x).hotLines = s.hotLines := rfl
@[simp] theorem setTow_headframes : (setTow s i x).headframes = s.headframes := rfl
@[simp] theorem setTow_hfErrors : (setTow s i x).hfErrors = s.hfErrors := rfl
@[simp] theorem setTow_messages : (setTow s i x).messages = s.messages := rfl
@[simp] theorem setTow_msgSeq : (setTow s i x).msgSeq = s.msgSeq := rfl
@[simp] theorem setTow_recvSeq : (setTow s i x).recvSeq = s.recvSeq := rfl
@[simp] theorem setTow_recvQueues : (setTow s i x).recvQueues = s.recvQueues := rfl
@[simp] theorem setTow_queues : (setTow s i x).queues = s.queues := rfl
@[simp] theorem setTow_cpLast : (setTow s i x).cpLast = s.cpLast := rfl
@[simp] theorem setTow_kernels : (setTow s i x).kernels = s.kernels := rfl
@[simp] theorem setTow_nextKernel : (setTow s i x).nextKernel = s.nextKernel := rfl
@[simp] theorem setTow_beat : (setTow s i x).beat = s.beat := rfl
@[simp] theorem setTow_irqs : (setTow s i x).irqs = s.irqs := rfl
@[simp] theorem setTow_msis : (setTow s i x).msis = s.msis := rfl
@[simp] theorem setTow_fw : (setTow s i x).fw = s.fw := rfl
@[simp] theorem setTow_fwQueue : (setTow s i x).fwQueue = s.fwQueue := rfl
@[simp] theorem setTow_fwLog : (setTow s i x).fwLog = s.fwLog := rfl
@[simp] theorem setTow_fwLogSeq : (setTow s i x).fwLogSeq = s.fwLogSeq := rfl
@[simp] theorem setTow_traceIndex : (setTow s i x).traceIndex = s.traceIndex := rfl
@[simp] theorem setTow_traceLast : (setTow s i x).traceLast = s.traceLast := rfl
@[simp] theorem setTow_traceDropped : (setTow s i x).traceDropped = s.traceDropped := rfl
@[simp] theorem setTow_active : (setTow s i x).active = s.active := rfl
@[simp] theorem setTow_shadow : (setTow s i x).shadow = s.shadow := rfl
@[simp] theorem setTow_heldB : (setTow s i x).heldB = s.heldB := rfl
@[simp] theorem setTow_quickset : (setTow s i x).quickset = s.quickset := rfl
@[simp] theorem setTow_sessions : (setTow s i x).sessions = s.sessions := rfl
@[simp] theorem setTow_localChan : (setTow s i x).localChan = s.localChan := rfl
@[simp] theorem setTow_regRejects : (setTow s i x).regRejects = s.regRejects := rfl
@[simp] theorem setTow_overQuota : (setTow s i x).overQuota = s.overQuota := rfl
@[simp] theorem setTow_mgmtUp : (setTow s i x).mgmtUp = s.mgmtUp := rfl
@[simp] theorem setTow_mgmtReplies : (setTow s i x).mgmtReplies = s.mgmtReplies := rfl
@[simp] theorem setTow_dhcpAddr : (setTow s i x).dhcpAddr = s.dhcpAddr := rfl
@[simp] theorem setTow_slaacAddr : (setTow s i x).slaacAddr = s.slaacAddr := rfl
@[simp] theorem setTow_trust : (setTow s i x).trust = s.trust := rfl
@[simp] theorem setTow_channels : (setTow s i x).channels = s.channels := rfl
@[simp] theorem setTow_cvus : (setTow s i x).cvus = s.cvus := rfl
@[simp] theorem setTow_pit : (setTow s i x).pit = s.pit := rfl
@[simp] theorem setTow_opSeconds : (setTow s i x).opSeconds = s.opSeconds := rfl
@[simp] theorem setTow_bsb : (setTow s i x).bsb = s.bsb := rfl
@[simp] theorem setTow_free : (setTow s i x).free = s.free := rfl
end

section
variable (s : State) (i : Nat) (x : Cluster)
@[simp] theorem setClu_pending : (setClu s i x).pending = s.pending := rfl
@[simp] theorem setClu_held : (setClu s i x).held = s.held := rfl
@[simp] theorem setClu_boot : (setClu s i x).boot = s.boot := rfl
@[simp] theorem setClu_pins : (setClu s i x).pins = s.pins := rfl
@[simp] theorem setClu_tap : (setClu s i x).tap = s.tap := rfl
@[simp] theorem setClu_cores : (setClu s i x).cores = s.cores := rfl
@[simp] theorem setClu_kept : (setClu s i x).kept = s.kept := rfl
@[simp] theorem setClu_pace : (setClu s i x).pace = s.pace := rfl
@[simp] theorem setClu_sched : (setClu s i x).sched = s.sched := rfl
@[simp] theorem setClu_checkpointWait : (setClu s i x).checkpointWait = s.checkpointWait := rfl
@[simp] theorem setClu_fenceWait : (setClu s i x).fenceWait = s.fenceWait := rfl
@[simp] theorem setClu_fenceEpochs : (setClu s i x).fenceEpochs = s.fenceEpochs := rfl
@[simp] theorem setClu_power : (setClu s i x).power = s.power := rfl
@[simp] theorem setClu_cycles : (setClu s i x).cycles = s.cycles := rfl
@[simp] theorem setClu_cyclePart : (setClu s i x).cyclePart = s.cyclePart := rfl
@[simp] theorem setClu_towers : (setClu s i x).towers = s.towers := rfl
@[simp] theorem setClu_mem : (setClu s i x).mem = s.mem := rfl
@[simp] theorem setClu_poison : (setClu s i x).poison = s.poison := rfl
@[simp] theorem setClu_stackUnits : (setClu s i x).stackUnits = s.stackUnits := rfl
@[simp] theorem setClu_stackMap : (setClu s i x).stackMap = s.stackMap := rfl
@[simp] theorem setClu_packages : (setClu s i x).packages = s.packages := rfl
@[simp] theorem setClu_accwSat : (setClu s i x).accwSat = s.accwSat := rfl
@[simp] theorem setClu_corrected : (setClu s i x).corrected = s.corrected := rfl
@[simp] theorem setClu_poisoned : (setClu s i x).poisoned = s.poisoned := rfl
@[simp] theorem setClu_copyEngines : (setClu s i x).copyEngines = s.copyEngines := rfl
@[simp] theorem setClu_completions : (setClu s i x).completions = s.completions := rfl
@[simp] theorem setClu_clusters : (setClu s i x).clusters = mset s.clusters i x := rfl
@[simp] theorem setClu_atomSat : (setClu s i x).atomSat = s.atomSat := rfl
@[simp] theorem setClu_buckets : (setClu s i x).buckets = s.buckets := rfl
@[simp] theorem setClu_heldShares : (setClu s i x).heldShares = s.heldShares := rfl
@[simp] theorem setClu_bktRejects : (setClu s i x).bktRejects = s.bktRejects := rfl
@[simp] theorem setClu_bktSat : (setClu s i x).bktSat = s.bktSat := rfl
@[simp] theorem setClu_verdict : (setClu s i x).verdict = s.verdict := rfl
@[simp] theorem setClu_ues : (setClu s i x).ues = s.ues := rfl
@[simp] theorem setClu_latch : (setClu s i x).latch = s.latch := rfl
@[simp] theorem setClu_red : (setClu s i x).red = s.red := rfl
@[simp] theorem setClu_pushWait : (setClu s i x).pushWait = s.pushWait := rfl
@[simp] theorem setClu_pushBad : (setClu s i x).pushBad = s.pushBad := rfl
@[simp] theorem setClu_ports : (setClu s i x).ports = s.ports := rfl
@[simp] theorem setClu_elsfpOut : (setClu s i x).elsfpOut = s.elsfpOut := rfl
@[simp] theorem setClu_laserBad : (setClu s i x).laserBad = s.laserBad := rfl
@[simp] theorem setClu_requests : (setClu s i x).requests = s.requests := rfl
@[simp] theorem setClu_nextReq : (setClu s i x).nextReq = s.nextReq := rfl
@[simp] theorem setClu_seqs : (setClu s i x).seqs = s.seqs := rfl
@[simp] theorem setClu_seqTimes : (setClu s i x).seqTimes = s.seqTimes := rfl
@[simp] theorem setClu_paths : (setClu s i x).paths = s.paths := rfl
@[simp] theorem setClu_pathAt : (setClu s i x).pathAt = s.pathAt := rfl
@[simp] theorem setClu_lastEpoch : (setClu s i x).lastEpoch = s.lastEpoch := rfl
@[simp] theorem setClu_outbox : (setClu s i x).outbox = s.outbox := rfl
@[simp] theorem setClu_lineTimes : (setClu s i x).lineTimes = s.lineTimes := rfl
@[simp] theorem setClu_windows : (setClu s i x).windows = s.windows := rfl
@[simp] theorem setClu_hotLines : (setClu s i x).hotLines = s.hotLines := rfl
@[simp] theorem setClu_headframes : (setClu s i x).headframes = s.headframes := rfl
@[simp] theorem setClu_hfErrors : (setClu s i x).hfErrors = s.hfErrors := rfl
@[simp] theorem setClu_messages : (setClu s i x).messages = s.messages := rfl
@[simp] theorem setClu_msgSeq : (setClu s i x).msgSeq = s.msgSeq := rfl
@[simp] theorem setClu_recvSeq : (setClu s i x).recvSeq = s.recvSeq := rfl
@[simp] theorem setClu_recvQueues : (setClu s i x).recvQueues = s.recvQueues := rfl
@[simp] theorem setClu_queues : (setClu s i x).queues = s.queues := rfl
@[simp] theorem setClu_cpLast : (setClu s i x).cpLast = s.cpLast := rfl
@[simp] theorem setClu_kernels : (setClu s i x).kernels = s.kernels := rfl
@[simp] theorem setClu_nextKernel : (setClu s i x).nextKernel = s.nextKernel := rfl
@[simp] theorem setClu_beat : (setClu s i x).beat = s.beat := rfl
@[simp] theorem setClu_irqs : (setClu s i x).irqs = s.irqs := rfl
@[simp] theorem setClu_msis : (setClu s i x).msis = s.msis := rfl
@[simp] theorem setClu_fw : (setClu s i x).fw = s.fw := rfl
@[simp] theorem setClu_fwQueue : (setClu s i x).fwQueue = s.fwQueue := rfl
@[simp] theorem setClu_fwLog : (setClu s i x).fwLog = s.fwLog := rfl
@[simp] theorem setClu_fwLogSeq : (setClu s i x).fwLogSeq = s.fwLogSeq := rfl
@[simp] theorem setClu_traceIndex : (setClu s i x).traceIndex = s.traceIndex := rfl
@[simp] theorem setClu_traceLast : (setClu s i x).traceLast = s.traceLast := rfl
@[simp] theorem setClu_traceDropped : (setClu s i x).traceDropped = s.traceDropped := rfl
@[simp] theorem setClu_active : (setClu s i x).active = s.active := rfl
@[simp] theorem setClu_shadow : (setClu s i x).shadow = s.shadow := rfl
@[simp] theorem setClu_heldB : (setClu s i x).heldB = s.heldB := rfl
@[simp] theorem setClu_quickset : (setClu s i x).quickset = s.quickset := rfl
@[simp] theorem setClu_sessions : (setClu s i x).sessions = s.sessions := rfl
@[simp] theorem setClu_localChan : (setClu s i x).localChan = s.localChan := rfl
@[simp] theorem setClu_regRejects : (setClu s i x).regRejects = s.regRejects := rfl
@[simp] theorem setClu_overQuota : (setClu s i x).overQuota = s.overQuota := rfl
@[simp] theorem setClu_mgmtUp : (setClu s i x).mgmtUp = s.mgmtUp := rfl
@[simp] theorem setClu_mgmtReplies : (setClu s i x).mgmtReplies = s.mgmtReplies := rfl
@[simp] theorem setClu_dhcpAddr : (setClu s i x).dhcpAddr = s.dhcpAddr := rfl
@[simp] theorem setClu_slaacAddr : (setClu s i x).slaacAddr = s.slaacAddr := rfl
@[simp] theorem setClu_trust : (setClu s i x).trust = s.trust := rfl
@[simp] theorem setClu_channels : (setClu s i x).channels = s.channels := rfl
@[simp] theorem setClu_cvus : (setClu s i x).cvus = s.cvus := rfl
@[simp] theorem setClu_pit : (setClu s i x).pit = s.pit := rfl
@[simp] theorem setClu_opSeconds : (setClu s i x).opSeconds = s.opSeconds := rfl
@[simp] theorem setClu_bsb : (setClu s i x).bsb = s.bsb := rfl
@[simp] theorem setClu_free : (setClu s i x).free = s.free := rfl
end

section
variable (s : State) (i : Nat) (x : Stack)
@[simp] theorem setStk_pending : (setStk s i x).pending = s.pending := rfl
@[simp] theorem setStk_held : (setStk s i x).held = s.held := rfl
@[simp] theorem setStk_boot : (setStk s i x).boot = s.boot := rfl
@[simp] theorem setStk_pins : (setStk s i x).pins = s.pins := rfl
@[simp] theorem setStk_tap : (setStk s i x).tap = s.tap := rfl
@[simp] theorem setStk_cores : (setStk s i x).cores = s.cores := rfl
@[simp] theorem setStk_kept : (setStk s i x).kept = s.kept := rfl
@[simp] theorem setStk_pace : (setStk s i x).pace = s.pace := rfl
@[simp] theorem setStk_sched : (setStk s i x).sched = s.sched := rfl
@[simp] theorem setStk_checkpointWait : (setStk s i x).checkpointWait = s.checkpointWait := rfl
@[simp] theorem setStk_fenceWait : (setStk s i x).fenceWait = s.fenceWait := rfl
@[simp] theorem setStk_fenceEpochs : (setStk s i x).fenceEpochs = s.fenceEpochs := rfl
@[simp] theorem setStk_power : (setStk s i x).power = s.power := rfl
@[simp] theorem setStk_cycles : (setStk s i x).cycles = s.cycles := rfl
@[simp] theorem setStk_cyclePart : (setStk s i x).cyclePart = s.cyclePart := rfl
@[simp] theorem setStk_towers : (setStk s i x).towers = s.towers := rfl
@[simp] theorem setStk_mem : (setStk s i x).mem = s.mem := rfl
@[simp] theorem setStk_poison : (setStk s i x).poison = s.poison := rfl
@[simp] theorem setStk_stackUnits : (setStk s i x).stackUnits = mset s.stackUnits i x := rfl
@[simp] theorem setStk_stackMap : (setStk s i x).stackMap = s.stackMap := rfl
@[simp] theorem setStk_packages : (setStk s i x).packages = s.packages := rfl
@[simp] theorem setStk_accwSat : (setStk s i x).accwSat = s.accwSat := rfl
@[simp] theorem setStk_corrected : (setStk s i x).corrected = s.corrected := rfl
@[simp] theorem setStk_poisoned : (setStk s i x).poisoned = s.poisoned := rfl
@[simp] theorem setStk_copyEngines : (setStk s i x).copyEngines = s.copyEngines := rfl
@[simp] theorem setStk_completions : (setStk s i x).completions = s.completions := rfl
@[simp] theorem setStk_clusters : (setStk s i x).clusters = s.clusters := rfl
@[simp] theorem setStk_atomSat : (setStk s i x).atomSat = s.atomSat := rfl
@[simp] theorem setStk_buckets : (setStk s i x).buckets = s.buckets := rfl
@[simp] theorem setStk_heldShares : (setStk s i x).heldShares = s.heldShares := rfl
@[simp] theorem setStk_bktRejects : (setStk s i x).bktRejects = s.bktRejects := rfl
@[simp] theorem setStk_bktSat : (setStk s i x).bktSat = s.bktSat := rfl
@[simp] theorem setStk_verdict : (setStk s i x).verdict = s.verdict := rfl
@[simp] theorem setStk_ues : (setStk s i x).ues = s.ues := rfl
@[simp] theorem setStk_latch : (setStk s i x).latch = s.latch := rfl
@[simp] theorem setStk_red : (setStk s i x).red = s.red := rfl
@[simp] theorem setStk_pushWait : (setStk s i x).pushWait = s.pushWait := rfl
@[simp] theorem setStk_pushBad : (setStk s i x).pushBad = s.pushBad := rfl
@[simp] theorem setStk_ports : (setStk s i x).ports = s.ports := rfl
@[simp] theorem setStk_elsfpOut : (setStk s i x).elsfpOut = s.elsfpOut := rfl
@[simp] theorem setStk_laserBad : (setStk s i x).laserBad = s.laserBad := rfl
@[simp] theorem setStk_requests : (setStk s i x).requests = s.requests := rfl
@[simp] theorem setStk_nextReq : (setStk s i x).nextReq = s.nextReq := rfl
@[simp] theorem setStk_seqs : (setStk s i x).seqs = s.seqs := rfl
@[simp] theorem setStk_seqTimes : (setStk s i x).seqTimes = s.seqTimes := rfl
@[simp] theorem setStk_paths : (setStk s i x).paths = s.paths := rfl
@[simp] theorem setStk_pathAt : (setStk s i x).pathAt = s.pathAt := rfl
@[simp] theorem setStk_lastEpoch : (setStk s i x).lastEpoch = s.lastEpoch := rfl
@[simp] theorem setStk_outbox : (setStk s i x).outbox = s.outbox := rfl
@[simp] theorem setStk_lineTimes : (setStk s i x).lineTimes = s.lineTimes := rfl
@[simp] theorem setStk_windows : (setStk s i x).windows = s.windows := rfl
@[simp] theorem setStk_hotLines : (setStk s i x).hotLines = s.hotLines := rfl
@[simp] theorem setStk_headframes : (setStk s i x).headframes = s.headframes := rfl
@[simp] theorem setStk_hfErrors : (setStk s i x).hfErrors = s.hfErrors := rfl
@[simp] theorem setStk_messages : (setStk s i x).messages = s.messages := rfl
@[simp] theorem setStk_msgSeq : (setStk s i x).msgSeq = s.msgSeq := rfl
@[simp] theorem setStk_recvSeq : (setStk s i x).recvSeq = s.recvSeq := rfl
@[simp] theorem setStk_recvQueues : (setStk s i x).recvQueues = s.recvQueues := rfl
@[simp] theorem setStk_queues : (setStk s i x).queues = s.queues := rfl
@[simp] theorem setStk_cpLast : (setStk s i x).cpLast = s.cpLast := rfl
@[simp] theorem setStk_kernels : (setStk s i x).kernels = s.kernels := rfl
@[simp] theorem setStk_nextKernel : (setStk s i x).nextKernel = s.nextKernel := rfl
@[simp] theorem setStk_beat : (setStk s i x).beat = s.beat := rfl
@[simp] theorem setStk_irqs : (setStk s i x).irqs = s.irqs := rfl
@[simp] theorem setStk_msis : (setStk s i x).msis = s.msis := rfl
@[simp] theorem setStk_fw : (setStk s i x).fw = s.fw := rfl
@[simp] theorem setStk_fwQueue : (setStk s i x).fwQueue = s.fwQueue := rfl
@[simp] theorem setStk_fwLog : (setStk s i x).fwLog = s.fwLog := rfl
@[simp] theorem setStk_fwLogSeq : (setStk s i x).fwLogSeq = s.fwLogSeq := rfl
@[simp] theorem setStk_traceIndex : (setStk s i x).traceIndex = s.traceIndex := rfl
@[simp] theorem setStk_traceLast : (setStk s i x).traceLast = s.traceLast := rfl
@[simp] theorem setStk_traceDropped : (setStk s i x).traceDropped = s.traceDropped := rfl
@[simp] theorem setStk_active : (setStk s i x).active = s.active := rfl
@[simp] theorem setStk_shadow : (setStk s i x).shadow = s.shadow := rfl
@[simp] theorem setStk_heldB : (setStk s i x).heldB = s.heldB := rfl
@[simp] theorem setStk_quickset : (setStk s i x).quickset = s.quickset := rfl
@[simp] theorem setStk_sessions : (setStk s i x).sessions = s.sessions := rfl
@[simp] theorem setStk_localChan : (setStk s i x).localChan = s.localChan := rfl
@[simp] theorem setStk_regRejects : (setStk s i x).regRejects = s.regRejects := rfl
@[simp] theorem setStk_overQuota : (setStk s i x).overQuota = s.overQuota := rfl
@[simp] theorem setStk_mgmtUp : (setStk s i x).mgmtUp = s.mgmtUp := rfl
@[simp] theorem setStk_mgmtReplies : (setStk s i x).mgmtReplies = s.mgmtReplies := rfl
@[simp] theorem setStk_dhcpAddr : (setStk s i x).dhcpAddr = s.dhcpAddr := rfl
@[simp] theorem setStk_slaacAddr : (setStk s i x).slaacAddr = s.slaacAddr := rfl
@[simp] theorem setStk_trust : (setStk s i x).trust = s.trust := rfl
@[simp] theorem setStk_channels : (setStk s i x).channels = s.channels := rfl
@[simp] theorem setStk_cvus : (setStk s i x).cvus = s.cvus := rfl
@[simp] theorem setStk_pit : (setStk s i x).pit = s.pit := rfl
@[simp] theorem setStk_opSeconds : (setStk s i x).opSeconds = s.opSeconds := rfl
@[simp] theorem setStk_bsb : (setStk s i x).bsb = s.bsb := rfl
@[simp] theorem setStk_free : (setStk s i x).free = s.free := rfl
end

section
variable (s : State) (i : Nat) (x : Ue)
@[simp] theorem setUe_pending : (setUe s i x).pending = s.pending := rfl
@[simp] theorem setUe_held : (setUe s i x).held = s.held := rfl
@[simp] theorem setUe_boot : (setUe s i x).boot = s.boot := rfl
@[simp] theorem setUe_pins : (setUe s i x).pins = s.pins := rfl
@[simp] theorem setUe_tap : (setUe s i x).tap = s.tap := rfl
@[simp] theorem setUe_cores : (setUe s i x).cores = s.cores := rfl
@[simp] theorem setUe_kept : (setUe s i x).kept = s.kept := rfl
@[simp] theorem setUe_pace : (setUe s i x).pace = s.pace := rfl
@[simp] theorem setUe_sched : (setUe s i x).sched = s.sched := rfl
@[simp] theorem setUe_checkpointWait : (setUe s i x).checkpointWait = s.checkpointWait := rfl
@[simp] theorem setUe_fenceWait : (setUe s i x).fenceWait = s.fenceWait := rfl
@[simp] theorem setUe_fenceEpochs : (setUe s i x).fenceEpochs = s.fenceEpochs := rfl
@[simp] theorem setUe_power : (setUe s i x).power = s.power := rfl
@[simp] theorem setUe_cycles : (setUe s i x).cycles = s.cycles := rfl
@[simp] theorem setUe_cyclePart : (setUe s i x).cyclePart = s.cyclePart := rfl
@[simp] theorem setUe_towers : (setUe s i x).towers = s.towers := rfl
@[simp] theorem setUe_mem : (setUe s i x).mem = s.mem := rfl
@[simp] theorem setUe_poison : (setUe s i x).poison = s.poison := rfl
@[simp] theorem setUe_stackUnits : (setUe s i x).stackUnits = s.stackUnits := rfl
@[simp] theorem setUe_stackMap : (setUe s i x).stackMap = s.stackMap := rfl
@[simp] theorem setUe_packages : (setUe s i x).packages = s.packages := rfl
@[simp] theorem setUe_accwSat : (setUe s i x).accwSat = s.accwSat := rfl
@[simp] theorem setUe_corrected : (setUe s i x).corrected = s.corrected := rfl
@[simp] theorem setUe_poisoned : (setUe s i x).poisoned = s.poisoned := rfl
@[simp] theorem setUe_copyEngines : (setUe s i x).copyEngines = s.copyEngines := rfl
@[simp] theorem setUe_completions : (setUe s i x).completions = s.completions := rfl
@[simp] theorem setUe_clusters : (setUe s i x).clusters = s.clusters := rfl
@[simp] theorem setUe_atomSat : (setUe s i x).atomSat = s.atomSat := rfl
@[simp] theorem setUe_buckets : (setUe s i x).buckets = s.buckets := rfl
@[simp] theorem setUe_heldShares : (setUe s i x).heldShares = s.heldShares := rfl
@[simp] theorem setUe_bktRejects : (setUe s i x).bktRejects = s.bktRejects := rfl
@[simp] theorem setUe_bktSat : (setUe s i x).bktSat = s.bktSat := rfl
@[simp] theorem setUe_verdict : (setUe s i x).verdict = s.verdict := rfl
@[simp] theorem setUe_ues : (setUe s i x).ues = mset s.ues i x := rfl
@[simp] theorem setUe_latch : (setUe s i x).latch = s.latch := rfl
@[simp] theorem setUe_red : (setUe s i x).red = s.red := rfl
@[simp] theorem setUe_pushWait : (setUe s i x).pushWait = s.pushWait := rfl
@[simp] theorem setUe_pushBad : (setUe s i x).pushBad = s.pushBad := rfl
@[simp] theorem setUe_ports : (setUe s i x).ports = s.ports := rfl
@[simp] theorem setUe_elsfpOut : (setUe s i x).elsfpOut = s.elsfpOut := rfl
@[simp] theorem setUe_laserBad : (setUe s i x).laserBad = s.laserBad := rfl
@[simp] theorem setUe_requests : (setUe s i x).requests = s.requests := rfl
@[simp] theorem setUe_nextReq : (setUe s i x).nextReq = s.nextReq := rfl
@[simp] theorem setUe_seqs : (setUe s i x).seqs = s.seqs := rfl
@[simp] theorem setUe_seqTimes : (setUe s i x).seqTimes = s.seqTimes := rfl
@[simp] theorem setUe_paths : (setUe s i x).paths = s.paths := rfl
@[simp] theorem setUe_pathAt : (setUe s i x).pathAt = s.pathAt := rfl
@[simp] theorem setUe_lastEpoch : (setUe s i x).lastEpoch = s.lastEpoch := rfl
@[simp] theorem setUe_outbox : (setUe s i x).outbox = s.outbox := rfl
@[simp] theorem setUe_lineTimes : (setUe s i x).lineTimes = s.lineTimes := rfl
@[simp] theorem setUe_windows : (setUe s i x).windows = s.windows := rfl
@[simp] theorem setUe_hotLines : (setUe s i x).hotLines = s.hotLines := rfl
@[simp] theorem setUe_headframes : (setUe s i x).headframes = s.headframes := rfl
@[simp] theorem setUe_hfErrors : (setUe s i x).hfErrors = s.hfErrors := rfl
@[simp] theorem setUe_messages : (setUe s i x).messages = s.messages := rfl
@[simp] theorem setUe_msgSeq : (setUe s i x).msgSeq = s.msgSeq := rfl
@[simp] theorem setUe_recvSeq : (setUe s i x).recvSeq = s.recvSeq := rfl
@[simp] theorem setUe_recvQueues : (setUe s i x).recvQueues = s.recvQueues := rfl
@[simp] theorem setUe_queues : (setUe s i x).queues = s.queues := rfl
@[simp] theorem setUe_cpLast : (setUe s i x).cpLast = s.cpLast := rfl
@[simp] theorem setUe_kernels : (setUe s i x).kernels = s.kernels := rfl
@[simp] theorem setUe_nextKernel : (setUe s i x).nextKernel = s.nextKernel := rfl
@[simp] theorem setUe_beat : (setUe s i x).beat = s.beat := rfl
@[simp] theorem setUe_irqs : (setUe s i x).irqs = s.irqs := rfl
@[simp] theorem setUe_msis : (setUe s i x).msis = s.msis := rfl
@[simp] theorem setUe_fw : (setUe s i x).fw = s.fw := rfl
@[simp] theorem setUe_fwQueue : (setUe s i x).fwQueue = s.fwQueue := rfl
@[simp] theorem setUe_fwLog : (setUe s i x).fwLog = s.fwLog := rfl
@[simp] theorem setUe_fwLogSeq : (setUe s i x).fwLogSeq = s.fwLogSeq := rfl
@[simp] theorem setUe_traceIndex : (setUe s i x).traceIndex = s.traceIndex := rfl
@[simp] theorem setUe_traceLast : (setUe s i x).traceLast = s.traceLast := rfl
@[simp] theorem setUe_traceDropped : (setUe s i x).traceDropped = s.traceDropped := rfl
@[simp] theorem setUe_active : (setUe s i x).active = s.active := rfl
@[simp] theorem setUe_shadow : (setUe s i x).shadow = s.shadow := rfl
@[simp] theorem setUe_heldB : (setUe s i x).heldB = s.heldB := rfl
@[simp] theorem setUe_quickset : (setUe s i x).quickset = s.quickset := rfl
@[simp] theorem setUe_sessions : (setUe s i x).sessions = s.sessions := rfl
@[simp] theorem setUe_localChan : (setUe s i x).localChan = s.localChan := rfl
@[simp] theorem setUe_regRejects : (setUe s i x).regRejects = s.regRejects := rfl
@[simp] theorem setUe_overQuota : (setUe s i x).overQuota = s.overQuota := rfl
@[simp] theorem setUe_mgmtUp : (setUe s i x).mgmtUp = s.mgmtUp := rfl
@[simp] theorem setUe_mgmtReplies : (setUe s i x).mgmtReplies = s.mgmtReplies := rfl
@[simp] theorem setUe_dhcpAddr : (setUe s i x).dhcpAddr = s.dhcpAddr := rfl
@[simp] theorem setUe_slaacAddr : (setUe s i x).slaacAddr = s.slaacAddr := rfl
@[simp] theorem setUe_trust : (setUe s i x).trust = s.trust := rfl
@[simp] theorem setUe_channels : (setUe s i x).channels = s.channels := rfl
@[simp] theorem setUe_cvus : (setUe s i x).cvus = s.cvus := rfl
@[simp] theorem setUe_pit : (setUe s i x).pit = s.pit := rfl
@[simp] theorem setUe_opSeconds : (setUe s i x).opSeconds = s.opSeconds := rfl
@[simp] theorem setUe_bsb : (setUe s i x).bsb = s.bsb := rfl
@[simp] theorem setUe_free : (setUe s i x).free = s.free := rfl
end

section
variable (s : State) (i : Nat) (x : Port)
@[simp] theorem setPrt_pending : (setPrt s i x).pending = s.pending := rfl
@[simp] theorem setPrt_held : (setPrt s i x).held = s.held := rfl
@[simp] theorem setPrt_boot : (setPrt s i x).boot = s.boot := rfl
@[simp] theorem setPrt_pins : (setPrt s i x).pins = s.pins := rfl
@[simp] theorem setPrt_tap : (setPrt s i x).tap = s.tap := rfl
@[simp] theorem setPrt_cores : (setPrt s i x).cores = s.cores := rfl
@[simp] theorem setPrt_kept : (setPrt s i x).kept = s.kept := rfl
@[simp] theorem setPrt_pace : (setPrt s i x).pace = s.pace := rfl
@[simp] theorem setPrt_sched : (setPrt s i x).sched = s.sched := rfl
@[simp] theorem setPrt_checkpointWait : (setPrt s i x).checkpointWait = s.checkpointWait := rfl
@[simp] theorem setPrt_fenceWait : (setPrt s i x).fenceWait = s.fenceWait := rfl
@[simp] theorem setPrt_fenceEpochs : (setPrt s i x).fenceEpochs = s.fenceEpochs := rfl
@[simp] theorem setPrt_power : (setPrt s i x).power = s.power := rfl
@[simp] theorem setPrt_cycles : (setPrt s i x).cycles = s.cycles := rfl
@[simp] theorem setPrt_cyclePart : (setPrt s i x).cyclePart = s.cyclePart := rfl
@[simp] theorem setPrt_towers : (setPrt s i x).towers = s.towers := rfl
@[simp] theorem setPrt_mem : (setPrt s i x).mem = s.mem := rfl
@[simp] theorem setPrt_poison : (setPrt s i x).poison = s.poison := rfl
@[simp] theorem setPrt_stackUnits : (setPrt s i x).stackUnits = s.stackUnits := rfl
@[simp] theorem setPrt_stackMap : (setPrt s i x).stackMap = s.stackMap := rfl
@[simp] theorem setPrt_packages : (setPrt s i x).packages = s.packages := rfl
@[simp] theorem setPrt_accwSat : (setPrt s i x).accwSat = s.accwSat := rfl
@[simp] theorem setPrt_corrected : (setPrt s i x).corrected = s.corrected := rfl
@[simp] theorem setPrt_poisoned : (setPrt s i x).poisoned = s.poisoned := rfl
@[simp] theorem setPrt_copyEngines : (setPrt s i x).copyEngines = s.copyEngines := rfl
@[simp] theorem setPrt_completions : (setPrt s i x).completions = s.completions := rfl
@[simp] theorem setPrt_clusters : (setPrt s i x).clusters = s.clusters := rfl
@[simp] theorem setPrt_atomSat : (setPrt s i x).atomSat = s.atomSat := rfl
@[simp] theorem setPrt_buckets : (setPrt s i x).buckets = s.buckets := rfl
@[simp] theorem setPrt_heldShares : (setPrt s i x).heldShares = s.heldShares := rfl
@[simp] theorem setPrt_bktRejects : (setPrt s i x).bktRejects = s.bktRejects := rfl
@[simp] theorem setPrt_bktSat : (setPrt s i x).bktSat = s.bktSat := rfl
@[simp] theorem setPrt_verdict : (setPrt s i x).verdict = s.verdict := rfl
@[simp] theorem setPrt_ues : (setPrt s i x).ues = s.ues := rfl
@[simp] theorem setPrt_latch : (setPrt s i x).latch = s.latch := rfl
@[simp] theorem setPrt_red : (setPrt s i x).red = s.red := rfl
@[simp] theorem setPrt_pushWait : (setPrt s i x).pushWait = s.pushWait := rfl
@[simp] theorem setPrt_pushBad : (setPrt s i x).pushBad = s.pushBad := rfl
@[simp] theorem setPrt_ports : (setPrt s i x).ports = mset s.ports i x := rfl
@[simp] theorem setPrt_elsfpOut : (setPrt s i x).elsfpOut = s.elsfpOut := rfl
@[simp] theorem setPrt_laserBad : (setPrt s i x).laserBad = s.laserBad := rfl
@[simp] theorem setPrt_requests : (setPrt s i x).requests = s.requests := rfl
@[simp] theorem setPrt_nextReq : (setPrt s i x).nextReq = s.nextReq := rfl
@[simp] theorem setPrt_seqs : (setPrt s i x).seqs = s.seqs := rfl
@[simp] theorem setPrt_seqTimes : (setPrt s i x).seqTimes = s.seqTimes := rfl
@[simp] theorem setPrt_paths : (setPrt s i x).paths = s.paths := rfl
@[simp] theorem setPrt_pathAt : (setPrt s i x).pathAt = s.pathAt := rfl
@[simp] theorem setPrt_lastEpoch : (setPrt s i x).lastEpoch = s.lastEpoch := rfl
@[simp] theorem setPrt_outbox : (setPrt s i x).outbox = s.outbox := rfl
@[simp] theorem setPrt_lineTimes : (setPrt s i x).lineTimes = s.lineTimes := rfl
@[simp] theorem setPrt_windows : (setPrt s i x).windows = s.windows := rfl
@[simp] theorem setPrt_hotLines : (setPrt s i x).hotLines = s.hotLines := rfl
@[simp] theorem setPrt_headframes : (setPrt s i x).headframes = s.headframes := rfl
@[simp] theorem setPrt_hfErrors : (setPrt s i x).hfErrors = s.hfErrors := rfl
@[simp] theorem setPrt_messages : (setPrt s i x).messages = s.messages := rfl
@[simp] theorem setPrt_msgSeq : (setPrt s i x).msgSeq = s.msgSeq := rfl
@[simp] theorem setPrt_recvSeq : (setPrt s i x).recvSeq = s.recvSeq := rfl
@[simp] theorem setPrt_recvQueues : (setPrt s i x).recvQueues = s.recvQueues := rfl
@[simp] theorem setPrt_queues : (setPrt s i x).queues = s.queues := rfl
@[simp] theorem setPrt_cpLast : (setPrt s i x).cpLast = s.cpLast := rfl
@[simp] theorem setPrt_kernels : (setPrt s i x).kernels = s.kernels := rfl
@[simp] theorem setPrt_nextKernel : (setPrt s i x).nextKernel = s.nextKernel := rfl
@[simp] theorem setPrt_beat : (setPrt s i x).beat = s.beat := rfl
@[simp] theorem setPrt_irqs : (setPrt s i x).irqs = s.irqs := rfl
@[simp] theorem setPrt_msis : (setPrt s i x).msis = s.msis := rfl
@[simp] theorem setPrt_fw : (setPrt s i x).fw = s.fw := rfl
@[simp] theorem setPrt_fwQueue : (setPrt s i x).fwQueue = s.fwQueue := rfl
@[simp] theorem setPrt_fwLog : (setPrt s i x).fwLog = s.fwLog := rfl
@[simp] theorem setPrt_fwLogSeq : (setPrt s i x).fwLogSeq = s.fwLogSeq := rfl
@[simp] theorem setPrt_traceIndex : (setPrt s i x).traceIndex = s.traceIndex := rfl
@[simp] theorem setPrt_traceLast : (setPrt s i x).traceLast = s.traceLast := rfl
@[simp] theorem setPrt_traceDropped : (setPrt s i x).traceDropped = s.traceDropped := rfl
@[simp] theorem setPrt_active : (setPrt s i x).active = s.active := rfl
@[simp] theorem setPrt_shadow : (setPrt s i x).shadow = s.shadow := rfl
@[simp] theorem setPrt_heldB : (setPrt s i x).heldB = s.heldB := rfl
@[simp] theorem setPrt_quickset : (setPrt s i x).quickset = s.quickset := rfl
@[simp] theorem setPrt_sessions : (setPrt s i x).sessions = s.sessions := rfl
@[simp] theorem setPrt_localChan : (setPrt s i x).localChan = s.localChan := rfl
@[simp] theorem setPrt_regRejects : (setPrt s i x).regRejects = s.regRejects := rfl
@[simp] theorem setPrt_overQuota : (setPrt s i x).overQuota = s.overQuota := rfl
@[simp] theorem setPrt_mgmtUp : (setPrt s i x).mgmtUp = s.mgmtUp := rfl
@[simp] theorem setPrt_mgmtReplies : (setPrt s i x).mgmtReplies = s.mgmtReplies := rfl
@[simp] theorem setPrt_dhcpAddr : (setPrt s i x).dhcpAddr = s.dhcpAddr := rfl
@[simp] theorem setPrt_slaacAddr : (setPrt s i x).slaacAddr = s.slaacAddr := rfl
@[simp] theorem setPrt_trust : (setPrt s i x).trust = s.trust := rfl
@[simp] theorem setPrt_channels : (setPrt s i x).channels = s.channels := rfl
@[simp] theorem setPrt_cvus : (setPrt s i x).cvus = s.cvus := rfl
@[simp] theorem setPrt_pit : (setPrt s i x).pit = s.pit := rfl
@[simp] theorem setPrt_opSeconds : (setPrt s i x).opSeconds = s.opSeconds := rfl
@[simp] theorem setPrt_bsb : (setPrt s i x).bsb = s.bsb := rfl
@[simp] theorem setPrt_free : (setPrt s i x).free = s.free := rfl
end

section
variable (s : State) (i : Nat) (x : CmdQueue)
@[simp] theorem setCq_pending : (setCq s i x).pending = s.pending := rfl
@[simp] theorem setCq_held : (setCq s i x).held = s.held := rfl
@[simp] theorem setCq_boot : (setCq s i x).boot = s.boot := rfl
@[simp] theorem setCq_pins : (setCq s i x).pins = s.pins := rfl
@[simp] theorem setCq_tap : (setCq s i x).tap = s.tap := rfl
@[simp] theorem setCq_cores : (setCq s i x).cores = s.cores := rfl
@[simp] theorem setCq_kept : (setCq s i x).kept = s.kept := rfl
@[simp] theorem setCq_pace : (setCq s i x).pace = s.pace := rfl
@[simp] theorem setCq_sched : (setCq s i x).sched = s.sched := rfl
@[simp] theorem setCq_checkpointWait : (setCq s i x).checkpointWait = s.checkpointWait := rfl
@[simp] theorem setCq_fenceWait : (setCq s i x).fenceWait = s.fenceWait := rfl
@[simp] theorem setCq_fenceEpochs : (setCq s i x).fenceEpochs = s.fenceEpochs := rfl
@[simp] theorem setCq_power : (setCq s i x).power = s.power := rfl
@[simp] theorem setCq_cycles : (setCq s i x).cycles = s.cycles := rfl
@[simp] theorem setCq_cyclePart : (setCq s i x).cyclePart = s.cyclePart := rfl
@[simp] theorem setCq_towers : (setCq s i x).towers = s.towers := rfl
@[simp] theorem setCq_mem : (setCq s i x).mem = s.mem := rfl
@[simp] theorem setCq_poison : (setCq s i x).poison = s.poison := rfl
@[simp] theorem setCq_stackUnits : (setCq s i x).stackUnits = s.stackUnits := rfl
@[simp] theorem setCq_stackMap : (setCq s i x).stackMap = s.stackMap := rfl
@[simp] theorem setCq_packages : (setCq s i x).packages = s.packages := rfl
@[simp] theorem setCq_accwSat : (setCq s i x).accwSat = s.accwSat := rfl
@[simp] theorem setCq_corrected : (setCq s i x).corrected = s.corrected := rfl
@[simp] theorem setCq_poisoned : (setCq s i x).poisoned = s.poisoned := rfl
@[simp] theorem setCq_copyEngines : (setCq s i x).copyEngines = s.copyEngines := rfl
@[simp] theorem setCq_completions : (setCq s i x).completions = s.completions := rfl
@[simp] theorem setCq_clusters : (setCq s i x).clusters = s.clusters := rfl
@[simp] theorem setCq_atomSat : (setCq s i x).atomSat = s.atomSat := rfl
@[simp] theorem setCq_buckets : (setCq s i x).buckets = s.buckets := rfl
@[simp] theorem setCq_heldShares : (setCq s i x).heldShares = s.heldShares := rfl
@[simp] theorem setCq_bktRejects : (setCq s i x).bktRejects = s.bktRejects := rfl
@[simp] theorem setCq_bktSat : (setCq s i x).bktSat = s.bktSat := rfl
@[simp] theorem setCq_verdict : (setCq s i x).verdict = s.verdict := rfl
@[simp] theorem setCq_ues : (setCq s i x).ues = s.ues := rfl
@[simp] theorem setCq_latch : (setCq s i x).latch = s.latch := rfl
@[simp] theorem setCq_red : (setCq s i x).red = s.red := rfl
@[simp] theorem setCq_pushWait : (setCq s i x).pushWait = s.pushWait := rfl
@[simp] theorem setCq_pushBad : (setCq s i x).pushBad = s.pushBad := rfl
@[simp] theorem setCq_ports : (setCq s i x).ports = s.ports := rfl
@[simp] theorem setCq_elsfpOut : (setCq s i x).elsfpOut = s.elsfpOut := rfl
@[simp] theorem setCq_laserBad : (setCq s i x).laserBad = s.laserBad := rfl
@[simp] theorem setCq_requests : (setCq s i x).requests = s.requests := rfl
@[simp] theorem setCq_nextReq : (setCq s i x).nextReq = s.nextReq := rfl
@[simp] theorem setCq_seqs : (setCq s i x).seqs = s.seqs := rfl
@[simp] theorem setCq_seqTimes : (setCq s i x).seqTimes = s.seqTimes := rfl
@[simp] theorem setCq_paths : (setCq s i x).paths = s.paths := rfl
@[simp] theorem setCq_pathAt : (setCq s i x).pathAt = s.pathAt := rfl
@[simp] theorem setCq_lastEpoch : (setCq s i x).lastEpoch = s.lastEpoch := rfl
@[simp] theorem setCq_outbox : (setCq s i x).outbox = s.outbox := rfl
@[simp] theorem setCq_lineTimes : (setCq s i x).lineTimes = s.lineTimes := rfl
@[simp] theorem setCq_windows : (setCq s i x).windows = s.windows := rfl
@[simp] theorem setCq_hotLines : (setCq s i x).hotLines = s.hotLines := rfl
@[simp] theorem setCq_headframes : (setCq s i x).headframes = s.headframes := rfl
@[simp] theorem setCq_hfErrors : (setCq s i x).hfErrors = s.hfErrors := rfl
@[simp] theorem setCq_messages : (setCq s i x).messages = s.messages := rfl
@[simp] theorem setCq_msgSeq : (setCq s i x).msgSeq = s.msgSeq := rfl
@[simp] theorem setCq_recvSeq : (setCq s i x).recvSeq = s.recvSeq := rfl
@[simp] theorem setCq_recvQueues : (setCq s i x).recvQueues = s.recvQueues := rfl
@[simp] theorem setCq_queues : (setCq s i x).queues = mset s.queues i x := rfl
@[simp] theorem setCq_cpLast : (setCq s i x).cpLast = s.cpLast := rfl
@[simp] theorem setCq_kernels : (setCq s i x).kernels = s.kernels := rfl
@[simp] theorem setCq_nextKernel : (setCq s i x).nextKernel = s.nextKernel := rfl
@[simp] theorem setCq_beat : (setCq s i x).beat = s.beat := rfl
@[simp] theorem setCq_irqs : (setCq s i x).irqs = s.irqs := rfl
@[simp] theorem setCq_msis : (setCq s i x).msis = s.msis := rfl
@[simp] theorem setCq_fw : (setCq s i x).fw = s.fw := rfl
@[simp] theorem setCq_fwQueue : (setCq s i x).fwQueue = s.fwQueue := rfl
@[simp] theorem setCq_fwLog : (setCq s i x).fwLog = s.fwLog := rfl
@[simp] theorem setCq_fwLogSeq : (setCq s i x).fwLogSeq = s.fwLogSeq := rfl
@[simp] theorem setCq_traceIndex : (setCq s i x).traceIndex = s.traceIndex := rfl
@[simp] theorem setCq_traceLast : (setCq s i x).traceLast = s.traceLast := rfl
@[simp] theorem setCq_traceDropped : (setCq s i x).traceDropped = s.traceDropped := rfl
@[simp] theorem setCq_active : (setCq s i x).active = s.active := rfl
@[simp] theorem setCq_shadow : (setCq s i x).shadow = s.shadow := rfl
@[simp] theorem setCq_heldB : (setCq s i x).heldB = s.heldB := rfl
@[simp] theorem setCq_quickset : (setCq s i x).quickset = s.quickset := rfl
@[simp] theorem setCq_sessions : (setCq s i x).sessions = s.sessions := rfl
@[simp] theorem setCq_localChan : (setCq s i x).localChan = s.localChan := rfl
@[simp] theorem setCq_regRejects : (setCq s i x).regRejects = s.regRejects := rfl
@[simp] theorem setCq_overQuota : (setCq s i x).overQuota = s.overQuota := rfl
@[simp] theorem setCq_mgmtUp : (setCq s i x).mgmtUp = s.mgmtUp := rfl
@[simp] theorem setCq_mgmtReplies : (setCq s i x).mgmtReplies = s.mgmtReplies := rfl
@[simp] theorem setCq_dhcpAddr : (setCq s i x).dhcpAddr = s.dhcpAddr := rfl
@[simp] theorem setCq_slaacAddr : (setCq s i x).slaacAddr = s.slaacAddr := rfl
@[simp] theorem setCq_trust : (setCq s i x).trust = s.trust := rfl
@[simp] theorem setCq_channels : (setCq s i x).channels = s.channels := rfl
@[simp] theorem setCq_cvus : (setCq s i x).cvus = s.cvus := rfl
@[simp] theorem setCq_pit : (setCq s i x).pit = s.pit := rfl
@[simp] theorem setCq_opSeconds : (setCq s i x).opSeconds = s.opSeconds := rfl
@[simp] theorem setCq_bsb : (setCq s i x).bsb = s.bsb := rfl
@[simp] theorem setCq_free : (setCq s i x).free = s.free := rfl
end

section
variable (s : State) (i : Nat) (x : Bucket)
@[simp] theorem setBkt_pending : (setBkt s i x).pending = s.pending := rfl
@[simp] theorem setBkt_held : (setBkt s i x).held = s.held := rfl
@[simp] theorem setBkt_boot : (setBkt s i x).boot = s.boot := rfl
@[simp] theorem setBkt_pins : (setBkt s i x).pins = s.pins := rfl
@[simp] theorem setBkt_tap : (setBkt s i x).tap = s.tap := rfl
@[simp] theorem setBkt_cores : (setBkt s i x).cores = s.cores := rfl
@[simp] theorem setBkt_kept : (setBkt s i x).kept = s.kept := rfl
@[simp] theorem setBkt_pace : (setBkt s i x).pace = s.pace := rfl
@[simp] theorem setBkt_sched : (setBkt s i x).sched = s.sched := rfl
@[simp] theorem setBkt_checkpointWait : (setBkt s i x).checkpointWait = s.checkpointWait := rfl
@[simp] theorem setBkt_fenceWait : (setBkt s i x).fenceWait = s.fenceWait := rfl
@[simp] theorem setBkt_fenceEpochs : (setBkt s i x).fenceEpochs = s.fenceEpochs := rfl
@[simp] theorem setBkt_power : (setBkt s i x).power = s.power := rfl
@[simp] theorem setBkt_cycles : (setBkt s i x).cycles = s.cycles := rfl
@[simp] theorem setBkt_cyclePart : (setBkt s i x).cyclePart = s.cyclePart := rfl
@[simp] theorem setBkt_towers : (setBkt s i x).towers = s.towers := rfl
@[simp] theorem setBkt_mem : (setBkt s i x).mem = s.mem := rfl
@[simp] theorem setBkt_poison : (setBkt s i x).poison = s.poison := rfl
@[simp] theorem setBkt_stackUnits : (setBkt s i x).stackUnits = s.stackUnits := rfl
@[simp] theorem setBkt_stackMap : (setBkt s i x).stackMap = s.stackMap := rfl
@[simp] theorem setBkt_packages : (setBkt s i x).packages = s.packages := rfl
@[simp] theorem setBkt_accwSat : (setBkt s i x).accwSat = s.accwSat := rfl
@[simp] theorem setBkt_corrected : (setBkt s i x).corrected = s.corrected := rfl
@[simp] theorem setBkt_poisoned : (setBkt s i x).poisoned = s.poisoned := rfl
@[simp] theorem setBkt_copyEngines : (setBkt s i x).copyEngines = s.copyEngines := rfl
@[simp] theorem setBkt_completions : (setBkt s i x).completions = s.completions := rfl
@[simp] theorem setBkt_clusters : (setBkt s i x).clusters = s.clusters := rfl
@[simp] theorem setBkt_atomSat : (setBkt s i x).atomSat = s.atomSat := rfl
@[simp] theorem setBkt_buckets : (setBkt s i x).buckets = mset s.buckets i x := rfl
@[simp] theorem setBkt_heldShares : (setBkt s i x).heldShares = s.heldShares := rfl
@[simp] theorem setBkt_bktRejects : (setBkt s i x).bktRejects = s.bktRejects := rfl
@[simp] theorem setBkt_bktSat : (setBkt s i x).bktSat = s.bktSat := rfl
@[simp] theorem setBkt_verdict : (setBkt s i x).verdict = s.verdict := rfl
@[simp] theorem setBkt_ues : (setBkt s i x).ues = s.ues := rfl
@[simp] theorem setBkt_latch : (setBkt s i x).latch = s.latch := rfl
@[simp] theorem setBkt_red : (setBkt s i x).red = s.red := rfl
@[simp] theorem setBkt_pushWait : (setBkt s i x).pushWait = s.pushWait := rfl
@[simp] theorem setBkt_pushBad : (setBkt s i x).pushBad = s.pushBad := rfl
@[simp] theorem setBkt_ports : (setBkt s i x).ports = s.ports := rfl
@[simp] theorem setBkt_elsfpOut : (setBkt s i x).elsfpOut = s.elsfpOut := rfl
@[simp] theorem setBkt_laserBad : (setBkt s i x).laserBad = s.laserBad := rfl
@[simp] theorem setBkt_requests : (setBkt s i x).requests = s.requests := rfl
@[simp] theorem setBkt_nextReq : (setBkt s i x).nextReq = s.nextReq := rfl
@[simp] theorem setBkt_seqs : (setBkt s i x).seqs = s.seqs := rfl
@[simp] theorem setBkt_seqTimes : (setBkt s i x).seqTimes = s.seqTimes := rfl
@[simp] theorem setBkt_paths : (setBkt s i x).paths = s.paths := rfl
@[simp] theorem setBkt_pathAt : (setBkt s i x).pathAt = s.pathAt := rfl
@[simp] theorem setBkt_lastEpoch : (setBkt s i x).lastEpoch = s.lastEpoch := rfl
@[simp] theorem setBkt_outbox : (setBkt s i x).outbox = s.outbox := rfl
@[simp] theorem setBkt_lineTimes : (setBkt s i x).lineTimes = s.lineTimes := rfl
@[simp] theorem setBkt_windows : (setBkt s i x).windows = s.windows := rfl
@[simp] theorem setBkt_hotLines : (setBkt s i x).hotLines = s.hotLines := rfl
@[simp] theorem setBkt_headframes : (setBkt s i x).headframes = s.headframes := rfl
@[simp] theorem setBkt_hfErrors : (setBkt s i x).hfErrors = s.hfErrors := rfl
@[simp] theorem setBkt_messages : (setBkt s i x).messages = s.messages := rfl
@[simp] theorem setBkt_msgSeq : (setBkt s i x).msgSeq = s.msgSeq := rfl
@[simp] theorem setBkt_recvSeq : (setBkt s i x).recvSeq = s.recvSeq := rfl
@[simp] theorem setBkt_recvQueues : (setBkt s i x).recvQueues = s.recvQueues := rfl
@[simp] theorem setBkt_queues : (setBkt s i x).queues = s.queues := rfl
@[simp] theorem setBkt_cpLast : (setBkt s i x).cpLast = s.cpLast := rfl
@[simp] theorem setBkt_kernels : (setBkt s i x).kernels = s.kernels := rfl
@[simp] theorem setBkt_nextKernel : (setBkt s i x).nextKernel = s.nextKernel := rfl
@[simp] theorem setBkt_beat : (setBkt s i x).beat = s.beat := rfl
@[simp] theorem setBkt_irqs : (setBkt s i x).irqs = s.irqs := rfl
@[simp] theorem setBkt_msis : (setBkt s i x).msis = s.msis := rfl
@[simp] theorem setBkt_fw : (setBkt s i x).fw = s.fw := rfl
@[simp] theorem setBkt_fwQueue : (setBkt s i x).fwQueue = s.fwQueue := rfl
@[simp] theorem setBkt_fwLog : (setBkt s i x).fwLog = s.fwLog := rfl
@[simp] theorem setBkt_fwLogSeq : (setBkt s i x).fwLogSeq = s.fwLogSeq := rfl
@[simp] theorem setBkt_traceIndex : (setBkt s i x).traceIndex = s.traceIndex := rfl
@[simp] theorem setBkt_traceLast : (setBkt s i x).traceLast = s.traceLast := rfl
@[simp] theorem setBkt_traceDropped : (setBkt s i x).traceDropped = s.traceDropped := rfl
@[simp] theorem setBkt_active : (setBkt s i x).active = s.active := rfl
@[simp] theorem setBkt_shadow : (setBkt s i x).shadow = s.shadow := rfl
@[simp] theorem setBkt_heldB : (setBkt s i x).heldB = s.heldB := rfl
@[simp] theorem setBkt_quickset : (setBkt s i x).quickset = s.quickset := rfl
@[simp] theorem setBkt_sessions : (setBkt s i x).sessions = s.sessions := rfl
@[simp] theorem setBkt_localChan : (setBkt s i x).localChan = s.localChan := rfl
@[simp] theorem setBkt_regRejects : (setBkt s i x).regRejects = s.regRejects := rfl
@[simp] theorem setBkt_overQuota : (setBkt s i x).overQuota = s.overQuota := rfl
@[simp] theorem setBkt_mgmtUp : (setBkt s i x).mgmtUp = s.mgmtUp := rfl
@[simp] theorem setBkt_mgmtReplies : (setBkt s i x).mgmtReplies = s.mgmtReplies := rfl
@[simp] theorem setBkt_dhcpAddr : (setBkt s i x).dhcpAddr = s.dhcpAddr := rfl
@[simp] theorem setBkt_slaacAddr : (setBkt s i x).slaacAddr = s.slaacAddr := rfl
@[simp] theorem setBkt_trust : (setBkt s i x).trust = s.trust := rfl
@[simp] theorem setBkt_channels : (setBkt s i x).channels = s.channels := rfl
@[simp] theorem setBkt_cvus : (setBkt s i x).cvus = s.cvus := rfl
@[simp] theorem setBkt_pit : (setBkt s i x).pit = s.pit := rfl
@[simp] theorem setBkt_opSeconds : (setBkt s i x).opSeconds = s.opSeconds := rfl
@[simp] theorem setBkt_bsb : (setBkt s i x).bsb = s.bsb := rfl
@[simp] theorem setBkt_free : (setBkt s i x).free = s.free := rfl
end

section
variable (s : State) (i : Nat) (x : CopyEngine)
@[simp] theorem setCpe_pending : (setCpe s i x).pending = s.pending := rfl
@[simp] theorem setCpe_held : (setCpe s i x).held = s.held := rfl
@[simp] theorem setCpe_boot : (setCpe s i x).boot = s.boot := rfl
@[simp] theorem setCpe_pins : (setCpe s i x).pins = s.pins := rfl
@[simp] theorem setCpe_tap : (setCpe s i x).tap = s.tap := rfl
@[simp] theorem setCpe_cores : (setCpe s i x).cores = s.cores := rfl
@[simp] theorem setCpe_kept : (setCpe s i x).kept = s.kept := rfl
@[simp] theorem setCpe_pace : (setCpe s i x).pace = s.pace := rfl
@[simp] theorem setCpe_sched : (setCpe s i x).sched = s.sched := rfl
@[simp] theorem setCpe_checkpointWait : (setCpe s i x).checkpointWait = s.checkpointWait := rfl
@[simp] theorem setCpe_fenceWait : (setCpe s i x).fenceWait = s.fenceWait := rfl
@[simp] theorem setCpe_fenceEpochs : (setCpe s i x).fenceEpochs = s.fenceEpochs := rfl
@[simp] theorem setCpe_power : (setCpe s i x).power = s.power := rfl
@[simp] theorem setCpe_cycles : (setCpe s i x).cycles = s.cycles := rfl
@[simp] theorem setCpe_cyclePart : (setCpe s i x).cyclePart = s.cyclePart := rfl
@[simp] theorem setCpe_towers : (setCpe s i x).towers = s.towers := rfl
@[simp] theorem setCpe_mem : (setCpe s i x).mem = s.mem := rfl
@[simp] theorem setCpe_poison : (setCpe s i x).poison = s.poison := rfl
@[simp] theorem setCpe_stackUnits : (setCpe s i x).stackUnits = s.stackUnits := rfl
@[simp] theorem setCpe_stackMap : (setCpe s i x).stackMap = s.stackMap := rfl
@[simp] theorem setCpe_packages : (setCpe s i x).packages = s.packages := rfl
@[simp] theorem setCpe_accwSat : (setCpe s i x).accwSat = s.accwSat := rfl
@[simp] theorem setCpe_corrected : (setCpe s i x).corrected = s.corrected := rfl
@[simp] theorem setCpe_poisoned : (setCpe s i x).poisoned = s.poisoned := rfl
@[simp] theorem setCpe_copyEngines : (setCpe s i x).copyEngines = mset s.copyEngines i x := rfl
@[simp] theorem setCpe_completions : (setCpe s i x).completions = s.completions := rfl
@[simp] theorem setCpe_clusters : (setCpe s i x).clusters = s.clusters := rfl
@[simp] theorem setCpe_atomSat : (setCpe s i x).atomSat = s.atomSat := rfl
@[simp] theorem setCpe_buckets : (setCpe s i x).buckets = s.buckets := rfl
@[simp] theorem setCpe_heldShares : (setCpe s i x).heldShares = s.heldShares := rfl
@[simp] theorem setCpe_bktRejects : (setCpe s i x).bktRejects = s.bktRejects := rfl
@[simp] theorem setCpe_bktSat : (setCpe s i x).bktSat = s.bktSat := rfl
@[simp] theorem setCpe_verdict : (setCpe s i x).verdict = s.verdict := rfl
@[simp] theorem setCpe_ues : (setCpe s i x).ues = s.ues := rfl
@[simp] theorem setCpe_latch : (setCpe s i x).latch = s.latch := rfl
@[simp] theorem setCpe_red : (setCpe s i x).red = s.red := rfl
@[simp] theorem setCpe_pushWait : (setCpe s i x).pushWait = s.pushWait := rfl
@[simp] theorem setCpe_pushBad : (setCpe s i x).pushBad = s.pushBad := rfl
@[simp] theorem setCpe_ports : (setCpe s i x).ports = s.ports := rfl
@[simp] theorem setCpe_elsfpOut : (setCpe s i x).elsfpOut = s.elsfpOut := rfl
@[simp] theorem setCpe_laserBad : (setCpe s i x).laserBad = s.laserBad := rfl
@[simp] theorem setCpe_requests : (setCpe s i x).requests = s.requests := rfl
@[simp] theorem setCpe_nextReq : (setCpe s i x).nextReq = s.nextReq := rfl
@[simp] theorem setCpe_seqs : (setCpe s i x).seqs = s.seqs := rfl
@[simp] theorem setCpe_seqTimes : (setCpe s i x).seqTimes = s.seqTimes := rfl
@[simp] theorem setCpe_paths : (setCpe s i x).paths = s.paths := rfl
@[simp] theorem setCpe_pathAt : (setCpe s i x).pathAt = s.pathAt := rfl
@[simp] theorem setCpe_lastEpoch : (setCpe s i x).lastEpoch = s.lastEpoch := rfl
@[simp] theorem setCpe_outbox : (setCpe s i x).outbox = s.outbox := rfl
@[simp] theorem setCpe_lineTimes : (setCpe s i x).lineTimes = s.lineTimes := rfl
@[simp] theorem setCpe_windows : (setCpe s i x).windows = s.windows := rfl
@[simp] theorem setCpe_hotLines : (setCpe s i x).hotLines = s.hotLines := rfl
@[simp] theorem setCpe_headframes : (setCpe s i x).headframes = s.headframes := rfl
@[simp] theorem setCpe_hfErrors : (setCpe s i x).hfErrors = s.hfErrors := rfl
@[simp] theorem setCpe_messages : (setCpe s i x).messages = s.messages := rfl
@[simp] theorem setCpe_msgSeq : (setCpe s i x).msgSeq = s.msgSeq := rfl
@[simp] theorem setCpe_recvSeq : (setCpe s i x).recvSeq = s.recvSeq := rfl
@[simp] theorem setCpe_recvQueues : (setCpe s i x).recvQueues = s.recvQueues := rfl
@[simp] theorem setCpe_queues : (setCpe s i x).queues = s.queues := rfl
@[simp] theorem setCpe_cpLast : (setCpe s i x).cpLast = s.cpLast := rfl
@[simp] theorem setCpe_kernels : (setCpe s i x).kernels = s.kernels := rfl
@[simp] theorem setCpe_nextKernel : (setCpe s i x).nextKernel = s.nextKernel := rfl
@[simp] theorem setCpe_beat : (setCpe s i x).beat = s.beat := rfl
@[simp] theorem setCpe_irqs : (setCpe s i x).irqs = s.irqs := rfl
@[simp] theorem setCpe_msis : (setCpe s i x).msis = s.msis := rfl
@[simp] theorem setCpe_fw : (setCpe s i x).fw = s.fw := rfl
@[simp] theorem setCpe_fwQueue : (setCpe s i x).fwQueue = s.fwQueue := rfl
@[simp] theorem setCpe_fwLog : (setCpe s i x).fwLog = s.fwLog := rfl
@[simp] theorem setCpe_fwLogSeq : (setCpe s i x).fwLogSeq = s.fwLogSeq := rfl
@[simp] theorem setCpe_traceIndex : (setCpe s i x).traceIndex = s.traceIndex := rfl
@[simp] theorem setCpe_traceLast : (setCpe s i x).traceLast = s.traceLast := rfl
@[simp] theorem setCpe_traceDropped : (setCpe s i x).traceDropped = s.traceDropped := rfl
@[simp] theorem setCpe_active : (setCpe s i x).active = s.active := rfl
@[simp] theorem setCpe_shadow : (setCpe s i x).shadow = s.shadow := rfl
@[simp] theorem setCpe_heldB : (setCpe s i x).heldB = s.heldB := rfl
@[simp] theorem setCpe_quickset : (setCpe s i x).quickset = s.quickset := rfl
@[simp] theorem setCpe_sessions : (setCpe s i x).sessions = s.sessions := rfl
@[simp] theorem setCpe_localChan : (setCpe s i x).localChan = s.localChan := rfl
@[simp] theorem setCpe_regRejects : (setCpe s i x).regRejects = s.regRejects := rfl
@[simp] theorem setCpe_overQuota : (setCpe s i x).overQuota = s.overQuota := rfl
@[simp] theorem setCpe_mgmtUp : (setCpe s i x).mgmtUp = s.mgmtUp := rfl
@[simp] theorem setCpe_mgmtReplies : (setCpe s i x).mgmtReplies = s.mgmtReplies := rfl
@[simp] theorem setCpe_dhcpAddr : (setCpe s i x).dhcpAddr = s.dhcpAddr := rfl
@[simp] theorem setCpe_slaacAddr : (setCpe s i x).slaacAddr = s.slaacAddr := rfl
@[simp] theorem setCpe_trust : (setCpe s i x).trust = s.trust := rfl
@[simp] theorem setCpe_channels : (setCpe s i x).channels = s.channels := rfl
@[simp] theorem setCpe_cvus : (setCpe s i x).cvus = s.cvus := rfl
@[simp] theorem setCpe_pit : (setCpe s i x).pit = s.pit := rfl
@[simp] theorem setCpe_opSeconds : (setCpe s i x).opSeconds = s.opSeconds := rfl
@[simp] theorem setCpe_bsb : (setCpe s i x).bsb = s.bsb := rfl
@[simp] theorem setCpe_free : (setCpe s i x).free = s.free := rfl
end

section
variable (s : State) (i : Nat) (x : Fw)
@[simp] theorem setFwp_pending : (setFwp s i x).pending = s.pending := rfl
@[simp] theorem setFwp_held : (setFwp s i x).held = s.held := rfl
@[simp] theorem setFwp_boot : (setFwp s i x).boot = s.boot := rfl
@[simp] theorem setFwp_pins : (setFwp s i x).pins = s.pins := rfl
@[simp] theorem setFwp_tap : (setFwp s i x).tap = s.tap := rfl
@[simp] theorem setFwp_cores : (setFwp s i x).cores = s.cores := rfl
@[simp] theorem setFwp_kept : (setFwp s i x).kept = s.kept := rfl
@[simp] theorem setFwp_pace : (setFwp s i x).pace = s.pace := rfl
@[simp] theorem setFwp_sched : (setFwp s i x).sched = s.sched := rfl
@[simp] theorem setFwp_checkpointWait : (setFwp s i x).checkpointWait = s.checkpointWait := rfl
@[simp] theorem setFwp_fenceWait : (setFwp s i x).fenceWait = s.fenceWait := rfl
@[simp] theorem setFwp_fenceEpochs : (setFwp s i x).fenceEpochs = s.fenceEpochs := rfl
@[simp] theorem setFwp_power : (setFwp s i x).power = s.power := rfl
@[simp] theorem setFwp_cycles : (setFwp s i x).cycles = s.cycles := rfl
@[simp] theorem setFwp_cyclePart : (setFwp s i x).cyclePart = s.cyclePart := rfl
@[simp] theorem setFwp_towers : (setFwp s i x).towers = s.towers := rfl
@[simp] theorem setFwp_mem : (setFwp s i x).mem = s.mem := rfl
@[simp] theorem setFwp_poison : (setFwp s i x).poison = s.poison := rfl
@[simp] theorem setFwp_stackUnits : (setFwp s i x).stackUnits = s.stackUnits := rfl
@[simp] theorem setFwp_stackMap : (setFwp s i x).stackMap = s.stackMap := rfl
@[simp] theorem setFwp_packages : (setFwp s i x).packages = s.packages := rfl
@[simp] theorem setFwp_accwSat : (setFwp s i x).accwSat = s.accwSat := rfl
@[simp] theorem setFwp_corrected : (setFwp s i x).corrected = s.corrected := rfl
@[simp] theorem setFwp_poisoned : (setFwp s i x).poisoned = s.poisoned := rfl
@[simp] theorem setFwp_copyEngines : (setFwp s i x).copyEngines = s.copyEngines := rfl
@[simp] theorem setFwp_completions : (setFwp s i x).completions = s.completions := rfl
@[simp] theorem setFwp_clusters : (setFwp s i x).clusters = s.clusters := rfl
@[simp] theorem setFwp_atomSat : (setFwp s i x).atomSat = s.atomSat := rfl
@[simp] theorem setFwp_buckets : (setFwp s i x).buckets = s.buckets := rfl
@[simp] theorem setFwp_heldShares : (setFwp s i x).heldShares = s.heldShares := rfl
@[simp] theorem setFwp_bktRejects : (setFwp s i x).bktRejects = s.bktRejects := rfl
@[simp] theorem setFwp_bktSat : (setFwp s i x).bktSat = s.bktSat := rfl
@[simp] theorem setFwp_verdict : (setFwp s i x).verdict = s.verdict := rfl
@[simp] theorem setFwp_ues : (setFwp s i x).ues = s.ues := rfl
@[simp] theorem setFwp_latch : (setFwp s i x).latch = s.latch := rfl
@[simp] theorem setFwp_red : (setFwp s i x).red = s.red := rfl
@[simp] theorem setFwp_pushWait : (setFwp s i x).pushWait = s.pushWait := rfl
@[simp] theorem setFwp_pushBad : (setFwp s i x).pushBad = s.pushBad := rfl
@[simp] theorem setFwp_ports : (setFwp s i x).ports = s.ports := rfl
@[simp] theorem setFwp_elsfpOut : (setFwp s i x).elsfpOut = s.elsfpOut := rfl
@[simp] theorem setFwp_laserBad : (setFwp s i x).laserBad = s.laserBad := rfl
@[simp] theorem setFwp_requests : (setFwp s i x).requests = s.requests := rfl
@[simp] theorem setFwp_nextReq : (setFwp s i x).nextReq = s.nextReq := rfl
@[simp] theorem setFwp_seqs : (setFwp s i x).seqs = s.seqs := rfl
@[simp] theorem setFwp_seqTimes : (setFwp s i x).seqTimes = s.seqTimes := rfl
@[simp] theorem setFwp_paths : (setFwp s i x).paths = s.paths := rfl
@[simp] theorem setFwp_pathAt : (setFwp s i x).pathAt = s.pathAt := rfl
@[simp] theorem setFwp_lastEpoch : (setFwp s i x).lastEpoch = s.lastEpoch := rfl
@[simp] theorem setFwp_outbox : (setFwp s i x).outbox = s.outbox := rfl
@[simp] theorem setFwp_lineTimes : (setFwp s i x).lineTimes = s.lineTimes := rfl
@[simp] theorem setFwp_windows : (setFwp s i x).windows = s.windows := rfl
@[simp] theorem setFwp_hotLines : (setFwp s i x).hotLines = s.hotLines := rfl
@[simp] theorem setFwp_headframes : (setFwp s i x).headframes = s.headframes := rfl
@[simp] theorem setFwp_hfErrors : (setFwp s i x).hfErrors = s.hfErrors := rfl
@[simp] theorem setFwp_messages : (setFwp s i x).messages = s.messages := rfl
@[simp] theorem setFwp_msgSeq : (setFwp s i x).msgSeq = s.msgSeq := rfl
@[simp] theorem setFwp_recvSeq : (setFwp s i x).recvSeq = s.recvSeq := rfl
@[simp] theorem setFwp_recvQueues : (setFwp s i x).recvQueues = s.recvQueues := rfl
@[simp] theorem setFwp_queues : (setFwp s i x).queues = s.queues := rfl
@[simp] theorem setFwp_cpLast : (setFwp s i x).cpLast = s.cpLast := rfl
@[simp] theorem setFwp_kernels : (setFwp s i x).kernels = s.kernels := rfl
@[simp] theorem setFwp_nextKernel : (setFwp s i x).nextKernel = s.nextKernel := rfl
@[simp] theorem setFwp_beat : (setFwp s i x).beat = s.beat := rfl
@[simp] theorem setFwp_irqs : (setFwp s i x).irqs = s.irqs := rfl
@[simp] theorem setFwp_msis : (setFwp s i x).msis = s.msis := rfl
@[simp] theorem setFwp_fw : (setFwp s i x).fw = mset s.fw i x := rfl
@[simp] theorem setFwp_fwQueue : (setFwp s i x).fwQueue = s.fwQueue := rfl
@[simp] theorem setFwp_fwLog : (setFwp s i x).fwLog = s.fwLog := rfl
@[simp] theorem setFwp_fwLogSeq : (setFwp s i x).fwLogSeq = s.fwLogSeq := rfl
@[simp] theorem setFwp_traceIndex : (setFwp s i x).traceIndex = s.traceIndex := rfl
@[simp] theorem setFwp_traceLast : (setFwp s i x).traceLast = s.traceLast := rfl
@[simp] theorem setFwp_traceDropped : (setFwp s i x).traceDropped = s.traceDropped := rfl
@[simp] theorem setFwp_active : (setFwp s i x).active = s.active := rfl
@[simp] theorem setFwp_shadow : (setFwp s i x).shadow = s.shadow := rfl
@[simp] theorem setFwp_heldB : (setFwp s i x).heldB = s.heldB := rfl
@[simp] theorem setFwp_quickset : (setFwp s i x).quickset = s.quickset := rfl
@[simp] theorem setFwp_sessions : (setFwp s i x).sessions = s.sessions := rfl
@[simp] theorem setFwp_localChan : (setFwp s i x).localChan = s.localChan := rfl
@[simp] theorem setFwp_regRejects : (setFwp s i x).regRejects = s.regRejects := rfl
@[simp] theorem setFwp_overQuota : (setFwp s i x).overQuota = s.overQuota := rfl
@[simp] theorem setFwp_mgmtUp : (setFwp s i x).mgmtUp = s.mgmtUp := rfl
@[simp] theorem setFwp_mgmtReplies : (setFwp s i x).mgmtReplies = s.mgmtReplies := rfl
@[simp] theorem setFwp_dhcpAddr : (setFwp s i x).dhcpAddr = s.dhcpAddr := rfl
@[simp] theorem setFwp_slaacAddr : (setFwp s i x).slaacAddr = s.slaacAddr := rfl
@[simp] theorem setFwp_trust : (setFwp s i x).trust = s.trust := rfl
@[simp] theorem setFwp_channels : (setFwp s i x).channels = s.channels := rfl
@[simp] theorem setFwp_cvus : (setFwp s i x).cvus = s.cvus := rfl
@[simp] theorem setFwp_pit : (setFwp s i x).pit = s.pit := rfl
@[simp] theorem setFwp_opSeconds : (setFwp s i x).opSeconds = s.opSeconds := rfl
@[simp] theorem setFwp_bsb : (setFwp s i x).bsb = s.bsb := rfl
@[simp] theorem setFwp_free : (setFwp s i x).free = s.free := rfl
end

section
variable (s : State) (i : Nat) (x : Kernel)
@[simp] theorem setKrn_pending : (setKrn s i x).pending = s.pending := rfl
@[simp] theorem setKrn_held : (setKrn s i x).held = s.held := rfl
@[simp] theorem setKrn_boot : (setKrn s i x).boot = s.boot := rfl
@[simp] theorem setKrn_pins : (setKrn s i x).pins = s.pins := rfl
@[simp] theorem setKrn_tap : (setKrn s i x).tap = s.tap := rfl
@[simp] theorem setKrn_cores : (setKrn s i x).cores = s.cores := rfl
@[simp] theorem setKrn_kept : (setKrn s i x).kept = s.kept := rfl
@[simp] theorem setKrn_pace : (setKrn s i x).pace = s.pace := rfl
@[simp] theorem setKrn_sched : (setKrn s i x).sched = s.sched := rfl
@[simp] theorem setKrn_checkpointWait : (setKrn s i x).checkpointWait = s.checkpointWait := rfl
@[simp] theorem setKrn_fenceWait : (setKrn s i x).fenceWait = s.fenceWait := rfl
@[simp] theorem setKrn_fenceEpochs : (setKrn s i x).fenceEpochs = s.fenceEpochs := rfl
@[simp] theorem setKrn_power : (setKrn s i x).power = s.power := rfl
@[simp] theorem setKrn_cycles : (setKrn s i x).cycles = s.cycles := rfl
@[simp] theorem setKrn_cyclePart : (setKrn s i x).cyclePart = s.cyclePart := rfl
@[simp] theorem setKrn_towers : (setKrn s i x).towers = s.towers := rfl
@[simp] theorem setKrn_mem : (setKrn s i x).mem = s.mem := rfl
@[simp] theorem setKrn_poison : (setKrn s i x).poison = s.poison := rfl
@[simp] theorem setKrn_stackUnits : (setKrn s i x).stackUnits = s.stackUnits := rfl
@[simp] theorem setKrn_stackMap : (setKrn s i x).stackMap = s.stackMap := rfl
@[simp] theorem setKrn_packages : (setKrn s i x).packages = s.packages := rfl
@[simp] theorem setKrn_accwSat : (setKrn s i x).accwSat = s.accwSat := rfl
@[simp] theorem setKrn_corrected : (setKrn s i x).corrected = s.corrected := rfl
@[simp] theorem setKrn_poisoned : (setKrn s i x).poisoned = s.poisoned := rfl
@[simp] theorem setKrn_copyEngines : (setKrn s i x).copyEngines = s.copyEngines := rfl
@[simp] theorem setKrn_completions : (setKrn s i x).completions = s.completions := rfl
@[simp] theorem setKrn_clusters : (setKrn s i x).clusters = s.clusters := rfl
@[simp] theorem setKrn_atomSat : (setKrn s i x).atomSat = s.atomSat := rfl
@[simp] theorem setKrn_buckets : (setKrn s i x).buckets = s.buckets := rfl
@[simp] theorem setKrn_heldShares : (setKrn s i x).heldShares = s.heldShares := rfl
@[simp] theorem setKrn_bktRejects : (setKrn s i x).bktRejects = s.bktRejects := rfl
@[simp] theorem setKrn_bktSat : (setKrn s i x).bktSat = s.bktSat := rfl
@[simp] theorem setKrn_verdict : (setKrn s i x).verdict = s.verdict := rfl
@[simp] theorem setKrn_ues : (setKrn s i x).ues = s.ues := rfl
@[simp] theorem setKrn_latch : (setKrn s i x).latch = s.latch := rfl
@[simp] theorem setKrn_red : (setKrn s i x).red = s.red := rfl
@[simp] theorem setKrn_pushWait : (setKrn s i x).pushWait = s.pushWait := rfl
@[simp] theorem setKrn_pushBad : (setKrn s i x).pushBad = s.pushBad := rfl
@[simp] theorem setKrn_ports : (setKrn s i x).ports = s.ports := rfl
@[simp] theorem setKrn_elsfpOut : (setKrn s i x).elsfpOut = s.elsfpOut := rfl
@[simp] theorem setKrn_laserBad : (setKrn s i x).laserBad = s.laserBad := rfl
@[simp] theorem setKrn_requests : (setKrn s i x).requests = s.requests := rfl
@[simp] theorem setKrn_nextReq : (setKrn s i x).nextReq = s.nextReq := rfl
@[simp] theorem setKrn_seqs : (setKrn s i x).seqs = s.seqs := rfl
@[simp] theorem setKrn_seqTimes : (setKrn s i x).seqTimes = s.seqTimes := rfl
@[simp] theorem setKrn_paths : (setKrn s i x).paths = s.paths := rfl
@[simp] theorem setKrn_pathAt : (setKrn s i x).pathAt = s.pathAt := rfl
@[simp] theorem setKrn_lastEpoch : (setKrn s i x).lastEpoch = s.lastEpoch := rfl
@[simp] theorem setKrn_outbox : (setKrn s i x).outbox = s.outbox := rfl
@[simp] theorem setKrn_lineTimes : (setKrn s i x).lineTimes = s.lineTimes := rfl
@[simp] theorem setKrn_windows : (setKrn s i x).windows = s.windows := rfl
@[simp] theorem setKrn_hotLines : (setKrn s i x).hotLines = s.hotLines := rfl
@[simp] theorem setKrn_headframes : (setKrn s i x).headframes = s.headframes := rfl
@[simp] theorem setKrn_hfErrors : (setKrn s i x).hfErrors = s.hfErrors := rfl
@[simp] theorem setKrn_messages : (setKrn s i x).messages = s.messages := rfl
@[simp] theorem setKrn_msgSeq : (setKrn s i x).msgSeq = s.msgSeq := rfl
@[simp] theorem setKrn_recvSeq : (setKrn s i x).recvSeq = s.recvSeq := rfl
@[simp] theorem setKrn_recvQueues : (setKrn s i x).recvQueues = s.recvQueues := rfl
@[simp] theorem setKrn_queues : (setKrn s i x).queues = s.queues := rfl
@[simp] theorem setKrn_cpLast : (setKrn s i x).cpLast = s.cpLast := rfl
@[simp] theorem setKrn_kernels : (setKrn s i x).kernels = mset s.kernels i x := rfl
@[simp] theorem setKrn_nextKernel : (setKrn s i x).nextKernel = s.nextKernel := rfl
@[simp] theorem setKrn_beat : (setKrn s i x).beat = s.beat := rfl
@[simp] theorem setKrn_irqs : (setKrn s i x).irqs = s.irqs := rfl
@[simp] theorem setKrn_msis : (setKrn s i x).msis = s.msis := rfl
@[simp] theorem setKrn_fw : (setKrn s i x).fw = s.fw := rfl
@[simp] theorem setKrn_fwQueue : (setKrn s i x).fwQueue = s.fwQueue := rfl
@[simp] theorem setKrn_fwLog : (setKrn s i x).fwLog = s.fwLog := rfl
@[simp] theorem setKrn_fwLogSeq : (setKrn s i x).fwLogSeq = s.fwLogSeq := rfl
@[simp] theorem setKrn_traceIndex : (setKrn s i x).traceIndex = s.traceIndex := rfl
@[simp] theorem setKrn_traceLast : (setKrn s i x).traceLast = s.traceLast := rfl
@[simp] theorem setKrn_traceDropped : (setKrn s i x).traceDropped = s.traceDropped := rfl
@[simp] theorem setKrn_active : (setKrn s i x).active = s.active := rfl
@[simp] theorem setKrn_shadow : (setKrn s i x).shadow = s.shadow := rfl
@[simp] theorem setKrn_heldB : (setKrn s i x).heldB = s.heldB := rfl
@[simp] theorem setKrn_quickset : (setKrn s i x).quickset = s.quickset := rfl
@[simp] theorem setKrn_sessions : (setKrn s i x).sessions = s.sessions := rfl
@[simp] theorem setKrn_localChan : (setKrn s i x).localChan = s.localChan := rfl
@[simp] theorem setKrn_regRejects : (setKrn s i x).regRejects = s.regRejects := rfl
@[simp] theorem setKrn_overQuota : (setKrn s i x).overQuota = s.overQuota := rfl
@[simp] theorem setKrn_mgmtUp : (setKrn s i x).mgmtUp = s.mgmtUp := rfl
@[simp] theorem setKrn_mgmtReplies : (setKrn s i x).mgmtReplies = s.mgmtReplies := rfl
@[simp] theorem setKrn_dhcpAddr : (setKrn s i x).dhcpAddr = s.dhcpAddr := rfl
@[simp] theorem setKrn_slaacAddr : (setKrn s i x).slaacAddr = s.slaacAddr := rfl
@[simp] theorem setKrn_trust : (setKrn s i x).trust = s.trust := rfl
@[simp] theorem setKrn_channels : (setKrn s i x).channels = s.channels := rfl
@[simp] theorem setKrn_cvus : (setKrn s i x).cvus = s.cvus := rfl
@[simp] theorem setKrn_pit : (setKrn s i x).pit = s.pit := rfl
@[simp] theorem setKrn_opSeconds : (setKrn s i x).opSeconds = s.opSeconds := rfl
@[simp] theorem setKrn_bsb : (setKrn s i x).bsb = s.bsb := rfl
@[simp] theorem setKrn_free : (setKrn s i x).free = s.free := rfl
end

section
variable (s : State) (i : Nat) (x : Headframe)
@[simp] theorem setHf_pending : (setHf s i x).pending = s.pending := rfl
@[simp] theorem setHf_held : (setHf s i x).held = s.held := rfl
@[simp] theorem setHf_boot : (setHf s i x).boot = s.boot := rfl
@[simp] theorem setHf_pins : (setHf s i x).pins = s.pins := rfl
@[simp] theorem setHf_tap : (setHf s i x).tap = s.tap := rfl
@[simp] theorem setHf_cores : (setHf s i x).cores = s.cores := rfl
@[simp] theorem setHf_kept : (setHf s i x).kept = s.kept := rfl
@[simp] theorem setHf_pace : (setHf s i x).pace = s.pace := rfl
@[simp] theorem setHf_sched : (setHf s i x).sched = s.sched := rfl
@[simp] theorem setHf_checkpointWait : (setHf s i x).checkpointWait = s.checkpointWait := rfl
@[simp] theorem setHf_fenceWait : (setHf s i x).fenceWait = s.fenceWait := rfl
@[simp] theorem setHf_fenceEpochs : (setHf s i x).fenceEpochs = s.fenceEpochs := rfl
@[simp] theorem setHf_power : (setHf s i x).power = s.power := rfl
@[simp] theorem setHf_cycles : (setHf s i x).cycles = s.cycles := rfl
@[simp] theorem setHf_cyclePart : (setHf s i x).cyclePart = s.cyclePart := rfl
@[simp] theorem setHf_towers : (setHf s i x).towers = s.towers := rfl
@[simp] theorem setHf_mem : (setHf s i x).mem = s.mem := rfl
@[simp] theorem setHf_poison : (setHf s i x).poison = s.poison := rfl
@[simp] theorem setHf_stackUnits : (setHf s i x).stackUnits = s.stackUnits := rfl
@[simp] theorem setHf_stackMap : (setHf s i x).stackMap = s.stackMap := rfl
@[simp] theorem setHf_packages : (setHf s i x).packages = s.packages := rfl
@[simp] theorem setHf_accwSat : (setHf s i x).accwSat = s.accwSat := rfl
@[simp] theorem setHf_corrected : (setHf s i x).corrected = s.corrected := rfl
@[simp] theorem setHf_poisoned : (setHf s i x).poisoned = s.poisoned := rfl
@[simp] theorem setHf_copyEngines : (setHf s i x).copyEngines = s.copyEngines := rfl
@[simp] theorem setHf_completions : (setHf s i x).completions = s.completions := rfl
@[simp] theorem setHf_clusters : (setHf s i x).clusters = s.clusters := rfl
@[simp] theorem setHf_atomSat : (setHf s i x).atomSat = s.atomSat := rfl
@[simp] theorem setHf_buckets : (setHf s i x).buckets = s.buckets := rfl
@[simp] theorem setHf_heldShares : (setHf s i x).heldShares = s.heldShares := rfl
@[simp] theorem setHf_bktRejects : (setHf s i x).bktRejects = s.bktRejects := rfl
@[simp] theorem setHf_bktSat : (setHf s i x).bktSat = s.bktSat := rfl
@[simp] theorem setHf_verdict : (setHf s i x).verdict = s.verdict := rfl
@[simp] theorem setHf_ues : (setHf s i x).ues = s.ues := rfl
@[simp] theorem setHf_latch : (setHf s i x).latch = s.latch := rfl
@[simp] theorem setHf_red : (setHf s i x).red = s.red := rfl
@[simp] theorem setHf_pushWait : (setHf s i x).pushWait = s.pushWait := rfl
@[simp] theorem setHf_pushBad : (setHf s i x).pushBad = s.pushBad := rfl
@[simp] theorem setHf_ports : (setHf s i x).ports = s.ports := rfl
@[simp] theorem setHf_elsfpOut : (setHf s i x).elsfpOut = s.elsfpOut := rfl
@[simp] theorem setHf_laserBad : (setHf s i x).laserBad = s.laserBad := rfl
@[simp] theorem setHf_requests : (setHf s i x).requests = s.requests := rfl
@[simp] theorem setHf_nextReq : (setHf s i x).nextReq = s.nextReq := rfl
@[simp] theorem setHf_seqs : (setHf s i x).seqs = s.seqs := rfl
@[simp] theorem setHf_seqTimes : (setHf s i x).seqTimes = s.seqTimes := rfl
@[simp] theorem setHf_paths : (setHf s i x).paths = s.paths := rfl
@[simp] theorem setHf_pathAt : (setHf s i x).pathAt = s.pathAt := rfl
@[simp] theorem setHf_lastEpoch : (setHf s i x).lastEpoch = s.lastEpoch := rfl
@[simp] theorem setHf_outbox : (setHf s i x).outbox = s.outbox := rfl
@[simp] theorem setHf_lineTimes : (setHf s i x).lineTimes = s.lineTimes := rfl
@[simp] theorem setHf_windows : (setHf s i x).windows = s.windows := rfl
@[simp] theorem setHf_hotLines : (setHf s i x).hotLines = s.hotLines := rfl
@[simp] theorem setHf_headframes : (setHf s i x).headframes = mset s.headframes i x := rfl
@[simp] theorem setHf_hfErrors : (setHf s i x).hfErrors = s.hfErrors := rfl
@[simp] theorem setHf_messages : (setHf s i x).messages = s.messages := rfl
@[simp] theorem setHf_msgSeq : (setHf s i x).msgSeq = s.msgSeq := rfl
@[simp] theorem setHf_recvSeq : (setHf s i x).recvSeq = s.recvSeq := rfl
@[simp] theorem setHf_recvQueues : (setHf s i x).recvQueues = s.recvQueues := rfl
@[simp] theorem setHf_queues : (setHf s i x).queues = s.queues := rfl
@[simp] theorem setHf_cpLast : (setHf s i x).cpLast = s.cpLast := rfl
@[simp] theorem setHf_kernels : (setHf s i x).kernels = s.kernels := rfl
@[simp] theorem setHf_nextKernel : (setHf s i x).nextKernel = s.nextKernel := rfl
@[simp] theorem setHf_beat : (setHf s i x).beat = s.beat := rfl
@[simp] theorem setHf_irqs : (setHf s i x).irqs = s.irqs := rfl
@[simp] theorem setHf_msis : (setHf s i x).msis = s.msis := rfl
@[simp] theorem setHf_fw : (setHf s i x).fw = s.fw := rfl
@[simp] theorem setHf_fwQueue : (setHf s i x).fwQueue = s.fwQueue := rfl
@[simp] theorem setHf_fwLog : (setHf s i x).fwLog = s.fwLog := rfl
@[simp] theorem setHf_fwLogSeq : (setHf s i x).fwLogSeq = s.fwLogSeq := rfl
@[simp] theorem setHf_traceIndex : (setHf s i x).traceIndex = s.traceIndex := rfl
@[simp] theorem setHf_traceLast : (setHf s i x).traceLast = s.traceLast := rfl
@[simp] theorem setHf_traceDropped : (setHf s i x).traceDropped = s.traceDropped := rfl
@[simp] theorem setHf_active : (setHf s i x).active = s.active := rfl
@[simp] theorem setHf_shadow : (setHf s i x).shadow = s.shadow := rfl
@[simp] theorem setHf_heldB : (setHf s i x).heldB = s.heldB := rfl
@[simp] theorem setHf_quickset : (setHf s i x).quickset = s.quickset := rfl
@[simp] theorem setHf_sessions : (setHf s i x).sessions = s.sessions := rfl
@[simp] theorem setHf_localChan : (setHf s i x).localChan = s.localChan := rfl
@[simp] theorem setHf_regRejects : (setHf s i x).regRejects = s.regRejects := rfl
@[simp] theorem setHf_overQuota : (setHf s i x).overQuota = s.overQuota := rfl
@[simp] theorem setHf_mgmtUp : (setHf s i x).mgmtUp = s.mgmtUp := rfl
@[simp] theorem setHf_mgmtReplies : (setHf s i x).mgmtReplies = s.mgmtReplies := rfl
@[simp] theorem setHf_dhcpAddr : (setHf s i x).dhcpAddr = s.dhcpAddr := rfl
@[simp] theorem setHf_slaacAddr : (setHf s i x).slaacAddr = s.slaacAddr := rfl
@[simp] theorem setHf_trust : (setHf s i x).trust = s.trust := rfl
@[simp] theorem setHf_channels : (setHf s i x).channels = s.channels := rfl
@[simp] theorem setHf_cvus : (setHf s i x).cvus = s.cvus := rfl
@[simp] theorem setHf_pit : (setHf s i x).pit = s.pit := rfl
@[simp] theorem setHf_opSeconds : (setHf s i x).opSeconds = s.opSeconds := rfl
@[simp] theorem setHf_bsb : (setHf s i x).bsb = s.bsb := rfl
@[simp] theorem setHf_free : (setHf s i x).free = s.free := rfl
end

section
variable (s : State) (i : Nat) (x : Session)
@[simp] theorem setSession_pending : (setSession s i x).pending = s.pending := rfl
@[simp] theorem setSession_held : (setSession s i x).held = s.held := rfl
@[simp] theorem setSession_boot : (setSession s i x).boot = s.boot := rfl
@[simp] theorem setSession_pins : (setSession s i x).pins = s.pins := rfl
@[simp] theorem setSession_tap : (setSession s i x).tap = s.tap := rfl
@[simp] theorem setSession_cores : (setSession s i x).cores = s.cores := rfl
@[simp] theorem setSession_kept : (setSession s i x).kept = s.kept := rfl
@[simp] theorem setSession_pace : (setSession s i x).pace = s.pace := rfl
@[simp] theorem setSession_sched : (setSession s i x).sched = s.sched := rfl
@[simp] theorem setSession_checkpointWait : (setSession s i x).checkpointWait = s.checkpointWait := rfl
@[simp] theorem setSession_fenceWait : (setSession s i x).fenceWait = s.fenceWait := rfl
@[simp] theorem setSession_fenceEpochs : (setSession s i x).fenceEpochs = s.fenceEpochs := rfl
@[simp] theorem setSession_power : (setSession s i x).power = s.power := rfl
@[simp] theorem setSession_cycles : (setSession s i x).cycles = s.cycles := rfl
@[simp] theorem setSession_cyclePart : (setSession s i x).cyclePart = s.cyclePart := rfl
@[simp] theorem setSession_towers : (setSession s i x).towers = s.towers := rfl
@[simp] theorem setSession_mem : (setSession s i x).mem = s.mem := rfl
@[simp] theorem setSession_poison : (setSession s i x).poison = s.poison := rfl
@[simp] theorem setSession_stackUnits : (setSession s i x).stackUnits = s.stackUnits := rfl
@[simp] theorem setSession_stackMap : (setSession s i x).stackMap = s.stackMap := rfl
@[simp] theorem setSession_packages : (setSession s i x).packages = s.packages := rfl
@[simp] theorem setSession_accwSat : (setSession s i x).accwSat = s.accwSat := rfl
@[simp] theorem setSession_corrected : (setSession s i x).corrected = s.corrected := rfl
@[simp] theorem setSession_poisoned : (setSession s i x).poisoned = s.poisoned := rfl
@[simp] theorem setSession_copyEngines : (setSession s i x).copyEngines = s.copyEngines := rfl
@[simp] theorem setSession_completions : (setSession s i x).completions = s.completions := rfl
@[simp] theorem setSession_clusters : (setSession s i x).clusters = s.clusters := rfl
@[simp] theorem setSession_atomSat : (setSession s i x).atomSat = s.atomSat := rfl
@[simp] theorem setSession_buckets : (setSession s i x).buckets = s.buckets := rfl
@[simp] theorem setSession_heldShares : (setSession s i x).heldShares = s.heldShares := rfl
@[simp] theorem setSession_bktRejects : (setSession s i x).bktRejects = s.bktRejects := rfl
@[simp] theorem setSession_bktSat : (setSession s i x).bktSat = s.bktSat := rfl
@[simp] theorem setSession_verdict : (setSession s i x).verdict = s.verdict := rfl
@[simp] theorem setSession_ues : (setSession s i x).ues = s.ues := rfl
@[simp] theorem setSession_latch : (setSession s i x).latch = s.latch := rfl
@[simp] theorem setSession_red : (setSession s i x).red = s.red := rfl
@[simp] theorem setSession_pushWait : (setSession s i x).pushWait = s.pushWait := rfl
@[simp] theorem setSession_pushBad : (setSession s i x).pushBad = s.pushBad := rfl
@[simp] theorem setSession_ports : (setSession s i x).ports = s.ports := rfl
@[simp] theorem setSession_elsfpOut : (setSession s i x).elsfpOut = s.elsfpOut := rfl
@[simp] theorem setSession_laserBad : (setSession s i x).laserBad = s.laserBad := rfl
@[simp] theorem setSession_requests : (setSession s i x).requests = s.requests := rfl
@[simp] theorem setSession_nextReq : (setSession s i x).nextReq = s.nextReq := rfl
@[simp] theorem setSession_seqs : (setSession s i x).seqs = s.seqs := rfl
@[simp] theorem setSession_seqTimes : (setSession s i x).seqTimes = s.seqTimes := rfl
@[simp] theorem setSession_paths : (setSession s i x).paths = s.paths := rfl
@[simp] theorem setSession_pathAt : (setSession s i x).pathAt = s.pathAt := rfl
@[simp] theorem setSession_lastEpoch : (setSession s i x).lastEpoch = s.lastEpoch := rfl
@[simp] theorem setSession_outbox : (setSession s i x).outbox = s.outbox := rfl
@[simp] theorem setSession_lineTimes : (setSession s i x).lineTimes = s.lineTimes := rfl
@[simp] theorem setSession_windows : (setSession s i x).windows = s.windows := rfl
@[simp] theorem setSession_hotLines : (setSession s i x).hotLines = s.hotLines := rfl
@[simp] theorem setSession_headframes : (setSession s i x).headframes = s.headframes := rfl
@[simp] theorem setSession_hfErrors : (setSession s i x).hfErrors = s.hfErrors := rfl
@[simp] theorem setSession_messages : (setSession s i x).messages = s.messages := rfl
@[simp] theorem setSession_msgSeq : (setSession s i x).msgSeq = s.msgSeq := rfl
@[simp] theorem setSession_recvSeq : (setSession s i x).recvSeq = s.recvSeq := rfl
@[simp] theorem setSession_recvQueues : (setSession s i x).recvQueues = s.recvQueues := rfl
@[simp] theorem setSession_queues : (setSession s i x).queues = s.queues := rfl
@[simp] theorem setSession_cpLast : (setSession s i x).cpLast = s.cpLast := rfl
@[simp] theorem setSession_kernels : (setSession s i x).kernels = s.kernels := rfl
@[simp] theorem setSession_nextKernel : (setSession s i x).nextKernel = s.nextKernel := rfl
@[simp] theorem setSession_beat : (setSession s i x).beat = s.beat := rfl
@[simp] theorem setSession_irqs : (setSession s i x).irqs = s.irqs := rfl
@[simp] theorem setSession_msis : (setSession s i x).msis = s.msis := rfl
@[simp] theorem setSession_fw : (setSession s i x).fw = s.fw := rfl
@[simp] theorem setSession_fwQueue : (setSession s i x).fwQueue = s.fwQueue := rfl
@[simp] theorem setSession_fwLog : (setSession s i x).fwLog = s.fwLog := rfl
@[simp] theorem setSession_fwLogSeq : (setSession s i x).fwLogSeq = s.fwLogSeq := rfl
@[simp] theorem setSession_traceIndex : (setSession s i x).traceIndex = s.traceIndex := rfl
@[simp] theorem setSession_traceLast : (setSession s i x).traceLast = s.traceLast := rfl
@[simp] theorem setSession_traceDropped : (setSession s i x).traceDropped = s.traceDropped := rfl
@[simp] theorem setSession_active : (setSession s i x).active = s.active := rfl
@[simp] theorem setSession_shadow : (setSession s i x).shadow = s.shadow := rfl
@[simp] theorem setSession_heldB : (setSession s i x).heldB = s.heldB := rfl
@[simp] theorem setSession_quickset : (setSession s i x).quickset = s.quickset := rfl
@[simp] theorem setSession_sessions : (setSession s i x).sessions = mset s.sessions i x := rfl
@[simp] theorem setSession_localChan : (setSession s i x).localChan = s.localChan := rfl
@[simp] theorem setSession_regRejects : (setSession s i x).regRejects = s.regRejects := rfl
@[simp] theorem setSession_overQuota : (setSession s i x).overQuota = s.overQuota := rfl
@[simp] theorem setSession_mgmtUp : (setSession s i x).mgmtUp = s.mgmtUp := rfl
@[simp] theorem setSession_mgmtReplies : (setSession s i x).mgmtReplies = s.mgmtReplies := rfl
@[simp] theorem setSession_dhcpAddr : (setSession s i x).dhcpAddr = s.dhcpAddr := rfl
@[simp] theorem setSession_slaacAddr : (setSession s i x).slaacAddr = s.slaacAddr := rfl
@[simp] theorem setSession_trust : (setSession s i x).trust = s.trust := rfl
@[simp] theorem setSession_channels : (setSession s i x).channels = s.channels := rfl
@[simp] theorem setSession_cvus : (setSession s i x).cvus = s.cvus := rfl
@[simp] theorem setSession_pit : (setSession s i x).pit = s.pit := rfl
@[simp] theorem setSession_opSeconds : (setSession s i x).opSeconds = s.opSeconds := rfl
@[simp] theorem setSession_bsb : (setSession s i x).bsb = s.bsb := rfl
@[simp] theorem setSession_free : (setSession s i x).free = s.free := rfl
end

section
variable (s : State) (i : Nat) (x : Cvu)
@[simp] theorem setCvu_pending : (setCvu s i x).pending = s.pending := rfl
@[simp] theorem setCvu_held : (setCvu s i x).held = s.held := rfl
@[simp] theorem setCvu_boot : (setCvu s i x).boot = s.boot := rfl
@[simp] theorem setCvu_pins : (setCvu s i x).pins = s.pins := rfl
@[simp] theorem setCvu_tap : (setCvu s i x).tap = s.tap := rfl
@[simp] theorem setCvu_cores : (setCvu s i x).cores = s.cores := rfl
@[simp] theorem setCvu_kept : (setCvu s i x).kept = s.kept := rfl
@[simp] theorem setCvu_pace : (setCvu s i x).pace = s.pace := rfl
@[simp] theorem setCvu_sched : (setCvu s i x).sched = s.sched := rfl
@[simp] theorem setCvu_checkpointWait : (setCvu s i x).checkpointWait = s.checkpointWait := rfl
@[simp] theorem setCvu_fenceWait : (setCvu s i x).fenceWait = s.fenceWait := rfl
@[simp] theorem setCvu_fenceEpochs : (setCvu s i x).fenceEpochs = s.fenceEpochs := rfl
@[simp] theorem setCvu_power : (setCvu s i x).power = s.power := rfl
@[simp] theorem setCvu_cycles : (setCvu s i x).cycles = s.cycles := rfl
@[simp] theorem setCvu_cyclePart : (setCvu s i x).cyclePart = s.cyclePart := rfl
@[simp] theorem setCvu_towers : (setCvu s i x).towers = s.towers := rfl
@[simp] theorem setCvu_mem : (setCvu s i x).mem = s.mem := rfl
@[simp] theorem setCvu_poison : (setCvu s i x).poison = s.poison := rfl
@[simp] theorem setCvu_stackUnits : (setCvu s i x).stackUnits = s.stackUnits := rfl
@[simp] theorem setCvu_stackMap : (setCvu s i x).stackMap = s.stackMap := rfl
@[simp] theorem setCvu_packages : (setCvu s i x).packages = s.packages := rfl
@[simp] theorem setCvu_accwSat : (setCvu s i x).accwSat = s.accwSat := rfl
@[simp] theorem setCvu_corrected : (setCvu s i x).corrected = s.corrected := rfl
@[simp] theorem setCvu_poisoned : (setCvu s i x).poisoned = s.poisoned := rfl
@[simp] theorem setCvu_copyEngines : (setCvu s i x).copyEngines = s.copyEngines := rfl
@[simp] theorem setCvu_completions : (setCvu s i x).completions = s.completions := rfl
@[simp] theorem setCvu_clusters : (setCvu s i x).clusters = s.clusters := rfl
@[simp] theorem setCvu_atomSat : (setCvu s i x).atomSat = s.atomSat := rfl
@[simp] theorem setCvu_buckets : (setCvu s i x).buckets = s.buckets := rfl
@[simp] theorem setCvu_heldShares : (setCvu s i x).heldShares = s.heldShares := rfl
@[simp] theorem setCvu_bktRejects : (setCvu s i x).bktRejects = s.bktRejects := rfl
@[simp] theorem setCvu_bktSat : (setCvu s i x).bktSat = s.bktSat := rfl
@[simp] theorem setCvu_verdict : (setCvu s i x).verdict = s.verdict := rfl
@[simp] theorem setCvu_ues : (setCvu s i x).ues = s.ues := rfl
@[simp] theorem setCvu_latch : (setCvu s i x).latch = s.latch := rfl
@[simp] theorem setCvu_red : (setCvu s i x).red = s.red := rfl
@[simp] theorem setCvu_pushWait : (setCvu s i x).pushWait = s.pushWait := rfl
@[simp] theorem setCvu_pushBad : (setCvu s i x).pushBad = s.pushBad := rfl
@[simp] theorem setCvu_ports : (setCvu s i x).ports = s.ports := rfl
@[simp] theorem setCvu_elsfpOut : (setCvu s i x).elsfpOut = s.elsfpOut := rfl
@[simp] theorem setCvu_laserBad : (setCvu s i x).laserBad = s.laserBad := rfl
@[simp] theorem setCvu_requests : (setCvu s i x).requests = s.requests := rfl
@[simp] theorem setCvu_nextReq : (setCvu s i x).nextReq = s.nextReq := rfl
@[simp] theorem setCvu_seqs : (setCvu s i x).seqs = s.seqs := rfl
@[simp] theorem setCvu_seqTimes : (setCvu s i x).seqTimes = s.seqTimes := rfl
@[simp] theorem setCvu_paths : (setCvu s i x).paths = s.paths := rfl
@[simp] theorem setCvu_pathAt : (setCvu s i x).pathAt = s.pathAt := rfl
@[simp] theorem setCvu_lastEpoch : (setCvu s i x).lastEpoch = s.lastEpoch := rfl
@[simp] theorem setCvu_outbox : (setCvu s i x).outbox = s.outbox := rfl
@[simp] theorem setCvu_lineTimes : (setCvu s i x).lineTimes = s.lineTimes := rfl
@[simp] theorem setCvu_windows : (setCvu s i x).windows = s.windows := rfl
@[simp] theorem setCvu_hotLines : (setCvu s i x).hotLines = s.hotLines := rfl
@[simp] theorem setCvu_headframes : (setCvu s i x).headframes = s.headframes := rfl
@[simp] theorem setCvu_hfErrors : (setCvu s i x).hfErrors = s.hfErrors := rfl
@[simp] theorem setCvu_messages : (setCvu s i x).messages = s.messages := rfl
@[simp] theorem setCvu_msgSeq : (setCvu s i x).msgSeq = s.msgSeq := rfl
@[simp] theorem setCvu_recvSeq : (setCvu s i x).recvSeq = s.recvSeq := rfl
@[simp] theorem setCvu_recvQueues : (setCvu s i x).recvQueues = s.recvQueues := rfl
@[simp] theorem setCvu_queues : (setCvu s i x).queues = s.queues := rfl
@[simp] theorem setCvu_cpLast : (setCvu s i x).cpLast = s.cpLast := rfl
@[simp] theorem setCvu_kernels : (setCvu s i x).kernels = s.kernels := rfl
@[simp] theorem setCvu_nextKernel : (setCvu s i x).nextKernel = s.nextKernel := rfl
@[simp] theorem setCvu_beat : (setCvu s i x).beat = s.beat := rfl
@[simp] theorem setCvu_irqs : (setCvu s i x).irqs = s.irqs := rfl
@[simp] theorem setCvu_msis : (setCvu s i x).msis = s.msis := rfl
@[simp] theorem setCvu_fw : (setCvu s i x).fw = s.fw := rfl
@[simp] theorem setCvu_fwQueue : (setCvu s i x).fwQueue = s.fwQueue := rfl
@[simp] theorem setCvu_fwLog : (setCvu s i x).fwLog = s.fwLog := rfl
@[simp] theorem setCvu_fwLogSeq : (setCvu s i x).fwLogSeq = s.fwLogSeq := rfl
@[simp] theorem setCvu_traceIndex : (setCvu s i x).traceIndex = s.traceIndex := rfl
@[simp] theorem setCvu_traceLast : (setCvu s i x).traceLast = s.traceLast := rfl
@[simp] theorem setCvu_traceDropped : (setCvu s i x).traceDropped = s.traceDropped := rfl
@[simp] theorem setCvu_active : (setCvu s i x).active = s.active := rfl
@[simp] theorem setCvu_shadow : (setCvu s i x).shadow = s.shadow := rfl
@[simp] theorem setCvu_heldB : (setCvu s i x).heldB = s.heldB := rfl
@[simp] theorem setCvu_quickset : (setCvu s i x).quickset = s.quickset := rfl
@[simp] theorem setCvu_sessions : (setCvu s i x).sessions = s.sessions := rfl
@[simp] theorem setCvu_localChan : (setCvu s i x).localChan = s.localChan := rfl
@[simp] theorem setCvu_regRejects : (setCvu s i x).regRejects = s.regRejects := rfl
@[simp] theorem setCvu_overQuota : (setCvu s i x).overQuota = s.overQuota := rfl
@[simp] theorem setCvu_mgmtUp : (setCvu s i x).mgmtUp = s.mgmtUp := rfl
@[simp] theorem setCvu_mgmtReplies : (setCvu s i x).mgmtReplies = s.mgmtReplies := rfl
@[simp] theorem setCvu_dhcpAddr : (setCvu s i x).dhcpAddr = s.dhcpAddr := rfl
@[simp] theorem setCvu_slaacAddr : (setCvu s i x).slaacAddr = s.slaacAddr := rfl
@[simp] theorem setCvu_trust : (setCvu s i x).trust = s.trust := rfl
@[simp] theorem setCvu_channels : (setCvu s i x).channels = s.channels := rfl
@[simp] theorem setCvu_cvus : (setCvu s i x).cvus = mset s.cvus i x := rfl
@[simp] theorem setCvu_pit : (setCvu s i x).pit = s.pit := rfl
@[simp] theorem setCvu_opSeconds : (setCvu s i x).opSeconds = s.opSeconds := rfl
@[simp] theorem setCvu_bsb : (setCvu s i x).bsb = s.bsb := rfl
@[simp] theorem setCvu_free : (setCvu s i x).free = s.free := rfl
end

section
variable (s : State) (i : Nat) (x : Sched)
@[simp] theorem setSched_pending : (setSched s i x).pending = s.pending := rfl
@[simp] theorem setSched_held : (setSched s i x).held = s.held := rfl
@[simp] theorem setSched_boot : (setSched s i x).boot = s.boot := rfl
@[simp] theorem setSched_pins : (setSched s i x).pins = s.pins := rfl
@[simp] theorem setSched_tap : (setSched s i x).tap = s.tap := rfl
@[simp] theorem setSched_cores : (setSched s i x).cores = s.cores := rfl
@[simp] theorem setSched_kept : (setSched s i x).kept = s.kept := rfl
@[simp] theorem setSched_pace : (setSched s i x).pace = s.pace := rfl
@[simp] theorem setSched_sched : (setSched s i x).sched = mset s.sched i x := rfl
@[simp] theorem setSched_checkpointWait : (setSched s i x).checkpointWait = s.checkpointWait := rfl
@[simp] theorem setSched_fenceWait : (setSched s i x).fenceWait = s.fenceWait := rfl
@[simp] theorem setSched_fenceEpochs : (setSched s i x).fenceEpochs = s.fenceEpochs := rfl
@[simp] theorem setSched_power : (setSched s i x).power = s.power := rfl
@[simp] theorem setSched_cycles : (setSched s i x).cycles = s.cycles := rfl
@[simp] theorem setSched_cyclePart : (setSched s i x).cyclePart = s.cyclePart := rfl
@[simp] theorem setSched_towers : (setSched s i x).towers = s.towers := rfl
@[simp] theorem setSched_mem : (setSched s i x).mem = s.mem := rfl
@[simp] theorem setSched_poison : (setSched s i x).poison = s.poison := rfl
@[simp] theorem setSched_stackUnits : (setSched s i x).stackUnits = s.stackUnits := rfl
@[simp] theorem setSched_stackMap : (setSched s i x).stackMap = s.stackMap := rfl
@[simp] theorem setSched_packages : (setSched s i x).packages = s.packages := rfl
@[simp] theorem setSched_accwSat : (setSched s i x).accwSat = s.accwSat := rfl
@[simp] theorem setSched_corrected : (setSched s i x).corrected = s.corrected := rfl
@[simp] theorem setSched_poisoned : (setSched s i x).poisoned = s.poisoned := rfl
@[simp] theorem setSched_copyEngines : (setSched s i x).copyEngines = s.copyEngines := rfl
@[simp] theorem setSched_completions : (setSched s i x).completions = s.completions := rfl
@[simp] theorem setSched_clusters : (setSched s i x).clusters = s.clusters := rfl
@[simp] theorem setSched_atomSat : (setSched s i x).atomSat = s.atomSat := rfl
@[simp] theorem setSched_buckets : (setSched s i x).buckets = s.buckets := rfl
@[simp] theorem setSched_heldShares : (setSched s i x).heldShares = s.heldShares := rfl
@[simp] theorem setSched_bktRejects : (setSched s i x).bktRejects = s.bktRejects := rfl
@[simp] theorem setSched_bktSat : (setSched s i x).bktSat = s.bktSat := rfl
@[simp] theorem setSched_verdict : (setSched s i x).verdict = s.verdict := rfl
@[simp] theorem setSched_ues : (setSched s i x).ues = s.ues := rfl
@[simp] theorem setSched_latch : (setSched s i x).latch = s.latch := rfl
@[simp] theorem setSched_red : (setSched s i x).red = s.red := rfl
@[simp] theorem setSched_pushWait : (setSched s i x).pushWait = s.pushWait := rfl
@[simp] theorem setSched_pushBad : (setSched s i x).pushBad = s.pushBad := rfl
@[simp] theorem setSched_ports : (setSched s i x).ports = s.ports := rfl
@[simp] theorem setSched_elsfpOut : (setSched s i x).elsfpOut = s.elsfpOut := rfl
@[simp] theorem setSched_laserBad : (setSched s i x).laserBad = s.laserBad := rfl
@[simp] theorem setSched_requests : (setSched s i x).requests = s.requests := rfl
@[simp] theorem setSched_nextReq : (setSched s i x).nextReq = s.nextReq := rfl
@[simp] theorem setSched_seqs : (setSched s i x).seqs = s.seqs := rfl
@[simp] theorem setSched_seqTimes : (setSched s i x).seqTimes = s.seqTimes := rfl
@[simp] theorem setSched_paths : (setSched s i x).paths = s.paths := rfl
@[simp] theorem setSched_pathAt : (setSched s i x).pathAt = s.pathAt := rfl
@[simp] theorem setSched_lastEpoch : (setSched s i x).lastEpoch = s.lastEpoch := rfl
@[simp] theorem setSched_outbox : (setSched s i x).outbox = s.outbox := rfl
@[simp] theorem setSched_lineTimes : (setSched s i x).lineTimes = s.lineTimes := rfl
@[simp] theorem setSched_windows : (setSched s i x).windows = s.windows := rfl
@[simp] theorem setSched_hotLines : (setSched s i x).hotLines = s.hotLines := rfl
@[simp] theorem setSched_headframes : (setSched s i x).headframes = s.headframes := rfl
@[simp] theorem setSched_hfErrors : (setSched s i x).hfErrors = s.hfErrors := rfl
@[simp] theorem setSched_messages : (setSched s i x).messages = s.messages := rfl
@[simp] theorem setSched_msgSeq : (setSched s i x).msgSeq = s.msgSeq := rfl
@[simp] theorem setSched_recvSeq : (setSched s i x).recvSeq = s.recvSeq := rfl
@[simp] theorem setSched_recvQueues : (setSched s i x).recvQueues = s.recvQueues := rfl
@[simp] theorem setSched_queues : (setSched s i x).queues = s.queues := rfl
@[simp] theorem setSched_cpLast : (setSched s i x).cpLast = s.cpLast := rfl
@[simp] theorem setSched_kernels : (setSched s i x).kernels = s.kernels := rfl
@[simp] theorem setSched_nextKernel : (setSched s i x).nextKernel = s.nextKernel := rfl
@[simp] theorem setSched_beat : (setSched s i x).beat = s.beat := rfl
@[simp] theorem setSched_irqs : (setSched s i x).irqs = s.irqs := rfl
@[simp] theorem setSched_msis : (setSched s i x).msis = s.msis := rfl
@[simp] theorem setSched_fw : (setSched s i x).fw = s.fw := rfl
@[simp] theorem setSched_fwQueue : (setSched s i x).fwQueue = s.fwQueue := rfl
@[simp] theorem setSched_fwLog : (setSched s i x).fwLog = s.fwLog := rfl
@[simp] theorem setSched_fwLogSeq : (setSched s i x).fwLogSeq = s.fwLogSeq := rfl
@[simp] theorem setSched_traceIndex : (setSched s i x).traceIndex = s.traceIndex := rfl
@[simp] theorem setSched_traceLast : (setSched s i x).traceLast = s.traceLast := rfl
@[simp] theorem setSched_traceDropped : (setSched s i x).traceDropped = s.traceDropped := rfl
@[simp] theorem setSched_active : (setSched s i x).active = s.active := rfl
@[simp] theorem setSched_shadow : (setSched s i x).shadow = s.shadow := rfl
@[simp] theorem setSched_heldB : (setSched s i x).heldB = s.heldB := rfl
@[simp] theorem setSched_quickset : (setSched s i x).quickset = s.quickset := rfl
@[simp] theorem setSched_sessions : (setSched s i x).sessions = s.sessions := rfl
@[simp] theorem setSched_localChan : (setSched s i x).localChan = s.localChan := rfl
@[simp] theorem setSched_regRejects : (setSched s i x).regRejects = s.regRejects := rfl
@[simp] theorem setSched_overQuota : (setSched s i x).overQuota = s.overQuota := rfl
@[simp] theorem setSched_mgmtUp : (setSched s i x).mgmtUp = s.mgmtUp := rfl
@[simp] theorem setSched_mgmtReplies : (setSched s i x).mgmtReplies = s.mgmtReplies := rfl
@[simp] theorem setSched_dhcpAddr : (setSched s i x).dhcpAddr = s.dhcpAddr := rfl
@[simp] theorem setSched_slaacAddr : (setSched s i x).slaacAddr = s.slaacAddr := rfl
@[simp] theorem setSched_trust : (setSched s i x).trust = s.trust := rfl
@[simp] theorem setSched_channels : (setSched s i x).channels = s.channels := rfl
@[simp] theorem setSched_cvus : (setSched s i x).cvus = s.cvus := rfl
@[simp] theorem setSched_pit : (setSched s i x).pit = s.pit := rfl
@[simp] theorem setSched_opSeconds : (setSched s i x).opSeconds = s.opSeconds := rfl
@[simp] theorem setSched_bsb : (setSched s i x).bsb = s.bsb := rfl
@[simp] theorem setSched_free : (setSched s i x).free = s.free := rfl
end

section
variable (s : State) (i : Nat) (x : Channel)
@[simp] theorem setChan_pending : (setChan s i x).pending = s.pending := rfl
@[simp] theorem setChan_held : (setChan s i x).held = s.held := rfl
@[simp] theorem setChan_boot : (setChan s i x).boot = s.boot := rfl
@[simp] theorem setChan_pins : (setChan s i x).pins = s.pins := rfl
@[simp] theorem setChan_tap : (setChan s i x).tap = s.tap := rfl
@[simp] theorem setChan_cores : (setChan s i x).cores = s.cores := rfl
@[simp] theorem setChan_kept : (setChan s i x).kept = s.kept := rfl
@[simp] theorem setChan_pace : (setChan s i x).pace = s.pace := rfl
@[simp] theorem setChan_sched : (setChan s i x).sched = s.sched := rfl
@[simp] theorem setChan_checkpointWait : (setChan s i x).checkpointWait = s.checkpointWait := rfl
@[simp] theorem setChan_fenceWait : (setChan s i x).fenceWait = s.fenceWait := rfl
@[simp] theorem setChan_fenceEpochs : (setChan s i x).fenceEpochs = s.fenceEpochs := rfl
@[simp] theorem setChan_power : (setChan s i x).power = s.power := rfl
@[simp] theorem setChan_cycles : (setChan s i x).cycles = s.cycles := rfl
@[simp] theorem setChan_cyclePart : (setChan s i x).cyclePart = s.cyclePart := rfl
@[simp] theorem setChan_towers : (setChan s i x).towers = s.towers := rfl
@[simp] theorem setChan_mem : (setChan s i x).mem = s.mem := rfl
@[simp] theorem setChan_poison : (setChan s i x).poison = s.poison := rfl
@[simp] theorem setChan_stackUnits : (setChan s i x).stackUnits = s.stackUnits := rfl
@[simp] theorem setChan_stackMap : (setChan s i x).stackMap = s.stackMap := rfl
@[simp] theorem setChan_packages : (setChan s i x).packages = s.packages := rfl
@[simp] theorem setChan_accwSat : (setChan s i x).accwSat = s.accwSat := rfl
@[simp] theorem setChan_corrected : (setChan s i x).corrected = s.corrected := rfl
@[simp] theorem setChan_poisoned : (setChan s i x).poisoned = s.poisoned := rfl
@[simp] theorem setChan_copyEngines : (setChan s i x).copyEngines = s.copyEngines := rfl
@[simp] theorem setChan_completions : (setChan s i x).completions = s.completions := rfl
@[simp] theorem setChan_clusters : (setChan s i x).clusters = s.clusters := rfl
@[simp] theorem setChan_atomSat : (setChan s i x).atomSat = s.atomSat := rfl
@[simp] theorem setChan_buckets : (setChan s i x).buckets = s.buckets := rfl
@[simp] theorem setChan_heldShares : (setChan s i x).heldShares = s.heldShares := rfl
@[simp] theorem setChan_bktRejects : (setChan s i x).bktRejects = s.bktRejects := rfl
@[simp] theorem setChan_bktSat : (setChan s i x).bktSat = s.bktSat := rfl
@[simp] theorem setChan_verdict : (setChan s i x).verdict = s.verdict := rfl
@[simp] theorem setChan_ues : (setChan s i x).ues = s.ues := rfl
@[simp] theorem setChan_latch : (setChan s i x).latch = s.latch := rfl
@[simp] theorem setChan_red : (setChan s i x).red = s.red := rfl
@[simp] theorem setChan_pushWait : (setChan s i x).pushWait = s.pushWait := rfl
@[simp] theorem setChan_pushBad : (setChan s i x).pushBad = s.pushBad := rfl
@[simp] theorem setChan_ports : (setChan s i x).ports = s.ports := rfl
@[simp] theorem setChan_elsfpOut : (setChan s i x).elsfpOut = s.elsfpOut := rfl
@[simp] theorem setChan_laserBad : (setChan s i x).laserBad = s.laserBad := rfl
@[simp] theorem setChan_requests : (setChan s i x).requests = s.requests := rfl
@[simp] theorem setChan_nextReq : (setChan s i x).nextReq = s.nextReq := rfl
@[simp] theorem setChan_seqs : (setChan s i x).seqs = s.seqs := rfl
@[simp] theorem setChan_seqTimes : (setChan s i x).seqTimes = s.seqTimes := rfl
@[simp] theorem setChan_paths : (setChan s i x).paths = s.paths := rfl
@[simp] theorem setChan_pathAt : (setChan s i x).pathAt = s.pathAt := rfl
@[simp] theorem setChan_lastEpoch : (setChan s i x).lastEpoch = s.lastEpoch := rfl
@[simp] theorem setChan_outbox : (setChan s i x).outbox = s.outbox := rfl
@[simp] theorem setChan_lineTimes : (setChan s i x).lineTimes = s.lineTimes := rfl
@[simp] theorem setChan_windows : (setChan s i x).windows = s.windows := rfl
@[simp] theorem setChan_hotLines : (setChan s i x).hotLines = s.hotLines := rfl
@[simp] theorem setChan_headframes : (setChan s i x).headframes = s.headframes := rfl
@[simp] theorem setChan_hfErrors : (setChan s i x).hfErrors = s.hfErrors := rfl
@[simp] theorem setChan_messages : (setChan s i x).messages = s.messages := rfl
@[simp] theorem setChan_msgSeq : (setChan s i x).msgSeq = s.msgSeq := rfl
@[simp] theorem setChan_recvSeq : (setChan s i x).recvSeq = s.recvSeq := rfl
@[simp] theorem setChan_recvQueues : (setChan s i x).recvQueues = s.recvQueues := rfl
@[simp] theorem setChan_queues : (setChan s i x).queues = s.queues := rfl
@[simp] theorem setChan_cpLast : (setChan s i x).cpLast = s.cpLast := rfl
@[simp] theorem setChan_kernels : (setChan s i x).kernels = s.kernels := rfl
@[simp] theorem setChan_nextKernel : (setChan s i x).nextKernel = s.nextKernel := rfl
@[simp] theorem setChan_beat : (setChan s i x).beat = s.beat := rfl
@[simp] theorem setChan_irqs : (setChan s i x).irqs = s.irqs := rfl
@[simp] theorem setChan_msis : (setChan s i x).msis = s.msis := rfl
@[simp] theorem setChan_fw : (setChan s i x).fw = s.fw := rfl
@[simp] theorem setChan_fwQueue : (setChan s i x).fwQueue = s.fwQueue := rfl
@[simp] theorem setChan_fwLog : (setChan s i x).fwLog = s.fwLog := rfl
@[simp] theorem setChan_fwLogSeq : (setChan s i x).fwLogSeq = s.fwLogSeq := rfl
@[simp] theorem setChan_traceIndex : (setChan s i x).traceIndex = s.traceIndex := rfl
@[simp] theorem setChan_traceLast : (setChan s i x).traceLast = s.traceLast := rfl
@[simp] theorem setChan_traceDropped : (setChan s i x).traceDropped = s.traceDropped := rfl
@[simp] theorem setChan_active : (setChan s i x).active = s.active := rfl
@[simp] theorem setChan_shadow : (setChan s i x).shadow = s.shadow := rfl
@[simp] theorem setChan_heldB : (setChan s i x).heldB = s.heldB := rfl
@[simp] theorem setChan_quickset : (setChan s i x).quickset = s.quickset := rfl
@[simp] theorem setChan_sessions : (setChan s i x).sessions = s.sessions := rfl
@[simp] theorem setChan_localChan : (setChan s i x).localChan = s.localChan := rfl
@[simp] theorem setChan_regRejects : (setChan s i x).regRejects = s.regRejects := rfl
@[simp] theorem setChan_overQuota : (setChan s i x).overQuota = s.overQuota := rfl
@[simp] theorem setChan_mgmtUp : (setChan s i x).mgmtUp = s.mgmtUp := rfl
@[simp] theorem setChan_mgmtReplies : (setChan s i x).mgmtReplies = s.mgmtReplies := rfl
@[simp] theorem setChan_dhcpAddr : (setChan s i x).dhcpAddr = s.dhcpAddr := rfl
@[simp] theorem setChan_slaacAddr : (setChan s i x).slaacAddr = s.slaacAddr := rfl
@[simp] theorem setChan_trust : (setChan s i x).trust = s.trust := rfl
@[simp] theorem setChan_channels : (setChan s i x).channels = mset s.channels i x := rfl
@[simp] theorem setChan_cvus : (setChan s i x).cvus = s.cvus := rfl
@[simp] theorem setChan_pit : (setChan s i x).pit = s.pit := rfl
@[simp] theorem setChan_opSeconds : (setChan s i x).opSeconds = s.opSeconds := rfl
@[simp] theorem setChan_bsb : (setChan s i x).bsb = s.bsb := rfl
@[simp] theorem setChan_free : (setChan s i x).free = s.free := rfl
end

theorem tow_setTow (s : State) (i : Nat) (x : Tower) (j : Nat) : tow (setTow s i x) j = if i = j then x else tow s j :=
  mget_mset ..
@[simp] theorem tow_setTow_self (s : State) (i : Nat) (x : Tower) : tow (setTow s i x) i = x := mget_mset_self ..
theorem clu_setClu (s : State) (i : Nat) (x : Cluster) (j : Nat) : clu (setClu s i x) j = if i = j then x else clu s j :=
  mget_mset ..
@[simp] theorem clu_setClu_self (s : State) (i : Nat) (x : Cluster) : clu (setClu s i x) i = x := mget_mset_self ..
theorem stk_setStk (s : State) (i : Nat) (x : Stack) (j : Nat) : stk (setStk s i x) j = if i = j then x else stk s j :=
  mget_mset ..
@[simp] theorem stk_setStk_self (s : State) (i : Nat) (x : Stack) : stk (setStk s i x) i = x := mget_mset_self ..
theorem ue_setUe (s : State) (i : Nat) (x : Ue) (j : Nat) : ue (setUe s i x) j = if i = j then x else ue s j :=
  mget_mset ..
@[simp] theorem ue_setUe_self (s : State) (i : Nat) (x : Ue) : ue (setUe s i x) i = x := mget_mset_self ..
theorem prt_setPrt (s : State) (i : Nat) (x : Port) (j : Nat) : prt (setPrt s i x) j = if i = j then x else prt s j :=
  mget_mset ..
@[simp] theorem prt_setPrt_self (s : State) (i : Nat) (x : Port) : prt (setPrt s i x) i = x := mget_mset_self ..
theorem cq_setCq (s : State) (i : Nat) (x : CmdQueue) (j : Nat) : cq (setCq s i x) j = if i = j then x else cq s j :=
  mget_mset ..
@[simp] theorem cq_setCq_self (s : State) (i : Nat) (x : CmdQueue) : cq (setCq s i x) i = x := mget_mset_self ..
theorem bkt_setBkt (s : State) (i : Nat) (x : Bucket) (j : Nat) : bkt (setBkt s i x) j = if i = j then x else bkt s j :=
  mget_mset ..
@[simp] theorem bkt_setBkt_self (s : State) (i : Nat) (x : Bucket) : bkt (setBkt s i x) i = x := mget_mset_self ..
theorem cpe_setCpe (s : State) (i : Nat) (x : CopyEngine) (j : Nat) : cpe (setCpe s i x) j = if i = j then x else cpe s j :=
  mget_mset ..
@[simp] theorem cpe_setCpe_self (s : State) (i : Nat) (x : CopyEngine) : cpe (setCpe s i x) i = x := mget_mset_self ..
theorem fwp_setFwp (s : State) (i : Nat) (x : Fw) (j : Nat) : fwp (setFwp s i x) j = if i = j then x else fwp s j :=
  mget_mset ..
@[simp] theorem fwp_setFwp_self (s : State) (i : Nat) (x : Fw) : fwp (setFwp s i x) i = x := mget_mset_self ..
theorem krn_setKrn (s : State) (i : Nat) (x : Kernel) (j : Nat) : krn (setKrn s i x) j = if i = j then x else krn s j :=
  mget_mset ..
@[simp] theorem krn_setKrn_self (s : State) (i : Nat) (x : Kernel) : krn (setKrn s i x) i = x := mget_mset_self ..
theorem hf_setHf (s : State) (i : Nat) (x : Headframe) (j : Nat) : hf (setHf s i x) j = if i = j then x else hf s j :=
  mget_mset ..
@[simp] theorem hf_setHf_self (s : State) (i : Nat) (x : Headframe) : hf (setHf s i x) i = x := mget_mset_self ..

end Sys2Proof.Machine
end

