-- ==== Sys2Proof/Laws/Ops.lean ====
section
/-! SUPPORT. What each shared operation can change: one equation per operation, which says that every other field of
the state is as before; and an object write that is accepted. -/
namespace Sys2Proof.Machine
open Sys2Proof

/-! ### Time, interrupts, records -/

theorem advance_eq (s : State) (dt : Nat) :
    advance s dt = { s with
      pace.now := s.pace.now + dt, cycles := (advance s dt).cycles, cyclePart := (advance s dt).cyclePart } := rfl

theorem clock_eq (s : State) (now : Nat) :
    clock s now = { s with
      pace.now := (clock s now).pace.now, cycles := (clock s now).cycles, cyclePart := (clock s now).cyclePart } := by
  unfold clock; split <;> rfl

/-- Pace time after a command that carries its time: that time where it is later and the counter runs (R433). -/
theorem clock_now (s : State) (now : Nat) :
    (clock s now).pace.now = if s.pace.on ∧ s.pace.now < now then now else s.pace.now := by
  unfold clock; split
  · simp only [advance]; omega
  · rfl

theorem irq_eq (s : State) (n : Nat) :
    irq s n = { s with irqs := s.irqs ++ [n], msis := (irq s n).msis, sessions := (irq s n).sessions } := rfl

theorem pitEvent_eq (s : State) (a b c d e f : Nat) : pitEvent s a b c d e f = { s with pit := (pitEvent s a b c d e f).pit } := by
  unfold pitEvent; split; · rfl
  split <;> rfl

theorem correctedError_eq (s : State) (u a : Nat) :
    ∃ p q r w, correctedError s u a = { s with pit := p, irqs := q, msis := r, sessions := w } := by
  unfold correctedError; dsimp only
  have h : ∀ (x : State), (∃ p, x = { s with pit := p }) → ∀ (c : Prop) [Decidable c] (d : List Nat),
      ∃ p q r w, (if c then irq { x with pit.raised := d } 0x1B6 else x) = { s with pit := p, irqs := q, msis := r, sessions := w } := by
    rintro x ⟨p, rfl⟩ c _ d
    split
    · exact ⟨_, _, _, _, rfl⟩
    · exact ⟨_, _, _, _, rfl⟩
  apply h
  split
  · rw [pitEvent_eq]; exact ⟨_, rfl⟩
  · exact ⟨_, rfl⟩

theorem poisonError_eq (s : State) (u a : Nat) :
    ∃ p r w, poisonError s u a = { s with pit := p, irqs := s.irqs ++ [0x1B4], msis := r, sessions := w } := by
  unfold poisonError; rw [pitEvent_eq]; exact ⟨_, _, _, rfl⟩

theorem poisonRead_eq (s : State) (u : Nat) : poisonRead s u = { s with pit := (poisonRead s u).pit } := rfl

theorem traceBusy_eq (s : State) (t : Nat) : ∃ f, (traceBusy s t).2 = { s with free := f } := by
  unfold traceBusy; split
  · exact ⟨_, rfl⟩
  · split <;> exact ⟨_, rfl⟩

/-! ### Memory: what a store of an engine can change -/

/-- A state without its memory and what stands before it: bytes, poison marks, near-store caches and adders, the queues of the
stacks, and the Pit Log. -/
def bare (s : State) : State := { s with mem := [], poison := [], towers := [], accwSat := 0, pit := State.reset.pit, stackUnits := [] }

/-- Between two states only the memory and what stands before it changed, and the canonical form of memory is kept. -/
@[irreducible] def storesOnly (s t : State) : Prop := bare t = bare s ∧ (Memory.wf s.mem = true → Memory.wf t.mem = true)

theorem storesOnly.mk {s t : State} (h : bare t = bare s) (w : Memory.wf s.mem = true → Memory.wf t.mem = true) : storesOnly s t := by
  unfold storesOnly; exact ⟨h, w⟩

theorem storesOnly.bare {s t : State} (h : storesOnly s t) : bare t = bare s := by unfold storesOnly at h; exact h.1

theorem storesOnly.wf {s t : State} (h : storesOnly s t) (w : Memory.wf s.mem = true) : Memory.wf t.mem = true := by
  unfold storesOnly at h; exact h.2 w

/-- What `storesOnly` says, as an update of fields. -/
theorem storesOnly.eq {s t : State} (h : storesOnly s t) :
    t = { s with mem := t.mem, poison := t.poison, towers := t.towers, accwSat := t.accwSat, pit := t.pit, stackUnits := t.stackUnits } :=
  congrArg (fun (b : State) => { b with
    mem := t.mem, poison := t.poison, towers := t.towers, accwSat := t.accwSat, pit := t.pit, stackUnits := t.stackUnits }) h.bare

theorem storesOnly.refl (s : State) : storesOnly s s := .mk rfl id

theorem storesOnly.trans {s t u : State} (h : storesOnly s t) (g : storesOnly t u) : storesOnly s u :=
  .mk (g.bare.trans h.bare) fun x => g.wf (h.wf x)

theorem storesOnly.foldl {α : Type} {f : State → α → State} (h : ∀ s x, storesOnly s (f s x)) (l : List α) (s : State) :
    storesOnly s (l.foldl f s) := by
  induction l generalizing s with
  | nil => exact .refl s
  | cons x l ih => exact (h s x).trans (ih _)

theorem storesOnly_setTow (s : State) (t : Nat) (x : Tower) : storesOnly s (setTow s t x) := .mk rfl id
theorem storesOnly_setStk (s : State) (k : Nat) (x : Stack) : storesOnly s (setStk s k x) := .mk rfl id
theorem storesOnly_poison (s : State) (p : List Nat) : storesOnly s { s with poison := p } := .mk rfl id

theorem storesOnly_writeMem (s : State) (a : Nat) (bs : List Byte) (tag : Bool) : storesOnly s (writeMem s a bs tag) :=
  .mk rfl fun h => writeMem_wf h a bs tag

theorem storesOnly_pitEvent (s : State) (a b c d e f : Nat) : storesOnly s (pitEvent s a b c d e f) := by
  rw [pitEvent_eq]; exact .mk rfl id

theorem storesOnly_xorUnit (s : State) (base : Nat) (errs : List (Nat × Nat)) : storesOnly s (xorUnit s base errs) := by
  refine .foldl (fun s e => ?_) _ _
  split
  · exact .mk rfl fun h => cellPut_wf h _ _
  · exact .refl s

theorem storesOnly_uncover (s : State) (l : NsLine) : storesOnly s (uncover s l) := by
  unfold uncover; split
  · exact .refl s
  · exact .foldl (fun s _ => (storesOnly_poison s _).trans (storesOnly_xorUnit _ _ _)) _ _

theorem storesOnly_nsTouch (s : State) (a n : Nat) (write : Bool) : storesOnly s (nsTouch s a n write) := by
  unfold nsTouch
  cases home s a with
  | fast k =>
    dsimp only; split
    · exact (storesOnly_setTow _ _ _).trans (.foldl storesOnly_uncover _ _)
    · exact .refl s
  | _ => exact .refl s

/-- A fold that carries a state beside another value keeps `storesOnly` of the state. -/
theorem storesOnly.foldl₂ {α β : Type} {f : State × β → α → State × β} (h : ∀ r x, storesOnly r.1 (f r x).1) (l : List α) (r : State × β) :
    storesOnly r.1 (l.foldl f r).1 := by
  induction l generalizing r with
  | nil => exact .refl _
  | cons x l ih => exact (h r x).trans (ih _)

theorem storesOnly_accwLine (s : State) (w : AccWrite) : storesOnly s (accwLine s w) := by
  have tail : ∀ (r : State × Nat) (p : State → List Nat), storesOnly s r.1 → storesOnly s (
      if w.poison then { r.1 with accwSat := r.1.accwSat + r.2, poison := p { r.1 with accwSat := r.1.accwSat + r.2 } }
      else { r.1 with accwSat := r.1.accwSat + r.2 }) := by
    intro r p h
    split
    · exact h.trans (.mk rfl id)
    · exact h.trans (.mk rfl id)
  refine tail _ (fun s => _) (.foldl₂ (fun r i => ?_) _ (s, 0))
  split
  · exact .mk rfl fun h => cellsPut_wf h _ _
  · exact .refl _

theorem storesOnly_drainLines (s : State) (a n : Nat) : storesOnly s (drainLines s a n) := by
  refine .foldl (fun s t => ?_) _ _
  dsimp only; split
  · exact (storesOnly_setTow _ _ _).trans (.foldl storesOnly_accwLine _ _)
  · exact .refl s

theorem storesOnly_failedWrite (s : State) (a : Nat) : storesOnly s (failedWrite s a) := storesOnly_pitEvent _ _ _ _ _ _ _

theorem lineWrite_eq (s : State) (a : Nat) (bs : List Byte) (tag : Bool) :
    lineWrite s a bs tag = if failedHome (drainLines s a bs.length) a then (failedWrite (drainLines s a bs.length) a, 9)
      else (nsTouch (writeMem (drainLines s a bs.length) a bs tag) a bs.length true, 0) := rfl

theorem storesOnly_lineWrite (s : State) (a : Nat) (bs : List Byte) (tag : Bool) : storesOnly s (lineWrite s a bs tag).1 := by
  rw [lineWrite_eq]
  have d := storesOnly_drainLines s a bs.length
  generalize drainLines s a bs.length = t at d
  split
  · exact d.trans (storesOnly_failedWrite t a)
  · exact d.trans ((storesOnly_writeMem t a bs tag).trans (storesOnly_nsTouch _ a _ true))

/-- All that a checked write of memory can change (R72, R82). -/
theorem storesOnly_memWrite (s : State) (a : Nat) (bs : List Byte) (tag : Bool) : storesOnly s (memWrite s a bs tag).1 := by
  refine .foldl₂ (fun r p => ?_) _ (s, 0)
  dsimp only
  exact storesOnly_lineWrite _ _ _ _

theorem storesOnly_performOrWait (s : State) (x : Xact) (h : x.kind = .store) :
    storesOnly s (performOrWait s { x, answer := false }) := by
  have k : storesOnly s (perform s x false) := by
    have g := storesOnly_memWrite s x.addr (padTo x.size x.data) x.poison
    unfold perform; rw [h]
    exact .mk ((congrArg (fun (b : State) => { b with completions := s.completions, cores := s.cores }) g.bare).trans rfl) g.wf
  unfold performOrWait
  cases home s x.addr with
  | fast j =>
    dsimp only; split
    · exact storesOnly_setStk _ _ _
    · exact k
  | _ => exact k

/-- All that a store which waits for no completion can change. -/
theorem storesOnly_post (s : State) (iss : Issuer) (a : Nat) (bs : List Byte) (tag : Bool) : storesOnly s (post s iss a bs tag) := by
  refine .foldl (fun s p => ?_) _ _
  dsimp only; split
  · exact .refl s
  · exact storesOnly_performOrWait _ _ rfl

theorem post_wf {s : State} (h : Memory.wf s.mem = true) (iss : Issuer) (a : Nat) (bs : List Byte) (tag : Bool) :
    Memory.wf (post s iss a bs tag).mem = true := (storesOnly_post s iss a bs tag).wf h

/-! ### Trace records -/

theorem trace_untraced {s : State} (h : Safety.untraced s) (t p a b : Nat) : trace s t p a b = s := by
  unfold trace; simp [h p]

theorem trace_eq (s : State) (t p a b : Nat) :
    ∃ m q w c r k i l d f, trace s t p a b =
      { s with mem := m, poison := q, towers := w, accwSat := c, pit := r, stackUnits := k, traceIndex := i, traceLast := l, traceDropped := d, free := f } := by
  unfold trace; dsimp only; split
  · obtain ⟨f, h⟩ := traceBusy_eq s t
    rw [h]; split
    · exact ⟨_, _, _, _, _, _, _, _, _, _, rfl⟩
    · have g := fun i a b => (storesOnly_post { s with free := f } i a b false).eq
      revert g; generalize post { s with free := f } = u; intro g
      rw [g]; exact ⟨_, _, _, _, _, _, _, _, _, _, rfl⟩
  · exact ⟨_, _, _, _, _, _, _, _, _, _, rfl⟩

theorem trace_wf {s : State} (h : Memory.wf s.mem = true) (t p a b : Nat) : Memory.wf (trace s t p a b).mem = true := by
  unfold trace; dsimp only; split
  · obtain ⟨f, e⟩ := traceBusy_eq s t
    rw [e]; split
    · exact h
    · exact post_wf (s := { s with free := f }) h _ _ _ _
  · exact h

theorem regReject_eq (s : State) (a : Nat) :
    regReject s a = { s with regRejects := s.regRejects + 1, pit := (regReject s a).pit } := by
  unfold regReject; rw [pitEvent_eq]

/-! ### Requests and responses -/

theorem localPut_eq (s : State) (j : Nat) (r : Response) :
    ∃ m p w a q k c i n, localPut s j r = { s with mem := m, poison := p, towers := w, accwSat := a, pit := q, stackUnits := k, localChan := c, irqs := s.irqs ++ [0x1A0 + j], msis := i, sessions := n } := by
  have g := (storesOnly_post s { kind := .camlis, unit := 0 } (ringPair s j + 0x4000 + mget s.localChan.reads j 0 * 0x800) r.bytes false).eq
  unfold localPut; dsimp only
  revert g; generalize post s _ _ r.bytes = u; intro g
  rw [irq_eq, g]; exact ⟨_, _, _, _, _, _, _, _, _, rfl⟩

theorem localPut_wf {s : State} (h : Memory.wf s.mem = true) (j : Nat) (r : Response) :
    Memory.wf (localPut s j r).mem = true := by
  have g := post_wf h { kind := .camlis, unit := 0 } (ringPair s j + 0x4000 + mget s.localChan.reads j 0 * 0x800) r.bytes false
  unfold localPut; dsimp only
  revert g; generalize post s _ _ r.bytes = u; intro g
  rw [irq_eq]; exact g

theorem respond_eq (s : State) (sid : Nat) (r : Response) :
    ∃ m p w a q k c i j n, respond s sid r = { s with mem := m, poison := p, towers := w, accwSat := a, pit := q, stackUnits := k, localChan := c, irqs := i, msis := j, sessions := n } := by
  have key : ∀ (lp : Option Nat) (w : Map Session), ∃ m p x a q k c i j n, (match lp with
      | some j => localPut { s with sessions := w } j r
      | none => { s with sessions := w }) = { s with mem := m, poison := p, towers := x, accwSat := a, pit := q, stackUnits := k, localChan := c, irqs := i, msis := j, sessions := n } := by
    intro lp w
    cases lp with
    | none => exact ⟨_, _, _, _, _, _, _, _, _, _, rfl⟩
    | some j =>
      obtain ⟨m, p, x, a, q, k, c, i, n, h⟩ := localPut_eq { s with sessions := w } j r
      exact ⟨m, p, x, a, q, k, c, _, i, n, h⟩
  unfold respond; split
  · exact ⟨_, _, _, _, _, _, _, _, _, _, rfl⟩
  · exact key _ _

theorem respond_wf {s : State} (h : Memory.wf s.mem = true) (sid : Nat) (r : Response) :
    Memory.wf (respond s sid r).mem = true := by
  have key : ∀ (lp : Option Nat) (w : Map Session), Memory.wf (State.mem (match lp with
      | some j => localPut { s with sessions := w } j r
      | none => { s with sessions := w })) = true := by
    intro lp w
    cases lp with
    | none => exact h
    | some j => exact localPut_wf (s := { s with sessions := w }) h j r
  unfold respond; split
  · exact h
  · exact key _ _

/-- The state an accepted write acts on: its session has been heard from. -/
def heard (s : State) (w : ObjWrite) : State :=
  if w.reg then s else
  match mfind s.sessions w.sid with
  | some x => { s with sessions := mset s.sessions w.sid { x with lastMsg := s.pace.now } }
  | none => s

theorem heard_eq (s : State) (w : ObjWrite) : heard s w = { s with sessions := (heard s w).sessions } := by
  unfold heard; split; · rfl
  split <;> rfl

/-- An accepted write is its effect, and the answer where a session asked. -/
theorem objWrite_accepted {s : State} {w : ObjWrite} {key : Nat} (h : Safety.accepted s w key = true) (addr : Nat)
    (eff : State → Nat × State) :
    objWrite s w key addr eff =
      if w.reg then if (eff s).1 = 0 then (eff s).2 else regReject (eff s).2 addr
      else respond (eff (heard s w)).2 w.sid
        { reqId := w.reqId, type := 2, status := (eff (heard s w)).1, index := key / 256, sub := key % 256 } := by
  unfold objWrite heard
  by_cases hr : w.reg = true
  · simp [hr]
  · simp only [Safety.accepted, hr, Bool.false_or] at h
    simp only [hr, request]
    cases hm : mfind s.sessions w.sid with
    | none => simp [hm] at h
    | some x =>
      simp only [hm, Bool.and_eq_true, decide_eq_true_eq, beq_iff_eq] at h
      obtain ⟨⟨⟨h1, h2⟩, h3⟩, h4⟩ := h
      have h5 : x.kept.find? (fun r => r.reqId == w.reqId) = none := by
        rw [List.find?_eq_none]; intro r hr'; have := List.all_eq_true.mp h2 r hr'; simpa using this
      have h6 : ∀ (s' : State) (x' : Session), writeCheck { s with sessions := s'.sessions } { x with lastMsg := x'.lastMsg } key w.val = writeCheck s x key w.val :=
        fun _ _ => rfl
      simp only [h1, if_true, h5, show ¬ 8 ≤ x.outstanding.length by omega, if_false, Bool.false_eq_true]
      have h7 := h6 { s with sessions := mset s.sessions w.sid { x with lastMsg := s.pace.now } } { x with lastMsg := s.pace.now }
      simp only at h7
      rw [h7, h4]; rfl

end Sys2Proof.Machine
end

