-- ==== Sys2Proof/Laws/Crew.lean ====
section
/-! SUPPORT. What issuing an instruction does, and what writing a crew's registers leaves. -/
namespace Sys2Proof.Machine
open Sys2Proof

theorem minBy_nil {α : Type} (f : α → Nat) : minBy f ([] : List α) = none := rfl

/-- An instruction that is performed is read with no exception. -/
theorem readIns_performs {s : State} {c k w ext : Nat} {codes : Crew → Ins → List Nat} {more : Ins → List Exc}
    {mine : Nat → Nat → Bool} (uniform : Bool)
    (h : Safety.performs s c k w ext (codes (crw s c k) (Safety.insAt s c k w ext)) = true)
    (hm : mine (fld w 63 58) (fld w 57 50) = true)
    (hx : (uniform && (Safety.insAt s c k w ext).lanes == 0#32) = true ∨ more (Safety.insAt s c k w ext) = []) :
    readIns s c k mine uniform codes more = some (Safety.insAt s c k w ext, []) := by
  simp only [Safety.performs, Bool.and_eq_true, beq_iff_eq, Bool.not_eq_true'] at h
  obtain ⟨⟨⟨⟨⟨⟨⟨h1, h2⟩, h3⟩, h4⟩, h5⟩, h6⟩, h7⟩, h8⟩ := h
  have h2' : fetch s c k ((crw s c k).run.getD { mask := 0#32, pc := 0 }).pc = (0, w) := h2
  have h3' : waits s ((crw s c k).run.getD { mask := 0#32, pc := 0 }).pc = false := h3
  have hgz : (if fld w 49 48 = 0 then 0#32 else mget (crw s c k).pPoison (fld w 47 45) 0#32 &&& ((crw s c k).run.getD { mask := 0#32, pc := 0 }).mask) = 0#32 := by
    split
    · rfl
    · rename_i hg
      simp only [hg, Bool.or_eq_true, beq_iff_eq, false_or] at h7
      exact h7
  have he : (if insLen w = 2 then fetch s c k (((crw s c k).run.getD { mask := 0#32, pc := 0 }).pc + 8) else (0, 0)) = (0, ext) := by
    split
    · rename_i hl; rw [if_pos hl, beq_iff_eq] at h6; exact h6
    · rename_i hl; rw [if_neg hl] at h6; simp only [beq_iff_eq] at h6; rw [h6]
  have hx' : (if uniform && (Safety.insAt s c k w ext).lanes == 0#32 then [] else more (Safety.insAt s c k w ext)) = [] := by
    rcases hx with hx | hx
    · rw [if_pos hx]
    · rw [hx, ite_self]
  unfold readIns
  simp only [h2', h3', Bool.false_eq_true, if_false, ne_eq, not_true, hm, Bool.true_eq_false]
  rw [hgz, he]
  change some (Safety.insAt s c k w ext, (commonCodes w ++ codes (crw s c k) (Safety.insAt s c k w ext)).map _
    ++ (if uniform && (Safety.insAt s c k w ext).lanes == 0#32 then [] else more (Safety.insAt s c k w ext)) ++ _ ++ _) = _
  rw [hx', h4, h5]
  simp

/-- An instruction that is performed is its body; a crew-uniform one whose guard holds in no lane is skipped. -/
theorem issue_performs {s : State} {c k w ext : Nat} {codes : Crew → Ins → List Nat} {more : Ins → List Exc}
    {mine : Nat → Nat → Bool} (uniform : Bool) (body : State → Ins → State)
    (h : Safety.performs s c k w ext (codes (crw s c k) (Safety.insAt s c k w ext)) = true)
    (hm : mine (fld w 63 58) (fld w 57 50) = true)
    (hx : (uniform && (Safety.insAt s c k w ext).lanes == 0#32) = true ∨ more (Safety.insAt s c k w ext) = []) :
    issue s c k mine uniform codes body more =
      if uniform && (Safety.insAt s c k w ext).lanes == 0#32 then step1 s (Safety.insAt s c k w ext)
      else body s (Safety.insAt s c k w ext) := by
  have r := readIns_performs uniform h hm hx
  simp only [Safety.performs, Bool.and_eq_true, beq_iff_eq, Bool.not_eq_true'] at h
  obtain ⟨⟨⟨⟨⟨⟨⟨h1, -⟩, -⟩, -⟩, -⟩, -⟩, -⟩, h8⟩ := h
  have h8' : ((opFields (Safety.insAt s c k w ext).w).contains 0x14E && outstanding s c k false) = false := by
    change ((opFields w).contains 0x14E && outstanding s c k false) = false
    cases hc : (opFields w).contains 0x14E
    · rfl
    · simp only [hc, Bool.not_true, Bool.false_or, Bool.not_eq_true'] at h8; simpa using h8
  unfold issue
  rw [r]
  simp only [h1, Bool.true_eq_false, false_and, if_false, minBy_nil, h8', Bool.false_eq_true]

end Sys2Proof.Machine
end

