-- ==== Sys2Proof/WellFormed.lean ====
section
/-!
DEFINITION. The range of every unit number a command carries: 4 towers, 6 joint directions a tower, 32
stacks, 8 update engines, 32 ports, 128 clusters of 128 crew slots, 256 command queues, 64 schedule entries,
64 sealing channels, 21 firmware processors (Table 1.1, chapters 2 to 18). A command outside it names a unit
the module does not have and does not happen (log 12).
-/
namespace Sys2Proof

/-- Shafts of a joint direction (Table 2.1): floor 256, store 320, seam 1,024. -/
def shaftCount (j : Nat) : Nat := if j < 2 then 256 else if j < 4 then 320 else 1024

/-- Whether an issuer names a unit the module has: 16 cores (R12), 128 clusters, 32 copy engines, 8 update engines, 32 ports, 16
command processors, 64 schedule entries, and one of the other engines a tower. -/
def Issuer.wf (x : Issuer) : Bool :=
  match x.kind with
  | .core => decide (x.unit < 16)
  | .crew => decide (x.unit < 128)
  | .array => decide (x.unit < 128)
  | .tld => decide (x.unit < 128)
  | .copy => decide (x.unit < 32)
  | .ue => decide (x.unit < 8)
  | .remote => decide (x.unit < 32)
  | .cmdproc => decide (x.unit < 16)
  | .sched => decide (x.unit < 64)
  | _ => decide (x.unit < 4)

/-- Every unit number of a command names a unit the module has. -/
def Instr.wf : Instr → Bool
  | .inputInRange _ _ => true
  | .railsGood _ _ => true
  | .refClkPresent _ => true
  | .inputLoss _ _ => true
  | .resetNAssert _ => true
  | .resetNRelease _ _ => true
  | .flashCsRelease _ => true
  | .moduleReset _ => true
  | .bootSec0Verify _ _ _ => true
  | .bootFwImages _ _ _ => true
  | .bootConfigLoad _ => true
  | .bootBridgeTrain _ _ _ => true
  | .bootShaftTrain t _ _ _ _ => decide (t < 4)
  | .bootStackTrain sk _ _ _ => decide (sk < 32)
  | .bootFastTierBuild _ _ _ => true
  | .bootUeStart n _ _ _ => decide (n < 8)
  | .bootDeepTierZero _ _ _ => true
  | .bootClusterTest c _ _ _ => decide (c < 128)
  | .bootPortBringup p _ _ _ _ => decide (p < 32)
  | .bootMgmtPort _ _ _ => true
  | .bootMeasurementsClose _ _ _ => true
  | .bootPayloadStart _ _ _ => true
  | .fwRestart _ => true
  | .fwWatchdogExpiry p _ => decide (p < 21)
  | .fwProcessorFault p _ => decide (p < 21)
  | .fwRestartActionTimeout p _ => decide (p < 21)
  | .fwRestartComplete p _ _ notes => decide (p < 21) && notes.all fun n => decide (n.sev ≤ 5) && decide (n.code < 2 ^ 16) && decide (n.args.length ≤ 6)
  | .paceTowerCompare _ _ _ _ => true
  | .shaftFrame t j sh _ _ _ => decide (t < 4 ∧ j < 6 ∧ sh < shaftCount j)
  | .laneLossOfSignal t j sh lane => decide (t < 4 ∧ j < 6 ∧ sh < shaftCount j ∧ lane < 71)
  | .laneErrorThreshold t j sh lane _ => decide (t < 4 ∧ j < 6 ∧ sh < shaftCount j ∧ lane < 71)
  | .recalRoundStart t _ => decide (t < 4)
  | .recalNow _ => true
  | .shaftRecalDone t _ _ => decide (t < 4)
  | .levelRestore _ => true
  | .levelReset _ => true
  | .levelResetDrainDone t l => decide (t < 4 ∧ 1 ≤ l ∧ l ≤ 3)
  | .levelResetRelease t l => decide (t < 4 ∧ 1 ≤ l ∧ l ≤ 3)
  | .levelReady t l => decide (t < 4 ∧ 1 ≤ l ∧ l ≤ 3)
  | .towerReset _ => true
  | .towerResetWritebackDone t => decide (t < 4)
  | .towerPllLocked t => decide (t < 4)
  | .towerJointsTrained t => decide (t < 4)
  | .towerReady t => decide (t < 4)
  | .nsCacheWritebackDone t => decide (t < 4)
  | .nsWritebackTimeout t _ => decide (t < 4)
  | .memoryAccess x _ => x.iss.wf
  | .accwRequest a => a.iss.wf
  | .accwApply t _ => decide (t < 4)
  | .nsSplitChangeDone t => decide (t < 4)
  | .nsFlush _ => true
  | .stackRetrain _ => true
  | .stackRetrainInterval sk _ => decide (sk < 32)
  | .stackTempDelta sk _ _ => decide (sk < 32)
  | .stackRetrainDone sk _ _ => decide (sk < 32)
  | .memDeviceFailure u => decide (u < 64)
  | .scrubPatrol _ _ _ _ => true
  | .copyI e => decide (e < 32)
  | .transposeI e => decide (e < 32)
  | .fillI e => decide (e < 32)
  | .accwI e => decide (e < 32)
  | .copyTransferDone e => decide (e < 32)
  | .crewAdmit _ c _ => decide (c < 128)
  | .crewRelease c k => decide (c < 128 ∧ k < 128)
  | .nopI c k => decide (c < 128 ∧ k < 128)
  | .exitI c k => decide (c < 128 ∧ k < 128)
  | .trap c k => decide (c < 128 ∧ k < 128)
  | .cmode c k => decide (c < 128 ∧ k < 128)
  | .mstatClr c k => decide (c < 128 ∧ k < 128)
  | .iadd c k => decide (c < 128 ∧ k < 128)
  | .isub c k => decide (c < 128 ∧ k < 128)
  | .imul c k => decide (c < 128 ∧ k < 128)
  | .imula c k => decide (c < 128 ∧ k < 128)
  | .imin c k => decide (c < 128 ∧ k < 128)
  | .imax c k => decide (c < 128 ∧ k < 128)
  | .iabs c k => decide (c < 128 ∧ k < 128)
  | .shl c k => decide (c < 128 ∧ k < 128)
  | .shr c k => decide (c < 128 ∧ k < 128)
  | .sar c k => decide (c < 128 ∧ k < 128)
  | .andI c k => decide (c < 128 ∧ k < 128)
  | .orI c k => decide (c < 128 ∧ k < 128)
  | .xorI c k => decide (c < 128 ∧ k < 128)
  | .notI c k => decide (c < 128 ∧ k < 128)
  | .bcnt c k => decide (c < 128 ∧ k < 128)
  | .clz c k => decide (c < 128 ∧ k < 128)
  | .brev c k => decide (c < 128 ∧ k < 128)
  | .bpick c k => decide (c < 128 ∧ k < 128)
  | .fadd c k => decide (c < 128 ∧ k < 128)
  | .fsub c k => decide (c < 128 ∧ k < 128)
  | .fmul c k => decide (c < 128 ∧ k < 128)
  | .fmac c k => decide (c < 128 ∧ k < 128)
  | .fmin c k => decide (c < 128 ∧ k < 128)
  | .fmax c k => decide (c < 128 ∧ k < 128)
  | .fabs c k => decide (c < 128 ∧ k < 128)
  | .fneg c k => decide (c < 128 ∧ k < 128)
  | .paddBf16 c k => decide (c < 128 ∧ k < 128)
  | .paddF16 c k => decide (c < 128 ∧ k < 128)
  | .pmulBf16 c k => decide (c < 128 ∧ k < 128)
  | .pmulF16 c k => decide (c < 128 ∧ k < 128)
  | .pfmaBf16 c k => decide (c < 128 ∧ k < 128)
  | .pfmaF16 c k => decide (c < 128 ∧ k < 128)
  | .cvt c k => decide (c < 128 ∧ k < 128)
  | .amax c k => decide (c < 128 ∧ k < 128)
  | .rcp c k => decide (c < 128 ∧ k < 128)
  | .rsq c k => decide (c < 128 ∧ k < 128)
  | .ex2 c k => decide (c < 128 ∧ k < 128)
  | .lg2 c k => decide (c < 128 ∧ k < 128)
  | .sinI c k => decide (c < 128 ∧ k < 128)
  | .cosI c k => decide (c < 128 ∧ k < 128)
  | .icmp c k => decide (c < 128 ∧ k < 128)
  | .fcmp c k => decide (c < 128 ∧ k < 128)
  | .plog c k => decide (c < 128 ∧ k < 128)
  | .pick c k => decide (c < 128 ∧ k < 128)
  | .movI c k => decide (c < 128 ∧ k < 128)
  | .xlaneIdx c k => decide (c < 128 ∧ k < 128)
  | .xlaneUp c k => decide (c < 128 ∧ k < 128)
  | .xlaneDn c k => decide (c < 128 ∧ k < 128)
  | .xlaneXor c k => decide (c < 128 ∧ k < 128)
  | .lanesAll c k => decide (c < 128 ∧ k < 128)
  | .lanesAny c k => decide (c < 128 ∧ k < 128)
  | .lanesMask c k => decide (c < 128 ∧ k < 128)
  | .vread c k => decide (c < 128 ∧ k < 128)
  | .sadd c k => decide (c < 128 ∧ k < 128)
  | .ssub c k => decide (c < 128 ∧ k < 128)
  | .smul c k => decide (c < 128 ∧ k < 128)
  | .sand c k => decide (c < 128 ∧ k < 128)
  | .sor c k => decide (c < 128 ∧ k < 128)
  | .sxor c k => decide (c < 128 ∧ k < 128)
  | .sshl c k => decide (c < 128 ∧ k < 128)
  | .sshr c k => decide (c < 128 ∧ k < 128)
  | .smov c k => decide (c < 128 ∧ k < 128)
  | .scmp c k => decide (c < 128 ∧ k < 128)
  | .ld c k _ => decide (c < 128 ∧ k < 128)
  | .lds c k _ => decide (c < 128 ∧ k < 128)
  | .st c k => decide (c < 128 ∧ k < 128)
  | .waitI c k _ => decide (c < 128 ∧ k < 128)
  | .waitPoll c k _ => decide (c < 128 ∧ k < 128)
  | .atomAdd c k _ => decide (c < 128 ∧ k < 128)
  | .atomMinS c k _ => decide (c < 128 ∧ k < 128)
  | .atomMinU c k _ => decide (c < 128 ∧ k < 128)
  | .atomMaxS c k _ => decide (c < 128 ∧ k < 128)
  | .atomMaxU c k _ => decide (c < 128 ∧ k < 128)
  | .atomAnd c k _ => decide (c < 128 ∧ k < 128)
  | .atomOr c k _ => decide (c < 128 ∧ k < 128)
  | .atomXor c k _ => decide (c < 128 ∧ k < 128)
  | .atomFadd c k _ => decide (c < 128 ∧ k < 128)
  | .atomSwap c k _ => decide (c < 128 ∧ k < 128)
  | .atomCas c k _ => decide (c < 128 ∧ k < 128)
  | .fence c k => decide (c < 128 ∧ k < 128)
  | .fenceAcq c k => decide (c < 128 ∧ k < 128)
  | .fenceRel c k => decide (c < 128 ∧ k < 128)
  | .fenceAcqRange c k => decide (c < 128 ∧ k < 128)
  | .tld c k => decide (c < 128 ∧ k < 128)
  | .tldComplete c _ => decide (c < 128)
  | .dmaIssue c k => decide (c < 128 ∧ k < 128)
  | .mload c k => decide (c < 128 ∧ k < 128)
  | .mstream c k => decide (c < 128 ∧ k < 128)
  | .mstreamIx c k => decide (c < 128 ∧ k < 128)
  | .mepi c k => decide (c < 128 ∧ k < 128)
  | .mzero c k => decide (c < 128 ∧ k < 128)
  | .mspill c k => decide (c < 128 ∧ k < 128)
  | .await c k => decide (c < 128 ∧ k < 128)
  | .bra c k => decide (c < 128 ∧ k < 128)
  | .brx c k => decide (c < 128 ∧ k < 128)
  | .callI c k => decide (c < 128 ∧ k < 128)
  | .retI c k => decide (c < 128 ∧ k < 128)
  | .barSync c k => decide (c < 128 ∧ k < 128)
  | .barArrive c k => decide (c < 128 ∧ k < 128)
  | .barTimeout c b _ => decide (c < 128 ∧ b < 16)
  | .mloadComplete c _ => decide (c < 128)
  | .streamStart c _ => decide (c < 128)
  | .rowEnter c _ => decide (c < 128)
  | .currentHoldOp c => decide (c < 128)
  | .holdWindowExpire c => decide (c < 128)
  | .outputRowWrite c _ _ => decide (c < 128)
  | .mzeroClear c _ => decide (c < 128)
  | .mepiRowRead c _ _ => decide (c < 128)
  | .mepiRowWrite c _ => decide (c < 128)
  | .mepiComplete c _ => decide (c < 128)
  | .mspillRow c _ _ => decide (c < 128)
  | .accwAck c _ => decide (c < 128)
  | .asyClear _ c => decide (c < 128)
  | .bucketArm b _ => decide (b < 256)
  | .bktReady t _ => decide (t < 4)
  | .bucketShip b => decide (b < 256)
  | .bucketShipped b => decide (b < 256)
  | .bucketContribution pt _ => decide (pt < 32)
  | .bucketLand b => decide (b < 256)
  | .bucketSendFail b _ => decide (b < 256)
  | .bucketLandTimeout b _ => decide (b < 256)
  | .stvOpen _ => true
  | .stvRebase _ => true
  | .stvClose _ _ => true
  | .stvForceFail _ => true
  | .stvVote _ => true
  | .stvResult _ _ => true
  | .stvTimeout _ => true
  | .stvAbandon _ => true
  | .ueGradReady n _ => decide (n < 8)
  | .uePass1 n _ => decide (n < 8)
  | .jobReductionResult _ => true
  | .ueFactoredUpdate n => decide (n < 8)
  | .uePass2 n _ => decide (n < 8)
  | .ueStepComplete => true
  | .wlLossOfSignal p wl _ => decide (p < 32 ∧ wl < 8)
  | .laserFault t wl => decide (t < 4 ∧ wl < 8)
  | .wlUncorrLimitReached p wl _ _ => decide (p < 32 ∧ wl < 8)
  | .wlRetrainStart p wl _ => decide (p < 32 ∧ wl < 8)
  | .wlRetrainDone p wl _ => decide (p < 32 ∧ wl < 8)
  | .portAckTimeout p _ => decide (p < 32)
  | .portEnable _ => true
  | .portRetrain _ => true
  | .portBringupStart p _ => decide (p < 32)
  | .portTrainingDone p _ _ => decide (p < 32)
  | .portKeyExchangeDone p _ _ => decide (p < 32)
  | .portBringupRetry p _ => decide (p < 32)
  | .portLightDetect p wls _ => decide (p < 32 ∧ wls ≤ 8)
  | .elsfpRemove k => decide (k < 4)
  | .elsfpInsert k _ => decide (k < 4)
  | .linkFrame p _ _ f _ _ _ => decide (p < 32 ∧ f.word0 < 2 ^ 64 ∧ f.freed.length ≤ 8)
  | .packetForward p _ _ => decide (p < 32)
  | .dnyLd p _ _ => decide (p < 32)
  | .dnyLdRsp p _ _ => decide (p < 32)
  | .dnySt p _ _ => decide (p < 32)
  | .dnyStAck p _ _ => decide (p < 32)
  | .dnyAtom p _ _ => decide (p < 32)
  | .dnyAtomRsp p _ _ => decide (p < 32)
  | .dnyBwr p _ _ => decide (p < 32)
  | .dnyBacc p _ _ => decide (p < 32)
  | .dnyBrd p _ _ => decide (p < 32)
  | .dnyBrdRsp p _ _ => decide (p < 32)
  | .dnyBack p _ _ => decide (p < 32)
  | .dnyMsg p _ _ _ => decide (p < 32)
  | .dnyMsgAck p _ _ => decide (p < 32)
  | .dnyMsgNak p _ _ => decide (p < 32)
  | .dnyLink p _ _ => decide (p < 32)
  | .dnyPace p _ _ _ => decide (p < 32)
  | .dnyVote p _ _ _ _ _ => decide (p < 32)
  | .dnyRed p _ _ _ => decide (p < 32)
  | .dnyRedRes p _ _ _ => decide (p < 32)
  | .dnyKeyx p _ _ => decide (p < 32)
  | .ldTimeout _ _ => true
  | .stAckTimeout _ _ => true
  | .atomRetryTimeout _ _ => true
  | .bulkTimeout _ _ => true
  | .msgResend _ _ => true
  | .msgRetryExpire _ _ => true
  | .pathChangeRelease _ _ => true
  | .creditEpoch _ => true
  | .atomSideQueueRelease p _ => decide (p < 32)
  | .hotLineApply t _ _ => decide (t < 4)
  | .hfGatherTimeout t _ _ => decide (t < 4)
  | .linkRekey p _ _ => decide (p < 32)
  | .pacePacketSend p _ => decide (p < 32)
  | .cqCtrl q _ => decide (q < 256)
  | .cqDoorbell q _ => decide (q < 256)
  | .cmdNop q => decide (q < 256)
  | .cmdLaunch q => decide (q < 256)
  | .cmdCopy q => decide (q < 256)
  | .cmdWait q => decide (q < 256)
  | .cmdWaitSatisfied q _ => decide (q < 256)
  | .cmdSignal q => decide (q < 256)
  | .cmdTimestamp q _ => decide (q < 256)
  | .kernelStart _ _ => true
  | .kernelEnd _ _ => true
  | .kernelPreempt _ => true
  | .preemptionPointReached _ c _ => decide (c < 128)
  | .preemptSaveDone _ c => decide (c < 128)
  | .kernelRestore _ => true
  | .hbBeat _ _ => true
  | .hbLapse _ => true
  | .hbGraceExpire _ => true
  | .hbResume _ => true
  | .hbDiscard _ _ => true
  | .ptpMeasurement _ _ => true
  | .ppsEdge _ => true
  | .paceHoldoverTimeout _ => true
  | .paceSetSeconds _ => true
  | .pcsCtrl e _ _ => decide (e < 64)
  | .stepBegin e _ => decide (e < 64)
  | .bucketWindow e _ => decide (e < 64)
  | .powerRamp e _ => decide (e < 64)
  | .checkpoint e _ => decide (e < 64)
  | .checkpointSignal e => decide (e < 64)
  | .fenceEpoch e _ => decide (e < 64)
  | .fenceEpochSignal e => decide (e < 64)
  | .pwrCeiling _ _ => true
  | .arithPoint _ => true
  | .dvfsChangeDone d => decide (d < 8)
  | .powerMeasure _ _ => true
  | .throttleDiePoint d _ => decide (d < 8)
  | .throttleRelease d _ => decide (d < 8)
  | .throttleHeld1s d _ => decide (d < 8)
  | .thermalSample _ temps _ => decide (temps.length = 114)
  | .sessionHandshake _ _ _ _ => true
  | .mgmtLinkDown => true
  | .sessionIdleTimeout _ _ => true
  | .getI _ _ _ => true
  | .setI _ _ _ => true
  | .expertOpen _ _ _ => true
  | .expertClose _ _ _ => true
  | .quickset _ _ _ => true
  | .quicksetCancel _ _ _ => true
  | .shadowDiscard _ _ _ => true
  | .saveI _ _ _ => true
  | .keepalive _ _ _ => true
  | .closeI _ _ _ => true
  | .quicksetInstant _ => true
  | .quicksetComplete _ => true
  | .blobSnapshotExpire _ _ => true
  | .cmlLocalBase _ _ => true
  | .cmlLocalDoorbell _ _ _ => true
  | .registerWrite iss _ _ _ => iss.wf
  | .diagData _ => true
  | .partEnable p _ => decide (p < 16)
  | .getVersion _ _ => true
  | .getCapabilities _ _ => true
  | .negotiateAlgorithms _ _ => true
  | .getDigests _ _ => true
  | .getCertificate _ _ => true
  | .challenge _ _ => true
  | .getMeasurements _ _ => true
  | .spdmUnsupportedRequest _ _ => true
  | .mrExtend _ => true
  | .keyImport _ => true
  | .keyErase _ => true
  | .sealedRecord pt _ _ => decide (pt < 32)
  | .sigChannelEnable ch _ => decide (ch < 64)
  | .sealJobStart ch _ => decide (ch < 64)
  | .sealJobComplete ch => decide (ch < 64)
  | .imageStage _ _ => true
  | .activeSlot _ => true
  | .goldenReplace _ => true
  | .rollbackCommit _ => true
  | .signkeyRevoke _ => true
  | .ccPayload _ => true
  | .retiredUnits _ => true
  | .partitionContain p _ => decide (p < 16)
  | .fatalError _ _ => true
  | .fatalRecordProgrammed => true
  | .errHourRoll _ => true
  | .pitRecordWrite _ => true
  | .pitFlashClear _ => true
  | .opSecondsSave _ => true
  | .illegalInstr c k => decide (c < 128 ∧ k < 128)
  | .cmdInvalidOpcode q => decide (q < 256)
  | .sendQueueDoorbell sq _ rq _ _ => decide (sq < 64 ∧ rq < 64)
  | .mgmtLinkUp => true
  | .mgmtPortFrame _ => true
  | .bsbStatusRefresh _ _ _ => true

end Sys2Proof
end

