-- ==== Sys2Proof/Tests/Slice0.lean ====
section
/-!
SUPPORT. The author's own tests: ill-formed terms the check refuses, a state that meets the hypotheses of each
statement, and single steps whose outcome the manual gives.
-/
namespace Sys2Proof.Tests
set_option Elab.async false
open Sys2Proof Sys2Proof.Machine

/-! ### States the tests start from -/

/-- The module after reset, moved to a phase. -/
def inPhase (p : Phase) : State := { State.reset with boot.phase := p }

/-- A booted module: its clock runs, its firmware runs, every stack and update engine is in service, and session 4 has
MODULE authority at Expert level. -/
def live : State :=
  { State.reset with
    boot := { phase := .booted }
    pace := { on := true, now := 1000000 }
    stackMap := List.range 32
    packages := (List.range 32).map fun k => (k, DevState.inService)
    fw := (List.range 21).map fun p => (p, { mode := .running })
    ues := (List.range 8).map fun n => (n, { inService := true })
    sessions := [(4, { authority := 0x10000, expert := true })] }


/-- A state with one packet in the input buffer of a port. -/
def arrived (s : State) (p : Nat) (q : Packet) : State := setPrt s p { prt s p with inQ := [q] }

/-- A closed packet for this node, the one in its port's input buffer, reaches its command: its code is right whatever it holds. -/
theorem reaches_arrived (s : State) (p : Nat) (q : Packet) (h : (alive s && q.dst == nodeId s) = true) :
    Safety.reaches (arrived s p (pktClose q)) p (pktClose q) q.type = true := by
  have hc : pktCode (pktClose q) = (pktClose q).ecrc := by simp only [pktClose, pktCode, pktWords]
  have hf : atFront (prt (arrived s p (pktClose q)) p) (pktClose q) = true := by simp [atFront, arrived]
  simp only [Bool.and_eq_true, beq_iff_eq] at h
  have ha : alive (arrived s p (pktClose q)) = true := h.1
  have hd : (pktClose q).dst = nodeId (arrived s p (pktClose q)) := h.2
  have ht : (pktClose q).type = q.type := rfl
  simp [Safety.reaches, ha, hd, ht, hf, hc]

/-- A value no entry of a table has, and its default neither, is read at no key. -/
theorem mget_ne {α : Type} (m : Map α) (d x : α) (h : ∀ e ∈ m, e.2 ≠ x) (hd : d ≠ x) : ∀ p, mget m p d ≠ x := by
  induction m with
  | nil => intro p; exact hd
  | cons e m ih =>
    intro p
    obtain ⟨j, w⟩ := e
    simp only [mget, mfind]
    split
    · exact h (j, w) (List.mem_cons_self ..)
    · exact ih (fun e he => h e (List.mem_cons_of_mem _ he)) p

/-- A state with the devices of `live` is calm where its memory has its form. -/
theorem calm_of {s : State} (hs : s.stackUnits = []) (hp : s.packages = live.packages) (ht : s.towers = []) (hm : Memory.wf s.mem = true) : Safety.calm s := by
  refine ⟨fun k => ?_, ?_, fun t => ?_, fun t => ?_, hm⟩
  · simp [stk, hs, mget, mfind]
  · rw [hp]; exact mget_ne _ _ _ (by decide +kernel) (by decide)
  · simp [tow, ht, mget, mfind]
  · simp [tow, ht, mget, mfind]

theorem live_calm : Safety.calm live := calm_of rfl rfl rfl rfl

/-- A running crew of 32 lanes in slot 0 of cluster 0, whose next two words are `w` and `ext` at 0x1000. -/
def crewAt (w ext : Nat) (x : Crew := { kernel := 1, index := 0 }) (s : State := live) : State :=
  writeMem { s with
    clusters := [(0, { mode := .running, kernels := [1], crews := [(0, { x with kernel := 1, run := some { mask := 0xFFFFFFFF#32, pc := 0x1000 } })] })]
    kernels := [(1, { q := 0, index := 0, words := [], clusters := [0], mode := .running })] } 0x1000 (leBytes 8 w ++ leBytes 8 ext)

/-- The word of an R-format instruction of a shape: its destination and sources are registers of the kinds the shape asks for. -/
def rWord (major minor : Nat) (h : RShape) : Nat :=
  let src := fun k => if h.n ≤ k then 0 else if h.preds.contains k then 0x141 else if h.uni then 0x104 + k else 4 + 2 * k
  major * 2 ^ 58 + minor * 2 ^ 50 + (match h.dst with | .pred => 0x140 | .sca => 0x100 | _ => 2) * 2 ^ 36
    + src 0 * 2 ^ 27 + src 1 * 2 ^ 18 + src 2 * 2 ^ 9

/-- A word of each shape is performed. -/
def rPerformed (l : List (Nat × Nat × RShape)) : Bool :=
  l.all fun o =>
    let w := rWord o.1 o.2.1 o.2.2
    let s := crewAt w 0
    fld w 63 58 == o.1 && fld w 57 50 == o.2.1 && Safety.performs s 0 0 w 0 (rCodes o.2.2 (crw s 0 0) (Safety.insAt s 0 0 w 0))

theorem test_PowerUpAndResetPins_hyps :
    (State.reset.boot.phase = .unpowered ∧ 42000 ≤ 42000 ∧ 54000 ≤ 54000)
    ∧ ((inPhase .rising).boot.phase = .rising ∧ (inPhase .rising).pins.resetN = true)
    ∧ ((inPhase .rising).boot.phase = .rising ∧ { inPhase .rising with pins.resetN := false : State }.pins.resetN = false)
    ∧ (inPhase .tripped).boot.phase = .tripped
    ∧ (inPhase .waitClock).boot.phase = .waitClock
    ∧ ((inPhase .waitFlash).boot.phase = .waitFlash ∧ 10 ≤ 10)
    ∧ ((inPhase .booted).boot.phase ≠ .unpowered ∧ 40000 ≤ 40000 ∧ 40000 < 42000 ∧ 1000000 < 1000001 ∧ 39999 < 40000 ∧ 20000 < 20001
      ∧ 56000 < 56001 ∧ 10000 < 10001)
    ∧ (10000 ≤ 10000 ∧ railsUpPhase (inPhase .booted) = true ∧ (inPhase .booted).boot.phase ≠ .waitReset
      ∧ (inPhase .booted).boot.phase ≠ .inReset)
    ∧ ((inPhase .inReset).boot.phase = .inReset ∧ (inPhase .waitReset).boot.phase = .waitReset)
    ∧ (Safety.accepted live { sid := 4, val := [1#8] } 0x701009 = true ∧ leNat [1#8] = 1 ∧ live.boot.phase ≠ .inReset)
    ∧ Safety.accepted live { sid := 0, val := [1#8], reg := true } 0x701009 = true := by decide +kernel

/-- A boot in which the given steps and units have ended. -/
def bootDone (l : List Nat) : State := { State.reset with boot := { phase := .booting, done := l } }
/-- The step keys of a step with `n` units. -/
def unitKeys (step n : Nat) : List Nat := (List.range n).map fun u => step * 65536 + u

theorem test_BootWholeSteps_hyps :
    stepOpen16 (bootDone []) 0x01 0xFFFF [] = true ∧ stepOpen16 (bootDone [1]) 0x02 0xFFFF [0x01] = true ∧ stepOpen16 (bootDone [1, 2]) 0x04 0xFFFF [0x02] = true
    ∧ stepOpen16 (bootDone (unitKeys 6 32)) 0x07 0xFFFF [0x06] = true ∧ stepOpen16 (bootDone (unitKeys 8 8)) 0x09 0xFFFF [0x08] = true
    ∧ stepOpen16 (bootDone ([1, 2, 3, 4, 7, 9, 12] ++ unitKeys 5 4 ++ unitKeys 6 32 ++ unitKeys 8 8 ++ unitKeys 10 128 ++ unitKeys 11 32)) 0x0D 0xFFFF
        ((List.range 12).map (· + 1)) = true
    ∧ stepOpen16 (bootDone [13]) 0x0E 0xFFFF [0x0D] = true := by decide +kernel

theorem test_BootUnitSteps_hyps :
    let s := bootDone ([1, 2, 3, 4] ++ unitKeys 5 4)
    let early := bootDone [1, 2, 3, 4]
    let retired := fun (n : Nat) => { s with kept.retired := [n] : State }
    (s.boot.phase = .booting ∧ stepEnded s 0x04 = true ∧ stepKey16 0x06 31 ∉ s.boot.done)
    ∧ (3 < 4 ∧ stepEnded early 0x04 = true ∧ stepKey16 0x05 3 ∉ early.boot.done)
    ∧ (stepEnded s 0x05 = true ∧ stepKey16 0x0A 127 ∉ s.boot.done ∧ retiresCluster s 127 = false ∧ retiresCluster (retired 127) 127 = true)
    ∧ (stepEnded s 0x03 = true ∧ stepKey16 0x0C 0xFFFF ∉ s.boot.done)
    ∧ (7 < 8 ∧ stepKey16 0x08 7 ∉ s.boot.done ∧ s.kept.retired.contains (0x200 + 7) = false
      ∧ (retired 0x207).kept.retired.contains (0x200 + 7) = true ∧ partnerSkipped (retired 0x207) 7 = false)
    ∧ (stepEnded s 0x02 = true ∧ stepKey16 0x0B 31 ∉ s.boot.done ∧ portEnabled s 31 = true ∧ portUp s 31 = false
      ∧ peerFits s 31 { node := 1, port := 0, tx := 0xFF#8, rx := 0xFF#8, enc := bit (cfg s 0x470001) 31 } = true) := by decide +kernel

theorem test_ConfigLoadAndBootFailure_hyps :
    let s := fun (n : Nat) => { State.reset with boot := { phase := .booting, done := [1, 2], boot := n }, pins := { resetN := true, refClk := true } : State }
    let bad := { bootDone [1] with kept.configBad := true : State }
    (stepOpen16 (bootDone [1]) 0x03 0xFFFF [0x01] = true ∧ recordOk (ledger (bootClock (bootDone [1]) 0) 0x03 0xFFFF 1 0 0 0) [(0x820002, leBytes 8 0)] = true
      ∧ mfind [(0x820002, leBytes 8 0)] 0x820002 = some (leBytes 8 0))
    ∧ (stepOpen16 bad 0x03 0xFFFF [0x01] = true ∧ bad.kept.configBad = true)
    ∧ (stepOpen16 (s 7) 0x04 0xFFFF [0x02] = true ∧ (s 7).boot.boot < 8 ∧ (s 7).pins.resetN = true ∧ (s 7).pins.refClk = true)
    ∧ (stepOpen16 (s 8) 0x04 0xFFFF [0x02] = true ∧ 8 ≤ (s 8).boot.boot) := by decide +kernel

theorem test_FirmwareRestarts_hyps :
    let w : ObjWrite := { sid := 4, val := [20#8] }
    let asks := { live with fwQueue := [20], fw := mset live.fw 20 { mode := .running, asked := some 0 } : State }
    let again := { live with fw := mset live.fw 20 { mode := .restarting } : State }
    (Safety.accepted live w 0x830002 = true ∧ leNat w.val ≤ 20 ∧ live.fwQueue = [] ∧ live.fw.any (fun x => x.2.mode == .restarting) = false ∧ fwRuns live 20 = true
      ∧ (fwp live 20).forced = false ∧ hasAction live 20 = false)
    ∧ (asks.fw.any (fun x => x.2.mode == .restarting) = false ∧ asks.fwQueue.head? = some 20 ∧ fwRuns asks 20 = true ∧ (fwp asks 20).asked = some 0
      ∧ 0 + 10000000 ≤ (clock asks 10000000).pace.now)
    ∧ (bit (trigByte live 0x0801) 7 = true ∧ live.pit.queue.length < 256)
    ∧ ((fwp again 20).mode = .restarting ∧ again.fwQueue = []) := by decide +kernel

theorem test_ShaftFramesLanesAndRecalibration_hyps :
    let w : ObjWrite := { sid := 4, val := [3#8] }
    let round := { live with towers := [(3, { recal := some 3199 })] : State }
    let waits := { live with towers := [(3, { recal := some 3198 })], fwQueue := [4] : State }
    (3 < 4 ∧ 5 < 6 ∧ shaftCountOf 5 - 1 < shaftCountOf 5 ∧ 70 < 71 ∧ cfg live 0x340003 ≤ cfg live 0x340003 ∧ 0 < cfg live 0x340003)
    ∧ (fwRuns live 4 = true ∧ cfg live 0x340004 ≠ 0 ∧ (tow live 3).recal = none ∧ (tow live 3).recalNext = none
      ∧ (tow live 3).recalEnd + cfg live 0x340004 * 10 ^ 9 ≤ (clock live (10 ^ 18)).pace.now)
    ∧ (Safety.accepted live w 0x340005 = true ∧ leNat w.val = 3 ∧ serves live 4 = true)
    ∧ (fwRuns round 4 = true ∧ (tow round 3).recal = some 3199 ∧ fwRuns waits 4 = true ∧ (tow waits 3).recal = some 3198
      ∧ waits.fwQueue.contains 4 = true) := by decide +kernel
theorem test_ShaftFrames_hyps :
    let sh := (shaftOf live 3 5 77).getD 0
    (shaft live 3 5 sh).buf = [] ∧ (shaft live 3 5 sh).seq = (shaft live 3 5 sh).tx ∧ (shaft live 3 5 sh).tx < 256
    ∧ takesLine live 3 5 sh 77 = true := by
  have h : hashed live 3 5 = List.range 1024 := by decide +kernel
  have e : ∃ k, shaftOf live 3 5 77 = some k := by
    unfold shaftOf; rw [h]; simp only [List.length_range]
    exact ⟨_, List.getElem?_eq_getElem (by rw [List.length_range]; exact Nat.mod_lt _ (by decide))⟩
  obtain ⟨k, e⟩ := e
  simp only [e, Option.getD_some]
  refine ⟨rfl, rfl, Nat.zero_lt_succ _, ?_⟩
  unfold takesLine; rw [e]; simp [live, tow, mget, mfind, State.reset]

theorem test_LevelResetsAndRestore_hyps :
    let w : ObjWrite := { sid := 4, val := [15#8] }
    let at' := fun (r : LevelReset) => { live with towers := [(3, { levelReset := [(3, r)] })] : State }
    let back := { live with towers := [(3, { levelReset := [(3, .released)], restoring := [3], levelsOut := [3] })] : State }
    let out := { live with towers := [(3, { levelsOut := [3] })] : State }
    (Safety.accepted live w 0x340007 = true ∧ leNat w.val = 4 * 3 + 3 ∧ (tow live 3).reset = .none ∧ mget (tow live 3).levelReset 3 .none = .none
      ∧ Safety.records live 0x0104 = true)
    ∧ (mget (tow (at' .held) 3).levelReset 3 .none ≠ .none ∧ Safety.accepted (at' .held) w 0x340007 = true)
    ∧ mget (tow (at' .accepted) 3).levelReset 3 .none = .accepted ∧ mget (tow (at' .held) 3).levelReset 3 .none = .held
    ∧ (mget (tow (at' .released) 3).levelReset 3 .none = .released ∧ (tow (at' .released) 3).restoring.contains 3 = false)
    ∧ (mget (tow back 3).levelReset 3 .none = .released ∧ (tow back 3).restoring.contains 3 = true ∧ ∀ k ∈ (tow back 3).restoring, k = 3)
    ∧ (Safety.accepted out w 0x340006 = true ∧ serves out 4 = true ∧ (tow out 3).levelsOut = [3] ∧ (tow out 3).reset = .none
      ∧ mget (tow out 3).levelReset 3 .none = .none ∧ ∀ j, j < 6 → levelAbove j ≤ 3 → retiredCount out 3 j ≤ retireLimit j)
    ∧ (Safety.accepted live w 0x340006 = true ∧ serves live 4 = true ∧ (tow live 3).levelsOut = []) := by decide +kernel

theorem test_TowerResetStages_hyps :
    let w : ObjWrite := { sid := 4, val := [3#8] }
    let at' := fun (r : TowerReset) => { live with towers := [(3, { reset := r })] : State }
    let back := { live with towers := [(3, { cacheMode := .writeback, cacheSince := 1000000, splitTo := none })] : State }
    let split := { live with towers := [(3, { splitTo := some 6 })] : State }
    (Safety.accepted live w 0x340008 = true ∧ leNat w.val = 3 ∧ (tow live 3).reset = .none)
    ∧ (tow (at' .relock) 3).reset = .relock ∧ ((tow (at' .training) 3).reset = .training ∧ (tow (at' .training) 3).late = [])
    ∧ ((tow (at' .zeroing) 3).reset = .zeroing ∧ (tow (at' .zeroing) 3).recalNext = none ∧ ∀ l ∈ (tow (at' .zeroing) 3).lines, l.dirty = true ∨ l.under = [])
    ∧ ((tow (at' .writeback) 3).reset = .writeback ∧ ∀ st, (stk (at' .writeback) st).waiting = [])
    ∧ ((tow back 3).cacheMode = .writeback ∧ (tow back 3).reset = .none ∧ (tow back 3).splitTo = none
      ∧ (tow back 3).cacheSince + 2000000 ≤ (clock back 3000000).pace.now)
    ∧ ((tow split 3).splitTo = some 6 ∧ ∀ st, (stk split st).waiting = [])
    ∧ (Safety.accepted live { sid := 4, val := [15#8] } 0x310004 = true ∧ leNat [15#8] < 16 ∧ Safety.noRing live { sid := 4, val := [15#8] } = true) := by
  refine ⟨?_, ?_, ?_, ?_, ⟨?_, fun _ => rfl⟩, ⟨?_, ?_, ?_, ?_⟩, ⟨?_, fun _ => rfl⟩, ?_⟩ <;> decide +kernel

theorem test_MemoryTransactions_hyps :
    let core : Issuer := { kind := .core, unit := 0 }
    let x := fun (k : XKind) (a n : Nat) => ({ tag := 7, iss := core, kind := k, addr := a, size := n, data := List.replicate n 1#8 } : Xact)
    let out := { live with stackUnits := (List.range 32).map fun k => (k, { st := .excluded }) : State }
    let gone := { live with stackUnits := (List.range 32).map fun k => (k, { st := .failed }) : State }
    let reset := { live with towers := [(0, { reset := .relock })] : State }
    (alive live = true ∧ flight live core 0x17FFFFFFFF8 = .free ∧ accessStatus live core .load 0x0F0900000000 8 ≠ 0)
    ∧ (∀ k ∈ [XKind.load, .fetch, .store, .flagStore, .atom 4 true, .atom 4 false], accessStatus live core k 0x17FFFFFFFF8 8 = 0) ∧ localMemory live 0x17FFFFFFFF8 = true
    ∧ waits live 0x17FFFFFFFF8 = false ∧ (∀ p ∈ linePieces 0x17FFFFFFFF8 8, failedHome live p.1 = false) ∧ (x .store 0x17FFFFFFFF8 8).data.length = 8
    ∧ linePieces 0x17FFFFFFFF8 8 = [(0x17FFFFFFFF8, 8)] ∧ failedHome gone 0x17FFFFFFFF8 = true ∧ accessStatus gone core .store 0x17FFFFFFFF8 8 = 0
    ∧ waits gone 0x17FFFFFFFF8 = false ∧ Memory.wf live.mem = true
    ∧ (home out 0 = .fast 0 ∧ waits out 0 = true ∧ accessStatus out core .load 0 8 = 0)
    ∧ flight reset { kind := .crew, unit := 16 } 0x080000000000 = .lost := by decide +kernel
theorem test_MemoryTransactions_settled : Safety.settled live := live_calm.2.2.2.1

theorem test_AccumulateWrites_hyps :
    let a : AccWrite := { tag := 1, iss := { kind := .core, unit := 0 }, addr := 0x08017FFFFF80, int := true, mask := 1#32, data := [5#32] }
    let s := { live with towers := [(3, { scratchUnits := 6 })] : State }
    let q := { live with towers := [(3, { scratchUnits := 6, adder := [a] })] : State }
    (alive s = true ∧ flight s a.iss a.addr = .free ∧ accwStatus s a.iss a.addr = 0 ∧ home s a.addr = .scratch 3) ∧ accwStatus s a.iss 0x2000 ≠ 0 ∧ flight s a.iss 0x2000 = .free
    ∧ (tow q 3).adder[0]? = some a ∧ Memory.wf q.mem = true := by decide +kernel

theorem test_StackRetrainingFailureAndScrub_hyps :
    let w : ObjWrite := { sid := 4, val := [31#8] }
    let out := { live with stackUnits := [(31, { st := .excluded })] : State }
    let due := 10 ^ 18
    let holds := { live with towers := [(0, { lines := [{ line := 0, set := 0, way := 0, dirty := false }] })] : State }
    (Safety.accepted live w 0x320004 = true ∧ leNat w.val = 31 ∧ fwRuns live (9 + 31 / 8) = true ∧ (stk live 31).st = .inService
      ∧ ∀ j, j / 8 = 31 / 8 → (stk live j).st ≠ .excluded ∧ ((stk live j).wanted = true → j = 31))
    ∧ (cfg live 0x320005 ≠ 0 ∧ (stk live 31).lastTrained + cfg live 0x320005 * 1000000000 ≤ (clock live due).pace.now)
    ∧ cfg live 0x320006 ≤ (((stk live 31).lastTempC + (cfg live 0x320006 : Int)) - (stk live 31).lastTempC).natAbs
    ∧ ((stk out 31).st = .excluded ∧ (stk out 31).wanted = false)
    ∧ (31 < 32 ∧ ((stk live 31).st = .inService ∨ (stk live 31).st = .excluded))
    ∧ mget live.packages 31 .skipped = .inService
    ∧ (alive live = true ∧ Memory.wf live.mem = true ∧ 0x080000000000 / 64 ∉ live.poison)
    ∧ (home live 0x080000000000 = .scratch 0 ∧ failedHome live 0x080000000000 = false ∧ cfg live 0x350002 ≠ 0)
    ∧ (home holds 0 = .fast 0 ∧ failedHome holds 0 = false ∧ cached holds 0 = true ∧ cfg holds 0x350003 ≠ 0 ∧ (stk holds 0).st ≠ .excluded)
    ∧ (home live 0 = .fast 0 ∧ cached live 0 = false)
    ∧ (home live 0x040000000000 = .deep 0 ∧ failedHome live 0x040000000000 = false ∧ cfg live 0x350004 ≠ 0) := by
  refine ⟨⟨?_, ?_, ?_, ?_, fun j _ => ⟨?_, ?_⟩⟩, ?_, ?_, ?_, ?_, ?_, ?_, ?_, ?_, ?_, ?_⟩
  · decide +kernel
  · decide +kernel
  · decide +kernel
  · decide +kernel
  · simp [stk, live, State.reset, mget, mfind]
  · simp [stk, live, State.reset, mget, mfind]
  all_goals decide +kernel

/-- A descriptor of one row of `n` elements, from 0x2000 to 0x4000, element size code `es`, that ends at CLUSTER scope. -/
def rowJob (op es n : Nat) (part : Nat := 0) : CopyJob :=
  { d := [BitVec.ofNat 64 (op * 2 ^ 60 + es * 2 ^ 57 + 3 * 2 ^ 54), 0x2000#64, 0x4000#64, BitVec.ofNat 64 (2 ^ 32 + n), 0#64, 64#64, 0#64, 0#64]
    src := .cmd 0 0, part }
/-- A state whose engine 31 has one descriptor queued. -/
def queued (j : CopyJob) : State := { live with copyEngines := [(31, { queue := [j] })] }

theorem queued_calm (j : CopyJob) : Safety.settled (queued j) := (calm_of rfl rfl rfl rfl : Safety.calm (queued j)).2.2.2.1

theorem test_CopyEngineFillAndCopy_hyps :
    let f := rowJob 3 4 5
    let c : CopyJob := { rowJob 1 1 100 with d := ((rowJob 1 1 100).d.set 3 (BitVec.ofNat 64 (2 * 2 ^ 32 + 100))).set 5 128#64 }
    let bad := rowJob 9 1 4
    let iss := fun (j : CopyJob) => ({ kind := .copy, unit := 31, part := some j.part } : Issuer)
    (∀ j ∈ [f, c, bad], alive (queued j) = true ∧ (cpe (queued j) 31).busy = none ∧ (cpe (queued j) 31).queue = [j] ∧ copyEnabled (queued j) 31 = true)
    ∧ (∀ j ∈ [f, c], j.bad = false
      ∧ j.cvu 31 = none ∧ j.waits (queued j) = false ∧ (j.rows = 1 ∨ j.dstRow ≤ j.dstStride) ∧ Memory.wf (queued j).mem = true
      ∧ ∀ p ∈ j.pieces false, j.writeStatus (queued j) (iss j) p = 0 ∧ localMemory (queued j) (j.at p) = true)
    ∧ bad.bad = true ∧ f.op = 3 ∧ c.op = 1 ∧ c.overlaps = false ∧ c.rows = 2
    ∧ ∀ r < c.rows, ∀ x ∈ cuts (c.srcAt + r * c.srcStride) c.srcRow, accessStatus (queued c) (iss c) .load x.1 x.2 = 0 ∧ localMemory (queued c) x.1 = true
      ∧ failedHome (queued c) x.1 = false ∧ poisoned (queued c) x.1 x.2 = false := by decide +kernel

theorem test_CopyEngineTransposeAccwAndEnd_hyps :
    let tr : CopyJob := { rowJob 2 1 16 with d := (rowJob 2 1 16).d.set 3 (BitVec.ofNat 64 (2 * 2 ^ 32 + 16)) }
    let ac : CopyJob := { rowJob 4 3 8 with d := (rowJob 4 3 8).d.set 2 0x080000000000#64 }
    let iss := fun (j : CopyJob) => ({ kind := .copy, unit := 31, part := some j.part } : Issuer)
    let ends : CopyJob := { rowJob 1 1 4 with d := (rowJob 1 1 4).d.set 6 (BitVec.ofNat 64 (2 ^ 63 + 0x8000)) }
    let done := { live with copyEngines := [(31, { busy := some ends, ended := true })] : State }
    (∀ j ∈ [tr, ac], alive (queued j) = true ∧ (cpe (queued j) 31).busy = none ∧ (cpe (queued j) 31).queue = [j] ∧ copyEnabled (queued j) 31 = true ∧ j.bad = false
      ∧ j.cvu 31 = none ∧ j.waits (queued j) = false ∧ j.overlaps = false ∧ (j.dstRows = 1 ∨ j.dstRow ≤ j.dstStride) ∧ Memory.wf (queued j).mem = true
      ∧ (∀ p ∈ j.pieces false, j.writeStatus (queued j) (iss j) p = 0)
      ∧ ∀ r < j.rows, ∀ x ∈ cuts (j.srcAt + r * j.srcStride) j.srcRow, accessStatus (queued j) (iss j) .load x.1 x.2 = 0 ∧ localMemory (queued j) x.1 = true ∧ failedHome (queued j) x.1 = false
        ∧ poisoned (queued j) x.1 x.2 = false)
    ∧ (tr.op = 2 ∧ 8 ≤ tr.bits ∧ (rowJob 2 0 16).bits = 4 ∧ ∀ p ∈ tr.pieces false, localMemory (queued tr) (tr.at p) = true)
    ∧ (ac.op = 4 ∧ ac.pieces false ≠ [] ∧ ∀ p ∈ ac.pieces false, home (queued ac) (ac.at p / 128 * 128) = .scratch 0)
    ∧ (alive done = true ∧ (cpe done 31).busy = some ends ∧ (cpe done 31).ended = true ∧ (hf done (31 / 8)).runs = [] ∧ (hf done (31 / 8)).stores = [] ∧ (hf done (31 / 8)).failures = []
      ∧ ends.record = true ∧ localMemory done ends.recordAt = true ∧ waits done ends.recordAt = false ∧ failedHome done ends.recordAt = false
      ∧ accessStatus done (iss ends) .store ends.recordAt 8 = 0 ∧ Memory.wf done.mem = true) := by decide +kernel

theorem test_IntegerLaneResults_hyps : rPerformed
    (((List.range 16).map fun m => (0x01, m, { n := if m = 3 then 3 else if m = 8 ∨ m = 15 then 1 else 2, wide := m != 3 }))
      ++ [(0x01, 0x10, { n := 1, wide := true }), (0x01, 0x11, { n := 1, wide := true }), (0x01, 0x12, { n := 1, wide := true }), (0x01, 0x13, { n := 3 }),
        (0x06, 0x00, { n := 2, wide := true, cond := 5, dst := .pred }), (0x06, 0x01, { n := 2, wide := true, cond := 5, dst := .pred }),
        (0x06, 0x04, { n := 2, preds := [0, 1], cond := 3, dst := .pred }), (0x06, 0x06, { n := 3, preds := [2], wide := true }), (0x07, 0x00, { n := 1, wide := true })]) = true := by
  decide +kernel

theorem test_FloatLaneResults_hyps : rPerformed
    (((List.range 8).map fun m => (0x02, m, { n := if m = 3 then 3 else if 6 ≤ m then 1 else 2 })) ++ ((List.range 6).map fun m => (0x03, m, { n := if 4 ≤ m then 3 else 2 }))
      ++ ((List.range 6).map fun m => (0x05, m, { n := 1 })) ++ [(0x06, 0x02, { n := 2, cond := 5, dst := .pred })]) = true := by decide +kernel

theorem test_ConversionLaneResults_hyps :
    let w := 0x04 * 2 ^ 58 + 0x1 * 2 ^ 54 + 0xD * 2 ^ 50 + 2 * 2 ^ 36 + 4 * 2 ^ 27 + 6 * 2 ^ 18 + 3 * 2 ^ 6
    let s := crewAt w 0
    let m := rWord 0x04 0xFF { n := 1 }
    (fld w 63 58 = 0x04 ∧ fld w 57 50 ≠ 0xFF ∧ Safety.performs s 0 0 w 0 (cvtCodes s (crw s 0 0) (Safety.insAt s 0 0 w 0)) = true)
    ∧ (fld m 8 0 = 0 ∧ rPerformed [(0x04, 0xFF, { n := 1 })] = true) := by decide +kernel

theorem test_LaneExchangeAndScalarResults_hyps :
    let w := 0x07 * 2 ^ 58 + 0x08 * 2 ^ 50 + 0x100 * 2 ^ 36 + 4 * 2 ^ 27 + 0x101 * 2 ^ 18
    let s := crewAt w 0
    let i := Safety.insAt s 0 0 w 0
    rPerformed ([(0x07, 0x01, { n := 2, wide := true }), (0x07, 0x02, { n := 2, wide := true }), (0x07, 0x03, { n := 2, wide := true }), (0x07, 0x04, { n := 2, wide := true }),
      (0x07, 0x05, { n := 1, preds := [0], dst := .pred }), (0x07, 0x06, { n := 1, preds := [0], dst := .pred }), (0x07, 0x07, { n := 1, preds := [0], dst := .vec })]
      ++ ((List.range 9).map fun m => (0x08, m, { n := if m = 8 then 1 else 2, wide := true, uni := true, dst := .sca }))
      ++ [(0x08, 0x0A, { n := 2, wide := true, cond := 5, uni := true, dst := .pred }), (0x08, 0x0B, { n := 2, wide := true, cond := 5, uni := true, dst := .pred })]) = true
    ∧ (fld w 63 58 = 0x07 ∧ fld w 57 50 = 0x08 ∧ Safety.performs s 0 0 w 0 (vreadCodes (crw s 0 0) i) = true ∧ i.o 2 ≠ 0x148 ∧ i.o 2 ≠ 0x14E
      ∧ (source s i i.wd (negInt i.wd) 1 0).1 < 32) := by decide +kernel

/-- A word with a guard: holds where predicate 1 does. -/
def onP1 (w : Nat) : Nat := w + 1 * 2 ^ 48 + 1 * 2 ^ 45
/-- A crew whose predicate 1 holds in the given lanes. -/
def crewP1 (w : Nat) (m : W32) (ext : Nat := 0) : State := crewAt w ext { kernel := 1, index := 0, p := [(1, m)] }
/-- A word of the control class is performed. -/
def ctlOk (s : State) (w : Nat) (imm : Nat → Bool) : Bool := Safety.performs s 0 0 w 0 (controlCodes (Safety.insAt s 0 0 w 0) imm)
/-- The crew of slot 0 of cluster 0 runs one path of the given lanes at 0x1000, and nothing else. -/
def isWhole (s : State) (m : W32 := 0xFFFFFFFF#32) : Bool :=
  let x := crw s 0 0
  x.run == some { mask := m, pc := 0x1000 } && x.pending == [] && x.atReconv == [] && x.atBarrier == [] && x.divs == []

theorem whole_of {s : State} {m : W32} (h : isWhole s m = true) : Safety.whole (crw s 0 0) { mask := m, pc := 0x1000 } := by
  simp only [isWhole, Bool.and_eq_true, beq_iff_eq] at h
  obtain ⟨⟨⟨⟨a, b⟩, c⟩, d⟩, e⟩ := h
  exact ⟨a, rfl, b, c, d, e⟩

theorem test_ControlInstructions_hyps :
    [(0x00, 0), (0x01, 0), (0x03, 1), (0x04, 0)].all (fun o => [0#32, 1#32, 0xFFFFFFFF#32].all fun m =>
      let w := onP1 (o.1 * 2 ^ 50 + o.2 * 2 ^ 8)
      fld w 63 50 == o.1 && ctlOk (crewP1 w m) w (fun v => if o.1 = 0x03 then v < 2 else v == 0) && (crw (crewP1 w m) 0 0).atBarrier == []
        && (Safety.insAt (crewP1 w m) 0 0 w 0).lanes == m) = true
    ∧ (let w := onP1 (0x02 * 2 ^ 50)
       ctlOk (crewP1 w 0#32) w (fun _ => true) = true ∧ (Safety.insAt (crewP1 w 0#32) 0 0 w 0).lanes = 0#32)
    ∧ (let w := 0x02 * 2 ^ 50 + 0xFF * 2 ^ 8
       fld w 63 50 = 0x02 ∧ Memory.wf (crewAt w 0).mem = true ∧ ctlOk (crewAt w 0) w (fun _ => true) = true ∧ (Safety.insAt (crewAt w 0) 0 0 w 0).lanes ≠ 0#32)
    ∧ (let w := 0x3F * 2 ^ 58
       let s := crewAt w 0
       let p : Path := { mask := 0xFFFFFFFF#32, pc := 0x1000 }
       known (fld w 63 58) (fld w 57 50) = false ∧ Memory.wf s.mem = true ∧ mayIssue s 0 0 = true ∧ (crw s 0 0).run = some p ∧ waits s p.pc = false
        ∧ fetch s 0 0 p.pc = (0, w))
    -- EXIT of one lane, of the others waiting at a barrier: all that are left, or not all; and with a request not sent
    ∧ (let w := 0x01 * 2 ^ 50
       let s := updCrew (crewAt w 0) 0 0 fun x => { x with run := some { mask := 1#32, pc := 0x1000 }, atBarrier := [{ mask := 0xFFFFFFFE#32, pc := 0x2000, bar := some (3 + 16 * (2 + 256)) }] }
       let p := updCrew s 0 0 fun x => { x with pending := [{ mask := 2#32, pc := 0x3000 }], atBarrier := [{ mask := 0xFFFFFFFC#32, pc := 0x2000 }] }
       let d : CrewDst := { cluster := 0, slot := 0, pc := 0, instr := 0#64, dst := 0, size := 4, signed := false, base := 0, lanes := [], hasDst := false }
       let u : State := { s with requests := [{ id := 0, pkt := { cls := 0, type := 3, dst := 0, src := 0, engine := 0, seq := 0 }, crew := some d, held := .turn }] }
       ctlOk s w (· == 0) && (crw s 0 0).atBarrier.map (·.mask) == [~~~((crw s 0 0).exited ||| (Safety.insAt s 0 0 w 0).lanes)] && !unsent s 0 0
         && (mget (clu s 0).barriers 3 {}).count == 0 && !(crw s 0 0).mreport
         && ctlOk p w (· == 0) && !unsent p 0 0 && (crw p 0 0).exited ||| (Safety.insAt p 0 0 w 0).lanes ||| 0xFFFFFFFC#32 != 0xFFFFFFFF#32
         && ctlOk u w (· == 0) && unsent u 0 0 && (crw u 0 0).atBarrier != []) = true
    ∧ isWhole (crewP1 (onP1 (0x01 * 2 ^ 50)) 1#32) = true ∧ 0xFFFFFFFF#32 &&& ~~~(1#32) ≠ 0#32 := by
  decide +kernel

/-- A branch word, and a branch through s5. -/
def braW (t r : Nat) : Nat := 0x20 * 2 ^ 58 + 0x01 * 2 ^ 50 + t * 2 ^ 27 + r * 2 ^ 9
def linkW (minor : Nat) : Nat := 0x20 * 2 ^ 58 + minor * 2 ^ 50 + 0x105

theorem test_BranchesAndDivergence_hyps :
    -- no lane, all lanes, and some lanes with a join elsewhere, at the next word, and at the target
    [(4, 8), (4, 1), (1, 1), (0x3FFFF, 2)].all (fun o => [0#32, 1#32, 0xFFFFFFFF#32].all fun m =>
      let w := onP1 (braW o.1 o.2)
      let s := crewP1 w m
      isWhole s && Safety.performs s 0 0 w 0 (braCodes (Safety.insAt s 0 0 w 0)) && (crw s 0 0).exited == 0#32) = true
    ∧ (let s := crewAt (braW 0x20000 0) 0
       isWhole s && Safety.performs s 0 0 (braW 0x20000 0) 0 (braCodes (Safety.insAt s 0 0 (braW 0x20000 0) 0))) = true
    -- BRX and RET: to an aligned address, an odd one, a poisoned one, and with no lane
    ∧ [0x02, 0x04].all (fun minor => [(0, false), (2 ^ 48 - 8, false), (4, false), (8, true)].all fun o =>
      let w := linkW minor
      let s := crewAt w 0 { kernel := 1, index := 0, s := [(5, BitVec.ofNat 64 o.1)], sPoison := if o.2 then [(5, true)] else [] }
      let i := Safety.insAt s 0 0 w 0
      isWhole s && Safety.performs s 0 0 w 0 (linkCodes i true) && srcLane s i 64 (fld w 8 0) 0 == o && i.lanes != 0#32 && Memory.wf s.mem) = true
    ∧ [0x02, 0x03, 0x04].all (fun minor =>
      let w := onP1 (linkW minor)
      let s := crewP1 w 0#32
      let i := Safety.insAt s 0 0 w 0
      isWhole s && Safety.performs s 0 0 w 0 (linkCodes i (minor != 3)) && i.lanes == 0#32) = true
    ∧ (let w := linkW 0x03 + 0x3FFFF * 2 ^ 27
       let s := crewAt w 0
       let i := Safety.insAt s 0 0 w 0
       isWhole s && Safety.performs s 0 0 w 0 (linkCodes i false) && i.lanes != 0#32) = true := by
  decide +kernel

/-- A barrier word: barrier 3, an inline count. -/
def barW (minor n : Nat) : Nat := 0x21 * 2 ^ 58 + minor * 2 ^ 50 + (0x1C0 + n) * 2 ^ 36 + 3 * 2 ^ 8
/-- Barrier 3 of cluster 0 waits for `n` crews; `count` have arrived. -/
def barAt3 (w n count : Nat) : State :=
  let s := crewAt w 0
  setClu s 0 { clu s 0 with barriers := if count = 0 then [] else [(3, { n, count, held := [] })] }

theorem test_BarriersAndCrewLife_hyps :
    [0x00, 0x01].all (fun minor => [(1, 0, 0), (2, 0, 0), (2, 2, 1), (3, 3, 1), (2, 3, 1)].all fun o =>
      let w := barW minor o.1
      let s := barAt3 w o.2.1 o.2.2
      let i := Safety.insAt s 0 0 w 0
      fld w 63 58 == 0x21 && fld w 57 50 == minor && (mfind (clu s 0).crews 0).isSome && !unsent s 0 0 && (hf s (cluTower 0)).runs == []
        && Safety.performs s 0 0 w 0 (barrierCodes s (crw s 0 0) i) && isWhole s && (crw s 0 0).exited == 0#32
        && !(crw s 0 0).mreport && (srcLane s i 64 (i.o 0) 0).1 == o.1 && fld w 11 8 == 3 && (mget (clu s 0).barriers 3 {}).n == o.2.1
        && (mget (clu s 0).barriers 3 {}).count == o.2.2 && Memory.wf s.mem) = true
    -- a crew whose MSTAT shows a fault
    ∧ (let w := barW 0 2
       let s := updCrew (crewAt w 0) 0 0 fun x => { x with mreport := true, mstat := [(4, 9#32)] }
       isWhole s && Safety.performs s 0 0 w 0 (barrierCodes s (crw s 0 0) (Safety.insAt s 0 0 w 0)) && (crw s 0 0).shown == some 9) = true
    -- a crew with lanes on another path
    ∧ [0x00, 0x01].all (fun minor =>
      let w := barW minor 2
      let s := updCrew (crewAt w 0) 0 0 fun x => { x with run := some { mask := 1#32, pc := 0x1000 }, pending := [{ mask := 0xFFFFFFFE#32, pc := 0x2000 }] }
      Safety.performs s 0 0 w 0 (barrierCodes s (crw s 0 0) (Safety.insAt s 0 0 w 0)) && (crw s 0 0).atBarrier == []
        && 1#32 &&& (~~~(crw s 0 0).exited) != ~~~(crw s 0 0).exited) = true
    -- a phase open for 1,000 ms, at its limit
    ∧ (let s0 := crewAt (barW 0 2) 0
       let s := setClu s0 0 { clu s0 0 with barriers := [(3, { n := 2, count := 1, held := [0], since := 1000000 })] }
       (clu s 0).barTimeout == 1000 && (mget (clu s 0).barriers 3 {}).count != 0 && elapsedMs (clock s 1001000000) 1000000 1000
        && (krn s (crw s 0 0).kernel).mode != .ended) = true
    -- a launch of 16 crews whose last may start
    ∧ (let words := [(BitVec.ofNat 64 (15 * 2 ^ 42)), 0#64, 0#64, 0#64, 0#64, 0#64, 0#64, 0#64]
       let s : State := { live with clusters := [(127, { mode := .running })], kernels := [(7, { q := 0, index := 0, words, clusters := [127], mode := .running })] }
       let k := krn s 7
       k.crews = 16 ∧ k.mode = .running ∧ k.contained = false ∧ 127 ∈ k.clusters ∧ 127 * 128 + 15 ∉ k.admitted ∧ (admitSlot (clu s 127) 15 k.vregs).isSome = true) := by
  decide +kernel

theorem test_BarriersAndCrewLife_release_hyps :
    let x : Crew := { kernel := 1, index := 0, hold := .ended }
    x.hold = .ended ∧ ∀ q, q < 4 → mget x.q q 0 = 0 := ⟨rfl, fun _ _ => rfl⟩

/-- A word of the memory class: operands 0, 1 and 3, and the low nine bits. -/
def memW (op size o0 o1 : Nat) (o3 low : Nat := 0) : Nat :=
  0x10 * 2 ^ 58 + size * 2 ^ 55 + op * 2 ^ 50 + o0 * 2 ^ 36 + o1 * 2 ^ 27 + o3 * 2 ^ 9 + low
/-- A crew whose lanes 0 and 31, where predicate 1 holds, have addresses in v4 and v5, values in v6 and v7, and s4 the first address. -/
def memCrew (w a b : Nat) (x : Crew := { kernel := 1, index := 0 }) (s : State := live) : State :=
  let h := fun (n : Nat) => BitVec.ofNat 32 (n / 2 ^ 32)
  crewAt w 0 { x with
    p := [(1, 0x80000001#32)], s := [(4, BitVec.ofNat 64 a)]
    v := [(128, BitVec.ofNat 32 a), (159, BitVec.ofNat 32 b), (160, h a), (191, h b), (192, 5#32), (223, 0x80000000#32), (255, 1#32)] } s
/-- A memory word is performed, its operands raise nothing, and its accesses go to memory (or fail with status `bad`). -/
def memOk (s : State) (w : Nat) (k : XKind) (bad : Nat := 0) : Bool :=
  let i := Safety.insAt s 0 0 w 0
  Safety.performs s 0 0 w 0 (memCodes (crw s 0 0) i) && (memExcs s i).isEmpty && !i.acting.isEmpty
    && i.acting.all fun l => (laneAt s i k l).node == none && (laneAt s i k l).st == bad && (bad != 0 || localMemory s (laneAt s i k l).addr)
/-- Nothing is left that a release of crew 0 of cluster 0 waits for. -/
def isQuiet (s : State) : Bool :=
  (hf s (cluTower 0)).runs == [] && (hf s (cluTower 0)).stores == [] && (hf s (cluTower 0)).failures == [] && s.requests == [] && (s.headframes.all fun h => h.2.waiting == [])
    && !(crw s 0 0).mreport

theorem quiet_of {s : State} (h : isQuiet s = true) : Safety.quiet s 0 0 := by
  simp only [isQuiet, Bool.and_eq_true, beq_iff_eq, List.all_eq_true, Bool.not_eq_true'] at h
  obtain ⟨⟨⟨⟨⟨a, g⟩, b⟩, c⟩, d⟩, e⟩ := h
  exact ⟨a, g, b, c, d, fun f => absurd f (by simp [e])⟩

-- The last 32 bytes of the fast tier, and of a cluster's own shared local memory by offset.
theorem test_LoadsAndStores_hyps :
    -- vector loads of 1, 4 and 16 bytes, one an acquire, and a scalar load
    [0, 3].all (fun op => [(0, 2, 128), (2, 2, 128), (4, 8, 128), (2, 2, 128 + 32 + 4), (3, 0x100, 256)].all fun o =>
      let w := onP1 (memW op o.1 o.2.1 (if o.2.2 < 256 then 4 else 0x104) 0 o.2.2)
      let s := memCrew w 0x17FFFFFFFF0 0x17FFFFFFFE0
      memOk s w .load && isWhole s && (clu s 0).l1 == [] && s.poison == []) = true
    ∧ [(0, 6, 128), (4, 8, 128), (2, 6, 128 + 64 + 8), (2, 6, 129), (3, 0x104, 256)].all (fun o =>
      let w := onP1 (memW 1 o.1 o.2.1 (if o.2.2 < 256 then 4 else 0x104) 0 o.2.2)
      let s := memCrew w 0x17FFFFFFFF0 0x17FFFFFFFE0
      memOk s w .store && isWhole s && isQuiet s) = true
    -- past the end of a cluster's own shared local memory, with MREPORT 0 and 1
    ∧ [(0, .load), (3, .load), (1, XKind.store)].all (fun o => [false, true].all fun r =>
      let w := onP1 (memW o.1 2 2 4)
      let s := memCrew w 0x100000 0x100004 { kernel := 1, index := 0, mreport := r }
      memOk s w o.2 4 && Memory.wf s.mem && (crw s 0 0).mreport == r && (mget (crw s 0 0).mstat 31 0#32) == 0#32) = true
    ∧ (let w := onP1 (memW 1 2 6 4 0 (128 + 64 + 8))
       let s := memCrew w 0x17FFFFFFFF0 0x17FFFFFFFE0 { kernel := 1, index := 0, mreport := true, mstat := [(3, 0x10004#32)] }
       memOk s w .store && (hf s (cluTower 0)).runs == [] && (hf s (cluTower 0)).stores == [] && (hf s (cluTower 0)).failures == [] && s.requests == [] && s.headframes == []
        && (crw s 0 0).mreport && (crw s 0 0).shown == some 4) = true := by
  decide +kernel

theorem test_LoadsAndStores_calm : Safety.calm (memCrew 0 0x17FFFFFFFF0 0x17FFFFFFFE0) := calm_of rfl rfl rfl (by decide +kernel)

-- A word of a line the L1 holds, and a word of shared local memory, read by a lane.
theorem test_LoadsAndStores_errs_hyps :
    let w := onP1 (memW 0 2 2 4 0 128)
    let s0 := memCrew w 0x17FFFFFFFF0 0x17FFFFFFFE0
    let s := setClu s0 0 { clu s0 0 with l1 := [{ line := 0x2FFFFFFFF, set := 255, way := 0, data := readMem s0 0x17FFFFFFF80 128 }] }
    let i := Safety.insAt s 0 0 w 0
    let u := memCrew (onP1 (memW 0 2 2 4)) 0xFFFF8 0xFFFFC
    memOk s w .load && (l1Find (clu s 0) (8 * 0x2FFFFFFFFE)).isSome && !inSlm (8 * 0x2FFFFFFFFE) && 0x2FFFFFFFFE == (laneAt s i .load 0).addr / 8
      && memOk u (onP1 (memW 0 2 2 4)) .load && home u (slmBase + 0xFFFF8) == .slm 0 = true := by
  decide +kernel

theorem test_AtomicsAndWaits_hyps :
    -- both lanes at one address, and at two; with and without RET; one an acquire and release
    ((List.range 11).map (· + 4)).all (fun op => [(0x17FFFFFFFF0, false, 128), (0x17FFFFFFFE0, true, 128 + 96 + 8)].all fun o =>
      let w := onP1 (memW op 2 (if o.2.1 then 8 else 0) 4 6 o.2.2) + (if o.2.1 then 2 ^ 54 else 0)
      let s := memCrew w 0x17FFFFFFFF0 o.1
      let i := Safety.insAt s 0 0 w 0
      memOk s w (.atom i.op i.ret) && i.ret == o.2.1 && isWhole s && s.poison == [] && isQuiet s && i.acting.all fun l => !(atomOperand s i l).2.2) = true
    -- the first poll and a later one of one lane; equal (false of zeros against 5) and not equal (true)
    ∧ [0, 1].all (fun cond => [none, some 1#32].all fun left =>
      let w := onP1 (memW 2 2 cond 4 6 (128 + 32 + 4))
      let s := updCrew (memCrew w 0x17FFFFFFFF0 0x17FFFFFFFE0) 0 0 fun x => { x with run := x.run.map fun (p : Path) => { p with wait := left } }
      let x := crw s 0 0
      memOk s w .load && s.poison == [] && s.requests == [] && s.headframes == []
        && (x.run == some { mask := 0xFFFFFFFF#32, pc := 0x1000, wait := left } && x.pending == [] && x.atReconv == [] && x.atBarrier == [] && x.divs == [])
        && (Safety.insAt s 0 0 w 0).lanes == 0x80000001#32) = true := by
  decide +kernel

/-- A tile of one row of 64 elements of 2 bytes, to the start of cluster 0's shared local memory. -/
def oneRow : TldJob :=
  { slot := 0, q := 3, dst := 0, src := 0x17FFFFFFF00#64, rows := 1, stride := 0, pitch := 8, esize := 2, lanes := 1#32, pc := 0x1000, instr := 0#64, begun := true }

theorem test_FencesTransposesAndHandovers_hyps :
    -- each fence at WAVE-wide and MODULE scope, and a range of none, one and more than 2,048 lines
    [(0, 0), (0, 4), (1, 0), (1, 1), (2, 3)].all (fun o =>
      let w := 0x11 * 2 ^ 58 + o.1 * 2 ^ 50 + o.2 * 2 ^ 2
      let s := crewAt w 0
      let i := Safety.insAt s 0 0 w 0
      Safety.performs s 0 0 w 0 (fenceCodes i) && i.lanes != 0#32 && isQuiet s && isWhole s) = true
    ∧ [0, 128, 2048 * 128 + 1].all (fun n =>
      let w := 0x11 * 2 ^ 58 + 3 * 2 ^ 50 + 0x104 * 2 ^ 27 + 0x105 * 2 ^ 9 + 2 * 2 ^ 2
      let s := crewAt w 0 { kernel := 1, index := 0, s := [(4, 0xFFFFFFFFFF80#64), (5, BitVec.ofNat 64 n)] }
      let i := Safety.insAt s 0 0 w 0
      Safety.performs s 0 0 w 0 (fenceCodes i) && i.lanes != 0#32 && srcLane s i 64 (i.o 1) 0 == (0xFFFFFFFFFF80, false)
        && (srcLane s i 64 (i.o 3) 0).1 == n) = true
    ∧ (let w := 0x12 * 2 ^ 58 + 0x104 * 2 ^ 36 + 0x105 * 2 ^ 27 + 0x106 * 2 ^ 18 + 3 * 2 ^ 16 + 2 * 2 ^ 8
       let s := crewAt w 0 { kernel := 1, index := 0, q := [(3, 254)], s := [(5, 0x17FFFFFFF00#64), (6, 0x0008000000000000#64)] }
       let i := Safety.insAt s 0 0 w 0
       Safety.performs s 0 0 w 0 (tldCodes i) && (tldExcs s i).isEmpty && i.lanes != 0#32 && decide (mget (crw s 0 0).q (fld w 17 16) 0 < 255)) = true
    ∧ (let s0 := crewAt 0 0
       let s := setClu s0 0 { clu s0 0 with tlds := [oneRow] }
       let j := oneRow
       (clu s 0).tlds == [j] && alive s && s.poison == [] && j.begun && j.left == [] && j.lines == [] && farNode s j.src.toNat == none && decide (j.beyond ≤ 2 ^ 20)
        && decide (j.rowBytes ≤ j.pitch) && (j.pieces.all fun p => accessStatus s (j.iss s 0) .load p.1 p.2 == 0 && localMemory s p.1)
        && (List.range j.cols).all fun col => accessStatus s (j.iss s 0) .store (slmBase + j.dst + col * j.pitch) j.rowBytes == 0
          && localMemory s (slmBase + j.dst + col * j.pitch)) = true
    ∧ (let w := 0x13 * 2 ^ 58 + 0x100 * 2 ^ 36 + 7 * 2 ^ 8
       let s := crewAt w 0
       let i := Safety.insAt s 0 0 w 0
       let n := fld w 15 8
       isQuiet s && Safety.performs s 0 0 w 0 ((if asyncCodes i true ≠ [] ∨ fld w 17 16 ≠ 0 ∨ (8 ≤ n ∧ n ≠ 0xF) then [1] else []) ++ octetCodes i) && i.lanes != 0#32
        && !(octet s i).2 && !unsent s 0 0 && ((dmaEngines s i).filter fun e => decide (crewJobs s e < 64)) == [7]) = true := by
  decide +kernel

/-- Descriptors of the six matrix operations that pass their checks. -/
def goodD : Nat → List Nat
  | 1 => [2 ^ 60, 0x2000, 8, 0, 0, 0, 0, 0]
  | 2 => [2 ^ 60 + 2 ^ 56, 0x2000, 8, 0, 0, 0, 0, 0]
  | 3 => [2 ^ 60 + 2 ^ 56 + 2 ^ 54, 0x2000, 8, 0, 0, 0x3000, 2 ^ 32, 0]
  | 4 => [0xB * 2 ^ 43, 0x2000, 8, 0, 0, 0x3F800000, 0, 0]
  | 5 => [0, 0, 0, 0, 0, 0, 0, 0]
  | _ => [0, 0x080000000000, 128, 128, 0, 0, 0, 0]
/-- A crew of a kernel that issues a descriptor from s8; buffer 0 holds a tile of one element. -/
def matCrew (w : Nat) (d : List Nat) (x : Crew := { kernel := 1, index := 0 }) (es : List Entry := []) : State :=
  let s := crewAt w 0 { x with s := (List.range 8).filterMap fun j => if d.getD j 0 = 0 then none else some (8 + j, BitVec.ofNat 64 (d.getD j 0)) }
  setClu s 0 { clu s 0 with loaded := [(0, 1, 1, 1)], entries := es, nextEntry := 99 }
/-- A matrix word with its descriptor in s8 to s15 and counter 3. -/
def matW (m : Nat) : Nat := 0x18 * 2 ^ 58 + m * 2 ^ 50 + 0x108 * 2 ^ 36 + 3 * 2 ^ 16
/-- An entry of an array's queue. -/
def plain (id : Nat) : Entry := { id, op := .mzero, d := [], slot := 0, kernel := 1, part := 0, q := 3, lanes := 1#32, pc := 0x1000, instr := 0#64 }
/-- The word is performed, its first failing word is `bad`, and the array has `n` entries waiting. -/
def matOk (s : State) (m n : Nat) (bad : Option Nat) : Bool :=
  let i := Safety.insAt s 0 0 (matW m) 0
  let d : Desc := { s, x := clu s 0, lane := (krn s 1).lane, d := (List.range 8).map fun j => mget (crw s 0 0).s (8 + j) 0#64 }
  let faults := [mloadFault d, streamFault d false, streamFault d true, mepiFault d, mzeroFault d, mspillFault d]
  Safety.performs s 0 0 (matW m) 0 (asyncCodes i false ++ octetCodes i) && i.lanes != 0#32 && faults.getD (m - 1) none == bad
    && (Machine.queued (clu s 0)).length == n && d.lane == 0

theorem test_MatrixIssue_hyps :
    [1, 2, 3, 4, 5, 6].all (fun m =>
      matOk (matCrew (matW m) (goodD m) { kernel := 1, index := 0, q := [(3, 254)] } ((List.range 15).map plain)) m 15 none
        && matOk (matCrew (matW m) (goodD m) {kernel := 1, index := 0 } ((List.range 16).map plain)) m 16 none
        && matOk (matCrew (matW m) (goodD m) {kernel := 1, index := 0, q := [(3, 255)] }) m 0 none
        && (let s := matCrew (matW m) ((goodD m).set 7 (2 ^ 48))
            matOk s m 0 (some 7) && Memory.wf s.mem)
        && (let s := matCrew (matW m) (goodD m) { kernel := 1, index := 0, sPoison := [(15, true)] }
            matOk s m 0 none && Memory.wf s.mem && mget (crw s 0 0).sPoison 15 false)) = true
    -- a guard in no lane, and the other lane's turn
    ∧ [1, 2, 3, 4, 5, 6].all (fun m =>
      let w := matW m + 2 ^ 48
      let s := matCrew w (goodD m)
      let i := Safety.insAt s 0 0 w 0
      Safety.performs s 0 0 w 0 (asyncCodes i false ++ octetCodes i) && i.lanes == 0#32
        && (let s := matCrew (matW m) (goodD m)
            let s := { s with kernels := s.kernels.map (fun e => (e.1, { e.2 with words := [BitVec.ofNat 64 (2 ^ 52)] })) ++ [(2, { krn s 1 with words := [BitVec.ofNat 64 (2 ^ 53)] })] }
            let s := setClu s 0 { clu s 0 with lastLane := 1, kernels := [1, 2], crews := (clu s 0).crews ++ [(1, { crw s 0 0 with kernel := 2 })] }
            let i := Safety.insAt s 0 0 (matW m) 0
            Safety.performs s 0 0 (matW m) 0 (asyncCodes i false ++ octetCodes i) && i.lanes != 0#32 && otherTurn s 0 1)) = true
    ∧ [0, 1].all (fun n =>
      let w := 0x18 * 2 ^ 58 + 0x0F * 2 ^ 50 + 3 * 2 ^ 16 + n * 2 ^ 8
      let u := crewAt (w + 2 ^ 48) 0
      let j := Safety.insAt u 0 0 (w + 2 ^ 48) 0
      let s := crewAt w 0 { kernel := 1, index := 0, q := [(3, 1)] }
      let i := Safety.insAt s 0 0 w 0
      Safety.performs s 0 0 w 0 (asyncCodes i true ++ (if i.o 0 ≠ 0 then [1] else [])) && i.lanes != 0#32
        && Safety.performs u 0 0 (w + 2 ^ 48) 0 (asyncCodes j true ++ (if j.o 0 ≠ 0 then [1] else [])) && j.lanes == 0#32) = true := by
  decide +kernel

/-- A matrix entry of cluster 0 with its descriptor. -/
def entryOf (op : EntryOp) (d : List Nat) (uses : List Nat) : Entry :=
  { id := 5, op, d := d.map (BitVec.ofNat 64), slot := 0, kernel := 1, part := 0, q := 3, lanes := 1#32, pc := 0x1000, instr := 0#64, klen := 1, nlen := 1, uses, per := 32 }
/-- Cluster 127 with one entry, and a tile of one element in buffer 0. -/
def withEntry (e : Entry) (f : Cluster → Cluster := id) : State :=
  { live with clusters := [(127, f { mode := .running, entries := [e], sb0 := { valid := true, fmt := 1, klen := 1, nlen := 1, elems := [(0, 0x38)] } })] }

theorem test_StreamsThroughTheArray_hyps :
    let stream := { entryOf .mstream [2 ^ 60 + 2 ^ 56 + 1, 0x17FFFFFFFF0, 8, 0, 0, 0, 0, 0] [0] with started := true }
    let hold := fun (n : Nat) => withEntry stream fun x => { x with holdCount := n }
    let ok := fun (s : State) (e : Entry) (a n : Nat) => ∀ p ∈ linePieces a n, arrayStatus s (e.iss 127) .load p.1 p.2 = 0
    -- an unscaled tile and a scaled one
    (∀ e ∈ [entryOf .mload [2 ^ 60, 0x17FFFFFFFF8, 8, 0, 0, 0, 0, 0] [],
        { entryOf .mload [3 * 2 ^ 60 + 31 * 2 ^ 50 + 2 ^ 59, 0x17FFFFFF000, 8, 0x17FFFFFFFFF, 1, 0, 0, 0] [] with klen := 32 }],
      entry (withEntry e) 127 5 = some e ∧ e.op = .mload ∧ (∀ f ∈ (clu (withEntry e) 127).entries, ¬ f.id < e.id) ∧ e.nlen ≤ 512
        ∧ (∀ k, k < e.klen → ok (withEntry e) e (fld (e.w 1) 47 0 + k * fld (e.w 2) 39 0) (cdiv (e.nlen * tileBits (fld (e.w 0) 63 60)) 8))
        ∧ (tileMx (fld (e.w 0) 63 60) = true → ∀ b, b < e.klen / 32 → ok (withEntry e) e (fld (e.w 3) 47 0 + b * fld (e.w 4) 39 0) e.nlen))
    ∧ (let e := { stream with started := false }
       let s := withEntry e
       entry s 127 5 = some e ∧ e.stream = true ∧ e.started = false ∧ alive s = true ∧ mayStart (clu s 127) e = true ∧ (∀ f ∈ (clu s 127).entries, ¬ f.id < e.id)
        ∧ ∀ b ∈ e.buffers, (if b = 0 then (clu s 127).sb0 else (clu s 127).sb1).valid = true)
    ∧ (let e := stream
       let s := withEntry e fun x => { x with actBase := fullActivity }
       0 < activityNow s (clu s 127) ∧ s.poison = [] ∧ entry s 127 5 = some e ∧ e.stream = true ∧ e.cplx = 0 ∧ e.src = 0 ∧ e.entered < e.rows ∧ (∀ u ∈ (e.uses[e.entered / e.per]?).toList, blocked (clu s 127) e u = false)
        ∧ tileOk (fld (e.w 0) 63 60) = true ∧ fld (e.w 0) 63 60 ≠ 0xB ∧ tileMx (fld (e.w 0) 63 60) = false ∧ (clu s 127).sb0.poison = []
        ∧ ok s e (fld (e.w 1) 47 0) (cdiv (e.klen * tileBits (fld (e.w 0) 63 60)) 8))
    -- rows that are and are not the last, dropped or with one pass
    ∧ (∀ w ∈ [0, 1], ∀ o ∈ ([{ row := w, target := w, drop := 1, passes := [] }, { row := w, target := w, passes := [{ sums := [0x3F800000, 0] }] }] : List RowOut),
      let e := { stream with written := w, entered := w + 1, outs := [o] }
      let s := withEntry e
      entry s 127 5 = some e ∧ e.outMode = 0 ∧ e.wide = false ∧ (∀ f ∈ (clu s 127).entries, ¬ f.id < e.id) ∧ e.rows = 2
        ∧ (let e := { e with d := e.d.modifyHead (· + 2 ^ 48) }
           entry (withEntry e) 127 5 = some e ∧ e.outMode = 0 ∧ e.wide = true)
        ∧ (let e := { e with op := .mstreamIx, d := (2 ^ 60 + 2 ^ 56 + 2 ^ 54 + 1) :: e.d.tail.take 6 ++ [BitVec.ofNat 64 (2 ^ 63)], uses := [] }
           entry (withEntry e) 127 5 = some e ∧ e.outMode = 2 ∧ (mfind (clu (withEntry e) 127).crews e.slot).isNone = true))
    ∧ (alive (hold 2047) = true ∧ (clu (hold 2047) 127).holdCount < (clu (hold 2047) 127).holdWindow)
    ∧ (let s := withEntry stream fun x => { x with holdCount := 2048, actBase := 1 }
       ¬ (clu s 127).holdCount < (clu s 127).holdWindow ∧ 0 < activityNow s (clu s 127))
    ∧ (clu (hold 2048) 127).holdWindow ≤ (clu (hold 2048) 127).holdCount := by
  decide +kernel

/-- Rows that enter, at an activity of 0 and at a full one: with one pass, wide, complex, with three passes, and as accumulate-writes. -/
theorem test_StreamsThroughTheArray_rows :
    let stream := { entryOf .mstream [2 ^ 60 + 2 ^ 56 + 1, 0x17FFFFFFFF0, 8, 0, 0, 0, 0, 0] [0] with started := true }
    (∀ a ∈ [0, fullActivity], ∀ e ∈ stream :: { stream with op := .mstreamIx, d := (2 ^ 60 + 2 ^ 56 + 2 ^ 54) :: stream.d.tail.take 6 ++ [BitVec.ofNat 64 (2 ^ 63)], uses := [] }
          :: ([2 ^ 48, 2 ^ 51, 0xA * 2 ^ 60] : List W64).map fun w => { stream with d := (stream.d.headD 0 + w) :: stream.d.tail },
      let s := withEntry e fun x => { x with actBase := a }
      entry s 127 5 = some e ∧ e.stream = true ∧ e.started = true ∧ alive s = true ∧ e.entered < e.rows ∧ activityNow s (clu s 127) = a
        ∧ (∀ u ∈ (if e.cplx ≠ 0 ∨ e.outMode = 1 then (if e.entered = 0 then e.uses else []) else (e.uses[e.entered / e.per]?).toList), blocked (clu s 127) e u = false)
        ∧ (mfind (clu s 127).crews e.slot).isNone = true) := by
  decide +kernel

theorem withEntry_calm (e : Entry) (f : Cluster → Cluster) : Safety.calm (withEntry e f) := calm_of rfl rfl rfl rfl

theorem test_DrainsSpillsAndAssays_hyps :
    let epi := fun (w0 : Nat) => entryOf .mepi [w0, 0x17FFFFFFFF0, 8, 0, 0, 0x3F800000, 0, 0x17FFFFFFFFC] [31]
    let drain := epi (31 * 2 ^ 59 + 0xB * 2 ^ 43 + 2 ^ 47)
    let spill := fun (mode : Nat) => entryOf .mspill [15 * 2 ^ 60 + mode * 2 ^ 54, 0x08013FFFFF80, 128, 128, 31 * 2 ^ 32, 0, 0, 0] [47]
    let ix := { entryOf .mstreamIx [2 ^ 60 + 2 ^ 56 + 2 ^ 54, 0, 0, 0, 0, 0, 0, 2 * 2 ^ 62] [] with written := 1, entered := 1 }
    (∀ e ∈ [entryOf .mzero [31 * 2 ^ 59, 0, 0, 0, 0, 0, 0, 0] [31], entryOf .mzero [2 ^ 53, 0, 0, 0, 0, 0, 0, 0] [0]],
      entry (withEntry e) 127 5 = some e ∧ e.op = .mzero ∧ alive (withEntry e) = true ∧ mayStart (clu (withEntry e) 127) e = true
        ∧ ∀ u ∈ e.uses, blocked (clu (withEntry e) 127) e u = false)
    -- the first row and the last
    ∧ (∀ j ∈ [0, 1],
      let e := { drain with entered := j }
      let s := withEntry e
      let p := epiOf (e.w 0)
      entry s 127 5 = some e ∧ j < p.rows ∧ (j = 0 → mayStart (clu s 127) e = true) ∧ (∀ sl ∈ p.slots, blocked (clu s 127) e (sl + j / e.per) = false)
        ∧ p.drain = 0 ∧ p.eop = 0 ∧ p.aint = false ∧ p.wb = false ∧ p.ofmt = 0xB ∧ p.clr = false ∧ 31 ∉ (clu s 127).narrow)
    ∧ (let o : RowOut := { row := 1, target := 1, passes := [{ sums := [7] }] }
       let e := { drain with entered := 2, written := 1, outs := [o] }
       let s := withEntry e
       entry s 127 5 = some e ∧ e.outs = [o] ∧ o.scales = [] ∧ ∀ q ∈ linePieces (fld (e.w 1) 47 0 + o.row * fld (e.w 2) 39 0) 4, arrayStatus s (e.iss 127) .store q.1 q.2 = 0)
    -- a drain without and with its amax
    ∧ (∀ a ∈ [0, 1],
      let e := { epi (31 * 2 ^ 59 + 0xB * 2 ^ 43 + a * 2 ^ 34) with entered := 1, written := 1, amax := 5 }
      let s := withEntry e
      let p := epiOf (e.w 0)
      entry s 127 5 = some e ∧ p.rows ≤ e.written ∧ p.accw = false ∧ p.amax = decide (a = 1) ∧ e.amaxPoison = false
        ∧ arrayStatus s (e.iss 127) (.atom 8 false) (fld (e.w 7) 47 0) 4 = 0)
    ∧ (∀ m ∈ [0, 1],
      let e := spill m
      let s := withEntry e
      entry s 127 5 = some e ∧ e.started = false ∧ mayStart (clu s 127) e = true ∧ fld (e.w 0) 55 54 ≠ 2 ∧ e.written < spillRows e ∧ blocked (clu s 127) e 47 = false
        ∧ fld (e.w 1) 47 0 % 128 = 0 ∧ fld (e.w 4) 40 32 + 1 = 32 ∧ accwStatus s (e.iss 127) (fld (e.w 1) 47 0) = 0)
    -- what waits for its last accumulate-write
    ∧ (let e := { epi (0xD * 2 ^ 43) with written := 1 }
       entry (withEntry e) 127 5 = some e ∧ (epiOf (e.w 0)).accw = true ∧ (epiOf (e.w 0)).rows ≤ e.written)
    ∧ (let e := { spill 1 with written := 1 }
       entry (withEntry e) 127 5 = some e ∧ fld (e.w 0) 55 54 ≠ 2 ∧ spillRows e ≤ e.written)
    ∧ (entry (withEntry ix) 127 5 = some ix ∧ ix.outMode = 2 ∧ ix.rows ≤ ix.written)
    -- the register, and the object
    ∧ Safety.accepted live { sid := 0, reg := true, val := [0xFF#8] } 0x505003 = true ∧ Safety.accepted live { sid := 4, val := [0xFF#8, 0#8, 0#8, 0#8, 0#8, 0#8, 0#8, 0#8] } 0x505003 = true := by
  decide +kernel

/-- A clear of two slots, drains with an operand, of every way out, and spills of rows and of tiles. -/
theorem test_DrainsSpillsAndAssays_forms :
    let epi := fun (w0 : Nat) => { entryOf .mepi [w0, 0x17FFFFFF000, 8, 0x2000, 0, 0x3F800000, 0x17FFFFFE000, 0] [31] with entered := 1, outs := [{ row := 0, target := 0, passes := [{ sums := [7] }] }] }
    let spill := fun (m : Nat) => entryOf .mspill [14 * 2 ^ 60 + m * 2 ^ 54 + 2 ^ 56, 0x08013FFFF000, 128, 2048, 32 * 2 ^ 32, 0, 0, 0] [46, 47]
    (∀ k ∈ [0, 1],
      let e := { entryOf .mzero [30 * 2 ^ 59 + 2 ^ 54, 0, 0, 0, 0, 0, 0, 0] [30, 31] with written := k }
      entry (withEntry e) 127 5 = some e ∧ mayStart (clu (withEntry e) 127) e = true ∧ blocked (clu (withEntry e) 127) e (30 + k) = false)
    ∧ (∀ o ∈ [0, 1],
      let e := entryOf .mepi [31 * 2 ^ 59 + 0xB * 2 ^ 43 + o * 2 ^ 41, 0x2000, 8, 0x3000, 0, 0x3F800000, 0, 0] [31]
      let s := withEntry e
      let p := epiOf (e.w 0)
      entry s 127 5 = some e ∧ p.eop = o ∧ e.entered < p.rows ∧ mayStart (clu s 127) e = true ∧ (∀ sl ∈ p.slots, blocked (clu s 127) e sl = false)
        ∧ (mfind (clu s 127).crews e.slot).isNone = true)
    ∧ (let e := epi (31 * 2 ^ 59 + 3 * 2 ^ 43)
       let e := { e with outs := [{ row := 0, target := 0, passes := [{ sums := [7] }], scales := [(127, false)] }] }
       let s := withEntry e
       let p := epiOf (e.w 0)
       entry s 127 5 = some e ∧ p.wb = false ∧ p.accw = false ∧ p.ofmt ≠ 0 ∧ fld (e.w 6) 47 0 + 1 ≤ fld (e.w 1) 47 0
        ∧ ∀ q ∈ linePieces (fld (e.w 1) 47 0) 1 ++ linePieces (fld (e.w 6) 47 0) 1, arrayStatus s (e.iss 127) .store q.1 q.2 = 0)
    ∧ (let e := epi (31 * 2 ^ 59 + 0xD * 2 ^ 43)
       (epiOf (e.w 0)).wb = false ∧ (epiOf (e.w 0)).accw = true ∧ (mfind (clu (withEntry e) 127).crews e.slot).isNone = true)
    ∧ (∀ r ∈ [0, 1],
       let e := epi (31 * 2 ^ 59 + r * 2 ^ 47 + 2 ^ 4)
       let p := epiOf (e.w 0)
       entry (withEntry e) 127 5 = some e ∧ p.wb = true ∧ p.ofmt = 0 ∧ p.amax = false ∧ p.rows = r + 1)
    ∧ (let e := spill 1
       let s := withEntry e
       entry s 127 5 = some e ∧ fld (e.w 0) 55 54 = 1 ∧ e.written < spillRows e ∧ fld (e.w 4) 40 32 + 1 = 33 ∧ (clu s 127).wgbPoison = []
        ∧ ∀ i, i < 2 → accwStatus s (e.iss 127) (fld (e.w 1) 47 0 + 128 * i) = 0 ∧ home s (fld (e.w 1) 47 0 + 128 * i) = .scratch 3)
    ∧ (∀ k ∈ [0, 1],
       let e := { spill 2 with written := k }
       let s := withEntry e
       entry s 127 5 = some e ∧ fld (e.w 0) 55 54 = 2 ∧ blocked (clu s 127) e (32 + fld (e.w 0) 63 60 + e.written) = false ∧ e.uses.length = 2) := by
  decide +kernel

/-- A descriptor of a bucket in tower 1 that is the module's own only share: `n` bytes, flags in word 0. -/
def bktDesc (n : Nat) (flags : Nat := 0) : List W64 :=
  [2 ^ 63 + flags + 2 ^ 32, 0x080060000000, n, 0x080061000000, 0, 0x2000, 0x040000000000, 0].map (BitVec.ofNat 64)
/-- Bucket 64 in a mode, in the open step 3, closed at time 0. -/
def bktIn (m : BucketMode) (n : Nat := 4096) (flags : Nat := 0) : State :=
  { live with
    buckets := [(64, { desc := bktDesc n flags, mode := m, step := 3, shares := if m = .shipped then [0] else [] })]
    verdict := { mode := .opened, last := 3, closed := true } }
/-- A contribution of one element, of step `n`, from node 5 to bucket 64, whose ranks are nodes 0 and 5; `w` is added to its first word. -/
def share (n : Nat := 3) (w : Nat := 0) : Packet :=
  pktClose { cls := 1, type := 9, dst := 0, src := 5, engine := 0, seq := 0, payload := leBytes 8 (64 + w) ++ leBytes 8 n ++ leBytes 4 0x3F800000 }
def bktTwo (m : BucketMode) (win : Nat := 0) : State :=
  let s := bktIn m
  writeMem { s with
    buckets := s.buckets.map fun b => (b.1, { b.2 with desc := b.2.desc.set 4 0x100000000#64 })
    active := if win = 0 then s.active else mset s.active 0x450001 (leBytes 8 256 ++ leBytes 8 0x080061000000 ++ leBytes 8 0x080061000FFF) } 0x2000 [0#8, 0#8, 5#8, 0#8]

theorem test_GradientBuckets_arm_hyps :
    let s := bktIn .landed
    let x : Bucket := { desc := bktDesc 0x400000, mode := .armed, part := cfg s 0x50800D, step := s.verdict.last, closedAt := some s.verdict.closedAt }
    let y : Bucket := { x with desc := bktDesc 0x400001 }
    (alive s = true ∧ s.verdict.closed = true ∧ (∀ i, i < 8 → (bktDesc 0x400000).getD i 0#64 &&& BitVec.ofNat 64 (bktMask i) = (bktDesc 0x400000).getD i 0#64)
      ∧ (bkt s 64).live = false ∧ (bktDesc 0x400000).length = 8 ∧ ((bktDesc 0x400000).getD 0 0#64).toNat.testBit 63 = true ∧ armBad s 64 x = false)
    ∧ armBad s 64 y = true := by decide +kernel

theorem test_GradientBuckets_modes_hyps :
    (bkt (bktIn .armed) 64).mode = .armed
    ∧ (let x := bkt (bktIn .ready) 64
       alive (bktIn .ready) = true ∧ x.mode = .ready ∧ bit (bw x 0) 61 = false ∧ x.g = 1 ∧ x.rank = 0
        ∧ bucketStatus (bktIn .ready) 64 .load x.src x.bytes = 0
        ∧ bucketStatus (setTow (bktIn .ready) 1 { tow live 1 with reset := .relock }) 64 .load x.src x.bytes = 1
        ∧ ∀ i, i < 32 → accwStatus (bktIn .ready) (bucketIss 64) (x.stage + 128 * i) = 0)
    ∧ (∀ f ∈ [0, 2 ^ 60],
      let s := bktIn .shipping 4096 f
      let x := bkt s 64
      let q : Request := { id := 1, pkt := share, bucket := some (64, 1), held := .turn }
      x.mode = .shipping ∧ s.requests = [] ∧ bit (bw x 0) 60 = decide (f ≠ 0) ∧ bucketStatus s 64 .store x.src x.bytes = 0
        ∧ q ∈ ({ s with requests := [q] } : State).requests ∧ q.held ≠ .sent)
    ∧ (let x := bkt (bktIn .shipped) 64
       x.mode = .shipped ∧ x.complete = true ∧ ({ x with shares := [] } : Bucket).complete = false ∧ bucketStatus (bktIn .shipped) 64 .load x.stage x.shard = 0
        ∧ (x.stage + x.shard ≤ x.land ∨ x.land + x.shard ≤ x.stage))
    ∧ (∀ m ∈ [BucketMode.shipping, .shipped, .landed], (bkt (bktIn m) 64).mode = m)
    ∧ (let s := { bktIn .armed with active := [(0x507004, leBytes 4 1)], buckets := [(64, { bkt (bktIn .armed) 64 with closedAt := some 0 })] }
       let u := clock s 2000000
       let x := bkt s 64
       x.live = true ∧ x.closedAt = some 0 ∧ inForce u 0x507004 ≠ 0 ∧ elapsedMs u 0 (inForce u 0x507004) = true ∧ bucketStatus u 64 .store x.stage x.shard = 0) := by
  decide +kernel

/-- Contributions that come early, late, for another tag, and in their place, which no window allows and one does. -/
theorem test_GradientBuckets_shares_hyps :
    Safety.reaches (arrived live 31 share) 31 share 9 = true ∧ (bkt live 64).mode = .idle
    ∧ (∀ m ∈ [BucketMode.armed, .failed], Safety.reaches (arrived (bktTwo m) 31 (share 4)) 31 (share 4) 9 = true ∧ (bkt (bktTwo m) 64).step < 4)
    ∧ (∀ q ∈ [share 2, share 3 (2 ^ 32)], Safety.reaches (arrived (bktTwo .armed) 31 q) 31 q 9 = true)
    ∧ Safety.reaches (arrived (bktTwo .failed) 31 share) 31 share 9 = true ∧ (bkt (bktTwo .failed) 64).live = false
    ∧ (∀ win ∈ [0, 1],
      let s := arrived (bktTwo .armed win) 31 share
      let x := bkt s 64
      Safety.reaches s 31 share 9 = true ∧ leNat (share.payload.take 8) % 256 = 64 ∧ x.live = true ∧ leNat ((share.payload.drop 8).take 8) = x.step
        ∧ fld (leNat (share.payload.take 8)) 63 32 = x.tag ∧ ((List.range x.g).find? fun j => x.node s j == share.src && j != x.rank) = some 1
        ∧ share.payload.length = 20 ∧ share.offset = 0 ∧ 4 ≤ x.len x.rank ∧ 1 ∉ x.shares ∧ accwStatus s (bucketIss 64) x.stage = 0 ∧ x.stage % 128 = 0
        ∧ inbound s share.jkey x.stage 4 true = decide (win = 1)) := by decide +kernel

theorem test_GradientBuckets_ready_lines :
    let x := bkt (bktIn .ready) 64
    ∀ a, x.stage / 128 ≤ a / 128 → a < x.stage + x.shard → accwStatus (bktIn .ready) (bucketIss 64) (a / 128 * 128) = 0 := by
  intro x a h1 h2
  have h := test_GradientBuckets_modes_hyps.2.1.2.2.2.2.2.2.2
  have hs : x.stage = 0x080061000000 := by decide +kernel
  have hl : x.shard = 4096 := by decide +kernel
  rw [hs] at h1 h2; rw [hl] at h2
  have := h (a / 128 - 0x080061000000 / 128) (by omega)
  rw [show (bkt (bktIn .ready) 64).stage = 0x080061000000 from hs] at this
  rwa [show 0x080061000000 + 128 * (a / 128 - 0x080061000000 / 128) = a / 128 * 128 by omega] at this

theorem untraced_of {s : State} (h : cfg s 0x820001 = 0) : Safety.untraced s := fun p => by simp [h, bit]

theorem test_GradientBuckets_frame_hyps : Safety.calm (bktIn .ready) ∧ Safety.untraced (bktIn .ready) ∧ (bktIn .ready).poison = [] :=
  ⟨calm_of rfl rfl rfl rfl, untraced_of (by decide +kernel), rfl⟩

/-- A booted module with a verdict. -/
def stv (v : Verdict) (f : State → State := id) : State := f { live with verdict := v }

theorem test_StepVerdict_writes_hyps :
    let w := fun (n : Nat) => ({ sid := 4, val := leBytes 8 n } : ObjWrite)
    (∀ n ∈ [0, 1, 2 ^ 64 - 1], ∀ key ∈ [0x508005, 0x50800C, 0x508006, 0x508007, 0x508008], Safety.accepted live (w n) key = true ∧ leNat (w n).val = n)
    -- any first step; after that the next one, which wraps; none while one is open
    ∧ (stv {}).verdict.noneOpened = true ∧ (stv {}).verdict.rebased = false ∧ (stv {}).verdict.mode = .noStep
    ∧ (let v := (stv { mode := .recorded, noneOpened := false, last := 2 ^ 64 - 1 }).verdict
       v.noneOpened = false ∧ 0 = (v.last + 1) % 2 ^ 64 ∧ v.mode ≠ .opened ∧ v.mode ≠ .voted ∧ v.passes = false)
    ∧ (stv { mode := .opened, last := 1 }).verdict.mode = .opened ∧ (stv { mode := .voted, last := 1 }).verdict.mode = .voted
    ∧ Safety.accepted (clock live 2000000) (w 1) 0x508006 = true := by decide +kernel

theorem test_StepVerdict_vote_hyps :
    let closed := stv { mode := .opened, last := 1, closed := true }
    let child := stv { mode := .opened, last := 1, closed := true } fun s => { s with active := [(0x508004, leBytes 2 5 ++ leBytes 2 0)] }
    (alive closed = true ∧ closed.verdict.mode = .opened ∧ closed.verdict.closed = true ∧ closed.red.voteSent = false ∧ treeChildren closed = [] ∧ treeParent closed = none)
    ∧ (alive child = true ∧ treeParent child = some 5)
    ∧ (let s := stv { mode := .voted, last := 1 } fun s => { s with red := { result := some { veto := 1, norm := 0#64, layers := [], vec := [] } } }
       s.verdict.mode = .voted ∧ 1 = s.verdict.last ∧ s.red.result ≠ none)
    ∧ (let s := stv { mode := .voted, last := 1, votedAt := 0 } fun s => { s with active := [(0x508003, leBytes 4 2)] }
       s.verdict.mode = .voted ∧ s.verdict.timedOut = false ∧ elapsedMs (clock s 2000000) s.verdict.votedAt (inForce (clock s 2000000) 0x508003) = true) := by
  decide +kernel

theorem test_StepVerdict_buckets_hyps : ∀ b, b < 256 → (bkt (stv { mode := .opened, last := 1, closed := true }) b).live = false := fun _ _ => rfl

/-- A recipe whose pass 1 and pass 2 have one operation each: pass 1 loads the gradient, pass 2 too; `fact` sets `FACT_EN`. -/
def loads (fact : Bool) : List Byte := leBytes 8 (2 ^ 56 + 2 ^ 50 + (if fact then 2 ^ 17 else 0)) ++ leBytes 4 (2 ^ 26) ++ leBytes 4 (2 ^ 26)
/-- A table of one group: recipe 0, ready by `UE_GRAD_READY`, one row of 32 columns, its factored statistics and their sums. -/
def oneGroup : List Byte :=
  let at_ := fun i => 0x040000000000 + 4096 * i
  ([2 ^ 58, 2 ^ 32 + 32, at_ 1, at_ 2, 0, 0, 0, 0, at_ 3, at_ 4, at_ 5, at_ 6, 0, 0, 0, 0] : List Nat).flatMap (leBytes 8)
/-- Engine 7 in a step with that table. -/
def stepIn (u : Ue) (v : Verdict) (fact : Bool := false) (red : Reduction := {}) : State :=
  { live with
    ues := [(7, { u with inService := true, groups := 1, table := oneGroup })], verdict := v, red
    latch := { recipes := [(0, loads fact)], scalars := [0x3F800000#32, 0x3F000000#32] } }
/-- A step that passed its verdict, with a result that lets it be applied. -/
def passed : Verdict := { mode := .recorded, passes := true, result := true, last := 1 }
def joined : Reduction := { own := some { veto := 0, norm := 0#64, layers := [], vec := [] }, result := some { veto := 0, norm := 0#64, layers := [], vec := [] } }

theorem test_UpdateEngineSteps_hyps :
    let runs := fun (s : State) (m : UeMode) => alive s && (ue s 7).inService && (ue s 7).mode == m && fwRuns s 20
    let two := fun (s : State) => s.verdict == passed && s.red == joined
    (let s := stepIn { mode := .pass1 } { mode := .opened, last := 1 }
     (ue s 7).inService = true ∧ (ue s 7).mode = .pass1 ∧ (0#64).toNat % 4096 < (ue s 7).groups)
    ∧ (let s := stepIn { mode := .pass1 } { mode := .opened, last := 1 }
       (ue s 7).groups ≤ (1#64).toNat % 4096 ∧ (ue s 6).inService = false)
    -- a step skipped with a group of pass 1 ready and with none
    ∧ nextPass1 (ue (stepIn { mode := .pass1, readyGroups := [0] } { mode := .voted, last := 1 }) 7) = some 0
    ∧ nextPass1 (ue (stepIn { mode := .pass1 } { mode := .voted, last := 1 }) 7) = none
    ∧ (let s := stepIn { mode := .pass1, readyGroups := [0], ending := true } { mode := .recorded, last := 1 }
       runs s .pass1 = true ∧ (ue s 7).ending = true ∧ passesRun s = true)
    ∧ (let s := stepIn { mode := .pass1, readyGroups := [0] } { mode := .opened, last := 1 }
       runs s .pass1 = true ∧ 0 < (ue s 7).groups ∧ 0 ∉ (ue s 7).pass1Groups ∧ groupReady (ue s 7) 0 = true ∧ s.verdict.mode = .opened ∧ rcpFact (latched s (ue s 7) 0) = false)
    ∧ (let s := stepIn {} passed false { joined with result := none }
       s.red.result = none ∧ s.red.own ≠ none)
    ∧ (let s := stepIn { mode := .waiting } passed false joined
       runs s .waiting = true ∧ two s = true)
    ∧ (let s := stepIn { mode := .factored } passed false joined
       runs s .factored = true ∧ two s = true ∧ rcpFact (latched s (ue s 7) 0) = false)
    ∧ (let s := stepIn { mode := .factored } passed true joined
       let a := gw oneGroup 0 8
       let b := gw oneGroup 0 9
       runs s .factored = true ∧ two s = true ∧ (ue s 7).groups = 1 ∧ 0 ∉ (ue s 7).factDone ∧ meetsOs s a (4 * gRows oneGroup 0) = false ∧ meetsOs s b (4 * gCols oneGroup 0) = false ∧ rcpFact (latched s (ue s 7) 0) = true ∧ a + 4 * gRows oneGroup 0 ≤ b )
    ∧ (let s := stepIn { mode := .pass2 } passed false joined
       runs s .pass2 = true ∧ 0 < (ue s 7).groups ∧ 0 ∉ (ue s 7).doneGroups ∧ gEmb oneGroup 0 = false
        ∧ ∀ i, i < rcpP2 (loads false) → fld (rcpOp (loads false) (rcpP1 (loads false) + i)) 31 26 ≠ 2 ∧ fld (rcpOp (loads false) (rcpP1 (loads false) + i)) 31 26 ≠ 3)
    ∧ (let s := stepIn { mode := .completing } passed false joined
       two s = true ∧ s.latch.pushDone = 0 ∧ s.stackUnits = [] ∧ accessStatus s (ueIss 0) (.atom 4 false) 0x2000 8 = 0 ∧ localMemory s 0x2000 = true
        ∧ ({ s.latch with pushDone := 0x2000 } : UeLatch).pushDone ≠ 0 ∧ ∀ n, n < 8 → (ue s n).inService = true → (ue s n).mode = .completing) := by
  decide +kernel

theorem test_UpdateEngineSteps_frame_hyps : let s := stepIn { mode := .waiting } passed true joined
    Safety.calm s ∧ Safety.untraced s ∧ s.poison = [] := ⟨calm_of rfl rfl rfl rfl, untraced_of (by decide +kernel), rfl⟩

/-- A booted module whose last port is in some state, with every port enabled and wavelengths retrained after 1 s. -/
def port31 (x : Port) (f : State → State := id) : State :=
  f { live with ports := [(31, x)], active := [(0x400003, leBytes 4 0xFFFFFFFF), (0x400006, leBytes 4 1)] }
/-- A port in service on all wavelengths. -/
def lit : Port := { mode := .active, wlTx := 0xFF#8, wlRx := 0xFF#8 }

theorem test_PortsAndWavelengths_hyps :
    let s := port31 lit
    let liveP := fun (s : State) => (prt s 31).mode == .active || (prt s 31).mode == .degraded
    let trains := fun (s : State) => bit (cfg s 0x400003) 31 && fwRuns s 8 && !s.elsfpOut.contains 3
    -- with eight wavelengths, and with the four that keep a port in service
    (liveP s = true ∧ (prt s 31).wlTx.getLsbD 7 = true ∧ (prt s 31).wlRx.getLsbD 7 = true ∧ cfg s 0x400005 ≤ 100000 ∧ 0 < cfg s 0x400005)
    ∧ (let s := port31 { lit with mode := .degraded, wlTx := 0x0F#8, wlRx := 0x0F#8 }
       liveP s = true ∧ (prt s 31).wlTx.getLsbD 3 = true ∧ (prt s 31).wlRx.getLsbD 3 = true)
    ∧ (let s := port31 { lit with mode := .degraded, wlRx := 0x7F#8 }
       liveP s = true ∧ fwRuns s 8 = true ∧ cfg s 0x400006 ≠ 0 ∧ (prt s 31).wlRx.getLsbD 7 = false ∧ (prt s 31).retrain = none
        ∧ mget (prt s 31).lastRetrain 7 0 + cfg s 0x400006 * 1000000000 ≤ (clock s 1000000000).pace.now)
    ∧ (let s := port31 { lit with mode := .degraded, wlRx := 0x7F#8, retrain := some 7 }
       liveP s = true ∧ s.fwQueue = [] ∧ fwRuns s 8 = true ∧ (prt s 31).retrain = some 7 ∧ (litMask s 3).getLsbD 7 = true)
    ∧ (prt s 31).lastAck + 100000 ≤ (clock s 1000000).pace.now
    ∧ (Safety.accepted s { sid := 4, val := leBytes 4 0x7FFFFFFF } 0x400003 = true ∧ Safety.accepted (port31 { mode := .disabled }) { sid := 4, val := leBytes 4 0xFFFFFFFF } 0x400003 = true)
    ∧ (Safety.accepted s { sid := 4, val := leBytes 1 31 } 0x400007 = true ∧ trains s = true ∧ serves s 8 = true ∧ serves { s with fw := mset s.fw 8 { mode := .restarting } } 8 = false)
    ∧ (let s := port31 {}
       (prt s 31).mode = .dark ∧ trains s = true) := by
  decide +kernel

theorem test_PortsAndWavelengths_bringup_hyps :
    let trains := fun (s : State) => bit (cfg s 0x400003) 31 && fwRuns s 8 && !s.elsfpOut.contains 3
    let i := fun (tx : BitVec 8) (enc : Bool) => ({ tx, rx := 0xFF#8, enc, node := 9, port := 0 } : PeerInfo)
    (∀ e ∈ [false, true],
      let s := port31 { mode := .training } fun s => if e then { s with active := s.active ++ [(0x470001, leBytes 4 0x80000000)] } else s
      s.fwQueue = [] ∧ (prt s 31).mode = .training ∧ (prt s 31).failedAt = none ∧ fwRuns s 8 = true ∧ bit (cfg s 0x470001) 31 = e
        ∧ (4 ≤ wlCount ((i 0x0F#8 e).tx &&& litMask s 3) ∧ 4 ≤ wlCount (i 0x0F#8 e).rx) ∧ wlCount ((i 0x07#8 e).tx &&& litMask s 3) < 4)
    ∧ (let s := port31 { mode := .training, peer := some (i 0xFF#8 true) }
       (prt s 31).mode = .training ∧ (prt s 31).peer = some (i 0xFF#8 true) ∧ (prt s 31).farPub = [] ∧ fwRuns s 0 = true ∧ s.fwQueue = [])
    ∧ (let s := port31 { mode := .training, failedAt := some 0 }
       (prt s 31).failedAt = some 0 ∧ 0 + 1000000000 ≤ (clock s 1000000000).pace.now ∧ trains s = true)
    ∧ (let s := port31 { mode := .training, peer := some (i 0xFF#8 true), farPub := [1#8] }
       (prt s 31).peer = some (i 0xFF#8 true) ∧ (prt s 31).farPub ≠ [])
    ∧ (∀ c ∈ [1, 8],
       let s := port31 { mode := .dark, cause := c }
       (prt s 31).mode = .dark ∧ (prt s 31).cause = c ∧ trains s = true)
    ∧ fwRuns (port31 lit) (5 + 3) = true := by
  decide +kernel

/-- Port 31 is in service and is the route to node 1; requests under job key 0 may read and write the first MiB. -/
def net (x : Port := lit) (f : State → State := id) : State :=
  f { live with
    ports := [(31, x)]
    active := [(0x410001, leBytes 4 0 ++ leBytes 4 0x80000000), (0x450001, leBytes 8 256 ++ leBytes 8 0 ++ leBytes 8 0xFFFFF), (0x470002, leBytes 4 1), (0x420002, leBytes 1 0)] }
/-- A packet from node 1, for this node unless `dst` says otherwise, born at the present time unless `age` says otherwise. -/
def pktOf (type : Nat) (cls : Nat := 0) (payload : List Byte := []) (age : Nat := 0) (dst : Nat := 0) (rsp : Bool := false) (hops : Nat := 8)
    (retry : Nat := 0) (aux : Nat := 0) : Packet :=
  pktClose { cls, type, dst, src := 1, engine := 7, seq := 4095, offset := 0x2000, payload, birth := 1000000 - age, rsp, hops, retry, aux }

theorem test_LinksAndPassingPackets_hyps :
    let s := net
    let keyed := net { lit with enc := true, keyed := true, keyPackets := 2 ^ 32, txSeq := 9, rxSeq := 9 }
    let at_ := fun (q : Packet) (f : State → State) => arrived (net lit f) 31 q
    -- a frame whose packet is taken, and what it frees of a retry buffer
    (let f : LinkFrame := { ack := 1, word0 := 0x18 * 2 ^ 56, body := List.replicate 28 0#8 }
     linkUp s 31 = true ∧ (prt s 31).rxSeq = 0 ∧ frameBody (prt s 31) 0 f = some f.body ∧ f.body ≠ []
      ∧ heldFlits (prt s 31) (vcOf (pktParse f.word0 f.body f.poison f.pz)) + flitsOf (pktParse f.word0 f.body f.poison f.pz) ≤ vcFlits (vcOf (pktParse f.word0 f.body f.poison f.pz)))
    ∧ (portUp keyed 31 = true ∧ (prt keyed 31).keyed = true ∧ fwRuns keyed 0 = true ∧ (prt keyed 31).txSeq ≤ 9 ∧ (prt keyed 31).rxSeq ≤ 9 ∧ 2 ^ 32 ≤ (prt keyed 31).keyPackets
      ∧ (prt keyed 31).keySince + cfg keyed 0x470002 * 1000000000 ≤ (clock keyed 1000000000).pace.now)
    ∧ [(0x18, 3), (0x1D, 3), (0x19, 3)].all (fun o => Safety.reaches (at_ (pktOf o.1 o.2) id) 31 (pktOf o.1 o.2) o.1) = true
    ∧ cfg s 0x200001 ≠ 2 ∧ (prt s 31).lastPace + 1000000 ≤ (clock s 1000000).pace.now ∧ (takeSeq (clock s 1000000) 0x444).map (·.1) = some 0
    ∧ (let s := net { lit with outQ := [{ pkt := pktOf 0x10 2, time := 0 }, { pkt := pktOf 0xA 1, time := 0 }] }
       (mfind s.ports 31).isSome = true ∧ s.lastEpoch + 100000 ≤ (clock s 0).pace.now
        ∧ [1, 2].all (fun cls => (prt s 31).outQ.any fun e => e.pkt.cls == cls && !e.pkt.rsp && jkeyPart s e.pkt.jkey == 0) = true)
    -- passing packets: one too old, one out of hops, one without a route, one that goes on, and one whose channel is stopped
    ∧ [pktOf 1 0 [] 40001 1, pktOf 1 0 [] 0 1 false 1, pktOf 2 0 [] 0 1 true 1, pktOf 1 0 [] 0 2, pktOf 1 0 [] 0 1 false 2, pktOf 0x10 2 [] 0 1, pktOf 5 0 [] 0 1].all (fun q =>
      let s := at_ q id
      alive s && q.dst != nodeId s && atFront (prt s 31) q && !channelStopped s 31 && !joinedAlready s { q with hops := q.hops - 1 }
        && (splitResult s { q with hops := q.hops - 1 }).isNone && s.paths == [] && s.requests == [] && cfg s 0x420002 == 0 && routes s q.src == [31]) = true
    ∧ tooOld s (pktOf 1 0 [] 40001 1) = true ∧ tooOld s (pktOf 1 0 [] 40000 1) = false ∧ routes s 2 = [] ∧ routes s 1 = [31] ∧ responseType 1 = some 2
    ∧ channelStopped (net lit fun s => { s with hotLines := List.replicate 4096 (31, { pktOf 1 with offset := 0x08013FFFF000 }) }) 31 = true
    ∧ (∀ r ∈ ([{ id := 8, pkt := pktOf 1 0 [] 40001 1 }, { id := 8, pkt := pktOf 1 0 [] 0 2 }, { id := 8, pkt := pktOf 1 0 [] 0 1 }] : List Request),
       let r := { r with held := .path, passing := true }
       let s := net lit fun s => { s with requests := [r] }
       r ∈ s.requests ∧ r.id = 8 ∧ (∀ q ∈ s.requests, q.id = 8 → q = r) ∧ (∀ q ∈ s.requests, q.passing = true → q = r) ∧ s.paths = [] ∧ cfg s 0x420002 = 0 ∧ r.pkt.cls = 0)
    ∧ (let p := { pktOf 0x18 3 with ecrc := 0 }
       p.dst = nodeId s ∧ atFront (prt (at_ p id) 31) p = true ∧ pktCode p ≠ p.ecrc) := by
  decide +kernel

/-- The port with a replay table and a side queue. -/
def netT (table : List Replay) (side : List Packet := []) (f : State → State := id) : State := net { lit with table, side } f
/-- A store of byte 127 of a line, and an addition of 8 bytes. -/
def st127 : Packet := pktOf 3 0 (leBytes 16 (2 ^ 127) ++ leBytes 8 (0x5A * 2 ^ 56))
def atom8 (retry : Nat := 0) (age : Nat := 0) : Packet := pktOf 5 0 (leBytes 8 5 ++ leBytes 8 0) age 0 false 8 retry 1

theorem test_RemoteRequestsAtTheirDestination_hyps :
    let at_ := fun (q : Packet) => arrived net 31 q
    let ld := pktOf 1 0 [] 0 0 false 8 0 2
    let ready := fun (s : State) (q : Packet) => !(routes s q.src).isEmpty && lineWaits s (pktLine q) == 0 && !waits s q.offset && !lineBusy (clock s 0) (pktLine q)
    let opens := fun (s : State) (q : Packet) => !channelStopped s 31 && !hotBlocked (clock s 0) q
    let e : Replay := { src := 1, engine := 7, seq := 4095, status := 0, value := 9, time := 1000000 }
    (Safety.reaches (at_ ld) 31 ld 1 = true ∧ tooOld (clock net 0) ld = false ∧ ready (at_ ld) ld = true ∧ opens (at_ ld) ld = true ∧ remoteStatus net 31 ld .load ld.offset 16 = 0)
    ∧ (Safety.reaches (at_ st127) 31 st127 3 = true ∧ ready (at_ st127) st127 = true ∧ opens (at_ st127) st127 = true ∧ remoteStatus net 31 st127 .store (0x2000 + 127) 1 = 0)
    ∧ (Safety.reaches (at_ atom8) 31 (atom8) 5 = true ∧ ready (at_ atom8) (atom8) = true ∧ opens (at_ atom8) atom8 = true ∧ recorded net 31 (atom8) = none ∧ tableFull (clock net 0) 31 = false
      ∧ (prt net 31).side = [] ∧ remoteStatus net 31 (atom8) (.atom 4 true) 0x2000 8 = 0)
    -- a tag the port holds, a retry it does not hold, and a full table
    ∧ recorded (netT [e]) 31 (atom8) = some e ∧ opens (netT [e]) atom8 = true
    ∧ (Safety.reaches (at_ (atom8 1)) 31 (atom8 1) 5 = true ∧ (atom8 1).retry ≠ 0)
    ∧ (let f := netT (List.replicate 4096 { e with seq := 0 })
       recorded f 31 (atom8) = none ∧ tableFull (clock f 0) 31 = true ∧ opens f atom8 = true)
    -- the side queue: a first attempt, a retry, and one too old
    ∧ [(0, 0), (1, 0), (0, 40001)].all (fun o =>
      let q := atom8 o.1 o.2
      let s := netT [] [q]
      (prt s 31).side == [q] && !tableFull (clock s 0) 31 && !hotBlocked (clock s 0) q && !(routes s q.src).isEmpty && tooOld (clock s 0) q == decide (o.2 = 40001) && ready s q) = true
    ∧ [pktOf 1 0 [] 0 0 false 8 0 2, st127, atom8, atom8 0 40001].all (fun q =>
      let s := netT [] [] fun s => { s with hotLines := [(31, q)] }
      pktLine q == 64 && homeTower s q.offset == 0 && !lineBusy (clock s 0) 64 && !waits s q.offset && !(routes s q.src).isEmpty) = true
    -- each request too old, behind another for its line, and at a stopped channel
    ∧ [(1, 40001), (3, 40001), (5, 40001), (1, 0), (3, 0)].all (fun o =>
      let q := pktOf o.1 0 [] o.2
      let s := arrived (netT [] [] fun s => { s with hotLines := [(31, st127)] }) 31 q
      Safety.reaches s 31 q o.1 && opens s q && tooOld (clock s 0) q == decide (o.2 = 40001) && needsHot (clock s 0) q) = true
    ∧ (let s := arrived (netT [] (List.replicate 64 atom8)) 31 ld
       Safety.reaches s 31 ld 1 = true ∧ channelStopped s 31 = true) := by
  decide +kernel

theorem net_calm (x : Port) : Safety.calm (net x) := calm_of rfl rfl rfl rfl

/-- A crew's destination of lanes 0 and 31, for an instruction word. -/
def dstOf (instr : Nat) (hasDst : Bool := true) (size : Nat := 4) : CrewDst :=
  { cluster := 0, slot := 0, dst := 2, size, signed := false, lanes := [(0, 0), (31, 8)], base := 0x4001000000002000, pc := 0x1000, instr := BitVec.ofNat 64 instr, hasDst }
/-- One request of that crew to node 1 is outstanding. -/
def asked (type : Nat) (d : Option CrewDst) (retry : Nat := 0) (mreport : Bool := false) : State :=
  crewAt 0 0 { kernel := 1, index := 0, mreport, v := [(192, 5#32), (223, 6#32)] } (net lit fun s =>
    { s with requests := [{ id := 4, pkt := { cls := 0, type, dst := 1, src := 0, engine := 7, seq := 4095, retry }, held := .sent, issued := 950000, crew := d }] })
/-- Whether the request is the only one, sent, of this type, and its crew takes its lanes. -/
def askedOk (s : State) (type : Nat) (d : CrewDst) : Bool :=
  match s.requests with
  | [r] => r.held == .sent && !r.passing && r.joined == [] && r.next == [] && r.tld == none && r.pkt.type == type && r.pkt.engine == 7 && r.pkt.seq == 4095
      && r.crew == some d && (mfind (clu s 0).crews 0).isSome && d.dst != 0x200 && opKind d.dst == .vec && [1, 2, 4, 8].contains d.size && d.lanes != []
  | _ => false

theorem test_AnswersToDirectRequests_hyps :
    let ld := dstOf (memW 0 2 2 4 0 (128 + 32 + 4))
    let st := dstOf (memW 1 2 2 4) false
    let at_ := dstOf (memW 4 2 2 4 6 128 + 2 ^ 54)
    let r := fun (type st : Nat) => { pktOf type 0 (leBytes 8 7) with rsp := true, status := st }
    let rsp := fun (type st : Nat) => { r type st with ecrc := pktCode (r type st) }
    let mine := fun (d : CrewDst) => fld d.instr.toNat 53 50
    -- a load answered well and poisoned, a store, and an atomic
    (askedOk (asked 1 (some ld)) 1 ld = true ∧ mine ld < 4 ∧ [0, 8].all (fun s => Safety.reaches (arrived (asked 1 (some ld)) 31 (rsp 2 s)) 31 (rsp 2 s) 2 && (rsp 2 s).status == s) = true)
    ∧ (askedOk (asked 3 (some st)) 3 st = true ∧ st.hasDst = false ∧ Safety.reaches (arrived (asked 3 (some st)) 31 (rsp 4 0)) 31 (rsp 4 0) 4 = true)
    ∧ (let s := asked 5 (some at_)
       askedOk s 5 at_ = true ∧ 4 ≤ mine at_ ∧ Safety.reaches (arrived s 31 (rsp 6 0)) 31 (rsp 6 0) 6 = true ∧ (rsp 6 0).poison = false
        ∧ (∀ l ∈ at_.lanes, (atomOperand s (insAt s 0 0 0x1000 at_.instr) l.1).2.2 = false) ∧ (insAt s 0 0 0x1000 at_.instr).size = at_.size)
    -- faults of each, with both settings of MREPORT; answers to nothing; and a congested window
    ∧ [(1, 2, ld), (3, 4, st), (5, 6, at_)].all (fun o => [false, true].all fun m =>
      let s := asked o.1 (some o.2.2) 3 m
      askedOk s o.1 o.2.2 && Safety.reaches (arrived s 31 (rsp o.2.1 0xFFFF)) 31 (rsp o.2.1 0xFFFF) o.2.1 && (crw s 0 0).mreport == m && (krn s 1).mode == .running && !(krn s 1).contained
        && (clock s 1000000).pace.now == 950000 + 50000 && (matching net 7 4095 o.1).isNone) = true
    ∧ (let s := asked 1 none
       (rsp 2 0).ece = false ∧ (let q := { rsp 2 0 with ece := true }
        Safety.reaches (arrived s 31 q) 31 q 2) = true ∧ s.requests.all (fun r => r.crew == none) = true ∧ (window s 0 7 1).halvedAt = none)
    -- the first retry of an atomic, and the last
    ∧ (let s := asked 5 (some at_)
       routes s 1 = [31] ∧ s.requests.all (fun r => decide (r.pkt.retry < 3) && r.pkt.cls == 0 && !r.pkt.rsp && sourceStatus s r.pkt == 0 && r.read == none
        && decide (0 < (window s 0 7 1).size) && sourceStatus { s with ports := [] } r.pkt != 0) = true
        ∧ (∀ x ∈ s.ports, x.2.split = [])) := by
  decide +kernel

/-- A headframe window of tower 0, to 64 KiB at 0x2000 of node 1, with one run and one request that belongs to it. -/
def winRun : Run := { id := 6, win := 2, first := 0x0A0000000000, bytes := [1#8, 2#8], grewAt := 0, crews := [0] }
def bulk (type : Nat) (f : Request → Request) (h : Headframe := {}) : State :=
  net lit fun s => { s with
    requests := [f { id := 4, pkt := { cls := 1, type, dst := 1, src := 0, engine := 7, seq := 4095, offset := 0x2000 }, held := .sent, issued := 1000000 }]
    headframes := [(0, h)] }
/-- Whether the only request is sent and matches a packet of engine 7 and sequence 4095. -/
def bulkOk (s : State) (type : Nat) : Bool :=
  match s.requests with
  | [r] => r.held == .sent && !r.passing && r.bucket == none && r.sealCh == none && r.push == none && r.tld == none && r.pkt.engine == 7
      && r.pkt.seq == 4095 && r.pkt.type == type
  | _ => false
/-- The answer to it. -/
def bulkRsp (type st : Nat) (payload : List Byte := []) : Packet :=
  let p := { pktOf type 1 payload with rsp := true, status := st }
  { p with ecrc := pktCode p }

theorem test_BulkTransfersAndWindows_hyps :
    let s := net
    let wr := pktOf 8 1 [1#8, 2#8, 3#8]
    let rd := pktOf 0xA 1 [] 0 0 false 8 0 16
    let deny := { wr with offset := 0xFFFFE, ecrc := 0 }
    (Safety.reaches (arrived s 31 wr) 31 wr 8 = true ∧ ingestOf s wr = none ∧ routes s wr.src ≠ [] ∧ remoteStatus s 31 wr .store wr.offset 3 = 0 ∧ bwrWaits s wr = false
      ∧ Safety.reaches (arrived s 31 (pktClose deny)) 31 (pktClose deny) 8 = true ∧ remoteStatus s 31 (pktClose deny) .store 0xFFFFE 3 ≠ 0)
    ∧ (Safety.reaches (arrived s 31 rd) 31 rd 0xA = true ∧ remoteStatus s 31 rd .load rd.offset 16 = 0 ∧ bulkWaits s rd.offset 16 = false)
    ∧ [2].all (fun k => bulkWaits (setStk s k { stk s k with st := .excluded }) 0x2000 16 && bwrWaits (setStk s k { stk s k with st := .excluded }) wr) = true
    ∧ (∀ win ∈ [0, 1],
       let q := pktClose { share with src := 1, birth := 1000000 }
       let b := bktTwo .armed win
       let s := arrived (writeMem { net with buckets := b.buckets, verdict := b.verdict, active := net.active.filter (fun e => e.1 != 0x450001) ++ b.active } 0x2000 [0#8, 0#8, 1#8, 0#8]) 31 q
       let x := bkt s 64
       Safety.reaches s 31 q 9 = true ∧ x.live = true ∧ leNat ((q.payload.drop 8).take 8) = x.step ∧ fld (leNat (q.payload.take 8)) 63 32 = x.tag ∧ routes s 1 ≠ []
        ∧ ((List.range x.g).find? fun j => x.node s j == q.src && j != x.rank) = some 1 ∧ q.offset + 4 ≤ x.len x.rank ∧ accwStatus s (bucketIss 64) x.stage = 0
        ∧ inbound s q.jkey x.stage 4 true = decide (win = 1)) := by
  decide +kernel

/-- What waits for an answer: a transaction, a copy engine, a crew's load, and a run. -/
theorem test_BulkTransfersAndWindows_answers_hyps :
    let ld := dstOf (memW 0 2 2 4)
    let x : Xact := { tag := 9, iss := { kind := .core, unit := 0 }, kind := .load, addr := 0x0A0000000000, size := 8 }
    (∀ who ∈ [Reader.xact x, .copy 3, .crew ld],
       let w : WinLoad := { req := 4, win := 2, addr := 0x0A0000000000, off := 0x2000, size := 128, who }
       let s := crewAt 0 0 { kernel := 1, index := 0, mreport := true } (bulk 0xA (fun r => { r with read := some (0, 2) }) { waiting := [w] })
       [bulkRsp 0xB 0 (leBytes 8 7), bulkRsp 0xB 4].all (fun q => Safety.reaches (arrived s 31 q) 31 q 0xB) = true ∧ bulkOk s 0xA = true ∧ (hf s 0).waiting = [w]
        ∧ (mfind (clu s 0).crews 0).isSome = true ∧ fld ld.instr.toNat 53 50 < 4 ∧ (crw s 0 0).mreport = true)
    -- the acknowledgement of a run, good and bad, and none
    ∧ (let h : Headframe := { runs := [{ winRun with sent := true }] }
       let s := bulk 8 (fun r => { r with run := some (0, 6) }) h
       bulkOk s 8 = true ∧ (hf s 0).runs.map (·.id) = [6] ∧ (hf s 0).held = [] ∧ (hf s 0).stores = []
        ∧ [bulkRsp 0xC 0, bulkRsp 0xC 4].all (fun q => Safety.reaches (arrived s 31 q) 31 q 0xC) = true ∧ (clock s 2000000).pace.now = 1000000 + 1000000)
    ∧ (∀ node ∈ [1, 2],
       let h : Headframe := { runs := [winRun] }
       let s := { bulk 8 id h with requests := [], active := (bulk 8 id h).active ++ [(0x440011, leBytes 4 1000000), (0x440003, leBytes 8 (2 ^ 63) ++ leBytes 8 (node * 2 ^ 50 + 0x2000))] }
       (hf s 0).runs = [winRun] ∧ winRun.sent = false ∧ s.requests = [] ∧ s.seqTimes = [] ∧ winRun.grewAt + cfg s 0x440011 ≤ (clock s 0).pace.now
        ∧ fld (hfRemote s 2) 63 50 = node ∧ (routes s node = [] ↔ node = 2) ∧ (window s 1 0x42C node).size ≠ 0) := by
  decide +kernel

/-- Messages of send queue 63 to receive queue 62. -/
def msg (f : Message → Message := id) : Message := f { id := 0, sq := 63, node := 1, rq := 62, seq := 65535, body := [1#8, 2#8], posted := 0, sentAt := 0 }
/-- A state with messages, and a buffer of `len` bytes posted at receive queue 62 where `len` is not 0. -/
def msgs (l : List Message) (len : Nat) (seq : Nat := 65535) : State :=
  let s := net lit fun s => { s with
    messages := l, msgSeq := [(63 * 16384 + 1, seq), (63 * 16384, seq)], recvSeq := [(64 + 63, seq), (63, seq)]
    active := s.active ++ [(0x480001, leBytes 2 1)] }
  if len = 0 then s else writeMem s (postRing s 62 0) (leBytes 8 0x17FFFFFF000 ++ leBytes 8 len)
/-- A message packet from node 1. -/
def msgPkt (type seq : Nat) (payload : List Byte) : Packet :=
  pktClose { cls := 2, type, dst := 0, src := 1, engine := 0x430 + 15, seq := 9, offset := 63 * 65536, aux := 62 * 65536 + seq, payload, birth := 1000000 }

theorem test_Messages_hyps :
    let fits := fun (s : State) =>
      (linePieces 0x17FFFFFF000 2 ++ linePieces (postRing s 62 0 + 8) 8 ++ linePieces (doneRing s 62 0) 16).all (fun p => accessStatus s rxIss .store p.1 p.2 == 0)
        && decide (0x17FFFFFF000 + 2 ≤ postRing s 62 0 + 8) && decide (0x17FFFFFF000 + 2 ≤ doneRing s 62 0 || doneRing s 62 0 + 16 ≤ 0x17FFFFFF000) && Memory.wf s.mem
    let one := msgs [] 2
    -- a doorbell behind a message, alone, and to this node itself
    (alive (msgs [msg] 0) = true ∧ (msg).waiting = false ∧ (msg).status = none)
    ∧ (let s := msgs [msg fun m => { m with status := some 0 }] 0
       (∀ x ∈ s.messages, x.id < s.messages.length ∧ x.waiting = false ∧ x.status ≠ none) ∧ 1 ≠ nodeId s ∧ routes s 1 ≠ [] ∧ s.seqTimes = [])
    ∧ (one.messages = [] ∧ nodeId one = 0 ∧ mget one.msgSeq (63 * 16384 + 0) 0 = 65535 ∧ mget one.recvSeq (0 * 64 + 63) 0 = 65535
        ∧ nextBuffer one 62 = some (0x17FFFFFF000, 2) ∧ (mget one.recvQueues 62 {}).parts = [] ∧ (mget one.recvQueues 62 {}).taken = 0 ∧ fits one = true)
    -- a whole message, a part of one, one without a buffer, with one too small, and a duplicate
    ∧ (let q := msgPkt 0x10 65535 [1#8, 2#8]
       Safety.reaches (arrived one 31 q) 31 q 0x10 = true ∧ routes one q.src ≠ [] ∧ q.offset / 65536 % 64 = 63 ∧ fld q.aux 21 16 = 62 ∧ q.aux % 65536 = mget one.recvSeq (64 + 63) 0
        ∧ q.payload.length = 2 ∧ q.offset % 65536 = 0)
    ∧ (let q := msgPkt 0x10 65535 [1#8]
       Safety.reaches (arrived one 31 q) 31 q 0x10 = true ∧ q.payload.length < 2)
    ∧ nextBuffer (msgs [] 0) 62 = none ∧ nextBuffer (msgs [] 1) 62 = some (0x17FFFFFF000, 1)
    ∧ (let q := msgPkt 0x10 65534 [1#8]
       Safety.reaches (arrived one 31 q) 31 q 0x10 = true ∧ ¬ (q.aux % 65536 + 65536 - 65535) % 65536 < 32768)
    -- answers
    ∧ [0x11, 0x12].all (fun type =>
      let m := msg fun m => { m with seqs := [9] }
      let q := msgPkt type 65535 []
      msgOf (msgs [m] 0) q == some m && Safety.reaches (arrived (msgs [m] 0) 31 q) 31 q type) = true
    ∧ (let s := msgs [msg] 0
       s.messages = [msg] ∧ (msg).status = none ∧ (msg).sentAt + 10000 ≤ (clock s 0).pace.now ∧ (msg).node ≠ nodeId s ∧ routes s (msg).node ≠ [] ∧ s.seqTimes = []
        ∧ routes s 2 = [] ∧ (cfg s 0x480001 = 1 ∧ (msg).posted + cfg s 0x480001 * 1000000 ≤ (clock s 1000000).pace.now)) := by
  decide +kernel

/-- This node's place in the verdict group, its verdict and its reduction. -/
def inTree (group : List Nat) (v : Verdict) (r : Reduction) : State :=
  net lit fun s => { s with active := s.active ++ [(0x508004, group.flatMap (leBytes 2))], verdict := v, red := r }
/-- A contribution. -/
def redVal (n : Nat) : RedVal := { veto := n, norm := 0#64, layers := [], vec := [] }
/-- A tree packet from node 1, for step 3, not yet closed; a contribution or result is whole, or lacks its last byte. -/
def treeOpen (type : Nat) (less : Nat := 0) : Packet :=
  let b := if type = 0x1A then [] else redBytes (redVal 1)
  { cls := 3, type, dst := 0, src := 1, engine := 7, seq := 4095, offset := 0, payload := b.take (b.length - less), birth := 1000000, hops := 8, aux := 3 }
/-- The same packet, closed. -/
def treePkt (type : Nat) (less : Nat := 0) : Packet := pktClose (treeOpen type less)

-- Each tree packet reaches its command at a state where `comes` below holds.
theorem test_VotesAndReductionsOverTheTree_reaches (s : State) (type less : Nat) (h : (alive s && (treeOpen type less).dst == nodeId s) = true) :
    Safety.reaches (arrived s 31 (treePkt type less)) 31 (treePkt type less) (treeOpen type less).type = true := reaches_arrived s 31 _ h

theorem test_VotesAndReductionsOverTheTree_hyps :
    let opened : Verdict := { mode := .opened, last := 3 }
    let voted : Verdict := { mode := .voted, last := 3, vote := true }
    let comes := fun (s : State) (q : Packet) => alive s && q.dst == nodeId s
    (let s := inTree [0, 1] opened {}
     comes s (treePkt 0x1A) = true ∧ s.red.votes = [] ∧ s.verdict.mode ≠ .voted)
    ∧ (∃ x ∈ (inTree [0, 1] opened { votes := [(3, 1, true)] }).red.votes, x.1 = 3 ∧ x.2.1 = (treePkt 0x1A).src)
    ∧ (let s := inTree [0, 1] voted {}
       comes s (treePkt 0x1A) = true ∧ s.verdict.mode = .voted ∧ s.red.voteSent = false ∧ s.red.votes = [] ∧ treeParent s = none
        ∧ treeChildren s = [(treePkt 0x1A).src] ∧ 3 = s.verdict.last)
    ∧ (let s := inTree [0, 1] opened {}
       let q := treePkt 0x1B
       comes s q = true ∧ s.verdict.mode ≠ .noStep ∧ q.aux = s.verdict.last % 2 ^ 32 ∧ s.red.got = [] ∧ s.red.own = none ∧ s.red.parts = []
        ∧ q.offset = 0 ∧ q.payload.length = 40)
    ∧ (let q := treePkt 0x1B 1
       comes (inTree [0, 1] opened {}) q = true ∧ q.payload.length < 40)
    ∧ (let s := inTree [0, 1] opened { own := some (redVal 1) }
       s.red.own = some (redVal 1) ∧ s.red.sentUp = false ∧ s.red.result = none ∧ treeParent s = none ∧ treeChildren s = [(treePkt 0x1B).src])
    ∧ (let s := inTree [1, 0] opened { own := some (redVal 1), sentUp := true }
       let q := treePkt 0x1C
       comes s q = true ∧ q.aux = s.verdict.last % 2 ^ 32 ∧ s.red.result = none ∧ s.red.own ≠ none ∧ s.red.parts = [] ∧ q.offset = 0) := by
  decide +kernel

/-- Queue 255, whose next command lies in the last entry of its ring, at the wrap of `READ`. -/
def ring (w : List Nat) (f : CmdQueue → CmdQueue := id) : State :=
  writeMem { live with queues := [(255, f { en := true, base := 0x042C00000000, read := 2 ^ 32 - 1, write := 0 })] } (0x042C00000000 + 63 * 128)
    (((List.range 16).map fun i => w.getD i 0).flatMap (leBytes 8))
/-- The command of those words is fetched, has the opcode, sets no reserved bit, and nothing of its queue is started. -/
def ringOk (s : State) (w : List Nat) (op : Nat) : Bool :=
  let ws := (List.range 16).map fun i => BitVec.ofNat 64 (w.getD i 0)
  fetchCmd s 255 == some ws && opcodeOf ws == op && !reservedSet ws && (cq s 255).started == [] && cfg s 0x820001 == 0 && cpTurn s 255
/-- The words of a command as it is held. -/
def ws (w : List Nat) : List W64 := (List.range 16).map fun i => BitVec.ofNat 64 (w.getD i 0)

theorem test_CommandQueues_registers_hyps :
    let base := 0x042C00000000
    let v := fun (n b : Nat) => 2 ^ 63 + n * 2 ^ 56 + b
    -- the largest ring at the end of its part, one past it, one too large, and a change of a running queue
    (∀ n ∈ [0, 10], n ≤ 10 ∧ inOs live (base + 0x000400000000 - 2 ^ (n + 6) * 128) (2 ^ (n + 6) * 128) = true) ∧ partOn live 0 = true
    ∧ (cq live 255).en = false ∧ (cq live 255).started = [] ∧ bit (v 10 base) 63 = true ∧ fld (v 10 base) 47 12 * 4096 = base ∧ fld (v 10 base) 59 56 = 10
    ∧ inOs live (base + 0x000400000000 - 2 ^ 13 + 4096) (2 ^ 6 * 128) = false ∧ 10 < fld (v 11 base) 59 56 ∧ partOn live 15 = false
    ∧ (let x := cq (ring []) 255
       x.en = true ∧ x.ctrl % 2 ^ 63 ≠ fld (v 1 base) 62 60 * 2 ^ 60 + 1 * 2 ^ 56 + 0 * 2 ^ 48 + base)
    -- a doorbell that fills the ring exactly, and one past it
    ∧ (let x := cq (ring []) 255
       (63 + 2 ^ 32 - x.read) % 2 ^ 32 = x.entries ∧ x.entries < (64 + 2 ^ 32 - x.read) % 2 ^ 32 ∧ x.mode ≠ .waiting ∧ (ring []).beat.mode = .beating) := by
  decide +kernel

theorem test_CommandQueues_commands_hyps :
    let nop := [2 ^ 54]
    let launch := fun (n : Nat) => [2 ^ 56 + 2 ^ n, 0x1000, 0, 0x100000, 1, 0, 0x200000]
    let none_ := fun (r : Nat) => [2 ^ 56, 0x1000, 0, 0x100000, 1, 0, r]
    let copy := fun (d : Nat) => [2 * 2 ^ 56 + 7, 0, 0, 0, 0, 0, 0, 0, 3 * 2 ^ 60 + 4 * 2 ^ 57 + 3 * 2 ^ 54, 0x2000, d, 2 ^ 32 + 1, 0, 64]
    let wait := fun (c : Nat) => [3 * 2 ^ 56 + 2 ^ 54 + c, 0x17FFFFFFFF8, 1]
    let signal := fun (sc : Nat) => [4 * 2 ^ 56 + sc, 0x17FFFFFFFF8, 2 ^ 64 - 1]
    let at8 := 0x17FFFFFFFF8
    ringOk (ring nop) nop 0 = true
    ∧ (∀ n ∈ [0, 31], ringOk (ring (launch n)) (launch n) 1 = true ∧ launchCheck (ring (launch n)) 255 (ws (launch n)) = 0) ∧ (cq (ring nop) 255).preempt = false
    ∧ (∀ r ∈ [0x200000, 1], ringOk (ring (none_ r)) (none_ r) 1 = true ∧ launchCheck (ring (none_ r)) 255 (ws (none_ r)) = 1
      ∧ badArea (ring (none_ r)) 0 r 32 32 = decide (r = 1))
    ∧ (ringOk (ring (copy 0x4000)) (copy 0x4000) 2 = true ∧ copyEnabled (ring (copy 0x4000)) 31 = true
      ∧ copyForbidden (ring (copy 0x4000)) 0 { d := ((ws (copy 0x4000)).drop 8).take 8, src := .cmd 255 0, part := 0 } = false)
    ∧ (let d := 0x042C00000000
       ringOk (ring (copy d)) (copy d) 2 = true ∧ copyForbidden (ring (copy d)) 0 { d := ((ws (copy d)).drop 8).take 8, src := .cmd 255 0, part := 0 } = true)
    ∧ (let any := [2 * 2 ^ 56 + 15, 0, 0, 0, 0, 0, 0, 0, 3 * 2 ^ 60 + 4 * 2 ^ 57 + 3 * 2 ^ 54, 0x2000, 0x4000, 2 ^ 32 + 1, 0, 64]
       ringOk (ring any) any 2 = true ∧ 24 / 8 = 255 / 64 ∧ copyEnabled (ring any) 24 = true ∧ cw (ws any) 0 % 16 = 15
        ∧ copyForbidden (ring any) 0 { d := ((ws any).drop 8).take 8, src := .cmd 255 0, part := 0 } = false)
    ∧ (ringOk (ring [2 * 2 ^ 56 + 9]) [2 * 2 ^ 56 + 9] 2 = true ∧ cw (ws [2 * 2 ^ 56 + 9]) 0 % 16 = 9)
    ∧ (ringOk (ring (wait 0)) (wait 0) 3 = true ∧ cw (ws (wait 0)) 1 % 8 = 0)
    ∧ (ringOk (ring [3 * 2 ^ 56, 12]) [3 * 2 ^ 56, 12] 3 = true ∧ cw (ws [3 * 2 ^ 56, 12]) 1 % 8 ≠ 0)
    ∧ (localMemory live 0x200000 = true ∧ accessStatus (ring (none_ 0x200000)) { kind := .cmdproc, unit := 15 } .store 0x200000 32 = 0)
    ∧ (∀ c ∈ [0, 1],
      let e : Started := { index := 2 ^ 32 - 2, opcode := 3, words := ws (wait c) }
      let s := ring nop fun x => { x with started := [e] }
      e ∈ (cq s 255).started ∧ alive s = true ∧ accessStatus s (cpIss s 255) .load (cw e.words 1) 8 = 0 ∧ localMemory s (cw e.words 1) = true ∧ waits s (cw e.words 1) = false
        ∧ poisoned s (cw e.words 1) 8 = false)
    ∧ (∀ sc ∈ [3, 4, 5], ringOk (ring (signal sc)) (signal sc) 4 = true ∧ cw (ws (signal sc)) 0 % 8 = sc ∧ badArea (ring (signal sc)) 0 at8 8 8 = false
      ∧ accessStatus (ring (signal sc)) (cpIss (ring (signal sc)) 255) .store at8 8 = 0 ∧ localMemory live at8 = true ∧ waits live at8 = false
      ∧ (hf (ring (signal sc)) 3).runs = [] ∧ (hf (ring (signal sc)) 3).stores = [] ∧ (hf (ring (signal sc)) 3).failures = [])
    ∧ ringOk (ring [5 * 2 ^ 56, at8]) [5 * 2 ^ 56, at8] 5 = true
    ∧ (fetchCmd (ring [6 * 2 ^ 56]) 255 = some (ws [6 * 2 ^ 56]) ∧ 5 < opcodeOf (ws [6 * 2 ^ 56]))
    ∧ (fetchCmd (ring [1]) 255 = some (ws [1]) ∧ opcodeOf (ws [1]) ≤ 5 ∧ reservedSet (ws [1]) = true) := by
  decide +kernel

-- Queue 240 waits for queue 255 of its processor: of a higher priority, or of the same one and next after queue 254.
theorem test_CommandQueues_turn_hyps : ∀ x ∈ [(1, []), (0, [(15, 14)])],
    let s := { ring [2 ^ 54] (fun c => { c with prio := x.1 }) with cpLast := x.2 }
    fetchCmd s 255 = some (ws [2 ^ 54]) ∧ opcodeOf (ws [2 ^ 54]) ≤ 3 ∧ reservedSet (ws [2 ^ 54]) = false ∧ bit (cw (ws [2 ^ 54]) 0) 55 = false
      ∧ cpTurn s 240 = false ∧ ((cq s 240).prio < (cq s 255).prio
        ∨ ((cq s 240).prio = (cq s 255).prio ∧ mfind s.cpLast 15 = some 14 ∧ (255 + 15 - 14) % 16 < (240 + 15 - 14) % 16)) := by
  decide +kernel

/-- Kernel 7 of queue 255 on cluster 127: launch ID 9, one crew, a save area and a record. -/
def kern7 (m : KernelMode) (f : Kernel → Kernel := id) : Kernel :=
  f { q := 255, index := 4, mode := m, clusters := [127]
      words := [2 ^ 56 + 2 ^ 31, 0x1000, 0, 0x100000, 9 * 2 ^ 32 + 1, 0x17FFF600000, 0x200000].map (BitVec.ofNat 64) }
/-- Its module: the cluster runs it unless it waits or is saved. -/
def with7 (k : Kernel) (f : State → State := id) : State :=
  f { live with
    kernels := [(7, k)], nextKernel := 8
    clusters := [(127, if k.mode = .waiting ∨ k.mode = .saved then {} else { mode := .running, kernels := [7] })]
    queues := [(255, { en := true, read := 4, write := 5, started := if k.mode = .waiting then [] else [{ index := 4, opcode := 1, words := k.words, kernel := 7 }] })] }

theorem test_KernelsAndPreemption_run_hyps :
    let all := fun (m : KernelMode) => with7 (kern7 m fun k => { k with admitted := [127 * 128] })
    canStart (clock (with7 (kern7 .waiting)) 2000000) 7 = true
    ∧ ((krn (all .running) 7).mode = .running ∧ kernelDone (clock (all .running) 2000000) 7 = true ∧ localMemory (all .running) 0x200000 = true ∧ (kern7 .running).fld 6 47 0 = 0x200000
        ∧ accessStatus (all .running) { kind := .cmdproc, unit := 15 } .store 0x200000 32 = 0 ∧ (all .running).kept.retired = [])
    ∧ (∀ m ∈ [KernelMode.running, .preempting, .saved], kernelDone (with7 (kern7 m fun k => { k with contained := true })) 7 = true)
    -- queue 254, of higher priority and with `PREEMPT`, waits for the cluster
    ∧ (let s := with7 (kern7 .running) fun s => { s with
        kernels := s.kernels ++ [(8, kern7 .waiting fun k => { k with q := 254 })], queues := s.queues ++ [(254, { en := true, prio := 3, preempt := true })] }
       (krn s 8).mode = .waiting ∧ (krn s 8).clusters = [127] ∧ (cq s (krn s 8).q).preempt = true ∧ (clu s 127).kernels = [7] ∧ freeFor s 8 127 = false
        ∧ (cq s (krn s 7).q).prio < (cq s (krn s 8).q).prio ∧ partners s 7 = [7] ∧ (krn s 7).saves = true ∧ (krn s 7).mode = .running ∧ (krn s 7).contained = false
        ∧ alive s = true ∧ s.beat.mode = .beating) := by
  decide +kernel

theorem test_KernelsAndPreemption_preempt_hyps :
    let w : ObjWrite := { sid := 4, val := leBytes 4 9 }
    w.val.length = 4
    ∧ (let s := with7 (kern7 .running) fun s => { s with beat.mode := .held }
       Safety.accepted s w 0x500003 = true ∧ s.beat.mode ≠ .beating)
    ∧ (let s := with7 (kern7 .running)
       Safety.accepted s w 0x500003 = true ∧ s.beat.mode = .beating ∧ (s.kernels.filter fun x => x.2.launchId == leNat w.val && x.2.mode == .running && x.2.saves) = [(7, krn s 7)]
        ∧ ∀ j ∈ partners s 7, (krn s j).saves = true ∧ (krn s j).mode = .running ∧ (krn s j).contained = false)
    ∧ (let s := with7 (kern7 .running)
       let v : ObjWrite := { sid := 4, val := leBytes 4 10 }
       Safety.accepted s v 0x500003 = true ∧ ∀ x ∈ s.kernels, x.2.launchId = leNat v.val → x.2.mode ≠ .running ∨ x.2.saves = false)
    ∧ (let s := with7 (kern7 .preempting)
       127 ∈ (krn s 7).clusters ∧ 127 ∉ (krn s 7).reached ∧ (krn s 7).contained = false ∧ drained s 7 127 = true ∧ (krn s 7).mode = .preempting)
    ∧ (let s := with7 (kern7 .running) fun s => { s with beat.mode := .freezing }
       drained s 7 127 = true ∧ (krn s 7).mode = .running ∧ s.beat.mode = .freezing ∧ (krn s 7).clusters = [127] ∧ ∀ e ∈ s.kernels, e.1 = 7)
    ∧ (let s := with7 (kern7 .preempting fun k => { k with reached := [127] })
       (krn s 7).mode = .preempting ∧ 127 ∈ (krn s 7).reached ∧ (krn s 7).lane = 0)
    ∧ (let sv : Saved := { rank := 0, crews := [(0, { kernel := 7, index := 0 })], barriers := [], slm := [(0, 1#8), (0xFFFFF, 2#8)], narrow := [], acc := [], accPoison := [], wgb := [], wgbPoison := [] }
       let s := with7 (kern7 .saved fun k => { k with savedOn := [sv] })
       canRestore s 7 = true ∧ (krn s 7).savedOn = [sv] ∧ (krn s 7).clusters.length = 1 ∧ sv.rank = 0 ∧ (krn s 7).lane = 0 ∧ (sv.crews.map (·.1)).Nodup
        ∧ sv.slm.Pairwise (fun a b => a.1 < b.1) ∧ (∀ e ∈ sv.slm, e.1 < 0x100000)
        ∧ (clu s ((restoreOnto s 7).headD 0)).crews = []) := by
  decide +kernel

theorem test_KernelsAndPreemption_calm (k : Kernel) : Safety.calm (with7 k) := calm_of rfl rfl rfl rfl

theorem test_HeartbeatLapses_hyps :
    let ms := 1000000
    let on := fun (b : Heartbeat) (grace : Nat) (k : Kernel) =>
      with7 k fun s => { s with beat := b, active := [(0x501001, leBytes 4 1), (0x501003, leBytes 4 grace)] }
    let frozen := fun (b : Heartbeat) => on b 1 (kern7 .frozen)
    let w := fun (n : Nat) => ({ sid := 0, reg := true, val := leBytes 1 n } : ObjWrite)
    -- a beat in each mode
    (∀ m ∈ [BeatMode.beating, .grace, .freezing, .held], (frozen { mode := m }).beat.mode = m ∧ mfind (frozen { mode := m }).kernels 7 = some (kern7 .frozen))
    -- just past one interval, with a grace and without
    ∧ (∀ g ∈ [0, 1],
      let s := on {} g (kern7 .running)
      s.beat.mode = .beating ∧ cfg s 0x501001 = 1 ∧ s.beat.lastBeat + ms < (clock s (ms + 1)).pace.now ∧ cfg s 0x501003 = g)
    ∧ (∀ k ∈ [kern7 .running, kern7 .saved],
      let s := on { mode := .grace } 1 k
      s.beat.mode = .grace ∧ s.beat.lapseAt + cfg s 0x501003 * ms ≤ (clock s ms).pace.now ∧ ∀ e ∈ s.kernels, e.2.contained = false)
    ∧ (let s := with7 (kern7 .running) fun s => { s with queues := [(255, { en := true, started := [{ index := 4, opcode := 3, words := [] }] })] }
       ((cq s 255).started.find? fun f => f.opcode == 3).isSome = true)
    -- out of HELD, with a beat in the last interval and without
    ∧ (∀ o ∈ [(0, true), (ms + 1, false)],
      let s := frozen { mode := .held, lastBeat := 0 }
      mayLeaveHeld (clock s o.1) = o.2 ∧ Safety.accepted (clock s o.1) (w 1) 0x501005 = true ∧ leNat (w 1).val = 1 ∧ leNat (w 2).val = 2)
    ∧ (let s := frozen { mode := .held }
       (s.kernels.filter fun y => y.2.mode == .frozen) = [(7, kern7 .frozen)] ∧ krn s 7 = kern7 .frozen ∧ localMemory s 0x200000 = true
        ∧ accessStatus s { kind := .cmdproc, unit := 15 } .store 0x200000 32 = 0 ∧ (kern7 .frozen).fld 6 47 0 = 0x200000 ∧ Safety.noRing s (w 2) = true ∧ s.kept.retired = []
        ∧ ∀ c ∈ (kern7 .frozen).clusters, (kern7 .frozen).fld 6 47 0 + 32 ≤ slmOf c) := by
  decide +kernel

/-- The Pace unit in a state, with a source. -/
def paced (src : Nat) (p : Pace) : State := { live with pace := { p with on := true }, mgmtUp := true, active := [(0x200001, leBytes 1 src)] }
/-- Schedule entry 63 of a kind, due now. -/
def entry63 (k : Nat) (period : Nat := 0) (f : State → State := id) : State :=
  f { live with sched := [(63, { kind := k, arm := true, irq := true, fired := 2 ^ 32 - 1, time := 1000000, period, arg := 0x17FFFFFFFF8 })] }

theorem test_PaceTimeAndSchedule_sources_hyps :
    let lock := 1000
    let step : Int := 100000
    let sec := 1000000000
    let acq := paced 0 { mode := .acquiring, good := 15 }
    let pps := fun (p : Pace) => paced 1 { p with now := 5 * sec }
    (cfg acq 0x200001 = 0 ∧ acq.mgmtUp = true ∧ acq.pace.on = true ∧ cfg acq 0x200006 = lock ∧ cfg acq 0x200007 = 100000)
    -- offsets at the lock limit, at four times it, past it, and about the step limit
    ∧ (1000 : Int).natAbs ≤ lock ∧ (4000 : Int).natAbs ≤ 4 * lock ∧ 4 * lock < (-4001 : Int).natAbs ∧ (100000 : Int) ≤ step ∧ step < 100001 ∧ lock < (100001 : Int).natAbs
    ∧ acq.pace.mode = .acquiring ∧ 15 ≤ acq.pace.good ∧ (paced 0 { mode := .locked }).pace.mode = .locked ∧ (paced 0 { mode := .holdover }).pace.mode = .holdover
    ∧ (paced 0 { mode := .acquiring, good := 14 }).pace.good < 15 ∧ (paced 0 {}).pace.mode = .freerun
    ∧ (cfg (pps { setSeconds := some 7 }) 0x200001 = 1 ∧ (pps { setSeconds := some 7 }).pace.setSeconds = some 7)
    -- edges at the end of their window, and outside it
    ∧ (let s := pps { nextPps := some (5 * sec - 1000000) }
       s.pace.setSeconds = none ∧ s.pace.nextPps = some (5 * sec - 1000000) ∧ (clock s 0).pace.now ≤ (5 * sec - 1000000) + 1000000)
    ∧ (let s := pps { nextPps := some (5 * sec - 1000001) }
       let e := 5 * sec - 1000001
       let u := (clock s 0).pace.now
       e ≤ u ∧ 1000000 < (u - e) % sec ∧ (u - e) % sec < sec - 1000000)
    ∧ (let s := paced 0 { mode := .locked, lastGood := 0 }
       s.pace.mode = .locked ∧ s.pace.lastGood + 3 * sec ≤ (clock s (3 * sec)).pace.now)
    ∧ Safety.accepted live { sid := 4, val := leBytes 8 (2 ^ 64 - 1) } 0x200008 = true := by
  decide +kernel

theorem test_PaceTimeAndSchedule_entries_hyps :
    let at8 := 0x17FFFFFFFF8
    let off := fun (k : Nat) => ({ entry63 1 with sched := [(63, { kind := k, time := 1, period := 10000, arg := at8 })] } : State)
    let ctrl := fun (k arm : Nat) => BitVec.ofNat 64 (k * 2 ^ 61 + arm * 2 ^ 60 + 2 ^ 59)
    -- writes of an armed entry that change it and that only disarm it; armings refused and allowed
    ((sched (entry63 1) 63).arm = true ∧ fld (ctrl 2 1).toNat 63 61 ≠ (sched (entry63 1) 63).kind ∧ fld (ctrl 1 0).toNat 63 61 = (sched (entry63 1) 63).kind
      ∧ bit (ctrl 1 0).toNat 59 = (sched (entry63 1) 63).irq)
    ∧ (let x := sched (off 1) 63
       x.arm = false ∧ bit (ctrl 1 1).toNat 60 = true ∧ badSched (off 1) { x with kind := 1, arm := true, irq := true } = false
        ∧ badSched (off 1) { x with kind := 6, arm := true, irq := true } = true)
    -- each kind, once and with the shortest period
    ∧ (∀ k ∈ [1, 2, 4, 5], ∀ p ∈ [0, 10000],
      let s := entry63 k p
      due (clock s 0) 63 k = true ∧ accessStatus s { kind := .sched, unit := 63 } .store ((sched s 63).arg % 2 ^ 48) 8 = 0
        ∧ (sched s 63).arg % 8 = 0 ∧ localMemory s ((sched s 63).arg % 2 ^ 48) = true)
    ∧ (let s := entry63 4 0 fun s => { s with checkpointWait := [63] }
       63 ∈ s.checkpointWait ∧ stepBusy s = false)
    ∧ (let s := entry63 5 0 fun s => { s with fenceWait := [(63, 9, [0, 0, 0, 0])] }
       s.fenceWait = [(63, 9, [0, 0, 0, 0])] ∧ (∀ r ∈ s.requests, 9 ≤ r.id) ∧ ∀ k ∈ s.stackUnits, k.2.waiting = [])
    ∧ bit (ctrl 1 0).toNat 60 = false ∧ cfg (paced 1 {}) 0x200001 ≠ 0 := by
  decide +kernel

theorem test_PaceTimeAndSchedule_window_hyps :
    let b : Bucket := { desc := bktDesc 4096 (2 ^ 61), mode := .ready, step := 3 }
    let s := { entry63 2 with buckets := [(64, b)], sched := [(63, { kind := 2, arm := true, time := 0, arg := 2 })] }
    let m := (sched s 63).arg % 16
    due (clock s 0) 63 2 = true ∧ alive s = true ∧ s.poison = []
    ∧ ((List.range 256).filter fun b => (m == 0 || m.testBit (b / 64)) && (bkt s b).mode == .ready && bit (bw (bkt s b) 0) 61) = [64]
    ∧ (bkt s 64).g = 1 ∧ (bkt s 64).rank = 0 ∧ accessStatus s (bucketIss 64) .load (bkt s 64).src (bkt s 64).bytes = 0 ∧ ∀ i, i < 32 → accwStatus s (bucketIss 64) ((bkt s 64).stage + 128 * i) = 0 := by
  decide +kernel

theorem test_PaceTimeAndSchedule_frame_hyps : Safety.calm (entry63 5) ∧ ∀ tw, (hf (entry63 5) tw).runs = [] ∧ (hf (entry63 5) tw).stores = [] := ⟨calm_of rfl rfl rfl rfl, fun _ => ⟨rfl, rfl⟩⟩

theorem test_PowerAndThermal_hyps :
    let w := fun (l : List Nat) => ({ sid := 4, val := l.map (BitVec.ofNat 8) } : ObjWrite)
    let die := fun (x : Dvfs) (y : Throttle) => ({ live with power := { dvfs := [(7, x)], throttle := [(7, y)] } } : State)
    let m := fun (peak avg ceil part : Nat) => ({ peakW := peak, avgW := avg, ceilW := ceil, parts := [part], rails := [] } : PowerReading)
    let part := { live with active := [(partKey 0 6, leBytes 2 100)] }
    let over_ := fun (s : State) (x : PowerReading) => (List.range 16).filter fun p => partOn s p && (cfg s (partKey p 6) != 0) && decide (cfg s (partKey p 6) < x.parts.getD p 0)
    due (clock { live with sched := [(63, { kind := 3, arm := true, irq := true, arg := 500 * 2 ^ 48 + 10 * 2 ^ 16 })] } 0) 63 3 = true
    ∧ (∀ n ∈ [1000, 6000], Safety.accepted (clock live 0) { sid := 4, val := leBytes 4 n } 0x220004 = true)
    -- points at their bounds, one out of range, and too few
    ∧ [[0, 3, 0, 3, 0, 3, 0, 3], [0, 0, 0, 0, 0, 0, 0, 4], [0]].all (fun l => Safety.accepted live { w l with reg := true } 0x230001) = true
    ∧ Safety.accepted live (w [0, 3, 0, 3, 0, 3, 0, 3]) 0x230001 = true
    ∧ (dvfs (die { target := some 2 } {}) 7).target = some 2
    -- measurements at each limit and past it
    ∧ (over_ live (m 6800 6000 6000 0) = [] ∧ (m 6800 6000 6000 0).ceilW ≤ ceilingNow (clock live 0) ∧ ¬ (m 0 0 6001 0).ceilW ≤ ceilingNow (clock live 0)
      ∧ 6800 < (m 6801 0 0 0).peakW ∧ 6000 < (m 0 6001 0 0).avgW ∧ over_ part (m 0 0 0 101) = [0] ∧ over_ part (m 0 0 0 100) = []
      ∧ (List.range 128).all (fun c => (clu live c).cap == 64) ∧ capUnits 63 < activityNow live { actBase := fullActivity, cap := 64 })
    ∧ (∀ p ∈ [0, 2, 3],
      let s := die { inForce := p } { lowSince := some 0 }
      (throttle s 7).lowSince = some 0 ∧ 0 + 1000000 ≤ (clock s 1000000).pace.now ∧ (dvfs s 7).target = none ∧ (dvfs s 7).inForce = p ∧ s.boot.reduced = false)
    ∧ (∀ o ∈ [(true, 0), (false, 1), (false, 0)],
      let s := die { throttle := o.2 } { half := o.1, clearSince := some 0 }
      (throttle s 7).clearSince = some 0 ∧ 0 + 10000000 ≤ (clock s 10000000).pace.now ∧ (throttle s 7).half = o.1 ∧ (dvfs s 7).throttle = o.2)
    ∧ (let s := die {} { actSince := some 0 }
       (throttle s 7).actSince = some 0 ∧ (throttle s 7).recorded = false ∧ Safety.records s 0x0603 = true ∧ 0 + 1000000000 < (clock s 1000000001).pace.now)
    ∧ railsUpPhase live = true := by
  decide +kernel

/-- All 114 sensors at 60 °C, one of them at `v`. -/
def temps (i : Nat) (v : Int) : List Int := (List.replicate 114 60).set i v

theorem test_PowerAndThermal_sensors_hyps :
    -- a column, a stack and an engine at trip; a column above its limit; a stack and an engine at critical
    (temps 0 115)[0]? = some 115 ∧ (temps 103 105)[103]? = some 105 ∧ (temps 111 115)[111]? = some 115
    ∧ (temps 63 105)[63]? = some 105 ∧ (temps 71 110)[71]? = some 110 ∧ max 60 (([] : List Int).getD 63 60) = 60
    ∧ (cfg live 0x240002 : Int) < 96 ∧ (temps 63 96)[63]? = some 96 ∧ (temps 72 95)[72]? = some 95 ∧ (temps 104 105)[104]? = some 105
    ∧ ((List.range 114).all fun j => j == 63 || match thermLimits live j with
      | some l => decide ((60 : Int) ≤ l.1 ∧ (60 : Int) < l.2.1 ∧ (60 : Int) < l.2.2)
      | none => true) = true := by
  decide +kernel

/-- A Camlis message about an object. -/
def cam (key : Nat) (p : List Byte := []) (offset flags : Nat := 0) : CamMsg :=
  { reqId := 7, index := key / 256, sub := key % 256, flags, offset, length := p.length, payload := p }
/-- `live` whose session 4 is `x`. -/
def with4 (x : Session) (s : State := live) : State := { s with sessions := [(4, x)] }
/-- Session 4 of `live`. -/
def sess4 : Session := { authority := 0x10000, expert := true }
/-- The server hears a message. -/
def heard (s : State) (m : CamMsg) (len : Option Nat) : Bool :=
  match mfind s.sessions 4 with
  | some x => serves s 0 && (x.kept.all fun r => r.reqId != m.reqId) && decide (x.outstanding.length < 8) && !badMsg m len
  | none => false
/-- A message names a stored object. -/
def storedIn (s : State) (m : CamMsg) (d : ObjDef → Bool) : Bool :=
  let k := m.index * 256 + m.sub
  served s k && decide (m.sub < 256) && (match objDef k with | some e => e.acc == .rw && d e | none => false)
    && (match mfind s.sessions 4 with | some x => (heldBytes s x k).isNone | none => false) && m.index != 0xF000
/-- A whole value that the checks pass. -/
def valueOk (s : State) (m : CamMsg) (c : OCls) : Bool :=
  let k := m.index * 256 + m.sub
  heard s m none && storedIn s m (fun d => !d.isBlob && !d.row && d.cls == c) && m.offset == 0 && !valueBad s k m.payload
    && (match mfind s.sessions 4 with | some x => writeCheck s x k m.payload == 0 | none => false)

theorem test_CamlisSessionsAndMessages_get_hyps :
    -- requests of good form at the most outstanding ones and beside a kept response; with and without MODULE authority
    (heard (with4 { sess4 with outstanding := List.range 7, kept := [{ reqId := 8, type := 1, status := 0 }] }) (cam 0) (some 0) = true
      ∧ hasModule sess4 = true ∧ hasModule { authority := 1 } = false)
    -- one that comes while SEC0 restarts, again, as the ninth, and of another version
    ∧ (serves { live with fw := [] } 0 = false ∧ serves live 0 = true ∧ badMsg { cam 0 with version := 2 } none = true
      ∧ (∃ r ∈ ({ sess4 with kept := [{ reqId := 7, type := 1, status := 0 }] } : Session).kept, r.reqId = (cam 0).reqId)
      ∧ 8 ≤ ({ sess4 with outstanding := List.range 8 } : Session).outstanding.length)
    ∧ (served live 0x200003 = true ∧ heard live (cam 0x200003) (some 0) = true ∧ roBytes (clock live 0) 0 0x200003 = some (leBytes 8 1000000)
      ∧ (match objDef 0x200003 with | some d => d.acc == .ro && !d.isBlob | none => false) = true)
    -- the holder of the shadow set, and a session that is not
    ∧ (∀ h ∈ [some 4, some 5, none], let s := { live with quickset.holder := h }
      heard s (cam 0) (some 0) = true ∧ quicksetBusy s = false)
    -- values of fixed length from the active and the shadow set, BLOBs, a later segment to its end, and no object
    ∧ (∀ f ∈ [0, 1], heard live (cam 0x200004 [] 0 f) (some 0) = true ∧ storedIn live (cam 0x200004 [] 0 f) (fun d => !d.isBlob && d.cls == .qs) = true)
    ∧ (∀ k ∈ [0x410001, 0x130002], heard live (cam k) (some 0) = true ∧ storedIn live (cam k) (fun d => d.isBlob) = true)
    ∧ (∀ o ∈ [1024, 2000], let m := cam 0x410001 [] o
      let s := with4 { sess4 with snap := some (2 * 0x410001, List.replicate 2000 5#8, 1000000) }
      heard s m (some 0) = true ∧ storedIn s m (fun d => d.isBlob) = true ∧ (clock s 1001000000).pace.now ≤ 1000000 + 1000000000 ∧ bit m.flags 0 = false ∧ m.offset ≤ 2000)
    ∧ (objDef 0xEEEE01 = none ∧ heard live (cam 0xEEEE01) (some 0) = true)
    -- EXPERT_OPEN
    ∧ (∀ a ∈ [0x20000, 0x10000], ∀ p ∈ [padTo 8 (strBytes "SKT9-48") ++ strBytes "A1", List.replicate 10 0#8],
      heard (with4 { authority := a }) (cam 0 p) (some 10) = true)
    ∧ bit 0x20000 17 = true ∧ bit 0x10000 17 = false := by
  decide +kernel

theorem test_CamlisSessionsAndMessages_set_hyps :
    let opened := { live with verdict := { mode := .opened } }
    -- one of each class, and a value of the wrong length
    valueOk live (cam 0x220005 (leBytes 4 (2 ^ 32 - 1))) .imm = true
    ∧ (let m := cam 0x220005 [0]
      heard live m none = true ∧ storedIn live m (fun d => !d.isBlob) = true ∧ writeCheck live sess4 0x220005 [0] ≠ 0)
    ∧ valueOk live (cam 0x610003 (leBytes 8 1)) .stp = true ∧ blockRuns live sess4 0x610003 (leBytes 8 1) = false
    ∧ valueOk opened (cam 0x610003 (leBytes 8 1)) .stp = true ∧ blockRuns opened sess4 0x610003 (leBytes 8 1) = true
    ∧ valueOk live (cam 0x503001 (leBytes 2 0)) .bnd = true
    ∧ (valueOk live (cam 0x200004 [255]) .qs = true ∧ quicksetBusy live = false ∧ hasModule sess4 = true)
    ∧ (valueOk { live with quickset.holder := some 4 } (cam 0x200004 [255]) .qs = true)
    ∧ (valueOk { live with quickset.holder := some 5 } (cam 0x200004 [255]) .qs = true)
    ∧ (valueOk { live with quickset.pending := some (4, 1, 0) } (cam 0x200004 [255]) .qs = true ∧ quicksetBusy { live with quickset.pending := some (4, 1, 0) } = true)
    -- segments of a BLOB: the first, one that follows, and one that does not
    ∧ ([(none, 0), (some (0x410001, List.replicate 1024 0#8), 1024), (none, 1)].all fun c =>
      let m := cam 0x410001 (List.replicate 1024 0#8) c.2
      let s := with4 { sess4 with staging := c.1 }
      heard s m none && storedIn s m (fun d => d.isBlob) && writeCheck s sess4 0x410001 [] == 0 && !bit m.flags 1) = true
    -- the last segment of a list of windows
    ∧ (let v := List.replicate 16 0#8
       let m := cam 0x910004 v 16 2
       let s := with4 { sess4 with staging := some (0x910004, v) }
       heard s m none = true ∧ storedIn s m (fun d => d.isBlob && !d.row && d.cls == .qs && match d.typ with | .blob n => decide (32 ≤ n) | _ => false) = true
        ∧ bit m.flags 1 = true ∧ writeCheck s sess4 0x910004 [] = 0 ∧ writeCheck s sess4 0x910004 (v ++ v) = 0
        ∧ blobFits 0x910004 (v ++ v) = true ∧ valueBad s 0x910004 (v ++ v) = false) := by
  decide +kernel

theorem test_CamlisSessionsAndMessages_sessions_hyps :
    (serves live 0 = true ∧ fwRuns live 0 = true ∧ (0 + cfg live 0x110004 * 1000000000 ≤ (clock live 60000000000).pace.now))
    ∧ (let s := with4 { sess4 with snap := some (3, [], 5) }
       (mfind s.sessions 4).bind (·.snap) = some (3, [], 5) ∧ 5 + 1000000000 < (clock s 1000000006).pace.now)
    -- a handshake from a number of a local pair, of a session that is open, and with the management link down
    ∧ (¬ (4 ≤ 3)) ∧ mfind live.sessions 4 ≠ none ∧ live.mgmtUp = false
    ∧ (let s := { live with sessions := [(1, { localPair := some 1 }), (4, sess4)] }
       mfind s.sessions 1 = some { localPair := some 1 } ∧ mfind s.sessions 4 = some sess4)
    ∧ mgmtInService { live with boot.done := [0x0C] } = true ∧ ({ live with mgmtUp := true } : State).mgmtUp = true := by
  decide +kernel

theorem test_CamlisSessionsAndMessages_rising : Safety.rising [((1 : Nat), ({ localPair := some 1 } : Session)), (4, sess4)] := by
  simp [Safety.rising]

/-- The shadow set held by session 4, with one object whose value differs. -/
def shadowed (key : Nat) (v : List Byte) (q : Quickset := { holder := some 4 }) : State := { live with shadow := [(key, v)], quickset := q }

theorem test_QuicksetAndPartitions_hyps :
    let at_ := fun (n : Nat) => cam 0 (leBytes 8 n)
    let u := 1000000
    -- instants at ten seconds and past it
    heard live (at_ (2 ^ 64 - 1)) (some 8) = true ∧ (clock live 0).pace.now = u ∧ u + 10000000000 < leNat (at_ (u + 10000000001)).payload
    ∧ leNat (at_ (u + 10000000000)).payload = u + 10000000000 ∧ shadowDiff live = [] ∧ live.quickset.holder = none
    ∧ (let s := shadowed 0x200004 [0]
       heard s (at_ 0) (some 8) = true ∧ shadowDiff s = [])
    -- a set that fails a check, and one that passes
    ∧ (let s := shadowed (partKey 0 4) (leBytes 8 5 ++ leBytes 8 0)
       heard s (at_ 0) (some 8) = true ∧ shadowDiff s ≠ [] ∧ quicksetCheck s ≠ 0 ∧ quicksetBusy s = false)
    ∧ (let s := shadowed 0x200004 [255]
       heard s (at_ 0) (some 8) = true ∧ shadowDiff s ≠ [] ∧ quicksetCheck s = 0 ∧ s.quickset.holder = some 4 ∧ quicksetBusy s = false)
    -- one that is pending, one that completes, and a set another session holds
    ∧ ([({ holder := some 4, pending := some (4, 9, u + 1) } : Quickset), { holder := some 4, completing := some (4, 9) }, { holder := some 5 }].all fun q =>
      let s := shadowed 0x200004 [255] q
      heard s (at_ 0) (some 8) && heard s (cam 0) (some 0) && (quicksetBusy s || q.holder == some 5)) = true
    ∧ (let s := shadowed 0x200004 [255]
       heard s (cam 0) (some 0) = true ∧ s.quickset.holder ≠ none ∧ quicksetBusy s = false)
    ∧ mfind (shadowed 0x200004 [255]).shadow 0x310001 = none ∧ splitTowers { live with active := [(0x310001, [4, 4, 4, 6])] } ≠ []
    ∧ (clock live 0).pace.now < u + 1 ∧ u + 1 ≤ (clock live (u + 1)).pace.now := by
  decide +kernel

theorem test_QuicksetAndPartitions_rising : Safety.rising (shadowed 0x200004 [255]).shadow := by simp [Safety.rising, shadowed]

theorem test_QuicksetAndPartitions_complete_hyps :
    (∀ b ∈ [true, false], let s := shadowed 0x310001 [4, 4, 4, 6] { holder := some 4, completing := some (4, 9), waitingFor := [3], moved4 := b }
      (mfind s.sessions 4).isSome = true ∧ fwRuns s 0 = true ∧ (∀ tw ∈ s.quickset.waitingFor, (tow s tw).splitTo = none) ∧ s.quickset.moved4 = b ∧ sess4.localPair = none ∧ sess4.v6 = false)
    -- a partition enabled and disabled; while its queue runs; with a window outside every map; above its quota
    ∧ (∀ p ∈ [1, 15], ∀ n ∈ [0, 1], Safety.accepted live { sid := 4, val := leBytes 1 n } (partKey p 1) = true)
    ∧ partRuns live 15 = false ∧ partRuns { live with queues := [(255, { part := 15, en := true })] } 15 = true
    ∧ (let ok := fun (s : State) (p : Nat) => ((List.range 4).any fun i => decide (subNat (cfgB s (partKey p 5)) (8 * i) 8 < tierUse s (cfgB s (partKey p 4)) i))
      let bad := fun (s : State) (p : Nat) => ((windowsOf (cfgB s (partKey p 4))).any (windowBad s)) || (List.range 16).any fun q => q != p && partOn s q && partsClash (cfgB s) p q
      (bad live 15 = false ∧ ok live 15 = false)
      ∧ (let s := { live with active := [(partKey 15 2, [0])] }
         bad s 15 = true)
      ∧ (let s := { live with active := [(partKey 0 5, List.replicate 32 0)] }
         ok s 0 = true)) := by
  decide +kernel

/-- The issuer of a schedule entry's stores. -/
def sched63 : Issuer := { kind := .sched, unit := 63 }
/-- A store reaches register space; whether its register takes it. -/
def regStore (s : State) (a size v : Nat) : Bool × Bool :=
  (alive s && home s a == .regs && accessStatus s sched63 .store a size == 0 && decide (size ≤ 8),
    (regWrite s (regBy sched63) (a / 8 * 8) (v % 256 ^ size * 2 ^ (8 * (a % 8))) (coverMask a size)).1 == 0)

theorem test_RegistersAndLocalChannel_hyps :
    let b255 := 0x0F0321000000 + 63 * 64
    let s := { live with buckets := [(255, { desc := bktDesc 4096 })] }
    let t := { live with buckets := [(255, { desc := bktDesc 4096, mode := .armed })] }
    -- a word of an idle bucket and of one that is in use, and accesses that do not reach a register
    (regStore s (b255 + 56) 8 5 = (true, true)) ∧ regStore t (b255 + 56) 8 5 = (true, false)
    ∧ ((∀ w ∈ [1, 7], 0x0F0021000000 + 255 / 64 * 2 ^ 32 + 255 % 64 * 64 + 8 * w = b255 + 8 * w ∧ home s (b255 + 8 * w) = .regs ∧ accessStatus s sched63 .store (b255 + 8 * w) 8 = 0)
      ∧ (bkt s 255).desc.length = 8 ∧ (bkt s 255).live = false ∧ (bkt t 255).live = true ∧ bw (bkt t 255) 7 ≠ 5 &&& bktMask 7)
    ∧ alive State.reset = false ∧ home live 0 ≠ .regs := by
  decide +kernel

theorem test_RegistersAndLocalChannel_channel_hyps :
    let base := 0x042C00000000 + 0x000400000000 - 0x20000
    let on := { live with localChan := { en := true, base }, sessions := [(3, { localPair := some 3 })] }
    (bit (BitVec.ofNat 64 (2 ^ 63 + base)).toNat 63 = true ∧ fld (BitVec.ofNat 64 (2 ^ 63 + base)).toNat 47 17 * 2 ^ 17 = base ∧ inOs live base 0x20000 = true)
    ∧ inOs live (base + 0x20000) 0x20000 = false ∧ bit 0 63 = false ∧ (mfind on.sessions 3).bind (·.localPair) = some 3
    -- doorbells of the last pair: its first request and a later one
    ∧ (fld 31 4 3 = 3 ∧ mfind ({ on with sessions := [] } : State).sessions 3 = none ∧ mfind on.sessions 3 ≠ none ∧ on.localChan.en = true ∧ live.localChan.en = false) := by
  decide +kernel

theorem test_RegistersAndLocalChannel_diag_hyps :
    let w : ObjWrite := { sid := 4, val := leBytes 8 (2 ^ 64 - 1) }
    let a := 0x0F0800401000 + 63 * 0x20 + 8
    let d := fun (a : Nat) => with4 { sess4 with diagAddr := a }
    Safety.accepted (d a) w 0xF00002 = true ∧ home (d a) a = .regs ∧ (sched (d a) 63).arm = false
    ∧ Safety.accepted (d (a + 4)) w 0xF00002 = true ∧ (a + 4) % 8 ≠ 0 ∧ home (d 0) 0 ≠ .regs := by
  decide +kernel

theorem test_AttestationAndDataKeys_hyps :
    let w := fun (v : List Byte) => ({ sid := 4, val := v } : ObjWrite)
    let key := fun (part use k : Nat) => leBytes 4 9 ++ leBytes 1 part ++ leBytes 1 use ++ leBytes 1 k ++ List.replicate 254 0#8
    let chan63 := { live with channels := [(63, { en := true, keySlot := 63 })] }
    ((mfind live.sessions 4).isSome = true ∧ serves live 0 = true ∧ serves { live with fw := [] } 0 = false)
    -- a slot with no chain; measurement operations at the ends of their ranges
    ∧ certChain live 2 = [] ∧ certChain live 15 = [] ∧ [0, 0xFF, 1, 0x20, 0x30, 0x31].all (fun o => o == 0 || o == 0xFF || measIndices.contains o) = true
    ∧ measIndices.contains 0x21 = false ∧ measIndices.contains 0xFE = false
    -- extensions of the first and the last register, of one below them, and one too short
    ∧ (∀ i ∈ [8, 15, 7, 16], Safety.accepted live (w (leBytes 1 i ++ List.replicate 48 0)) 0x700004 = true ∧ subNat (w (leBytes 1 i ++ List.replicate 48 0)).val 0 1 = i)
    ∧ Safety.accepted live (w (List.replicate 48 8)) 0x700004 = true
    -- keys at the ends of each field's range, into a free slot and one a channel uses; values out of range
    ∧ (∀ f ∈ [(0, 1, 0), (15, 3, 63)], Safety.accepted live (w (key f.1 f.2.1 f.2.2)) 0x710001 = true ∧ (key f.1 f.2.1 f.2.2).length = 261
      ∧ subNat (key f.1 f.2.1 f.2.2) 4 1 = f.1 ∧ subNat (key f.1 f.2.1 f.2.2) 5 1 = f.2.1 ∧ subNat (key f.1 f.2.1 f.2.2) 6 1 = f.2.2 ∧ subNat (key f.1 f.2.1 f.2.2) 7 1 = 0
      ∧ slotUsed live f.2.2 = false ∧ unwrapKey live (key f.1 f.2.1 f.2.2) = none)
    ∧ slotUsed chan63 63 = true ∧ Safety.accepted chan63 (w (key 15 3 63)) 0x710001 = true ∧ live.trust.krk = none
    ∧ (∀ f ∈ [(16, 1, 0), (0, 0, 0), (0, 4, 0), (0, 1, 64)], Safety.accepted live (w (key f.1 f.2.1 f.2.2)) 0x710001 = true)
    ∧ (∀ k ∈ [0, 63, 64], Safety.accepted live (w (leBytes 1 k)) 0x710003 = true ∧ leNat (w (leBytes 1 k)).val = k) := by
  decide +kernel

/-- A chain in certificate slot 1 is not empty. -/
theorem test_AttestationAndDataKeys_chain : certChain { live with active := [(0x700002, [7#8])] } 1 ≠ [] := by
  have h : cfgB { live with active := [(0x700002, [7#8])] } 0x700002 = [7#8] := by decide +kernel
  simp [certChain, h]

/-- A key of partition 0 in slot 63 for both directions. -/
def key63 : KeySlot := { valid := true, use := 3, key := leBytes 8 77 }
/-- Port 31 is in service; ingest channel 63 at 0x2000 holds its key; it passes no check-value unit. -/
def sealing (x : Channel := { en := true, keySlot := 63, base := 0x2000, limit := 2000 }) (f : State → State := id) : State :=
  net lit fun s => f { s with channels := [(63, x)], trust := { s.trust with keys := [(63, key63)] } }
/-- A record numbered `n` of `len` bytes in a payload of `size`. -/
def recPkt (n len size : Nat) : Packet := pktOf 8 1 (leBytes 8 n ++ leBytes 2 len ++ List.replicate (size - 10) 0#8)

theorem test_SealedRecordsAndJobs_reaches (x : Channel) (n len size : Nat) :
    Safety.reaches (arrived (sealing x) 31 (recPkt n len size)) 31 (recPkt n len size) 8 = true :=
  reaches_arrived (sealing x) 31
    { cls := 1, type := 8, dst := 0, src := 1, engine := 7, seq := 4095, offset := 0x2000, payload := leBytes 8 n ++ leBytes 2 len ++ List.replicate (size - 10) 0#8, birth := 1000000, hops := 8 } rfl

theorem test_SealedRecordsAndJobs_records_hyps :
    let s := sealing
    let at_ := fun (s : State) (q : Packet) => ingestOf s q == some 63 && !(routes s q.src).isEmpty && !bwrWaits s q
    -- a channel that holds no key for its direction; records of bad form; the first record, and one past the window
    (at_ (sealing { en := true, keySlot := 62, base := 0x2000 }) (recPkt 0 8 40) = true ∧ keyFor (sealing { en := true, keySlot := 62, base := 0x2000 }) (chan (sealing { en := true, keySlot := 62, base := 0x2000 }) 63) = false)
    ∧ keyFor s (chan s 63) = true ∧ (chan s 63).cvuEn = false
    ∧ [(7, 40), (1985, 2017)].all (fun r => at_ s (recPkt 0 r.1 r.2)) = true
    ∧ (bit (trigByte s 0x0701) 7 = true ∧ s.pit.queue.length < 256)
    ∧ [(0, 0), (0, 1), (0, 1984), (1, 16)].all (fun r =>
      let q := recPkt r.1 r.2 (r.2 + 32)
      at_ s q && q.payload.length == r.2 + 32 && !q.poison && decide (0x2000 + r.1 * 1984 + r.2 ≤ 0x2000 + 2000) && inbound s q.jkey (0x2000 + r.1 * 1984) r.2 true
        && accessStatus s ((chan s 63).iss 63) .store (0x2000 + r.1 * 1984) (max 1 r.2) == 0) = true
    ∧ (let s := sealing (f := fun s => { s with active := s.active.filter fun o => o.1 != 0x450001 })
       at_ s (recPkt 0 8 40) = true ∧ keyFor s (chan s 63) = true ∧ inbound s (recPkt 0 8 40).jkey 0x2000 8 true = false)
    ∧ (let s := sealing (f := fun s => { s with stackUnits := (List.range 32).map fun k => (k, { st := .excluded }) })
       bwrWaits s (recPkt 0 8 40) = true)
    ∧ (let q := recPkt 1 17 49
       at_ s q = true ∧ q.payload.length = 17 + 32 ∧ (chan s 63).base + (chan s 63).limit < 0x2000 + 1984 + 17) := by
  decide +kernel

theorem test_SealedRecordsAndJobs_jobs_hyps :
    let en := 2 ^ 63
    let out := 2 ^ 62
    let slot := 63 * 2 ^ 56
    let idle := sealing { base := 0x2000, limit := 1984, dest := 0x4000, compl := 0x3000 }
    let run := sealing { en := true, dir := true, keySlot := 63, base := 0x2000, limit := 1984, dest := 0x4000, compl := 0x3000 }
    let y := fun (v : Nat) => (chan idle 63).withCtrl v
    -- writes that clear `EN` or are of the other direction, ones that move a running channel's fields, and ones a check refuses
    bit out 63 = false ∧ bit (en + out) 63 = true ∧ bit (en + out) 62 ≠ false ∧ bit en 62 ≠ true
    ∧ ((chan run 63).en = true ∧ ctrlMoves (chan run 63) (en + out) = true ∧ ctrlMoves (chan run 63) (en + out + slot) = false)
    ∧ (chan idle 63).en = false ∧ enableCheck idle 63 (y en) ≠ 0 ∧ enableCheck idle 63 (y (en + out)) ≠ 0
    -- ones that start
    ∧ (enableCheck idle 63 (y (en + slot)) = 0 ∧ (y (en + slot)).cvuEn = false)
    ∧ (let z := y (en + out + slot)
       enableCheck idle 63 z = 0 ∧ z.cvuEn = false ∧ 0 < z.limit ∧ z.limit ≤ 1984 ∧ z.dest < 2 ^ 48
        ∧ (∀ q ∈ cuts z.base z.limit, accessStatus idle (z.iss 63) .load q.1 q.2 = 0 ∧ poisoned idle q.1 q.2 = false)
        ∧ (∀ q ∈ cuts z.dest 2048, accessStatus idle (z.iss 63) .store q.1 q.2 = 0))
    -- jobs that end, with and without a check-value unit; one with a request outstanding
    ∧ ((chan run 63).en = true ∧ (chan run 63).dir = true ∧ accessStatus run ((chan run 63).iss 63) .store 0x3000 8 = 0)
    ∧ (cdiv (chan run 63).limit 1984 = 1 ∧ (chan run 63).next = 0 ∧ localMemory run 0x3000 = true)
    ∧ (let r := sealing { en := true, dir := true, keySlot := 63, base := 0x2000, limit := 1984, dest := 0x4000 } fun s =>
        { s with stackUnits := (List.range 32).map fun k => (k, { st := .excluded }) }
       sealWaits r (chan r 63) 0 = true)
    ∧ (let r := sealing { en := true, dir := true, next := 1, limit := 1984, cvuEn := true, cvu := 3, compl := 0x3000 }
       (chan r 63).cvuEn = true ∧ cdiv (chan r 63).limit 1984 ≤ (chan r 63).next ∧ accessStatus r ((chan r 63).iss 63) .store 0x3000 8 = 0 ∧ (r.requests.any fun q => q.sealCh == some 63) = false)
    ∧ (let r := sealing { en := true, dir := true } fun s => { s with requests := [{ id := 4, pkt := pktOf 8 1, issued := 0, sealCh := some 63 }] }
       (r.requests.any fun q => q.sealCh == some 63) = true) := by
  decide +kernel

theorem test_SealedRecordsAndJobs_calm : Safety.calm (sealing) ∧ Safety.calm (sealing { base := 0x2000, limit := 1984, dest := 0x4000, compl := 0x3000 }) :=
  ⟨calm_of rfl rfl rfl rfl, calm_of rfl rfl rfl rfl⟩

/-- A bundle of one image of each kind, with a version. -/
def bundle5 (v : Nat) : Bundle :=
  { version := v, minRunning := v, images := (List.range 5).map fun k => { kind := k, version := v, svn := 40 + k, key := [], body := [], sig := [] } }
/-- `live` with that bundle in slot A. -/
def flashed (booted : Bool := true) (f : Kept → Kept := id) : State :=
  { live with kept := f { live.kept with slotA := { bundle := bundle5 3, verified := true, booted }, slotB := { bundle := bundle5 0, verified := true } } }

theorem test_ImagesAndRetirement_hyps :
    let w := fun (n v : Nat) => ({ sid := 4, val := leBytes n v } : ObjWrite)
    let s := flashed
    let old := fun (s : State) (x : Slot) => s.fw.any fun f => f.2.mode == .running && decide (f.2.version < x.bundle.minRunning)
    (Safety.accepted live { sid := 4, val := [] } 0x701001 = true ∧ Safety.accepted live { sid := 0, reg := true, val := [] } 0x701001 = true)
    -- the active slot again, a verified one, one that is not, and one that needs newer firmware
    ∧ (∀ v ∈ [0, 1], Safety.accepted s (w 2 v) 0x701003 = true)
    ∧ s.kept.activeSlot = 0 ∧ (flashSlot s 1).verified = true ∧ old s (flashSlot s 1) = false ∧ (flashSlot live 1).verified = false ∧ Safety.accepted live (w 2 1) 0x701003 = true
    ∧ (let t := flashed true fun k => { k with activeSlot := 1 }
       Safety.accepted t (w 2 0) 0x701003 = true ∧ old t (flashSlot t 0) = true)
    -- the golden image and the counters
    ∧ (∀ v ∈ [0, 1, 2], Safety.accepted s (w 1 v) 0x701004 = true ∧ Safety.accepted s (w 1 v) 0x701005 = true)
    ∧ (flashSlot s s.kept.activeSlot).booted = true ∧ (flashSlot (flashed false) 0).booted = false ∧ Safety.accepted (flashed false) (w 1 1) 0x701005 = true
    ∧ (s.kept.golden.bundle.images.any fun i => decide (i.svn < mget (raisedCounters s) i.kind 0)) = false ∧ (slotImage (flashSlot s 0) 4).isSome = true
    ∧ (let t := flashed true fun k => { k with golden := { bundle := { bundle5 2 with images := [{ kind := 4, version := 1, svn := 43, key := [], body := [], sig := [] }] } } }
       (t.kept.golden.bundle.images.any fun i => decide (i.svn < mget (raisedCounters t) i.kind 0)) = true)
    -- signing keys, in a flash without images
    ∧ (∀ k ∈ [0, 3, 4], Safety.accepted live (w 1 k) 0x701006 = true ∧ leNat (w 1 k).val = k)
    ∧ (∀ x ∈ [live.kept.slotA, live.kept.slotB, live.kept.golden], x.bundle.images = [])
    ∧ Safety.accepted live { sid := 4, val := [1, 2, 3] } 0x701007 = true := by
  decide +kernel

theorem test_ImagesAndRetirement_units_hyps :
    let w := fun (l : List Nat) => ({ sid := 4, val := l.flatMap (leBytes 2) } : ObjWrite)
    let wrong := fun (s : State) (us : List Nat) => (us.any fun c => !retiredCode c) || us.any fun c => decide (0x200 ≤ c) && !s.kept.retired.contains c && ueKept s (c - 0x200)
    -- no unit and the longest list; codes at the ends of their ranges; one byte, a code of no unit, and an engine that holds a part of the system's region
    ([[], List.replicate 256 127, [0, 127, 0x100, 0x107, 0x207], [0, 128]].all fun l => Safety.accepted live (w l) 0xA00004 && (w l).val.length % 2 == 0 && decide ((w l).val.length ≤ 512)
      && retiredList (w l).val == l && wrong live l == (l == [0, 128])) = true
    ∧ (Safety.accepted live { sid := 4, val := [1] } 0xA00004 = true ∧ wrong live [0x200] = true)
    ∧ (clu live 127).free = true ∧ (clu (crewAt 0 0) 0).free = false := by
  decide +kernel

/-- A Pit Log event of a shaft, and a record of it with `n` repeats. -/
def ev1 (pace : Nat := 5) : PitEvent := { trig := 0x0701, unit := 63, status := 0x30, addr := 9, pace }
def rec1 (n : Nat := 0) : PitRec := { seq := 7, ev := ev1, cls := trigClass 0x0701, repeats := n, lastPace := 5 }
/-- `live` with records and waiting events. -/
def logged (records : List PitRec) (queue : List PitEvent) : State := { live with pit := { live.pit with records, queue } }

theorem test_ErrorsAndPitLog_hyps :
    let s : State := { live with
      kernels := [(9, { q := 255, index := 0, words := [], clusters := [], part := 15, mode := .running })]
      queues := [(255, { part := 15, en := true })]
      channels := [(63, { en := true, part := 15 })]
      trust := { live.trust with keys := [(0, key63), (63, { key63 with part := 15 })] } }
    ((mfind s.kernels 9).map (·.part) = some 15 ∧ (mfind s.queues 255).map (·.en) = some true ∧ (mfind s.channels 63).map (·.en) = some true ∧ (mfind s.trust.keys 63).map (·.part) = some 15
      ∧ bit (trigByte s 0x0904) 7 = true ∧ bit (trigByte s 0x0905) 7 = true)
    ∧ live.boot.phase = .booted ∧ (inPhase .booting).boot.phase = .booting ∧ (inPhase .fatal).boot.phase = .fatal ∧ (inPhase .tripped).boot.phase = .tripped
    -- an event that folds at the last instant and at one repeat less than the most; one that comes later; one that has folded most; the first record
    ∧ (let s := logged [rec1 0xFFFE] [ev1 60000000005, ev1]
       s.pit.records.getLast? = some (rec1 0xFFFE) ∧ s.pit.queue = [ev1 60000000005, ev1] ∧ folds s (rec1 0xFFFE) (ev1 60000000005) = true)
    ∧ folds live (rec1) (ev1 60000000006) = false ∧ folds live (rec1 0xFFFF) (ev1) = false ∧ (logged [] [ev1]).pit.records.getLast? = none
    ∧ (logged [] []).pit.queue = []
    -- captured addresses: memory, and both halves of a register
    ∧ home live (fld 0 47 3 * 8) ≠ .regs
    ∧ (∀ i ∈ [0, 1], let a := fld (0x0F0800400008 + i) 47 3 * 8
      home live a = .regs ∧ levelStatus live a = 0 ∧ (regValue live a).isSome = true)
    ∧ (∀ n ∈ [0, 1, 2, 3, 4], Safety.accepted live { sid := 4, val := leBytes 1 n } 0x80000A = true)
    ∧ (let s := { live with pit := { live.pit with programming := true } }
       s.pit.programming = true ∧ Safety.accepted s { sid := 4, val := leBytes 1 1 } 0x80000A = true)
    ∧ live.opSeconds / 3600 < 3600 / 3600 ∧ 3599 / 3600 ≤ live.opSeconds / 3600 := by
  decide +kernel

theorem test_ErrorsAndPitLog_rising : Safety.rising [((0 : Nat), key63), (63, { key63 with part := 15 })] := by simp [Safety.rising]

theorem test_StepTakesTheFrontCommand_hyps :
    ({ live with pending := [.mgmtLinkDown, .nopI 0 0] } : State).pending = [.mgmtLinkDown, .nopI 0 0] ∧ live.pending = [] ∧ live.held = [] ∧ live.outbox = [] ∧ live.pace.on = true
      ∧ State.reset.pace.on = false ∧ State.reset.held = [] :=
  ⟨rfl, rfl, rfl, rfl, rfl, rfl, rfl⟩

/-- One command waits for a processor that restarts; two behind it for one that runs. -/
theorem test_StepTakesTheFrontCommand_held :
    let w : ObjWrite := { sid := 4, val := [1#8] }
    let s := { live with fw := [(1, { mode := .restarting }), (8, { mode := .running })], held := [(1, .write 0x340005 w), (8, .write 0x400007 w), (8, .write 0x400003 w)] }
    s.pending = [] ∧ s.boot.phase ≠ .fatal ∧ s.held = [(1, .write 0x340005 w)] ++ (8, .write 0x400007 w) :: [(8, .write 0x400003 w)]
      ∧ (∀ h ∈ [((1 : Nat), HeldCmd.write 0x340005 w)], fwRuns s h.1 = false) ∧ fwRuns s 8 = true ∧ ∀ h ∈ [((1 : Nat), HeldCmd.write 0x340005 w)], fwRuns s h.1 = false ∨ s.boot.phase = .fatal := by
  decide +kernel

/-- One port's link is up and has a packet to send; another's is down. -/
theorem test_StepTakesTheFrontCommand_ports :
    let q : Packet := { cls := 0, type := 0, dst := 9, src := 1, engine := 0, seq := 0, offset := 0 }
    let s := { live with ports := [(0, { mode := .active, outQ := [{ pkt := q, time := 0 }] }), (31, { mode := .dark })] }
    linkUp s 0 = true ∧ linkUp s 31 = false ∧ Safety.rising s.ports
      ∧ (match Machine.step s with | .next t => mget (prt t 0).sentFlits 0 0 == 1 && prt t 31 == prt s 31 | _ => false) = true := by
  refine ⟨by decide +kernel, by decide +kernel, ?_, by decide +kernel⟩
  simp [Safety.rising]

/-- A memory of three bytes in its form, and a step from it. -/
theorem test_EveryStepKeepsMemoryCanonical_hyps :
    Memory.wf (writeMem live 0x2000 [1#8, 0#8, 2#8]).mem = true ∧ (writeMem live 0x2000 [1#8, 0#8, 2#8]).mem ≠ [] := by decide +kernel

theorem test_EveryStepKeepsMemoryCanonical_step : ∃ t, Machine.step { live with pending := [.mgmtLinkDown] } = .next t := ⟨_, rfl⟩

/-- A module with a key revoked and a counter raised takes the command that cuts its power. -/
theorem test_FusesOnlyMoveForward_step :
    ∃ t, Machine.step { live with pending := [.inputLoss 0 2000000], kept := { live.kept with revoked := [3], rollback := [(4, 2)], powerCycles := 9 } } = .next t := ⟨_, rfl⟩

theorem test_PoisonFollowsData_hyps :
    let core : Issuer := { kind := .core, unit := 0 }
    -- stores that cover a unit whole, in part and not, at the top of deep memory and in a scratchpad
    ([XKind.store, .flagStore].all fun k => [(0x17FFFFFFFC0, 64, false), (0x17FFFFFFFFF, 1, true), (0x17FFFFFFF80, 64, true)].all fun o =>
      let x : Xact := { tag := 7, iss := core, kind := k, addr := o.1, size := o.2.1, data := List.replicate o.2.1 1#8, poison := o.2.2 }
      let f := 0x17FFFFFFFC0
      alive live && flight live x.iss x.addr == .free && accessStatus live x.iss x.kind x.addr x.size == 0 && localMemory live x.addr && !waits live x.addr && decide (0 < x.size) && ((linePieces x.addr x.size).all fun p => !failedHome live p.1)
        && (unitOf x.addr).2.1 == 64 && f % 64 == 0 && (unitOf f).2.1 == 64 && (List.range o.2.1).all fun i => (unitOf (o.1 + i)).2.1 == 64) = true
    ∧ (unitOf slmBase).2.1 = 8 := by
  decide +kernel
theorem test_PoisonFollowsData_settled : Safety.settled live := live_calm.2.2.2.1

theorem test_AccumulateWritesAndPoison_hyps :
    [true, false].all (fun p =>
      let a : AccWrite := { tag := 1, iss := { kind := .core, unit := 0 }, addr := 0x08017FFFFF80, int := true, mask := 0x80000001#32, data := List.replicate 32 5#32, poison := p }
      let s := { live with towers := [(3, { scratchUnits := 6, adder := [a] })], poison := if p then [] else unitsOf 0x08017FFFFFC0 64 : State }
      (tow s 3).adder[0]? == some a && a.mask.getLsbD 31 && a.mask.getLsbD 0 && Memory.wf s.mem && !inSlm (a.addr + 124) && a.addr % 128 == 0
        && (p || poisoned s ((a.addr + 124) / 64 * 64) 64)) = true := by decide +kernel

/-- A crew whose running path lies in `n` divergences is at a branch that its lanes 0 to 15 take. -/
def deep (n : Nat) : State :=
  updCrew (crewP1 (onP1 (braW 4 8)) 0xFFFF#32) 0 0 fun x => { x with run := some { mask := 0xFFFFFFFF#32, pc := 0x1000, divs := List.range n } }

theorem test_DivergenceDepth_hyps :
    let w := onP1 (braW 4 8)
    fld w 63 58 = 0x20 ∧ fld w 57 50 = 0x01
    ∧ [31, 32].all (fun n =>
      let s := deep n
      let i := Safety.insAt s 0 0 w 0
      (crw s 0 0).run == some { mask := 0xFFFFFFFF#32, pc := 0x1000, divs := List.range n } && Safety.performs s 0 0 w 0 (braCodes i) && i.lanes != 0#32 && i.lanes != 0xFFFFFFFF#32
        && (List.range n).length == n && Memory.wf s.mem && (crw s 0 0).pending == [] && (crw s 0 0).atReconv == [] && (crw s 0 0).atBarrier == []) = true := by
  decide +kernel

/-- Whether a crew's lanes are placed. -/
def placedOk (x : Crew) : Bool :=
  let ps := x.run.toList ++ x.pending ++ x.atReconv ++ x.atBarrier
  ((List.range 32).all fun l => (ps.countP fun p => p.mask.getLsbD l) == if x.exited.getLsbD l then 0 else 1)
    && ps.all fun p => decide (p.age < x.nextAge)

/-- A crew with a running, a waiting and an ended part takes a step and is there afterwards. -/
theorem test_LanesStayPlaced_hyps :
    let w := onP1 (braW 4 8)
    let s := updCrew (crewP1 w 0xF#32) 0 0 fun x =>
      { x with run := some { mask := 0xFF#32, pc := 0x1000, age := 1 }, pending := [{ mask := 0xFF00#32, pc := 0x2000, age := 2 }], exited := 0xFFFF0000#32, nextAge := 3 }
    placedOk (crw s 0 0) = true ∧ (match Machine.exec (.bra 0 0) s with | .next t => (mfind (clu t 0).crews 0).isSome && placedOk (crw t 0 0) | _ => false) = true := by
  decide +kernel

theorem test_LanesStayPlaced_admit_hyps :
    let words := [(BitVec.ofNat 64 (15 * 2 ^ 42)), 0#64, 0#64, 0#64, 0#64, 0#64, 0#64, 0#64]
    let s : State := { live with clusters := [(127, { mode := .running })], kernels := [(7, { q := 0, index := 0, words, clusters := [127], mode := .running })] }
    (mfind (clu s 127).crews 112).isNone = true
    ∧ (match Machine.exec (.crewAdmit 7 127 15) s with | .next t => (mfind (clu t 127).crews 112).isSome | _ => false) = true := by
  decide +kernel

theorem test_CodesRoundTrip_hyps :
    -- a code of each kind at its bound
    (0x7F7F ≤ bf16.maxFin ∧ bf16.infCode = some 0x7F80 ∧ bf16.maxFin < 0x7F81 ∧ bf16.infCode ≠ some 0x7F81) ∧ (0x7E ≤ e4m3.maxFin ∧ e4m3.maxFin < 0x7F ∧ e4m3.infCode ≠ some 0x7F)
    ∧ ∀ f ∈ [f64, f32, f16, bf16, e4m3, e5m2, e3m2, e2m3, e2m1], 0 < 2 ^ f.width ∧ 0 ≤ f.maxFin := by
  decide +kernel

theorem test_ConversionIsNearest_hyps :
    -- the largest finite value, a tie between two codes, and the least finite code
    bf16.roundMag 255 120 = bf16.maxFin ∧ bf16.roundMag 257 0 ≤ bf16.maxFin ∧ 0xFF7F < 2 ^ bf16.width ∧ 0xFF7F % 2 ^ (bf16.width - 1) ≤ bf16.maxFin := by
  decide +kernel

/-! ### Ill-formed terms, which the check refuses -/

/-- Each command is refused with its unit number one past the last, and taken with the last. -/
def edges (l : List (Nat × (Nat → Instr))) : Bool := l.all fun x => (x.2 (x.1 - 1)).wf && !(x.2 x.1).wf

theorem test_wf_towers : edges [(4, fun t => .recalRoundStart t 0), (4, fun t => .shaftRecalDone t 0 []), (4, fun t => .levelResetDrainDone t 1), (4, fun t => .levelResetRelease t 1), (4, fun t => .levelReady t 1),
    (4, .levelResetDrainDone 0), (4, .levelResetRelease 0), (4, .levelReady 0), (4, .towerResetWritebackDone), (4, .towerPllLocked), (4, .towerJointsTrained), (4, .towerReady), (4, .nsCacheWritebackDone),
    (4, fun t => .nsWritebackTimeout t 0), (4, fun t => .accwApply t 0), (4, .nsSplitChangeDone), (4, fun t => .bktReady t 0), (4, fun t => .laserFault t 0), (8, .laserFault 0),
    (4, fun t => .hotLineApply t 0 0), (4, fun t => .hfGatherTimeout t 0 0), (4, .elsfpRemove), (6, fun j => .laneLossOfSignal 0 j 0 0), (256, fun h => .laneLossOfSignal 0 1 h 0),
    (320, fun h => .laneLossOfSignal 0 3 h 0), (1024, fun h => .laneLossOfSignal 0 5 h 0), (71, .laneLossOfSignal 3 5 1023)] = true := by decide +kernel

theorem test_wf_levels : (Instr.levelReady 0 0).wf = false ∧ (Instr.levelResetRelease 0 0).wf = false ∧ (Instr.levelResetDrainDone 0 0).wf = false := by decide +kernel

theorem test_wf_units : edges [(32, fun k => .stackRetrainInterval k 0), (64, .memDeviceFailure), (32, .copyI), (32, .transposeI), (32, .fillI), (32, .accwI), (32, .copyTransferDone), (21, fun p => .fwProcessorFault p 0),
    (21, fun p => .fwWatchdogExpiry p 0), (8, fun n => .uePass1 n 0), (8, fun n => .uePass2 n 0), (8, .ueFactoredUpdate), (32, fun p => .portAckTimeout p 0), (32, fun p => .portBringupStart p 0),
    (256, .bucketShip), (256, .bucketLand), (256, .cmdNop), (256, .cmdLaunch), (256, .cmdInvalidOpcode), (64, fun e => .stepBegin e 0), (64, fun e => .checkpoint e 0), (64, .fenceEpochSignal), (8, .dvfsChangeDone),
    (8, fun d => .throttleRelease d 0), (64, .sealJobComplete), (16, fun p => .partitionContain p 0), (16, fun p => .partEnable p { sid := 0, val := [] }), (16, fun b => .barTimeout 0 b 0), (128, .currentHoldOp),
    (128, fun c => .barTimeout c 0 0), (115, fun n => .thermalSample 0 (List.replicate n 0) [])] = true := by decide +kernel

/-- A packet and an object write of no matter. -/
def pk0 : Packet := { cls := 0, type := 0, dst := 0, src := 0, engine := 0, seq := 0, offset := 0 }
def w0 : ObjWrite := { sid := 0, val := [] }

theorem test_wf_engines : edges [(4, fun x => .bootShaftTrain x 0 false 0 []), (32, fun x => .bootStackTrain x 0 false 0), (8, fun x => .bootUeStart x 0 false 0),
    (128, fun x => .bootClusterTest x 0 false 0), (32, fun x => .bootPortBringup x 0 false 0 none), (21, fun x => .fwRestartActionTimeout x 0), (21, fun x => .fwRestartComplete x 0 false []), (6, fun n => .fwRestartComplete 0 0 true [⟨n, 0, []⟩]), (65536, fun n => .fwRestartComplete 0 0 true [⟨0, n, []⟩]), (7, fun n => .fwRestartComplete 0 0 true [⟨0, 0, List.replicate n 0#64⟩]),
    (4, fun x => .shaftFrame x 0 0 none [] false), (6, fun x => .shaftFrame 0 x 0 none [] false), (4, fun x => .laneErrorThreshold x 0 0 0 0), (6, fun x => .laneErrorThreshold 0 x 0 0 0),
    (71, fun x => .laneErrorThreshold 0 0 0 x 0), (32, fun x => .stackTempDelta x 0 0), (32, fun x => .stackRetrainDone x 0 false), (128, fun x => .crewAdmit 0 x 0), (128, fun x => .tldComplete x []),
    (128, fun x => .mloadComplete x 0), (128, fun x => .streamStart x 0), (128, fun x => .rowEnter x 0), (128, .holdWindowExpire), (128, fun x => .outputRowWrite x 0 []),
    (128, fun x => .mzeroClear x 0), (128, fun x => .mepiRowRead x 0 []), (128, fun x => .mepiRowWrite x 0), (128, fun x => .mepiComplete x 0), (128, fun x => .mspillRow x 0 []),
    (128, fun x => .accwAck x 0), (128, .asyClear w0), (256, fun x => .bucketArm x []), (256, .bucketShipped), (32, fun x => .bucketContribution x pk0), (256, fun x => .bucketSendFail x 0),
    (256, fun x => .bucketLandTimeout x 0), (8, fun x => .ueGradReady x 0), (32, fun x => .wlLossOfSignal x 0 false), (8, fun x => .wlLossOfSignal 0 x false),
    (32, fun x => .wlUncorrLimitReached x 0 0 true), (8, fun x => .wlUncorrLimitReached 0 x 0 true), (32, fun x => .wlRetrainStart x 0 0), (8, fun x => .wlRetrainStart 0 x 0),
    (32, fun x => .wlRetrainDone x 0 false), (8, fun x => .wlRetrainDone 0 x false), (32, fun x => .portTrainingDone x 0 none), (32, fun x => .portKeyExchangeDone x 0 false),
    (32, fun x => .portBringupRetry x 0)] = true := by decide +kernel

theorem test_wf_links : edges [(32, fun x => .portLightDetect x 0 0), (9, fun x => .portLightDetect 0 x 0), (4, fun x => .elsfpInsert x false),
    (32, fun x => .linkFrame x 0 0 { ack := 0 } false false 0), (9, fun n => .linkFrame 0 0 0 { ack := 0, freed := List.replicate n 0 } false false 0), (32, fun x => .packetForward x 0 pk0), (32, fun x => .dnyLd x 0 pk0), (32, fun x => .dnyLdRsp x 0 pk0), (32, fun x => .dnySt x 0 pk0),
    (32, fun x => .dnyStAck x 0 pk0), (32, fun x => .dnyAtom x 0 pk0), (32, fun x => .dnyAtomRsp x 0 pk0), (32, fun x => .dnyBwr x 0 pk0), (32, fun x => .dnyBacc x 0 pk0),
    (32, fun x => .dnyBrd x 0 pk0), (32, fun x => .dnyBrdRsp x 0 pk0), (32, fun x => .dnyBack x 0 pk0), (32, fun x => .dnyMsg x 0 pk0 0), (32, fun x => .dnyMsgAck x 0 pk0),
    (32, fun x => .dnyMsgNak x 0 pk0), (32, fun x => .dnyLink x 0 pk0), (32, fun x => .dnyVote x 0 pk0 false 0 false), (32, fun x => .dnyKeyx x 0 pk0),
    (32, fun x => .atomSideQueueRelease x 0), (32, fun x => .linkRekey x 0 0), (32, fun x => .pacePacketSend x 0), (256, fun x => .cqCtrl x 0), (256, fun x => .cqDoorbell x 0),
    (256, .cmdCopy), (256, .cmdWait), (256, fun x => .cmdWaitSatisfied x 0), (256, .cmdSignal), (256, fun x => .cmdTimestamp x 0), (128, fun x => .preemptionPointReached 0 x 0),
    (128, .preemptSaveDone 0), (64, fun x => .pcsCtrl x 0 0), (64, fun x => .bucketWindow x 0), (64, fun x => .powerRamp x 0), (64, .checkpointSignal), (64, fun x => .fenceEpoch x 0),
    (8, fun x => .throttleDiePoint x 0), (8, fun x => .throttleHeld1s x 0), (32, fun x => .sealedRecord x 0 pk0), (64, fun x => .sigChannelEnable x 0), (64, fun x => .sealJobStart x 0),
    (64, fun x => .sendQueueDoorbell x 0 0 0 []), (64, fun x => .sendQueueDoorbell 0 0 x 0 [])] = true := by decide +kernel

theorem test_wf_crews : ([.nopI, .exitI, .trap, .iadd, .isub, .imul, .fadd, .fmul, .cvt, .icmp, .xlaneIdx, .lanesAll, .sadd, .scmp, (.ld · · []), .st, (.waitI · · []), (.atomAdd · · []), (.atomCas · · []), .fence, .tld, .dmaIssue, .mload, .mstream,
    .mepi, .mzero, .mspill, .await, .bra, .retI, .barSync, .illegalInstr] : List (Nat → Nat → Instr)).all (fun i => edges [(128, fun c => i c 0), (128, i 127)]) = true := by decide +kernel

/-! ### Single steps and worked examples of the manual -/

/-- The value of the nine ASCII bytes "123456789" (chapter 17, after R526). -/
theorem test_crc_of_the_manual : crc32c (strBytes "123456789") = 0xE3069283 := by decide +kernel

/-- "Reading a cluster address" (chapter 0): cluster 0x5B is the upper compute die's cluster 11 of tower 2. -/
theorem test_cluster_address : cluTower 0x5B = 2 ∧ cluLevel 0x5B = 3 ∧ unitOf 0x09005B000000 = unitOf (slmBase + 0x5B * 0x1000000) ∧ home live 0x09005B000000 = .slm 0x5B := by decide +kernel

/-- "Locating a fast-tier address" (chapter 3): stack 28, and stack 11 once stack 17 is skipped. -/
theorem test_fast_tier_address :
    home live 0x012345678ABC = .fast 28 ∧ home { live with stackMap := (List.range 32).filter (· != 17) } 0x012345678ABC = .fast 11 := by decide +kernel

/-- "Encoding a crew CAS" (chapter 5): the lock in the crew's own shared memory is taken by lane 0, and every lane reads what it held. -/
theorem test_cas_of_the_manual :
    let s := crewAt 0x4178002008000600 0 { kernel := 1, index := 0, v := (List.range 32).map fun l => (128 + l, 1#32) }
    (match Machine.exec (.atomCas 0 0 []) s with
      | .next t => readNat t slmBase 4 == 1 && (List.range 32).all (fun l => (crw t 0 0).vLane 2 l == if l = 0 then 0#32 else 1#32) && (crw t 0 0).run == some { mask := 0xFFFFFFFF#32, pc := 0x1008 }
      | _ => false) = true := by decide +kernel

/-- "One MXFP4 output block and one MXFP8 block" (chapter 8): the codes of 5.92, 3.36, −3.36, 0.32, 0.16, of 470 and of 235. -/
theorem test_conversions_of_the_manual :
    let hundredth := fun (neg : Bool) (n : Nat) => Num.fin neg (n * 2 ^ 40 / 100) (-40)
    [(false, 592), (false, 336), (true, 336), (false, 32), (false, 16)].map (fun x => (e2m1.convert (hundredth x.1 x.2)).code) = [0x7, 0x5, 0xD, 0x1, 0x0]
    ∧ (e4m3.convert (.fin false 235 0)).code = 0x77 ∧ (e4m3.convert (.fin false 470 0)).sat = true := by decide +kernel

/-- `IADD` wraps, and writes the active lanes alone (R135). -/
theorem test_iadd_wraps :
    let s := crewAt (onP1 (rWord 0x01 0x00 { n := 2 })) 0 { kernel := 1, index := 0, v := [(128, 0xFFFFFFFF#32), (192, 2#32), (64, 9#32), (65, 9#32)], p := [(1, 1#32)] }
    (match Machine.exec (.iadd 0 0) s with | .next t => (crw t 0 0).vLane 2 0 == 1#32 && (crw t 0 0).vLane 2 1 == 9#32 | _ => false) = true := by decide +kernel

/-- A word of no class raises `ILLEGAL_INSTR` and stops the kernel (R128, R168). -/
theorem test_illegal_instruction_stops_the_kernel :
    (match Machine.exec (.illegalInstr 0 0) (crewAt (0x3F * 2 ^ 58) 0) with | .next t => (krn t 1).contained && (mfind (clu t 0).crews 0).isNone | _ => false) = true := by decide +kernel

/-- A step with nothing waiting counts one nanosecond (assumption 9). -/
theorem test_idle_step : (match Machine.step live with | .next t => t.pace.now == 1000001 && t.pending == [] | _ => false) = true := by decide +kernel

/-- A firmware processor's entries take the places after the last in its tower's ring, and raise 0x118 from `FWLOG_IRQ_SEV` on (R428, R429). -/
theorem test_firmware_log :
    let s := { live with fw := [(20, { mode := .restarting })] }
    (match Machine.exec (.fwRestartComplete 20 0 true [⟨3, 7, []⟩, ⟨4, 8, [1#64]⟩]) s with
      | .next t => (mget t.fwLog 3 []).map (fun e => (e.seq, e.fwp, e.sev, e.code, e.args)) == [(0, 20, 3, 7, []), (1, 20, 4, 8, [1#64])] && (t.irqs.filter (· == 0x118)).length == 1
      | _ => false) = true := by decide +kernel

/-- Of two queues of one priority the one after the last served starts its command, and is then the last served (R406). -/
theorem test_queues_in_turn :
    let s := { ring [0] with cpLast := [(15, 14)] }
    (match Machine.exec (.cmdNop 255) s with | .next t => (cq t 255).read == 0 && mfind t.cpLast 15 == some 15 | _ => false) = true := by decide +kernel

/-- Two wrong bits in a word of the accumulator store poison its elements, and raise 0x1B4 (R213). -/
theorem test_store_word_error :
    (match Machine.exec (.mepiRowRead 127 0 [(5, 2)]) live with | .next t => (clu t 127).accPoison == [4, 5] && t.irqs == [0x1B4] | _ => false) = true := by decide +kernel

end Sys2Proof.Tests
end

section
/-! The module after reset. Its tables list nothing, so each accessor answers its default; what is not seen by reading the
record is that memory which lists no byte reads zero, whatever the address and the length. -/
namespace Sys2Proof.Machine

/-! ### Memory that lists nothing -/

/-- Assumption 14, for a run of bytes: what nothing has written reads as zero bytes. -/
theorem readMem_of_mem_nil {s : State} (h : s.mem = []) (a n : Nat) : readMem s a n = List.replicate n 0#8 := by
  have hbyte : ∀ i, cellGet s.mem (a + i) = 0#8 := fun i => by rw [h]; rfl
  simp only [readMem, hbyte, List.map_const', List.length_range]

@[simp] theorem leNat_replicate_zero (n : Nat) : leNat (List.replicate n 0#8) = 0 := by
  induction n with
  | zero => rfl
  | succ n ih => simp [List.replicate_succ, leNat, ih]

theorem readNat_of_mem_nil {s : State} (h : s.mem = []) (a n : Nat) : readNat s a n = 0 := by
  rw [readNat, readMem_of_mem_nil h, leNat_replicate_zero]

/-! ### The reset state -/

/-- Every unit is idle: its table lists no entry, and the entry it has without one is the unit at its Reset column. -/
theorem reset_units_idle :
    let r := State.reset
    (∀ p, (fwp r p).mode = .off) ∧ (∀ q, (cq r q).en = false) ∧ (∀ c, (clu r c).kernels = [] ∧ (clu r c).crews = [])
      ∧ (∀ b, (bkt r b).mode = .idle) ∧ (∀ c, (chan r c).en = false) ∧ (∀ p, (prt r p).mode = .dark)
      ∧ (∀ n, (ue r n).mode = .idle) ∧ ∀ e, (sched r e).arm = false :=
  ⟨fun _ => rfl, fun _ => rfl, fun _ => ⟨rfl, rfl⟩, fun _ => rfl, fun _ => rfl, fun _ => rfl, fun _ => rfl, fun _ => rfl⟩

/-- R493: the 48 bytes of every measurement register are zero. -/
theorem mr_reset (i : Nat) : mr State.reset i = List.replicate 48 0#8 := rfl

/-- R5, R469: no object has an active value of its own, so each is at its default. -/
theorem cfgB_reset (key : Nat) : cfgB State.reset key = objDefault State.reset key := rfl

/-- Settles O51: the named fields are read off the record; every address reads 0 because memory lists no byte, and every unit
is idle because its table lists no entry. -/
theorem resetState : Obligations.ResetState := by
  unfold Obligations.ResetState
  have hmem : ∀ a n, readNat State.reset a n = 0 := readNat_of_mem_nil rfl
  exact ⟨rfl, rfl, rfl, rfl, rfl, rfl, rfl, rfl, rfl, rfl, rfl, rfl, rfl, rfl, rfl, rfl, rfl, rfl, rfl,
    hmem, mr_reset, cfgB_reset, reset_units_idle⟩

end Sys2Proof.Machine
end

section
/-! What stores, records and containment leave of a tower's joints: its shafts, its recalibration round, and the queue of
firmware restarts. -/
namespace Sys2Proof.Machine
open Sys2Proof

/-- The joints of tower `k` (R28, R41): its shafts, the shaft its round has taken, and the one a round that waits goes on with. -/
def joints (s : State) (k : Nat) : Map Shaft × Option Nat × Option Nat :=
  ((tow s k).shafts, (tow s k).recal, (tow s k).recalNext)

theorem shaft_of_shafts {s t : State} {k : Nat} (h : (tow t k).shafts = (tow s k).shafts) (j sh : Nat) : shaft t k j sh = shaft s k j sh := by
  unfold shaft; rw [h]

/-- Between two states neither the joints of tower `k` nor the queue of firmware restarts changed. -/
structure KeepsJoints (k : Nat) (s t : State) : Prop where
  joints : joints t k = joints s k
  queue : t.fwQueue = s.fwQueue

namespace KeepsJoints
variable {k : Nat} {s t u : State}

theorem shafts (h : KeepsJoints k s t) : (tow t k).shafts = (tow s k).shafts := congrArg Prod.fst h.joints
theorem recal (h : KeepsJoints k s t) : (tow t k).recal = (tow s k).recal := congrArg (·.2.1) h.joints
theorem recalNext (h : KeepsJoints k s t) : (tow t k).recalNext = (tow s k).recalNext := congrArg (·.2.2) h.joints
theorem shaft (h : KeepsJoints k s t) (j sh : Nat) : shaft t k j sh = shaft s k j sh := shaft_of_shafts h.shafts j sh

theorem refl (k : Nat) (s : State) : KeepsJoints k s s := ⟨rfl, rfl⟩
theorem trans (h : KeepsJoints k s t) (g : KeepsJoints k t u) : KeepsJoints k s u :=
  ⟨g.joints.trans h.joints, g.queue.trans h.queue⟩

/-- A change of neither the towers nor the queue. -/
theorem of_towers (h : t.towers = s.towers) (q : t.fwQueue = s.fwQueue) : KeepsJoints k s t :=
  ⟨by unfold Machine.joints tow; rw [h], q⟩

theorem setTow (s : State) (i : Nat) (x : Tower) (h : i = k → (x.shafts, x.recal, x.recalNext) = Machine.joints s k) :
    KeepsJoints k s (setTow s i x) := by
  refine ⟨?_, rfl⟩
  unfold Machine.joints
  rw [tow_setTow]
  split
  · exact h ‹_›
  · rfl

theorem foldl {α : Type} {f : State → α → State} (h : ∀ s x, KeepsJoints k s (f s x)) (l : List α) (s : State) :
    KeepsJoints k s (l.foldl f s) := by
  induction l generalizing s with
  | nil => exact refl k s
  | cons x l ih => exact (h s x).trans (ih _)

/-- A fold that carries a state beside another value. -/
theorem foldl₂ {α β : Type} {f : State × β → α → State × β} (h : ∀ r x, KeepsJoints k r.1 (f r x).1) (l : List α)
    (r : State × β) : KeepsJoints k r.1 (l.foldl f r).1 := by
  induction l generalizing r with
  | nil => exact refl k _
  | cons x l ih => exact (h r x).trans (ih _)

theorem ite {p : Prop} [Decidable p] (h : KeepsJoints k s t) (g : KeepsJoints k s u) :
    KeepsJoints k s (if p then t else u) := by
  split
  · exact h
  · exact g

end KeepsJoints

section
variable (k : Nat) (s : State)

/-! ### Stores of engines -/

theorem pitEvent_keepsJoints (a b c d e f : Nat) : KeepsJoints k s (pitEvent s a b c d e f) := by
  rw [pitEvent_eq]; exact .of_towers rfl rfl

theorem irq_keepsJoints (n : Nat) : KeepsJoints k s (irq s n) := .of_towers rfl rfl

theorem xorUnit_keepsJoints (base : Nat) (errs : List (Nat × Nat)) : KeepsJoints k s (xorUnit s base errs) := by
  unfold xorUnit
  refine .foldl (fun s e => ?_) errs s
  split
  · exact .of_towers rfl rfl
  · exact .refl k s

theorem uncover_keepsJoints (l : NsLine) : KeepsJoints k s (uncover s l) := by
  have hmark : ∀ (s : State) (p : List Nat), KeepsJoints k s { s with poison := p } := fun _ _ => .of_towers rfl rfl
  unfold uncover
  exact .ite (.refl k s) (.foldl (fun s _ => (hmark s _).trans (xorUnit_keepsJoints k _ _ _)) l.under s)

/-- A look-up of the near-store cache moves its lines and tree bits alone. -/
theorem nsAccess_eq (x : Tower) (sets policy line : Nat) (write : Bool) :
    nsAccess x sets policy line write = { x with
      lines := (nsAccess x sets policy line write).lines, plru := (nsAccess x sets policy line write).plru } := by
  unfold nsAccess; dsimp only
  split
  · rfl
  · split <;> rfl

theorem nsTouch_keepsJoints (a n : Nat) (write : Bool) : KeepsJoints k s (nsTouch s a n write) := by
  unfold nsTouch
  cases home s a with
  | fast j =>
    refine .ite (.trans (.setTow _ _ _ ?_) (.foldl (uncover_keepsJoints k) _ _)) (.refl k s)
    rintro rfl
    rw [nsAccess_eq]
    rfl
  | _ => exact .refl k s

theorem accwLine_keepsJoints (w : AccWrite) : KeepsJoints k s (accwLine s w) := by
  unfold accwLine
  extract_lets f r hit _ s'
  have hstep : ∀ r i, KeepsJoints k r.1 (f r i).1 := fun r i => by
    unfold f; split
    · exact .of_towers rfl rfl
    · exact .refl k _
  have hsum : KeepsJoints k s s' := .trans (t := r.1) (.foldl₂ hstep _ (s, 0)) (.of_towers rfl rfl)
  exact .ite (hsum.trans (.of_towers rfl rfl)) hsum

theorem drainLines_keepsJoints (a n : Nat) : KeepsJoints k s (drainLines s a n) := by
  unfold drainLines
  refine .foldl (fun s i => .ite (.trans (.setTow s i _ ?_) (.foldl (accwLine_keepsJoints k) _ _)) (.refl k s)) _ s
  rintro rfl; rfl

theorem lineWrite_keepsJoints (a : Nat) (bs : List Byte) (tag : Bool) : KeepsJoints k s (lineWrite s a bs tag).1 := by
  rw [lineWrite_eq]
  refine .trans (drainLines_keepsJoints k s a bs.length) ?_
  generalize drainLines s a bs.length = t
  split
  · exact pitEvent_keepsJoints k t _ _ _ _ _ _
  · exact .trans (t := writeMem t a bs tag) (.of_towers rfl rfl) (nsTouch_keepsJoints k _ _ _ _)

theorem memWrite_keepsJoints (a : Nat) (bs : List Byte) (tag : Bool) : KeepsJoints k s (memWrite s a bs tag).1 := by
  unfold memWrite
  refine .foldl₂ (fun r p => ?_) _ (s, 0)
  dsimp only
  exact lineWrite_keepsJoints k r.1 p.1 _ tag

theorem performOrWait_store_keepsJoints (x : Xact) (h : x.kind = .store) :
    KeepsJoints k s (performOrWait s { x, answer := false }) := by
  have hperform : KeepsJoints k s (perform s x false) := by
    have hwrite := memWrite_keepsJoints k s x.addr (padTo x.size x.data) x.poison
    unfold perform; rw [h]; dsimp only
    generalize memWrite s x.addr (padTo x.size x.data) x.poison = r at hwrite ⊢
    exact hwrite.trans (.of_towers rfl rfl)
  unfold performOrWait
  cases home s x.addr with
  | fast j => exact .ite (.of_towers rfl rfl) hperform
  | _ => exact hperform

theorem post_keepsJoints (iss : Issuer) (a : Nat) (bs : List Byte) (tag : Bool) : KeepsJoints k s (post s iss a bs tag) := by
  unfold post
  exact .foldl (fun s _ => .ite (.refl k s) (performOrWait_store_keepsJoints k s _ rfl)) _ s

theorem trace_keepsJoints (t point w2 w3 : Nat) : KeepsJoints k s (trace s t point w2 w3) := by
  unfold trace
  extract_lets base quarter r s' i rec4 s''
  have hdrawn : KeepsJoints k s s' := by
    obtain ⟨f, hf⟩ := traceBusy_eq s t
    unfold s' r; rw [hf]; exact .of_towers rfl rfl
  have hrecord : KeepsJoints k s' s'' := post_keepsJoints k s' _ _ _ _
  refine .ite (.ite ?_ ?_) (.refl k s)
  · exact hdrawn.trans (.of_towers rfl rfl)
  · exact (hdrawn.trans hrecord).trans (.of_towers rfl rfl)

/-! ### Responses -/

theorem localPut_keepsJoints (j : Nat) (r : Response) : KeepsJoints k s (localPut s j r) := by
  have hread : ∀ (s : State) (m : Map Nat), KeepsJoints k s { s with localChan.reads := m } := fun _ _ => .of_towers rfl rfl
  exact ((post_keepsJoints k s _ _ _ _).trans (hread _ _)).trans (irq_keepsJoints k _ _)

theorem respond_keepsJoints (sid : Nat) (r : Response) : KeepsJoints k s (respond s sid r) := by
  unfold respond
  split
  · exact .refl k s
  · extract_lets x s'
    have hkept : KeepsJoints k s s' := .of_towers rfl rfl
    split
    · exact hkept.trans (localPut_keepsJoints k s' _ r)
    · exact hkept

/-! ### Kernels that are contained or end -/

theorem dropFromParts_keepsJoints (c : Nat) : KeepsJoints k s (dropFromParts s c) := by
  unfold dropFromParts
  refine .foldl (fun s p => ?_) _ s
  extract_lets key clear s'
  have hshadow : KeepsJoints k s s' := .ite (.of_towers rfl rfl) (.refl k s)
  exact .ite (hshadow.trans (.of_towers rfl rfl)) hshadow

theorem boundary_keepsJoints (c : Nat) : KeepsJoints k s (boundary s c) := by
  unfold boundary
  extract_lets x y s' s''
  have hclu : KeepsJoints k s s' := .of_towers rfl rfl
  have hdrop : KeepsJoints k s s'' := hclu.trans (dropFromParts_keepsJoints k s' c)
  exact .ite (.ite (hdrop.trans (.of_towers rfl rfl)) hdrop) hclu

theorem stopKernelOn_keepsJoints (c n : Nat) : KeepsJoints k s (stopKernelOn s c n) := .of_towers rfl rfl

theorem releaseCluster_keepsJoints (c n : Nat) : KeepsJoints k s (releaseCluster s c n) := by
  unfold releaseCluster
  extract_lets s' x ks s''
  have hclear : KeepsJoints k s s' := .of_towers rfl rfl
  have hfree : KeepsJoints k s' s'' := .of_towers rfl rfl
  exact (hclear.trans hfree).trans (boundary_keepsJoints k s'' c)

theorem containKernel_keepsJoints (n : Nat) : KeepsJoints k s (containKernel s n) := by
  unfold containKernel
  extract_lets x s' _ s''
  have hstop : KeepsJoints k s s' := .foldl (fun s c => stopKernelOn_keepsJoints k s c n) x.clusters s
  have hmark : KeepsJoints k s' s'' := .of_towers rfl rfl
  exact .ite (.refl k s) ((hstop.trans hmark).trans (.of_towers rfl rfl))

theorem completeCmd_keepsJoints (q index : Nat) : KeepsJoints k s (completeCmd s q index) := by
  unfold completeCmd
  extract_lets x s'
  have hlist : KeepsJoints k s s' := .of_towers rfl rfl
  split
  · exact .refl k s
  · exact .ite (hlist.trans (irq_keepsJoints k s' q)) hlist

theorem endKernel_keepsJoints (n status : Nat) : KeepsJoints k s (endKernel s n status) := by
  unfold endKernel
  extract_lets x s₁ s₂ _ s₃ s₄ _ s₅ s₆ s₇
  have hrecord : KeepsJoints k s s₁ := post_keepsJoints k s _ _ _ _
  have hfree : KeepsJoints k s₁ s₂ := .foldl (fun s c => releaseCluster_keepsJoints k s c n) x.clusters s₁
  have hended : KeepsJoints k s₂ s₃ := .of_towers rfl rfl
  have htrace : KeepsJoints k s₃ s₄ := trace_keepsJoints k s₃ _ _ _ _
  have hbeat : KeepsJoints k s₄ s₅ := .ite (.refl k s₄) (.of_towers rfl rfl)
  have hcmd : KeepsJoints k s₅ s₆ := completeCmd_keepsJoints k s₅ _ _
  have hirq : KeepsJoints k s₆ s₇ := .ite (.refl k s₆) (irq_keepsJoints k s₆ _)
  have hall : KeepsJoints k s s₇ := hrecord.trans hfree |>.trans hended |>.trans htrace |>.trans hbeat |>.trans hcmd |>.trans hirq
  exact .ite (hall.trans (pitEvent_keepsJoints k s₇ _ _ _ _ _ _)) hall

theorem containOrEnd_keepsJoints (n : Nat) : KeepsJoints k s (containOrEnd s n) := by
  have hbeat : ∀ l, KeepsJoints k s { s with beat.frozen := l } := fun _ => .of_towers rfl rfl
  unfold containOrEnd
  extract_lets x
  refine .ite ?_ (containKernel_keepsJoints k s n)
  exact ((hbeat _).trans (containKernel_keepsJoints k _ n)).trans (endKernel_keepsJoints k _ n _)

theorem hushLevel_keepsJoints (t l : Nat) : KeepsJoints k s (hushLevel s t l) := .of_towers rfl rfl

theorem containLevel_keepsJoints (t l : Nat) : KeepsJoints k s (containLevel s t l) := by
  unfold containLevel
  exact .ite (.refl k s) ((hushLevel_keepsJoints k s t l).trans (.foldl (containOrEnd_keepsJoints k) _ _))

/-- Levels leave service beside the shafts and the round of their tower (R39, R40). -/
theorem levelsLeave_keepsJoints (t j : Nat) : KeepsJoints k s (levelsLeave s t j) := by
  unfold levelsLeave
  extract_lets x ls rest s₁ s₂
  have hout : KeepsJoints k s s₁ := .setTow s t _ (by rintro rfl; rfl)
  have hrecord : KeepsJoints k s₁ s₂ := .ite (pitEvent_keepsJoints k s₁ _ _ _ _ _ _) (.refl k s₁)
  refine (hout.trans hrecord).trans (.foldl (fun s l => ?_) ls s₂)
  extract_lets _ s₃ s₄ _ s₅
  have hlevel : KeepsJoints k s s₃ := .setTow s t _ (by rintro rfl; rfl)
  have hleft : KeepsJoints k s s₄ := hlevel.trans (pitEvent_keepsJoints k s₃ _ _ _ _ _ _)
  have hcache : KeepsJoints k s₄ (setTow s₄ t { tow s₄ t with cacheMode := .writeback, cacheSince := s₄.pace.now }) :=
    .setTow s₄ t _ (by rintro rfl; rfl)
  have hcontain : KeepsJoints k s₄ s₅ := containLevel_keepsJoints k s₄ t l
  refine hleft.trans (.ite (.ite hcache (.refl k s₄)) (hcontain.trans ?_))
  exact .foldl (fun s i => dropFromParts_keepsJoints k s _) _ s₅

end
end Sys2Proof.Machine
end

section
/-! Shafts: frames, lanes that fail, and rounds of recalibration, each as what it does to the tower it meets; the Pace time
of the towers. -/
namespace Sys2Proof.Machine
open Sys2Proof

/-! ### A shaft replaced -/

@[simp] theorem shaft_setShaft_self (s : State) (t j sh : Nat) (x : Shaft) : shaft (setShaft s t j sh x) t j sh = x := by
  simp [shaft, setShaft]

theorem setShaft_keepsJoints {k t : Nat} (h : t ≠ k) (s : State) (j sh : Nat) (x : Shaft) : KeepsJoints k s (setShaft s t j sh x) :=
  .setTow s t _ fun e => absurd e h

/-! ### Frames (R29, R31, R36, R83) -/

theorem flipBits_nil (d : List Byte) : flipBits d [] = d := rfl

/-- The framing lanes carry the sequence number in their top byte. -/
theorem framing_div (seq : Nat) (d : List Byte) : framing seq d / 2 ^ 24 = seq % 256 := by
  have hcrc := (Config.crc16 (d ++ [BitVec.ofNat 8 seq, BitVec.ofNat 8 (laneParity d)])).isLt
  unfold framing
  omega

theorem mem_addOnce {l : List Nat} {a u : Nat} : u ∈ addOnce l a ↔ u ∈ l ∨ u = a := by
  unfold addOnce
  split
  next h => exact ⟨.inl, fun hu => hu.elim id (· ▸ List.contains_iff_mem.mp h)⟩
  next => simp

theorem mem_foldl_addOnce {u : Nat} (us l : List Nat) : u ∈ us.foldl addOnce l ↔ u ∈ l ∨ u ∈ us := by
  induction us generalizing l with
  | nil => simp
  | cons a us ih => simp [ih, mem_addOnce, or_assoc]

/-- The 32 framing bits of a frame as they arrive. -/
def Frame.wordAt (f : Frame) (flips : List Nat) : Nat := flipFraming (8 * f.data.length) (framing f.seq f.data) flips

/-- CRC and parity of a frame hold as it arrives. -/
def Frame.holds (f : Frame) (flips : List Nat) : Prop :=
  f.wordAt flips = framing (f.wordAt flips / 2 ^ 24) (flipBits f.data flips)

theorem Frame.wordAt_nil (f : Frame) : f.wordAt [] / 2 ^ 24 = f.seq % 256 := framing_div f.seq f.data

theorem Frame.holds_nil {f : Frame} (h : f.seq < 256) : f.holds [] := by
  unfold Frame.holds
  rw [Frame.wordAt_nil, Nat.mod_eq_of_lt h]
  rfl

section
variable {s : State} {t j sh : Nat} {new : Option (Nat × List Byte)} {f : Frame} {x : Shaft} {flips : List Nat} {mended : Bool}

theorem execShaftFrame_none (h : frameSent s t j sh new = none) : execShaftFrame t j sh new flips mended s = .next s := by
  unfold execShaftFrame; rw [h]

/-- A frame that holds is delivered in its place only. -/
theorem execShaftFrame_holds (h : frameSent s t j sh new = some (f, x)) (hw : f.holds flips) :
    execShaftFrame t j sh new flips mended s = .next (setShaft s t j sh
      (if f.wordAt flips / 2 ^ 24 = x.seq then
        { x with
          seq := (x.seq + 1) % 256, replay := false, buf := x.buf.filter fun g => g.seq != f.seq
          got := x.got ++ [(flipBits f.data flips, false)] }
      else x)) := by
  unfold execShaftFrame
  rw [h]
  exact congrArg Host.Outcome.next ((if_pos (beq_iff_eq.mpr hw)).trans (apply_ite (setShaft s t j sh) _ _ _).symm)

/-- A frame in error asks for a replay, where one may mend it or it was out of its place. -/
theorem execShaftFrame_replay (h : frameSent s t j sh new = some (f, x)) (hw : ¬ f.holds flips) (hm : mended = true ∨ f.seq ≠ x.seq) :
    execShaftFrame t j sh new flips mended s = .next (setShaft s t j sh { x with replay := true }) := by
  unfold execShaftFrame
  rw [h]
  have hm' : (mended || f.seq != x.seq) = true := by simpa using hm
  exact congrArg Host.Outcome.next ((if_neg (mt beq_iff_eq.mp hw)).trans (if_pos hm'))

/-- A frame that no replay can mend poisons the units of its line. -/
theorem execShaftFrame_lost (h : frameSent s t j sh new = some (f, x)) (hw : ¬ f.holds flips) (hm : ¬ (mended = true ∨ f.seq ≠ x.seq)) :
    execShaftFrame t j sh new flips mended s = .next { setShaft s t j sh
      { x with
        seq := (x.seq + 1) % 256, replay := false, buf := x.buf.filter fun g => g.seq != f.seq
        got := x.got ++ [(flipBits f.data flips, true)] } with
      poison := (unitsOf (f.line * 128) f.data.length).foldl addOnce s.poison } := by
  unfold execShaftFrame
  rw [h]
  have hm' : ¬ (mended || f.seq != x.seq) = true := by simpa using hm
  exact congrArg Host.Outcome.next ((if_neg (mt beq_iff_eq.mp hw)).trans (if_neg hm'))

end

theorem exec_shaftFrame (t j sh : Nat) (new : Option (Nat × List Byte)) (flips : List Nat) (mended : Bool) (s : State) :
    Machine.exec (.shaftFrame t j sh new flips mended) s = execShaftFrame t j sh new flips mended s := rfl

/-- A new frame of a line that the shaft takes stands last in the replay buffer. -/
theorem frameSent_new {s : State} {t j sh line : Nat} (h : takesLine s t j sh line = true) (data : List Byte) :
    frameSent s t j sh (some (line, data)) =
      let x := shaft s t j sh
      let f : Frame := { seq := x.tx, line, data := padTo (frameBytes x.mode) data }
      some (f, { x with tx := (x.tx + 1) % 256, buf := x.buf ++ [f] }) := if_pos h

/-- A new frame that arrives as it was sent, with nothing outstanding (R29). -/
theorem shaftFrame_delivers (s : State) (tw j sh line : Nat) (data : List Byte) (htakes : takesLine s tw j sh line = true)
    (hbuf : (shaft s tw j sh).buf = []) (hseq : (shaft s tw j sh).seq = (shaft s tw j sh).tx) (htx : (shaft s tw j sh).tx < 256) :
    ∃ t, Machine.exec (.shaftFrame tw j sh (some (line, data)) [] true) s = .next t
      ∧ shaft t tw j sh = { shaft s tw j sh with
          seq := ((shaft s tw j sh).tx + 1) % 256, tx := ((shaft s tw j sh).tx + 1) % 256, replay := false
          got := (shaft s tw j sh).got ++ [(padTo (frameBytes (shaft s tw j sh).mode) data, false)] }
      ∧ t = { s with towers := t.towers } := by
  refine ⟨_, (exec_shaftFrame ..).trans (execShaftFrame_holds (frameSent_new htakes data) (Frame.holds_nil htx)), ?_, rfl⟩
  rw [shaft_setShaft_self, if_pos ((Frame.wordAt_nil _).trans ((Nat.mod_eq_of_lt htx).trans hseq.symm))]
  simp [flipBits_nil, hbuf, hseq]

/-- What becomes of any frame (R29, R83). -/
theorem shaftFrame_arrives (s : State) (tw j sh : Nat) (new : Option (Nat × List Byte)) (flips : List Nat) (mended : Bool) :
    ∃ t, Machine.exec (.shaftFrame tw j sh new flips mended) s = .next t ∧ t = { s with towers := t.towers, poison := t.poison } ∧
      match frameSent s tw j sh new with
      | none => t = s
      | some (f, x) =>
        let d := flipBits f.data flips
        let w := flipFraming (8 * f.data.length) (framing f.seq f.data) flips
        if w = framing (w / 2 ^ 24) d then t.poison = s.poison ∧
          (shaft t tw j sh).got = (if w / 2 ^ 24 = x.seq then x.got ++ [(d, false)] else x.got)
        else if mended = true ∨ f.seq ≠ x.seq then t.poison = s.poison ∧ shaft t tw j sh = { x with replay := true }
        else (∀ u ∈ unitsOf (f.line * 128) f.data.length, u ∈ t.poison) ∧ (shaft t tw j sh).seq = (x.seq + 1) % 256 := by
  rw [exec_shaftFrame]
  cases h : frameSent s tw j sh new with
  | none => exact ⟨s, execShaftFrame_none h, rfl, rfl⟩
  | some fx =>
    obtain ⟨f, x⟩ := fx
    dsimp only
    split
    next hw =>
      refine ⟨_, execShaftFrame_holds h hw, rfl, rfl, ?_⟩
      rw [shaft_setShaft_self]
      exact apply_ite Shaft.got _ _ _
    next hw =>
      split
      next hm => exact ⟨_, execShaftFrame_replay h hw hm, rfl, rfl, shaft_setShaft_self ..⟩
      next hm =>
        refine ⟨_, execShaftFrame_lost h hw hm, rfl, fun u hu => (mem_foldl_addOnce _ _).mpr (.inr hu), ?_⟩
        exact congrArg Shaft.seq (shaft_setShaft_self ..)

/-! ### Lanes that fail (R34 to R40, R50) -/

/-- A shaft after one of its lanes failed: its step of Table 2.3, and its replay buffer finished where it is retired. -/
def Shaft.failLane (x : Shaft) (sh lane : Nat) : Shaft :=
  let y := { x with failed := x.failed ++ [lane] }
  let y := if x.mode = .recal then y else refit sh y
  if y.mode = .retired ∧ x.mode ≠ .retired then finishBuf y else y

theorem Shaft.failLane_failed (x : Shaft) (sh lane : Nat) : (x.failLane sh lane).failed = x.failed ++ [lane] := by
  unfold Shaft.failLane
  extract_lets y z
  have hz : z.failed = x.failed ++ [lane] := by
    unfold z; split <;> rfl
  split <;> exact hz

theorem Shaft.failLane_mode (x : Shaft) (sh lane : Nat) :
    (x.failLane sh lane).mode = if x.mode = .recal then .recal else (shaftFit sh (x.failed ++ [lane])).1 := by
  have hfinish : ∀ y : Shaft, (if y.mode = .retired ∧ x.mode ≠ .retired then finishBuf y else y).mode = y.mode := by
    intro y; split <;> rfl
  unfold Shaft.failLane
  dsimp only
  rw [hfinish]
  split
  · assumption
  · rfl

theorem laneFail_of_mem {s : State} {t j sh lane : Nat} (h : lane ∈ (shaft s t j sh).failed) : laneFail s t j sh lane = s := by
  unfold laneFail
  exact if_pos (List.contains_iff_mem.mpr h)

/-- A lane that fails leaves its tower the shaft's step, and no more of its joints: not by the levels that leave service. -/
theorem laneFail_keepsJoints {s : State} {t j sh lane : Nat} (h : lane ∉ (shaft s t j sh).failed) (k : Nat) :
    KeepsJoints k (setShaft s t j sh ((shaft s t j sh).failLane sh lane)) (laneFail s t j sh lane) := by
  unfold laneFail
  rw [if_neg (mt List.contains_iff_mem.mp h)]
  extract_lets _ _ y s₁ det0 s₂
  change KeepsJoints k s₁ _
  have hstep : KeepsJoints k s₁ s₂ := pitEvent_keepsJoints k s₁ _ _ _ _ _ _
  refine .ite (.refl k s₁) (.ite ?_ hstep)
  exact (hstep.trans (pitEvent_keepsJoints k s₂ _ _ _ _ _ _)).trans (levelsLeave_keepsJoints k _ t j)

/-- The lanes of a shaft that have failed after one more fails. -/
theorem mem_laneFail_failed {s : State} {t j sh lane l : Nat} :
    l ∈ (shaft (laneFail s t j sh lane) t j sh).failed ↔ l ∈ (shaft s t j sh).failed ∨ l = lane := by
  by_cases h : lane ∈ (shaft s t j sh).failed
  · rw [laneFail_of_mem h]
    exact ⟨.inl, fun hl => hl.elim id (· ▸ h)⟩
  · rw [(laneFail_keepsJoints h t).shaft, shaft_setShaft_self, Shaft.failLane_failed, List.mem_append, List.mem_singleton]

theorem laneFail_keepsOther {k t : Nat} (h : t ≠ k) (s : State) (j sh lane : Nat) : KeepsJoints k s (laneFail s t j sh lane) := by
  by_cases hl : lane ∈ (shaft s t j sh).failed
  · rw [laneFail_of_mem hl]; exact .refl k s
  · exact (setShaft_keepsJoints h s j sh _).trans (laneFail_keepsJoints hl k)

/-- A lane of the module fails: it waits for the training of a tower reset, or takes the shaft's step. -/
theorem laneFailure_eq {s : State} {t j sh lane : Nat} (ht : t < 4) (hj : j < 6) (hsh : sh < shaftCountOf j) (hl : lane < 71) :
    laneFailure s t j sh lane = if (tow s t).reset ≠ .none ∧ (tow s t).reset ≠ .zeroing then
      setTow s t { tow s t with late := (tow s t).late ++ [(shaftKey j sh, lane)] } else laneFail s t j sh lane := by
  unfold laneFailure
  rw [if_neg (by omega)]
  by_cases h : (tow s t).reset = .none ∨ (tow s t).reset = .zeroing
  · rw [if_pos h, if_neg (by tauto)]
  · rw [if_neg h, if_pos (not_or.mp h)]

theorem exec_laneLossOfSignal (t j sh lane : Nat) (s : State) :
    Machine.exec (.laneLossOfSignal t j sh lane) s = .next (laneFailure s t j sh lane) := rfl

theorem exec_laneErrorThreshold (t j sh lane n : Nat) (s : State) :
    Machine.exec (.laneErrorThreshold t j sh lane n) s = .next (if cfg s 0x340003 ≤ n then laneFailure s t j sh lane else s) := rfl

theorem laneLossOfSignal_steps {s : State} {tw j sh lane : Nat} (htw : tw < 4) (hj : j < 6) (hsh : sh < shaftCountOf j) (hl : lane < 71) :
    ∃ t, Machine.exec (.laneLossOfSignal tw j sh lane) s = .next t ∧
      if (tow s tw).reset ≠ .none ∧ (tow s tw).reset ≠ .zeroing then
        (tow t tw).late = (tow s tw).late ++ [(shaftKey j sh, lane)] ∧ (tow t tw).shafts = (tow s tw).shafts
      else if lane ∈ (shaft s tw j sh).failed then t = s
      else (shaft t tw j sh).failed = (shaft s tw j sh).failed ++ [lane]
        ∧ (shaft t tw j sh).mode = (if (shaft s tw j sh).mode = .recal then .recal else (shaftFit sh ((shaft s tw j sh).failed ++ [lane])).1) := by
  refine ⟨_, exec_laneLossOfSignal .., ?_⟩
  rw [laneFailure_eq htw hj hsh hl]
  split
  · rw [tow_setTow_self]; exact ⟨rfl, rfl⟩
  · split
    next hmem => exact laneFail_of_mem hmem
    next hmem =>
      rw [(laneFail_keepsJoints hmem tw).shaft, shaft_setShaft_self]
      exact ⟨Shaft.failLane_failed .., Shaft.failLane_mode ..⟩

/-! ### Rounds of recalibration (R41) -/

theorem recalTake_recal (s : State) (t i : Nat) : (tow (recalTake s t i) t).recal = some i := by
  exact congrArg Tower.recal (tow_setTow_self ..)

/-- The shaft a round takes is what it was, but out of the hash, with its replay buffer finished. -/
theorem shaft_recalTake (s : State) (t i : Nat) :
    shaft (recalTake s t i) t (roundShaft i).1 (roundShaft i).2 =
      let x := shaft s t (roundShaft i).1 (roundShaft i).2
      { finishBuf x with mode := .recal, atTake := x.failed } := by
  unfold recalTake; dsimp only
  rw [shaft, tow_setTow_self]
  exact shaft_setShaft_self s t _ _ _

/-- Taking a shaft fails no lane of any shaft, and mends none. -/
theorem recalTake_failed (s : State) (t i j sh : Nat) : (shaft (recalTake s t i) t j sh).failed = (shaft s t j sh).failed := by
  unfold recalTake shaft setShaft; dsimp only
  rw [tow_setTow_self, tow_setTow_self, mget_mset]
  split
  next h => rw [← h]; rfl
  next => rfl

/-- A round that starts takes the first shaft, or waits under a tower reset (log 120). -/
theorem recalStart_steps {s : State} {t : Nat} (h : (tow s t).recal = none) (hn : (tow s t).recalNext = none) :
    if (tow s t).reset = .none then (tow (recalStart s t) t).recal = some 0 ∧ (shaft (recalStart s t) t 0 0).mode = .recal
    else (tow (recalStart s t) t).recalNext = some 0 := by
  have hidle : ¬ ((tow s t).recal.isSome ∨ (tow s t).recalNext.isSome) := by simp [h, hn]
  unfold recalStart
  by_cases hr : (tow s t).reset = .none
  · rw [if_pos hr, if_neg hidle, if_pos hr]
    exact ⟨recalTake_recal s t 0, congrArg Shaft.mode (shaft_recalTake s t 0)⟩
  · rw [if_neg hr, if_neg hidle, if_neg hr, tow_setTow_self]

/-- What `recalStart_steps` says of a round holds of every later state with the same joints. -/
theorem recalStart_steps_kept {s t : State} {k : Nat} (h : (tow s k).recal = none) (hn : (tow s k).recalNext = none)
    (keep : KeepsJoints k (recalStart s k) t) :
    if (tow s k).reset = .none then (tow t k).recal = some 0 ∧ (shaft t k 0 0).mode = .recal else (tow t k).recalNext = some 0 := by
  rw [keep.recal, keep.recalNext, keep.shaft]
  exact recalStart_steps h hn

theorem fwRuns_clock (s : State) (now p : Nat) : fwRuns (clock s now) p = fwRuns s p := by
  unfold clock; split <;> rfl
theorem cfg_clock (s : State) (now key : Nat) : cfg (clock s now) key = cfg s key := by
  unfold clock; split <;> rfl
theorem tow_clock (s : State) (now k : Nat) : tow (clock s now) k = tow s k := by
  unfold clock; split <;> rfl
theorem shaft_clock (s : State) (now k j sh : Nat) : shaft (clock s now) k j sh = shaft s k j sh := by
  unfold shaft; rw [tow_clock]
theorem fwQueue_clock (s : State) (now : Nat) : (clock s now).fwQueue = s.fwQueue := by
  unfold clock; split <;> rfl

theorem exec_recalRoundStart {s : State} {t now : Nat} (hfw : fwRuns s (1 + t) = true) (hiv : cfg s 0x340004 ≠ 0)
    (hdue : (tow s t).recalEnd + cfg s 0x340004 * 10 ^ 9 ≤ (clock s now).pace.now) :
    Machine.exec (.recalRoundStart t now) s = .next (recalStart (clock s now) t) := by
  change execRecalRoundStart t now s = _
  unfold execRecalRoundStart; dsimp only
  rw [fwRuns_clock, cfg_clock, tow_clock, hfw, decide_eq_true hdue, if_pos (by simp [hiv])]

theorem recalRoundStart_steps {s : State} {tw now : Nat} (hfw : fwRuns s (1 + tw) = true) (hiv : cfg s 0x340004 ≠ 0)
    (h : (tow s tw).recal = none) (hn : (tow s tw).recalNext = none)
    (hdue : (tow s tw).recalEnd + cfg s 0x340004 * 10 ^ 9 ≤ (clock s now).pace.now) :
    ∃ t, Machine.exec (.recalRoundStart tw now) s = .next t ∧
      if (tow s tw).reset = .none then (tow t tw).recal = some 0 ∧ (shaft t tw 0 0).mode = .recal else (tow t tw).recalNext = some 0 := by
  have hsteps := recalStart_steps (s := clock s now) (t := tw)
  simp only [tow_clock] at hsteps
  exact ⟨_, exec_recalRoundStart hfw hiv hdue, hsteps h hn⟩

/-- An accepted write starts the round in a state with the same towers; the answer to it leaves the joints alone. -/
theorem exec_recalNow {s : State} {w : ObjWrite} (hacc : Safety.accepted s w 0x340005 = true) (htw : leNat w.val < 4)
    (hserves : serves s (1 + leNat w.val) = true) :
    ∃ s' t, Machine.exec (.recalNow w) s = .next t ∧ s'.towers = s.towers ∧ ∀ k, KeepsJoints k (recalStart s' (leNat w.val)) t := by
  change ∃ s' t, execRecalNow w s = .next t ∧ _
  unfold execRecalNow
  dsimp only
  rw [if_neg (by simp [hserves]), objWrite_accepted hacc]
  simp only [if_pos htw]
  split
  · exact ⟨s, _, rfl, rfl, fun k => .refl k _⟩
  · exact ⟨heard s w, _, rfl, by rw [heard_eq], fun k => respond_keepsJoints k _ _ _⟩

theorem recalNow_steps {s : State} {w : ObjWrite} {tw : Nat} (hacc : Safety.accepted s w 0x340005 = true) (hw : leNat w.val = tw)
    (htw : tw < 4) (hserves : serves s (1 + tw) = true) (h : (tow s tw).recal = none) (hn : (tow s tw).recalNext = none) :
    ∃ t, Machine.exec (.recalNow w) s = .next t ∧
      if (tow s tw).reset = .none then (tow t tw).recal = some 0 ∧ (shaft t tw 0 0).mode = .recal else (tow t tw).recalNext = some 0 := by
  subst hw
  obtain ⟨s', t, hexec, htowers, hkeeps⟩ := exec_recalNow hacc htw hserves
  have htow : tow s' (leNat w.val) = tow s (leNat w.val) := by unfold tow; rw [htowers]
  rw [← htow] at h hn ⊢
  exact ⟨t, hexec, recalStart_steps_kept h hn (hkeeps _)⟩

/-- The lanes of a shaft that have failed after several fail one after another. -/
theorem mem_foldl_laneFail {t j sh l : Nat} (lanes : List Nat) (s : State) :
    l ∈ (shaft (lanes.foldl (fun s n => laneFail s t j sh n) s) t j sh).failed ↔ l ∈ (shaft s t j sh).failed ∨ l ∈ lanes := by
  induction lanes generalizing s with
  | nil => simp
  | cons n lanes ih => simp [ih, mem_laneFail_failed, or_assoc]

/-- A shaft that rejoins: the lanes that had failed when it was taken or failed since, but for the healed ones (R41). -/
theorem mem_rejoin_failed {s : State} {t i l : Nat} {healed : List Nat} :
    l ∈ (shaft (rejoin s t i healed) t (roundShaft i).1 (roundShaft i).2).failed ↔
      l ∉ healed ∧ (l ∈ (shaft s t (roundShaft i).1 (roundShaft i).2).atTake ∨ l ∈ (shaft s t (roundShaft i).1 (roundShaft i).2).failed) := by
  unfold rejoin
  extract_lets k x keep old y s₁ s₂
  have hrecord : KeepsJoints t s₁ s₂ := .ite (.refl t s₁) (pitEvent_keepsJoints t s₁ _ _ _ _ _ _)
  have hback : (shaft s₂ t k.1 k.2).failed = keep x.atTake := by
    rw [hrecord.shaft, shaft_setShaft_self]; rfl
  rw [mem_foldl_laneFail, hback]
  simp only [keep, x, k, List.mem_filter, Bool.not_eq_true', List.contains_eq_mem, decide_eq_false_iff_not]
  rw [← or_and_right, or_and_left, and_iff_left (em _), and_comm]

/-- A shaft that rejoins changes the joints of its own tower alone. -/
theorem rejoin_keepsOther {k t : Nat} (h : t ≠ k) (s : State) (i : Nat) (healed : List Nat) : KeepsJoints k s (rejoin s t i healed) := by
  unfold rejoin
  extract_lets n x keep old y s₁ s₂
  have hback : KeepsJoints k s s₁ := setShaft_keepsJoints h s _ _ _
  have hrecord : KeepsJoints k s₁ s₂ := .ite (.refl k s₁) (pitEvent_keepsJoints k s₁ _ _ _ _ _ _)
  exact (hback.trans hrecord).trans (.foldl (fun s l => laneFail_keepsOther h s _ _ l) _ s₂)

theorem rejoin_fwQueue (s : State) (t i : Nat) (healed : List Nat) : (rejoin s t i healed).fwQueue = s.fwQueue :=
  (rejoin_keepsOther (Nat.succ_ne_self t).symm s i healed).queue

/-- A round that the hardware ends is its own tower's, and only one that runs (R426). -/
theorem recalAbort_keepsJoints {k : Nat} {s : State} (h : (tow s k).recal = none) (t : Nat) : KeepsJoints k s (recalAbort s t) := by
  unfold recalAbort
  split
  next i hi =>
    have ht : t ≠ k := by rintro rfl; simp [h] at hi
    extract_lets s₁ _
    have hback : KeepsJoints k s s₁ := rejoin_keepsOther ht s i []
    exact hback.trans (.setTow s₁ t _ fun e => absurd e ht)
  next => exact .refl k s

theorem endAction_keepsJoints {k : Nat} {s : State} (h : (tow s k).recal = none) (p : Nat) : KeepsJoints k s (endAction s p) := by
  unfold endAction
  refine .ite (.refl k s) (.ite (recalAbort_keepsJoints h _) (.ite (.foldl (fun s i => ?_) _ s) (.refl k s)))
  dsimp only
  exact .ite (.of_towers rfl rfl) (.of_towers rfl rfl)

/-- A restart that begins leaves alone a tower whose round does not run. -/
theorem fwBegin_joints {k : Nat} {s : State} (h : (tow s k).recal = none) (p : Nat) : joints (fwBegin s p) k = joints s k := by
  unfold fwBegin
  extract_lets s₁ _ s₂ u
  have hend : KeepsJoints k s s₁ := .ite (endAction_keepsJoints h p) (.refl k s)
  have hreset : joints s₂ k = joints s k := hend.joints
  split
  · split <;> exact hreset
  · exact hreset

theorem fwNext_joints {k : Nat} {s : State} (h : (tow s k).recal = none) : joints (fwNext s) k = joints s k := by
  unfold fwNext
  split
  · rfl
  · extract_lets next
    cases next with
    | none => rfl
    | some p =>
      dsimp only
      split
      · rfl
      · exact fwBegin_joints h p

theorem joints_setTow_self (s : State) (k : Nat) (x : Tower) : joints (setTow s k x) k = (x.shafts, x.recal, x.recalNext) := by
  unfold joints; rw [tow_setTow_self]

theorem joints_eq_iff {s : State} {k : Nat} {m : Map Shaft} {a b : Option Nat} :
    joints s k = (m, a, b) ↔ (tow s k).shafts = m ∧ (tow s k).recal = a ∧ (tow s k).recalNext = b := by
  simp [joints]

/-- A round that goes no further for now takes no shaft, also where a restart begins (R41, R426). -/
theorem joints_of_round_left {r t : State} {k : Nat} (restart : Bool) (h : (tow r k).recal = none)
    (ht : t = if restart then fwNext r else r) : joints t k = joints r k := by
  subst ht
  split
  · exact fwNext_joints h
  · rfl

/-- A shaft's recalibration that ends, while its controller runs: the shaft rejoins; then its round ends, waits for a restart,
or takes the next shaft. The restart that may begin leaves the joints alone. -/
theorem exec_shaftRecalDone {s : State} {tw i : Nat} (now : Nat) (healed : List Nat) (hfw : fwRuns s (1 + tw) = true)
    (hi : (tow s tw).recal = some i) :
    ∃ t, Machine.exec (.shaftRecalDone tw now healed) s = .next t ∧
      let r := rejoin (clock s now) tw i healed
      joints t tw =
        if 3200 ≤ i + 1 then ((tow r tw).shafts, none, none)
        else if s.fwQueue.contains (1 + tw) then ((tow r tw).shafts, none, some (i + 1))
        else joints (recalTake r tw (i + 1)) tw := by
  change ∃ t, execShaftRecalDone tw now healed s = .next t ∧ _
  have hrecal : (tow (clock s now) tw).recal = some i := by rw [tow_clock, hi]
  have hqueue : (rejoin (clock s now) tw i healed).fwQueue = s.fwQueue := by rw [rejoin_fwQueue, fwQueue_clock]
  unfold execShaftRecalDone
  dsimp only
  simp only [hrecal, fwRuns_clock, hfw, if_true, hqueue]
  generalize rejoin (clock s now) tw i healed = r at hqueue ⊢
  have hends : (roundEnds r tw).fwQueue = s.fwQueue := hqueue
  refine ⟨_, rfl, ?_⟩
  split
  next =>
    rw [hends, joints_of_round_left (s.fwQueue.contains (1 + tw)) (congrArg Tower.recal (tow_setTow_self ..)) rfl]
    exact joints_setTow_self ..
  next =>
    split
    next =>
      rw [fwNext_joints (congrArg Tower.recal (tow_setTow_self ..))]
      exact joints_setTow_self ..
    next => rfl

/-- What a round does when the recalibration of one of its shafts ends. -/
theorem shaftRecalDone_steps {s : State} {tw i : Nat} (now : Nat) (healed : List Nat) (hfw : fwRuns s (1 + tw) = true)
    (hi : (tow s tw).recal = some i) :
    ∃ t, Machine.exec (.shaftRecalDone tw now healed) s = .next t
      ∧ (tow t tw).recal = (if i + 1 < 3200 ∧ s.fwQueue.contains (1 + tw) = false then some (i + 1) else none)
      ∧ (i + 1 < 3200 → s.fwQueue.contains (1 + tw) = true → (tow t tw).recalNext = some (i + 1))
      ∧ ∀ l, l ∈ (shaft t tw (roundShaft i).1 (roundShaft i).2).failed ↔
          l ∉ healed ∧ (l ∈ (shaft s tw (roundShaft i).1 (roundShaft i).2).atTake ∨ l ∈ (shaft s tw (roundShaft i).1 (roundShaft i).2).failed) := by
  obtain ⟨t, hexec, hjoints⟩ := exec_shaftRecalDone now healed hfw hi
  refine ⟨t, hexec, ?_⟩
  have hfailed := fun l => mem_rejoin_failed (s := clock s now) (t := tw) (i := i) (l := l) (healed := healed)
  simp only [shaft_clock] at hfailed
  simp only [← hfailed]
  generalize rejoin (clock s now) tw i healed = r at hjoints
  split at hjoints
  next hlast =>
    obtain ⟨hshafts, hrecal, -⟩ := joints_eq_iff.mp hjoints
    exact ⟨by rw [hrecal, if_neg (by omega)], by omega, fun l => by rw [shaft_of_shafts hshafts]⟩
  next hlast =>
    split at hjoints
    next hwait =>
      obtain ⟨hshafts, hrecal, hnext⟩ := joints_eq_iff.mp hjoints
      exact ⟨by rw [hrecal, if_neg fun h => Bool.false_ne_true (h.2.symm.trans hwait)], fun _ _ => hnext, fun l => by rw [shaft_of_shafts hshafts]⟩
    next hwait =>
      obtain ⟨hshafts, hrecal, -⟩ := joints_eq_iff.mp hjoints
      refine ⟨?_, fun _ h => absurd h hwait, fun l => by rw [shaft_of_shafts hshafts, recalTake_failed]⟩
      rw [hrecal, recalTake_recal, if_pos ⟨by omega, Bool.not_eq_true _ ▸ hwait⟩]

/-! ### Pace time of the towers (R22) -/

theorem mfind_mdel {α : Type} (m : Map α) (k j : Nat) : mfind (mdel m k) j = if k = j then none else mfind m j := by
  induction m with
  | nil => simp [mdel, mfind]
  | cons p m ih =>
    obtain ⟨i, w⟩ := p
    unfold mdel
    split
    · simp only [ih, mfind]; split <;> simp_all
    · simp only [mfind, ih]; split <;> split <;> simp_all

/-- The comparison of one tower's Pace time: a difference above 4 ns is recorded with its time, a smaller one clears the record. -/
def noteSkew (s : State) (k : Nat) (d : Int) : State :=
  if 4 < d.natAbs then
    pitEvent { s with pace.skew := mset s.pace.skew k d, pace.skewAt := mset s.pace.skewAt k s.pace.now } 0x0601 k 0 0 (wrap 64 d)
  else { s with pace.skew := mdel s.pace.skew k, pace.skewAt := mdel s.pace.skewAt k }

theorem exec_paceTowerCompare (now : Nat) (d1 d2 d3 : Int) (s : State) :
    Machine.exec (.paceTowerCompare now d1 d2 d3) s = .next (noteSkew (noteSkew (noteSkew (clock s now) 1 d1) 2 d2) 3 d3) := rfl

/-- The Pace unit holds a difference of a tower that is above 4 ns, recorded just now, and no smaller one. -/
def SkewNoted (s : State) (k : Nat) (d : Int) : Prop :=
  mfind s.pace.skew k = (if 4 < d.natAbs then some d else none)
    ∧ mfind s.pace.skewAt k = (if 4 < d.natAbs then some s.pace.now else none)

theorem noteSkew_pace (s : State) (k : Nat) (d : Int) :
    (noteSkew s k d).pace = if 4 < d.natAbs then
      { s.pace with skew := mset s.pace.skew k d, skewAt := mset s.pace.skewAt k s.pace.now }
    else { s.pace with skew := mdel s.pace.skew k, skewAt := mdel s.pace.skewAt k } := by
  unfold noteSkew
  split
  · rw [pitEvent_eq]
  · rfl

theorem noteSkew_now (s : State) (k : Nat) (d : Int) : (noteSkew s k d).pace.now = s.pace.now := by
  rw [noteSkew_pace]; split <;> rfl

theorem skewNoted_noteSkew (s : State) (k : Nat) (d : Int) : SkewNoted (noteSkew s k d) k d := by
  unfold SkewNoted
  rw [noteSkew_now, noteSkew_pace]
  split <;> simp [mfind_mdel]

theorem SkewNoted.noteSkew {s : State} {j k : Nat} {d e : Int} (h : SkewNoted s j e) (hk : k ≠ j) : SkewNoted (noteSkew s k d) j e := by
  obtain ⟨hskew, hat⟩ := h
  unfold SkewNoted
  rw [noteSkew_now, noteSkew_pace]
  split <;> simp [mfind_mset, mfind_mdel, hk, hskew, hat]

/-- A difference noted just now is read whole (R22, log 116). -/
theorem paceAt_of_skewNoted {s : State} {k : Nat} {d : Int} (h : SkewNoted s k d) :
    (paceAt s k : Int) = if 4 < d.natAbs then max 0 (s.pace.now + d) else s.pace.now := by
  obtain ⟨hskew, hat⟩ := h
  unfold paceAt mget
  rw [hskew, hat]
  split
  next =>
    simp only [Option.getD_some, Nat.sub_self, Nat.zero_div, Nat.sub_zero]
    split <;> omega
  next => simp

theorem paceTowerCompare_notes (s : State) (now : Nat) (d1 d2 d3 : Int) :
    ∃ t, Machine.exec (.paceTowerCompare now d1 d2 d3) s = .next t ∧ t.pace.now = (clock s now).pace.now
      ∧ ∀ k d, (k, d) ∈ [(1, d1), (2, d2), (3, d3)] →
        mfind t.pace.skew k = (if 4 < d.natAbs then some d else none)
        ∧ (paceAt t k : Int) = (if 4 < d.natAbs then max 0 (t.pace.now + d) else t.pace.now) := by
  refine ⟨_, exec_paceTowerCompare .., by simp only [noteSkew_now], fun k d hkd => ?_⟩
  suffices h : SkewNoted (noteSkew (noteSkew (noteSkew (clock s now) 1 d1) 2 d2) 3 d3) k d from ⟨h.1, paceAt_of_skewNoted h⟩
  simp only [List.mem_cons, Prod.mk.injEq, List.not_mem_nil, or_false] at hkd
  obtain ⟨rfl, rfl⟩ | ⟨rfl, rfl⟩ | ⟨rfl, rfl⟩ := hkd
  · exact ((skewNoted_noteSkew _ 1 _).noteSkew (by decide)).noteSkew (by decide)
  · exact (skewNoted_noteSkew _ 2 _).noteSkew (by decide)
  · exact skewNoted_noteSkew _ 3 _

/-- Settles O6: a frame by what CRC, parity and its place make of it; a lane failure and a round by their towers' joints, which
neither the levels that leave service nor an answer to a session touches; the Pace time by the difference just noted. -/
theorem shaftFramesLanesAndRecalibration : Obligations.ShaftFramesLanesAndRecalibration := by
  unfold Obligations.ShaftFramesLanesAndRecalibration
  refine ⟨shaftFrame_delivers, shaftFrame_arrives, fun s tw j sh lane n htw hj hsh hl => ⟨laneLossOfSignal_steps htw hj hsh hl, fun h => ?_, fun h => ?_⟩,
    fun _ _ _ => recalRoundStart_steps, fun _ _ _ => recalNow_steps, fun _ _ now _ healed => shaftRecalDone_steps now healed, paceTowerCompare_notes⟩
  · exact ⟨_, by rw [exec_laneErrorThreshold, if_pos h], exec_laneLossOfSignal ..⟩
  · rw [exec_laneErrorThreshold, if_neg (by omega)]

end Sys2Proof.Machine
end

section
/-! What accesses that are served, and kernels that end or are contained, leave of the towers: everything but the lines of a
near-store cache in use and the accumulate-writes that wait; no record leaves the recorder's queue, and no session ends. -/
namespace Sys2Proof.Machine
open Sys2Proof

/-! ### Tables -/

/-- A change of a table's values entry by entry, seen at one key. -/
theorem mfind_map {α : Type} (m : Map α) {f : Nat × α → Nat × α} (hf : ∀ p, (f p).1 = p.1) (k : Nat) :
    mfind (m.map f) k = (mfind m k).map fun v => (f (k, v)).2 := by
  induction m with
  | nil => rfl
  | cons p m ih =>
    obtain ⟨j, v⟩ := p
    have hj := hf (j, v)
    rw [List.map_cons, show f (j, v) = (j, (f (j, v)).2) from Prod.ext hj rfl]
    simp only [mfind, ih]
    split
    next h => subst h; rfl
    next => rfl

/-! ### Towers kept -/

/-- A tower without what the accesses to its stores change. -/
def Tower.core (x : Tower) : Tower := { x with lines := [], plru := [], adder := [] }

/-- Between two states every tower is as it was, but for the lines and tree bits of a near-store cache in use and for
accumulate-writes that were applied; records joined the recorder's queue, and no session ended. -/
structure KeepsTowers (s t : State) : Prop where
  core : ∀ k, (tow t k).core = (tow s k).core
  lines : ∀ k, (tow s k).cacheMode ≠ .normal → (tow t k).lines = (tow s k).lines
  adder : ∀ k, (tow t k).adder ⊆ (tow s k).adder
  queue : s.pit.queue ⊆ t.pit.queue
  sessions : ∀ sid, (mfind s.sessions sid).isSome → (mfind t.sessions sid).isSome

namespace KeepsTowers
variable {s t u : State}

section
variable (h : KeepsTowers s t) (k : Nat)
include h
theorem shafts : (tow t k).shafts = (tow s k).shafts := (congrArg Tower.shafts (h.core k) :)
theorem levelsOut : (tow t k).levelsOut = (tow s k).levelsOut := (congrArg Tower.levelsOut (h.core k) :)
theorem restoring : (tow t k).restoring = (tow s k).restoring := (congrArg Tower.restoring (h.core k) :)
theorem levelReset : (tow t k).levelReset = (tow s k).levelReset := (congrArg Tower.levelReset (h.core k) :)
theorem reset : (tow t k).reset = (tow s k).reset := (congrArg Tower.reset (h.core k) :)
theorem recal : (tow t k).recal = (tow s k).recal := (congrArg Tower.recal (h.core k) :)
theorem scratchUnits : (tow t k).scratchUnits = (tow s k).scratchUnits := (congrArg Tower.scratchUnits (h.core k) :)
theorem splitTo : (tow t k).splitTo = (tow s k).splitTo := (congrArg Tower.splitTo (h.core k) :)
theorem cacheMode : (tow t k).cacheMode = (tow s k).cacheMode := (congrArg Tower.cacheMode (h.core k) :)
theorem late : (tow t k).late = (tow s k).late := (congrArg Tower.late (h.core k) :)
end

theorem refl (s : State) : KeepsTowers s s := ⟨fun _ => rfl, fun _ _ => rfl, fun _ => List.Subset.refl _, List.Subset.refl _, fun _ => id⟩

theorem trans (h : KeepsTowers s t) (g : KeepsTowers t u) : KeepsTowers s u where
  core k := (g.core k).trans (h.core k)
  lines k hk := (g.lines k (by rwa [h.cacheMode k])).trans (h.lines k hk)
  adder k := List.Subset.trans (g.adder k) (h.adder k)
  queue := List.Subset.trans h.queue g.queue
  sessions sid hs := g.sessions sid (h.sessions sid hs)

/-- A change beside the towers. -/
theorem of_towers (h : t.towers = s.towers) (q : s.pit.queue ⊆ t.pit.queue)
    (n : ∀ sid, (mfind s.sessions sid).isSome → (mfind t.sessions sid).isSome) : KeepsTowers s t := by
  have htow : ∀ k, tow t k = tow s k := fun k => by unfold tow; rw [h]
  exact ⟨fun k => by rw [htow], fun k _ => by rw [htow], fun k => by rw [htow]; exact List.Subset.refl _, q, n⟩

/-- A change of none of what is kept. -/
theorem of_same (h : t.towers = s.towers) (q : t.pit.queue = s.pit.queue) (n : t.sessions = s.sessions) : KeepsTowers s t :=
  .of_towers h (by rw [q]; exact List.Subset.refl _) fun sid hs => by rwa [n]

theorem setTow (s : State) (i : Nat) (x : Tower) (hcore : x.core = (tow s i).core)
    (hlines : (tow s i).cacheMode ≠ .normal → x.lines = (tow s i).lines) (hadder : x.adder ⊆ (tow s i).adder) :
    KeepsTowers s (setTow s i x) := by
  refine ⟨fun k => ?_, fun k hk => ?_, fun k => ?_, List.Subset.refl _, fun _ => id⟩
  · rw [tow_setTow]; split
    next h => exact h ▸ hcore
    next => rfl
  · rw [tow_setTow]; split
    next h => subst h; exact hlines hk
    next => rfl
  · rw [tow_setTow]; split
    next h => exact h ▸ hadder
    next => exact List.Subset.refl _

theorem foldl {α : Type} {f : State → α → State} (h : ∀ s x, KeepsTowers s (f s x)) (l : List α) (s : State) :
    KeepsTowers s (l.foldl f s) := by
  induction l generalizing s with
  | nil => exact refl s
  | cons x l ih => exact (h s x).trans (ih _)

/-- A fold that carries a state beside another value. -/
theorem foldl₂ {α β : Type} {f : State × β → α → State × β} (h : ∀ r x, KeepsTowers r.1 (f r x).1) (l : List α)
    (r : State × β) : KeepsTowers r.1 (l.foldl f r).1 := by
  induction l generalizing r with
  | nil => exact refl _
  | cons x l ih => exact (h r x).trans (ih _)

theorem ite {p : Prop} [Decidable p] (h : KeepsTowers s t) (g : KeepsTowers s u) : KeepsTowers s (if p then t else u) := by
  split
  · exact h
  · exact g

end KeepsTowers

section
variable (s : State)

/-! ### Records, interrupts, answers -/

theorem pitEvent_queue (a b c d e f : Nat) : s.pit.queue ⊆ (pitEvent s a b c d e f).pit.queue := by
  unfold pitEvent
  split
  · exact List.Subset.refl _
  · split
    · exact List.subset_append_left _ _
    · exact List.Subset.refl _

theorem pitEvent_keepsTowers (a b c d e f : Nat) : KeepsTowers s (pitEvent s a b c d e f) :=
  .of_towers (by rw [pitEvent_eq]) (pitEvent_queue s a b c d e f) fun _ h => by rw [pitEvent_eq]; exact h

/-- The record of an event that the recorder takes (R542). -/
theorem pitEvent_records {s : State} {trig : Nat} (h : Safety.records s trig = true) (unit status addr det0 det1 : Nat) :
    ∃ e ∈ (pitEvent s trig unit status addr det0 det1).pit.queue, e.trig = trig ∧ e.unit = unit ∧ e.addr = addr := by
  simp only [Safety.records, Bool.and_eq_true, decide_eq_true_eq] at h
  obtain ⟨henabled, hroom⟩ := h
  unfold pitEvent
  rw [if_neg (by simp [henabled]), if_pos hroom]
  exact ⟨_, List.mem_append_right _ (List.mem_singleton_self _), rfl, rfl, rfl⟩

/-- An interrupt leaves what a session has been answered (R468). -/
theorem irq_kept (n sid : Nat) : (mfind (irq s n).sessions sid).map (·.kept) = (mfind s.sessions sid).map (·.kept) := by
  unfold irq; dsimp only
  rw [mfind_map _ (fun p => by split <;> rfl), Option.map_map]
  congr 1
  funext x
  dsimp only [Function.comp]
  split <;> rfl

theorem irq_keepsTowers (n : Nat) : KeepsTowers s (irq s n) := by
  refine .of_towers rfl (List.Subset.refl _) fun sid h => ?_
  have hkept := congrArg Option.isSome (irq_kept s n sid)
  rw [Option.isSome_map, Option.isSome_map] at hkept
  rwa [hkept]

/-! ### Accesses of memory -/

theorem xorUnit_keepsTowers (base : Nat) (errs : List (Nat × Nat)) : KeepsTowers s (xorUnit s base errs) := by
  unfold xorUnit
  refine .foldl (fun s e => ?_) errs s
  split
  · exact .of_same rfl rfl rfl
  · exact .refl s

theorem uncover_keepsTowers (l : NsLine) : KeepsTowers s (uncover s l) := by
  have hmark : ∀ (s : State) (p : List Nat), KeepsTowers s { s with poison := p } := fun _ _ => .of_same rfl rfl rfl
  unfold uncover
  exact .ite (.refl s) (.foldl (fun s _ => (hmark s _).trans (xorUnit_keepsTowers _ _ _)) l.under s)

theorem nsTouch_keepsTowers (a n : Nat) (write : Bool) : KeepsTowers s (nsTouch s a n write) := by
  unfold nsTouch
  cases home s a with
  | fast j =>
    dsimp only
    split
    next h =>
      have hnormal : (tow s (j / 8)).cacheMode = .normal := by
        simp only [nsInUse, Bool.and_eq_true, beq_iff_eq] at h
        exact h.1
      refine .trans (.setTow s _ _ ?_ (fun hn => absurd hnormal hn) ?_) (.foldl uncover_keepsTowers _ _)
      · rw [nsAccess_eq]; rfl
      · rw [nsAccess_eq]; exact List.Subset.refl _
    next => exact .refl s
  | _ => exact .refl s

theorem accwLine_keepsTowers (w : AccWrite) : KeepsTowers s (accwLine s w) := by
  unfold accwLine
  extract_lets f r hit _ s'
  have hstep : ∀ r i, KeepsTowers r.1 (f r i).1 := fun r i => by
    unfold f; split
    · exact .of_same rfl rfl rfl
    · exact .refl _
  have hsum : KeepsTowers s s' := .trans (t := r.1) (.foldl₂ hstep _ (s, 0)) (.of_same rfl rfl rfl)
  exact .ite (hsum.trans (.of_same rfl rfl rfl)) hsum

theorem drainLines_keepsTowers (a n : Nat) : KeepsTowers s (drainLines s a n) := by
  unfold drainLines
  refine .foldl (fun s i => .ite (.trans (.setTow s i _ ?_ ?_ ?_) (.foldl accwLine_keepsTowers _ _)) (.refl s)) _ s
  · rfl
  · exact fun _ => rfl
  · exact List.filter_subset_self _

theorem poisonError_keepsTowers (u a : Nat) : KeepsTowers s (poisonError s u a) := by
  have hmade : ∀ m, KeepsTowers s { s with pit.poisonMade := m } := fun _ => .of_same rfl rfl rfl
  exact ((hmade _).trans (pitEvent_keepsTowers _ _ _ _ _ _ _)).trans (irq_keepsTowers _ _)

theorem poisonRead_keepsTowers (u : Nat) : KeepsTowers s (poisonRead s u) := .of_same rfl rfl rfl

theorem lineRead_keepsTowers (a n : Nat) : KeepsTowers s (lineRead s a n).1 := by
  unfold lineRead
  extract_lets s₁ bs u s₂
  have hread : KeepsTowers s s₂ := (drainLines_keepsTowers s a n).trans (nsTouch_keepsTowers s₁ a n false)
  clear_value u bs s₂
  split
  · exact hread.trans (poisonError_keepsTowers s₂ u a)
  · split
    · exact hread.trans (poisonRead_keepsTowers s₂ u)
    · exact hread

theorem memRead_keepsTowers (a n : Nat) : KeepsTowers s (memRead s a n).1 := by
  unfold memRead
  refine .foldl₂ (fun r p => ?_) _ (s, _)
  dsimp only
  exact lineRead_keepsTowers r.1 p.1 p.2

theorem writeMem_keepsTowers (a : Nat) (bs : List Byte) (tag : Bool) : KeepsTowers s (writeMem s a bs tag) := .of_same rfl rfl rfl

theorem lineWrite_keepsTowers (a : Nat) (bs : List Byte) (tag : Bool) : KeepsTowers s (lineWrite s a bs tag).1 := by
  rw [lineWrite_eq]
  refine .trans (drainLines_keepsTowers s a bs.length) ?_
  generalize drainLines s a bs.length = t
  split
  · exact pitEvent_keepsTowers t _ _ _ _ _ _
  · exact (writeMem_keepsTowers t a bs tag).trans (nsTouch_keepsTowers _ _ _ _)

theorem memWrite_keepsTowers (a : Nat) (bs : List Byte) (tag : Bool) : KeepsTowers s (memWrite s a bs tag).1 := by
  unfold memWrite
  refine .foldl₂ (fun r p => ?_) _ (s, 0)
  dsimp only
  exact lineWrite_keepsTowers r.1 p.1 _ tag

theorem memAtomic_keepsTowers (a n op : Nat) (ops : List (Nat × Nat × Bool)) : KeepsTowers s (memAtomic s a n op ops).1 := by
  unfold memAtomic
  extract_lets s₁ old pz f r s₂ s₃
  have hdrain : KeepsTowers s s₁ := drainLines_keepsTowers s a n
  have hcount : KeepsTowers s₁ s₂ := .of_same rfl rfl rfl
  have hread : KeepsTowers s₂ s₃ := .ite (poisonRead_keepsTowers s₂ _) (.refl s₂)
  split
  · exact hdrain.trans (pitEvent_keepsTowers s₁ _ _ _ _ _ _)
  · exact ((hdrain.trans hcount).trans hread).trans ((writeMem_keepsTowers s₃ _ _ _).trans (nsTouch_keepsTowers _ _ _ _))

theorem coreFault_keepsTowers (x : Xact) (poison : Bool) : KeepsTowers s (coreFault s x poison) :=
  .ite (.of_same rfl rfl rfl) (.refl s)

theorem complete_keepsTowers (tag status : Nat) (data : List Byte) (poison : Bool) : KeepsTowers s (complete s tag status data poison) :=
  .of_same rfl rfl rfl

/-- A transaction of any kind, performed at its target. -/
theorem perform_keepsTowers (x : Xact) (answer : Bool) : KeepsTowers s (perform s x answer) := by
  unfold perform
  have hquiet : ∀ r, KeepsTowers s r → KeepsTowers s (if answer then r else { r with completions := s.completions, cores := s.cores }) :=
    fun r hr => .ite hr (hr.trans (.of_same rfl rfl rfl))
  refine hquiet _ ?_
  cases x.kind with
  | load => exact (memRead_keepsTowers s _ _).trans ((complete_keepsTowers _ _ _ _ _).trans (coreFault_keepsTowers _ _ _))
  | fetch => exact (memRead_keepsTowers s _ _).trans (complete_keepsTowers _ _ _ _ _)
  | store => exact (memWrite_keepsTowers s _ _ _).trans (complete_keepsTowers _ _ _ _ _)
  | flagStore => exact (memWrite_keepsTowers s _ _ _).trans (complete_keepsTowers _ _ _ _ _)
  | atom op ret => exact (memAtomic_keepsTowers s _ _ _ _).trans (complete_keepsTowers _ _ _ _ _)

theorem performOrWait_keepsTowers (w : Waiting) : KeepsTowers s (performOrWait s w) := by
  unfold performOrWait
  cases home s w.x.addr with
  | fast k => exact .ite (.of_same rfl rfl rfl) (perform_keepsTowers s _ _)
  | _ => exact perform_keepsTowers s _ _

theorem post_keepsTowers (iss : Issuer) (a : Nat) (bs : List Byte) (tag : Bool) : KeepsTowers s (post s iss a bs tag) := by
  unfold post
  exact .foldl (fun s _ => .ite (.refl s) (performOrWait_keepsTowers s _)) _ s

theorem releaseStack_keepsTowers (k : Nat) : KeepsTowers s (releaseStack s k) := by
  have hempty : ∀ x, KeepsTowers s (setStk s k x) := fun _ => .of_same rfl rfl rfl
  exact (hempty _).trans (.foldl performOrWait_keepsTowers _ _)

theorem releaseTower_keepsTowers (k : Nat) : KeepsTowers s (releaseTower s k) :=
  .foldl (fun s i => releaseStack_keepsTowers s (8 * k + i)) _ s

theorem lose_keepsTowers (x : Xact) (here : Bool) : KeepsTowers s (lose s x here) := by
  unfold lose
  extract_lets r
  have hdraw : KeepsTowers s r.2 := .of_same rfl rfl rfl
  exact (hdraw.trans (.ite (perform_keepsTowers r.2 x false) (.refl r.2))).trans (complete_keepsTowers _ _ _ _ _)

theorem loseTower_keepsTowers (k : Nat) : KeepsTowers s (loseTower s k) := by
  unfold loseTower
  extract_lets mine away near s₁
  have hgone : KeepsTowers s s₁ := .of_same rfl rfl rfl
  exact (hgone.trans (.foldl (fun s x => lose_keepsTowers s x false) away s₁)).trans (.foldl (fun s x => lose_keepsTowers s x true) near _)

theorem trace_keepsTowers (t point w2 w3 : Nat) : KeepsTowers s (trace s t point w2 w3) := by
  unfold trace
  extract_lets base quarter r s' i rec4 s''
  have hdrawn : KeepsTowers s s' := by
    obtain ⟨f, hf⟩ := traceBusy_eq s t
    unfold s' r; rw [hf]; exact .of_same rfl rfl rfl
  have hrecord : KeepsTowers s' s'' := post_keepsTowers s' _ _ _ _
  refine .ite (.ite ?_ ?_) (.refl s)
  · exact hdrawn.trans (.of_same rfl rfl rfl)
  · exact (hdrawn.trans hrecord).trans (.of_same rfl rfl rfl)

/-! ### Answers to sessions -/

theorem localPut_keepsTowers (j : Nat) (r : Response) : KeepsTowers s (localPut s j r) := by
  have hread : ∀ (s : State) (m : Map Nat), KeepsTowers s { s with localChan.reads := m } := fun _ _ => .of_same rfl rfl rfl
  exact ((post_keepsTowers s _ _ _ _).trans (hread _ _)).trans (irq_keepsTowers _ _)

/-- A session's table with an entry replaced lists no session less. -/
theorem setSession_keepsTowers (sid : Nat) (x : Session) : KeepsTowers s { s with sessions := mset s.sessions sid x } := by
  refine .of_towers rfl (List.Subset.refl _) fun j h => ?_
  rw [mfind_mset]
  split
  · rfl
  · exact h

theorem respond_keepsTowers (sid : Nat) (r : Response) : KeepsTowers s (respond s sid r) := by
  unfold respond
  split
  · exact .refl s
  · extract_lets x s'
    have hkept : KeepsTowers s s' := setSession_keepsTowers s sid x
    split
    · exact hkept.trans (localPut_keepsTowers s' _ r)
    · exact hkept

/-- The answer in a local session's ring leaves what the sessions have been answered. -/
theorem localPut_kept (j : Nat) (r : Response) (sid : Nat) :
    (mfind (localPut s j r).sessions sid).map (·.kept) = (mfind s.sessions sid).map (·.kept) := by
  unfold localPut
  extract_lets slot s'
  have hpost : s'.sessions = s.sessions := by
    have hstores := (storesOnly_post s { kind := .camlis, unit := 0 } (ringPair s j + 0x4000 + slot * 0x800) r.bytes false).eq
    rw [show s' = post s _ _ r.bytes false from rfl, hstores]
  rw [irq_kept]
  exact congrArg (fun m => (mfind m sid).map Session.kept) hpost

/-- A session is answered last what it is answered now (R466). -/
theorem lastStatus_respond {s : State} {sid : Nat} (h : (mfind s.sessions sid).isSome) (r : Response) :
    Safety.lastStatus (respond s sid r) sid = some r.status := by
  obtain ⟨x, hx⟩ := Option.isSome_iff_exists.mp h
  suffices hkept : (mfind (respond s sid r).sessions sid).map (·.kept) = some ((x.kept ++ [r]).drop (x.kept.length + 1 - 8)) by
    obtain ⟨y, hy, hkept⟩ := Option.map_eq_some_iff.mp hkept
    rw [Safety.lastStatus, hy, Option.bind_some, hkept, List.getLast?_drop, if_neg (by simp), List.getLast?_concat]
    rfl
  unfold respond
  rw [hx]
  dsimp only
  split
  · rw [localPut_kept, mfind_mset_self]; rfl
  · rw [mfind_mset_self]; rfl

theorem heard_keepsTowers (w : ObjWrite) : KeepsTowers s (heard s w) := by
  unfold heard
  refine .ite (.refl s) ?_
  split
  · exact setSession_keepsTowers s _ _
  · exact .refl s

theorem tow_heard (w : ObjWrite) (k : Nat) : tow (heard s w) k = tow s k := by rw [heard_eq]; rfl

/-- An accepted write is its effect on the state that has heard from the session, but for what an answer or a rejection
leaves; a session that is still there is answered the status of the effect. -/
theorem objWrite_steps {s : State} {w : ObjWrite} {key : Nat} (h : Safety.accepted s w key = true) (addr : Nat) (eff : State → Nat × State) :
    KeepsTowers (eff (heard s w)).2 (objWrite s w key addr eff)
      ∧ (w.reg = false → (∀ sid, (mfind (heard s w).sessions sid).isSome → (mfind (eff (heard s w)).2.sessions sid).isSome) →
        Safety.lastStatus (objWrite s w key addr eff) w.sid = some (eff (heard s w)).1) := by
  rw [objWrite_accepted h]
  cases hreg : w.reg with
  | true =>
    have hself : heard s w = s := if_pos hreg
    have hcount : ∀ s : State, KeepsTowers s { s with regRejects := s.regRejects + 1 } := fun _ => .of_same rfl rfl rfl
    rw [hself]
    refine ⟨?_, nofun⟩
    rw [if_pos rfl]
    exact .ite (.refl _) ((hcount _).trans (pitEvent_keepsTowers _ _ _ _ _ _ _))
  | false =>
    have hthere : (mfind s.sessions w.sid).isSome := by
      simp only [Safety.accepted, hreg, Bool.false_or] at h
      cases hm : mfind s.sessions w.sid with
      | none => simp [hm] at h
      | some x => rfl
    exact ⟨respond_keepsTowers _ _ _, fun _ hkeeps => lastStatus_respond (hkeeps _ ((heard_keepsTowers s w).sessions _ hthere)) _⟩

/-! ### Kernels that are contained or end -/

theorem dropFromParts_keepsTowers (c : Nat) : KeepsTowers s (dropFromParts s c) := by
  unfold dropFromParts
  refine .foldl (fun s p => ?_) _ s
  extract_lets key clear s'
  have hshadow : KeepsTowers s s' := .ite (.of_same rfl rfl rfl) (.refl s)
  exact .ite (hshadow.trans (.of_same rfl rfl rfl)) hshadow

theorem boundary_keepsTowers (c : Nat) : KeepsTowers s (boundary s c) := by
  unfold boundary
  extract_lets x y s' s''
  have hclu : KeepsTowers s s' := .of_same rfl rfl rfl
  have hdrop : KeepsTowers s s'' := hclu.trans (dropFromParts_keepsTowers s' c)
  exact .ite (.ite (hdrop.trans (.of_same rfl rfl rfl)) hdrop) hclu

theorem stopKernelOn_keepsTowers (c n : Nat) : KeepsTowers s (stopKernelOn s c n) := .of_same rfl rfl rfl

theorem releaseCluster_keepsTowers (c n : Nat) : KeepsTowers s (releaseCluster s c n) := by
  unfold releaseCluster
  extract_lets s' x ks s''
  have hclear : KeepsTowers s s' := .of_same rfl rfl rfl
  have hfree : KeepsTowers s' s'' := .of_same rfl rfl rfl
  exact (hclear.trans hfree).trans (boundary_keepsTowers s'' c)

theorem containKernel_keepsTowers (n : Nat) : KeepsTowers s (containKernel s n) := by
  unfold containKernel
  extract_lets x s' _ s''
  have hstop : KeepsTowers s s' := .foldl (fun s c => stopKernelOn_keepsTowers s c n) x.clusters s
  have hmark : ∀ m, KeepsTowers s' { s'' with pit.contained := m } := fun _ => .of_same rfl rfl rfl
  exact .ite (.refl s) ((hstop.trans (hmark _)).trans (irq_keepsTowers _ _))

theorem completeCmd_keepsTowers (q index : Nat) : KeepsTowers s (completeCmd s q index) := by
  unfold completeCmd
  extract_lets x s'
  have hlist : KeepsTowers s s' := .of_same rfl rfl rfl
  split
  · exact .refl s
  · exact .ite (hlist.trans (irq_keepsTowers s' q)) hlist

theorem endKernel_keepsTowers (n status : Nat) : KeepsTowers s (endKernel s n status) := by
  unfold endKernel
  extract_lets x s₁ s₂ _ s₃ s₄ _ s₅ s₆ s₇
  have hrecord : KeepsTowers s s₁ := post_keepsTowers s _ _ _ _
  have hfree : KeepsTowers s₁ s₂ := .foldl (fun s c => releaseCluster_keepsTowers s c n) x.clusters s₁
  have hended : KeepsTowers s₂ s₃ := .of_same rfl rfl rfl
  have htrace : KeepsTowers s₃ s₄ := trace_keepsTowers s₃ _ _ _ _
  have hbeat : KeepsTowers s₄ s₅ := .ite (.refl s₄) (.of_same rfl rfl rfl)
  have hcmd : KeepsTowers s₅ s₆ := completeCmd_keepsTowers s₅ _ _
  have hirq : KeepsTowers s₆ s₇ := .ite (.refl s₆) (irq_keepsTowers s₆ _)
  have hall : KeepsTowers s s₇ := hrecord.trans hfree |>.trans hended |>.trans htrace |>.trans hbeat |>.trans hcmd |>.trans hirq
  exact .ite (hall.trans (pitEvent_keepsTowers s₇ _ _ _ _ _ _)) hall

theorem containOrEnd_keepsTowers (n : Nat) : KeepsTowers s (containOrEnd s n) := by
  have hbeat : ∀ l, KeepsTowers s { s with beat.frozen := l } := fun _ => .of_same rfl rfl rfl
  unfold containOrEnd
  extract_lets x
  refine .ite ?_ (containKernel_keepsTowers s n)
  exact ((hbeat _).trans (containKernel_keepsTowers _ n)).trans (endKernel_keepsTowers _ n _)

theorem containLevel_keepsTowers (t l : Nat) : KeepsTowers s (containLevel s t l) := by
  have hhush : KeepsTowers s (hushLevel s t l) := .of_same rfl rfl rfl
  exact .ite (.refl s) (hhush.trans (.foldl containOrEnd_keepsTowers _ _))

end
end Sys2Proof.Machine
end

section
/-! Level resets and the restoring of levels (R42 to R50), each event as what it does to the tower it meets. -/
namespace Sys2Proof.Machine
open Sys2Proof

/-! ### A level reset is accepted (Table 2.9) -/

/-- No reset of level `l` of tower `k` runs, of the level or of the tower (R50). -/
def ResetFree (s : State) (k l : Nat) : Prop := (tow s k).reset = .none ∧ mget (tow s k).levelReset l .none = .none

/-- The tower when a reset of its level `l` is accepted: L1's cache in use is held. -/
def Tower.acceptReset (x : Tower) (l : Nat) : Tower :=
  { x with
    levelReset := mset x.levelReset l .accepted
    cacheMode := if l = 1 ∧ x.cacheMode = .normal then .held else x.cacheMode }

section
variable {s : State} {k l : Nat}

theorem levelResetStart_merged (h : ¬ ResetFree s k l) : levelResetStart s k l = s :=
  if_pos (by unfold ResetFree at h; tauto)

theorem levelResetStart_eq (h : ResetFree s k l) :
    levelResetStart s k l =
      containLevel (pitEvent (setTow s k ((tow s k).acceptReset l)) 0x0104 k 0 l (levelsInService (setTow s k ((tow s k).acceptReset l)))) k l :=
  if_neg (by unfold ResetFree at h; tauto)

/-- A reset that is accepted leaves the towers what its acceptance leaves them. -/
theorem levelResetStart_keepsTowers (h : ResetFree s k l) : KeepsTowers (setTow s k ((tow s k).acceptReset l)) (levelResetStart s k l) := by
  rw [levelResetStart_eq h]
  exact (pitEvent_keepsTowers _ _ _ _ _ _ _).trans (containLevel_keepsTowers _ k l)

theorem levelResetStart_records (h : ResetFree s k l) (hrec : Safety.records s 0x0104 = true) :
    ∃ e ∈ (levelResetStart s k l).pit.queue, e.trig = 0x0104 ∧ e.unit = k ∧ e.addr = l := by
  rw [levelResetStart_eq h]
  obtain ⟨e, he, hfields⟩ := pitEvent_records (s := setTow s k ((tow s k).acceptReset l)) hrec k 0 l _ 0
  exact ⟨e, (containLevel_keepsTowers _ k l).queue he, hfields⟩

/-- What any level reset leaves of its tower, accepted or merged. -/
theorem levelResetStart_tower (s : State) (k l : Nat) :
    let x := tow (levelResetStart s k l) k
    x.levelsOut = (tow s k).levelsOut ∧ x.restoring = (tow s k).restoring ∧ x.reset = (tow s k).reset := by
  by_cases h : ResetFree s k l
  · have hk := levelResetStart_keepsTowers h
    exact ⟨by rw [hk.levelsOut, tow_setTow_self]; rfl, by rw [hk.restoring, tow_setTow_self]; rfl, by rw [hk.reset, tow_setTow_self]; rfl⟩
  · rw [levelResetStart_merged h]; exact ⟨rfl, rfl, rfl⟩

theorem levelResetStart_sessions (s : State) (k l sid : Nat) (h : (mfind s.sessions sid).isSome) :
    (mfind (levelResetStart s k l).sessions sid).isSome := by
  by_cases hf : ResetFree s k l
  · exact (levelResetStart_keepsTowers hf).sessions sid h
  · rwa [levelResetStart_merged hf]

/-- The stage of each level after a reset of level `l`, of a tower under no reset itself. -/
theorem levelResetStart_stage (h : (tow s k).reset = .none) (j : Nat) :
    mget (tow (levelResetStart s k l) k).levelReset j .none =
      if j = l ∧ mget (tow s k).levelReset j .none = .none then .accepted else mget (tow s k).levelReset j .none := by
  by_cases hl : mget (tow s k).levelReset l .none = .none
  · rw [(levelResetStart_keepsTowers ⟨h, hl⟩).levelReset, tow_setTow_self]
    unfold Tower.acceptReset
    rw [mget_mset]
    by_cases hj : j = l
    · subst hj; rw [if_pos rfl, if_pos ⟨rfl, hl⟩]
    · rw [if_neg (Ne.symm hj), if_neg (fun c => hj c.1)]
  · rw [levelResetStart_merged (fun hf => hl hf.2), if_neg]
    rintro ⟨rfl, hj⟩
    exact hl hj

end

theorem exec_levelReset {s : State} {w : ObjWrite} {k l : Nat} (hv : leNat w.val = 4 * k + l) (hl : l ≤ 3) :
    Machine.exec (.levelReset w) s =
      .next (objWrite s w 0x340007 0 fun s => if leNat w.val % 4 = 0 ∨ 16 ≤ leNat w.val then (0x42, s) else (0, levelResetStart s k l)) := by
  change execLevelReset w s = _
  unfold execLevelReset
  dsimp only
  rw [show leNat w.val / 4 = k by omega, show leNat w.val % 4 = l by omega]

/-- `LEVEL_RESET`, accepted or merged (R45, R50). -/
theorem levelReset_steps {s : State} {w : ObjWrite} {tw l : Nat} (hacc : Safety.accepted s w 0x340007 = true) (hv : leNat w.val = 4 * tw + l)
    (hl : 1 ≤ l) (hl' : l ≤ 3) (htw : tw < 4) :
    ∃ t, Machine.exec (.levelReset w) s = .next t ∧ (tow t tw).levelsOut = (tow s tw).levelsOut ∧ (tow t tw).restoring = (tow s tw).restoring ∧
      if (tow s tw).reset = .none ∧ mget (tow s tw).levelReset l .none = .none then
        mget (tow t tw).levelReset l .none = .accepted
        ∧ (l = 1 → (tow t tw).cacheMode ≠ .normal)
        ∧ (Safety.records s 0x0104 = true → ∃ e ∈ t.pit.queue, e.trig = 0x0104 ∧ e.unit = tw ∧ e.addr = l)
      else (tow t tw).levelReset = (tow s tw).levelReset ∧ (tow t tw).reset = (tow s tw).reset := by
  have hsteps := (objWrite_steps hacc 0 fun s => if leNat w.val % 4 = 0 ∨ 16 ≤ leNat w.val then (0x42, s) else (0, levelResetStart s tw l)).1
  rw [if_neg (by omega)] at hsteps
  have htow := tow_heard s w tw
  have hrecords : Safety.records (heard s w) 0x0104 = Safety.records s 0x0104 := by rw [heard_eq]; rfl
  refine ⟨_, exec_levelReset hv hl', ?_⟩
  generalize objWrite s w 0x340007 0 _ = t at hsteps ⊢
  obtain ⟨hout, hrestoring, hreset⟩ := levelResetStart_tower (heard s w) tw l
  rw [← htow, ← hrecords]
  refine ⟨(hsteps.levelsOut tw).trans hout, (hsteps.restoring tw).trans hrestoring, ?_⟩
  split
  next h =>
    refine ⟨?_, fun h1 => ?_, fun hrec => ?_⟩
    · rw [hsteps.levelReset, levelResetStart_stage h.1, if_pos ⟨rfl, h.2⟩]
    · rw [hsteps.cacheMode, (levelResetStart_keepsTowers h).cacheMode, tow_setTow_self]
      unfold Tower.acceptReset
      split
      · exact CacheMode.noConfusion
      next hn => exact fun hc => hn ⟨h1, hc⟩
    · obtain ⟨e, he, hfields⟩ := levelResetStart_records h hrec
      exact ⟨e, hsteps.queue he, hfields⟩
  next h =>
    rw [levelResetStart_merged h] at hsteps
    exact ⟨hsteps.levelReset tw, hsteps.reset tw⟩

/-! ### Drained and released (R45, R47) -/

theorem exec_levelResetDrainDone {s : State} {k l : Nat} (h : mget (tow s k).levelReset l .none = .accepted) :
    Machine.exec (.levelResetDrainDone k l) s =
      let s' := if l = 1 then setTow ((tow s k).adder.foldl accwLine s) k { tow s k with adder := [] } else s
      .next (setTow s' k { tow s' k with levelReset := mset (tow s' k).levelReset l .held }) :=
  congrArg Host.Outcome.next (if_pos h)

theorem levelResetDrainDone_steps {s : State} {tw l : Nat} (h : mget (tow s tw).levelReset l .none = .accepted) :
    ∃ t, Machine.exec (.levelResetDrainDone tw l) s = .next t ∧ mget (tow t tw).levelReset l .none = .held
      ∧ (tow t tw).adder = (if l = 1 then [] else (tow s tw).adder)
      ∧ t.mem = (if l = 1 then ((tow s tw).adder.foldl accwLine s).mem else s.mem) := by
  refine ⟨_, exec_levelResetDrainDone h, by rw [tow_setTow_self, mget_mset_self], ?_, ?_⟩
  · rw [tow_setTow_self]; split <;> simp
  · split <;> rfl

/-- A cluster after the reset of its level: what counts since module reset stays (Table 2.9). -/
def Cluster.afterReset (x : Cluster) : Cluster :=
  { kernels := x.kernels
    mode := if x.mode = .retired then .retired else .idle
    cap := x.cap
    accSat := x.accSat
    accOutOor := x.accOutOor
    accIxDrop := x.accIxDrop
    mxaBusy := x.mxaBusy
    mxaDummy := x.mxaDummy
    mxaIxOor := x.mxaIxOor
    wgbSat := x.wgbSat
    slmReplays := x.slmReplays
    acqFlushes := x.acqFlushes
    rangeLines := x.rangeLines }

theorem Cluster.afterReset_afterReset (x : Cluster) : x.afterReset.afterReset = x.afterReset := by
  unfold Cluster.afterReset
  congr 1
  by_cases h : x.mode = .retired <;> simp [h]

theorem clu_foldl_resetCluster (cs : List Nat) (s : State) (d : Nat) :
    clu (cs.foldl resetCluster s) d = if d ∈ cs then (clu s d).afterReset else clu s d := by
  induction cs generalizing s with
  | nil => simp
  | cons c cs ih =>
    have hone : clu (resetCluster s c) d = if c = d then (clu s c).afterReset else clu s d := clu_setClu ..
    rw [List.foldl_cons, ih, hone]
    by_cases hc : c = d
    · subst hc; simp [Cluster.afterReset_afterReset]
    · simp [hc, Ne.symm hc]

/-- A byte of shared local memory of a cluster that was reset is zero; every other byte is as before. -/
theorem cellGet_foldl_resetCluster (cs : List Nat) (s : State) (a : Nat) :
    cellGet (cs.foldl resetCluster s).mem a =
      if ∃ c ∈ cs, slmBase + c * 0x01000000 ≤ a ∧ a < slmBase + c * 0x01000000 + 0x100000 then 0#8 else cellGet s.mem a := by
  induction cs generalizing s with
  | nil => simp
  | cons c cs ih =>
    have hone : (resetCluster s c).mem = cellsZero s.mem (slmBase + c * 0x01000000) (slmBase + c * 0x01000000 + 0x100000) := rfl
    rw [List.foldl_cons, ih, hone, cellGet_cellsZero]
    simp only [List.exists_mem_cons_iff]
    split
    next h => rw [if_pos (.inr h)]
    next h => simp only [h, or_false]

theorem towers_foldl_resetCluster (cs : List Nat) (s : State) : (cs.foldl resetCluster s).towers = s.towers := by
  induction cs generalizing s with
  | nil => rfl
  | cons c cs ih => exact ih _

/-- The clusters of level `l` of tower `k`. -/
def levelClusters (k l : Nat) : List Nat := (List.range 16).map fun i => 32 * k + 16 * (l - 2) + i

theorem mem_levelClusters {k l c : Nat} : c ∈ levelClusters k l ↔ ∃ i < 16, 32 * k + 16 * (l - 2) + i = c := by
  simp [levelClusters]

theorem resetLevelClusters_eq (s : State) (k l : Nat) : resetLevelClusters s k l = (levelClusters k l).foldl resetCluster s := by
  unfold levelClusters; rw [List.foldl_map]; rfl

theorem tow_resetLevelClusters (s : State) (k l j : Nat) : tow (resetLevelClusters s k l) j = tow s j := by
  unfold tow; rw [resetLevelClusters_eq, towers_foldl_resetCluster]

theorem clu_resetLevelClusters (s : State) (k l d : Nat) :
    clu (resetLevelClusters s k l) d = if d ∈ levelClusters k l then (clu s d).afterReset else clu s d := by
  rw [resetLevelClusters_eq, clu_foldl_resetCluster]

theorem readMem_one (s : State) (a : Nat) : readMem s a 1 = [cellGet s.mem a] := rfl

/-- A zero byte stays zero when clusters are reset. -/
theorem readMem_resetLevelClusters_zero {s : State} {a : Nat} (h : readMem s a 1 = [0#8]) (k l : Nat) :
    readMem (resetLevelClusters s k l) a 1 = [0#8] := by
  rw [readMem_one, List.cons.injEq] at h
  rw [readMem_one, resetLevelClusters_eq, cellGet_foldl_resetCluster, h.1, ite_self]

/-- Shared local memory of a cluster that was reset is zero (Table 2.9). -/
theorem readMem_resetLevelClusters {s : State} {k l c a : Nat} (hc : c ∈ levelClusters k l) (hlo : slmBase + c * 0x01000000 ≤ a)
    (hhi : a < slmBase + c * 0x01000000 + 0x100000) : readMem (resetLevelClusters s k l) a 1 = [0#8] := by
  rw [readMem_one, resetLevelClusters_eq, cellGet_foldl_resetCluster, if_pos ⟨c, hc, hlo, hhi⟩]

theorem exec_levelResetRelease {s : State} {k l : Nat} (h : mget (tow s k).levelReset l .none = .held) :
    Machine.exec (.levelResetRelease k l) s =
      let s' := setTow s k { tow s k with levelReset := mset (tow s k).levelReset l .released }
      .next (if 2 ≤ l then resetLevelClusters s' k l else s') :=
  congrArg Host.Outcome.next (if_pos h)

theorem levelResetRelease_steps {s : State} {tw l : Nat} (h : mget (tow s tw).levelReset l .none = .held) :
    ∃ t, Machine.exec (.levelResetRelease tw l) s = .next t ∧ mget (tow t tw).levelReset l .none = .released
      ∧ (l < 2 → t.mem = s.mem ∧ t.clusters = s.clusters)
      ∧ (2 ≤ l → ∀ i, i < 16 → let c := 32 * tw + 16 * (l - 2) + i
          (clu t c).crews = [] ∧ (clu t c).acc = [] ∧ (clu t c).entries = [] ∧ (clu t c).l1 = [] ∧ (clu t c).accSat = (clu s c).accSat
          ∧ (clu t c).mode = (if (clu s c).mode = .retired then .retired else .idle)
          ∧ ∀ a, slmBase + c * 0x01000000 ≤ a → a < slmBase + c * 0x01000000 + 0x100000 → readMem t a 1 = [0#8]) := by
  refine ⟨_, exec_levelResetRelease h, ?_⟩
  by_cases hl : 2 ≤ l
  · dsimp only
    rw [if_pos hl]
    refine ⟨by rw [tow_resetLevelClusters, tow_setTow_self, mget_mset_self], by omega, fun _ i hi => ?_⟩
    have hmem : 32 * tw + 16 * (l - 2) + i ∈ levelClusters tw l := mem_levelClusters.mpr ⟨i, hi, rfl⟩
    simp only [clu_resetLevelClusters, if_pos hmem]
    exact ⟨rfl, rfl, rfl, rfl, rfl, rfl, fun a => readMem_resetLevelClusters hmem⟩
  · dsimp only
    rw [if_neg hl]
    exact ⟨by rw [tow_setTow_self, mget_mset_self], fun _ => ⟨rfl, rfl⟩, fun hl' => absurd hl' hl⟩

/-! ### Ready (R42, R43, R47) -/

/-- The tower when its level `l` is ready: a level that was being restored is back in service. -/
def Tower.levelBack (x : Tower) (l : Nat) : Tower :=
  let back := x.restoring.contains l
  let outs := if back then x.levelsOut.filter (· != l) else x.levelsOut
  { x with
    levelReset := mdel x.levelReset l
    levelsOut := outs
    restoring := x.restoring.filter (· != l)
    oos := x.oos.filter fun j => (List.range 4).any fun k => decide (levelAbove j ≤ k) && outs.contains k
    plru := if l = 1 then [] else x.plru
    cacheMode := if l = 1 then cacheAfterReset x back else x.cacheMode }

theorem xorUnit_eq (base : Nat) (errs : List (Nat × Nat)) (s : State) : ∃ m, xorUnit s base errs = { s with mem := m } := by
  unfold xorUnit
  induction errs generalizing s with
  | nil => exact ⟨_, rfl⟩
  | cons e errs ih =>
    rw [List.foldl_cons]
    split
    · exact ih _
    · exact ih s

theorem uncover_eq (s : State) (l : NsLine) : ∃ m p, uncover s l = { s with mem := m, poison := p } := by
  unfold uncover
  split
  · exact ⟨_, _, rfl⟩
  · induction l.under generalizing s with
    | nil => exact ⟨_, _, rfl⟩
    | cons e under ih =>
      obtain ⟨m, hm⟩ := xorUnit_eq ((l.line * 2 + e.1) * 64) [e.2] { s with poison := addOnce s.poison (l.line * 2 + e.1) }
      rw [List.foldl_cons, hm]
      exact ih _

/-- Lines that are dirty, or under which a patrol found nothing, leave the cache with no effect on memory. -/
theorem uncover_of_sound {l : NsLine} (h : l.dirty = true ∨ l.under = []) (s : State) : uncover s l = s := by
  unfold uncover
  obtain hd | hu := h
  · rw [if_pos hd]
  · rw [hu]; exact ite_self _

theorem foldl_uncover_eq (ls : List NsLine) (s : State) : ∃ m p, ls.foldl uncover s = { s with mem := m, poison := p } := by
  induction ls generalizing s with
  | nil => exact ⟨_, _, rfl⟩
  | cons l ls ih =>
    obtain ⟨m, p, h⟩ := uncover_eq s l
    rw [List.foldl_cons, h]
    exact ih _

/-- A tower whose near-store cache holds no line. -/
def Tower.emptied (x : Tower) : Tower := { x with lines := [], plru := [] }

theorem emptyCache_eq (s : State) (k : Nat) : ∃ m p, emptyCache s k = { setTow s k (tow s k).emptied with mem := m, poison := p } :=
  foldl_uncover_eq _ _

theorem tow_emptyCache (s : State) (k : Nat) : tow (emptyCache s k) k = (tow s k).emptied := by
  obtain ⟨m, p, h⟩ := emptyCache_eq s k
  rw [h]
  exact tow_setTow_self ..

theorem emptyCache_mem {s : State} {k : Nat} (h : ∀ l ∈ (tow s k).lines, l.dirty = true ∨ l.under = []) : (emptyCache s k).mem = s.mem :=
  List.foldlRecOn (motive := fun t => t.mem = s.mem) _ uncover (b := setTow s k (tow s k).emptied) rfl
    fun t ht l hl => by rw [uncover_of_sound (h l hl), ht]

/-- The tower's state when its level `l` is ready, before the notice: L1 back in service has an empty cache, and what waited
for L1's cache goes on. -/
def readied (s : State) (k l : Nat) : State :=
  let s' := setTow s k ((tow s k).levelBack l)
  let s'' := if l = 1 ∧ (tow s k).restoring.contains l then emptyCache s' k else s'
  if l = 1 then releaseTower s'' k else s''

theorem readied_of_ne {l : Nat} (h : l ≠ 1) (s : State) (k : Nat) : readied s k l = setTow s k ((tow s k).levelBack l) := by
  unfold readied
  simp [h]

theorem readied_core (s : State) (k l : Nat) : (tow (readied s k l) k).core = ((tow s k).levelBack l).core := by
  unfold readied
  extract_lets s' s''
  have hback : (tow s' k).core = ((tow s k).levelBack l).core := by rw [tow_setTow_self]
  have hempty : (tow s'' k).core = ((tow s k).levelBack l).core := by
    unfold s''; split
    · exact (congrArg Tower.core (tow_emptyCache s' k)).trans hback
    · exact hback
  split
  · exact ((releaseTower_keepsTowers s'' k).core k).trans hempty
  · exact hempty

/-- The notice that the last of the levels is back (R43, R412). -/
def noticeRestored (s : State) (k : Nat) : State := irq (restoreRecord s k) (0x114 + k)

theorem noticeRestored_keepsTowers (s : State) (k : Nat) : KeepsTowers s (noticeRestored s k) :=
  (pitEvent_keepsTowers s _ _ _ _ _ _).trans (irq_keepsTowers _ _)

theorem noticeRestored_irqs (s : State) (k : Nat) : (noticeRestored s k).irqs = s.irqs ++ [0x114 + k] := by
  unfold noticeRestored restoreRecord
  rw [irq_eq, pitEvent_eq]

theorem noticeRestored_mem (s : State) (k : Nat) : (noticeRestored s k).mem = s.mem := by
  unfold noticeRestored restoreRecord
  rw [irq_eq, pitEvent_eq]

theorem exec_levelReady {s : State} {k l : Nat} (h : mget (tow s k).levelReset l .none = .released) :
    ∃ t, Machine.exec (.levelReady k l) s = .next t
      ∧ t = if (tow s k).restoring.contains l ∧ (tow (readied s k l) k).restoring = [] then noticeRestored (readied s k l) k
        else readied s k l :=
  ⟨_, congrArg Host.Outcome.next (if_pos h), rfl⟩

theorem levelReady_steps {s : State} {tw l : Nat} (h : mget (tow s tw).levelReset l .none = .released) :
    ∃ t, Machine.exec (.levelReady tw l) s = .next t ∧ mget (tow t tw).levelReset l .none = .none
      ∧ ((tow s tw).restoring.contains l = true → l ∉ (tow t tw).levelsOut ∧ l ∉ (tow t tw).restoring
          ∧ ((∀ k ∈ (tow s tw).restoring, k = l) → 0x114 + tw ∈ t.irqs))
      ∧ ((tow s tw).restoring.contains l = false → (tow t tw).levelsOut = (tow s tw).levelsOut ∧ (l ≠ 1 → t.irqs = s.irqs))
      ∧ (l ≠ 1 → t.mem = s.mem ∧ (tow t tw).cacheMode = (tow s tw).cacheMode)
      ∧ (l = 1 → (tow t tw).cacheMode = cacheAfterReset (tow s tw) ((tow s tw).restoring.contains 1)) := by
  obtain ⟨t, hexec, ht⟩ := exec_levelReady h
  have hready := readied_core s tw l
  have hrestoring : (tow (readied s tw l) tw).restoring = (tow s tw).restoring.filter (· != l) := (congrArg Tower.restoring hready :)
  have hkeeps : KeepsTowers (readied s tw l) t := by
    rw [ht]; exact .ite (noticeRestored_keepsTowers _ tw) (.refl _)
  have hcore : (tow t tw).core = ((tow s tw).levelBack l).core := (hkeeps.core tw).trans hready
  have hout : (tow t tw).levelsOut = ((tow s tw).levelBack l).levelsOut := (congrArg Tower.levelsOut hcore :)
  have hcache : (tow t tw).cacheMode = ((tow s tw).levelBack l).cacheMode := (congrArg Tower.cacheMode hcore :)
  have hstage : (tow t tw).levelReset = mdel (tow s tw).levelReset l := (congrArg Tower.levelReset hcore :)
  refine ⟨t, hexec, by rw [hstage, mget, mfind_mdel, if_pos rfl]; rfl, fun hb => ⟨?_, ?_, fun hlast => ?_⟩, fun hb => ⟨?_, fun hl => ?_⟩,
    fun hl => ⟨?_, ?_⟩, fun hl => ?_⟩
  · simp only [hout, Tower.levelBack, hb, if_true]; simp
  · rw [hkeeps.restoring, hrestoring]; simp
  · have hnone : (tow (readied s tw l) tw).restoring = [] := by
      rw [hrestoring, List.filter_eq_nil_iff]; intro k hk; simp [hlast k hk]
    rw [ht, if_pos ⟨hb, hnone⟩, noticeRestored_irqs]
    exact List.mem_append_right _ (List.mem_singleton_self _)
  · simp only [hout, Tower.levelBack, hb, Bool.false_eq_true, if_false]
  · rw [ht, if_neg (fun c => Bool.false_ne_true (hb.symm.trans c.1)), readied_of_ne hl]; rfl
  · rw [ht]
    split
    · rw [noticeRestored_mem, readied_of_ne hl]; rfl
    · rw [readied_of_ne hl]; rfl
  · rw [hcache]; exact if_neg hl
  · rw [hcache]; subst hl; rfl

/-! ### `LEVEL_RESTORE` (R42, R43) -/

/-- One of the levels of a restoration: it is among those restored, and its reset is accepted. -/
def restoreLevel (k : Nat) (s : State) (l : Nat) : State :=
  levelResetStart (setTow s k { tow s k with restoring := addOnce (tow s k).restoring l }) k l

/-- Between two states a restoration of the levels `ls` began, on a tower under no reset. -/
structure Restores (k : Nat) (ls : List Nat) (s t : State) : Prop where
  reset : (tow t k).reset = (tow s k).reset
  levelsOut : (tow t k).levelsOut = (tow s k).levelsOut
  restoring : ∀ l, l ∈ (tow t k).restoring ↔ l ∈ (tow s k).restoring ∨ l ∈ ls
  stage : ∀ l, mget (tow t k).levelReset l .none =
    if l ∈ ls ∧ mget (tow s k).levelReset l .none = .none then .accepted else mget (tow s k).levelReset l .none
  sessions : ∀ sid, (mfind s.sessions sid).isSome → (mfind t.sessions sid).isSome

theorem restoreLevel_restores {s : State} {k : Nat} (h : (tow s k).reset = .none) (l : Nat) : Restores k [l] s (restoreLevel k s l) := by
  unfold restoreLevel
  generalize hs : setTow s k { tow s k with restoring := addOnce (tow s k).restoring l } = s'
  have htow : tow s' k = { tow s k with restoring := addOnce (tow s k).restoring l } := by rw [← hs, tow_setTow_self]
  obtain ⟨hout, hrestoring, hreset⟩ := levelResetStart_tower s' k l
  have hreset' : (tow s' k).reset = .none := by rw [htow]; exact h
  refine ⟨by rw [hreset, htow], by rw [hout, htow], fun j => ?_, fun j => ?_, fun sid hsid => ?_⟩
  · rw [hrestoring, htow, mem_addOnce, List.mem_singleton]
  · rw [levelResetStart_stage hreset', htow]; simp only [List.mem_singleton]
  · exact levelResetStart_sessions s' k l sid (by rw [← hs]; exact hsid)

theorem foldl_restoreLevel_restores {k : Nat} (ls : List Nat) {s : State} (h : (tow s k).reset = .none) :
    Restores k ls s (ls.foldl (restoreLevel k) s) := by
  induction ls generalizing s with
  | nil => exact ⟨rfl, rfl, by simp, by simp, fun _ => id⟩
  | cons l ls ih =>
    have hone := restoreLevel_restores h l
    have hrest := ih (s := restoreLevel k s l) (by rw [hone.reset, h])
    refine ⟨hrest.reset.trans hone.reset, hrest.levelsOut.trans hone.levelsOut, fun j => ?_, fun j => ?_,
      fun sid hsid => hrest.sessions sid (hone.sessions sid hsid)⟩
    · rw [List.foldl_cons, hrest.restoring, hone.restoring, List.mem_singleton, List.mem_cons, or_assoc]
    · rw [List.foldl_cons, hrest.stage, hone.stage]
      generalize mget (tow s k).levelReset j .none = stage
      by_cases hj : j = l
      · cases stage <;> simp [hj]
      · simp [hj]

/-- The levels from `l` up of a tower that are out of service. -/
def levelsToRestore (s : State) (k l : Nat) : List Nat := (List.range 4).filter fun j => decide (l ≤ j) && (tow s k).levelsOut.contains j

/-- Some joint below a level that would return is over its limit of retired shafts (Table 2.4). -/
def BeyondLimit (s : State) (k : Nat) (out : List Nat) : Prop :=
  ∃ j, j < 6 ∧ retireLimit j < retiredCount s k j ∧ ∃ l ∈ out, levelAbove j ≤ l

theorem le_foldl_max {n m : Nat} (ls : List Nat) : n ≤ ls.foldl max m ↔ n ≤ m ∨ ∃ l ∈ ls, n ≤ l := by
  induction ls generalizing m with
  | nil => simp
  | cons a ls ih => simp [ih, or_assoc]

/-- What `LEVEL_RESTORE` does to the state that has heard from its session: its status, and the state after it. -/
def restoreLevels (s : State) (k l : Nat) : Nat × State :=
  let out := levelsToRestore s k l
  if l = 0 ∨ out.isEmpty then (0x42, s)
  else if (tow s k).reset ≠ .none then (0x45, s)
  else if (List.range 6).any fun j => decide (levelAbove j ≤ out.foldl max 0) && decide (retireLimit j < retiredCount s k j) then (0x46, s)
  else (0, out.foldl (restoreLevel k) (setTow s k { tow s k with restoreAt := l }))

theorem beyondLimit_iff {s : State} {k : Nat} {out : List Nat} :
    ((List.range 6).any fun j => decide (levelAbove j ≤ out.foldl max 0) && decide (retireLimit j < retiredCount s k j)) = true
      ↔ BeyondLimit s k out := by
  have habove : ∀ j, ¬ levelAbove j ≤ 0 := fun j => by unfold levelAbove; omega
  simp only [List.any_eq_true, List.mem_range, Bool.and_eq_true, decide_eq_true_eq, le_foldl_max, habove, false_or, BeyondLimit]
  exact exists_congr fun j => and_congr_right fun _ => and_comm

theorem exec_levelRestore {s : State} {w : ObjWrite} {k l : Nat} (hv : leNat w.val = 4 * k + l) (hl : l ≤ 3) (hk : k < 4)
    (hserves : serves s (1 + k) = true) :
    Machine.exec (.levelRestore w) s = .next (objWrite s w 0x340006 0 fun s => restoreLevels s k l) := by
  change execLevelRestore w s = _
  unfold execLevelRestore
  dsimp only
  rw [show leNat w.val / 4 = k by omega, show leNat w.val % 4 = l by omega, if_neg (by simp [hserves])]
  have hsmall : ∀ p : Prop, (16 ≤ leNat w.val ∨ p) = p := fun p => by
    rw [eq_iff_iff, or_iff_right_iff_imp]; omega
  simp only [hsmall]
  rfl

/-- A restoration that is refused, by its first reason (log 122), has none of its effect. -/
theorem restoreLevels_refused {s : State} {k l : Nat}
    (h : l = 0 ∨ levelsToRestore s k l = [] ∨ (tow s k).reset ≠ .none ∨ BeyondLimit s k (levelsToRestore s k l)) :
    ∃ st, restoreLevels s k l = (st, s) ∧ (st = 0x42 ∧ (l = 0 ∨ levelsToRestore s k l = []) ∨ st = 0x45 ∧ (tow s k).reset ≠ .none
      ∨ st = 0x46 ∧ BeyondLimit s k (levelsToRestore s k l)) := by
  unfold restoreLevels
  simp only [List.isEmpty_iff]
  split
  next hnone => exact ⟨_, rfl, .inl ⟨rfl, hnone⟩⟩
  next hsome =>
    split
    next hreset => exact ⟨_, rfl, .inr (.inl ⟨rfl, hreset⟩)⟩
    next hreset =>
      have hbeyond : BeyondLimit s k (levelsToRestore s k l) := by tauto
      rw [if_pos (beyondLimit_iff.mpr hbeyond)]
      exact ⟨_, rfl, .inr (.inr ⟨rfl, hbeyond⟩)⟩

theorem restoreLevels_accepted {s : State} {k l : Nat}
    (h : ¬ (l = 0 ∨ levelsToRestore s k l = [] ∨ (tow s k).reset ≠ .none ∨ BeyondLimit s k (levelsToRestore s k l))) :
    (restoreLevels s k l).1 = 0 ∧ Restores k (levelsToRestore s k l) s (restoreLevels s k l).2 := by
  obtain ⟨hl, hout, hreset, hlimit⟩ : ¬ l = 0 ∧ ¬ levelsToRestore s k l = [] ∧ ¬ (tow s k).reset ≠ .none ∧ ¬ BeyondLimit s k (levelsToRestore s k l) := by
    tauto
  unfold restoreLevels
  simp only [List.isEmpty_iff, hl, hout, hreset, or_self, if_false, if_neg (mt beyondLimit_iff.mp hlimit), true_and]
  generalize hs : setTow s k { tow s k with restoreAt := l } = s'
  have htow : tow s' k = { tow s k with restoreAt := l } := by rw [← hs, tow_setTow_self]
  have hrestores := foldl_restoreLevel_restores (levelsToRestore s k l) (s := s') (k := k) (by rw [htow]; exact not_not.mp hreset)
  exact ⟨by rw [hrestores.reset, htow], by rw [hrestores.levelsOut, htow], fun j => by rw [hrestores.restoring, htow],
    fun j => by rw [hrestores.stage, htow], fun sid hsid => hrestores.sessions sid (by rw [← hs]; exact hsid)⟩

theorem levelRestore_steps {s : State} {w : ObjWrite} {tw l : Nat} (hv : leNat w.val = 4 * tw + l) (hl : l ≤ 3) (htw : tw < 4)
    (hacc : Safety.accepted s w 0x340006 = true) (hserves : serves s (1 + tw) = true) :
    let out := levelsToRestore s tw l
    ∃ t, Machine.exec (.levelRestore w) s = .next t ∧ (tow t tw).levelsOut = (tow s tw).levelsOut ∧
      (l = 0 ∨ out = [] ∨ (tow s tw).reset ≠ .none ∨ BeyondLimit s tw out →
          (tow t tw).restoring = (tow s tw).restoring ∧ (tow t tw).levelReset = (tow s tw).levelReset
          ∧ (w.reg = false → ∃ st, Safety.lastStatus t w.sid = some st
              ∧ (st = 0x42 ∧ (l = 0 ∨ out = []) ∨ st = 0x45 ∧ (tow s tw).reset ≠ .none ∨ st = 0x46 ∧ BeyondLimit s tw out)))
      ∧ (¬ (l = 0 ∨ out = [] ∨ (tow s tw).reset ≠ .none ∨ BeyondLimit s tw out) →
          (∀ k ∈ out, k ∈ (tow t tw).restoring
            ∧ mget (tow t tw).levelReset k .none = (if mget (tow s tw).levelReset k .none = .none then .accepted else mget (tow s tw).levelReset k .none))
          ∧ (w.reg = false → Safety.lastStatus t w.sid = some 0)) := by
  intro out
  obtain ⟨hkeeps, hstatus⟩ := objWrite_steps hacc 0 fun s => restoreLevels s tw l
  have htow := tow_heard s w tw
  have hout : out = levelsToRestore (heard s w) tw l := by unfold out levelsToRestore; rw [htow]
  have hlimit : BeyondLimit s tw out ↔ BeyondLimit (heard s w) tw out := by unfold BeyondLimit retiredCount; rw [htow]
  refine ⟨_, exec_levelRestore hv hl htw hserves, ?_⟩
  generalize objWrite s w 0x340006 0 _ = t at hkeeps hstatus ⊢
  rw [hlimit, hout, ← htow]
  by_cases h : l = 0 ∨ levelsToRestore (heard s w) tw l = [] ∨ (tow (heard s w) tw).reset ≠ .none
      ∨ BeyondLimit (heard s w) tw (levelsToRestore (heard s w) tw l)
  · obtain ⟨st, heff, hreason⟩ := restoreLevels_refused h
    rw [heff] at hkeeps hstatus
    exact ⟨hkeeps.levelsOut tw, fun _ => ⟨hkeeps.restoring tw, hkeeps.levelReset tw, fun hreg => ⟨st, hstatus hreg fun _ => id, hreason⟩⟩,
      fun hn => absurd h hn⟩
  · obtain ⟨heff, hrestores⟩ := restoreLevels_accepted h
    refine ⟨(hkeeps.levelsOut tw).trans hrestores.levelsOut, fun hn => absurd hn h, fun _ => ⟨fun j hj => ⟨?_, ?_⟩, fun hreg => ?_⟩⟩
    · rw [hkeeps.restoring, hrestores.restoring]; exact .inr hj
    · rw [hkeeps.levelReset, hrestores.stage]; simp only [hj, true_and]
    · rw [hstatus hreg hrestores.sessions, heff]

/-- Settles O7: each event of a level reset by what it does to its tower, which neither the kernels it contains, nor the
accesses that go on, nor an answer to a session touches. -/
theorem levelResetsAndRestore : Obligations.LevelResetsAndRestore := by
  unfold Obligations.LevelResetsAndRestore
  exact ⟨fun _ _ _ _ hacc hv hl hl' htw => levelReset_steps hacc hv hl hl' htw, fun _ _ _ => levelResetDrainDone_steps,
    fun _ _ _ => levelResetRelease_steps, fun _ _ _ => levelReady_steps,
    fun _ _ _ _ hv hl htw hacc hserves => levelRestore_steps hv hl htw hacc hserves⟩

end Sys2Proof.Machine
end

section
/-! Tower resets (R48 to R50), stage by stage of Table 2.10, and the write-backs of the near-store cache (R60, R61, R91). -/
namespace Sys2Proof.Machine
open Sys2Proof

/-! ### A tower reset begins -/

theorem recalAbort_recal (s : State) (k : Nat) : (tow (recalAbort s k) k).recal = none := by
  unfold recalAbort
  split
  next => exact congrArg Tower.recal (tow_setTow_self ..)
  next h => exact h

/-- The tower when its reset is asserted at Pace time `now`: a level reset is superseded (R50), its near-store cache writes back. -/
def Tower.assertReset (x : Tower) (now : Nat) : Tower :=
  { x with reset := .writeback, levelReset := [], restoring := [], cacheMode := .writeback, cacheSince := now }

/-- What `TOWER_RESET` does to a tower under no reset. -/
def towerResetStart (s : State) (k : Nat) : State :=
  let s := loseTower (recalAbort (if (tow s k).restoring = [] then s else restoreRecord s k) k) k
  let s := setTow s k ((tow s k).assertReset s.pace.now)
  containLevel (containLevel (pitEvent s 0x0105 k 0 0 (levelsInService s)) k 2) k 3

theorem towerResetStart_tower (s : State) (k : Nat) :
    let x := tow (towerResetStart s k) k
    x.reset = .writeback ∧ x.cacheMode = .writeback ∧ x.levelReset = [] ∧ x.restoring = [] ∧ x.recal = none := by
  unfold towerResetStart
  extract_lets s₁ s₂ x
  have hrecal : (tow s₁ k).recal = none := ((loseTower_keepsTowers _ k).recal k).trans (recalAbort_recal _ k)
  have hkeeps : KeepsTowers s₂ _ :=
    (pitEvent_keepsTowers s₂ 0x0105 k 0 0 (levelsInService s₂) 0).trans ((containLevel_keepsTowers _ k 2).trans (containLevel_keepsTowers _ k 3))
  have hx : x.core = ((tow s₁ k).assertReset s₁.pace.now).core := (hkeeps.core k).trans (by rw [tow_setTow_self])
  clear_value x s₁
  have hfield : ∀ {α : Type} (f : Tower → α), f x.core = f ((tow s₁ k).assertReset s₁.pace.now).core := fun f => congrArg f hx
  exact ⟨hfield Tower.reset, hfield Tower.cacheMode, hfield Tower.levelReset, hfield Tower.restoring, (hfield Tower.recal).trans hrecal⟩

theorem exec_towerReset {s : State} {w : ObjWrite} {k : Nat} (hv : leNat w.val = k) (hk : k < 4) :
    Machine.exec (.towerReset w) s =
      .next (objWrite s w 0x340008 0 fun s => if (tow s k).reset ≠ .none then (0, s) else (0, towerResetStart s k)) := by
  subst hv
  change execTowerReset w s = _
  unfold execTowerReset
  dsimp only
  simp only [if_neg (show ¬ 4 ≤ leNat w.val by omega)]
  rfl

theorem towerReset_steps {s : State} {w : ObjWrite} {tw : Nat} (hacc : Safety.accepted s w 0x340008 = true) (hv : leNat w.val = tw) (htw : tw < 4) :
    ∃ t, Machine.exec (.towerReset w) s = .next t ∧
      if (tow s tw).reset = .none then (tow t tw).reset = .writeback
        ∧ (tow t tw).cacheMode = .writeback ∧ (tow t tw).levelReset = [] ∧ (tow t tw).restoring = [] ∧ (tow t tw).recal = none
      else (tow t tw).reset = (tow s tw).reset ∧ (tow t tw).cacheMode = (tow s tw).cacheMode := by
  have hkeeps := (objWrite_steps hacc 0 fun s => if (tow s tw).reset ≠ .none then (0, s) else (0, towerResetStart s tw)).1
  refine ⟨_, exec_towerReset hv htw, ?_⟩
  generalize objWrite s w 0x340008 0 _ = t at hkeeps ⊢
  rw [← tow_heard s w tw]
  split
  next h =>
    rw [if_neg (not_not.mpr h)] at hkeeps
    rw [hkeeps.reset, hkeeps.cacheMode, hkeeps.levelReset, hkeeps.restoring, hkeeps.recal]
    exact towerResetStart_tower (heard s w) tw
  next h =>
    rw [if_pos h] at hkeeps
    exact ⟨hkeeps.reset tw, hkeeps.cacheMode tw⟩

/-! ### Write-back, relock and training (R44, R49, R50) -/

theorem exec_towerPllLocked {s : State} {k : Nat} (h : (tow s k).reset = .relock) :
    Machine.exec (.towerPllLocked k) s = .next (setTow s k { tow s k with reset := .training }) :=
  congrArg Host.Outcome.next (if_pos h)

/-- Where no access waits at a stack, none goes on. -/
theorem releaseTower_idle {s : State} (h : ∀ k, (stk s k).waiting = []) (t : Nat) :
    (releaseTower s t).towers = s.towers ∧ (releaseTower s t).mem = s.mem := by
  unfold releaseTower
  generalize List.range 8 = ks
  induction ks generalizing s with
  | nil => exact ⟨rfl, rfl⟩
  | cons i ks ih =>
    have hone : releaseStack s (8 * t + i) = setStk s (8 * t + i) { stk s (8 * t + i) with waiting := [] } := by
      unfold releaseStack; rw [h]; rfl
    rw [List.foldl_cons, hone]
    refine ih fun k => ?_
    rw [stk_setStk]
    split
    · rfl
    · exact h k

/-- Steps that only report, one after another. -/
theorem foldl_pit {α : Type} {f : State → α → State} (h : ∀ s x, ∃ p, f s x = { s with pit := p }) (l : List α) (s : State) :
    ∃ p, l.foldl f s = { s with pit := p } := by
  induction l generalizing s with
  | nil => exact ⟨_, rfl⟩
  | cons x l ih =>
    obtain ⟨p, hp⟩ := h s x
    rw [List.foldl_cons, hp]
    exact ih _

/-- A tower whose near-store cache has written back: its lines are clean. -/
def Tower.writtenBack (x : Tower) : Tower := { x with lines := x.lines.map fun l => { l with dirty := false } }

/-- A write-back reports the lines lost with a failed stack, and cleans the lines. -/
theorem writebackLines_eq (s : State) (k : Nat) : ∃ p, writebackLines s k = setTow { s with pit := p } k (tow s k).writtenBack := by
  unfold writebackLines
  extract_lets lost s'
  obtain ⟨p, hp⟩ : ∃ p, s' = { s with pit := p } := by
    refine foldl_pit (fun s l => ?_) lost s
    split
    · exact ⟨_, pitEvent_eq ..⟩
    · exact ⟨_, rfl⟩
  change ∃ p, setTow s' k (tow s' k).writtenBack = _
  rw [hp]
  exact ⟨p, rfl⟩

theorem tow_writebackLines (s : State) (k j : Nat) : tow (writebackLines s k) j = if k = j then (tow s k).writtenBack else tow s j := by
  obtain ⟨p, hp⟩ := writebackLines_eq s k
  rw [hp, tow_setTow]; rfl

theorem stk_writebackLines (s : State) (k j : Nat) : stk (writebackLines s k) j = stk s j := by
  obtain ⟨p, hp⟩ := writebackLines_eq s k
  rw [hp]; rfl

theorem sessions_writebackLines (s : State) (k : Nat) : (writebackLines s k).sessions = s.sessions := by
  obtain ⟨p, hp⟩ := writebackLines_eq s k
  rw [hp]; rfl

/-- An accumulate-write that is applied leaves the towers and the stacks' queues. -/
theorem accwLine_leaves (s : State) (w : AccWrite) : (accwLine s w).towers = s.towers ∧ (accwLine s w).stackUnits = s.stackUnits := by
  unfold accwLine
  extract_lets f r hit _ s'
  have hsum : r.1.towers = s.towers ∧ r.1.stackUnits = s.stackUnits := by
    refine List.foldlRecOn (motive := fun r => r.1.towers = s.towers ∧ r.1.stackUnits = s.stackUnits) _ f (b := (s, 0)) ⟨rfl, rfl⟩ fun r h i _ => ?_
    unfold f; split <;> exact h
  split <;> exact hsum

theorem foldl_accwLine_leaves (ws : List AccWrite) (s : State) :
    (ws.foldl accwLine s).towers = s.towers ∧ (ws.foldl accwLine s).stackUnits = s.stackUnits :=
  List.foldlRecOn (motive := fun t => t.towers = s.towers ∧ t.stackUnits = s.stackUnits) ws accwLine ⟨rfl, rfl⟩ fun t h w _ =>
    ⟨(accwLine_leaves t w).1.trans h.1, (accwLine_leaves t w).2.trans h.2⟩

/-- The shafts of a tower with their endpoints reset (R32, R44). -/
def Tower.endpointsReset (x : Tower) : Map Shaft := x.shafts.map fun y => (y.1, { y.2 with seq := 0, replay := false, tx := 0, buf := [] })

/-- The write-back of a tower reset is done: the acknowledged accumulate-writes are in the arrays, the domains and the
endpoints of the shafts are reset, and what waited goes on. -/
theorem exec_towerResetWritebackDone {s : State} {k : Nat} (h : (tow s k).reset = .writeback) :
    let s' := (tow s k).adder.foldl accwLine (writebackLines s k)
    Machine.exec (.towerResetWritebackDone k) s = .next (releaseTower (setTow (setTow s' k
        { tow s' k with reset := .relock, cacheMode := .bypass, adder := [] }) k
      { tow s' k with reset := .relock, cacheMode := .bypass, adder := [], shafts := (tow s' k).endpointsReset }) k) := by
  change execTowerResetWritebackDone k s = _
  unfold execTowerResetWritebackDone
  rw [if_pos h]
  dsimp only
  unfold resetEndpoints
  rw [tow_setTow_self]
  rfl

theorem towerResetWritebackDone_steps {s : State} {tw : Nat} (h : (tow s tw).reset = .writeback) :
    ∃ t, Machine.exec (.towerResetWritebackDone tw) s = .next t ∧ (tow t tw).reset = .relock ∧ (tow t tw).cacheMode = .bypass
      ∧ (tow t tw).adder = [] ∧ (∀ x ∈ (tow t tw).shafts, x.2.seq = 0 ∧ x.2.tx = 0 ∧ x.2.buf = [])
      ∧ ((∀ st, (stk s st).waiting = []) → t.mem = ((tow s tw).adder.foldl accwLine (writebackLines s tw)).mem) := by
  refine ⟨_, exec_towerResetWritebackDone h, ?_⟩
  generalize hs : (tow s tw).adder.foldl accwLine (writebackLines s tw) = s'
  have hstk : ∀ j, stk s' j = stk s j := fun j => by
    rw [← stk_writebackLines s tw j, stk, ← hs, (foldl_accwLine_leaves _ _).2]; rfl
  generalize hr : setTow _ tw _ = r
  have hkeeps := releaseTower_keepsTowers r tw
  have htow : tow r tw = { tow s' tw with reset := .relock, cacheMode := .bypass, adder := [], shafts := (tow s' tw).endpointsReset } := by
    rw [← hr, tow_setTow_self]
  refine ⟨?_, ?_, ?_, ?_, fun hidle => ?_⟩
  · rw [hkeeps.reset, htow]
  · rw [hkeeps.cacheMode, htow]
  · have hadder := hkeeps.adder tw
    rw [htow] at hadder
    exact List.subset_nil.mp hadder
  · rw [hkeeps.shafts, htow]
    intro x hx
    obtain ⟨y, -, rfl⟩ := List.mem_map.mp hx
    exact ⟨rfl, rfl, rfl⟩
  · rw [(releaseTower_idle (s := r) (fun j => ?_) tw).2, ← hr]
    · rfl
    · rw [← hr]; exact (congrArg Stack.waiting (hstk j)).trans (hidle j)

/-! ### Training (R49, R50) -/

/-- The reset of a tower, and the lanes that wait for its training. -/
def stage (s : State) (k : Nat) : TowerReset × List (Nat × Nat) := ((tow s k).reset, (tow s k).late)

theorem KeepsTowers.stage {s t : State} (h : KeepsTowers s t) (k : Nat) : stage t k = stage s k :=
  Prod.ext (h.reset k) (h.late k)

theorem stage_setTow {s : State} {i : Nat} {x : Tower} (k : Nat) (hreset : x.reset = (tow s i).reset := by rfl)
    (hlate : x.late = (tow s i).late := by rfl) : stage (setTow s i x) k = stage s k := by
  unfold Machine.stage
  rw [tow_setTow]
  split
  next he => subst he; rw [hreset, hlate]
  next => rfl

theorem stage_foldl {α : Type} {f : State → α → State} {k : Nat} (h : ∀ s x, stage (f s x) k = stage s k) (l : List α) (s : State) :
    stage (l.foldl f s) k = stage s k := by
  induction l generalizing s with
  | nil => rfl
  | cons x l ih => exact (ih _).trans (h s x)

/-- Levels that leave service neither end a reset of the tower nor train a lane. -/
theorem levelsLeave_stage (s : State) (t j k : Nat) : stage (levelsLeave s t j) k = stage s k := by
  unfold levelsLeave
  extract_lets x ls rest s₁ s₂
  have hout : stage s₂ k = stage s k := by
    have hone : stage s₁ k = stage s k := stage_setTow k
    unfold s₂; split
    · exact ((pitEvent_keepsTowers s₁ _ _ _ _ _ _).stage k).trans hone
    · exact hone
  refine (stage_foldl (fun s l => ?_) ls s₂).trans hout
  extract_lets _ s₃ s₄ _ s₅
  have hleft : stage s₄ k = stage s k := ((pitEvent_keepsTowers s₃ _ _ _ _ _ _).stage k).trans (stage_setTow k)
  split
  · split
    · exact (stage_setTow k).trans hleft
    · exact hleft
  · have hparts : KeepsTowers s₅ _ := .foldl (fun s i => dropFromParts_keepsTowers s (32 * t + 16 * (l - 2) + i)) (List.range 16) s₅
    exact (hparts.stage k).trans (((containLevel_keepsTowers s₄ t l).stage k).trans hleft)

theorem laneFail_stage (s : State) (t j sh lane k : Nat) : stage (laneFail s t j sh lane) k = stage s k := by
  unfold laneFail
  extract_lets x y z w s₁ det0 s₂
  have hstep : stage s₁ k = stage s k := stage_setTow k
  have hrecord : stage s₂ k = stage s k := ((pitEvent_keepsTowers s₁ _ _ _ _ _ _).stage k).trans hstep
  split
  · rfl
  · split
    · exact hstep
    · split
      · exact (levelsLeave_stage _ t j k).trans (((pitEvent_keepsTowers s₂ _ _ _ _ _ _).stage k).trans hrecord)
      · exact hrecord

/-- A lane that failed stays failed when another fails. -/
theorem laneFail_failed_mono {s : State} {t j sh lane j' sh' l : Nat} (h : l ∈ (shaft s t j' sh').failed) :
    l ∈ (shaft (laneFail s t j sh lane) t j' sh').failed := by
  by_cases hl : lane ∈ (shaft s t j sh).failed
  · rwa [laneFail_of_mem hl]
  · rw [(laneFail_keepsJoints hl t).shaft, shaft, setShaft, tow_setTow_self, mget_mset]
    split
    next hkey =>
      have hsame : shaft s t j' sh' = shaft s t j sh := by unfold shaft; rw [hkey]
      rw [Shaft.failLane_failed, ← hsame]
      exact List.mem_append_left _ h
    next => exact h

/-- The lanes that failed under the reset fail, one after another. -/
def failLate (s : State) (k : Nat) (late : List (Nat × Nat)) : State :=
  late.foldl (fun s x => laneFail s k (x.1 / 1024) (x.1 % 1024) x.2) s

theorem failLate_failed_mono {k j sh l : Nat} (late : List (Nat × Nat)) {s : State} (h : l ∈ (shaft s k j sh).failed) :
    l ∈ (shaft (failLate s k late) k j sh).failed := by
  induction late generalizing s with
  | nil => exact h
  | cons x late ih => exact ih (laneFail_failed_mono h)

theorem mem_failLate {k : Nat} (late : List (Nat × Nat)) (s : State) :
    ∀ x ∈ late, x.2 ∈ (shaft (failLate s k late) k (x.1 / 1024) (x.1 % 1024)).failed := by
  induction late generalizing s with
  | nil => exact nofun
  | cons y late ih =>
    intro x hx
    obtain rfl | hx := List.mem_cons.mp hx
    · exact failLate_failed_mono late (mem_laneFail_failed.mpr (.inr rfl))
    · exact ih _ x hx

/-- First address of the near store of tower `k` (Table 3.1). -/
def nearBase (k : Nat) : Nat := 0x080000000000 + k * 0x60000000

theorem exec_towerJointsTrained {s : State} {k : Nat} (h : (tow s k).reset = .training) :
    Machine.exec (.towerJointsTrained k) s =
      .next (resetLevelClusters (resetLevelClusters (zeroMem (failLate (setTow s k { tow s k with reset := .zeroing, late := [] }) k (tow s k).late)
        (nearBase k) (nearBase k + 0x60000000)) k 2) k 3) :=
  congrArg Host.Outcome.next (if_pos h)

theorem readMem_zeroMem {s : State} {lo hi a : Nat} (hlo : lo ≤ a) (hhi : a < hi) : readMem (zeroMem s lo hi) a 1 = [0#8] := by
  rw [readMem_one]
  exact congrArg ([·]) ((cellGet_cellsZero s.mem lo hi a).trans (if_pos ⟨hlo, hhi⟩))

/-- The clusters of both compute levels of a tower are those of levels 2 and 3. -/
theorem mem_levelClusters_of_lt {k i : Nat} (h : i < 32) : 32 * k + i ∈ levelClusters k 2 ∨ 32 * k + i ∈ levelClusters k 3 := by
  rw [mem_levelClusters, mem_levelClusters]
  by_cases hi : i < 16
  · exact .inl ⟨i, hi, by omega⟩
  · exact .inr ⟨i - 16, by omega, by omega⟩

theorem towerJointsTrained_steps {s : State} {tw : Nat} (h : (tow s tw).reset = .training) :
    ∃ t, Machine.exec (.towerJointsTrained tw) s = .next t ∧ (tow t tw).reset = .zeroing ∧ (tow t tw).late = []
      ∧ (∀ x ∈ (tow s tw).late, x.2 ∈ (shaft t tw (x.1 / 1024) (x.1 % 1024)).failed)
      ∧ ((tow s tw).late = [] → (tow t tw).shafts = (tow s tw).shafts ∧ (tow t tw).levelsOut = (tow s tw).levelsOut)
      ∧ (∀ a, 0x080000000000 + tw * 0x60000000 ≤ a → a < 0x080000000000 + (tw + 1) * 0x60000000 → readMem t a 1 = [0#8])
      ∧ (∀ i, i < 32 → (clu t (32 * tw + i)).crews = [] ∧ (clu t (32 * tw + i)).entries = []
          ∧ ∀ a, slmBase + (32 * tw + i) * 0x01000000 ≤ a → a < slmBase + (32 * tw + i) * 0x01000000 + 0x100000 → readMem t a 1 = [0#8]) := by
  refine ⟨_, exec_towerJointsTrained h, ?_⟩
  generalize hs : setTow s tw { tow s tw with reset := .zeroing, late := [] } = s'
  have htow' : tow s' tw = { tow s tw with reset := .zeroing, late := [] } := by rw [← hs, tow_setTow_self]
  have hfailed := mem_failLate (k := tw) (tow s tw).late s'
  have hstage : stage (failLate s' tw (tow s tw).late) tw = (.zeroing, []) := by
    rw [failLate, stage_foldl (fun s x => laneFail_stage s tw _ _ _ tw), stage, htow']
  have hnone : (tow s tw).late = [] → failLate s' tw (tow s tw).late = s' := fun he => by rw [he]; rfl
  generalize failLate s' tw (tow s tw).late = u at hfailed hstage hnone ⊢
  obtain ⟨hreset, hlate⟩ := Prod.mk.inj hstage
  have htow : ∀ lo hi, tow (resetLevelClusters (resetLevelClusters (zeroMem u lo hi) tw 2) tw 3) tw = tow u tw :=
    fun _ _ => by rw [tow_resetLevelClusters, tow_resetLevelClusters]; rfl
  refine ⟨by rw [htow, hreset], by rw [htow, hlate], fun x hx => ?_, fun he => ?_, fun a hlo hhi => ?_, fun i hi => ?_⟩
  · rw [shaft, htow]; exact hfailed x hx
  · rw [htow, hnone he, htow']; exact ⟨rfl, rfl⟩
  · refine readMem_resetLevelClusters_zero (readMem_resetLevelClusters_zero (readMem_zeroMem hlo ?_) tw 2) tw 3
    unfold nearBase; omega
  · obtain hc | hc := mem_levelClusters_of_lt (k := tw) hi
    · simp only [clu_resetLevelClusters, if_pos hc]
      refine ⟨?_, ?_, fun a hlo hhi => readMem_resetLevelClusters_zero (readMem_resetLevelClusters hc hlo hhi) tw 3⟩ <;> split <;> rfl
    · simp only [clu_resetLevelClusters, if_pos hc]
      exact ⟨rfl, rfl, fun a => readMem_resetLevelClusters hc⟩

/-! ### Ready (R41, R49, R61) -/

/-- A round of recalibration that goes on takes a shaft, and leaves the rest of its tower and every other part of the module. -/
theorem recalResume_leaves (s : State) (k : Nat) :
    let t := recalResume s k
    t.irqs = s.irqs ∧ t.mem = s.mem ∧ (∃ m a b, tow t k = { tow s k with shafts := m, recal := a, recalNext := b })
      ∧ ((tow s k).recalNext = none → t = s) := by
  unfold recalResume
  split
  next i hi =>
    refine ⟨?_, ?_, ?_, fun h => absurd (hi.symm.trans h) nofun⟩
    · split <;> rfl
    · split <;> rfl
    · split
      · unfold recalTake setShaft; dsimp only
        rw [tow_setTow_self, tow_setTow_self]
        exact ⟨_, _, _, rfl⟩
      · exact ⟨_, _, _, rfl⟩
  next => exact ⟨rfl, rfl, ⟨_, _, _, rfl⟩, fun _ => rfl⟩

/-- A tower that is ready after a reset: its stacks are served with or without its near-store cache as L1 is in service. -/
def Tower.readyAgain (x : Tower) : Tower :=
  { x with reset := .none, cacheMode := if x.levelsOut.contains 1 then .bypass else if x.splitTo.isSome then .writeback else .normal }

theorem exec_towerReady {s : State} {k : Nat} (h : (tow s k).reset = .zeroing) :
    Machine.exec (.towerReady k) s =
      .next (recalResume (irq (setTow (emptyCache s k) k (tow (emptyCache s k) k).readyAgain) (0x114 + k)) k) :=
  congrArg Host.Outcome.next (if_pos h)

theorem towerReady_steps {s : State} {tw : Nat} (h : (tow s tw).reset = .zeroing) :
    ∃ t, Machine.exec (.towerReady tw) s = .next t ∧ (tow t tw).reset = .none ∧ (tow t tw).lines = []
      ∧ (tow t tw).cacheMode = (if (tow s tw).levelsOut.contains 1 then .bypass else if (tow s tw).splitTo.isSome then .writeback else .normal)
      ∧ ((tow s tw).recalNext = none → (tow t tw).shafts = (tow s tw).shafts) ∧ (tow t tw).levelsOut = (tow s tw).levelsOut
      ∧ t.irqs = s.irqs ++ [0x114 + tw] ∧ ((∀ l ∈ (tow s tw).lines, l.dirty = true ∨ l.under = []) → t.mem = s.mem) := by
  refine ⟨_, exec_towerReady h, ?_⟩
  have hmem := emptyCache_mem (s := s) (k := tw)
  have hirqs : (emptyCache s tw).irqs = s.irqs := by
    obtain ⟨m, p, he⟩ := emptyCache_eq s tw
    rw [he]; rfl
  rw [tow_emptyCache]
  generalize emptyCache s tw = u at hmem hirqs
  generalize hr : irq (setTow u tw (tow s tw).emptied.readyAgain) (0x114 + tw) = r
  have htow : tow r tw = (tow s tw).emptied.readyAgain := by rw [← hr]; exact tow_setTow_self ..
  have hrirqs : r.irqs = s.irqs ++ [0x114 + tw] := by rw [← hr, ← hirqs]; rfl
  have hrmem : r.mem = u.mem := by rw [← hr]; rfl
  obtain ⟨hirq, hm, ⟨m, a, b, ht⟩, hnone⟩ := recalResume_leaves r tw
  rw [htow] at ht hnone
  refine ⟨by rw [ht]; rfl, by rw [ht]; rfl, by rw [ht]; rfl, fun hn => ?_, by rw [ht]; rfl, hirq.trans hrirqs, fun hsound => ?_⟩
  · rw [hnone hn, htow]; rfl
  · rw [hm, hrmem, hmem hsound]

/-! ### Write-backs of the near-store cache (R60, R61, R91) -/

/-- A cache that has written back and is empty. -/
def flushed (s : State) (k : Nat) : State := emptyCache (writebackLines s k) k

theorem tow_flushed (s : State) (k : Nat) : tow (flushed s k) k = (tow s k).emptied := by
  rw [flushed, tow_emptyCache, tow_writebackLines, if_pos rfl]; rfl

theorem stk_flushed (s : State) (k j : Nat) : stk (flushed s k) j = stk s j := by
  obtain ⟨m, p, h⟩ := emptyCache_eq (writebackLines s k) k
  rw [flushed, h]
  exact stk_writebackLines s k j

theorem exec_nsCacheWritebackDone {s : State} {k : Nat} (h : (tow s k).cacheMode = .writeback ∧ (tow s k).reset = .none ∧ (tow s k).splitTo = none) :
    Machine.exec (.nsCacheWritebackDone k) s =
      .next (releaseTower (setTow (flushed s k) k { tow (flushed s k) k with cacheMode := .bypass }) k) :=
  congrArg Host.Outcome.next (if_pos h)

/-- The stacks of a tower whose L1 has left are served without the cache, which stays empty (R61). -/
theorem nsCacheWritebackDone_steps {s : State} {tw : Nat} (hmode : (tow s tw).cacheMode = .writeback) (hreset : (tow s tw).reset = .none)
    (hsplit : (tow s tw).splitTo = none) :
    ∃ t, Machine.exec (.nsCacheWritebackDone tw) s = .next t ∧ (tow t tw).cacheMode = .bypass ∧ (tow t tw).lines = [] := by
  refine ⟨_, exec_nsCacheWritebackDone ⟨hmode, hreset, hsplit⟩, ?_⟩
  have htow := tow_setTow_self (flushed s tw) tw { tow (flushed s tw) tw with cacheMode := .bypass }
  rw [tow_flushed] at htow ⊢
  generalize setTow (flushed s tw) tw _ = r at htow ⊢
  have hkeeps := releaseTower_keepsTowers r tw
  refine ⟨by rw [hkeeps.cacheMode, htow], ?_⟩
  rw [hkeeps.lines tw (by rw [htow]; exact CacheMode.noConfusion), htow]
  rfl

theorem exec_nsWritebackTimeout (s : State) (k now : Nat) :
    Machine.exec (.nsWritebackTimeout k now) s =
      .next (if (tow (clock s now) k).cacheMode = .writeback ∧ (tow (clock s now) k).cacheSince + 2000000 ≤ (clock s now).pace.now then
        fatal (clock s now) k else clock s now) := rfl

theorem nsWritebackTimeout_steps {s : State} {tw now : Nat} (hmode : (tow s tw).cacheMode = .writeback)
    (hdue : (tow s tw).cacheSince + 2000000 ≤ (clock s now).pace.now) :
    ∃ t, Machine.exec (.nsWritebackTimeout tw now) s = .next t ∧ t.boot.phase = .fatal ∧ t.pins.faultN = false := by
  refine ⟨_, exec_nsWritebackTimeout .., ?_⟩
  rw [tow_clock, if_pos ⟨hmode, hdue⟩]
  exact ⟨rfl, rfl⟩

theorem exec_nsSplitChangeDone {s : State} {k n : Nat} (h : (tow s k).splitTo = some n) :
    Machine.exec (.nsSplitChangeDone k) s = .next (releaseTower (setTow (flushed s k) k
      { tow (flushed s k) k with splitTo := none, cacheMode := cacheAfterSplit (tow (flushed s k) k) }) k) := by
  change execNsSplitChangeDone k s = _
  unfold execNsSplitChangeDone
  rw [h]
  rfl

theorem nsSplitChangeDone_steps {s : State} {tw n : Nat} (h : (tow s tw).splitTo = some n) :
    ∃ t, Machine.exec (.nsSplitChangeDone tw) s = .next t ∧ (tow t tw).splitTo = none
      ∧ (tow t tw).cacheMode = cacheAfterSplit (tow s tw) ∧ (tow t tw).scratchUnits = (tow s tw).scratchUnits
      ∧ ((∀ st, (stk s st).waiting = []) → (tow t tw).lines = []) := by
  refine ⟨_, exec_nsSplitChangeDone h, ?_⟩
  rw [tow_flushed]
  generalize hr : setTow (flushed s tw) tw _ = r
  have htow : tow r tw = { (tow s tw).emptied with splitTo := none, cacheMode := cacheAfterSplit (tow s tw).emptied } := by
    rw [← hr, tow_setTow_self]
  have hkeeps := releaseTower_keepsTowers r tw
  refine ⟨by rw [hkeeps.splitTo, htow], by rw [hkeeps.cacheMode, htow]; rfl, by rw [hkeeps.scratchUnits, htow]; rfl, fun hidle => ?_⟩
  have hstk : ∀ j, (stk r j).waiting = [] := fun j => by
    rw [← hr]; exact (congrArg Stack.waiting (stk_flushed s tw j)).trans (hidle j)
  rw [tow, (releaseTower_idle hstk tw).1]
  exact congrArg Tower.lines htow

/-- Tower `k`'s near-store cache holds no dirty line. -/
def CleanCache (k : Nat) (s : State) : Prop := ∀ x ∈ (tow s k).lines, x.dirty = false

theorem cleanCache_writebackLines_self (s : State) (k : Nat) : CleanCache k (writebackLines s k) := by
  intro x hx
  rw [tow_writebackLines, if_pos rfl] at hx
  obtain ⟨y, -, rfl⟩ := List.mem_map.mp hx
  rfl

theorem CleanCache.writebackLines {s : State} {k : Nat} (h : CleanCache k s) (j : Nat) : CleanCache k (writebackLines s j) := by
  by_cases hj : j = k
  · subst hj; exact cleanCache_writebackLines_self s j
  · intro x hx
    rw [tow_writebackLines, if_neg hj] at hx
    exact h x hx

/-- The write-back of the towers among `ts` that a mask names. -/
def flushTowers (v : Nat) (ts : List Nat) (s : State) : State := ts.foldl (fun s t => if bit v t then writebackLines s t else s) s

theorem CleanCache.flushTowers {v k : Nat} (ts : List Nat) {s : State} (h : CleanCache k s) : CleanCache k (flushTowers v ts s) :=
  List.foldlRecOn (motive := CleanCache k) ts _ h fun t ht j _ => by
    split
    · exact ht.writebackLines j
    · exact ht

theorem cleanCache_flushTowers {v k : Nat} {ts : List Nat} (hk : k ∈ ts) (hv : bit v k = true) (s : State) : CleanCache k (flushTowers v ts s) := by
  induction ts generalizing s with
  | nil => exact absurd hk List.not_mem_nil
  | cons t ts ih =>
    obtain rfl | hk := List.mem_cons.mp hk
    · unfold Machine.flushTowers
      rw [List.foldl_cons, if_pos hv]
      exact CleanCache.flushTowers ts (cleanCache_writebackLines_self s k)
    · exact ih hk _

theorem flushTowers_sessions (v : Nat) (ts : List Nat) (s : State) : (flushTowers v ts s).sessions = s.sessions :=
  List.foldlRecOn (motive := fun t : State => t.sessions = s.sessions) ts _ rfl fun t ht j _ => by
    split
    · exact (sessions_writebackLines t j).trans ht
    · exact ht

/-- An answer to a session that has no ring in memory stores nothing. -/
theorem respond_towers {s : State} {sid : Nat} {x : Session} (h : mfind s.sessions sid = some x) (hring : x.localPair = none) (r : Response) :
    (respond s sid r).towers = s.towers := by
  unfold respond
  rw [h]
  dsimp only
  rw [hring]

/-- An accepted write whose answer goes to no ring, and whose effect refuses nothing, leaves the towers as its effect does. -/
theorem objWrite_towers {s : State} {w : ObjWrite} {key : Nat} (h : Safety.accepted s w key = true) (hring : Safety.noRing s w = true)
    (addr : Nat) {eff : State → Nat × State} (hst : (eff (heard s w)).1 = 0) (hsess : (eff (heard s w)).2.sessions = (heard s w).sessions) :
    (objWrite s w key addr eff).towers = (eff (heard s w)).2.towers := by
  rw [objWrite_accepted h]
  cases hreg : w.reg with
  | true =>
    have hself : heard s w = s := if_pos hreg
    rw [hself] at hst ⊢
    rw [if_pos rfl, if_pos hst]
  | false =>
    simp only [Safety.accepted, Safety.noRing, hreg, Bool.false_or] at h hring
    cases hm : mfind s.sessions w.sid with
    | none => simp [hm] at h
    | some x =>
      simp only [hm, Option.isNone_iff_eq_none] at hring
      have hnow : mfind (heard s w).sessions w.sid = some { x with lastMsg := s.pace.now } := by
        unfold heard
        rw [hreg, hm]
        exact mfind_mset_self ..
      rw [← hsess] at hnow
      exact respond_towers hnow hring _

theorem exec_nsFlush {s : State} {w : ObjWrite} (hv : leNat w.val < 16) :
    Machine.exec (.nsFlush w) s = .next (objWrite s w 0x310004 0 fun s => (0, flushTowers (leNat w.val) (List.range 4) s)) := by
  change execNsFlush w s = _
  unfold execNsFlush
  dsimp only
  simp only [if_neg (show ¬ 16 ≤ leNat w.val by omega)]
  rfl

theorem nsFlush_steps {s : State} {w : ObjWrite} (hacc : Safety.accepted s w 0x310004 = true) (hv : leNat w.val < 16) :
    ∃ t, Machine.exec (.nsFlush w) s = .next t ∧ (w.reg = false → Safety.lastStatus t w.sid = some 0)
      ∧ (Safety.noRing s w = true → ∀ tw, tw < 4 → bit (leNat w.val) tw = true → ∀ x ∈ (tow t tw).lines, x.dirty = false) := by
  have hsess := flushTowers_sessions (leNat w.val) (List.range 4) (heard s w)
  refine ⟨_, exec_nsFlush hv, fun hreg => ?_, fun hring tw htw hbit => ?_⟩
  · exact (objWrite_steps hacc 0 fun s => (0, flushTowers (leNat w.val) (List.range 4) s)).2 hreg fun sid hsid => by rwa [hsess]
  · rw [tow, objWrite_towers hacc hring 0 rfl hsess]
    exact cleanCache_flushTowers (List.mem_range.mpr htw) hbit _

/-- Settles O8: each stage of Table 2.10 by what it does to its tower; the accesses that go on in it touch no more of the tower
than the lines of a cache in use. -/
theorem towerResetStages : Obligations.TowerResetStages := by
  unfold Obligations.TowerResetStages
  exact ⟨fun _ _ _ => towerReset_steps, fun _ _ h => ⟨_, exec_towerPllLocked h, rfl⟩, fun _ _ => towerJointsTrained_steps,
    fun _ _ => towerReady_steps, fun _ _ => towerResetWritebackDone_steps, fun _ _ => nsCacheWritebackDone_steps,
    fun _ _ _ => nsWritebackTimeout_steps, fun _ _ _ => nsSplitChangeDone_steps, fun _ _ => nsFlush_steps⟩

end Sys2Proof.Machine
end

section
/-! Memory accesses of a settled module (R54, R55, R70, R72, R82): what a read returns, what a write leaves, and what becomes of
a transaction. Lines and units are put together here; an access across the two sizes of guarded unit is O9's counterexample. -/
namespace Sys2Proof.Machine
open Sys2Proof

/-! ### Bytes, units and lines -/

theorem readMem_add (s : State) (a m k : Nat) : readMem s a (m + k) = readMem s a m ++ readMem s (a + m) k := by
  unfold readMem
  rw [List.range_add, List.map_append, List.map_map]
  congr 2
  funext i
  simp only [Function.comp, Nat.add_assoc]

theorem cellsPut_append (m : List Host.Cell) (a : Nat) (bs cs : List Byte) :
    cellsPut m a (bs ++ cs) = cellsPut (cellsPut m a bs) (a + bs.length) cs := by
  induction bs generalizing m a with
  | nil => rfl
  | cons b bs ih =>
    rw [List.cons_append, cellsPut, ih, cellsPut, List.length_cons, Nat.add_assoc, Nat.add_comm 1]

/-- Bytes `a` to `a + n − 1` lie in guarded units of one size (R77, R111). -/
def OneUnitSize (a n : Nat) : Prop := inSlm a = inSlm (a + n - 1)

/-- Length of the guarded unit an address lies in. -/
def unitSize (a : Nat) : Nat := (unitOf a).2.1

/-- Number of a unit in the poison list, by its index among units of its size. -/
def unitNo (w q : Nat) : Nat := (unitOf (q * w)).2.2

theorem unitsOf_eq {a n : Nat} (h : 1 ≤ n) :
    unitsOf a n = (List.range ((a + n - 1) / unitSize a - a / unitSize a + 1)).map fun i => unitNo (unitSize a) (a / unitSize a + i) :=
  if_neg (by omega)

theorem unitSize_eq (a : Nat) : unitSize a = if inSlm a then 8 else 64 := by
  unfold unitSize unitOf; split <;> rfl

theorem inSlm_iff (a : Nat) : inSlm a = true ↔ slmBase ≤ a ∧ a < slmEnd := by simp [inSlm]

theorem unitSize_cases (a : Nat) : unitSize a = 8 ∨ unitSize a = 64 := by
  rw [unitSize_eq]; split
  · exact .inl rfl
  · exact .inr rfl

/-- The units that a write covers whole. -/
def wholeUnits (a n : Nat) : List Nat :=
  (List.range ((a + n) / unitSize a - (a + unitSize a - 1) / unitSize a)).map fun i => unitNo (unitSize a) ((a + unitSize a - 1) / unitSize a + i)

theorem poisonAfter_tagged (p : List Nat) (a n : Nat) : poisonAfter p a n true = (unitsOf a n).foldl addOnce p := rfl

theorem poisonAfter_clean (p : List Nat) (a n : Nat) : poisonAfter p a n false = p.filter fun u => !(wholeUnits a n).contains u := rfl

/-- A line that begins within an access in units of one size is measured in that size. -/
theorem OneUnitSize.mid {a m k : Nat} (h : OneUnitSize a (m + k)) (hk : 1 ≤ k) (hsize : m + k ≤ 128) : unitSize (a + m) = unitSize a := by
  have hb : inSlm (a + m) = inSlm a := by
    unfold OneUnitSize at h
    rw [Bool.eq_iff_iff, inSlm_iff, inSlm_iff] at h ⊢
    unfold slmBase slmEnd at h ⊢
    omega
  rw [unitSize_eq, unitSize_eq, hb]

section
variable {a m k : Nat} (hmid : unitSize (a + m) = unitSize a) (hline : (a + m) % 128 = 0) (hm : 1 ≤ m) (hk : 1 ≤ k)
include hmid hline hm hk

/-- The units of an access cut where a line begins. -/
theorem unitsOf_add : unitsOf a (m + k) = unitsOf a m ++ unitsOf (a + m) k := by
  have hw := unitSize_cases a
  rw [unitsOf_eq (by omega), unitsOf_eq hm, unitsOf_eq hk, hmid]
  generalize unitSize a = w at hw
  have hlen : (a + (m + k) - 1) / w - a / w + 1 = ((a + m - 1) / w - a / w + 1) + ((a + m + k - 1) / w - (a + m) / w + 1) := by
    rcases hw with rfl | rfl <;> omega
  have hstart : a / w + ((a + m - 1) / w - a / w + 1) = (a + m) / w := by
    rcases hw with rfl | rfl <;> omega
  rw [hlen, List.range_add, List.map_append, List.map_map]
  congr 2
  funext i
  simp only [Function.comp, ← Nat.add_assoc, hstart]

theorem poisoned_add (s : State) : poisoned s a (m + k) = (poisoned s a m || poisoned s (a + m) k) := by
  unfold poisoned
  rw [unitsOf_add hmid hline hm hk, List.any_append]

theorem wholeUnits_add : wholeUnits a (m + k) = wholeUnits a m ++ wholeUnits (a + m) k := by
  have hw := unitSize_cases a
  unfold wholeUnits
  rw [hmid]
  generalize unitSize a = w at hw
  have hlen : (a + (m + k)) / w - (a + w - 1) / w = ((a + m) / w - (a + w - 1) / w) + ((a + m + k) / w - (a + m + w - 1) / w) := by
    rcases hw with rfl | rfl <;> omega
  have hstart : (a + w - 1) / w + ((a + m) / w - (a + w - 1) / w) = (a + m + w - 1) / w := by
    rcases hw with rfl | rfl <;> omega
  rw [hlen, List.range_add, List.map_append, List.map_map]
  congr 2
  funext i
  simp only [Function.comp, ← Nat.add_assoc, hstart]

/-- The poison list after a write, cut where a line begins. -/
theorem poisonAfter_add (p : List Nat) (tag : Bool) :
    poisonAfter p a (m + k) tag = poisonAfter (poisonAfter p a m tag) (a + m) k tag := by
  cases tag with
  | true => rw [poisonAfter_tagged, poisonAfter_tagged, poisonAfter_tagged, unitsOf_add hmid hline hm hk, List.foldl_append]
  | false =>
    rw [poisonAfter_clean, poisonAfter_clean, poisonAfter_clean, List.filter_filter, wholeUnits_add hmid hline hm hk]
    congr 1
    funext u
    rw [List.contains_append, Bool.not_or, Bool.and_comm]

end

/-- An access within a line is one piece. -/
theorem linePieces_one {a n : Nat} (hn : 1 ≤ n) (h : a % 128 + n ≤ 128) : linePieces a n = [(a, n)] := by
  unfold linePieces
  rw [if_neg (by omega), show (a + n - 1) / 128 - a / 128 + 1 = 1 by omega]
  simp only [List.range_one, List.map_cons, List.map_nil, Nat.add_zero, List.cons.injEq, and_true, Prod.mk.injEq]
  omega

/-- An access of at most a line's length that leaves its first line is two pieces. -/
theorem linePieces_two {a n : Nat} (hn : n ≤ 128) (h : 128 < a % 128 + n) :
    linePieces a n = [(a, 128 - a % 128), (a + (128 - a % 128), n - (128 - a % 128))] := by
  unfold linePieces
  rw [if_neg (by omega), show (a + n - 1) / 128 - a / 128 + 1 = 2 by omega]
  simp only [show List.range 2 = [0, 1] from rfl, List.map_cons, List.map_nil, List.cons.injEq, and_true, Prod.mk.injEq]
  omega

/-! ### Look-ups of a cache under whose lines a patrol found nothing -/

/-- Under no line of a near-store cache has the patrol found an error (R79). -/
def SoundLines (s : State) : Prop := ∀ t, ∀ l ∈ (tow s t).lines, l.under = []

theorem drainLines_of_no_adder {s : State} (h : ∀ t, (tow s t).adder = []) (a n : Nat) : drainLines s a n = s :=
  List.foldlRecOn (motive := fun t => t = s) _ _ rfl fun t ht i _ => by
    subst ht; dsimp only; rw [h]; rfl

theorem soundLines_nsAccess {x : Tower} (h : ∀ l ∈ x.lines, l.under = []) (sets policy line : Nat) (write : Bool) :
    ∀ l ∈ (nsAccess x sets policy line write).lines, l.under = [] := by
  unfold nsAccess
  extract_lets dirtyNow set used b way
  split
  · intro l hl
    obtain ⟨y, hy, rfl⟩ := List.mem_map.mp hl
    split
    · dsimp only; rw [h y hy]; exact ite_self _
    · exact h y hy
  · split
    · exact h
    · intro l hl
      obtain hl | hl := List.mem_append.mp hl
      · exact h l (List.mem_filter.mp hl).1
      · rw [List.mem_singleton.mp hl]

/-- A look-up changes the lines and tree bits of one near-store cache alone, and a sound cache stays so. -/
theorem nsTouch_of_sound {s : State} (h : SoundLines s) (a n : Nat) (write : Bool) :
    (∃ m, nsTouch s a n write = { s with towers := m }) ∧ SoundLines (nsTouch s a n write) := by
  unfold nsTouch
  cases home s a with
  | fast k =>
    dsimp only
    split
    · have hfold : ∀ (u : State) (ls : List NsLine), (∀ l ∈ ls, l.under = []) → ls.foldl uncover u = u := fun u ls hls =>
        List.foldlRecOn (motive := fun t => t = u) ls uncover rfl fun t ht l hl => by rw [uncover_of_sound (.inr (hls l hl)), ht]
      rw [hfold _ _ fun l hl => h (k / 8) l (List.mem_filter.mp hl).1]
      refine ⟨⟨_, rfl⟩, fun t => ?_⟩
      rw [tow_setTow]
      split
      · intro l hl
        obtain ⟨z, hz, rfl⟩ := List.mem_map.mp hl
        have hz' : z.under = [] := soundLines_nsAccess (h (k / 8)) _ _ _ _ z hz
        dsimp only
        rw [hz']; rfl
      · exact h t
    · exact ⟨⟨_, rfl⟩, h⟩
  | _ => exact ⟨⟨_, rfl⟩, h⟩

/-- Between two states nothing changed that tells where an address is homed, whether its home has failed, or what it waits for
in an adder or under a line of a cache. -/
structure SameHomes (s t : State) : Prop where
  stackMap : t.stackMap = s.stackMap
  packages : t.packages = s.packages
  stackUnits : t.stackUnits = s.stackUnits
  core : ∀ k, (tow t k).core = (tow s k).core
  settled : Safety.settled s → Safety.settled t

theorem SameHomes.trans {s t u : State} (h : SameHomes s t) (g : SameHomes t u) : SameHomes s u :=
  ⟨g.stackMap.trans h.stackMap, g.packages.trans h.packages, g.stackUnits.trans h.stackUnits, fun k => (g.core k).trans (h.core k),
    fun hs => g.settled (h.settled hs)⟩

theorem SameHomes.home {s t : State} (h : SameHomes s t) (a : Nat) : home t a = home s a := by
  have hend : fastEnd t = fastEnd s := by unfold fastEnd; rw [h.stackMap]
  have hue : ∀ n, ueMapped t n = ueMapped s n := fun n => by unfold ueMapped; rw [h.packages]
  have huntrained : ∀ k, (tow t k).untrained = (tow s k).untrained := fun k => (congrArg Tower.untrained (h.core k) :)
  have hunits : ∀ k, scratchUnits t k = scratchUnits s k := fun k => (congrArg (fun x : Tower => min 6 x.scratchUnits) (h.core k) :)
  unfold Machine.home
  rw [hend, h.stackMap]
  simp only [hue, huntrained, hunits]

theorem SameHomes.failedHome {s t : State} (h : SameHomes s t) (a : Nat) : failedHome t a = failedHome s a := by
  unfold Machine.failedHome stk
  rw [h.home, h.stackUnits, h.packages]

theorem nsTouch_sameHomes {s : State} (h : Safety.settled s) (a n : Nat) (write : Bool) : SameHomes s (nsTouch s a n write) := by
  obtain ⟨⟨m, hm⟩, hsound⟩ := nsTouch_of_sound (fun t => (h t).2) a n write
  have hkeeps := nsTouch_keepsTowers s a n write
  refine ⟨by rw [hm], by rw [hm], by rw [hm], hkeeps.core, fun hs t => ⟨?_, hsound t⟩⟩
  have hadder := hkeeps.adder t
  rw [(hs t).1] at hadder
  exact List.subset_nil.mp hadder

/-! ### Reads, writes and atomics of a settled module -/

theorem poisoned_of_poison {s t : State} (h : t.poison = s.poison) (a n : Nat) : poisoned t a n = poisoned s a n := by
  unfold poisoned; rw [h]

theorem readMem_of_mem {s t : State} (h : t.mem = s.mem) (a n : Nat) : readMem t a n = readMem s a n := by
  unfold readMem; rw [h]

/-- A read within a line: the bytes memory holds, tagged where a unit is poisoned; it leaves memory. -/
theorem lineRead_settled {s : State} (h : Safety.settled s) {a : Nat} (hf : failedHome s a = false) (n : Nat) :
    (lineRead s a n).2 = (readMem s a n, poisoned s a n) ∧ (lineRead s a n).1.mem = s.mem ∧ (lineRead s a n).1.poison = s.poison
      ∧ SameHomes s (lineRead s a n).1 := by
  have hsame := nsTouch_sameHomes h a n false
  have htouch : (nsTouch s a n false).mem = s.mem ∧ (nsTouch s a n false).poison = s.poison := by
    obtain ⟨⟨m, hm⟩, -⟩ := nsTouch_of_sound (fun t => (h t).2) a n false
    rw [hm]; exact ⟨rfl, rfl⟩
  unfold lineRead
  rw [drainLines_of_no_adder fun t => (h t).1]
  dsimp only
  generalize nsTouch s a n false = u at hsame htouch
  obtain ⟨hmem, hpoison⟩ := htouch
  have hread : ∀ k, SameHomes u (poisonRead u k) := fun k => ⟨rfl, rfl, rfl, fun _ => rfl, id⟩
  rw [hsame.failedHome, if_neg (by simp [hf]), poisoned_of_poison hpoison]
  split
  next hp => exact ⟨by rw [hp], hmem, hpoison, hsame.trans (hread _)⟩
  next hp => exact ⟨by rw [Bool.eq_false_iff.mpr hp], hmem, hpoison, hsame⟩

/-- What `memRead` does with each line. -/
def readPiece (r : State × List Byte × Bool) (p : Nat × Nat) : State × List Byte × Bool :=
  ((lineRead r.1 p.1 p.2).1, r.2.1 ++ (lineRead r.1 p.1 p.2).2.1, r.2.2 || (lineRead r.1 p.1 p.2).2.2)

theorem memRead_eq (s : State) (a n : Nat) : memRead s a n = (linePieces a n).foldl readPiece (s, [], false) := rfl

/-- A read within a line is a read of that line. -/
theorem memRead_of_one_piece {a n : Nat} (h : linePieces a n = [(a, n)]) (s : State) : memRead s a n = lineRead s a n := by
  rw [memRead_eq, h, List.foldl_cons, List.foldl_nil, readPiece]
  dsimp only
  rw [List.nil_append, Bool.false_or]

theorem foldl_readPiece_settled (ps : List (Nat × Nat)) {s : State} (h : Safety.settled s) (hf : ∀ p ∈ ps, failedHome s p.1 = false)
    (bs : List Byte) (pz : Bool) :
    (ps.foldl readPiece (s, bs, pz)).2 = (bs ++ ps.flatMap fun p => readMem s p.1 p.2, pz || ps.any fun p => poisoned s p.1 p.2)
      ∧ (ps.foldl readPiece (s, bs, pz)).1.mem = s.mem := by
  induction ps generalizing s bs pz with
  | nil => exact ⟨by simp, rfl⟩
  | cons p ps ih =>
    obtain ⟨hread, hmem, hpoison, hsame⟩ := lineRead_settled h (hf p List.mem_cons_self) p.2
    have hrest := ih (hsame.settled h) (fun q hq => by rw [hsame.failedHome]; exact hf q (List.mem_cons_of_mem p hq))
      (bs ++ (lineRead s p.1 p.2).2.1) (pz || (lineRead s p.1 p.2).2.2)
    simp only [readMem_of_mem hmem, poisoned_of_poison hpoison, hread] at hrest
    rw [List.foldl_cons, readPiece, hread]
    dsimp only
    rw [hrest.1, hrest.2, List.flatMap_cons, List.any_cons, List.append_assoc, Bool.or_assoc]
    exact ⟨rfl, hmem⟩

/-- A read of at most a line's length, in units of one size. -/
theorem memRead_settled {s : State} (h : Safety.settled s) {a n : Nat} (hf : ∀ p ∈ linePieces a n, failedHome s p.1 = false) (hn : 1 ≤ n)
    (hn' : n ≤ 128) (hsize : OneUnitSize a n) : (memRead s a n).2 = (readMem s a n, poisoned s a n) ∧ (memRead s a n).1.mem = s.mem := by
  obtain ⟨hread, hmem⟩ := foldl_readPiece_settled _ h hf [] false
  refine ⟨hread.trans ?_, hmem⟩
  by_cases hone : a % 128 + n ≤ 128
  · rw [linePieces_one hn hone]; simp
  · obtain ⟨m, k, hm, hk, hline, hcut⟩ : ∃ m k, 1 ≤ m ∧ 1 ≤ k ∧ (a + m) % 128 = 0 ∧ m = 128 - a % 128 ∧ n = m + k :=
      ⟨128 - a % 128, n - (128 - a % 128), by omega⟩
    obtain ⟨hfirst, rfl⟩ := hcut
    rw [linePieces_two hn' (by omega), ← hfirst, Nat.add_sub_cancel_left, readMem_add, poisoned_add (hsize.mid hk hn') hline hm hk]
    simp

/-- A write within a line. -/
theorem lineWrite_settled {s : State} (h : Safety.settled s) {a : Nat} (hf : failedHome s a = false) (bs : List Byte) (tag : Bool) :
    (lineWrite s a bs tag).2 = 0 ∧ (lineWrite s a bs tag).1.mem = cellsPut s.mem a bs
      ∧ (lineWrite s a bs tag).1.poison = poisonAfter s.poison a bs.length tag ∧ SameHomes s (lineWrite s a bs tag).1 := by
  have hwrite : SameHomes s (writeMem s a bs tag) := ⟨rfl, rfl, rfl, fun _ => rfl, id⟩
  rw [lineWrite_eq, drainLines_of_no_adder fun t => (h t).1, if_neg (by simp [hf])]
  have hsame := nsTouch_sameHomes (hwrite.settled h) a bs.length true
  obtain ⟨⟨m, hm⟩, -⟩ := nsTouch_of_sound (fun t => (hwrite.settled h t).2) a bs.length true
  refine ⟨rfl, ?_, ?_, hwrite.trans hsame⟩ <;> rw [hm] <;> rfl

/-- What `memWrite` of bytes `bs` at `a` does with each line. -/
def writePiece (a : Nat) (bs : List Byte) (tag : Bool) (r : State × Nat) (p : Nat × Nat) : State × Nat :=
  let x := lineWrite r.1 p.1 ((bs.drop (p.1 - a)).take p.2) tag
  (x.1, if x.2 = 0 then r.2 else x.2)

theorem memWrite_eq (s : State) (a : Nat) (bs : List Byte) (tag : Bool) :
    memWrite s a bs tag = (linePieces a bs.length).foldl (writePiece a bs tag) (s, 0) := rfl

theorem writePiece_settled {r : State × Nat} (h : Safety.settled r.1) {a m k : Nat} (hf : failedHome r.1 (a + m) = false) {bs cs : List Byte}
    (hcs : (bs.drop m).take k = cs) (tag : Bool) :
    let t := writePiece a bs tag r (a + m, k)
    t.2 = r.2 ∧ t.1.mem = cellsPut r.1.mem (a + m) cs ∧ t.1.poison = poisonAfter r.1.poison (a + m) cs.length tag ∧ SameHomes r.1 t.1 := by
  obtain ⟨hst, hmem, hpoison, hsame⟩ := lineWrite_settled h hf cs tag
  unfold writePiece
  dsimp only
  rw [Nat.add_sub_cancel_left, hcs]
  exact ⟨if_pos hst, hmem, hpoison, hsame⟩

/-- A write of at most a line's length, in units of one size. -/
theorem memWrite_settled {s : State} (h : Safety.settled s) {a : Nat} {bs : List Byte} (hf : ∀ p ∈ linePieces a bs.length, failedHome s p.1 = false)
    (hn : 1 ≤ bs.length) (hn' : bs.length ≤ 128) (hsize : OneUnitSize a bs.length) (tag : Bool) :
    (memWrite s a bs tag).2 = 0 ∧ (memWrite s a bs tag).1.mem = cellsPut s.mem a bs
      ∧ (memWrite s a bs tag).1.poison = poisonAfter s.poison a bs.length tag := by
  rw [memWrite_eq]
  by_cases hone : a % 128 + bs.length ≤ 128
  · rw [linePieces_one hn hone] at hf ⊢
    have hfa : failedHome s (a + 0) = false := hf (a, bs.length) List.mem_cons_self
    obtain ⟨hst, hmem, hpoison, -⟩ := writePiece_settled (r := (s, 0)) h hfa (List.take_length (l := bs)) tag
    rw [Nat.add_zero] at hst hmem hpoison
    rw [List.foldl_cons, List.foldl_nil]
    exact ⟨hst, hmem, hpoison⟩
  · obtain ⟨m, hm, hline, hfirst, hlt⟩ : ∃ m, 1 ≤ m ∧ (a + m) % 128 = 0 ∧ m = 128 - a % 128 ∧ m < bs.length := ⟨128 - a % 128, by omega⟩
    rw [linePieces_two hn' (by omega), ← hfirst] at hf ⊢
    have hall : m + (bs.length - m) = bs.length := by omega
    have hrest : 1 ≤ bs.length - m := by omega
    have hmid : unitSize (a + m) = unitSize a := OneUnitSize.mid (k := bs.length - m) (by rwa [hall]) hrest (by omega)
    have hfa : failedHome s (a + 0) = false := hf (a, m) List.mem_cons_self
    have hfb : failedHome s (a + m) = false := hf (a + m, bs.length - m) (List.mem_cons_of_mem _ List.mem_cons_self)
    have hdrop : (bs.drop m).length = bs.length - m := List.length_drop ..
    obtain ⟨hst, hmem, hpoison, hsame⟩ := writePiece_settled (r := (s, 0)) (bs := bs) (k := m) h hfa rfl tag
    rw [Nat.add_zero] at hst hmem hpoison hsame
    rw [List.foldl_cons, List.foldl_cons, List.foldl_nil]
    generalize writePiece a bs tag (s, 0) (a, m) = r at hst hmem hpoison hsame ⊢
    obtain ⟨hst', hmem', hpoison', -⟩ := writePiece_settled (a := a) (m := m) (bs := bs) (k := bs.length - m) (hsame.settled h) (by rw [hsame.failedHome, hfb])
      (by rw [← hdrop, List.take_length]) tag
    have htake : ((bs.drop 0).take m).length = m := List.length_take_of_le hlt.le
    refine ⟨hst'.trans hst, ?_, ?_⟩
    · have happend := cellsPut_append s.mem a (bs.take m) (bs.drop m)
      rw [List.take_append_drop] at happend
      rw [hmem', hmem, happend, List.length_take_of_le hlt.le]
      rfl
    · rw [hpoison', hpoison, htake, hdrop, ← poisonAfter_add hmid hline hm hrest, hall]

/-- A write within a line to a failed stack or package is not applied (R72, R76). -/
theorem memWrite_failed {s : State} (h : Safety.settled s) {a : Nat} (hf : failedHome s a = true) {bs : List Byte}
    (hone : linePieces a bs.length = [(a, bs.length)]) (tag : Bool) : memWrite s a bs tag = (failedWrite s a, 9) := by
  rw [memWrite_eq, hone, List.foldl_cons, List.foldl_nil, writePiece]
  dsimp only
  rw [Nat.sub_self, List.drop_zero, List.take_length, lineWrite_eq, drainLines_of_no_adder fun t => (h t).1, if_pos hf]
  rfl

/-- One atomic at a target that has not failed. -/
theorem memAtomic_settled {s : State} (h : Safety.settled s) {a : Nat} (hf : failedHome s a = false) (n op x y : Nat) (tag : Bool) :
    (memAtomic s a n op [(x, y, tag)]).1.mem = cellsPut s.mem a (leBytes n (atomOp op (8 * n) (readNat s a n) x y).1)
      ∧ (memAtomic s a n op [(x, y, tag)]).2 = (if poisoned s a n then 8 else 0, [(readNat s a n, poisoned s a n)]) := by
  unfold memAtomic
  rw [drainLines_of_no_adder fun t => (h t).1, if_neg (by simp [hf])]
  simp only [List.foldl_cons, List.foldl_nil, List.nil_append, Nat.zero_add, and_true]
  generalize hr : (if poisoned s a n then poisonRead _ _ else _ : State) = r
  have hmem : r.mem = s.mem := by rw [← hr]; split <;> rfl
  have hsound : SoundLines r := fun t => by
    have htow : tow r t = tow s t := by rw [← hr]; split <;> rfl
    rw [htow]; exact (h t).2
  obtain ⟨⟨m, hm⟩, -⟩ := nsTouch_of_sound (s := writeNat r a n (atomOp op (8 * n) (readNat s a n) x y).1 (poisoned s a n || tag)) hsound a n true
  rw [hm, ← hmem]
  rfl

/-- Accumulate-writes that are applied leave the lines of the near-store caches. -/
theorem drainLines_lines (s : State) (a n k : Nat) : (tow (drainLines s a n) k).lines = (tow s k).lines :=
  List.foldlRecOn (motive := fun t => (tow t k).lines = (tow s k).lines) _ _ rfl fun t ht i _ => by
    dsimp only
    split
    · rw [tow, (foldl_accwLine_leaves _ _).1, ← tow, tow_setTow]
      split
      next hi => subst hi; exact ht
      next => exact ht
    · exact ht

/-- A read within a line observes the accumulate-writes that are acknowledged for it (R392). -/
theorem lineRead_drains {s : State} (h : SoundLines s) (a n : Nat) :
    (lineRead s a n).1.mem = (drainLines s a n).mem ∧ (lineRead s a n).2.1 = readMem (drainLines s a n) a n := by
  have hsound : SoundLines (drainLines s a n) := fun k => by rw [drainLines_lines]; exact h k
  unfold lineRead
  dsimp only
  generalize drainLines s a n = u at hsound ⊢
  obtain ⟨⟨m, hm⟩, -⟩ := nsTouch_of_sound hsound a n false
  rw [hm]
  split
  · obtain ⟨p, r, w, he⟩ := poisonError_eq { u with towers := m } (home u a).unit a
    rw [he]; exact ⟨rfl, rfl⟩
  · split <;> exact ⟨rfl, rfl⟩

/-! ### Transactions -/

/-- A transaction that passes its checks, of memory of the module, and need not wait. -/
structure Lands (s : State) (x : Xact) : Prop where
  alive : alive s = true
  way : flight s x.iss x.addr = .free
  status : accessStatus s x.iss x.kind x.addr x.size = 0
  here : localMemory s x.addr = true
  ready : waits s x.addr = false

theorem readErrs_nil (s : State) (a : Nat) : readErrs s a [] = s := rfl

/-- Such a transaction is performed. -/
theorem Lands.exec {s : State} {x : Xact} (h : Lands s x) : Machine.exec (.memoryAccess x []) s = .next (perform s x true) := by
  obtain ⟨halive, hway, hst, hhere, hready⟩ := h
  have hwait : performOrWait s { x } = perform s x true := by
    unfold performOrWait
    dsimp only
    split
    · rw [hready]; rfl
    · rfl
  change execMemoryAccess x [] s = _
  unfold execMemoryAccess access
  rw [if_neg (by simp [halive]), hway]
  simp only [onWay, hst, readErrs_nil, ite_self, hwait]
  unfold localMemory at hhere
  split at hhere <;> simp_all

/-- The completion of a transaction that is performed, as the last of all. -/
theorem perform_load_last {s : State} {x : Xact} (h : x.kind = .load ∨ x.kind = .fetch) :
    (perform s x true).mem = (memRead s x.addr x.size).1.mem
      ∧ (perform s x true).completions.getLast? = some
        { tag := x.tag, status := if (memRead s x.addr x.size).2.2 then 8 else 0
          data := (memRead s x.addr x.size).2.1, poison := (memRead s x.addr x.size).2.2 } := by
  have hfault : ∀ (s : State) p, (coreFault s x p).mem = s.mem ∧ (coreFault s x p).completions = s.completions := by
    intro s p; unfold coreFault; split <;> exact ⟨rfl, rfl⟩
  unfold perform
  obtain h | h := h <;> rw [h] <;> dsimp only
  · rw [if_pos rfl, (hfault _ _).1, (hfault _ _).2]
    exact ⟨rfl, List.getLast?_concat⟩
  · exact ⟨rfl, List.getLast?_concat⟩

theorem perform_store {s : State} {x : Xact} (h : x.kind = .store ∨ x.kind = .flagStore) (hdata : x.data.length = x.size) :
    perform s x true = complete (memWrite s x.addr x.data x.poison).1 x.tag (memWrite s x.addr x.data x.poison).2 := by
  have hpad : padTo x.size x.data = x.data := by
    rw [padTo, hdata, Nat.sub_self, List.replicate_zero, List.append_nil, ← hdata, List.take_length]
  unfold perform
  obtain h | h := h <;> rw [h, hpad] <;> rfl

/-- The answer to an atomic: its status and, where it is wanted, the old value. -/
def answerAtomic (x : Xact) (ret : Bool) (r : State × Nat × List (Nat × Bool)) : State :=
  complete r.1 x.tag r.2.1 (if ret then leBytes x.size (r.2.2.headD (0, false)).1 else []) (ret && (r.2.2.headD (0, false)).2)

theorem perform_atomic {s : State} {x : Xact} {op : Nat} {ret : Bool} (h : x.kind = .atom op ret) :
    perform s x true = answerAtomic x ret
      (memAtomic s x.addr x.size op [(leNat (x.data.take x.size), leNat ((x.data.drop x.size).take x.size), x.poison)]) := by
  unfold perform
  rw [h]
  rfl

theorem exec_memoryAccess {s : State} (x : Xact) (errs : List (Nat × Nat)) (h : alive s = true) :
    Machine.exec (.memoryAccess x errs) s =
      .next (onWay (flight s x.iss x.addr) s (fun s => access s x errs) (fun s => accessUnheard s x) fun s st => complete s x.tag st) := by
  change execMemoryAccess x errs s = _
  unfold execMemoryAccess
  rw [if_neg (by simp [h])]

section
variable {s : State} {x : Xact}

/-- A check that refuses an access completes it with its status, and nothing is touched (R54). -/
theorem access_refused (errs : List (Nat × Nat)) (hlive : alive s = true) (hway : flight s x.iss x.addr = .free)
    (hst : accessStatus s x.iss x.kind x.addr x.size ≠ 0) :
    ∃ t, Machine.exec (.memoryAccess x errs) s = .next t ∧ t = { s with completions := t.completions }
      ∧ t.completions.length = s.completions.length + 1
      ∧ t.completions.getLast?.map (fun c => (c.tag, c.status)) = some (x.tag, accessStatus s x.iss x.kind x.addr x.size) := by
  have hrun : ∃ data, access s x errs = complete s x.tag (accessStatus s x.iss x.kind x.addr x.size) data := ⟨_, if_pos hst⟩
  obtain ⟨data, hdata⟩ := hrun
  rw [exec_memoryAccess x errs hlive, hway]
  refine ⟨_, rfl, ?_⟩
  simp only [onWay, hdata]
  exact ⟨rfl, List.length_append, by rw [complete, List.getLast?_concat]; rfl⟩

/-- A transaction that a tower reset meets in a relay is lost, applied or not (R48). -/
theorem access_lost (errs : List (Nat × Nat)) (hlive : alive s = true) (hway : flight s x.iss x.addr = .lost) :
    ∃ t, Machine.exec (.memoryAccess x errs) s = .next t
      ∧ t.completions.getLast?.map (fun c => (c.tag, c.status)) = some (x.tag, 2) := by
  rw [exec_memoryAccess x errs hlive, hway]
  refine ⟨_, rfl, ?_⟩
  rw [onWay, complete, List.getLast?_concat]
  rfl

/-- An access to a stack that is excluded waits there (R70). -/
theorem access_waits {st : Nat} (hlive : alive s = true) (hway : flight s x.iss x.addr = .free) (hhome : home s x.addr = .fast st)
    (hwait : waits s x.addr = true) (hst : accessStatus s x.iss x.kind x.addr x.size = 0) :
    Machine.exec (.memoryAccess x []) s = .next (setStk s st { stk s st with waiting := (stk s st).waiting ++ [{ x }] }) := by
  rw [exec_memoryAccess x [] hlive, hway]
  simp [onWay, access, hst, hhome, readErrs_nil, performOrWait, hwait]

/-- A load or fetch returns the bytes memory holds, tagged where a unit is poisoned (R72, R82). -/
theorem Lands.load (h : Lands s x) (hkind : x.kind = .load ∨ x.kind = .fetch) (hf : ∀ p ∈ linePieces x.addr x.size, failedHome s p.1 = false)
    (hn : 1 ≤ x.size) (hn' : x.size ≤ 128) (hsize : OneUnitSize x.addr x.size) (hs : Safety.settled s) :
    ∃ t, Machine.exec (.memoryAccess x []) s = .next t ∧ t.mem = s.mem
      ∧ t.completions.getLast? = some { tag := x.tag, data := readMem s x.addr x.size, poison := poisoned s x.addr x.size
                                        status := if poisoned s x.addr x.size then 8 else 0 } := by
  obtain ⟨hmem, hlast⟩ := perform_load_last (s := s) hkind
  obtain ⟨hread, hkeeps⟩ := memRead_settled hs hf hn hn' hsize
  rw [hread] at hlast
  exact ⟨_, h.exec, hmem.trans hkeeps, hlast⟩

/-- A load within a line observes the accumulate-writes acknowledged for it (R392). -/
theorem Lands.load_drains (h : Lands s x) (hkind : x.kind = .load ∨ x.kind = .fetch) (hone : linePieces x.addr x.size = [(x.addr, x.size)])
    (hsound : SoundLines s) :
    ∃ t, Machine.exec (.memoryAccess x []) s = .next t ∧ t.mem = (drainLines s x.addr x.size).mem
      ∧ t.completions.getLast?.map (·.data) = some (readMem (drainLines s x.addr x.size) x.addr x.size) := by
  obtain ⟨hmem, hlast⟩ := perform_load_last (s := s) hkind
  obtain ⟨hkeeps, hdata⟩ := lineRead_drains hsound x.addr x.size
  rw [memRead_of_one_piece hone] at hmem hlast
  exact ⟨_, h.exec, hmem.trans hkeeps, by rw [hlast, Option.map_some, hdata]⟩

/-- A store's bytes read back, and every other byte is as before (R82). -/
theorem Lands.store (h : Lands s x) (hkind : x.kind = .store ∨ x.kind = .flagStore) (hdata : x.data.length = x.size)
    (hf : ∀ p ∈ linePieces x.addr x.size, failedHome s p.1 = false) (hn : 1 ≤ x.size) (hn' : x.size ≤ 128)
    (hsize : OneUnitSize x.addr x.size) (hs : Safety.settled s) (hwf : Memory.wf s.mem = true) :
    ∃ t, Machine.exec (.memoryAccess x []) s = .next t ∧ readMem t x.addr x.size = x.data
      ∧ Safety.sameBytesBut s t x.addr x.size ∧ t.poison = poisonAfter s.poison x.addr x.size x.poison
      ∧ t.completions.getLast? = some { tag := x.tag, status := 0 } := by
  rw [← hdata] at hf hn hn' hsize ⊢
  obtain ⟨hst, hmem, hpoison⟩ := memWrite_settled hs hf hn hn' hsize x.poison
  refine ⟨_, h.exec, ?_⟩
  rw [perform_store hkind hdata, hst]
  have hbytes : ∀ a n, readMem (complete (memWrite s x.addr x.data x.poison).1 x.tag 0) a n = readMem (writeMem s x.addr x.data x.poison) a n :=
    fun a n => readMem_of_mem hmem a n
  refine ⟨by rw [hbytes, readMem_writeMem hwf], fun b hb => ?_, hpoison, List.getLast?_concat⟩
  rw [hbytes, readMem_writeMem_outside hwf x.addr x.data x.poison b hb]

/-- A store to a failed stack or package is not applied (R72, R76). -/
theorem Lands.store_failed (h : Lands s x) (hkind : x.kind = .store ∨ x.kind = .flagStore) (hdata : x.data.length = x.size)
    (hone : linePieces x.addr x.size = [(x.addr, x.size)]) (hf : failedHome s x.addr = true) (hs : Safety.settled s) :
    ∃ t, Machine.exec (.memoryAccess x []) s = .next t ∧ t.mem = s.mem ∧ t.completions.getLast? = some { tag := x.tag, status := 9 } := by
  refine ⟨_, h.exec, ?_⟩
  rw [← hdata] at hone
  rw [perform_store hkind hdata, memWrite_failed hs hf hone]
  refine ⟨?_, List.getLast?_concat⟩
  change (pitEvent s 0x0203 _ 9 x.addr).mem = s.mem
  rw [pitEvent_eq]

/-- An atomic returns the old value and writes the new one (R118). -/
theorem Lands.atomic {op : Nat} {ret : Bool} (h : Lands s x) (hf : failedHome s x.addr = false) (hkind : x.kind = .atom op ret)
    (hs : Safety.settled s) (hwf : Memory.wf s.mem = true) :
    ∃ t, Machine.exec (.memoryAccess x []) s = .next t
      ∧ readNat t x.addr x.size = (atomOp op (8 * x.size) (readNat s x.addr x.size) (leNat (x.data.take x.size))
          (leNat ((x.data.drop x.size).take x.size))).1 % 256 ^ x.size
      ∧ Safety.sameBytesBut s t x.addr x.size
      ∧ t.completions.getLast?.map (fun c => (c.tag, c.status, c.data)) = some (x.tag, if poisoned s x.addr x.size then 8 else 0,
          if ret then leBytes x.size (readNat s x.addr x.size) else []) := by
  refine ⟨_, h.exec, ?_⟩
  rw [perform_atomic hkind]
  obtain ⟨hmem, hans⟩ := memAtomic_settled hs hf x.size op (leNat (x.data.take x.size)) (leNat ((x.data.drop x.size).take x.size)) x.poison
  generalize memAtomic s x.addr x.size op _ = r at hmem hans ⊢
  generalize (atomOp op (8 * x.size) (readNat s x.addr x.size) (leNat (x.data.take x.size)) (leNat ((x.data.drop x.size).take x.size))).1 = v at hmem ⊢
  have hread : ∀ a n, readMem (answerAtomic x ret r) a n = readMem (writeNat s x.addr x.size v) a n :=
    readMem_of_mem (s := writeNat s x.addr x.size v) hmem
  refine ⟨?_, fun b hb => ?_, ?_⟩
  · rw [readNat, hread]; exact readNat_writeNat hwf ..
  · rw [hread]; exact readMem_writeMem_outside hwf _ _ _ _ (by rwa [leBytes_length])
  · rw [answerAtomic, complete, List.getLast?_concat, hans]; rfl

end

/-! ### Where units of two sizes meet -/

/-- A booted module whose stack map lists 192 stacks, where R68 knows 32 at most: the fast tier ends where shared local memory
begins. The second 8 B word of shared local memory is poisoned. -/
def tallFastTier : State :=
  { boot := { phase := .booted }, stackMap := List.replicate 192 0, poison := [2 ^ 48 + slmBase / 8 + 1] }

/-- A core's load of the last 64 B unit of that fast tier and of the first eight words of shared local memory. -/
def loadAcrossTiers : Xact := { tag := 0, iss := { kind := .core, unit := 0 }, kind := .load, addr := slmBase - 64, size := 128 }

theorem loadAcrossTiers_lands : Lands tallFastTier loadAcrossTiers := ⟨rfl, rfl, by decide +kernel, by decide +kernel, by decide +kernel⟩

theorem loadAcrossTiers_whole : ∀ p ∈ linePieces loadAcrossTiers.addr loadAcrossTiers.size, failedHome tallFastTier p.1 = false := by
  decide +kernel

/-- Line by line the load meets the poisoned word. -/
theorem memRead_loadAcrossTiers : (memRead tallFastTier loadAcrossTiers.addr loadAcrossTiers.size).2.2 = true := by decide +kernel

/-- Measured as a whole, in the 64 B units of its first byte, the load meets of the first eight words their first alone. -/
theorem poisoned_loadAcrossTiers : poisoned tallFastTier loadAcrossTiers.addr loadAcrossTiers.size = false := by decide +kernel

/-- Refutes O9: a load across the end of a fast tier of 192 stacks, into shared local memory, is tagged as poisoned by its second
line, where `poisoned` of the whole access, which takes the size of its units from the first byte, is false. The statement bounds
no stack map. Of an access in units of one size its load and store clauses hold (`Lands.load`, `Lands.store`), and its other
clauses of every access (`access_refused`, `Lands.load_drains`, `Lands.atomic`, `Lands.store_failed`, `access_waits`, `access_lost`). -/
theorem not_memoryTransactions : ¬ Obligations.MemoryTransactions := by
  unfold Obligations.MemoryTransactions
  rintro ⟨-, hload, -⟩
  obtain ⟨halive, hway, hst, hhere, hready⟩ := loadAcrossTiers_lands
  obtain ⟨t, hexec, -, hlast⟩ := hload tallFastTier loadAcrossTiers ⟨⟨halive, hway⟩, hst, hhere, hready, rfl, by decide, by decide⟩
    loadAcrossTiers_whole (.inl rfl) fun _ => ⟨rfl, nofun⟩
  have ht : perform tallFastTier loadAcrossTiers true = t := Host.Outcome.next.inj (loadAcrossTiers_lands.exec.symm.trans hexec)
  have htag := (perform_load_last (s := tallFastTier) (x := loadAcrossTiers) (.inl rfl)).2
  rw [ht] at htag
  have hpoison := (Completion.mk.inj (Option.some.inj (htag.symm.trans hlast))).2.2.2
  rw [memRead_loadAcrossTiers, poisoned_loadAcrossTiers] at hpoison
  exact Bool.false_ne_true hpoison.symm

end Sys2Proof.Machine
end

section
/-! Accumulate-writes at the store die (R62 to R66, R113): a request at its target, and one that is applied, element by element. -/
namespace Sys2Proof.Machine
open Sys2Proof

/-! ### Values of memory -/

/-- A value is read alike where its bytes are. -/
theorem readNat_congr {s t : State} {a n : Nat} (h : ∀ x, a ≤ x → x < a + n → cellGet t.mem x = cellGet s.mem x) :
    readNat t a n = readNat s a n := by
  unfold readNat readMem
  congr 1
  refine List.map_congr_left fun i hi => h _ (Nat.le_add_right a i) ?_
  rw [List.mem_range] at hi
  omega

/-! ### One guarded unit -/

theorem unitSize_of_not_inSlm {a : Nat} (h : inSlm a = false) : unitSize a = 64 := by rw [unitSize_eq, h]; rfl

/-- A whole guarded unit is poisoned where its number is listed. -/
theorem poisoned_unit (s : State) {f : Nat} (h : f % unitSize f = 0) : poisoned s f (unitSize f) = s.poison.contains (unitOf f).2.2 := by
  have hw := unitSize_cases f
  have hone : (f + unitSize f - 1) / unitSize f - f / unitSize f + 1 = 1 := by
    generalize unitSize f = w at h hw
    rcases hw with rfl | rfl <;> omega
  unfold poisoned
  rw [unitsOf_eq (by omega), hone, List.range_one, List.map_singleton, List.any_cons, List.any_nil, Bool.or_false, Nat.add_zero,
    unitNo, Nat.div_mul_cancel (Nat.dvd_of_mod_eq_zero h)]

/-! ### The addition -/

/-- What the adder does with element `i` of an accumulate-write (R63). -/
def accwElem (w : AccWrite) (r : State × Nat) (i : Nat) : State × Nat :=
  if w.mask.getLsbD i then
    let a := w.addr + 4 * i
    let x := accwAdd w.int (readNat r.1 a 4) (w.data.getD i 0#32).toNat
    ({ r.1 with mem := cellsPut r.1.mem a (leBytes 4 x.1) }, r.2 + b2n x.2)
  else r

/-- The units that the elements of an accumulate-write reach. -/
def accwUnits (w : AccWrite) : List Nat :=
  ((List.range 32).filter fun i => w.mask.getLsbD i).map fun i => (w.addr + 4 * i) / 64

theorem accwLine_mem (s : State) (w : AccWrite) : (accwLine s w).mem = ((List.range 32).foldl (accwElem w) (s, 0)).1.mem := by
  unfold accwLine
  extract_lets f r hit _ s'
  split <;> rfl

/-- Element `i` after the addition of the first elements: the sum where the mask names it (R63). -/
def accwSum (s : State) (w : AccWrite) (i : Nat) : Nat :=
  if w.mask.getLsbD i then (accwAdd w.int (readNat s (w.addr + 4 * i) 4) (w.data.getD i 0#32).toNat).1 % 2 ^ 32
  else readNat s (w.addr + 4 * i) 4

/-- Of an accumulate-write the first `n` elements have been added, and nothing else in memory changed. -/
structure AddsFirst (s : State) (w : AccWrite) (n : Nat) (t : State) : Prop where
  wf : Memory.wf t.mem = true
  sums : ∀ e, e < n → readNat t (w.addr + 4 * e) 4 = accwSum s w e
  rest : ∀ x, x < w.addr ∨ w.addr + 4 * n ≤ x → cellGet t.mem x = cellGet s.mem x
  poison : t.poison = s.poison

theorem AddsFirst.elem {s : State} {w : AccWrite} {n : Nat} {r : State × Nat} (h : AddsFirst s w n r.1) :
    AddsFirst s w (n + 1) (accwElem w r n).1 := by
  have hkept : readNat r.1 (w.addr + 4 * n) 4 = readNat s (w.addr + 4 * n) 4 := readNat_congr fun x hx _ => h.rest x (.inr hx)
  unfold accwElem
  split
  next hmask =>
    have hsum := readNat_writeNat h.wf (w.addr + 4 * n) 4 (accwAdd w.int (readNat r.1 (w.addr + 4 * n) 4) (w.data.getD n 0#32).toNat).1 false
    have hout : ∀ x, x < w.addr + 4 * n ∨ w.addr + 4 * (n + 1) ≤ x → cellGet (cellsPut r.1.mem (w.addr + 4 * n)
        (leBytes 4 (accwAdd w.int (readNat r.1 (w.addr + 4 * n) 4) (w.data.getD n 0#32).toNat).1)) x = cellGet r.1.mem x := fun x hx => by
      rw [cellGet_cellsPut h.wf, leBytes_length, if_neg (by omega)]
    refine ⟨cellsPut_wf h.wf _ _, fun e he => ?_, fun x hx => ?_, h.poison⟩
    · rcases Nat.lt_succ_iff_lt_or_eq.mp he with he | rfl
      · rw [← h.sums e he]
        exact readNat_congr fun x _ hx => hout x (.inl (by omega))
      · rw [accwSum, if_pos hmask, ← hkept]
        exact hsum
    · rw [← h.rest x (by omega)]
      exact hout x (by omega)
  next hmask =>
    refine ⟨h.wf, fun e he => ?_, fun x hx => h.rest x (by omega), h.poison⟩
    rcases Nat.lt_succ_iff_lt_or_eq.mp he with he | rfl
    · exact h.sums e he
    · rw [accwSum, if_neg hmask, hkept]

theorem addsFirst_foldl {s : State} (h : Memory.wf s.mem = true) (w : AccWrite) (n : Nat) :
    AddsFirst s w n ((List.range n).foldl (accwElem w) (s, 0)).1 := by
  induction n with
  | zero => exact ⟨h, fun _ he => absurd he (Nat.not_lt_zero _), fun _ _ => rfl, rfl⟩
  | succ n ih =>
    rw [List.range_succ, List.foldl_append, List.foldl_cons, List.foldl_nil]
    exact ih.elem

/-- An accumulate-write is applied (R63): each element its mask names holds the sum, and every byte beside its line is as before. -/
theorem accwLine_sums {s : State} (h : Memory.wf s.mem = true) (w : AccWrite) :
    (∀ e, e < 32 → readNat (accwLine s w) (w.addr + 4 * e) 4 = accwSum s w e) ∧ Safety.sameBytesBut s (accwLine s w) w.addr 128 := by
  have hall := addsFirst_foldl h w 32
  refine ⟨fun e he => ?_, fun b hb => ?_⟩
  · rw [← hall.sums e he, readNat, readNat, readMem_of_mem (accwLine_mem s w)]
  · rw [readMem_one, readMem_one, accwLine_mem, hall.rest b hb]

/-- The poison that an accumulate-write leaves (R66). -/
theorem accwLine_poison {s : State} (h : Memory.wf s.mem = true) (w : AccWrite) :
    (accwLine s w).poison = if w.poison then (accwUnits w).foldl addOnce s.poison else s.poison := by
  have hkept : ((List.range 32).foldl (accwElem w) (s, 0)).1.poison = s.poison := (addsFirst_foldl h w 32).poison
  rw [accwUnits, List.foldl_map, ← hkept]
  unfold accwLine
  extract_lets f r hit _ s'
  split <;> rfl

/-- `ACCW_APPLY` of an accumulate-write that waits at place `i` of its tower's adder (R64). -/
theorem exec_accwApply {s : State} {tw i : Nat} {w : AccWrite} (h : (tow s tw).adder[i]? = some w) :
    Machine.exec (.accwApply tw i) s = .next (accwLine (setTow s tw { tow s tw with adder := (tow s tw).adder.eraseIdx i }) w) := by
  change execAccwApply tw i s = _
  unfold execAccwApply
  rw [h]

theorem accwSum_of_mem {s t : State} (h : t.mem = s.mem) (w : AccWrite) (e : Nat) : accwSum t w e = accwSum s w e := by
  unfold accwSum readNat
  rw [readMem_of_mem h]

theorem accwApply_steps {s : State} {tw i : Nat} {w : AccWrite} (h : (tow s tw).adder[i]? = some w) (hwf : Memory.wf s.mem = true) :
    ∃ t, Machine.exec (.accwApply tw i) s = .next t ∧ (tow t tw).adder = (tow s tw).adder.eraseIdx i
      ∧ (∀ e, e < 32 → readNat t (w.addr + 4 * e) 4 = accwSum s w e)
      ∧ Safety.sameBytesBut s t w.addr 128
      ∧ t.poison = if w.poison then (accwUnits w).foldl addOnce s.poison else s.poison := by
  refine ⟨_, exec_accwApply h, ?_, ?_⟩
  · rw [tow, (accwLine_leaves _ _).1, ← tow, tow_setTow_self]
  · generalize hu : setTow s tw { tow s tw with adder := (tow s tw).adder.eraseIdx i } = u
    have hmem : u.mem = s.mem := by rw [← hu]; rfl
    have hpoison : u.poison = s.poison := by rw [← hu]; rfl
    rw [← hmem] at hwf
    obtain ⟨hsums, hrest⟩ := accwLine_sums hwf w
    refine ⟨fun e he => (hsums e he).trans (accwSum_of_mem hmem w e), fun b hb => (hrest b hb).trans (readMem_of_mem hmem _ _), ?_⟩
    rw [accwLine_poison hwf, hpoison]

/-! ### The request -/

theorem exec_accwRequest {s : State} {a : AccWrite} (halive : alive s = true) (hway : flight s a.iss a.addr = .free) :
    Machine.exec (.accwRequest a) s = .next (complete (accwFrom s a).1 a.tag (accwFrom s a).2) := by
  change execAccwRequest a s = _
  unfold execAccwRequest
  rw [if_neg (by simp [halive]), hway]
  rfl

/-- The checks of R62 pass: the accumulate-write joins the adder queue of its tower. -/
theorem accw_accepted {s : State} {a : AccWrite} {tw : Nat} (h : accwStatus s a.iss a.addr = 0) (hhome : home s a.addr = .scratch tw) :
    accw s a = (setTow s tw { tow s tw with adder := (tow s tw).adder ++ [a] }, 0) := by
  unfold accw
  rw [h, hhome]
  rfl

theorem accw_refused {s : State} {a : AccWrite} (h : accwStatus s a.iss a.addr ≠ 0) : accw s a = (s, accwStatus s a.iss a.addr) := if_pos h

theorem accwFrom_refused {s : State} {a : AccWrite} (h : accwStatus s a.iss a.addr ≠ 0) : accwFrom s a = (s, accwStatus s a.iss a.addr) := by
  unfold accwFrom
  rw [accw_refused h]
  exact Prod.ext (if_neg fun hc => h hc.2) rfl

/-- The engine's own copy of the line is dropped where a crew issued the accumulate-write (R113). -/
theorem accwFrom_accepted {s : State} {a : AccWrite} {tw : Nat} (h : accwStatus s a.iss a.addr = 0) (hhome : home s a.addr = .scratch tw) :
    (accwFrom s a).2 = 0 ∧ (tow (accwFrom s a).1 tw).adder = (tow s tw).adder ++ [a] ∧ (accwFrom s a).1.mem = s.mem
      ∧ (a.iss.kind = .crew → ∀ l ∈ (clu (accwFrom s a).1 a.iss.unit).l1, l.line ≠ a.addr / 128) := by
  unfold accwFrom
  rw [accw_accepted h hhome]
  dsimp only
  split
  next hcrew =>
    refine ⟨rfl, congrArg Tower.adder (tow_setTow_self s tw _), rfl, fun _ l hl => ?_⟩
    rw [clu_setClu_self] at hl
    simpa using (List.mem_filter.mp hl).2
  next hcrew => exact ⟨rfl, congrArg Tower.adder (tow_setTow_self s tw _), rfl, fun hc => absurd ⟨hc, rfl⟩ hcrew⟩

/-- Settles O10: the request is its checks and its place in the adder's queue; an applied one is added element by element. -/
theorem accumulateWrites : Obligations.AccumulateWrites := by
  unfold Obligations.AccumulateWrites
  refine ⟨fun s a tw halive hway hst hhome => ?_, fun s a halive hway hst => ?_, fun s tw i w hi hwf => ?_⟩
  · obtain ⟨hok, hadder, hmem, hl1⟩ := accwFrom_accepted hst hhome
    refine ⟨_, exec_accwRequest halive hway, hadder, hmem, ?_, hl1⟩
    rw [hok, complete, List.getLast?_concat]
    rfl
  · refine ⟨_, exec_accwRequest halive hway, ?_⟩
    rw [accwFrom_refused hst, complete, List.getLast?_concat]
    exact ⟨rfl, rfl, rfl⟩
  · obtain ⟨t, hexec, hadder, hsums, hrest, -⟩ := accwApply_steps hi hwf
    exact ⟨t, hexec, hadder, hsums, hrest⟩

/-! ### Poison of accumulate-writes -/

/-- Settles O56: the addition asks for no tag, and the tag of the data joins the units that its elements reach. -/
theorem accumulateWritesAndPoison : Obligations.AccumulateWritesAndPoison := by
  unfold Obligations.AccumulateWritesAndPoison
  intro s tw i e w hi he hmask hwf hslm hline
  obtain ⟨t, hexec, -, hsums, -, hpoison⟩ := accwApply_steps hi hwf
  have hbase : inSlm ((w.addr + 4 * e) / 64 * 64) = false := by
    rw [Bool.eq_false_iff, ne_eq, inSlm_iff] at hslm ⊢
    unfold slmBase slmEnd at hslm ⊢
    omega
  have hunit : ∀ s : State, poisoned s ((w.addr + 4 * e) / 64 * 64) 64 = s.poison.contains ((w.addr + 4 * e) / 64) := fun s => by
    have h := poisoned_unit s (f := (w.addr + 4 * e) / 64 * 64) (by rw [unitSize_of_not_inSlm hbase, Nat.mul_mod_left])
    rw [unitSize_of_not_inSlm hbase, unitOf, hbase, if_neg Bool.false_ne_true, Nat.mul_div_cancel _ (by decide)] at h
    exact h
  have hmore : ∀ u, u ∈ s.poison → u ∈ t.poison := fun u hu => by
    rw [hpoison]
    split
    · exact (mem_foldl_addOnce _ _).mpr (.inl hu)
    · exact hu
  refine ⟨t, hexec, ?_, fun htag => ?_, fun hp => ?_, fun htag b n => poisoned_of_poison (by rw [hpoison, htag]; rfl) b n⟩
  · rw [hsums e he, accwSum, if_pos hmask]
  · rw [hunit, List.contains_iff_mem, hpoison, if_pos htag, mem_foldl_addOnce]
    exact .inr (List.mem_map.mpr ⟨e, List.mem_filter.mpr ⟨List.mem_range.mpr he, hmask⟩, rfl⟩)
  · rw [hunit, List.contains_iff_mem] at hp ⊢
    exact hmore _ hp

end Sys2Proof.Machine
end

section
/-! Poison follows the data of a plain store (R82): unit by unit, over any number of lines. -/
namespace Sys2Proof.Machine
open Sys2Proof

/-! ### Guarded units told apart -/

/-- The unit of an address is of the address's own size. -/
theorem unitSize_base (b : Nat) : unitSize (b / unitSize b * unitSize b) = unitSize b := by
  have hslm : inSlm (b / unitSize b * unitSize b) = inSlm b := by
    rw [Bool.eq_iff_iff, inSlm_iff, inSlm_iff]
    have hw := unitSize_cases b
    generalize unitSize b = w at hw
    unfold slmBase slmEnd
    rcases hw with rfl | rfl <;> omega
  rw [unitSize_eq (b / unitSize b * unitSize b), hslm, ← unitSize_eq]

/-- Units of one size are told apart by their numbers. -/
theorem unitOf_inj {f g : Nat} (hsize : unitSize g = unitSize f) (hf : f % unitSize f = 0) (hg : g % unitSize g = 0)
    (h : (unitOf f).2.2 = (unitOf g).2.2) : f = g := by
  rw [hsize] at hg
  rw [unitSize_eq, unitSize_eq] at hsize
  rw [unitSize_eq] at hf hg
  unfold unitOf at h
  cases hif : inSlm f <;> cases hig : inSlm g <;> simp only [hif, hig, if_true, if_false, Bool.false_eq_true] at h hsize hf hg <;> omega

/-- Of `N` bytes from `a`, all of which lie in units of the size of unit `f`. -/
structure InUnitsLike (f a N : Nat) : Prop where
  aligned : f % unitSize f = 0
  some : 1 ≤ N
  size : ∀ b, a ≤ b → b < a + N → unitSize b = unitSize f

section
variable {f a N : Nat} (h : InUnitsLike f a N)
include h

theorem InUnitsLike.first : unitSize a = unitSize f := h.size a le_rfl (Nat.lt_add_of_pos_right h.some)

/-- A unit is touched where it meets the bytes. -/
theorem mem_unitsOf_iff : (unitOf f).2.2 ∈ unitsOf a N ↔ f < a + N ∧ a < f + unitSize f := by
  have hw := unitSize_cases f
  have haligned := h.aligned
  have hsome := h.some
  have hgrid : ∀ i, i < (a + N - 1) / unitSize f - a / unitSize f + 1 → unitSize ((a / unitSize f + i) * unitSize f) = unitSize f := by
    intro i hi
    have hb := h.size (max a ((a / unitSize f + i) * unitSize f))
    have hbase := unitSize_base (max a ((a / unitSize f + i) * unitSize f))
    generalize unitSize f = w at hw hi hb hbase ⊢
    have hin : a ≤ max a ((a / w + i) * w) ∧ max a ((a / w + i) * w) < a + N := by rcases hw with rfl | rfl <;> omega
    rw [hb hin.1 hin.2] at hbase
    rwa [show max a ((a / w + i) * w) / w * w = (a / w + i) * w by rcases hw with rfl | rfl <;> omega] at hbase
  rw [unitsOf_eq hsome, h.first, List.mem_map]
  constructor
  · rintro ⟨i, hi, heq⟩
    rw [List.mem_range] at hi
    have hg := hgrid i hi
    have hfg : f = (a / unitSize f + i) * unitSize f := unitOf_inj hg haligned (by rw [hg, Nat.mul_mod_left]) heq.symm
    clear heq hgrid hg
    generalize unitSize f = w at hw hi hfg haligned ⊢
    rcases hw with rfl | rfl <;> omega
  · intro hmeet
    have hi : f / unitSize f - a / unitSize f < (a + N - 1) / unitSize f - a / unitSize f + 1
        ∧ (a / unitSize f + (f / unitSize f - a / unitSize f)) * unitSize f = f := by
      generalize unitSize f = w at hw haligned hmeet ⊢
      rcases hw with rfl | rfl <;> omega
    exact ⟨_, List.mem_range.mpr hi.1, by rw [unitNo, hi.2]⟩

/-- A unit is covered whole where every byte of it is among them. -/
theorem mem_wholeUnits_iff : (unitOf f).2.2 ∈ wholeUnits a N ↔ a ≤ f ∧ f + unitSize f ≤ a + N := by
  have hw := unitSize_cases f
  have haligned := h.aligned
  unfold wholeUnits
  rw [h.first, List.mem_map]
  constructor
  · rintro ⟨i, hi, heq⟩
    rw [List.mem_range] at hi
    have hg : unitSize (((a + unitSize f - 1) / unitSize f + i) * unitSize f) = unitSize f := by
      refine h.size _ ?_ ?_ <;> clear heq <;> generalize unitSize f = w at hw hi ⊢ <;> rcases hw with rfl | rfl <;> omega
    have hfg : f = ((a + unitSize f - 1) / unitSize f + i) * unitSize f := unitOf_inj hg haligned (by rw [hg, Nat.mul_mod_left]) heq.symm
    clear heq hg
    generalize unitSize f = w at hw hi hfg haligned ⊢
    rcases hw with rfl | rfl <;> omega
  · intro hcover
    have hi : f / unitSize f - (a + unitSize f - 1) / unitSize f < (a + N) / unitSize f - (a + unitSize f - 1) / unitSize f
        ∧ ((a + unitSize f - 1) / unitSize f + (f / unitSize f - (a + unitSize f - 1) / unitSize f)) * unitSize f = f := by
      generalize unitSize f = w at hw haligned hcover ⊢
      rcases hw with rfl | rfl <;> omega
    exact ⟨_, List.mem_range.mpr hi.1, by rw [unitNo, hi.2]⟩

/-- Whether unit `f` is poisoned after a write of data with a tag: tagged data poisons each unit it meets, untagged data clears
each it covers whole (R82). -/
theorem mem_poisonAfter_iff (p : List Nat) (tag : Bool) :
    (unitOf f).2.2 ∈ poisonAfter p a N tag ↔
      if tag then (unitOf f).2.2 ∈ p ∨ (f < a + N ∧ a < f + unitSize f) else (unitOf f).2.2 ∈ p ∧ ¬ (a ≤ f ∧ f + unitSize f ≤ a + N) := by
  cases tag with
  | true => rw [poisonAfter_tagged, mem_foldl_addOnce, mem_unitsOf_iff h]; rfl
  | false =>
    rw [poisonAfter_clean, List.mem_filter, Bool.not_eq_true', ← Bool.not_eq_true, List.contains_iff_mem, mem_wholeUnits_iff h]
    rfl

end

/-! ### Line by line -/

/-- The pieces of an access: those of the lines it meets. -/
theorem mem_linePieces_iff {a n : Nat} (h : 1 ≤ n) {p : Nat × Nat} :
    p ∈ linePieces a n ↔ ∃ l, a / 128 ≤ l ∧ l ≤ (a + n - 1) / 128 ∧ p.1 = max a (l * 128) ∧ p.1 + p.2 = min (a + n) ((l + 1) * 128) := by
  unfold linePieces
  rw [if_neg (by omega)]
  simp only [List.mem_map, List.mem_range]
  constructor
  · rintro ⟨i, hi, rfl⟩
    exact ⟨a / 128 + i, by omega, by omega, rfl, by dsimp only; omega⟩
  · rintro ⟨l, hlo, hhi, hfirst, hlast⟩
    refine ⟨l - a / 128, by omega, Prod.ext ?_ ?_⟩ <;> dsimp only <;> rw [Nat.add_sub_cancel' hlo] <;> omega

/-- The poison list after a write of the pieces of an access. -/
def poisonAfterPieces (tag : Bool) (ps : List (Nat × Nat)) (p : List Nat) : List Nat := ps.foldl (fun p q => poisonAfter p q.1 q.2 tag) p

theorem foldl_writePiece_poison {a : Nat} {bs : List Byte} {tag : Bool} (ps : List (Nat × Nat)) {r : State × Nat} (h : Safety.settled r.1)
    (hin : ∀ q ∈ ps, a ≤ q.1 ∧ q.1 + q.2 ≤ a + bs.length) (hf : ∀ q ∈ ps, failedHome r.1 q.1 = false) :
    (ps.foldl (writePiece a bs tag) r).1.poison = poisonAfterPieces tag ps r.1.poison := by
  induction ps generalizing r with
  | nil => rfl
  | cons q ps ih =>
    obtain ⟨hlo, hhi⟩ := hin q List.mem_cons_self
    have hat : a + (q.1 - a) = q.1 := Nat.add_sub_cancel' hlo
    have hlen : ((bs.drop (q.1 - a)).take q.2).length = q.2 := List.length_take_of_le (by rw [List.length_drop]; omega)
    have hfq : failedHome r.1 (a + (q.1 - a)) = false := by rw [hat]; exact hf q List.mem_cons_self
    have hpiece := writePiece_settled (r := r) (bs := bs) (k := q.2) h hfq rfl tag
    rw [hat, hlen] at hpiece
    obtain ⟨-, -, hpoison, hsame⟩ := hpiece
    rw [List.foldl_cons, poisonAfterPieces, List.foldl_cons, ← hpoison]
    generalize writePiece a bs tag r q = t at hsame ⊢
    exact ih (hsame.settled h) (fun y hy => hin y (List.mem_cons_of_mem q hy))
      fun y hy => by rw [hsame.failedHome]; exact hf y (List.mem_cons_of_mem q hy)

/-- What a write of any size leaves poisoned, line by line. -/
theorem memWrite_poison {s : State} (h : Safety.settled s) {a : Nat} {bs : List Byte} (hn : 1 ≤ bs.length)
    (hf : ∀ q ∈ linePieces a bs.length, failedHome s q.1 = false) (tag : Bool) :
    (memWrite s a bs tag).1.poison = poisonAfterPieces tag (linePieces a bs.length) s.poison := by
  rw [memWrite_eq]
  refine foldl_writePiece_poison (r := (s, 0)) _ h (fun q hq => ?_) hf
  obtain ⟨l, hlo, hhi, hfirst, hlast⟩ := (mem_linePieces_iff hn).mp hq
  omega

theorem mem_poisonAfterPieces_iff {f : Nat} (tag : Bool) (ps : List (Nat × Nat)) (h : ∀ q ∈ ps, InUnitsLike f q.1 q.2) (p : List Nat) :
    (unitOf f).2.2 ∈ poisonAfterPieces tag ps p ↔
      if tag then (unitOf f).2.2 ∈ p ∨ ∃ q ∈ ps, f < q.1 + q.2 ∧ q.1 < f + unitSize f
      else (unitOf f).2.2 ∈ p ∧ ¬ ∃ q ∈ ps, q.1 ≤ f ∧ f + unitSize f ≤ q.1 + q.2 := by
  unfold poisonAfterPieces
  induction ps generalizing p with
  | nil => cases tag <;> simp
  | cons q ps ih =>
    rw [List.foldl_cons, ih (fun y hy => h y (List.mem_cons_of_mem q hy)), mem_poisonAfter_iff (h q List.mem_cons_self)]
    simp only [List.mem_cons, exists_eq_or_imp]
    cases tag with
    | true => simp only [if_true, or_assoc]
    | false => simp only [Bool.false_eq_true, if_false, not_or, and_assoc]

section
variable {f a N : Nat} (h : InUnitsLike f a N)
include h

theorem InUnitsLike.piece {q : Nat × Nat} (hq : q ∈ linePieces a N) : InUnitsLike f q.1 q.2 := by
  have hsome := h.some
  obtain ⟨l, hlo, hhi, hfirst, hlast⟩ := (mem_linePieces_iff hsome).mp hq
  exact ⟨h.aligned, by omega, fun b hb hb' => h.size b (by omega) (by omega)⟩

/-- A unit lies within a line: it meets the access where it meets a piece of it. -/
theorem exists_piece_meets_iff :
    (∃ q ∈ linePieces a N, f < q.1 + q.2 ∧ q.1 < f + unitSize f) ↔ f < a + N ∧ a < f + unitSize f := by
  have hsome := h.some
  have haligned := h.aligned
  have hw := unitSize_cases f
  constructor
  · rintro ⟨q, hq, hmeet⟩
    obtain ⟨l, hlo, hhi, hfirst, hlast⟩ := (mem_linePieces_iff hsome).mp hq
    omega
  · intro hmeet
    refine ⟨(max a (f / 128 * 128), min (a + N) ((f / 128 + 1) * 128) - max a (f / 128 * 128)), (mem_linePieces_iff hsome).mpr ⟨f / 128, ?_⟩, ?_⟩ <;>
      generalize unitSize f = w at hw haligned hmeet ⊢ <;> dsimp only <;> rcases hw with rfl | rfl <;> omega

/-- It is covered by the access where a piece covers it. -/
theorem exists_piece_covers_iff :
    (∃ q ∈ linePieces a N, q.1 ≤ f ∧ f + unitSize f ≤ q.1 + q.2) ↔ a ≤ f ∧ f + unitSize f ≤ a + N := by
  have hsome := h.some
  have haligned := h.aligned
  have hw := unitSize_cases f
  constructor
  · rintro ⟨q, hq, hmeet⟩
    obtain ⟨l, hlo, hhi, hfirst, hlast⟩ := (mem_linePieces_iff hsome).mp hq
    omega
  · intro hmeet
    refine ⟨(max a (f / 128 * 128), min (a + N) ((f / 128 + 1) * 128) - max a (f / 128 * 128)), (mem_linePieces_iff hsome).mpr ⟨f / 128, ?_⟩, ?_⟩ <;>
      generalize unitSize f = w at hw haligned hmeet ⊢ <;> dsimp only <;> rcases hw with rfl | rfl <;> omega

/-- Whether unit `f` is poisoned after a write of any size. -/
theorem poisoned_memWrite_iff {s : State} (hs : Safety.settled s) {bs : List Byte} (hN : bs.length = N)
    (hf : ∀ q ∈ linePieces a N, failedHome s q.1 = false) (tag : Bool) :
    poisoned (memWrite s a bs tag).1 f (unitSize f) = true ↔
      if tag then poisoned s f (unitSize f) = true ∨ (f < a + N ∧ a < f + unitSize f)
      else poisoned s f (unitSize f) = true ∧ ¬ (a ≤ f ∧ f + unitSize f ≤ a + N) := by
  subst hN
  rw [poisoned_unit _ h.aligned, poisoned_unit _ h.aligned, List.contains_iff_mem, List.contains_iff_mem, memWrite_poison hs h.some hf,
    mem_poisonAfterPieces_iff tag _ (fun q hq => h.piece hq), exists_piece_meets_iff h, exists_piece_covers_iff h]

end

/-! ### The store -/

/-- What a plain store leaves poisoned is what its write does. -/
theorem perform_store_poison {s : State} {x : Xact} (h : x.kind = .store ∨ x.kind = .flagStore) :
    (perform s x true).poison = (memWrite s x.addr (padTo x.size x.data) x.poison).1.poison := by
  unfold perform
  obtain h | h := h <;> rw [h] <;> rfl

theorem length_padTo (n : Nat) (bs : List Byte) : (padTo n bs).length = n := by
  unfold padTo
  rw [List.length_take, List.length_append, List.length_replicate]
  omega

/-- Settles O55: the poison of a store is the poison of its write, whose pieces meet and cover the same units as the store. -/
theorem poisonFollowsData : Obligations.PoisonFollowsData := by
  unfold Obligations.PoisonFollowsData
  intro s x f n halive hway hkind hst hhere hready hsize hf hs _ haligned hn hunits
  have hfn : unitSize f = n := hn
  subst hfn
  have hlike : InUnitsLike f x.addr x.size := ⟨haligned, hsize, hunits⟩
  have hexec := Lands.exec ⟨halive, hway, hst, hhere, hready⟩
  have hpoison : ∀ u m, poisoned (perform s x true) u m = poisoned (memWrite s x.addr (padTo x.size x.data) x.poison).1 u m :=
    fun u m => poisoned_of_poison (perform_store_poison hkind) u m
  have hiff := poisoned_memWrite_iff hlike hs (length_padTo x.size x.data) hf x.poison
  refine ⟨_, hexec, fun htag hlo hhi => ?_, fun htag hpart => ?_, fun htag hlo hhi => ?_, fun htag hout => ?_⟩ <;>
    rw [hpoison] <;> rw [htag] at hiff ⊢ <;> simp only [if_true, if_false, Bool.false_eq_true] at hiff
  · rw [← Bool.not_eq_true, hiff]
    exact fun hc => hc.2 ⟨hlo, hhi⟩
  · rw [Bool.eq_iff_iff, hiff]
    exact and_iff_left (by omega)
  · exact hiff.mpr (.inr ⟨hlo, hhi⟩)
  · rw [Bool.eq_iff_iff, hiff]
    exact or_iff_left (by omega)

end Sys2Proof.Machine
end

section
/-! The copy engines (R84 to R89): what a transfer's accesses leave of the module, the pieces that its rows are cut into, and
the bytes that `COPY`, `FILL` and `TRANSPOSE` put into them. -/
namespace Sys2Proof.Machine
open Sys2Proof

/-! ### Where addresses lie -/

/-- Between two states nothing changed that tells where an address is homed and how an access to it is checked. -/
structure SamePlaces (s t : State) : Prop where
  stackMap : t.stackMap = s.stackMap
  packages : t.packages = s.packages
  stackUnits : t.stackUnits = s.stackUnits
  active : t.active = s.active
  core : ∀ k, (tow t k).core = (tow s k).core

namespace SamePlaces
variable {s t u : State}

theorem refl (s : State) : SamePlaces s s := ⟨rfl, rfl, rfl, rfl, fun _ => rfl⟩

theorem trans (h : SamePlaces s t) (g : SamePlaces t u) : SamePlaces s u :=
  ⟨g.stackMap.trans h.stackMap, g.packages.trans h.packages, g.stackUnits.trans h.stackUnits, g.active.trans h.active,
    fun k => (g.core k).trans (h.core k)⟩

theorem ueMapped (h : SamePlaces s t) (n : Nat) : ueMapped t n = ueMapped s n := by unfold Machine.ueMapped; rw [h.packages]

theorem home (h : SamePlaces s t) (a : Nat) : home t a = home s a := by
  have huntrained : ∀ k, (tow t k).untrained = (tow s k).untrained := fun k => (congrArg Tower.untrained (h.core k) :)
  have hunits : ∀ k, scratchUnits t k = scratchUnits s k := fun k => (congrArg (fun x : Tower => min 6 x.scratchUnits) (h.core k) :)
  unfold Machine.home fastEnd
  simp only [h.stackMap, h.ueMapped, huntrained, hunits]

theorem failedHome (h : SamePlaces s t) (a : Nat) : failedHome t a = failedHome s a := by
  unfold Machine.failedHome stk
  rw [h.home, h.stackUnits, h.packages]

theorem localMemory (h : SamePlaces s t) (a : Nat) : localMemory t a = localMemory s a := by
  unfold Machine.localMemory
  rw [h.home]

theorem osBases (h : SamePlaces s t) : osBases t = osBases s := by
  unfold Machine.osBases
  simp only [h.ueMapped]

theorem cfgB (h : SamePlaces s t) (key : Nat) : cfgB t key = cfgB s key := by
  have hdefault : objDefault t key = objDefault s key := by
    unfold objDefault defaultWindows
    rw [h.osBases, h.stackMap]
  unfold Machine.cfgB
  rw [h.active, hdefault]

theorem inWindows (h : SamePlaces s t) (p a n perm : Nat) : inWindows t p a n perm = inWindows s p a n perm := by
  unfold Machine.inWindows partOn cfg
  simp only [h.cfgB]

theorem levelStatus (h : SamePlaces s t) (a : Nat) : levelStatus t a = levelStatus s a := by
  have hreset : ∀ k, (tow t k).reset = (tow s k).reset := fun k => (congrArg Tower.reset (h.core k) :)
  have hlevel : ∀ k, (tow t k).levelReset = (tow s k).levelReset := fun k => (congrArg Tower.levelReset (h.core k) :)
  have hout : ∀ k, (tow t k).levelsOut = (tow s k).levelsOut := fun k => (congrArg Tower.levelsOut (h.core k) :)
  unfold Machine.levelStatus targetLevel
  simp only [h.home, hreset, hlevel, hout]

theorem accessStatus (h : SamePlaces s t) (iss : Issuer) (k : XKind) (a n : Nat) : accessStatus t iss k a n = accessStatus s iss k a n := by
  unfold Machine.accessStatus meetsOs
  simp only [h.home, h.osBases, h.inWindows, h.levelStatus]

theorem accwStatus (h : SamePlaces s t) (iss : Issuer) (a : Nat) : accwStatus t iss a = accwStatus s iss a := by
  unfold Machine.accwStatus
  rw [h.accessStatus, h.home]

end SamePlaces

/-! ### Accesses of a transfer -/

/-- Between two states a transfer has accessed memory: places and copy engines are as they were, a settled module stays settled
and memory canonical. -/
structure CopySteps (s t : State) : Prop where
  places : SamePlaces s t
  engines : t.copyEngines = s.copyEngines
  settled : Safety.settled s → Safety.settled t
  wf : Memory.wf s.mem = true → Memory.wf t.mem = true

/-- The fields of the state that `CopySteps` speaks of. -/
def copyFields (s : State) := (s.stackMap, s.packages, s.stackUnits, s.active, s.towers, s.copyEngines, s.mem)

namespace CopySteps
variable {s t u : State}

theorem refl (s : State) : CopySteps s s := ⟨.refl s, rfl, id, id⟩

theorem trans (h : CopySteps s t) (g : CopySteps t u) : CopySteps s u :=
  ⟨h.places.trans g.places, g.engines.trans h.engines, fun x => g.settled (h.settled x), fun x => g.wf (h.wf x)⟩

/-- A change beside all of that. -/
theorem of_same (h : copyFields t = copyFields s) : CopySteps s t := by
  obtain ⟨hmap, hpackages, hstacks, hactive, htowers, hengines, hmem⟩ : _ ∧ _ ∧ _ ∧ _ ∧ _ ∧ _ ∧ _ := by
    simpa only [copyFields, Prod.mk.injEq] using h
  have htow : ∀ k, tow t k = tow s k := fun k => by unfold tow; rw [htowers]
  exact ⟨⟨hmap, hpackages, hstacks, hactive, fun k => by rw [htow]⟩, hengines, fun h k => by rw [htow]; exact h k, by rw [hmem]; exact id⟩

/-- A store that leaves every home. -/
theorem of_store (h : storesOnly s t) (g : SameHomes s t) : CopySteps s t := by
  have heq := h.eq
  refine ⟨⟨g.stackMap, g.packages, g.stackUnits, ?_, g.core⟩, ?_, g.settled, h.wf⟩ <;> rw [heq]

/-- A run of accesses, each of which a settled module makes. -/
theorem foldl {α : Type} {f : State → α → State} (h : ∀ s x, Safety.settled s → CopySteps s (f s x)) (l : List α) {s : State}
    (hs : Safety.settled s) : CopySteps s (l.foldl f s) := by
  induction l generalizing s with
  | nil => exact refl s
  | cons x l ih => exact (h s x hs).trans (ih ((h s x hs).settled hs))

/-- Such a run that carries another value beside the state. -/
theorem foldl₂ {α β : Type} {f : State × β → α → State × β} (h : ∀ r x, Safety.settled r.1 → CopySteps r.1 (f r x).1) (l : List α)
    {r : State × β} (hs : Safety.settled r.1) : CopySteps r.1 (l.foldl f r).1 := by
  induction l generalizing r with
  | nil => exact refl r.1
  | cons x l ih => exact (h r x hs).trans (ih ((h r x hs).settled hs))

end CopySteps

section
variable {s : State} (hs : Safety.settled s)
include hs

theorem nsTouch_copySteps (a n : Nat) (write : Bool) : CopySteps s (nsTouch s a n write) :=
  .of_store (storesOnly_nsTouch s a n write) (nsTouch_sameHomes hs a n write)

theorem lineWrite_copySteps (a : Nat) (bs : List Byte) (tag : Bool) : CopySteps s (lineWrite s a bs tag).1 := by
  cases hf : failedHome s a with
  | false => exact .of_store (storesOnly_lineWrite s a bs tag) (lineWrite_settled hs hf bs tag).2.2.2
  | true =>
    rw [lineWrite_eq, drainLines_of_no_adder fun t => (hs t).1, if_pos hf, failedWrite, pitEvent_eq]
    exact .of_same rfl

theorem memWrite_copySteps (a : Nat) (bs : List Byte) (tag : Bool) : CopySteps s (memWrite s a bs tag).1 := by
  rw [memWrite_eq]
  refine .foldl₂ (r := (s, 0)) (fun r p hr => ?_) _ hs
  unfold writePiece
  dsimp only
  exact lineWrite_copySteps hr p.1 _ tag

theorem store_copySteps (iss : Issuer) (a : Nat) (bs : List Byte) (tag : Bool) : CopySteps s (store s iss a bs tag).1 := by
  unfold store
  dsimp only
  split
  · exact .refl s
  · exact memWrite_copySteps hs a bs tag

theorem lineRead_copySteps (a n : Nat) : CopySteps s (lineRead s a n).1 := by
  have htouch := nsTouch_copySteps hs a n false
  unfold lineRead
  rw [drainLines_of_no_adder fun t => (hs t).1]
  dsimp only
  split
  · obtain ⟨p, r, w, he⟩ := poisonError_eq (nsTouch s a n false) (home s a).unit a
    rw [he]
    exact htouch.trans (.of_same rfl)
  · split
    · exact htouch.trans (.of_same rfl)
    · exact htouch

theorem load_copySteps (iss : Issuer) (a n : Nat) : CopySteps s (load s iss a n).1 := by
  unfold load
  dsimp only
  split
  · exact .refl s
  · rw [memRead_eq]
    refine .foldl₂ (r := (s, _)) (fun r p hr => ?_) _ hs
    unfold readPiece
    dsimp only
    exact lineRead_copySteps hr p.1 p.2

/-- A store within a line that passes its checks, at a home that has not failed. -/
theorem store_one_piece {iss : Issuer} {a : Nat} {bs : List Byte} (hst : accessStatus s iss .store a bs.length = 0)
    (hf : failedHome s a = false) (hone : linePieces a bs.length = [(a, bs.length)]) (tag : Bool) :
    (store s iss a bs tag).1.mem = cellsPut s.mem a bs := by
  unfold store
  dsimp only
  rw [if_neg (by simp [hst]), memWrite_eq, hone, List.foldl_cons, List.foldl_nil, writePiece]
  dsimp only
  rw [Nat.sub_self, List.drop_zero, List.take_length]
  exact (lineWrite_settled hs hf bs tag).2.1

/-- A load within a line of sound, readable data. -/
theorem load_one_piece {iss : Issuer} {a n : Nat} (hst : accessStatus s iss .load a n = 0) (hf : failedHome s a = false)
    (hone : linePieces a n = [(a, n)]) (hp : poisoned s a n = false) :
    (load s iss a n).2 = (0, readMem s a n, false) ∧ (load s iss a n).1.mem = s.mem ∧ (load s iss a n).1.poison = s.poison := by
  obtain ⟨hread, hmem, hpoison, -⟩ := lineRead_settled hs hf n
  unfold load
  dsimp only
  rw [if_neg (by simp [hst]), memRead_of_one_piece hone]
  rw [hp] at hread
  generalize lineRead s a n = r at hread hmem hpoison ⊢
  obtain ⟨t, bs, tag⟩ := r
  obtain ⟨rfl, rfl⟩ := Prod.mk.inj hread
  exact ⟨rfl, hmem, hpoison⟩

end

/-! ### Cuts -/

/-- The cuts of a run of bytes lie in it, each within one chunk of the run's unit size. -/
theorem mem_cuts {a n : Nat} {c : Nat × Nat} (h : c ∈ cuts a n) :
    a ≤ c.1 ∧ c.1 + c.2 ≤ a + n ∧ 1 ≤ c.2 ∧ c.1 / unitSize a = (c.1 + c.2 - 1) / unitSize a := by
  have hw := unitSize_cases a
  unfold cuts at h
  rw [← unitSize] at h
  split at h
  · exact absurd h List.not_mem_nil
  · obtain ⟨i, hi, rfl⟩ := List.mem_map.mp h
    rw [List.mem_range] at hi
    dsimp only
    generalize unitSize a = w at hw hi ⊢
    rcases hw with rfl | rfl <;> omega

/-- Every byte of the run lies in a cut. -/
theorem exists_mem_cuts {a n x : Nat} (hlo : a ≤ x) (hhi : x < a + n) : ∃ c ∈ cuts a n, c.1 ≤ x ∧ x < c.1 + c.2 := by
  have hw := unitSize_cases a
  unfold cuts
  rw [if_neg (by omega), ← unitSize]
  refine ⟨_, List.mem_map.mpr ⟨x / unitSize a - a / unitSize a, List.mem_range.mpr ?_, rfl⟩, ?_⟩
  · generalize unitSize a = w at hw ⊢
    rcases hw with rfl | rfl <;> omega
  · dsimp only
    generalize unitSize a = w at hw ⊢
    rcases hw with rfl | rfl <;> omega

/-- A cut lies within a line. -/
theorem linePieces_cut {a n : Nat} {c : Nat × Nat} (h : c ∈ cuts a n) : linePieces c.1 c.2 = [(c.1, c.2)] := by
  obtain ⟨-, -, hsome, hchunk⟩ := mem_cuts h
  refine linePieces_one hsome ?_
  rcases unitSize_cases a with hw | hw <;> rw [hw] at hchunk <;> omega

/-! ### Pieces of the destination -/

namespace CopyJob
variable {j : CopyJob}

/-- Of a descriptor that copies, fills or transposes, a piece is a cut of a row of the destination. -/
theorem mem_pieces_iff (h : j.op ≠ 4) {p : Piece} :
    p ∈ j.pieces false ↔ ∃ r, r < j.dstRows ∧ ∃ c ∈ cuts (j.dst + r * j.dstStride) j.dstRow,
      p = { row := r, off := c.1 - (j.dst + r * j.dstStride), len := c.2 } := by
  unfold pieces
  simp only [List.mem_flatMap, List.mem_range, Bool.false_eq_true, if_false, h, List.mem_map, eq_comm]

theorem at_of_cut {r : Nat} {c : Nat × Nat} (h : c ∈ cuts (j.dst + r * j.dstStride) j.dstRow) :
    j.at { row := r, off := c.1 - (j.dst + r * j.dstStride), len := c.2 } = c.1 := by
  have hlo := (mem_cuts h).1
  unfold CopyJob.at
  dsimp only
  omega

/-- A piece lies within its row and within a line. -/
theorem piece_bounds (h : j.op ≠ 4) {p : Piece} (hp : p ∈ j.pieces false) :
    p.row < j.dstRows ∧ p.off + p.len ≤ j.dstRow ∧ linePieces (j.at p) p.len = [(j.at p, p.len)] := by
  obtain ⟨r, hr, c, hc, rfl⟩ := (mem_pieces_iff h).mp hp
  obtain ⟨hlo, hhi, -, -⟩ := mem_cuts hc
  refine ⟨hr, ?_, ?_⟩
  · dsimp only; omega
  · rw [at_of_cut hc]; exact linePieces_cut hc

/-- Every byte of a row lies in a piece. -/
theorem exists_piece (h : j.op ≠ 4) {r k : Nat} (hr : r < j.dstRows) (hk : k < j.dstRow) :
    ∃ p ∈ j.pieces false, j.at p ≤ j.dst + r * j.dstStride + k ∧ j.dst + r * j.dstStride + k < j.at p + p.len := by
  obtain ⟨c, hc, hlo, hhi⟩ := exists_mem_cuts (Nat.le_add_right (j.dst + r * j.dstStride) k) (Nat.add_lt_add_left hk _)
  exact ⟨_, (mem_pieces_iff h).mpr ⟨r, hr, c, hc, rfl⟩, by rwa [at_of_cut hc], by rwa [at_of_cut hc]⟩

/-- The rows of the destination do not meet. -/
def rowsApart (j : CopyJob) : Prop := j.dstRows = 1 ∨ j.dstRow ≤ j.dstStride

/-- A byte of row `r` that a piece covers is in the piece's own row. -/
theorem rowsApart.row_eq (h : j.rowsApart) {p : Piece} (hrow : p.row < j.dstRows) (hlen : p.off + p.len ≤ j.dstRow) {r k : Nat}
    (hr : r < j.dstRows) (hk : k < j.dstRow) (hlo : j.at p ≤ j.dst + r * j.dstStride + k)
    (hhi : j.dst + r * j.dstStride + k < j.at p + p.len) : p.row = r := by
  unfold CopyJob.at at hlo hhi
  obtain h | h := h
  · omega
  · rcases Nat.lt_trichotomy p.row r with hlt | heq | hlt
    · have hmul := Nat.mul_le_mul_right j.dstStride (Nat.succ_le_of_lt hlt)
      rw [Nat.succ_mul] at hmul
      omega
    · exact heq
    · have hmul := Nat.mul_le_mul_right j.dstStride (Nat.succ_le_of_lt hlt)
      rw [Nat.succ_mul] at hmul
      omega

/-! ### Bytes of the destination -/

/-- The half of a source row that a transpose of 4-bit elements reads for element `k` of destination row `r`; beyond the last
row of the source it keeps the upper half of byte `b` of the destination's row. -/
def outNibble (j : CopyJob) (m : List Host.Cell) (r b k : Nat) : Nat :=
  if k < j.rows then fld (cellGet m (j.srcAt + k * j.srcStride + r / 2)).toNat (4 * (r % 2) + 3) (4 * (r % 2))
  else (cellGet m (j.dst + r * j.dstStride + b)).toNat / 16

/-- Address of the source's byte that `COPY` or a transpose of whole bytes puts at offset `k` of destination row `r`. -/
def fromByte (j : CopyJob) (r k : Nat) : Nat :=
  if j.op = 2 then j.srcAt + k / (j.bits / 8) * j.srcStride + r * (j.bits / 8) + k % (j.bits / 8) else j.srcAt + r * j.srcStride + k

/-- Byte `k` of destination row `r`, over memory `m` (R85, R86). -/
def outByte (j : CopyJob) (m : List Host.Cell) (r k : Nat) : Byte :=
  if j.op = 3 then (leBytes 8 (j.w 1)).getD (k % 8) 0#8
  else if j.op = 2 ∧ j.bits = 4 then BitVec.ofNat 8 (j.outNibble m r k (2 * k) + 16 * j.outNibble m r k (2 * k + 1))
  else cellGet m (j.fromByte r k)

theorem sourceByte_nil (s : State) (a : Nat) : sourceByte s [] a = cellGet s.mem a := rfl

/-- The data of a piece is that of its place in its row. -/
theorem data_eq (j : CopyJob) (s : State) (p : Piece) :
    (j.data s [] p).1 = (List.range p.len).map fun i => j.outByte s.mem p.row (p.off + i) := by
  have hat : ∀ i, j.at p + i = j.dst + p.row * j.dstStride + (p.off + i) := fun i => by unfold CopyJob.at; omega
  unfold data outByte
  dsimp only
  split
  · rfl
  · split
    · refine List.map_congr_left fun i _ => ?_
      unfold outNibble
      simp only [sourceByte_nil, hat]
    next hfill hnib =>
      unfold sources fromByte
      rw [if_neg hfill]
      split
      next htr =>
        rw [if_neg fun hb => hnib ⟨htr, hb⟩, List.map_map]
        exact List.map_congr_left fun i _ => by simp only [Function.comp, sourceByte_nil]
      next =>
        rw [List.map_map]
        exact List.map_congr_left fun i _ => by simp only [Function.comp, sourceByte_nil, Nat.add_assoc]

theorem data_length (j : CopyJob) (s : State) (p : Piece) : (j.data s [] p).1.length = p.len := by
  rw [data_eq, List.length_map, List.length_range]

/-! ### Writing the pieces -/

/-- Every check of a piece's write passes, in module-local memory. -/
structure Writable (j : CopyJob) (s : State) (iss : Issuer) (p : Piece) : Prop where
  here : localMemory s (j.at p) = true
  status : accessStatus s iss .store (j.at p) p.len = 0
  sound : failedHome s (j.at p) = false

/-- The status a piece of module-local memory meets. -/
theorem writeStatus_local (h : j.op ≠ 4) {s : State} {p : Piece} (hhere : localMemory s (j.at p) = true) (iss : Issuer) :
    j.writeStatus s iss p = if accessStatus s iss .store (j.at p) p.len ≠ 0 then accessStatus s iss .store (j.at p) p.len
      else if failedHome s (j.at p) then 9 else 0 := by
  unfold localMemory at hhere
  unfold writeStatus
  rw [if_neg h]
  split <;> simp_all

theorem writable_iff (h : j.op ≠ 4) {s : State} {iss : Issuer} {p : Piece} :
    j.Writable s iss p ↔ j.writeStatus s iss p = 0 ∧ localMemory s (j.at p) = true := by
  constructor
  · rintro ⟨hhere, hst, hsound⟩
    rw [writeStatus_local h hhere, hst, hsound]
    exact ⟨rfl, hhere⟩
  · rintro ⟨hst, hhere⟩
    rw [writeStatus_local h hhere] at hst
    split at hst
    next hne => exact absurd hst hne
    next hz =>
      refine ⟨hhere, not_not.mp hz, ?_⟩
      split at hst
      · exact absurd hst (by decide)
      next hf => exact Bool.eq_false_iff.mpr hf

theorem Writable.of_places {s t : State} {iss : Issuer} {p : Piece} (h : j.Writable s iss p) (g : SamePlaces s t) : j.Writable t iss p :=
  ⟨by rw [g.localMemory]; exact h.here, by rw [g.accessStatus]; exact h.status, by rw [g.failedHome]; exact h.sound⟩

/-- The write of such a piece is a store. -/
theorem Writable.write {s : State} {iss : Issuer} {p : Piece} (h : j.Writable s iss p) (hop : j.op ≠ 4) (e : Nat) (bs : List Byte) (pz : Bool) :
    j.write s e iss p bs pz = (store s iss (j.at p) bs pz).1 := by
  have hhere := h.here
  unfold localMemory at hhere
  unfold CopyJob.write
  dsimp only
  rw [if_neg hop]
  split <;> simp_all

/-- Memory with the data of pieces written over it. -/
def written (j : CopyJob) (m0 m : List Host.Cell) (ps : List Piece) : List Host.Cell :=
  ps.foldl (fun m p => cellsPut m (j.at p) ((List.range p.len).map fun i => j.outByte m0 p.row (p.off + i))) m

theorem writeAll_eq (h : j.overlaps = false) (s0 s : State) (e : Nat) (iss : Issuer) (ps : List Piece) :
    j.writeAll s0 s e iss [] ps = ps.foldl (fun s p => j.write s e iss p (j.data s0 [] p).1 (j.data s0 [] p).2) s := by
  unfold writeAll
  simp only [h, Bool.false_eq_true, if_false, Nat.zero_ne_one]

/-- All pieces are written, each within a line. -/
theorem writeAll_writable (hop : j.op ≠ 4) (hov : j.overlaps = false) {s0 : State} {e : Nat} {iss : Issuer} (ps : List Piece) {s : State}
    (hs : Safety.settled s) (hw : ∀ p ∈ ps, j.Writable s iss p) (hone : ∀ p ∈ ps, linePieces (j.at p) p.len = [(j.at p, p.len)]) :
    (j.writeAll s0 s e iss [] ps).mem = j.written s0.mem s.mem ps ∧ CopySteps s (j.writeAll s0 s e iss [] ps) := by
  rw [writeAll_eq hov]
  unfold written
  induction ps generalizing s with
  | nil => exact ⟨rfl, .refl s⟩
  | cons p ps ih =>
    have hp := hw p List.mem_cons_self
    have hlen := data_length j s0 p
    have hstep := store_copySteps hs iss (j.at p) (j.data s0 [] p).1 (j.data s0 [] p).2
    have hmem := store_one_piece (bs := (j.data s0 [] p).1) hs (by rw [hlen]; exact hp.status) hp.sound
      (by rw [hlen]; exact hone p List.mem_cons_self) (j.data s0 [] p).2
    rw [List.foldl_cons, List.foldl_cons, ← data_eq, ← hmem, hp.write hop]
    generalize (store s iss (j.at p) (j.data s0 [] p).1 (j.data s0 [] p).2).1 = t at hstep ⊢
    obtain ⟨hrest, hsteps⟩ := ih (hstep.settled hs) (fun q hq => (hw q (List.mem_cons_of_mem p hq)).of_places hstep.places)
      fun q hq => hone q (List.mem_cons_of_mem p hq)
    exact ⟨hrest, hstep.trans hsteps⟩

/-- A byte after pieces are written: where those that cover it agree, what they hold there; else the byte before. -/
theorem cellGet_written {m0 : List Host.Cell} {x : Nat} {v : Byte} (ps : List Piece) {m : List Host.Cell} (hwf : Memory.wf m = true)
    (hv : ∀ p ∈ ps, j.at p ≤ x → x < j.at p + p.len → j.outByte m0 p.row (p.off + (x - j.at p)) = v) :
    cellGet (j.written m0 m ps) x = if ∃ p ∈ ps, j.at p ≤ x ∧ x < j.at p + p.len then v else cellGet m x := by
  unfold written
  induction ps generalizing m with
  | nil => simp
  | cons p ps ih =>
    rw [List.foldl_cons, ih (cellsPut_wf hwf _ _) fun q hq => hv q (List.mem_cons_of_mem p hq), cellGet_cellsPut hwf, List.length_map,
      List.length_range]
    simp only [List.mem_cons, exists_eq_or_imp]
    by_cases hrest : ∃ q ∈ ps, j.at q ≤ x ∧ x < j.at q + q.len
    · rw [if_pos hrest, if_pos (.inr hrest)]
    · rw [if_neg hrest]
      by_cases hp : j.at p ≤ x ∧ x < j.at p + p.len
      · rw [if_pos hp, if_pos (.inl hp), ← hv p List.mem_cons_self hp.1 hp.2, List.getD_eq_getElem?_getD, List.getElem?_map,
          List.getElem?_range (by omega)]
        rfl
      · rw [if_neg hp, if_neg (not_or.mpr ⟨hp, hrest⟩)]

/-- After all pieces are written: each byte of each row, and every byte beside the rows. -/
theorem cellGet_written_rows (hop : j.op ≠ 4) (hrows : j.rowsApart) (m0 : List Host.Cell) {m : List Host.Cell} (hwf : Memory.wf m = true) :
    (∀ r k, r < j.dstRows → k < j.dstRow → cellGet (j.written m0 m (j.pieces false)) (j.dst + r * j.dstStride + k) = j.outByte m0 r k)
      ∧ ∀ a, (∀ r, r < j.dstRows → a < j.dst + r * j.dstStride ∨ j.dst + r * j.dstStride + j.dstRow ≤ a) →
        cellGet (j.written m0 m (j.pieces false)) a = cellGet m a := by
  refine ⟨fun r k hr hk => ?_, fun a ha => ?_⟩
  · rw [cellGet_written (v := j.outByte m0 r k) _ hwf, if_pos (exists_piece hop hr hk)]
    intro p hp hlo hhi
    obtain ⟨hrow, hlen, -⟩ := piece_bounds hop hp
    obtain rfl := hrows.row_eq hrow hlen hr hk hlo hhi
    congr 1
    unfold CopyJob.at at hlo ⊢
    omega
  · have hnone : ∀ p ∈ j.pieces false, ¬ (j.at p ≤ a ∧ a < j.at p + p.len) := fun p hp hc => by
      obtain ⟨hrow, hlen, -⟩ := piece_bounds hop hp
      have hout := ha p.row hrow
      unfold CopyJob.at at hc
      omega
    rw [cellGet_written (v := 0#8) _ hwf fun p hp hlo hhi => absurd ⟨hlo, hhi⟩ (hnone p hp), if_neg]
    rintro ⟨p, hp, hc⟩
    exact hnone p hp hc

end CopyJob
end Sys2Proof.Machine
end

section
/-! What a copy engine does with the next descriptor (R84 to R88): it reads the source, moves the data, and where `COPY`, `FILL`
and `TRANSPOSE` leave each byte of memory. -/
namespace Sys2Proof.Machine
open Sys2Proof

namespace CopyJob
variable {j : CopyJob}

/-! ### Reading the source -/

/-- The pieces in which the source's rows are read. -/
def sourceCuts (j : CopyJob) : List (Nat × Nat) :=
  if j.op = 3 then [] else (List.range j.rows).flatMap fun r => cuts (j.srcAt + r * j.srcStride) j.srcRow

/-- What `read` does with each piece of the source. -/
def readPart (iss : Issuer) (got : List (Nat × Nat × List Byte × Bool)) (acc : State × List (Nat × Nat × Nat) × Bool) (c : Nat × Nat) :
    State × List (Nat × Nat × Nat) × Bool :=
  let fail := fun s st => (s, acc.2.1 ++ [(c.1, c.2, st)], acc.2.2)
  match home acc.1 c.1 with
  | .regs => fail acc.1 4
  | .window =>
    let st := accessStatus acc.1 iss .load c.1 c.2
    if st ≠ 0 then fail acc.1 st
    else match got.find? fun (g : Nat × Nat × List Byte × Bool) => decide (g.1 ≤ c.1) && decide (c.1 < g.1 + g.2.2.1.length) with
      | some g => if isFault g.2.1 then fail acc.1 g.2.1 else (acc.1, acc.2.1, acc.2.2 || g.2.2.2)
      | none => fail acc.1 4
  | _ =>
    let r := load acc.1 iss c.1 c.2
    if isFault r.2.1 then fail r.1 r.2.1 else (r.1, acc.2.1, acc.2.2 || r.2.2.2)

theorem read_eq (j : CopyJob) (s : State) (iss : Issuer) (got : List (Nat × Nat × List Byte × Bool)) :
    j.read s iss got = j.sourceCuts.foldl (readPart iss got) (s, [], false) := rfl

/-- A piece of the source in module-local memory may be read, and its data is sound. -/
structure Readable (s : State) (iss : Issuer) (c : Nat × Nat) : Prop where
  status : accessStatus s iss .load c.1 c.2 = 0
  here : localMemory s c.1 = true
  sound : failedHome s c.1 = false
  clean : poisoned s c.1 c.2 = false
  within : linePieces c.1 c.2 = [(c.1, c.2)]

theorem Readable.of_places {s t : State} {iss : Issuer} {c : Nat × Nat} (h : Readable s iss c) (g : SamePlaces s t)
    (hp : t.poison = s.poison) : Readable t iss c :=
  ⟨by rw [g.accessStatus]; exact h.status, by rw [g.localMemory]; exact h.here, by rw [g.failedHome]; exact h.sound,
    by rw [poisoned_of_poison hp]; exact h.clean, h.within⟩

theorem readPart_readable {s : State} (hs : Safety.settled s) {iss : Issuer} {c : Nat × Nat} (h : Readable s iss c) :
    readPart iss [] (s, [], false) c = ((load s iss c.1 c.2).1, [], false) := by
  obtain ⟨hload, -, -⟩ := load_one_piece hs h.status h.sound h.within h.clean
  have hhere := h.here
  unfold localMemory at hhere
  unfold readPart
  dsimp only
  rw [hload]
  split <;> first | rfl | simp_all

/-- The source is read whole: no failure, no poison, and memory stays. -/
theorem foldl_readPart_readable {iss : Issuer} (cs : List (Nat × Nat)) {s : State} (hs : Safety.settled s) (h : ∀ c ∈ cs, Readable s iss c) :
    (cs.foldl (readPart iss []) (s, [], false)).2 = ([], false) ∧ (cs.foldl (readPart iss []) (s, [], false)).1.mem = s.mem
      ∧ (cs.foldl (readPart iss []) (s, [], false)).1.poison = s.poison ∧ CopySteps s (cs.foldl (readPart iss []) (s, [], false)).1 := by
  induction cs generalizing s with
  | nil => exact ⟨rfl, rfl, rfl, .refl s⟩
  | cons c cs ih =>
    have hc := h c List.mem_cons_self
    obtain ⟨-, hmem, hpoison⟩ := load_one_piece hs hc.status hc.sound hc.within hc.clean
    have hstep := load_copySteps hs iss c.1 c.2
    rw [List.foldl_cons, readPart_readable hs hc, ← hmem, ← hpoison]
    generalize (load s iss c.1 c.2).1 = t at hpoison hstep ⊢
    obtain ⟨hread, hmem', hpoison', hsteps⟩ := ih (hstep.settled hs) fun x hx => (h x (List.mem_cons_of_mem c hx)).of_places hstep.places hpoison
    exact ⟨hread, hmem', hpoison', hstep.trans hsteps⟩

/-- No read of a source in module-local memory goes through a window. -/
theorem windowLines_local {s : State} (h : ∀ c ∈ j.sourceCuts, localMemory s c.1 = true) (iss : Issuer) : j.windowLines s iss = [] := by
  unfold sourceCuts at h
  unfold windowLines
  split
  · rfl
  next hop =>
    rw [if_neg hop] at h
    dsimp only
    rw [List.flatMap_eq_nil_iff.mpr]
    · rfl
    · intro r hr
      rw [List.filterMap_eq_nil_iff]
      intro c hc
      have hhere := h c (List.mem_flatMap.mpr ⟨r, hr, hc⟩)
      unfold localMemory at hhere
      split at hhere <;> simp_all

/-! ### Moving the data -/

/-- The issuer of a transfer's accesses. -/
abbrev issuer (j : CopyJob) (e : Nat) : Issuer := { kind := .copy, unit := e, part := some j.part }

theorem cvuBlock_copySteps {s : State} (hs : Safety.settled s) (u : Nat) (iss : Issuer) (i addr : Nat) (data : List Byte) :
    CopySteps s (cvuBlock s u iss i addr data).1 := by
  unfold cvuBlock
  extract_lets x v s₁ iss' r s₂
  have hcount : CopySteps s s₁ := .of_same rfl
  have hload : CopySteps s₁ s₂ := load_copySteps (hcount.settled hs) iss' _ 8
  have hstore : CopySteps s₁ (store s₁ iss' (x.exp + 8 * i) (leBytes 8 v)).1 := store_copySteps (hcount.settled hs) _ _ _ _
  clear_value s₂
  split
  · exact hcount.trans hstore
  · split
    · exact hcount.trans hload
    · split
      · exact hcount.trans hload
      · refine (hcount.trans hload).trans ?_
        rw [pitEvent_eq]
        exact .of_same rfl

/-- Without a check-value unit, a transfer whose source is sound and whose pieces all pass their checks writes them all. -/
theorem move_plain {s t : State} {e : Nat} (hread : j.read s (j.issuer e) [] = (t, [], false)) (hov : j.overlaps = false)
    (hcvu : j.cvu e = none) (hzero : ∀ p ∈ j.pieces false, j.writeStatus t (j.issuer e) p = 0) :
    j.move s e [] = (j.writeAll t t e (j.issuer e) [] (j.pieces false), 0) := by
  have hbad : (j.pieces false).filter (fun p => j.writeStatus t (j.issuer e) p != 0) = [] :=
    List.filter_eq_nil_iff.mpr fun p hp => by simp [hzero p hp]
  unfold move
  simp only [hread, hov, hcvu, List.find?_nil, hbad, Bool.false_eq_true, if_false, Nat.zero_ne_one]

/-- A transfer whose source is sound and whose pieces may all be written: it writes them all, beside what a check-value unit
does to its table, unless that unit ends it. -/
theorem move_steps {s : State} {e : Nat} (hs : Safety.settled s) (hop : j.op ≠ 4) (hov : j.overlaps = false)
    (hsrc : ∀ c ∈ j.sourceCuts, Readable s (j.issuer e) c) (hdst : ∀ p ∈ j.pieces false, j.Writable s (j.issuer e) p) :
    ∃ t c, CopySteps s t ∧ t.mem = s.mem ∧ CopySteps t c
      ∧ ((j.move s e []).2 = 0 → (j.move s e []).1 = j.writeAll t c e (j.issuer e) [] (j.pieces false))
      ∧ (j.cvu e = none → c = t ∧ (j.move s e []).2 = 0) ∧ CopySteps t (j.move s e []).1 := by
  obtain ⟨hread, hmem, -, hsteps⟩ := foldl_readPart_readable j.sourceCuts hs hsrc
  rw [← read_eq] at hread hmem hsteps
  rcases hr : j.read s (j.issuer e) [] with ⟨t, fails, pz⟩
  rw [hr] at hread hmem hsteps
  obtain ⟨rfl, rfl⟩ := Prod.mk.inj hread
  dsimp only at hmem hsteps
  have hst := hsteps.settled hs
  have hdst' : ∀ p ∈ j.pieces false, j.Writable t (j.issuer e) p := fun p hp => (hdst p hp).of_places hsteps.places
  have hzero : ∀ p ∈ j.pieces false, j.writeStatus t (j.issuer e) p = 0 := fun p hp => ((writable_iff hop).mp (hdst' p hp)).1
  have hall : ∀ {c : State} (ps : List Piece), CopySteps t c → ps ⊆ j.pieces false → CopySteps t (j.writeAll t c e (j.issuer e) [] ps) :=
    fun ps hc hps => hc.trans (writeAll_writable hop hov ps (hc.settled hst) (fun p hp => (hdst' p (hps hp)).of_places hc.places)
      fun p hp => (piece_bounds hop (hps hp)).2.2).2
  cases hcvu : j.cvu e with
  | none =>
    rw [move_plain hr hov hcvu hzero]
    exact ⟨t, t, hsteps, hmem, .refl t, fun _ => rfl, fun _ => ⟨rfl, rfl⟩, hall _ (.refl t) (List.Subset.refl _)⟩
  | some u =>
    have hsound : (j.pieces false).takeWhile (fun p => j.writeStatus t (j.issuer e) p == 0) = j.pieces false :=
      List.takeWhile_eq_self_iff.mpr fun p hp => by simp [hzero p hp]
    unfold move
    simp only [hr, hov, hcvu, List.find?_nil, hsound, Bool.false_eq_true, if_false]
    generalize hblocks : List.foldl _ (t, 0) (j.blocks _ _) = c
    have hc : CopySteps t c.1 := by
      rw [← hblocks]
      refine CopySteps.foldl₂ (r := (t, 0)) (fun r b hr => ?_) _ hst
      split
      · exact .refl r.1
      · exact cvuBlock_copySteps hr u _ _ _ _
    refine ⟨t, c.1, hsteps, hmem, hc, ?_, nofun, ?_⟩
    · split
      next hne => exact fun h => absurd h hne
      next => rw [List.getElem?_eq_none le_rfl]; exact fun _ => rfl
    · split
      next =>
        have hdraw : CopySteps c.1 (draw c.1 ((j.pieces false).length + 1)).2 := .of_same rfl
        exact hall _ (hc.trans hdraw) fun p hp => List.mem_of_mem_take hp
      next => rw [List.getElem?_eq_none le_rfl]; exact hall _ hc (List.Subset.refl _)

/-! ### Starting a descriptor -/

/-- An engine has taken a descriptor: its check-value unit is busy, and nothing is moved yet. -/
def begun (j : CopyJob) (s : State) (e : Nat) (more : List CopyJob) : State :=
  setCpe (match j.cvu e with
    | some u => setCvu s u { Machine.cvu s u with busy := true, blocks := 0 }
    | none => s) e { cpe s e with queue := more, busy := some j, status := 0, ended := false, reads := [], left := 0 }

theorem begun_places (j : CopyJob) (s : State) (e : Nat) (more : List CopyJob) :
    SamePlaces s (j.begun s e more) ∧ (j.begun s e more).mem = s.mem ∧ (j.begun s e more).poison = s.poison
      ∧ (j.begun s e more).towers = s.towers := by
  unfold begun
  split <;> exact ⟨⟨rfl, rfl, rfl, rfl, fun _ => rfl⟩, rfl, rfl, rfl⟩

theorem cpe_begun (j : CopyJob) (s : State) (e : Nat) (more : List CopyJob) :
    cpe (j.begun s e more) e = { cpe s e with queue := more, busy := some j, status := 0, ended := false, reads := [], left := 0 } :=
  cpe_setCpe_self ..

/-- An idle, enabled engine takes the next descriptor (R84). -/
structure Taken (j : CopyJob) (s : State) (e : Nat) (more : List CopyJob) : Prop where
  alive : alive s = true
  idle : (cpe s e).busy = none
  queue : (cpe s e).queue = j :: more
  enabled : copyEnabled s e = true

/-- A descriptor that an engine takes and whose transfer may start: sound, with its check-value unit free, and with no access
that must wait. -/
structure Starts (j : CopyJob) (s : State) (e : Nat) (more : List CopyJob) : Prop extends Taken j s e more where
  sound : j.bad = false
  cvu : ∀ u, j.cvu e = some u → cvuBad (Machine.cvu s u) j.part = false ∧ (Machine.cvu s u).busy = false
  ready : j.waits s = false

/-- A bad descriptor is refused (R85, R86). -/
theorem Taken.refused {s : State} {e : Nat} {more : List CopyJob} (h : j.Taken s e more) (hbad : j.bad = true) {mine : Nat → Bool}
    (hmine : mine j.op = true) : copyRow e mine s = setCpe s e { cpe s e with queue := more, busy := some j, status := 7, ended := true } := by
  unfold copyRow
  simp [h.alive, h.idle, h.queue, h.enabled, hmine, hbad]

/-- A descriptor that starts, without reads through a window, moves its data and is ended. -/
theorem Starts.copyRow {s : State} {e : Nat} {more : List CopyJob} (h : j.Starts s e more) (hlocal : ∀ c ∈ j.sourceCuts, localMemory s c.1 = true)
    {mine : Nat → Bool} (hmine : mine j.op = true) :
    let r := j.move (j.begun s e more) e []
    copyRow e mine s = setCpe r.1 e { cpe r.1 e with status := r.2, ended := true, reads := [] } := by
  have hnone : ∀ l : List Run, (l.any fun _ => false) = false := fun l => List.any_eq_false.mpr fun _ _ => Bool.false_ne_true
  dsimp only
  unfold Machine.copyRow
  cases hcvu : j.cvu e with
  | none =>
    unfold begun
    rw [hcvu]
    simp only [h.alive, h.idle, h.queue, h.enabled, h.sound, h.ready, hmine, hcvu, windowLines_local hlocal, hnone, cpe_setCpe_self, Bool.or_false,
      Bool.true_eq_false, Bool.false_eq_true, or_self, if_false, List.any_nil, List.foldl_nil, Nat.lt_irrefl]
  | some u =>
    obtain ⟨hcfg, hfree⟩ := h.cvu u hcvu
    unfold begun
    rw [hcvu]
    simp only [h.alive, h.idle, h.queue, h.enabled, h.sound, h.ready, hmine, hcvu, hcfg, hfree, windowLines_local hlocal, hnone, cpe_setCpe_self,
      Bool.or_false, Bool.true_eq_false, Bool.false_eq_true, or_self, if_false, List.any_nil, List.foldl_nil, Nat.lt_irrefl]

end CopyJob
end Sys2Proof.Machine
end

section
/-! `FILL`, `COPY` and `TRANSPOSE` (R84 to R86): the rows of the destination, byte for byte. -/
namespace Sys2Proof.Machine
open Sys2Proof

namespace CopyJob
variable {j : CopyJob}

/-- The rows of a descriptor that copies, fills or transposes are moved: every piece of the source may be read and is sound, every
piece of the destination may be written, and the destination's rows do not meet. -/
structure Moves (j : CopyJob) (s : State) (e : Nat) (more : List CopyJob) : Prop extends Starts j s e more where
  op : j.op ≠ 4
  apart : j.overlaps = false
  rows : j.rowsApart
  source : ∀ c ∈ j.sourceCuts, Readable s (j.issuer e) c
  dest : ∀ p ∈ j.pieces false, j.Writable s (j.issuer e) p
  settled : Safety.settled s
  canonical : Memory.wf s.mem = true

theorem outNibble_lt (m : List Host.Cell) (r b k : Nat) : j.outNibble m r b k < 16 := by
  unfold outNibble
  split
  · unfold fld
    rw [show 4 * (r % 2) + 3 + 1 - 4 * (r % 2) = 4 by omega]
    exact Nat.mod_lt _ (by decide)
  · have hbyte := (cellGet m (j.dst + r * j.dstStride + b)).isLt
    omega

/-- The engine holds the descriptor to its end, and where the status is `OK` every byte of the destination's rows is what the
operation puts there; without a check-value unit the status is `OK`, and every other byte is as before. -/
theorem Moves.copyRow {s : State} {e : Nat} {more : List CopyJob} (h : j.Moves s e more) {mine : Nat → Bool} (hmine : mine j.op = true) :
    let t := Machine.copyRow e mine s
    ((cpe t e).busy = some j ∧ (cpe t e).queue = more ∧ (cpe t e).ended = true ∧ (j.cvu e = none → (cpe t e).status = 0))
      ∧ ((cpe t e).status = 0 → ∀ r k, r < j.dstRows → k < j.dstRow →
          cellGet t.mem (j.dst + r * j.dstStride + k) = j.outByte s.mem r k)
      ∧ (j.cvu e = none → ∀ a, (∀ r, r < j.dstRows → a < j.dst + r * j.dstStride ∨ j.dst + r * j.dstStride + j.dstRow ≤ a) →
          cellGet t.mem a = cellGet s.mem a) := by
  obtain ⟨hplaces, hmem, hpoison, htowers⟩ := begun_places j s e more
  have hsettled : Safety.settled (j.begun s e more) := fun k => by rw [tow, htowers]; exact h.settled k
  obtain ⟨t, c, hread, hkept, hcvu, hmoved, hplain, hsteps⟩ := move_steps hsettled h.op h.apart
    (fun c hc => (h.source c hc).of_places hplaces hpoison) fun p hp => (h.dest p hp).of_places hplaces
  rw [h.toStarts.copyRow (fun c hc => (h.source c hc).here) hmine]
  dsimp only
  rw [cpe_setCpe_self, setCpe_mem]
  have hengine : cpe (j.move (j.begun s e more) e []).1 e = cpe (j.begun s e more) e := by
    unfold cpe
    rw [hsteps.engines, hread.engines]
  have hwf : Memory.wf c.mem = true := hcvu.wf (hread.wf (by rw [hmem]; exact h.canonical))
  have hbytes := cellGet_written_rows h.op h.rows s.mem hwf
  have hall : (j.move (j.begun s e more) e []).2 = 0 → (j.move (j.begun s e more) e []).1.mem = j.written s.mem c.mem (j.pieces false) := by
    intro hst
    rw [hmoved hst, (writeAll_writable h.op h.apart _ (hcvu.settled (hread.settled hsettled))
      (fun p hp => (h.dest p hp).of_places (hplaces.trans (hread.places.trans hcvu.places))) fun p hp => (piece_bounds h.op hp).2.2).1, hkept, hmem]
  refine ⟨⟨by rw [hengine, cpe_begun], by rw [hengine, cpe_begun], rfl, fun hc => (hplain hc).2⟩, fun hst r k hr hk => ?_, fun hc a ha => ?_⟩
  · rw [hall hst]
    exact hbytes.1 r k hr hk
  · obtain ⟨hct, hst⟩ := hplain hc
    rw [hall hst, hbytes.2 a ha, hct, hkept, hmem]

/-- Where the data of each operation comes from. -/
theorem outByte_fill (h : j.op = 3) (m : List Host.Cell) (r k : Nat) : j.outByte m r k = (leBytes 8 (j.w 1)).getD (k % 8) 0#8 := if_pos h

theorem outByte_copy (h : j.op = 1) (m : List Host.Cell) (r k : Nat) : j.outByte m r k = cellGet m (j.srcAt + r * j.srcStride + k) := by
  unfold outByte fromByte
  simp [h]

theorem dstRows_of_rows (h : j.op ≠ 2) : j.dstRows = j.rows := if_neg h

theorem sourceCuts_fill (h : j.op = 3) : j.sourceCuts = [] := if_pos h

theorem overlaps_fill (h : j.op = 3) : j.overlaps = false := by
  unfold overlaps
  simp [h]

/-- A piece of the source that may be read and is sound. -/
theorem readable_of_source {s : State} {iss : Issuer}
    (h : ∀ r, r < j.rows → ∀ c ∈ cuts (j.srcAt + r * j.srcStride) j.srcRow,
      accessStatus s iss .load c.1 c.2 = 0 ∧ localMemory s c.1 = true ∧ failedHome s c.1 = false ∧ poisoned s c.1 c.2 = false) :
    ∀ c ∈ j.sourceCuts, Readable s iss c := by
  intro c hc
  unfold sourceCuts at hc
  split at hc
  · exact absurd hc List.not_mem_nil
  · obtain ⟨r, hr, hc⟩ := List.mem_flatMap.mp hc
    obtain ⟨hst, hhere, hsound, hclean⟩ := h r (List.mem_range.mp hr) c hc
    exact ⟨hst, hhere, hsound, hclean, linePieces_cut hc⟩

/-- A bad descriptor is refused by the row of its operation, or by `COPY`'s where it names none. -/
theorem Taken.exec_refused {s : State} {e : Nat} {more : List CopyJob} (h : j.Taken s e more) (hbad : j.bad = true) :
    ∃ c ∈ [Instr.copyI e, .transposeI e, .fillI e, .accwI e],
      Machine.exec c s = .next (setCpe s e { cpe s e with queue := more, busy := some j, status := 7, ended := true }) := by
  have hop : (j.op == 1 || j.op == 0 || decide (4 < j.op)) = true ∨ (j.op == 2) = true ∨ (j.op == 3) = true ∨ (j.op == 4) = true := by
    simp only [Bool.or_eq_true, beq_iff_eq, decide_eq_true_eq]
    omega
  rcases hop with hop | hop | hop | hop
  · exact ⟨.copyI e, by simp, congrArg Host.Outcome.next (h.refused (mine := fun op => op == 1 || op == 0 || decide (4 < op)) hbad hop)⟩
  · exact ⟨.transposeI e, by simp, congrArg Host.Outcome.next (h.refused (mine := fun op => op == 2) hbad hop)⟩
  · exact ⟨.fillI e, by simp, congrArg Host.Outcome.next (h.refused (mine := fun op => op == 3) hbad hop)⟩
  · exact ⟨.accwI e, by simp, congrArg Host.Outcome.next (h.refused (mine := fun op => op == 4) hbad hop)⟩

end CopyJob

open CopyJob

/-- Settles O12: the rows of both operations are the pieces written over memory, each byte once, beside the table of a check-value
unit; a bad descriptor is refused. -/
theorem copyEngineFillAndCopy : Obligations.CopyEngineFillAndCopy := by
  unfold Obligations.CopyEngineFillAndCopy
  refine ⟨?_, ?_, ?_⟩
  · rintro s e j more ⟨⟨halive, hidle, hqueue, hen⟩, hbad, hcvu, hready, hrows, hwf, hs, hdst⟩ hop
    have hop4 : j.op ≠ 4 := by omega
    have hrow : j.dstRows = j.rows := dstRows_of_rows (by omega)
    have hmoves : j.Moves s e more :=
      { alive := halive, idle := hidle, queue := hqueue, enabled := hen, sound := hbad, cvu := hcvu, ready := hready, op := hop4
        apart := overlaps_fill hop, rows := by rw [rowsApart, hrow]; exact hrows, source := by rw [sourceCuts_fill hop]; simp
        dest := fun p hp => (writable_iff hop4).mpr (hdst p hp), settled := hs, canonical := hwf }
    obtain ⟨hdone, hbytes, hout⟩ := hmoves.copyRow (mine := fun op => op == 3) (by simp [hop])
    rw [hrow] at hbytes hout
    refine ⟨_, rfl, hdone, fun hst r i hr hi => ?_, fun hc a ha => ?_⟩
    · rw [readMem_one, hbytes hst r i hr hi, outByte_fill hop]
    · rw [readMem_one, readMem_one, hout hc a ha]
  · rintro s e j more ⟨⟨halive, hidle, hqueue, hen⟩, hbad, hcvu, hready, hrows, hwf, hs, hdst⟩ hop hapart hsrc
    have hop4 : j.op ≠ 4 := by omega
    have hrow : j.dstRows = j.rows := dstRows_of_rows (by omega)
    have hmoves : j.Moves s e more :=
      { alive := halive, idle := hidle, queue := hqueue, enabled := hen, sound := hbad, cvu := hcvu, ready := hready, op := hop4
        apart := hapart, rows := by rw [rowsApart, hrow]; exact hrows, source := readable_of_source hsrc
        dest := fun p hp => (writable_iff hop4).mpr (hdst p hp), settled := hs, canonical := hwf }
    obtain ⟨hdone, hbytes, hout⟩ := hmoves.copyRow (mine := fun op => op == 1 || op == 0 || decide (4 < op)) (by simp [hop])
    rw [hrow] at hbytes hout
    refine ⟨_, rfl, hdone, fun hst r i hr hi => ?_, fun hc a ha => ?_⟩
    · rw [readMem_one, readMem_one, hbytes hst r i hr hi, outByte_copy hop]
    · rw [readMem_one, readMem_one, hout hc a ha]
  · rintro s e j more ⟨halive, hidle, hqueue, hen⟩ hbad
    obtain ⟨c, hc, hexec⟩ := Taken.exec_refused ⟨halive, hidle, hqueue, hen⟩ hbad
    exact ⟨c, _, hc, hexec, rfl⟩

end Sys2Proof.Machine
end

section
/-! `TRANSPOSE` and `ACCW` of the copy engines, and the end of a transfer (R62, R86, R88, R89). -/
namespace Sys2Proof.Machine
open Sys2Proof

/-! ### Bytes and masks -/

theorem readNat_one (s : State) (a : Nat) : readNat s a 1 = (cellGet s.mem a).toNat := by
  rw [readNat, readMem_one]
  simp [leNat]

theorem leNat_lt (bs : List Byte) : leNat bs < 256 ^ bs.length := by
  induction bs with
  | nil => simp [leNat]
  | cons b bs ih =>
    have hb := b.isLt
    rw [leNat, List.length_cons, Nat.pow_succ]
    omega

theorem readNat_lt (s : State) (a n : Nat) : readNat s a n < 256 ^ n := by
  have h := leNat_lt (readMem s a n)
  rwa [show (readMem s a n).length = n by simp [readMem]] at h

/-- Bytes within a run of bytes. -/
theorem drop_take_readMem (s : State) (a : Nat) {d m n : Nat} (h : d + m ≤ n) : ((readMem s a n).drop d).take m = readMem s (a + d) m := by
  obtain ⟨k, rfl⟩ := Nat.exists_eq_add_of_le h
  have hlen : ∀ b i, (readMem s b i).length = i := fun b i => by simp [readMem]
  rw [Nat.add_assoc, readMem_add, List.drop_left' (hlen a d), readMem_add, List.take_left' (hlen _ m)]

theorem getLsbD_maskOf (l : List Nat) {k : Nat} (hk : k < 32) : (maskOf l).getLsbD k = decide (k ∈ l) := by
  have hfold : ∀ m : W32, (l.foldl (fun m i => m ||| (1#32 <<< i)) m).getLsbD k = (m.getLsbD k || decide (k ∈ l)) := by
    induction l with
    | nil => intro m; simp
    | cons i l ih =>
      intro m
      have hbit : (1#32 <<< i).getLsbD k = decide (k = i) := by
        rw [Bool.eq_iff_iff]
        simp [BitVec.getLsbD_shiftLeft, BitVec.getLsbD_one]
        omega
      rw [List.foldl_cons, ih, BitVec.getLsbD_or, hbit, Bool.or_assoc]
      simp only [List.mem_cons, Bool.decide_or]
  rw [maskOf, hfold]
  simp

/-! ### Transposes (R86) -/

namespace CopyJob
variable {j : CopyJob}

/-- Bits of an element: 4, or whole bytes. -/
theorem bits_cases (j : CopyJob) : j.bits = 4 ∨ (8 ≤ j.bits ∧ j.bits = 8 * (j.bits / 8)) := by
  unfold bits
  cases fld (j.w 0) 59 57 with
  | zero => exact .inl rfl
  | succ n =>
    have hpow : 1 ≤ 2 ^ n := Nat.one_le_two_pow
    rw [Nat.pow_succ]
    exact .inr (by omega)

/-- Element (r, c) of whole bytes lies in row c of the destination, at element r. -/
theorem outByte_transpose (hop : j.op = 2) (hbits : 8 ≤ j.bits) (m : List Host.Cell) {r c b : Nat} (hr : r < j.rows) (hb : b < j.bits / 8) :
    r * (j.bits / 8) + b < j.dstRow
      ∧ j.outByte m c (r * (j.bits / 8) + b) = cellGet m (j.srcAt + r * j.srcStride + c * (j.bits / 8) + b) := by
  have hcases := j.bits_cases
  have hmul : (r + 1) * (j.bits / 8) ≤ j.rows * (j.bits / 8) := Nat.mul_le_mul_right _ hr
  rw [Nat.succ_mul] at hmul
  have hdiv : (r * (j.bits / 8) + b) / (j.bits / 8) = r := by
    rw [Nat.mul_comm, Nat.mul_add_div (by omega), Nat.div_eq_of_lt hb, Nat.add_zero]
  have hmod : (r * (j.bits / 8) + b) % (j.bits / 8) = b := by
    rw [Nat.mul_comm, Nat.mul_add_mod, Nat.mod_eq_of_lt hb]
  constructor
  · have hrows : j.rows * j.bits = 8 * (j.rows * (j.bits / 8)) := by
      rw [Nat.mul_left_comm]; congr 1; omega
    unfold dstRow cdiv
    rw [if_pos hop, hrows]
    omega
  · unfold outByte fromByte
    rw [if_neg (by omega), if_neg (by omega), if_pos hop, hdiv, hmod]

/-- Half `k % 2` of a byte that a transpose of 4-bit elements writes. -/
theorem outByte_nibble (hop : j.op = 2) (hbits : j.bits = 4) (m : List Host.Cell) {r c : Nat} (hr : r < j.rows) :
    r / 2 < j.dstRow ∧ (j.outByte m c (r / 2)).toNat / 16 ^ (r % 2) % 16
      = (cellGet m (j.srcAt + r * j.srcStride + c / 2)).toNat / 16 ^ (c % 2) % 16 := by
  constructor
  · unfold dstRow cdiv
    rw [if_pos hop, hbits]
    omega
  · have hfld : ∀ x, fld x (4 * (c % 2) + 3) (4 * (c % 2)) = x / 16 ^ (c % 2) % 16 := fun x => by
      unfold fld
      rw [show 4 * (c % 2) + 3 + 1 - 4 * (c % 2) = 4 by omega, Nat.shiftRight_eq_div_pow, Nat.pow_mul]
      rfl
    have hr2 : j.outNibble m c (r / 2) r = (cellGet m (j.srcAt + r * j.srcStride + c / 2)).toNat / 16 ^ (c % 2) % 16 := by
      rw [outNibble, if_pos hr, hfld]
    have hlow := j.outNibble_lt m c (r / 2) (2 * (r / 2))
    have hhigh := j.outNibble_lt m c (r / 2) (2 * (r / 2) + 1)
    unfold outByte
    rw [if_neg (by omega), if_pos ⟨hop, hbits⟩, BitVec.toNat_ofNat, ← hr2]
    rcases Nat.mod_two_eq_zero_or_one r with h | h
    · rw [show 2 * (r / 2) = r by omega] at hlow hhigh ⊢
      rw [h]
      omega
    · rw [show 2 * (r / 2) + 1 = r by omega] at hhigh ⊢
      rw [h]
      omega

end CopyJob

/-! ### Homes and units of neighbouring bytes -/

/-- An address is homed where its 64 B unit is. -/
theorem home_of_unit {a b : Nat} (h : a / 64 = b / 64) (s : State) : home s a = home s b := by
  have hdiv : ∀ c m, c % 64 = 0 → (a - c) / (64 * m) = (b - c) / (64 * m) := fun c m hc => by
    rw [← Nat.div_div_eq_div_mul, ← Nat.div_div_eq_div_mul, show (a - c) / 64 = (b - c) / 64 by omega]
  have hfast : a < fastEnd s ↔ b < fastEnd s := by unfold fastEnd; omega
  have hgranule : a / 4096 = b / 4096 := by omega
  have hdeep : (0x040000000000 ≤ a ∧ a < 0x058000000000) ↔ (0x040000000000 ≤ b ∧ b < 0x058000000000) := by omega
  have hengine : (a - 0x040000000000) / 0x003000000000 = (b - 0x040000000000) / 0x003000000000 := hdiv _ 0xC0000000 rfl
  have hpackage : (a - deepBase ((b - 0x040000000000) / 0x003000000000)) / 4096 = (b - deepBase ((b - 0x040000000000) / 0x003000000000)) / 4096 := by
    unfold deepBase; omega
  have hnear : (0x080000000000 ≤ a ∧ a < 0x080180000000) ↔ (0x080000000000 ≤ b ∧ b < 0x080180000000) := by omega
  have htower : (a - 0x080000000000) / 0x60000000 = (b - 0x080000000000) / 0x60000000 := hdiv _ 0x1800000 rfl
  have hscratch : (a - 0x080000000000) % 0x60000000 < scratchUnits s ((b - 0x080000000000) / 0x60000000) * 0x10000000
      ↔ (b - 0x080000000000) % 0x60000000 < scratchUnits s ((b - 0x080000000000) / 0x60000000) * 0x10000000 := by omega
  have hslm : (slmBase ≤ a ∧ a < slmEnd) ↔ (slmBase ≤ b ∧ b < slmEnd) := by unfold slmBase slmEnd; omega
  have hlocal : a % 0x01000000 < 0x100000 ↔ b % 0x01000000 < 0x100000 := by omega
  have hcluster : (a - slmBase) / 0x01000000 = (b - slmBase) / 0x01000000 := hdiv slmBase 0x40000 rfl
  have hwindow : (0x0A0000000000 ≤ a ∧ a < 0x0B0000000000) ↔ (0x0A0000000000 ≤ b ∧ b < 0x0B0000000000) := by omega
  have hregs : (0x0F0000000000 ≤ a ∧ a ≤ 0x0F08FFFFFFFF) ↔ (0x0F0000000000 ≤ b ∧ b ≤ 0x0F08FFFFFFFF) := by omega
  unfold home
  simp only [hfast, hgranule, hdeep, hengine, hpackage, hnear, htower, hscratch, hslm, hlocal, hcluster, hwindow, hregs]

theorem failedHome_of_unit {a b : Nat} (h : a / 64 = b / 64) (s : State) : failedHome s a = failedHome s b := by
  unfold failedHome
  rw [home_of_unit h]

/-- A byte of sound data is sound. -/
theorem poisoned_one_of_clean {s : State} {a n x : Nat} (h : poisoned s a n = false) (hlo : a ≤ x) (hhi : x < a + n) (hunit : x / 64 = a / 64) :
    poisoned s x 1 = false := by
  have hsize : unitSize x = unitSize a := by
    have hslm : inSlm x = inSlm a := by
      rw [Bool.eq_iff_iff, inSlm_iff, inSlm_iff]
      unfold slmBase slmEnd
      omega
    rw [unitSize_eq, unitSize_eq, hslm]
  have hw := unitSize_cases a
  unfold poisoned at h ⊢
  rw [List.any_eq_false] at h ⊢
  intro u hu
  refine h u ?_
  rw [unitsOf_eq le_rfl, hsize, List.mem_map] at hu
  rw [unitsOf_eq (by omega), List.mem_map]
  obtain ⟨i, hi, rfl⟩ := hu
  rw [List.mem_range] at hi
  refine ⟨x / unitSize a - a / unitSize a, List.mem_range.mpr ?_, ?_⟩
  · generalize unitSize a = w at hw
    rcases hw with rfl | rfl <;> omega
  · congr 1
    generalize unitSize a = w at hw hi
    rcases hw with rfl | rfl <;> omega

/-! ### Accumulate transfers (R62) -/

namespace CopyJob
variable {j : CopyJob}

/-- The accumulate-write that a piece of an accumulate transfer is. -/
def accwOf (j : CopyJob) (s : State) (e : Nat) (p : Piece) : AccWrite :=
  let o := j.at p % 128 / 4
  let bs := (j.data s [] p).1
  { iss := j.issuer e, addr := j.at p / 128 * 128, int := bit (j.w 0) 53, mask := maskOf ((List.range (p.len / 4)).map (o + ·))
    data := (List.range 32).map fun i => BitVec.ofNat 32 (if o ≤ i then leNat ((bs.drop (4 * (i - o))).take 4) else 0)
    poison := (j.data s [] p).2 }

theorem write_accw (hop : j.op = 4) (s0 s : State) (e : Nat) (p : Piece) :
    j.write s e (j.issuer e) p (j.data s0 [] p).1 (j.data s0 [] p).2 = (accw s (j.accwOf s0 e p)).1 := if_pos hop

/-- Pieces whose lines are all homed in the scratch of one tower: their accumulate-writes join its adder queue, in their order. -/
theorem writeAll_accw (hop : j.op = 4) (hov : j.overlaps = false) {s0 : State} {e tw : Nat} (ps : List Piece) {s : State}
    (hst : ∀ p ∈ ps, accwStatus s (j.issuer e) (j.at p / 128 * 128) = 0) (hhome : ∀ p ∈ ps, home s (j.at p / 128 * 128) = .scratch tw) :
    (tow (j.writeAll s0 s e (j.issuer e) [] ps) tw).adder = (tow s tw).adder ++ ps.map (j.accwOf s0 e)
      ∧ (j.writeAll s0 s e (j.issuer e) [] ps).mem = s.mem ∧ (j.writeAll s0 s e (j.issuer e) [] ps).copyEngines = s.copyEngines := by
  rw [writeAll_eq hov]
  induction ps generalizing s with
  | nil => exact ⟨(List.append_nil _).symm, rfl, rfl⟩
  | cons p ps ih =>
    have hp := accw_accepted (a := j.accwOf s0 e p) (hst p List.mem_cons_self) (hhome p List.mem_cons_self)
    have hplaces : SamePlaces s (setTow s tw { tow s tw with adder := (tow s tw).adder ++ [j.accwOf s0 e p] }) :=
      ⟨rfl, rfl, rfl, rfl, fun k => by
        rw [tow_setTow]; split
        next h => subst h; rfl
        next => rfl⟩
    rw [List.foldl_cons, write_accw hop, hp]
    obtain ⟨hadder, hmem, hengines⟩ := ih (fun q hq => (hplaces.accwStatus _ _).trans (hst q (List.mem_cons_of_mem p hq)))
      fun q hq => (hplaces.home _).trans (hhome q (List.mem_cons_of_mem p hq))
    refine ⟨?_, hmem, hengines⟩
    rw [hadder, tow_setTow_self, List.append_assoc, List.map_cons]
    rfl

/-- A piece of an accumulate transfer lies within its row and within a line. -/
theorem accw_piece_bounds (hop : j.op = 4) {p : Piece} (hp : p ∈ j.pieces false) :
    p.row < j.dstRows ∧ p.off + p.len ≤ j.dstRow ∧ j.at p % 128 + p.len ≤ 128 := by
  unfold pieces at hp
  simp only [List.mem_flatMap, List.mem_range, Bool.false_eq_true, if_false, hop, if_true, List.mem_map] at hp
  obtain ⟨r, hr, i, hi, rfl⟩ := hp
  unfold CopyJob.at
  dsimp only
  omega

/-- The source's rows of an accumulate transfer are as long as the destination's, and each byte of them is sound. -/
theorem sourcePoison_of_readable (hop : j.op = 4) {s : State} {iss : Issuer} (h : ∀ c ∈ j.sourceCuts, Readable s iss c) {r k : Nat}
    (hr : r < j.rows) (hk : k < j.dstRow) : sourcePoison s [] (j.srcAt + r * j.srcStride + k) = false := by
  have hrow : j.srcRow = j.dstRow := by unfold srcRow dstRow; rw [hop]; rfl
  obtain ⟨c, hc, hlo, hhi⟩ := exists_mem_cuts (Nat.le_add_right (j.srcAt + r * j.srcStride) k) (Nat.add_lt_add_left (hrow.symm ▸ hk) _)
  have hunit : (j.srcAt + r * j.srcStride + k) / 64 = c.1 / 64 := by
    obtain ⟨-, -, -, hchunk⟩ := mem_cuts hc
    rcases unitSize_cases (j.srcAt + r * j.srcStride) with hw | hw <;> rw [hw] at hchunk <;> omega
  have hread := h c (by
    unfold sourceCuts
    rw [if_neg (by omega)]
    exact List.mem_flatMap.mpr ⟨r, List.mem_range.mpr hr, hc⟩)
  have hpoison := poisoned_one_of_clean hread.clean hlo hhi hunit
  change (failedHome s _ || poisoned s _ 1) = false
  rw [failedHome_of_unit hunit, hread.sound, hpoison]
  rfl

/-- What the accumulate-write of a piece holds: the source's elements at their places in the line (R62, R86). -/
theorem accwOf_spec (hop : j.op = 4) {s : State} {e : Nat} {iss : Issuer} (hsrc : ∀ c ∈ j.sourceCuts, Readable s iss c) {p : Piece}
    (hp : p ∈ j.pieces false) :
    (j.accwOf s e p).addr = j.at p / 128 * 128 ∧ (j.accwOf s e p).int = bit (j.w 0) 53 ∧ (j.accwOf s e p).poison = false
      ∧ ∀ k, k < 32 →
        (j.accwOf s e p).mask.getLsbD k = (decide (j.at p % 128 / 4 ≤ k) && decide (k < j.at p % 128 / 4 + p.len / 4))
        ∧ ((j.accwOf s e p).mask.getLsbD k = true → ((j.accwOf s e p).data.getD k 0#32).toNat
            = readNat s (j.srcAt + p.row * j.srcStride + p.off + 4 * (k - j.at p % 128 / 4)) 4) := by
  obtain ⟨hrow, hlen, -⟩ := accw_piece_bounds hop hp
  rw [dstRows_of_rows (by omega)] at hrow
  have hmask : ∀ k, k < 32 → (j.accwOf s e p).mask.getLsbD k = (decide (j.at p % 128 / 4 ≤ k) && decide (k < j.at p % 128 / 4 + p.len / 4)) := by
    intro k hk
    change (maskOf _).getLsbD k = _
    rw [getLsbD_maskOf _ hk, ← Bool.decide_and]
    refine decide_eq_decide.mpr ?_
    simp only [List.mem_map, List.mem_range]
    exact ⟨by rintro ⟨i, hi, rfl⟩; omega, fun h => ⟨k - j.at p % 128 / 4, by omega, by omega⟩⟩
  have hbytes : (j.data s [] p).1 = readMem s (j.srcAt + p.row * j.srcStride + p.off) p.len := by
    rw [data_eq]
    refine List.map_congr_left fun i _ => ?_
    unfold outByte fromByte
    rw [if_neg (by omega), if_neg (by omega), if_neg (by omega), Nat.add_assoc _ p.off]
  refine ⟨rfl, rfl, ?_, fun k hk => ⟨hmask k hk, fun hset => ?_⟩⟩
  · change (j.data s [] p).2 = false
    unfold data sources
    dsimp only
    rw [if_neg (by omega), if_neg (by omega), if_neg (by omega), if_neg (by omega), List.any_map]
    refine List.any_eq_false.mpr fun i hi => ?_
    rw [List.mem_range] at hi
    have hclean := sourcePoison_of_readable hop hsrc hrow (k := p.off + i) (by omega)
    rw [← Nat.add_assoc] at hclean
    simp only [Function.comp, hclean, Bool.false_eq_true, not_false_eq_true]
  · rw [hmask k hk, Bool.and_eq_true, decide_eq_true_eq, decide_eq_true_eq] at hset
    have hlt := readNat_lt s (j.srcAt + p.row * j.srcStride + p.off + 4 * (k - j.at p % 128 / 4)) 4
    unfold accwOf
    dsimp only
    rw [List.getD_eq_getElem?_getD, List.getElem?_map, List.getElem?_range hk, Option.map_some, Option.getD_some, BitVec.toNat_ofNat,
      if_pos hset.1, hbytes, drop_take_readMem _ _ (by omega)]
    exact Nat.mod_eq_of_lt hlt

end CopyJob
end Sys2Proof.Machine
end

section
/-! Accumulate transfers as a whole, and the completion record at a transfer's end (R62, R88, R89). -/
namespace Sys2Proof.Machine
open Sys2Proof

namespace CopyJob
variable {j : CopyJob}

/-- The lines of an accumulate transfer: every piece of the source may be read and is sound, every line of the destination lies in
the scratch of tower `tw` and passes its checks. -/
structure Accumulates (j : CopyJob) (s : State) (e : Nat) (more : List CopyJob) (tw : Nat) : Prop extends Starts j s e more where
  op : j.op = 4
  unchecked : j.cvu e = none
  apart : j.overlaps = false
  source : ∀ c ∈ j.sourceCuts, Readable s (j.issuer e) c
  status : ∀ p ∈ j.pieces false, j.writeStatus s (j.issuer e) p = 0
  scratch : ∀ p ∈ j.pieces false, home s (j.at p / 128 * 128) = .scratch tw
  settled : Safety.settled s

/-- The tower's adder gets one accumulate-write for each piece, and memory stays. -/
theorem Accumulates.copyRow {s : State} {e tw : Nat} {more : List CopyJob} (h : j.Accumulates s e more tw) {mine : Nat → Bool}
    (hmine : mine j.op = true) :
    let t := Machine.copyRow e mine s
    (cpe t e).busy = some j ∧ (cpe t e).ended = true ∧ (cpe t e).status = 0 ∧ t.mem = s.mem
      ∧ ∃ u, u.mem = s.mem ∧ (∀ c ∈ j.sourceCuts, Readable u (j.issuer e) c) ∧ (tow t tw).adder = (j.pieces false).map (j.accwOf u e) := by
  obtain ⟨hplaces, hmem, hpoison, htowers⟩ := begun_places j s e more
  have hsettled : Safety.settled (j.begun s e more) := fun k => by rw [tow, htowers]; exact h.settled k
  obtain ⟨hread, hkept, hclean, hsteps⟩ := foldl_readPart_readable (iss := j.issuer e) j.sourceCuts hsettled
    fun c hc => (h.source c hc).of_places hplaces hpoison
  rw [← read_eq] at hread hkept hclean hsteps
  rcases hr : j.read (j.begun s e more) (j.issuer e) [] with ⟨u, fails, pz⟩
  rw [hr] at hread hkept hclean hsteps
  obtain ⟨rfl, rfl⟩ := Prod.mk.inj hread
  dsimp only at hkept hclean hsteps
  have hall : SamePlaces s u := hplaces.trans hsteps.places
  have haccw : ∀ p ∈ j.pieces false, accwStatus u (j.issuer e) (j.at p / 128 * 128) = 0 := fun p hp => by
    rw [hall.accwStatus, ← h.status p hp, writeStatus, if_pos h.op]
  have hmove := move_plain hr h.apart h.unchecked fun p hp => by rw [writeStatus, if_pos h.op]; exact haccw p hp
  obtain ⟨hadder, hmem', hengines⟩ := writeAll_accw (s0 := u) h.op h.apart (j.pieces false) haccw fun p hp => (hall.home _).trans (h.scratch p hp)
  rw [(hsteps.settled hsettled tw).1, List.nil_append] at hadder
  have hengine : cpe (j.writeAll u u e (j.issuer e) [] (j.pieces false)) e = cpe (j.begun s e more) e := by
    unfold cpe
    rw [hengines, hsteps.engines]
  rw [h.toStarts.copyRow (fun c hc => (h.source c hc).here) hmine, hmove]
  dsimp only
  rw [cpe_setCpe_self, setCpe_mem]
  refine ⟨by rw [hengine, cpe_begun], rfl, rfl, by rw [hmem', hkept, hmem], u, hkept.trans hmem,
    fun c hc => (h.source c hc).of_places hall (hclean.trans hpoison), hadder⟩

/-! ### The end of a transfer (R88) -/

theorem completeCmd_leaves (s : State) (q i : Nat) : (completeCmd s q i).mem = s.mem ∧ (completeCmd s q i).copyEngines = s.copyEngines := by
  unfold completeCmd
  dsimp only
  split
  · exact ⟨rfl, rfl⟩
  · split <;> exact ⟨rfl, rfl⟩

/-- The completion record that a descriptor asks for: its status and its tag (R88). -/
def recordBytes (j : CopyJob) (st : Nat) : List Byte := leBytes 8 (st * 2 ^ 48 + fld (j.w 7) 47 0)

/-- Memory after the record is written, where one is asked for. -/
def afterRecord (j : CopyJob) (s : State) (e st : Nat) : State :=
  if j.record then (store s (j.issuer e) j.recordAt (j.recordBytes st)).1 else s

/-- The record lies in module-local memory, or none is asked for: the end of a descriptor writes it, and counts at the engine. -/
theorem finish_leaves {s : State} {e st : Nat} {ran : Bool} (h : j.record = true → localMemory s j.recordAt = true) :
    let t := j.finish s e st ran
    t.mem = (j.afterRecord s e st).mem ∧ (cpe t e).busy = (cpe (j.afterRecord s e st) e).busy ∧ (cpe t e).lastStatus = st
      ∧ (cpe t e).done = (cpe (j.afterRecord s e st) e).done + 1 := by
  unfold finish
  extract_lets t iss bs s₁ s₂ x s₃ s₄
  have hrecord : s₁ = j.afterRecord s e st := by
    unfold s₁ afterRecord
    split
    next hrec =>
      have hhere := h hrec
      unfold localMemory at hhere
      split
      next heq => rw [heq] at hhere; exact absurd hhere Bool.false_ne_true
      next heq => rw [heq] at hhere; exact absurd hhere Bool.false_ne_true
      next => rfl
    next => rfl
  have hunit : s₂.mem = s₁.mem ∧ s₂.copyEngines = s₁.copyEngines := by
    unfold s₂
    split
    · split <;> exact ⟨rfl, rfl⟩
    · exact ⟨rfl, rfl⟩
  have hlast : s₄.mem = s₃.mem ∧ s₄.copyEngines = s₃.copyEngines := by
    unfold s₄
    split
    · exact completeCmd_leaves s₃ _ _
    · exact ⟨rfl, rfl⟩
  have hengine : cpe s₄ e = cpe s₃ e := by unfold cpe; rw [hlast.2]
  have hengine' : cpe s₂ e = cpe s₁ e := by unfold cpe; rw [hunit.2]
  have hcpe : cpe s₃ e = { cpe s₂ e with lastStatus := st, done := (cpe s₂ e).done + 1 } := cpe_setCpe_self ..
  rw [hengine, hcpe, hengine', hrecord]
  exact ⟨hlast.1.trans (hunit.1.trans (congrArg State.mem hrecord)), rfl, rfl, rfl⟩

/-- An engine at the headframe of whose tower nothing is left to send ends its transfer (R360, R362). -/
theorem exec_copyTransferDone {s : State} {e : Nat} (halive : alive s = true) (hbusy : (cpe s e).busy = some j) (hended : (cpe s e).ended = true)
    (hruns : (hf s (e / 8)).runs = []) (hstores : (hf s (e / 8)).stores = [])
    (hfailures : fld (j.w 0) 56 54 = 5 → (hf s (e / 8)).failures = []) (hready : (j.record && Machine.waits s j.recordAt) = false) :
    ∃ m, Machine.exec (.copyTransferDone e) s = .next (j.finish
      (setCpe { s with headframes := m } e { cpe s e with busy := none, ended := false }) e (cpe s e).status ((cpe s e).status != 7)) := by
  have hkeep : ∀ h : Headframe, h.runs = [] → h.stores = [] → { h with runs := [], stores := [] } = h := by
    rintro ⟨⟩ rfl rfl
    rfl
  have hflush : flushRunsAt s (e / 8) (copyCode e) = setHf s (e / 8) (hf s (e / 8)) := by
    unfold flushRunsAt dueRuns
    dsimp only
    rw [hruns, hstores, List.map_nil]
    unfold sendDue
    rw [hf_setHf_self, List.map_nil, List.foldl_nil]
    exact congrArg _ (hkeep _ hruns hstores)
  have hhf : hf (setHf s (e / 8) (hf s (e / 8))) (e / 8) = hf s (e / 8) := hf_setHf_self ..
  have hholds : holdsRunsAt (setHf s (e / 8) (hf s (e / 8))) (e / 8) (copyCode e) = false := by
    unfold holdsRunsAt allRuns
    rw [hhf, hruns, hstores]
    rfl
  have hwaits : Machine.waits (setHf s (e / 8) (hf s (e / 8))) j.recordAt = Machine.waits s j.recordAt := rfl
  change ∃ m, execCopyTransferDone e s = _
  unfold execCopyTransferDone
  simp only [hbusy, hended, halive, hflush, hholds, hwaits, hready, Bool.false_eq_true, Bool.true_eq_false, and_false, or_self, if_false]
  split
  next hscope =>
    have hnone : (takeFailuresAt (setHf s (e / 8) (hf s (e / 8))) (e / 8) (copyCode e)).1 = [] := by
      unfold takeFailuresAt
      dsimp only
      rw [hhf, hfailures hscope]
      rfl
    rw [hnone]
    exact ⟨_, by simp only [List.map_nil, List.headD_nil, ite_self]; rfl⟩
  next => exact ⟨_, by simp only [List.map_nil, List.headD_nil, ite_self]; rfl⟩

/-- The record in memory. -/
theorem afterRecord_steps {s : State} {e st : Nat} (hs : Safety.settled s) (hrec : j.record = true)
    (hst : accessStatus s (j.issuer e) .store j.recordAt 8 = 0) (hf : failedHome s j.recordAt = false) :
    (j.afterRecord s e st).mem = cellsPut s.mem j.recordAt (j.recordBytes st) := by
  have hlen : (j.recordBytes st).length = 8 := leBytes_length ..
  have haligned : j.recordAt % 8 = 0 := by
    unfold record at hrec
    simp only [Bool.and_eq_true, beq_iff_eq] at hrec
    exact hrec.2
  unfold afterRecord
  rw [if_pos hrec]
  exact store_one_piece hs (by rw [hlen]; exact hst) hf (by rw [hlen]; exact linePieces_one (by decide) (by omega)) false

end CopyJob

open CopyJob

/-- The end of a transfer: its engine is free, and has counted it with its status; its record is in memory, where it asked for one. -/
theorem copyTransferDone_steps {s : State} {e : Nat} {j : CopyJob} (halive : alive s = true) (hbusy : (cpe s e).busy = some j)
    (hended : (cpe s e).ended = true) (hruns : (hf s (e / 8)).runs = []) (hstores : (hf s (e / 8)).stores = [])
    (hfailures : fld (j.w 0) 56 54 = 5 → (hf s (e / 8)).failures = []) (hs : Safety.settled s)
    (hrecord : j.record = true → localMemory s j.recordAt = true ∧ waits s j.recordAt = false ∧ failedHome s j.recordAt = false
      ∧ accessStatus s (j.issuer e) .store j.recordAt 8 = 0) :
    ∃ t, Machine.exec (.copyTransferDone e) s = .next t ∧ (cpe t e).busy = none ∧ (cpe t e).lastStatus = (cpe s e).status
      ∧ (cpe t e).done = (cpe s e).done + 1
      ∧ t.mem = if j.record then cellsPut s.mem j.recordAt (j.recordBytes (cpe s e).status) else s.mem := by
  have hready : (j.record && waits s j.recordAt) = false := by
    cases hrec : j.record with
    | false => rfl
    | true => exact (hrecord hrec).2.1
  obtain ⟨m, hexec⟩ := exec_copyTransferDone halive hbusy hended hruns hstores hfailures hready
  generalize hu : setCpe { s with headframes := m } e { cpe s e with busy := none, ended := false } = u at hexec
  have hplaces : SamePlaces s u := by rw [← hu]; exact ⟨rfl, rfl, rfl, rfl, fun _ => rfl⟩
  have hsu : Safety.settled u := by rw [← hu]; exact hs
  have hmem : u.mem = s.mem := by rw [← hu]; rfl
  have hengine : cpe u e = { cpe s e with busy := none, ended := false } := by rw [← hu]; exact cpe_setCpe_self ..
  obtain ⟨hfin, hfree, hlast, hcount⟩ := finish_leaves (j := j) (s := u) (e := e) (st := (cpe s e).status) (ran := (cpe s e).status != 7)
    fun hrec => by rw [hplaces.localMemory]; exact (hrecord hrec).1
  refine ⟨_, hexec, ?_⟩
  rw [hfin, hfree, hlast, hcount]
  cases hrec : j.record with
  | true =>
    obtain ⟨-, -, hsound, hst⟩ := hrecord hrec
    have hengine' : cpe (j.afterRecord u e (cpe s e).status) e = cpe u e := by
      unfold afterRecord
      rw [if_pos hrec, cpe, (store_copySteps hsu _ _ _ _).engines]
      rfl
    rw [hengine', hengine, afterRecord_steps hsu hrec (by rw [hplaces.accessStatus]; exact hst) (by rw [hplaces.failedHome]; exact hsound), hmem]
    exact ⟨rfl, rfl, rfl, rfl⟩
  | false =>
    rw [afterRecord, if_neg (by simp [hrec]), hengine, hmem]
    exact ⟨rfl, rfl, rfl, rfl⟩

/-- Settles O13: a transpose moves its rows as a copy does, with its own places of bytes and halves; an accumulate transfer joins its
tower's adder line by line; a transfer's end writes its record last. -/
theorem copyEngineTransposeAccwAndEnd : Obligations.CopyEngineTransposeAccwAndEnd := by
  unfold Obligations.CopyEngineTransposeAccwAndEnd
  refine ⟨?_, ?_, ?_⟩
  · rintro s e j more ⟨halive, hidle, hqueue, hen, hbad, hcvu, hready, hapart, hwf, hs, hrows, hdst, hsrc⟩ hop hlocal
    have hop4 : j.op ≠ 4 := by omega
    have hmoves : j.Moves s e more :=
      { alive := halive, idle := hidle, queue := hqueue, enabled := hen, sound := hbad, cvu := by rw [hcvu]; exact nofun, ready := hready
        op := hop4, apart := hapart, rows := hrows, source := readable_of_source hsrc
        dest := fun p hp => (writable_iff hop4).mpr ⟨hdst p hp, hlocal p hp⟩, settled := hs, canonical := hwf }
    obtain ⟨⟨hbusy, -, hended, hst⟩, hbytes, -⟩ := hmoves.copyRow (mine := fun op => op == 2) (by simp [hop])
    have hrowCount : j.dstRows = j.cols := if_pos hop
    rw [hrowCount] at hbytes
    refine ⟨_, rfl, hbusy, hended, hst hcvu, fun hbits r c b hr hc hb => ?_, fun hbits r c hr hc => ?_⟩
    · obtain ⟨hk, hout⟩ := outByte_transpose hop hbits s.mem (c := c) hr hb
      rw [readMem_one, readMem_one, ← hout, ← hbytes (hst hcvu) c _ hc hk, Nat.add_assoc]
    · obtain ⟨hk, hout⟩ := outByte_nibble hop hbits s.mem (c := c) hr
      dsimp only
      rw [readNat_one, readNat_one, ← hout, ← hbytes (hst hcvu) c _ hc hk]
  · rintro s e tw j more ⟨halive, hidle, hqueue, hen, hbad, hcvu, hready, hapart, -, hs, -, hdst, hsrc⟩ hop hhome
    have haccw : j.Accumulates s e more tw :=
      { alive := halive, idle := hidle, queue := hqueue, enabled := hen, sound := hbad, cvu := by rw [hcvu]; exact nofun, ready := hready
        op := hop, unchecked := hcvu, apart := hapart, source := readable_of_source hsrc, status := hdst, scratch := hhome, settled := hs }
    obtain ⟨hbusy, hended, hst, hmem, u, hu, hread, hadder⟩ := haccw.copyRow (mine := fun op => op == 4) (by simp [hop])
    refine ⟨_, rfl, hbusy, hended, hst, hmem, ?_⟩
    rw [hadder, List.forall₂_map_right_iff, List.forall₂_same]
    intro p hp
    obtain ⟨haddr, hint, hclean, helems⟩ := accwOf_spec (e := e) hop hread hp
    refine ⟨haddr, hint, hclean, fun k hk => ⟨(helems k hk).1, fun hset => ?_⟩⟩
    rw [(helems k hk).2 hset, readNat, readNat, readMem_of_mem hu]
  · intro s e j halive hbusy hended hruns hstores hfailures hs hrecord hwf
    obtain ⟨t, hexec, hfree, hlast, hcount, hmem⟩ := copyTransferDone_steps halive hbusy hended hruns hstores hfailures hs hrecord
    have hlen : (j.recordBytes (cpe s e).status).length = 8 := leBytes_length ..
    refine ⟨t, hexec, hfree, hlast, hcount, fun hrec => ?_, fun hrec => by rw [hmem, hrec]; rfl⟩
    rw [hrec, if_pos rfl] at hmem
    have hread : ∀ a n, readMem t a n = readMem (writeNat s j.recordAt 8 ((cpe s e).status * 2 ^ 48 + fld (j.w 7) 47 0)) a n :=
      readMem_of_mem (s := writeNat s j.recordAt 8 _) hmem
    refine ⟨?_, fun b hb => ?_⟩
    · rw [readNat, hread]
      exact readNat_writeNat hwf ..
    · rw [hread]
      exact readMem_writeMem_outside hwf _ _ _ _ (by rwa [leBytes_length])

end Sys2Proof.Machine
end

section
/-! What accesses of memory, contained kernels, failed lanes and packets that look for their way leave of the module: its boot,
what it keeps, its pins, the modes of its ports, and its stacks but for the accesses that wait there. -/
namespace Sys2Proof.Machine
open Sys2Proof

/-- A stack without the accesses that wait for it (R70). -/
def Stack.device (x : Stack) : Stack := { x with waiting := [] }

/-- Between two states the boot, what is kept over resets, the pins, the modes of the ports and the stacks' own states are as they were. -/
structure KeepsDevices (s t : State) : Prop where
  boot : t.boot = s.boot
  kept : t.kept = s.kept
  pins : t.pins = s.pins
  stack : ∀ k, (stk t k).device = (stk s k).device
  port : ∀ p, (prt t p).mode = (prt s p).mode

/-- The fields of the state that `KeepsDevices` speaks of. -/
def State.devices (s : State) := (s.boot, s.kept, s.pins, s.stackUnits, s.ports)

namespace KeepsDevices
variable {s t u : State}

theorem stackState (h : KeepsDevices s t) (k : Nat) : (stk t k).st = (stk s k).st := (congrArg Stack.st (h.stack k) :)
theorem stackWanted (h : KeepsDevices s t) (k : Nat) : (stk t k).wanted = (stk s k).wanted := (congrArg Stack.wanted (h.stack k) :)
theorem stackTrained (h : KeepsDevices s t) (k : Nat) : (stk t k).lastTrained = (stk s k).lastTrained := (congrArg Stack.lastTrained (h.stack k) :)
theorem stackSince (h : KeepsDevices s t) (k : Nat) : (stk t k).since = (stk s k).since := (congrArg Stack.since (h.stack k) :)

theorem refl (s : State) : KeepsDevices s s := ⟨rfl, rfl, rfl, fun _ => rfl, fun _ => rfl⟩

theorem trans (h : KeepsDevices s t) (g : KeepsDevices t u) : KeepsDevices s u :=
  ⟨g.boot.trans h.boot, g.kept.trans h.kept, g.pins.trans h.pins, fun k => (g.stack k).trans (h.stack k), fun p => (g.port p).trans (h.port p)⟩

/-- A change beside all of that. -/
theorem of_same (h : t.devices = s.devices) : KeepsDevices s t := by
  obtain ⟨hboot, hkept, hpins, hstacks, hports⟩ : _ ∧ _ ∧ _ ∧ _ ∧ _ := by simpa only [State.devices, Prod.mk.injEq] using h
  exact ⟨hboot, hkept, hpins, fun k => by unfold stk; rw [hstacks], fun p => by unfold prt; rw [hports]⟩

theorem setStk (s : State) (i : Nat) (x : Stack) (h : x.device = (stk s i).device) : KeepsDevices s (setStk s i x) := by
  refine ⟨rfl, rfl, rfl, fun k => ?_, fun _ => rfl⟩
  rw [stk_setStk]
  split
  next hk => exact hk ▸ h
  next => rfl

theorem setPrt (s : State) (i : Nat) (x : Port) (h : x.mode = (prt s i).mode) : KeepsDevices s (setPrt s i x) := by
  refine ⟨rfl, rfl, rfl, fun _ => rfl, fun p => ?_⟩
  rw [prt_setPrt]
  split
  next hp => exact hp ▸ h
  next => rfl

theorem foldl {α : Type} {f : State → α → State} (h : ∀ s x, KeepsDevices s (f s x)) (l : List α) (s : State) : KeepsDevices s (l.foldl f s) := by
  induction l generalizing s with
  | nil => exact refl s
  | cons x l ih => exact (h s x).trans (ih _)

/-- A fold that carries another value beside the state. -/
theorem foldl₂ {α β : Type} {f : State × β → α → State × β} (h : ∀ r x, KeepsDevices r.1 (f r x).1) (l : List α) (r : State × β) :
    KeepsDevices r.1 (l.foldl f r).1 := by
  induction l generalizing r with
  | nil => exact refl r.1
  | cons x l ih => exact (h r x).trans (ih _)

theorem ite {p : Prop} [Decidable p] (h : KeepsDevices s t) (g : KeepsDevices s u) : KeepsDevices s (if p then t else u) := by
  split
  · exact h
  · exact g

end KeepsDevices

section
variable (s : State)

/-! ### Accesses of memory -/

theorem pitEvent_keepsDevices (a b c d e f : Nat) : KeepsDevices s (pitEvent s a b c d e f) := by
  rw [pitEvent_eq]; exact .of_same rfl

theorem irq_keepsDevices (n : Nat) : KeepsDevices s (irq s n) := .of_same rfl

theorem xorUnit_keepsDevices (base : Nat) (errs : List (Nat × Nat)) : KeepsDevices s (xorUnit s base errs) := by
  have hbyte : ∀ (s : State) m, KeepsDevices s { s with mem := m } := fun _ _ => .of_same rfl
  exact .foldl (fun s _ => .ite (hbyte s _) (.refl s)) errs s

theorem uncover_keepsDevices (l : NsLine) : KeepsDevices s (uncover s l) := by
  have hmark : ∀ (s : State) (p : List Nat), KeepsDevices s { s with poison := p } := fun _ _ => .of_same rfl
  exact .ite (.refl s) (.foldl (fun s _ => (hmark s _).trans (xorUnit_keepsDevices _ _ _)) l.under s)

theorem nsTouch_keepsDevices (a n : Nat) (write : Bool) : KeepsDevices s (nsTouch s a n write) := by
  have htower : ∀ i x, KeepsDevices s (setTow s i x) := fun _ _ => .of_same rfl
  unfold nsTouch
  cases home s a with
  | fast j => exact .ite ((htower _ _).trans (.foldl uncover_keepsDevices _ _)) (.refl s)
  | _ => exact .refl s

theorem accwLine_keepsDevices (w : AccWrite) : KeepsDevices s (accwLine s w) := by
  unfold accwLine
  extract_lets f r hit _ s'
  have hstep : ∀ r i, KeepsDevices r.1 (f r i).1 := fun r i => by
    unfold f; split
    · exact .of_same rfl
    · exact .refl _
  have hsum : KeepsDevices s s' := .trans (t := r.1) (.foldl₂ hstep _ (s, 0)) (.of_same rfl)
  exact .ite (hsum.trans (.of_same rfl)) hsum

theorem drainLines_keepsDevices (a n : Nat) : KeepsDevices s (drainLines s a n) := by
  have htower : ∀ (s : State) i x, KeepsDevices s (setTow s i x) := fun _ _ _ => .of_same rfl
  exact .foldl (fun s i => .ite ((htower s i _).trans (.foldl accwLine_keepsDevices _ _)) (.refl s)) _ s

theorem poisonError_keepsDevices (u a : Nat) : KeepsDevices s (poisonError s u a) := by
  obtain ⟨p, r, w, he⟩ := poisonError_eq s u a
  rw [he]; exact .of_same rfl

theorem lineRead_keepsDevices (a n : Nat) : KeepsDevices s (lineRead s a n).1 := by
  unfold lineRead
  extract_lets s₁ bs u s₂
  have hread : KeepsDevices s s₂ := (drainLines_keepsDevices s a n).trans (nsTouch_keepsDevices s₁ a n false)
  clear_value u bs s₂
  split
  · exact hread.trans (poisonError_keepsDevices s₂ u a)
  · split
    · exact hread.trans (.of_same rfl)
    · exact hread

theorem memRead_keepsDevices (a n : Nat) : KeepsDevices s (memRead s a n).1 := by
  rw [memRead_eq]
  refine .foldl₂ (fun r p => ?_) _ (s, _)
  unfold readPiece
  dsimp only
  exact lineRead_keepsDevices r.1 p.1 p.2

theorem lineWrite_keepsDevices (a : Nat) (bs : List Byte) (tag : Bool) : KeepsDevices s (lineWrite s a bs tag).1 := by
  have hwrite : ∀ s : State, KeepsDevices s (writeMem s a bs tag) := fun _ => .of_same rfl
  rw [lineWrite_eq]
  refine .trans (drainLines_keepsDevices s a bs.length) ?_
  generalize drainLines s a bs.length = t
  split
  · exact pitEvent_keepsDevices t _ _ _ _ _ _
  · exact (hwrite t).trans (nsTouch_keepsDevices _ _ _ _)

theorem memWrite_keepsDevices (a : Nat) (bs : List Byte) (tag : Bool) : KeepsDevices s (memWrite s a bs tag).1 := by
  rw [memWrite_eq]
  refine .foldl₂ (fun r p => ?_) _ (s, 0)
  unfold writePiece
  dsimp only
  exact lineWrite_keepsDevices r.1 p.1 _ tag

theorem memAtomic_keepsDevices (a n op : Nat) (ops : List (Nat × Nat × Bool)) : KeepsDevices s (memAtomic s a n op ops).1 := by
  have hwrite : ∀ (s : State) v tag, KeepsDevices s (writeNat s a n v tag) := fun _ _ _ => .of_same rfl
  unfold memAtomic
  extract_lets s₁ old pz f r s₂ s₃
  have hdrain : KeepsDevices s s₁ := drainLines_keepsDevices s a n
  clear_value f pz old s₁
  have hcount : KeepsDevices s₁ s₂ := .of_same rfl
  have hread : KeepsDevices s₂ s₃ := .ite (.of_same rfl) (.refl s₂)
  split
  · exact hdrain.trans (pitEvent_keepsDevices s₁ _ _ _ _ _ _)
  · exact ((hdrain.trans hcount).trans hread).trans ((hwrite s₃ _ _).trans (nsTouch_keepsDevices _ _ _ _))

theorem complete_keepsDevices (tag status : Nat) (data : List Byte) (poison : Bool) : KeepsDevices s (complete s tag status data poison) := .of_same rfl

theorem coreFault_keepsDevices (x : Xact) (poison : Bool) : KeepsDevices s (coreFault s x poison) := .ite (.of_same rfl) (.refl s)

/-- A transaction of any kind, performed at its target. -/
theorem perform_keepsDevices (x : Xact) (answer : Bool) : KeepsDevices s (perform s x answer) := by
  have hquiet : ∀ r, KeepsDevices s r → KeepsDevices s (if answer then r else { r with completions := s.completions, cores := s.cores }) :=
    fun r hr => .ite hr (hr.trans (.of_same rfl))
  unfold perform
  refine hquiet _ ?_
  cases x.kind with
  | load => exact (memRead_keepsDevices s _ _).trans ((complete_keepsDevices _ _ _ _ _).trans (coreFault_keepsDevices _ _ _))
  | fetch => exact (memRead_keepsDevices s _ _).trans (complete_keepsDevices _ _ _ _ _)
  | store => exact (memWrite_keepsDevices s _ _ _).trans (complete_keepsDevices _ _ _ _ _)
  | flagStore => exact (memWrite_keepsDevices s _ _ _).trans (complete_keepsDevices _ _ _ _ _)
  | atom op ret => exact (memAtomic_keepsDevices s _ _ _ _).trans (complete_keepsDevices _ _ _ _ _)

theorem performOrWait_keepsDevices (w : Waiting) : KeepsDevices s (performOrWait s w) := by
  unfold performOrWait
  cases home s w.x.addr with
  | fast k => exact .ite (.setStk s k _ rfl) (perform_keepsDevices s _ _)
  | _ => exact perform_keepsDevices s _ _

theorem post_keepsDevices (iss : Issuer) (a : Nat) (bs : List Byte) (tag : Bool) : KeepsDevices s (post s iss a bs tag) :=
  .foldl (fun s _ => .ite (.refl s) (performOrWait_keepsDevices s _)) _ s

theorem releaseStack_keepsDevices (k : Nat) : KeepsDevices s (releaseStack s k) := by
  have hempty : KeepsDevices s (setStk s k { stk s k with waiting := [] }) := .setStk s k _ rfl
  exact hempty.trans (.foldl performOrWait_keepsDevices _ _)

theorem trace_keepsDevices (t point w2 w3 : Nat) : KeepsDevices s (trace s t point w2 w3) := by
  unfold trace
  extract_lets base quarter r s' i rec4 s''
  have hdrawn : KeepsDevices s s' := by
    obtain ⟨f, hf⟩ := traceBusy_eq s t
    unfold s' r; rw [hf]; exact .of_same rfl
  have hrecord : KeepsDevices s' s'' := post_keepsDevices s' _ _ _ _
  refine .ite (.ite ?_ ?_) (.refl s)
  · exact hdrawn.trans (.of_same rfl)
  · exact (hdrawn.trans hrecord).trans (.of_same rfl)

/-! ### Answers to sessions -/

theorem localPut_keepsDevices (j : Nat) (r : Response) : KeepsDevices s (localPut s j r) := by
  have hread : ∀ (s : State) (m : Map Nat), KeepsDevices s { s with localChan.reads := m } := fun _ _ => .of_same rfl
  exact ((post_keepsDevices s _ _ _ _).trans (hread _ _)).trans (irq_keepsDevices _ _)

theorem respond_keepsDevices (sid : Nat) (r : Response) : KeepsDevices s (respond s sid r) := by
  unfold respond
  split
  · exact .refl s
  · extract_lets x s'
    have hkept : KeepsDevices s s' := .of_same rfl
    split
    · exact hkept.trans (localPut_keepsDevices s' _ r)
    · exact hkept

/-- An accepted write is its effect on the state that has heard from the session, but for what an answer or a rejection leaves. -/
theorem objWrite_keepsDevices {s : State} {w : ObjWrite} {key : Nat} (h : Safety.accepted s w key = true) (addr : Nat) (eff : State → Nat × State) :
    KeepsDevices (eff (heard s w)).2 (objWrite s w key addr eff) := by
  rw [objWrite_accepted h]
  cases hreg : w.reg with
  | true =>
    rw [show heard s w = s from if_pos hreg, if_pos rfl]
    refine .ite (.refl _) ?_
    rw [regReject_eq]
    exact .of_same rfl
  | false => exact respond_keepsDevices _ _ _

/-! ### Kernels that are contained or end -/

theorem dropFromParts_keepsDevices (c : Nat) : KeepsDevices s (dropFromParts s c) := by
  unfold dropFromParts
  refine .foldl (fun s p => ?_) _ s
  extract_lets key clear s'
  have hshadow : KeepsDevices s s' := .ite (.of_same rfl) (.refl s)
  exact .ite (hshadow.trans (.of_same rfl)) hshadow

theorem boundary_keepsDevices (c : Nat) : KeepsDevices s (boundary s c) := by
  unfold boundary
  extract_lets x y s' s''
  have hclu : KeepsDevices s s' := .of_same rfl
  have hdrop : KeepsDevices s s'' := hclu.trans (dropFromParts_keepsDevices s' c)
  exact .ite (.ite (hdrop.trans (.of_same rfl)) hdrop) hclu

theorem releaseCluster_keepsDevices (c n : Nat) : KeepsDevices s (releaseCluster s c n) := by
  unfold releaseCluster
  extract_lets s' x ks s''
  have hclear : KeepsDevices s s' := .of_same rfl
  clear_value s'
  have hfree : KeepsDevices s' s'' := .of_same rfl
  exact (hclear.trans hfree).trans (boundary_keepsDevices s'' c)

theorem containKernel_keepsDevices (n : Nat) : KeepsDevices s (containKernel s n) := by
  unfold containKernel
  extract_lets x s' _ s''
  have hone : ∀ s c, KeepsDevices s (stopKernelOn s c n) := fun _ _ => .of_same rfl
  have hstop : KeepsDevices s s' := .foldl hone x.clusters s
  have hmark : ∀ m, KeepsDevices s' { s'' with pit.contained := m } := fun _ => .of_same rfl
  exact .ite (.refl s) ((hstop.trans (hmark _)).trans (irq_keepsDevices _ _))

theorem completeCmd_keepsDevices (q index : Nat) : KeepsDevices s (completeCmd s q index) := by
  unfold completeCmd
  extract_lets x s'
  have hlist : KeepsDevices s s' := .of_same rfl
  split
  · exact .refl s
  · exact .ite (hlist.trans (irq_keepsDevices s' q)) hlist

theorem endKernel_keepsDevices (n status : Nat) : KeepsDevices s (endKernel s n status) := by
  unfold endKernel
  extract_lets x s₁ s₂ _ s₃ s₄ _ s₅ s₆ s₇
  have hrecord : KeepsDevices s s₁ := post_keepsDevices s _ _ _ _
  have hfree : KeepsDevices s₁ s₂ := .foldl (fun s c => releaseCluster_keepsDevices s c n) x.clusters s₁
  have hended : KeepsDevices s₂ s₃ := .of_same rfl
  have htrace : KeepsDevices s₃ s₄ := trace_keepsDevices s₃ _ _ _ _
  have hbeat : KeepsDevices s₄ s₅ := .ite (.refl s₄) (.of_same rfl)
  have hcmd : KeepsDevices s₅ s₆ := completeCmd_keepsDevices s₅ _ _
  have hirq : KeepsDevices s₆ s₇ := .ite (.refl s₆) (irq_keepsDevices s₆ _)
  have hall : KeepsDevices s s₇ := hrecord.trans hfree |>.trans hended |>.trans htrace |>.trans hbeat |>.trans hcmd |>.trans hirq
  exact .ite (hall.trans (pitEvent_keepsDevices s₇ _ _ _ _ _ _)) hall

theorem containOrEnd_keepsDevices (n : Nat) : KeepsDevices s (containOrEnd s n) := by
  have hbeat : ∀ l, KeepsDevices s { s with beat.frozen := l } := fun _ => .of_same rfl
  unfold containOrEnd
  extract_lets x
  exact .ite (((hbeat _).trans (containKernel_keepsDevices _ n)).trans (endKernel_keepsDevices _ n _)) (containKernel_keepsDevices s n)

/-- Stack units changed one by one, each keeping its device. -/
theorem device_stackUnits_map {g : Stack → Stack} (hg : ∀ x, (g x).device = x.device) (m : Map Stack) (k : Nat) :
    (mget (m.map fun p => (p.1, g p.2)) k {}).device = (mget m k {}).device := by
  unfold mget
  rw [mfind_map m (f := fun p => (p.1, g p.2)) (fun _ => rfl) k]
  cases mfind m k with
  | none => rfl
  | some x => exact hg x

/-- A stack whose waiting accesses of a level's issuers are answered no more, as `hushLevel` leaves it. -/
def Stack.hush (t l : Nat) (x : Stack) : Stack :=
  { x with waiting := x.waiting.map fun w => if issLevel w.x.iss == some (t, l) then { w with answer := false } else w }

/-- Of a level whose issuers are heard no more, the accesses that wait are answered no more. -/
theorem hushLevel_keepsDevices (t l : Nat) : KeepsDevices s (hushLevel s t l) := by
  exact ⟨rfl, rfl, rfl, device_stackUnits_map (g := Stack.hush t l) (fun _ => rfl) s.stackUnits, fun _ => rfl⟩

theorem containLevel_keepsDevices (t l : Nat) : KeepsDevices s (containLevel s t l) :=
  .ite (.refl s) ((hushLevel_keepsDevices s t l).trans (.foldl containOrEnd_keepsDevices _ _))

/-! ### Lanes and levels -/

theorem levelsLeave_keepsDevices (t j : Nat) : KeepsDevices s (levelsLeave s t j) := by
  unfold levelsLeave
  extract_lets x ls rest s₁ s₂
  have hout : KeepsDevices s s₁ := .of_same rfl
  have hrecord : KeepsDevices s₁ s₂ := .ite (pitEvent_keepsDevices s₁ _ _ _ _ _ _) (.refl s₁)
  refine (hout.trans hrecord).trans (.foldl (fun s l => ?_) ls s₂)
  extract_lets _ s₃ s₄ _ s₅
  have hlevel : KeepsDevices s s₃ := .of_same rfl
  have hleft : KeepsDevices s s₄ := hlevel.trans (pitEvent_keepsDevices s₃ _ _ _ _ _ _)
  have hcontain : KeepsDevices s₄ s₅ := containLevel_keepsDevices s₄ t l
  refine hleft.trans (.ite (.ite (.of_same rfl) (.refl s₄)) (hcontain.trans ?_))
  exact .foldl (fun s i => dropFromParts_keepsDevices s _) _ s₅

theorem laneFail_keepsDevices (t j sh lane : Nat) : KeepsDevices s (laneFail s t j sh lane) := by
  have hshaft : ∀ x, KeepsDevices s (setShaft s t j sh x) := fun _ => .of_same rfl
  unfold laneFail
  extract_lets x y₁ y₂ y s₁ det0 s₂
  have hstep : KeepsDevices s s₂ := (hshaft y).trans (pitEvent_keepsDevices s₁ _ _ _ _ _ _)
  refine .ite (.refl s) (.ite (hshaft y) (.ite ?_ hstep))
  exact (hstep.trans (pitEvent_keepsDevices s₂ _ _ _ _ _ _)).trans (levelsLeave_keepsDevices _ t j)

theorem laneFailure_keepsDevices (t j sh lane : Nat) : KeepsDevices s (laneFailure s t j sh lane) :=
  .ite (.refl s) (.ite (laneFail_keepsDevices s t j sh lane) (.of_same rfl))

theorem recalAbort_keepsDevices (t : Nat) : KeepsDevices s (recalAbort s t) := by
  have hrejoin : ∀ i, KeepsDevices s (rejoin s t i []) := fun i => by
    unfold rejoin
    extract_lets n x keep old y s₁ s₂
    have hback : KeepsDevices s s₁ := .of_same rfl
    have hrecord : KeepsDevices s₁ s₂ := .ite (.refl s₁) (pitEvent_keepsDevices s₁ _ _ _ _ _ _)
    exact (hback.trans hrecord).trans (.foldl (fun s l => laneFail_keepsDevices s _ _ _ l) _ s₂)
  unfold recalAbort
  split
  · exact (hrejoin _).trans (.of_same rfl)
  · exact .refl s

/-! ### Restarts of firmware processors -/

theorem endAction_keepsDevices (p : Nat) : KeepsDevices s (endAction s p) := by
  unfold endAction
  refine .ite (.refl s) (.ite (recalAbort_keepsDevices s _) (.ite (.foldl (fun s i => ?_) _ s) (.refl s)))
  dsimp only
  exact .ite (.setPrt s _ _ rfl) (.setPrt s _ _ rfl)

theorem fwBegin_keepsDevices (p : Nat) : KeepsDevices s (fwBegin s p) := by
  unfold fwBegin
  extract_lets s₁ _ s₂ u
  have hend : KeepsDevices s s₁ := .ite (endAction_keepsDevices s p) (.refl s)
  have hreset : KeepsDevices s s₂ := hend.trans (.of_same rfl)
  exact .ite (.ite hreset (hreset.trans (.of_same rfl))) hreset

theorem fwNext_keepsDevices : KeepsDevices s (fwNext s) := by
  unfold fwNext
  refine .ite (.refl s) ?_
  extract_lets next
  cases next with
  | none => exact .refl s
  | some p => exact .ite (.refl s) (fwBegin_keepsDevices s p)

end
end Sys2Proof.Machine
end

section
/-! Memory devices (R70 to R72, R76 to R81): retraining, failure in service, and what a patrol read leaves of a unit. -/
namespace Sys2Proof.Machine
open Sys2Proof

/-! ### Retraining -/

/-- Stack `k` may retrain at once: its controller's firmware runs, and beside its tower no stack is excluded and no other one is
wanted. -/
def MayRetrain (s : State) (k : Nat) : Prop :=
  fwRuns s (9 + k / 8) = true ∧ ∀ j, j / 8 = k / 8 → (stk s j).st ≠ .excluded ∧ ((stk s j).wanted = true → j = k)

/-- Stack `k` retrains, or waits for its turn, which comes at once where it may. -/
def RetrainDue (s t : State) (k : Nat) : Prop :=
  ((stk t k).st = .excluded ∨ (stk t k).wanted = true) ∧ (MayRetrain s k → (stk t k).st = .excluded)

/-- A stack that begins to retrain. -/
def beginRetrain (s : State) (k : Nat) : State :=
  setStk s k { stk s k with st := .excluded, wanted := false, since := s.pace.now }

section
variable {s t : State} {k : Nat}

/-- What the next retraining beside a tower can do: nothing, or begin that of one wanted stack. -/
theorem retrainNext_cases (s : State) (tw : Nat) :
    retrainNext s tw = s ∨ ∃ k, (stk s k).wanted = true ∧ retrainNext s tw = beginRetrain s k := by
  unfold retrainNext
  extract_lets ks
  split
  · exact .inl rfl
  · cases hfind : ks.find? fun k => (stk s k).wanted && (stk s k).st == .inService with
    | none => exact .inl rfl
    | some k =>
      have hk := List.find?_some hfind
      rw [Bool.and_eq_true] at hk
      exact .inr ⟨k, hk.1, rfl⟩

/-- A wanted stack that may retrain does. -/
theorem retrainNext_of_mayRetrain (hmay : MayRetrain s k) (hwanted : (stk s k).wanted = true) (hst : (stk s k).st = .inService) :
    retrainNext s (k / 8) = beginRetrain s k := by
  obtain ⟨hfw, hothers⟩ := hmay
  have hgroup : ∀ j ∈ (List.range 8).map (8 * (k / 8) + ·), j / 8 = k / 8 := by
    intro j hj
    obtain ⟨i, hi, rfl⟩ := List.mem_map.mp hj
    rw [List.mem_range] at hi
    omega
  have hmem : k ∈ (List.range 8).map (8 * (k / 8) + ·) :=
    List.mem_map.mpr ⟨k % 8, List.mem_range.mpr (Nat.mod_lt _ (by decide)), Nat.div_add_mod k 8⟩
  have hnone : (((List.range 8).map (8 * (k / 8) + ·)).any fun j => (stk s j).st == .excluded) = false := by
    rw [List.any_eq_false]
    intro j hj
    simpa using (hothers j (hgroup j hj)).1
  have hfind : ((List.range 8).map (8 * (k / 8) + ·)).find? (fun j => (stk s j).wanted && (stk s j).st == .inService) = some k := by
    cases hres : ((List.range 8).map (8 * (k / 8) + ·)).find? (fun j => (stk s j).wanted && (stk s j).st == .inService) with
    | none => simpa [hwanted, hst] using List.find?_eq_none.mp hres k hmem
    | some j =>
      have hj := List.find?_some hres
      rw [Bool.and_eq_true] at hj
      exact congrArg some ((hothers j (hgroup j (List.mem_of_find?_eq_some hres))).2 hj.1)
  unfold retrainNext
  dsimp only
  rw [if_neg (by simp [hfw, hnone]), hfind]
  rfl

/-- A stack that is not wanted is not the one that retrains next. -/
theorem stk_retrainNext_of_not_wanted (hwanted : (stk s k).wanted = false) (tw : Nat) : stk (retrainNext s tw) k = stk s k := by
  rcases retrainNext_cases s tw with h | ⟨j, hj, h⟩ <;> rw [h]
  have hne : j ≠ k := fun hjk => by rw [hjk, hwanted] at hj; exact absurd hj (by decide)
  rw [beginRetrain, stk_setStk, if_neg hne]

/-- A stack in service whose retraining is due. -/
theorem wantRetrain_due (hst : (stk s k).st = .inService) :
    RetrainDue s (wantRetrain s k) k ∧ (MayRetrain s k → (stk (wantRetrain s k) k).since = s.pace.now) := by
  have hwant : wantRetrain s k = retrainNext (setStk s k { stk s k with wanted := true }) (k / 8) := if_pos hst
  generalize hs' : setStk s k { stk s k with wanted := true } = s' at hwant
  have hk : stk s' k = { stk s k with wanted := true } := by rw [← hs', stk_setStk_self]
  have hnow : s'.pace.now = s.pace.now := by rw [← hs']; rfl
  have hmay : MayRetrain s k → MayRetrain s' k := fun ⟨hfw, hothers⟩ => by
    refine ⟨by rw [← hs']; exact hfw, fun j hj => ?_⟩
    rw [← hs', stk_setStk]
    split
    next h => exact ⟨by rw [hst]; decide, fun _ => h.symm⟩
    next => exact hothers j hj
  have hbegin : MayRetrain s k → stk (wantRetrain s k) k = { stk s' k with st := .excluded, wanted := false, since := s.pace.now } :=
    fun h => by
      rw [hwant, retrainNext_of_mayRetrain (hmay h) (by rw [hk]) (by rw [hk]; exact hst), beginRetrain, stk_setStk_self, hnow]
  refine ⟨⟨?_, fun h => by rw [hbegin h]⟩, fun h => by rw [hbegin h]⟩
  rw [hwant]
  rcases retrainNext_cases s' (k / 8) with h | ⟨j, -, h⟩ <;> rw [h]
  · exact .inr (by rw [hk])
  · rw [beginRetrain, stk_setStk]
    split
    · exact .inl rfl
    · exact .inr (by rw [hk])

/-- Whether a stack may retrain rests on the stacks and the firmware alone. -/
theorem MayRetrain.congr (hfw : t.fw = s.fw) (hstacks : t.stackUnits = s.stackUnits) :
    MayRetrain t k ↔ MayRetrain s k := by
  unfold MayRetrain fwRuns fwp stk
  rw [hfw, hstacks]

/-- A retraining that is due stays so, seen from an earlier state and in a later one. -/
theorem RetrainDue.widen {s₀ u : State} (h : RetrainDue s t k) (hmay : MayRetrain s k ↔ MayRetrain s₀ k) (hkeep : KeepsDevices t u) :
    RetrainDue s₀ u k := by
  unfold RetrainDue at h ⊢
  rw [hkeep.stackState, hkeep.stackWanted, ← hmay]
  exact h

end

/-! ### Failure in service -/

section
variable (s : State)

/-- A failed stack is marked so and wanted no more. -/
theorem stk_failStack (k : Nat) : (stk (failStack s k) k).st = .failed ∧ (stk (failStack s k) k).wanted = false := by
  unfold failStack
  extract_lets mine x lost y s₁ s₂
  have hfail : stk s₁ k = { stk s k with st := .failed, wanted := false } := by
    unfold s₁
    rw [pitEvent_eq]
    exact stk_setStk_self ..
  have hrecords : KeepsDevices s₁ s₂ := .foldl (fun s _ => pitEvent_keepsDevices s _ _ _ _ _ _) lost s₁
  have hall : ∀ y, KeepsDevices s₁ (releaseStack (setTow s₂ (k / 8) y) k) := fun y =>
    have hlines : KeepsDevices s₂ (setTow s₂ (k / 8) y) := .of_same rfl
    (hrecords.trans hlines).trans (releaseStack_keepsDevices _ k)
  exact ⟨((hall _).stackState k).trans (by rw [hfail]), ((hall _).stackWanted k).trans (by rw [hfail])⟩

/-- A failed package ends groups of its update engine (R313); packages and bytes stay. -/
theorem ueFailed_keeps (n : Nat) : (ueFailed s n).packages = s.packages ∧ (ueFailed s n).mem = s.mem := by
  have hgroup : ∀ (s : State) g, (failGroup s n g).packages = s.packages ∧ (failGroup s n g).mem = s.mem := fun s g => by
    unfold failGroup
    split
    · exact ⟨rfl, rfl⟩
    · rw [pitEvent_eq]; exact ⟨rfl, rfl⟩
  have hgroups : ∀ (gs : List Nat) (s : State), (gs.foldl (fun s g => failGroup s n g) s).packages = s.packages
      ∧ (gs.foldl (fun s g => failGroup s n g) s).mem = s.mem := fun gs => by
    induction gs with
    | nil => exact fun _ => ⟨rfl, rfl⟩
    | cons g gs ih => exact fun s => ⟨(ih _).1.trans (hgroup s g).1, (ih _).2.trans (hgroup s g).2⟩
  unfold ueFailed
  extract_lets u
  split
  · exact hgroups _ s
  · exact ⟨rfl, rfl⟩

end

/-! ### The patrol -/

/-- One wrong symbol is found and corrected under every correction limit (R81). -/
theorem rsDecode_first_symbol (limit : Nat) : rsDecode (rsSyndrome [(0, 1)]) limit = .corrected [(0, 1)] := by
  have hnonzero : ((rsSyndrome [(0, 1)]).all (· == 0)) = false := by decide +kernel
  have hunmasked : rsSyndrome [(0, 1)] ≠ rsSyndrome poisonMask := by decide +kernel
  have hbeside : (rsOne (List.zipWith (· ^^^ ·) (rsSyndrome [(0, 1)]) (rsSyndrome poisonMask))).isSome = false := by decide +kernel
  have hone : rsOne (rsSyndrome [(0, 1)]) = some (0, 1) := by decide +kernel
  unfold rsDecode
  simp [hnonzero, hunmasked, hbeside, hone]

theorem rsDecode_clean (limit : Nat) : rsDecode (rsSyndrome []) limit = .clean := by
  have hzero : ((rsSyndrome []).all (· == 0)) = true := by decide
  unfold rsDecode
  rw [if_pos hzero]

section
variable {s t : State}

/-- What counting a corrected unit leaves (R534). -/
theorem countUnit_corrected (u a : Nat) (was : Bool) (fix : List (Nat × Nat)) :
    (countUnit s u a was (.corrected fix)).mem = s.mem ∧ (countUnit s u a was (.corrected fix)).poison = s.poison
      ∧ mget (countUnit s u a was (.corrected fix)).corrected u 0 = mget s.corrected u 0 + 1 := by
  unfold countUnit
  dsimp only
  obtain ⟨p, q, r, w, he⟩ := correctedError_eq { s with corrected := mset s.corrected u (mget s.corrected u 0 + 1) } u a
  rw [he]
  exact ⟨rfl, rfl, mget_mset_self ..⟩

/-- Counting a unit writes nothing. -/
theorem countUnit_mem (u a : Nat) (was : Bool) (r : RsResult) : (countUnit s u a was r).mem = s.mem ∧ (countUnit s u a was r).poison = s.poison := by
  cases r with
  | clean => exact ⟨rfl, rfl⟩
  | poisoned => exact ⟨rfl, rfl⟩
  | corrected fix => exact ⟨(countUnit_corrected u a was fix).1, (countUnit_corrected u a was fix).2.1⟩
  | uncorrectable =>
    unfold countUnit
    dsimp only
    split
    · exact ⟨rfl, rfl⟩
    · obtain ⟨p, r, w, he⟩ := poisonError_eq { s with poisoned := mset s.poisoned u (mget s.poisoned u 0 + 1) } u a
      rw [he]
      exact ⟨rfl, rfl⟩

theorem filter_of_not_mem {l : List Nat} {u : Nat} (h : u ∉ l) : l.filter (· != u) = l :=
  List.filter_eq_self.mpr fun _ hv => bne_iff_ne.mpr fun he => h (he ▸ hv)

/-- A unit without error and without poison stays as it is. -/
theorem readUnit_clean {a : Nat} (hp : a / 64 ∉ s.poison) (near : Bool) : readUnit s a [] near = s := by
  have hwas : s.poison.contains (a / 64) = false := by simpa using hp
  unfold readUnit
  simp only [hwas, Bool.false_eq_true, if_false, List.append_nil, rsDecode_clean]
  show { s with poison := s.poison.filter (· != a / 64) } = s
  rw [filter_of_not_mem hp]

/-- The same error pattern twice is none. -/
theorem sameBytes_xorUnit_twice (hwf : Memory.wf s.mem = true) (base v : Nat) :
    Safety.sameBytes s (xorUnit (xorUnit s base [(0, v)]) base [(0, v)]) := by
  intro b
  rw [readMem_one, readMem_one]
  show [cellGet (cellPut (cellPut s.mem base _) base (cellGet (cellPut s.mem base _) base ^^^ _)) b] = _
  rw [cellGet_cellPut _ (cellPut_wf hwf _ _), cellGet_cellPut _ hwf, cellGet_cellPut _ hwf, if_pos rfl]
  split
  next h => rw [h, BitVec.xor_assoc, BitVec.xor_self, BitVec.xor_zero]; rfl
  next => rfl

/-- One wrong symbol of a unit without poison is corrected and counted (R79, R534). -/
theorem readUnit_one_symbol {a : Nat} (hwf : Memory.wf s.mem = true) (hp : a / 64 ∉ s.poison) (near : Bool) :
    Safety.sameBytes s (readUnit s a [(0, 1)] near) ∧ (readUnit s a [(0, 1)] near).poison = s.poison
      ∧ mget (readUnit s a [(0, 1)] near).corrected (storeUnit (home s a) near) 0 = mget s.corrected (storeUnit (home s a) near) 0 + 1 := by
  have hwas : s.poison.contains (a / 64) = false := by simpa using hp
  obtain ⟨m, hm⟩ : ∃ m, xorUnit (xorUnit s (a / 64 * 64) [(0, 1)]) (a / 64 * 64) [(0, 1)] = { s with mem := m } := by
    obtain ⟨m, hm⟩ := xorUnit_eq (a / 64 * 64) [(0, 1)] s
    rw [hm]
    exact xorUnit_eq (a / 64 * 64) [(0, 1)] _
  have hsame := hm ▸ sameBytes_xorUnit_twice hwf (a / 64 * 64) 1
  unfold readUnit
  simp only [hwas, Bool.false_eq_true, if_false, List.append_nil, rsDecode_first_symbol, hm, filter_of_not_mem hp]
  obtain ⟨hmem, hpoison, hcount⟩ := countUnit_corrected (s := { s with mem := m }) (storeUnit (home s a) near) a false [(0, 1)]
  exact ⟨fun b => (readMem_of_mem hmem b 1).trans (hsame b), hpoison, hcount⟩

/-- A read beneath a cached line writes nothing, and one wrong symbol of it is counted (R79). -/
theorem readUnder_keeps {a k : Nat} (hhome : home s a = .fast k) (errs : List (Nat × Nat)) :
    (readUnder s a errs).mem = s.mem ∧ (readUnder s a errs).poison = s.poison
      ∧ (errs = [(0, 1)] → mget (readUnder s a errs).corrected (4 + k) 0 = mget s.corrected (4 + k) 0 + 1) := by
  unfold readUnder
  rw [hhome]
  extract_lets h r keep s'
  have hlines : s'.mem = s.mem ∧ s'.poison = s.poison ∧ s'.corrected = s.corrected := by
    unfold s' h
    dsimp only
    split <;> exact ⟨rfl, rfl, rfl⟩
  obtain ⟨hmem, hpoison, hcount⟩ := hlines
  refine ⟨(countUnit_mem ..).1.trans hmem, (countUnit_mem ..).2.trans hpoison, fun herrs => ?_⟩
  have hr : r = .corrected [(0, 1)] := by
    unfold r
    rw [herrs, rsDecode_first_symbol]
  rw [hr, ← hcount]
  exact (countUnit_corrected ..).2.2

end

/-! ### Settling the statement -/

section
variable {s : State} {a u : Nat} {near : Bool}

/-- The patrol reads the copy at `u`, of a tier that it is set to scrub: the statement's own words. -/
def PatrolReads (s : State) (a u : Nat) (near : Bool) : Prop :=
  (∃ tw, home s a = .scratch tw ∧ near = true ∧ cfg s 0x350002 ≠ 0 ∧ u = tw)
    ∨ (∃ k, home s a = .fast k ∧ near = true ∧ cfg s 0x350002 ≠ 0 ∧ cached s a = true ∧ u = k / 8)
    ∨ (∃ k, home s a = .fast k ∧ near = false ∧ cfg s 0x350003 ≠ 0 ∧ (stk s k).st ≠ .excluded ∧ cached s a = false ∧ u = 4 + k)
    ∨ (∃ p, home s a = .deep p ∧ near = false ∧ cfg s 0x350004 ≠ 0 ∧ u = 36 + p)

theorem PatrolReads.storeUnit (h : PatrolReads s a u near) : storeUnit (home s a) near = u := by
  rcases h with ⟨tw, hhome, rfl, -, rfl⟩ | ⟨k, hhome, rfl, -, -, rfl⟩ | ⟨k, hhome, rfl, -, -, -, rfl⟩ | ⟨p, hhome, rfl, -, rfl⟩ <;>
    rw [hhome] <;> rfl

/-- A patrol read of a copy that the patrol reads is a read of that unit. -/
theorem PatrolReads.exec (h : PatrolReads s a u near) (halive : alive s = true) (hfailed : failedHome s a = false)
    (errs : List (Nat × Nat)) (newer : Bool) :
    Machine.exec (.scrubPatrol a errs newer near) s
      = .next (if newer then { readUnit s a errs near with mem := s.mem, poison := s.poison } else readUnit s a errs near) := by
  show execScrubPatrol a errs newer s near = _
  have hcached : ∀ {h : Home}, home s a = h → (∀ k, h ≠ .fast k) → cached s a = false := fun hhome hne => by
    unfold cached
    rw [hhome]
    split
    · exact absurd rfl (hne _)
    · rfl
  unfold execScrubPatrol
  rcases h with ⟨tw, hhome, rfl, hcfg, -⟩ | ⟨k, hhome, rfl, hcfg, hin, -⟩ | ⟨k, hhome, rfl, hcfg, hst, hout, -⟩ | ⟨p, hhome, rfl, hcfg, -⟩
  · simp [hhome, halive, hfailed, hcfg]
  · simp [hhome, halive, hfailed, hcfg, hin]
  · simp [hhome, halive, hfailed, hcfg, hst, hout]
  · simp [hhome, halive, hfailed, hcfg, hcached hhome (by simp)]

end

section
variable {s : State} {st now a u : Nat} {near : Bool}

/-- `STACK_RETRAIN` (R71). -/
theorem stackRetrain_due {w : ObjWrite} (hacc : Safety.accepted s w 0x320004 = true) (hval : leNat w.val = st) (hlt : st < 32)
    (hst : (stk s st).st = .inService) :
    ∃ t, Machine.exec (.stackRetrain w) s = .next t ∧ RetrainDue s t st ∧ (MayRetrain s st → (stk t st).since = s.pace.now) := by
  have hheard := heard_eq s w
  have hkeep := objWrite_keepsDevices hacc 0 fun s =>
    let k := leNat w.val
    if 32 ≤ k ∨ (stk s k).st = .failed ∨ (stk s k).st = .skipped then (0x42, s) else (0, wantRetrain s k)
  generalize heard s w = s' at hheard hkeep
  have hmay : MayRetrain s' st ↔ MayRetrain s st := MayRetrain.congr (by rw [hheard]) (by rw [hheard])
  have hst' : (stk s' st).st = .inService := by rw [hheard]; exact hst
  have hnow : s'.pace.now = s.pace.now := by rw [hheard]
  obtain ⟨hdue, hsince⟩ := wantRetrain_due hst'
  have heff : (if 32 ≤ leNat w.val ∨ (stk s' (leNat w.val)).st = .failed ∨ (stk s' (leNat w.val)).st = .skipped then (0x42, s')
      else (0, wantRetrain s' (leNat w.val))) = (0, wantRetrain s' st) := by
    rw [hval, if_neg (by simp [hst', Nat.not_le.mpr hlt])]
  have hafter := heff ▸ hkeep
  exact ⟨_, rfl, hdue.widen hmay hafter, fun halone => (hafter.stackSince st).trans ((hsince (hmay.mpr halone)).trans hnow)⟩

/-- The temperatures that the module last measured are as they were when a stack is wanted. -/
theorem temps_wantRetrain (s : State) (k : Nat) : (wantRetrain s k).power = s.power := by
  unfold wantRetrain
  split
  · rcases retrainNext_cases (setStk s k { stk s k with wanted := true }) (k / 8) with h | ⟨j, -, h⟩ <;> rw [h] <;> rfl
  · rfl

/-- `STACK_TEMP_DELTA` (R71). -/
theorem stackTempDelta_due {c : Int} (hst : (stk s st).st = .inService) (hdelta : cfg s 0x320006 ≤ (c - (stk s st).lastTempC).natAbs) :
    ∃ t, Machine.exec (.stackTempDelta st c now) s = .next t ∧ RetrainDue s t st ∧ mfind t.power.temps (72 + st) = some c := by
  generalize hs' : { clock s now with power.temps := mset (clock s now).power.temps (72 + st) c } = s'
  have hmay : MayRetrain s' st ↔ MayRetrain s st := by rw [← hs', clock_eq]; exact MayRetrain.congr rfl rfl
  have hst' : (stk s' st).st = .inService := by rw [← hs', clock_eq]; exact hst
  have hcond : cfg s' 0x320006 ≤ (c - (stk s' st).lastTempC).natAbs := by rw [← hs', clock_eq]; exact hdelta
  refine ⟨wantRetrain s' st, ?_, (wantRetrain_due hst').1.widen hmay (.refl _), ?_⟩
  · show execStackTempDelta st c now s = _
    unfold execStackTempDelta
    dsimp only
    rw [hs', if_pos hcond]
  · rw [temps_wantRetrain, ← hs']
    exact mfind_mset_self ..

/-- `STACK_RETRAIN_INTERVAL` (R71). -/
theorem stackRetrainInterval_due (hst : (stk s st).st = .inService) (hcfg : cfg s 0x320005 ≠ 0)
    (hpast : (stk s st).lastTrained + cfg s 0x320005 * 1000000000 ≤ (clock s now).pace.now) :
    ∃ t, Machine.exec (.stackRetrainInterval st now) s = .next t ∧ RetrainDue s t st := by
  have hmay : MayRetrain (clock s now) st ↔ MayRetrain s st := by rw [clock_eq]; exact MayRetrain.congr rfl rfl
  have hst' : (stk (clock s now) st).st = .inService := by rw [clock_eq]; exact hst
  have hcfg' : cfg (clock s now) 0x320005 = cfg s 0x320005 := by rw [clock_eq]; rfl
  have htrained : (stk (clock s now) st).lastTrained = (stk s st).lastTrained := by rw [clock_eq]; rfl
  refine ⟨wantRetrain (clock s now) st, ?_, (wantRetrain_due hst').1.widen hmay (.refl _)⟩
  show execStackRetrainInterval st now s = _
  unfold execStackRetrainInterval
  dsimp only
  rw [hcfg', htrained, if_pos ⟨hcfg, hpast⟩]

/-- A stack as it comes back from its retraining. -/
def Stack.back (x : Stack) (now : Nat) (tempC : Int) : Stack := { x with st := .inService, lastTrained := now, lastTempC := tempC }

/-- The state in which a stack whose retraining ended is back, or failed (R70 to R72). -/
def retrained (s : State) (k now : Nat) (ok : Bool) : State :=
  if ok then
    releaseStack (setStk (clock s now) k ((stk s k).back (clock s now).pace.now (mget (clock s now).power.temps (72 + k) (stk s k).lastTempC))) k
  else failStack (clock s now) k

/-- A stack that comes back is in service from now on, and is wanted only where it was. -/
theorem stk_retrained_true (s : State) (k now : Nat) :
    (stk (retrained s k now true) k).st = .inService ∧ (stk (retrained s k now true) k).lastTrained = (clock s now).pace.now
      ∧ (stk (retrained s k now true) k).wanted = (stk s k).wanted := by
  generalize htemp : mget (clock s now).power.temps (72 + k) (stk s k).lastTempC = c
  have hback := releaseStack_keepsDevices (setStk (clock s now) k ((stk s k).back (clock s now).pace.now c)) k
  unfold retrained
  rw [if_pos rfl, htemp, hback.stackState, hback.stackTrained, hback.stackWanted, stk_setStk_self]
  exact ⟨rfl, rfl, rfl⟩

/-- The end of a retraining, where no further one of the stack is wanted: the stack is back, or failed. -/
theorem exec_stackRetrainDone (hst : (stk s st).st = .excluded) (ok : Bool) (hwanted : (stk (retrained s st now ok) st).wanted = false) :
    ∃ t, Machine.exec (.stackRetrainDone st now ok) s = .next t ∧ (stk t st).device = (stk (retrained s st now ok) st).device := by
  have hclock : stk (clock s now) st = stk s st := by rw [clock_eq]; rfl
  refine ⟨fwNext (retrainNext (retrained s st now ok) (st / 8)), ?_, ?_⟩
  · show execStackRetrainDone st now ok s = _
    unfold execStackRetrainDone
    dsimp only
    rw [hclock, if_neg (not_not_intro hst)]
    rfl
  · rw [(fwNext_keepsDevices _).stack, stk_retrainNext_of_not_wanted hwanted]

/-- `STACK_RETRAIN_DONE` with the interface restored. -/
theorem stackRetrainDone_restored (hst : (stk s st).st = .excluded) (hwanted : (stk s st).wanted = false) :
    ∃ t, Machine.exec (.stackRetrainDone st now true) s = .next t ∧ (stk t st).st = .inService
      ∧ (stk t st).lastTrained = (clock s now).pace.now := by
  obtain ⟨hback, htrained, hwant⟩ := stk_retrained_true s st now
  obtain ⟨t, hexec, hdev⟩ := exec_stackRetrainDone hst true (hwant.trans hwanted)
  exact ⟨t, hexec, (congrArg Stack.st hdev :).trans hback, (congrArg Stack.lastTrained hdev :).trans htrained⟩

/-- `STACK_RETRAIN_DONE` with an interface that cannot be restored. -/
theorem stackRetrainDone_failed (hst : (stk s st).st = .excluded) :
    ∃ t, Machine.exec (.stackRetrainDone st now false) s = .next t ∧ (stk t st).st = .failed := by
  obtain ⟨hfailed, hnot⟩ := stk_failStack (clock s now) st
  obtain ⟨t, hexec, hdev⟩ := exec_stackRetrainDone hst false hnot
  exact ⟨t, hexec, (congrArg Stack.st hdev :).trans hfailed⟩

/-- `MEM_DEVICE_FAILURE` of a stack (R72). -/
theorem memDeviceFailure_stack (hlt : st < 32) (hst : (stk s st).st = .inService ∨ (stk s st).st = .excluded) :
    ∃ t, Machine.exec (.memDeviceFailure st) s = .next t ∧ (stk t st).st = .failed := by
  obtain ⟨hfailed, hnot⟩ := stk_failStack s st
  refine ⟨retrainNext (failStack s st) (st / 8), ?_, by rw [stk_retrainNext_of_not_wanted hnot]; exact hfailed⟩
  show execMemDeviceFailure st s = _
  unfold execMemDeviceFailure
  rw [if_pos hlt, if_pos hst]

/-- `MEM_DEVICE_FAILURE` of a package (R76). -/
theorem memDeviceFailure_package {p : Nat} (hp : mget s.packages p .skipped = .inService) :
    ∃ t, Machine.exec (.memDeviceFailure (32 + p)) s = .next t ∧ mget t.packages p .skipped = .failed ∧ t.mem = s.mem := by
  refine ⟨ueFailed (pitEvent { s with packages := mset s.packages p .failed } 0x0201 (32 + p)) (p / 4), ?_, ?_⟩
  · show execMemDeviceFailure (32 + p) s = _
    unfold execMemDeviceFailure
    rw [if_neg (by omega), Nat.add_sub_cancel_left]
    exact congrArg _ (if_pos hp)
  · rw [pitEvent_eq]
    obtain ⟨hpackages, hmem⟩ := ueFailed_keeps _ _
    rw [hpackages, hmem]
    exact ⟨mget_mset_self .., rfl⟩

/-- `SCRUB_PATROL` of a copy that lies in its store (R79). -/
theorem scrubPatrol_unit {errs : List (Nat × Nat)} {newer : Bool} (halive : alive s = true) (hfailed : failedHome s a = false)
    (hwf : Memory.wf s.mem = true) (hp : a / 64 ∉ s.poison) (hreads : PatrolReads s a u near) :
    ∃ t, Machine.exec (.scrubPatrol a errs newer near) s = .next t ∧ (newer = true → t.mem = s.mem ∧ t.poison = s.poison)
      ∧ (newer = false → t = readUnit s a errs near)
      ∧ (errs = [] → t.mem = s.mem ∧ t.poison = s.poison ∧ t.corrected = s.corrected)
      ∧ (errs = [(0, 1)] → Safety.sameBytes s t ∧ t.poison = s.poison ∧ mget t.corrected u 0 = mget s.corrected u 0 + 1) := by
  refine ⟨_, hreads.exec halive hfailed errs newer, fun hnewer => ?_, fun hold => by rw [hold]; rfl, fun herrs => ?_, fun herrs => ?_⟩
  · rw [if_pos hnewer]
    exact ⟨rfl, rfl⟩
  · rw [herrs, readUnit_clean hp]
    split <;> exact ⟨rfl, rfl, rfl⟩
  · obtain ⟨hsame, hpoison, hcount⟩ := readUnit_one_symbol hwf hp near
    rw [hreads.storeUnit] at hcount
    rw [herrs]
    split
    · exact ⟨fun _ => rfl, rfl, hcount⟩
    · exact ⟨hsame, hpoison, hcount⟩

/-- `SCRUB_PATROL` of a stack's own copy beneath a cached line (R79). -/
theorem scrubPatrol_under {k : Nat} (errs : List (Nat × Nat)) (halive : alive s = true) (hhome : home s a = .fast k)
    (hfailed : failedHome s a = false) (hcfg : cfg s 0x350003 ≠ 0) (hst : (stk s k).st ≠ .excluded) (hcached : cached s a = true) :
    ∃ t, Machine.exec (.scrubPatrol a errs false false) s = .next t ∧ t.mem = s.mem ∧ t.poison = s.poison
      ∧ (errs = [(0, 1)] → mget t.corrected (4 + k) 0 = mget s.corrected (4 + k) 0 + 1) := by
  refine ⟨readUnder s a errs, ?_, readUnder_keeps hhome errs⟩
  show execScrubPatrol a errs false s false = _
  unfold execScrubPatrol
  simp [hhome, halive, hfailed, hcfg, hst, hcached]

end

/-- Settles O11: a due retraining begins or waits as `wanted`, and what follows in the same step (answers, accesses that go on,
restarts) keeps every stack's own state; the patrol rests on the decoder's correction of one symbol. -/
theorem stackRetrainingFailureAndScrub : Obligations.StackRetrainingFailureAndScrub := by
  unfold Obligations.StackRetrainingFailureAndScrub
  refine ⟨fun s w st hacc hval hlt hst => stackRetrain_due hacc hval hlt hst, fun s st now => stackRetrainInterval_due,
    fun s st now c => stackTempDelta_due, fun s st now hst hwanted => ⟨stackRetrainDone_restored hst hwanted, stackRetrainDone_failed hst⟩,
    fun s st => memDeviceFailure_stack, fun s p => memDeviceFailure_package,
    fun s a u errs newer near => scrubPatrol_unit, fun s a k errs => scrubPatrol_under errs⟩

end Sys2Proof.Machine
end

section
/-! What requests that are sent, answered or rerouted leave of the module's boot, pins, stacks and ports' modes. -/
namespace Sys2Proof.Machine
open Sys2Proof

section
variable (s : State)

/-! ### Crews -/

theorem updCrew_keepsDevices (c k : Nat) (f : Crew → Crew) : KeepsDevices s (updCrew s c k f) := by
  unfold updCrew
  split
  · exact .of_same rfl
  · exact .refl s

theorem acquire_keepsDevices (c scope : Nat) : KeepsDevices s (acquire s c scope) := .ite (.refl s) (.of_same rfl)

theorem acquiredBy_keepsDevices (c slot w : Nat) : KeepsDevices s (acquiredBy s c slot w) := .ite (acquire_keepsDevices s c _) (.refl s)

theorem excRecord_keepsDevices (k c slot pc : Nat) (instr : W64) (e : Exc) : KeepsDevices s (excRecord s k c slot pc instr e) := by
  unfold excRecord writeExc
  extract_lets x l cap s'
  have hposts : KeepsDevices s s' := .foldl (fun s _ => .ite (post_keepsDevices s _ _ _ _) (.refl s)) _ s
  exact hposts.trans (.of_same rfl)

theorem raise_keepsDevices (c slot pc : Nat) (instr : W64) (e : Exc) : KeepsDevices s (raise s c slot pc instr e) := by
  have hcrew : ∀ (s : State) x, KeepsDevices s (setClu s c x) := fun _ _ => .of_same rfl
  unfold raise
  extract_lets k s'
  have hstop : KeepsDevices s s' := (excRecord_keepsDevices s k c slot pc instr e).trans (containKernel_keepsDevices _ k)
  exact .ite (.refl s) (hstop.trans (hcrew s' _))

theorem report_keepsDevices (c slot pc : Nat) (instr : W64) (rs : List (Nat × Nat × Nat)) : KeepsDevices s (report s c slot pc instr rs) := by
  unfold report
  extract_lets bad
  split
  · exact .refl s
  · exact .ite (updCrew_keepsDevices s _ _ _) (raise_keepsDevices s _ _ _ _ _)

theorem pollLanes_keepsDevices (i : Ins) (rs : List (Nat × Nat × Nat × Nat)) : KeepsDevices s (pollLanes s i rs) :=
  (updCrew_keepsDevices s _ _ _).trans (report_keepsDevices _ _ _ _ _ _)

theorem endPoll_keepsDevices (i : Ins) : KeepsDevices s (endPoll s i) := by
  have hstep : KeepsDevices s (step1 s i) := updCrew_keepsDevices s _ _ _
  unfold endPoll
  split
  · exact .refl s
  · split
    · exact .refl s
    · exact .ite (.ite (hstep.trans (acquire_keepsDevices _ _ _)) hstep) (updCrew_keepsDevices s _ _ _)

theorem crewReply_keepsDevices (d : CrewDst) (st : Nat) (data : List Byte) (pz : Bool) : KeepsDevices s (crewReply s d st data pz) := by
  unfold crewReply
  split
  · exact .refl s
  · extract_lets i val done s₁ wd rs s₂
    have hpoll : KeepsDevices s s₁ := pollLanes_keepsDevices s i _
    have hput : KeepsDevices s s₂ := .ite (updCrew_keepsDevices s _ _ _) (.refl s)
    exact .ite (.ite hpoll (hpoll.trans (endPoll_keepsDevices s₁ i))) (hput.trans (report_keepsDevices s₂ _ _ _ _ _))

theorem tldReply_keepsDevices (r : Request) (st : Nat) (data : List Byte) (pz : Bool) : KeepsDevices s (tldReply s r st data pz) := by
  unfold tldReply
  split
  · exact .refl s
  · exact .of_same rfl

/-! ### Requests -/

theorem updReq_keepsDevices (id : Nat) (f : Request → Request) : KeepsDevices s (updReq s id f) := .of_same rfl

theorem push_keepsDevices (port : Nat) (p : Packet) (req : Option Nat) : KeepsDevices s (push s port p req) := .setPrt s port _ rfl

theorem useWindow_keepsDevices (cls engine node : Nat) : KeepsDevices s (useWindow s cls engine node) := .of_same rfl

theorem pickPort_keepsDevices {p : Packet} {r : Nat × State} (h : pickPort s p = some r) : KeepsDevices s r.2 := by
  unfold pickPort at h
  dsimp only at h
  split at h
  · cases h
  · split at h
    · cases h; exact .refl s
    · split at h
      · cases h; exact .refl s
      · cases h; exact .of_same rfl

theorem takeSeq_keepsDevices {engine : Nat} {r : Nat × State} (h : takeSeq s engine = some r) : KeepsDevices s r.2 := by
  unfold takeSeq at h
  dsimp only at h
  split at h
  · cases h
  · cases h; exact .of_same rfl

theorem combine_keepsDevices (port j : Nat) (p : Packet) : KeepsDevices s (combine s port j p) := by
  unfold combine
  extract_lets x x' s₁ op merge
  split
  · exact .refl s
  · extract_lets place old
    have hcount : KeepsDevices s s₁ := .setPrt s port x' rfl
    have hplace : ∀ t pkt id, KeepsDevices t (place t pkt id) := fun t _ _ => .setPrt t port _ rfl
    clear_value old
    cases old with
    | some r =>
      have hjoin : ∀ m, KeepsDevices s₁ { s₁ with requests := m } := fun _ => .of_same rfl
      exact (hcount.trans (hjoin _)).trans (hplace _ _ _)
    | none =>
      cases hseq : takeSeq s₁ (0x441 + port / 8) with
      | none => exact hcount.trans (push_keepsDevices s₁ port p none)
      | some r =>
        have htake : KeepsDevices s₁ r.2 := takeSeq_keepsDevices s₁ hseq
        have hjoin : ∀ m n, KeepsDevices r.2 { r.2 with requests := m, nextReq := n } := fun _ _ => .of_same rfl
        exact ((hcount.trans htake).trans (hjoin _ _)).trans (hplace _ _ _)

theorem pushRequest_keepsDevices (port : Nat) (p : Packet) (req : Option Nat) : KeepsDevices s (pushRequest s port p req) := by
  unfold pushRequest
  split
  · exact combine_keepsDevices s _ _ _
  · exact push_keepsDevices s _ _ _

theorem transmit_keepsDevices (r : Request) (port : Nat) : KeepsDevices s (transmit s r port) := by
  unfold transmit
  split
  · exact updReq_keepsDevices s _ _
  · next seq s' hseq =>
    have htake : KeepsDevices s s' := by
      split at hseq
      · exact takeSeq_keepsDevices s hseq
      · cases hseq; exact .refl s
    extract_lets _ p s₁ s₂
    have hnote : KeepsDevices s s₂ := (htake.trans (useWindow_keepsDevices s' _ _ _)).trans (updReq_keepsDevices s₁ _ _)
    exact hnote.trans (.ite (pushRequest_keepsDevices s₂ _ _ _) (push_keepsDevices s₂ _ _ _))

theorem failChain_keepsDevices (r : Request) (st : Nat) : KeepsDevices s (failChain s r st) := by
  unfold failChain
  extract_lets s'
  refine .trans (t := s') ?_ (tldReply_keepsDevices s' _ _ _ _)
  unfold s'
  split
  · exact ((crewReply_keepsDevices s _ _ _ _).trans (.foldl (fun s _ => crewReply_keepsDevices s _ _ _ _) _ _)).trans
      (acquiredBy_keepsDevices _ _ _ _)
  · exact .refl s

theorem trySend_keepsDevices (id : Nat) : KeepsDevices s (trySend s id) := by
  have hgone : ∀ m, KeepsDevices s { s with requests := m } := fun _ => .of_same rfl
  unfold trySend
  split
  · exact .refl s
  · refine .ite (.ite (updReq_keepsDevices s _ _) (.ite ((hgone _).trans (failChain_keepsDevices _ _ _)) (.refl s))) ?_
    split
    · exact .refl s
    · next port s₂ hpick =>
      split
      · exact (pickPort_keepsDevices s hpick).trans (transmit_keepsDevices s₂ _ _)
      · exact updReq_keepsDevices s _ _

theorem pump_keepsDevices : KeepsDevices s (pump s) := .foldl trySend_keepsDevices _ s

/-! ### Paths -/

theorem emit_keepsDevices {p : Packet} {t : State} (h : emit s p = some t) : KeepsDevices s t := by
  obtain ⟨r, hr, rfl⟩ := Option.map_eq_some_iff.mp h
  exact (pickPort_keepsDevices s hr).trans (push_keepsDevices _ _ _ _)

theorem unreachable_keepsDevices (port : Nat) (p : Packet) : KeepsDevices s (unreachable s port p) := by
  unfold unreachable
  extract_lets s'
  have hdrop : KeepsDevices s s' := .setPrt s port _ rfl
  refine .ite hdrop ?_
  split
  · next t _ =>
    cases hemit : emit s' (replyTo s' p t 0x12 (if p.type = 5 then leBytes 8 0 else []) false p.ecn) with
    | none => exact hdrop
    | some u => exact hdrop.trans (emit_keepsDevices s' hemit)
  · exact hdrop

theorem reroute_keepsDevices (port : Nat) (e : Queued) : KeepsDevices s (reroute s port e) := by
  unfold reroute
  split
  · exact updReq_keepsDevices s _ _
  · refine .ite (.of_same rfl) ?_
    split
    · next hemit => exact emit_keepsDevices s hemit
    · exact .ite (.ite (.of_same rfl) (.refl s)) (unreachable_keepsDevices s _ _)

theorem rePath_keepsDevices : KeepsDevices s (rePath s) := by
  have htime : ∀ n, KeepsDevices s { s with pathAt := n } := fun _ => .of_same rfl
  unfold rePath
  refine ((htime _).trans (.foldl (fun s p => ?_) _ _)).trans (pump_keepsDevices _)
  extract_lets moved x
  have hqueue : ∀ q, KeepsDevices s (setPrt s p { x with outQ := q }) := fun q => .setPrt s p { x with outQ := q } rfl
  exact (hqueue _).trans (.foldl (fun s e => reroute_keepsDevices s p e) _ _)

end
end Sys2Proof.Machine
end

section
/-! The boot steps of one unit (R511, R512, Table 16.8): what an attempt leaves, whichever kind of unit it is. -/
namespace Sys2Proof.Machine
open Sys2Proof

/-! ### How an attempt of a unit ends -/

/-- Unit `u` of a step may be attempted: the module boots, the step before has ended, and the unit's has not. -/
def UnitOpen (s : State) (step u before : Nat) : Prop :=
  s.boot.phase = .booting ∧ stepEnded s before = true ∧ stepKey16 step u ∉ s.boot.done

/-- Attempts of a unit in this boot. -/
def unitTries (s : State) (step u : Nat) : Nat := mget s.boot.attempts (step * 65536 + u) 0

/-- Step, unit and outcome of the ledger's last record. -/
def lastRecord (s : State) : Option (Nat × Nat × Nat) := s.kept.ledger.getLast?.map fun r => (r.step, r.unit, r.outcome)

/-- The step has ended for the unit, with a `PASSED` record. -/
def UnitPassed (s t : State) (step u : Nat) : Prop :=
  t.boot.done = s.boot.done ++ [stepKey16 step u] ∧ lastRecord t = some (step, u, 0)

/-- The unit has failed once, and the step stays open for it. -/
def UnitAgain (s t : State) (step u : Nat) : Prop :=
  t.boot.phase = .booting ∧ t.boot.done = s.boot.done ∧ t.boot.skipped = s.boot.skipped ∧ unitTries t step u = 1
    ∧ lastRecord t = some (step, u, 1)

/-- The unit is skipped, with a record, and the boot goes on. -/
def UnitGone (s t : State) (step u out : Nat) : Prop :=
  t.boot.phase = .booting ∧ t.boot.done = s.boot.done ++ [stepKey16 step u] ∧ t.boot.skipped = s.boot.skipped ++ [stepKey16 step u]
    ∧ lastRecord t = some (step, u, out)

/-- Between two states the boot and what is kept over resets are as they were. -/
def KeepsBoot (s t : State) : Prop := t.boot = s.boot ∧ t.kept = s.kept

/-- What the end of an attempt has changed when the unit is put into service or skipped: attempts, skipped units, the ledger, time
and the counter of free values. -/
def Attempting (s x : State) : Prop :=
  x = { s with
    boot.attempts := x.boot.attempts, boot.skipped := x.boot.skipped, kept.ledger := x.kept.ledger, pace.now := x.pace.now,
    cycles := x.cycles, cyclePart := x.cyclePart, free := x.free }

/-- An attempt of a unit, counted and recorded. -/
def attempted (s : State) (step u us outcome code : Nat) : State :=
  let c := bootClock s us
  ledger { c with boot.attempts := mset c.boot.attempts (step * 65536 + u) (unitTries c step u + 1) } step u (unitTries c step u + 1) outcome us code

theorem UnitAgain.keep {s t x : State} {step u : Nat} (h : UnitAgain s t step u) (hkeep : KeepsBoot t x) : UnitAgain s x step u := by
  obtain ⟨hboot, hkept⟩ := hkeep
  unfold UnitAgain unitTries lastRecord
  rw [hboot, hkept]
  exact h

theorem UnitGone.keep {s t x : State} {step u out : Nat} (h : UnitGone s t step u out) (hkeep : KeepsBoot t x) : UnitGone s x step u out := by
  obtain ⟨hboot, hkept⟩ := hkeep
  unfold UnitGone lastRecord
  rw [hboot, hkept]
  exact h

theorem KeepsDevices.keepsBoot {s t : State} (h : KeepsDevices s t) : KeepsBoot s t := ⟨h.boot, h.kept⟩

section
variable {s x : State} {step u before us code : Nat} {good skip : State → State}

theorem UnitOpen.stepOpen16 (h : UnitOpen s step u before) : stepOpen16 s step u [before] = true := by
  obtain ⟨hphase, hended, hdone⟩ := h
  unfold Machine.stepOpen16
  simp [hphase, hended, hdone]

theorem bootClock_eq (s : State) (us : Nat) :
    bootClock s us = { s with
      pace.now := (bootClock s us).pace.now, cycles := (bootClock s us).cycles, cyclePart := (bootClock s us).cyclePart } := clock_eq ..

theorem lastRecord_ledger (attempt outcome : Nat) : lastRecord (ledger s step u attempt outcome us code) = some (step, u, outcome) := by
  unfold lastRecord ledger
  simp

theorem unitTries_bootClock (s : State) (us step u : Nat) : unitTries (bootClock s us) step u = unitTries s step u := by
  rw [bootClock_eq]; rfl

theorem Attempting.ledger (h : Attempting s x) (attempt outcome : Nat) : Attempting s (ledger x step u attempt outcome us code) := by
  unfold Attempting at h ⊢
  rw [h]; rfl

theorem attempting_attempted (outcome : Nat) : Attempting s (attempted s step u us outcome code) := by
  refine Attempting.ledger ?_ _ _
  unfold Attempting
  rw [bootClock_eq]

/-- What an attempt counts and records. -/
theorem attempted_boot (outcome : Nat) :
    (attempted s step u us outcome code).boot.phase = s.boot.phase ∧ (attempted s step u us outcome code).boot.done = s.boot.done
      ∧ (attempted s step u us outcome code).boot.skipped = s.boot.skipped
      ∧ unitTries (attempted s step u us outcome code) step u = unitTries s step u + 1 := by
  unfold attempted
  rw [bootClock_eq]
  exact ⟨rfl, rfl, rfl, mget_mset_self ..⟩

/-- A good attempt: the step has ended for the unit, and the state has whatever the step puts into service. -/
theorem bootUnit_ok (hopen : UnitOpen s step u before) (hgood : ∀ x, KeepsBoot x (good x)) {P : State → Prop}
    (hP : ∀ x, Attempting s x → P (stepDone (good x) step u)) :
    UnitPassed s (bootUnit s step u us [before] false true code good skip) step u
      ∧ P (bootUnit s step u us [before] false true code good skip) := by
  have heq : bootUnit s step u us [before] false true code good skip = stepDone (good (attempted s step u us 0 0)) step u := by
    unfold bootUnit
    rw [if_pos hopen.stepOpen16]
    rfl
  obtain ⟨hboot, hkept⟩ := hgood (attempted s step u us 0 0)
  obtain ⟨-, hdone, -, -⟩ := attempted_boot (s := s) (step := step) (u := u) (us := us) (code := 0) 0
  rw [heq]
  refine ⟨⟨?_, ?_⟩, hP _ (attempting_attempted 0)⟩
  · show (good _).boot.done ++ _ = _
    rw [hboot, hdone]
  · show (good _).kept.ledger.getLast?.map _ = _
    rw [hkept]
    exact lastRecord_ledger _ _

/-- A unit that is skipped. -/
theorem unitSkipped_gone {out : Nat} (hx : x.boot.phase = .booting ∧ x.boot.done = s.boot.done ∧ x.boot.skipped = s.boot.skipped)
    (hlast : lastRecord x = some (step, u, out)) (hattempt : Attempting s x) (hskip : ∀ x, KeepsBoot x (skip x)) {P : State → Prop}
    (hP : ∀ x, Attempting s x → P (stepDone (skip x) step u)) :
    UnitGone s (unitSkipped x step u skip) step u out ∧ P (unitSkipped x step u skip) := by
  obtain ⟨hphase, hdone, hskipped⟩ := hx
  obtain ⟨hboot, hkept⟩ := hskip { x with boot.skipped := x.boot.skipped ++ [stepKey16 step u] }
  refine ⟨⟨?_, ?_, ?_, ?_⟩, hP _ ?_⟩
  · show (skip _).boot.phase = _
    rw [hboot]
    exact hphase
  · show (skip _).boot.done ++ _ = _
    rw [hboot, ← hdone]
  · show (skip _).boot.skipped = _
    rw [hboot, ← hskipped]
  · show (skip _).kept.ledger.getLast?.map _ = _
    rw [hkept]
    exact hlast
  · unfold Attempting at hattempt ⊢
    rw [hattempt]

/-- A failed attempt, the unit's first or a later one. -/
theorem bootUnit_of_failed (hopen : UnitOpen s step u before) :
    bootUnit s step u us [before] false false code good skip =
      if 2 ≤ unitTries s step u + 1 then
        unitSkipped (ledger (attempted s step u us 1 code) step u (unitTries (bootClock s us) step u + 1) 2 us code) step u skip
      else attempted s step u us 1 code := by
  rw [← unitTries_bootClock s us]
  unfold bootUnit
  rw [if_pos hopen.stepOpen16]
  rfl

/-- The first failed attempt leaves the step open for the unit. -/
theorem bootUnit_again (hopen : UnitOpen s step u before) (hfirst : unitTries s step u = 0) :
    UnitAgain s (bootUnit s step u us [before] false false code good skip) step u := by
  obtain ⟨hphase, hdone, hskipped, htries⟩ := attempted_boot (s := s) (step := step) (u := u) (us := us) (code := code) 1
  rw [hopen.1] at hphase
  rw [hfirst] at htries
  rw [bootUnit_of_failed hopen, if_neg (by omega)]
  exact ⟨hphase, hdone, hskipped, htries, lastRecord_ledger _ _⟩

/-- The second failed attempt skips the unit. -/
theorem bootUnit_gone (hopen : UnitOpen s step u before) (hsecond : unitTries s step u ≠ 0) (hskip : ∀ x, KeepsBoot x (skip x))
    {P : State → Prop} (hP : ∀ x, Attempting s x → P (stepDone (skip x) step u)) :
    UnitGone s (bootUnit s step u us [before] false false code good skip) step u 2
      ∧ P (bootUnit s step u us [before] false false code good skip) := by
  obtain ⟨hphase, hdone, hskipped, -⟩ := attempted_boot (s := s) (step := step) (u := u) (us := us) (code := code) 1
  rw [hopen.1] at hphase
  rw [bootUnit_of_failed hopen, if_pos (by omega)]
  refine unitSkipped_gone ?_ (lastRecord_ledger _ _) (.ledger (attempting_attempted 1) _ _) hskip hP
  exact ⟨hphase, hdone, hskipped⟩

/-- A failed attempt of a unit, the first or the second. -/
theorem bootUnit_failed (hopen : UnitOpen s step u before) (hskip : ∀ x, KeepsBoot x (skip x)) {P : State → Prop}
    (hP : ∀ x, Attempting s x → P (stepDone (skip x) step u)) :
    if unitTries s step u = 0 then UnitAgain s (bootUnit s step u us [before] false false code good skip) step u
    else UnitGone s (bootUnit s step u us [before] false false code good skip) step u 2
      ∧ P (bootUnit s step u us [before] false false code good skip) := by
  split
  next h => exact bootUnit_again hopen h
  next h => exact bootUnit_gone hopen h hskip hP

/-- A retired unit is skipped without an attempt. -/
theorem bootUnit_retired (hopen : UnitOpen s step u before) (hskip : ∀ x, KeepsBoot x (skip x)) (ok : Bool) {P : State → Prop}
    (hP : ∀ x, Attempting s x → P (stepDone (skip x) step u)) :
    UnitGone s (bootUnit s step u us [before] true ok code good skip) step u 3
      ∧ P (bootUnit s step u us [before] true ok code good skip) := by
  generalize hx : ledger (draw (bootClock s us) 2).2 step u (1 + (draw (bootClock s us) 2).1) 3 us 0 = x
  have heq : bootUnit s step u us [before] true ok code good skip = unitSkipped x step u skip := by
    rw [← hx]
    unfold bootUnit
    rw [if_pos hopen.stepOpen16]
    rfl
  have hattempt : Attempting s (draw (bootClock s us) 2).2 := by
    unfold Attempting draw
    rw [bootClock_eq]
  have hboot : x.boot = s.boot := by
    rw [← hx, bootClock_eq]
    rfl
  rw [heq]
  exact unitSkipped_gone ⟨by rw [hboot]; exact hopen.1, by rw [hboot], by rw [hboot]⟩ (hx ▸ lastRecord_ledger _ _) (hx ▸ hattempt.ledger _ _) hskip hP

end
end Sys2Proof.Machine
end

section
/-! The units of the skippable boot steps (R74, R511, R512): shafts, stacks, update engines, clusters, ports and the management port. -/
namespace Sys2Proof.Machine
open Sys2Proof

section
variable {s : State} {us code : Nat}

/-! ### Stacks -/

/-- `BOOT_STACK_TRAIN`. -/
theorem bootStackTrain_ends {st : Nat} (hopen : UnitOpen s 0x06 st 0x04) :
    (∃ t, Machine.exec (.bootStackTrain st us true code) s = .next t ∧ UnitPassed s t 0x06 st
      ∧ (stk t st).st = .inService ∧ (stk t st).lastTrained = t.pace.now)
    ∧ ∃ t, Machine.exec (.bootStackTrain st us false code) s = .next t ∧
      if unitTries s 0x06 st = 0 then UnitAgain s t 0x06 st else UnitGone s t 0x06 st 2 ∧ (stk t st).st = .skipped := by
  have hexec : ∀ ok, Machine.exec (.bootStackTrain st us ok code) s = execBootStackTrain st us ok code s := fun _ => rfl
  rw [hexec, hexec]
  unfold execBootStackTrain
  refine ⟨⟨_, rfl, ?_⟩, ⟨_, rfl, ?_⟩⟩
  · refine bootUnit_ok hopen (fun x => ?_) (P := fun t => (stk t st).st = .inService ∧ (stk t st).lastTrained = t.pace.now) fun x _ => ?_
    · dsimp only
      split <;> exact ⟨rfl, rfl⟩
    · show (stk (setStk _ st _) st).st = _ ∧ (stk (setStk _ st _) st).lastTrained = _
      rw [stk_setStk_self]
      refine ⟨rfl, ?_⟩
      show x.pace.now = _
      dsimp only [stepDone]
      split <;> rfl
  · refine bootUnit_failed hopen (fun _ => ?_) (P := fun t => (stk t st).st = .skipped) fun x _ => ?_
    · exact ⟨rfl, rfl⟩
    · show (stk (setStk _ st _) st).st = _
      rw [stk_setStk_self]

/-! ### Shafts -/

/-- A fold whose every step takes one level out of service takes all of its levels out, and brings none back. -/
theorem levelsOut_foldl {f : State → Nat → State} {t : Nat} (hf : ∀ s l, (tow (f s l) t).levelsOut = addOnce (tow s t).levelsOut l)
    (ls : List Nat) (s : State) (l : Nat) : l ∈ (tow (ls.foldl f s) t).levelsOut ↔ l ∈ (tow s t).levelsOut ∨ l ∈ ls := by
  induction ls generalizing s with
  | nil => simp
  | cons l' ls ih => rw [List.foldl_cons, ih, hf, mem_addOnce, List.mem_cons, or_assoc]

/-- The levels above the lowest joint are out of service once it has left. -/
theorem levelsOut_levelsLeave (s : State) (t : Nat) {l : Nat} (hlo : 1 ≤ l) (hhi : l ≤ 3) : l ∈ (tow (levelsLeave s t 0) t).levelsOut := by
  unfold levelsLeave
  extract_lets x ls rest s₁ s₂
  have hone : (tow s₁ t).levelsOut = x.levelsOut := by unfold s₁; rw [tow_setTow_self]
  have htwo : (tow s₂ t).levelsOut = x.levelsOut :=
    (KeepsTowers.levelsOut (.ite (pitEvent_keepsTowers s₁ _ _ _ _ _ _) (.refl s₁)) t).trans hone
  rw [levelsOut_foldl (fun s l => ?_), htwo]
  · by_cases hout : l ∈ x.levelsOut
    · exact .inl hout
    · refine .inr (List.mem_filter.mpr ⟨List.mem_range.mpr (by omega), ?_⟩)
      simp [levelAbove, hout, hlo]
  · extract_lets _ s₃ s₄ _ s₅
    have hthree : (tow s₃ t).levelsOut = addOnce (tow s t).levelsOut l := by unfold s₃; rw [tow_setTow_self]
    have hfour : (tow s₄ t).levelsOut = addOnce (tow s t).levelsOut l := ((pitEvent_keepsTowers s₃ _ _ _ _ _ _).levelsOut t).trans hthree
    split
    · split
      · rw [tow_setTow_self]
        exact hfour
      · exact hfour
    · have hparts : KeepsTowers s₅ _ := .foldl (fun s i => dropFromParts_keepsTowers s (32 * t + 16 * (l - 2) + i)) (List.range 16) s₅
      exact (hparts.levelsOut t).trans (((containLevel_keepsTowers s₄ t l).levelsOut t).trans hfour)

/-- `BOOT_SHAFT_TRAIN`. -/
theorem bootShaftTrain_ends {tw : Nat} (lanes : List LaneRef) (hopen : UnitOpen s 0x05 tw 0x04) :
    (∃ t, Machine.exec (.bootShaftTrain tw us true code lanes) s = .next t ∧ UnitPassed s t 0x05 tw
      ∧ (lanes = [] → ∀ a, 0x080000000000 + tw * 0x60000000 ≤ a → a < 0x080000000000 + (tw + 1) * 0x60000000 → readMem t a 1 = [0#8]))
    ∧ ∃ t, Machine.exec (.bootShaftTrain tw us false code lanes) s = .next t ∧
      if unitTries s 0x05 tw = 0 then UnitAgain s t 0x05 tw
      else UnitGone s t 0x05 tw 2 ∧ (tow t tw).untrained = true ∧ ∀ l, 1 ≤ l → l ≤ 3 → l ∈ (tow t tw).levelsOut := by
  refine ⟨⟨_, rfl, bootUnit_ok hopen (fun x => ?_) (P := fun t => lanes = [] → ∀ a, 0x080000000000 + tw * 0x60000000 ≤ a →
      a < 0x080000000000 + (tw + 1) * 0x60000000 → readMem t a 1 = [0#8]) fun x _ hlanes a hlo hhi => ?_⟩,
    ⟨_, rfl, bootUnit_failed hopen (fun x => ?_) (P := fun t => (tow t tw).untrained = true ∧
      ∀ l, 1 ≤ l → l ≤ 3 → l ∈ (tow t tw).levelsOut) fun x _ => ?_⟩⟩
  · have hzero : KeepsDevices x (zeroMem x (0x080000000000 + tw * 0x60000000) (0x080000000000 + tw * 0x60000000 + 0x60000000)) := .of_same rfl
    exact (hzero.trans (.foldl (fun s _ => laneFailure_keepsDevices s _ _ _ _) lanes _)).keepsBoot
  · subst hlanes
    exact readMem_zeroMem (s := x) hlo (by omega)
  · have hmark : ∀ (s : State) y, KeepsDevices s (setTow s tw y) := fun _ _ => .of_same rfl
    exact ((levelsLeave_keepsDevices x tw 0).trans (hmark _ _)).keepsBoot
  · show (tow (setTow _ tw _) tw).untrained = true ∧ ∀ l, _ → _ → l ∈ (tow (setTow _ tw _) tw).levelsOut
    rw [tow_setTow_self]
    exact ⟨rfl, fun l => levelsOut_levelsLeave x tw⟩

/-! ### Clusters -/

theorem clusters_dropFromParts (s : State) (c : Nat) : (dropFromParts s c).clusters = s.clusters := by
  unfold dropFromParts
  refine List.foldlRecOn (motive := fun t : State => t.clusters = s.clusters) _ _ rfl fun t ht p _ => ?_
  dsimp only
  split <;> split <;> exact ht

/-- A cluster that is skipped is retired. -/
theorem clu_retire (s : State) (c : Nat) : (clu (dropFromParts (setClu s c { clu s c with mode := .retired }) c) c).mode = .retired := by
  unfold clu
  rw [clusters_dropFromParts]
  exact congrArg Cluster.mode (clu_setClu_self s c _)

theorem retire_keepsBoot (s : State) (c : Nat) : KeepsBoot s (dropFromParts (setClu s c { clu s c with mode := .retired }) c) := by
  have hmode : KeepsDevices s (setClu s c { clu s c with mode := .retired }) := .of_same rfl
  exact (hmode.trans (dropFromParts_keepsDevices _ c)).keepsBoot

/-- `BOOT_CLUSTER_TEST` of a cluster that is not retired. -/
theorem bootClusterTest_ends {c : Nat} (hopen : UnitOpen s 0x0A c 0x05) (hretired : retiresCluster s c = false) :
    (∃ t, Machine.exec (.bootClusterTest c us true code) s = .next t ∧ UnitPassed s t 0x0A c ∧ t.clusters = s.clusters)
    ∧ ∃ t, Machine.exec (.bootClusterTest c us false code) s = .next t ∧
      if unitTries s 0x0A c = 0 then UnitAgain s t 0x0A c else UnitGone s t 0x0A c 2 ∧ (clu t c).mode = .retired := by
  have hexec : ∀ ok, Machine.exec (.bootClusterTest c us ok code) s = .next (bootUnit s 0x0A c us [0x05] false ok code (fun s => s)
      fun s => dropFromParts (setClu s c { clu s c with mode := .retired }) c) := fun ok => by rw [← hretired]; rfl
  refine ⟨⟨_, hexec true, bootUnit_ok hopen (fun _ => ⟨rfl, rfl⟩) (P := fun t => t.clusters = s.clusters) fun x hx => ?_⟩,
    ⟨_, hexec false, bootUnit_failed hopen (fun x => retire_keepsBoot x c) (P := fun t => (clu t c).mode = .retired) fun x _ => clu_retire x c⟩⟩
  show x.clusters = _
  rw [hx]

/-- `BOOT_CLUSTER_TEST` of a retired cluster. -/
theorem bootClusterTest_retired {c : Nat} (hopen : UnitOpen s 0x0A c 0x05) (hretired : retiresCluster s c = true) (ok : Bool) :
    ∃ t, Machine.exec (.bootClusterTest c us ok code) s = .next t ∧ UnitGone s t 0x0A c 3 ∧ (clu t c).mode = .retired := by
  have hexec : Machine.exec (.bootClusterTest c us ok code) s = .next (bootUnit s 0x0A c us [0x05] true ok code (fun s => s)
      fun s => dropFromParts (setClu s c { clu s c with mode := .retired }) c) := by rw [← hretired]; rfl
  exact ⟨_, hexec, bootUnit_retired hopen (fun x => retire_keepsBoot x c) ok (P := fun t => (clu t c).mode = .retired) fun x _ => clu_retire x c⟩

/-! ### The management port -/

/-- `BOOT_MGMT_PORT`. -/
theorem bootMgmtPort_ends (hopen : UnitOpen s 0x0C 0xFFFF 0x03) :
    (∃ t, Machine.exec (.bootMgmtPort us true code) s = .next t ∧ UnitPassed s t 0x0C 0xFFFF ∧ t.mgmtUp = true)
    ∧ ∃ t, Machine.exec (.bootMgmtPort us false code) s = .next t ∧
      if unitTries s 0x0C 0xFFFF = 0 then UnitAgain s t 0x0C 0xFFFF else UnitGone s t 0x0C 0xFFFF 2 ∧ t.mgmtUp = s.mgmtUp := by
  have hexec : ∀ ok, Machine.exec (.bootMgmtPort us ok code) s = execBootMgmtPort us ok code s := fun _ => rfl
  rw [hexec, hexec]
  unfold execBootMgmtPort
  refine ⟨⟨_, rfl, ?_⟩, ⟨_, rfl, ?_⟩⟩
  · refine bootUnit_ok hopen (fun _ => ?_) (P := fun t => t.mgmtUp = true) fun _ _ => ?_
    · exact ⟨rfl, rfl⟩
    · rfl
  · refine bootUnit_failed hopen (fun _ => ?_) (P := fun t => t.mgmtUp = s.mgmtUp) fun x hx => ?_
    · exact ⟨rfl, rfl⟩
    · show x.mgmtUp = _
      rw [hx]

end
end Sys2Proof.Machine
end

section
/-! Update engines and ports at boot (R74, R320, R322, R511, R512), and the units' boot steps as a whole. -/
namespace Sys2Proof.Machine
open Sys2Proof

section
variable {s x : State} {us code n : Nat}

/-! ### Update engines -/

theorem packages_setPackages (s : State) (n : Nat) (d : DevState) {i : Nat} (hi : i < 4) :
    mget (setPackages s n d).packages (4 * n + i) .skipped = d := by
  show mget (mset (mset (mset (mset s.packages (4 * n) d) (4 * n + 1) d) (4 * n + 2) d) (4 * n + 3) d) (4 * n + i) .skipped = d
  simp only [mget_mset]
  split
  · rfl
  · split
    · rfl
    · split
      · rfl
      · rw [if_pos (by omega)]

/-- What the start of a processor changes. -/
theorem startProc_eq (s : State) (p reg : Nat) : ∃ tr fw, startProc s p reg = { s with trust := tr, fw := fw } := by
  unfold startProc
  split
  · exact ⟨_, _, rfl⟩
  · exact ⟨_, _, rfl⟩

/-- A processor with an accepted image runs once it has started. -/
theorem fwRuns_startProc {p reg : Nat} (hx : Attempting s x) (himage : procImageOk s p = true) : fwRuns (startProc x p reg) p = true := by
  have hslot : bootSlot x = bootSlot s := by rw [hx]; rfl
  unfold procImageOk at himage
  unfold startProc
  rw [hslot]
  cases himg : slotImage (bootSlot s) (fwKind p) with
  | none => rw [himg] at himage; cases himage
  | some i =>
    show ((fwp (setFwp _ p _) p).mode == .running) = true
    rw [fwp_setFwp_self]
    rfl

/-- A failed boot begins the next one of the sequence, with no step ended (R513). -/
theorem bootFailed_next (h : s.boot.boot < 8) : (bootFailed s).boot.boot = s.boot.boot + 1 ∧ (bootFailed s).boot.done = [] := by
  have h12 : ∀ (c : State) b, (at12ms c).boot = c.boot ∧ (from12ms c b false).boot.boot = c.boot.boot
      ∧ (from12ms c b false).boot.done = c.boot.done := fun c b => by
    have hat : ∀ c : State, (at12ms c).boot = c.boot := fun c => by
      unfold at12ms
      dsimp only
      split <;> rfl
    refine ⟨hat c, ?_⟩
    unfold from12ms at13ms bootBegins
    cases b
    · exact ⟨rfl, rfl⟩
    · show (at12ms _).boot.boot = _ ∧ (at12ms _).boot.done = _
      rw [hat]
      exact ⟨rfl, rfl⟩
  unfold bootFailed
  rw [if_neg (by omega)]
  dsimp only
  split
  · rw [(h12 _ _).2.1, (h12 _ _).2.2]
    exact ⟨rfl, rfl⟩
  · exact ⟨rfl, rfl⟩

/-- `BOOT_UE_START` of an engine that is not retired. -/
theorem bootUeStart_ends (hopen : UnitOpen s 0x08 n 0x04) (hretired : s.kept.retired.contains (0x200 + n) = false) (ok : Bool) :
    ∃ t, Machine.exec (.bootUeStart n us ok code) s = .next t ∧
      if ok = true ∧ procImageOk s (13 + n) = true then UnitPassed s t 0x08 n ∧ (ue t n).inService = true
          ∧ (∀ i, i < 4 → mget t.packages (4 * n + i) .skipped = .inService) ∧ fwRuns t (13 + n) = true
      else if unitTries s 0x08 n = 0 then UnitAgain s t 0x08 n
      else if partnerSkipped s n = true then s.boot.boot < 8 → t.boot.boot = s.boot.boot + 1 ∧ t.boot.done = []
      else UnitGone s t 0x08 n 2 ∧ ∀ i, i < 4 → mget t.packages (4 * n + i) .skipped = .skipped := by
  have hexec : Machine.exec (.bootUeStart n us ok code) s = execBootUeStart n us ok code s := rfl
  rw [hexec]
  simp only [← Bool.and_eq_true]
  unfold execBootUeStart
  dsimp only
  rw [hretired, hopen.stepOpen16]
  cases hgood : ok && procImageOk s (13 + n) with
  | true =>
    rw [Bool.and_eq_true] at hgood
    refine ⟨_, rfl, ?_⟩
    simp only [Bool.not_true, Bool.false_and, Bool.or_false, Bool.and_false, Bool.false_eq_true, if_false, if_true]
    refine bootUnit_ok hopen (fun x => ?_) (P := fun t => (ue t n).inService = true
      ∧ (∀ i, i < 4 → mget t.packages (4 * n + i) .skipped = .inService) ∧ fwRuns t (13 + n) = true) fun x hx => ?_
    · obtain ⟨tr, fw, hstart⟩ := startProc_eq x (13 + n) 1
      rw [hstart]
      exact ⟨rfl, rfl⟩
    · exact ⟨congrArg Ue.inService (ue_setUe_self ..), fun i hi => packages_setPackages _ n _ hi, fwRuns_startProc hx hgood.2⟩
  | false =>
    simp only [Bool.not_false, Bool.true_and, Bool.false_or, Bool.false_eq_true, if_false, Bool.and_eq_true, decide_eq_true_eq]
    by_cases hlast : 1 ≤ mget s.boot.attempts (0x08 * 65536 + n) 0 ∧ partnerSkipped s n = true
    · rw [if_pos hlast]
      refine ⟨_, rfl, ?_⟩
      have htries : unitTries s 0x08 n ≠ 0 := Nat.one_le_iff_ne_zero.mp hlast.1
      rw [if_neg htries, if_pos hlast.2]
      intro h8
      have hboot : (ledger (bootClock s us) 0x08 n (mget (bootClock s us).boot.attempts (0x08 * 65536 + n) 0 + 1) 1 us code).boot = s.boot := by
        rw [bootClock_eq]; rfl
      rw [hboot, if_neg (Nat.not_le.mpr h8), ← hboot]
      exact bootFailed_next (by rw [hboot]; exact h8)
    · rw [if_neg hlast]
      refine ⟨_, rfl, ?_⟩
      split
      next hfirst => exact bootUnit_again hopen hfirst
      next hsecond =>
        rw [if_neg fun hp => hlast ⟨Nat.one_le_iff_ne_zero.mpr hsecond, hp⟩]
        refine bootUnit_gone hopen hsecond (fun _ => ?_) (P := fun t => ∀ i, i < 4 → mget t.packages (4 * n + i) .skipped = .skipped)
          fun x _ i hi => packages_setPackages _ n _ hi
        exact ⟨rfl, rfl⟩

/-- `BOOT_UE_START` of a retired engine whose partner is in service. -/
theorem bootUeStart_retired (hopen : UnitOpen s 0x08 n 0x04) (hretired : s.kept.retired.contains (0x200 + n) = true)
    (hpartner : partnerSkipped s n = false) (ok : Bool) :
    ∃ t, Machine.exec (.bootUeStart n us ok code) s = .next t ∧ UnitGone s t 0x08 n 3
      ∧ ∀ i, i < 4 → mget t.packages (4 * n + i) .skipped = .skipped := by
  have hexec : Machine.exec (.bootUeStart n us ok code) s = execBootUeStart n us ok code s := rfl
  rw [hexec]
  unfold execBootUeStart
  dsimp only
  rw [hretired, hpartner, Bool.and_false, if_neg (by decide)]
  refine ⟨_, rfl, ?_⟩
  refine bootUnit_retired hopen (fun _ => ?_) _ (P := fun t => ∀ i, i < 4 → mget t.packages (4 * n + i) .skipped = .skipped)
    fun x _ i hi => packages_setPackages _ n _ hi
  exact ⟨rfl, rfl⟩

/-! ### Ports -/

/-- A port that enters service is up, and what looks for its way again keeps it so. -/
theorem portUp_portService (s : State) (p : Nat) (i : PeerInfo) : portUp (portService s p i) p = true := by
  unfold portUp portService
  rw [(rePath_keepsDevices _).port, prt_setPrt_self]
  dsimp only
  split <;> rfl

theorem portService_keepsBoot (s : State) (p : Nat) (i : PeerInfo) : KeepsBoot s (portService s p i) :=
  ⟨(rePath_keepsDevices _).boot, (rePath_keepsDevices _).kept⟩

theorem lasersOn_portService (s : State) (p : Nat) (i : PeerInfo) : (portService s p i).pins.lasersOn = s.pins.lasersOn :=
  congrArg Pins.lasersOn (rePath_keepsDevices _).pins

/-- `BOOT_PORT_BRINGUP` with a peer that fits. -/
theorem bootPortBringup_fits {p : Nat} {peer : PeerInfo} (hopen : UnitOpen s 0x0B p 0x02) (henabled : portEnabled s p = true)
    (hfits : peerFits s p peer = true) (hdown : portUp s p = false) :
    ∃ t, Machine.exec (.bootPortBringup p us true code (some peer)) s = .next t ∧ UnitPassed s t 0x0B p
      ∧ portUp t p = true ∧ t.pins.lasersOn = true := by
  have hexec : Machine.exec (.bootPortBringup p us true code (some peer)) s = execBootPortBringup p us true code (some peer) s := rfl
  rw [hexec]
  unfold execBootPortBringup
  simp only [henabled, hfits, Bool.and_self, Bool.not_true, Bool.and_false, Bool.false_and, Bool.true_eq_false, Bool.false_eq_true, if_false]
  refine ⟨_, rfl, ?_⟩
  refine bootUnit_ok hopen (fun x => ?_) (P := fun t => portUp t p = true ∧ t.pins.lasersOn = true) fun x hx => ?_
  · split
    · exact ⟨rfl, rfl⟩
    · exact portService_keepsBoot { x with pins.lasersOn := true } p peer
  · have hdown' : portUp x p = false := by rw [hx]; exact hdown
    rw [if_neg (by rw [hdown']; decide)]
    exact ⟨portUp_portService _ p peer, lasersOn_portService { x with pins.lasersOn := true } p peer⟩

/-- A port whose attempt ended, with its lasers on, keeps retrying. -/
theorem portRetries {p : Nat} {t : State} {pins : Pins} {y : Port} (hy : y.mode = .training)
    (hends : if unitTries s 0x0B p = 0 then UnitAgain s t 0x0B p else UnitGone s t 0x0B p 2) :
    ∃ u, (if t.boot.phase == .booting then setPrt { t with pins := pins } p y else t) = u ∧ (prt u p).mode = .training
      ∧ if unitTries s 0x0B p = 0 then UnitAgain s u 0x0B p else UnitGone s u 0x0B p 2 := by
  have hphase : t.boot.phase = .booting := by
    split at hends
    · exact hends.1
    · exact hends.1
  refine ⟨setPrt { t with pins := pins } p y, if_pos (beq_iff_eq.mpr hphase), by rw [prt_setPrt_self]; exact hy, ?_⟩
  split at hends
  next h => rw [if_pos h]; exact hends.keep ⟨rfl, rfl⟩
  next h => rw [if_neg h]; exact hends.keep ⟨rfl, rfl⟩

/-- `BOOT_PORT_BRINGUP` that fails: the port keeps retrying, skipped or not. -/
theorem bootPortBringup_failed {p : Nat} (peer : PeerInfo) (hopen : UnitOpen s 0x0B p 0x02) (henabled : portEnabled s p = true) :
    ∃ t, Machine.exec (.bootPortBringup p us false code (some peer)) s = .next t ∧ (prt t p).mode = .training ∧
      if unitTries s 0x0B p = 0 then UnitAgain s t 0x0B p else UnitGone s t 0x0B p 2 := by
  have hexec : Machine.exec (.bootPortBringup p us false code (some peer)) s = execBootPortBringup p us false code (some peer) s := rfl
  rw [hexec]
  unfold execBootPortBringup
  simp only [henabled, hopen.stepOpen16, Bool.false_and, Bool.not_false, Bool.and_true, Bool.true_and, Bool.true_eq_false, if_false]
  refine Exists.imp (fun u ⟨hu, hrest⟩ => ⟨congrArg _ hu, hrest⟩) (portRetries ?_ ?_)
  · rfl
  · split
    next h => exact bootUnit_again hopen h
    next h =>
      refine (bootUnit_gone hopen h (fun _ => ?_) (P := fun _ => True) fun _ _ => trivial).1
      exact ⟨rfl, rfl⟩

end

/-- Settles O3: every kind of unit ends its attempts by `bootUnit`, and what puts it into service or skips it leaves the boot and the
ledger as they are. -/
theorem bootUnitSteps : Obligations.BootUnitSteps := by
  unfold Obligations.BootUnitSteps
  exact ⟨fun s us code st => bootStackTrain_ends, fun s us code tw lanes _ => bootShaftTrain_ends lanes,
    fun s us code c hopen => ⟨bootClusterTest_ends hopen, bootClusterTest_retired hopen⟩, fun s us code => bootMgmtPort_ends,
    fun s us code n ok _ hopen hretired => bootUeStart_ends hopen hretired ok,
    fun s us code n ok _ hopen hretired hpartner => bootUeStart_retired hopen hretired hpartner ok,
    fun s us code p peer hopen henabled => ⟨bootPortBringup_fits hopen henabled, bootPortBringup_failed peer hopen henabled⟩⟩

end Sys2Proof.Machine
end

section
/-! Paths of a crew (R102 to R105, R123, R162): what settling, branching and ending lanes leave of the lanes' places. -/
namespace Sys2Proof.Machine
open Sys2Proof

/-! ### Where lanes are -/

/-- Whether a path has lane `l`. -/
def Path.on (l : Nat) (p : Path) : Bool := p.mask.getLsbD l

/-- All paths of a crew. -/
def Crew.paths (x : Crew) : List Path := x.run.toList ++ x.pending ++ x.atReconv ++ x.atBarrier

/-- Number of a crew's paths that lane `l` is on. -/
def Crew.carriers (x : Crew) (l : Nat) : Nat :=
  x.run.toList.countP (Path.on l) + x.pending.countP (Path.on l) + x.atReconv.countP (Path.on l) + x.atBarrier.countP (Path.on l)

theorem Crew.mem_paths {x : Crew} {p : Path} : p ∈ x.paths ↔ x.run = some p ∨ p ∈ x.pending ∨ p ∈ x.atReconv ∨ p ∈ x.atBarrier := by
  simp [paths]

/-- `Safety.lanesPlaced`, its parts named. -/
structure Crew.Placed (x : Crew) : Prop where
  lane : ∀ l, l < 32 → x.carriers l = if x.exited.getLsbD l then 0 else 1
  apart : (x.pending ++ x.atBarrier).Pairwise fun p q => p.age ≠ q.age
  young : ∀ p ∈ x.paths, p.age < x.nextAge

theorem lanesPlaced_iff (x : Crew) : Safety.lanesPlaced x ↔ x.Placed := by
  have hcount : ∀ l, (x.paths.countP fun p => p.mask.getLsbD l) = x.carriers l := fun l => by
    simp only [Crew.paths, Crew.carriers, List.countP_append]; rfl
  constructor
  · rintro ⟨hlane, hapart, hyoung⟩
    exact ⟨fun l hl => (hcount l).symm.trans (hlane l hl), hapart, hyoung⟩
  · rintro ⟨hlane, hapart, hyoung⟩
    exact ⟨fun l hl => (hcount l).trans (hlane l hl), hapart, hyoung⟩

/-! ### One path for another -/

/-- Paths of the same lanes count alike. -/
theorem countP_of_mask {p q : Path} (h : q.mask = p.mask) (l : Nat) : [q].countP (Path.on l) = [p].countP (Path.on l) := by
  have hon : Path.on l q = Path.on l p := by rw [Path.on, Path.on, h]
  rw [List.countP_singleton, List.countP_singleton, hon]

section
variable {x : Crew}

/-- The running path may change in all but its lanes and its age. -/
theorem Crew.Placed.setRun (h : x.Placed) {p q : Path} (hrun : x.run = some p) (hmask : q.mask = p.mask) (hage : q.age = p.age) :
    Crew.Placed { x with run := some q } := by
  obtain ⟨hlane, hapart, hyoung⟩ := h
  refine ⟨fun l hl => ?_, hapart, fun r hr => ?_⟩
  · rw [← hlane l hl]
    simp only [carriers, hrun, Option.toList_some, countP_of_mask hmask]
  · rcases mem_paths.mp hr with heq | hr
    · obtain rfl := Option.some.inj heq
      exact hage ▸ hyoung p (mem_paths.mpr (.inl hrun))
    · exact hyoung r (mem_paths.mpr (.inr hr))

/-- The running path waits at its reconvergence point (R103). -/
theorem Crew.Placed.runToReconv (h : x.Placed) {p : Path} (hrun : x.run = some p) : Crew.Placed { x with run := none, atReconv := x.atReconv ++ [p] } := by
  obtain ⟨hlane, hapart, hyoung⟩ := h
  refine ⟨fun l hl => ?_, hapart, fun q hq => hyoung q ?_⟩
  · rw [← hlane l hl]
    simp only [carriers, hrun, Option.toList_some, Option.toList_none, List.countP_nil, List.countP_append]
    omega
  · simp only [mem_paths, List.mem_append, List.mem_singleton, hrun] at hq ⊢
    grind

/-- Of paths told apart by age, one leaves exactly itself behind (R105). -/
theorem countP_filter_age {ps : List Path} (hapart : ps.Pairwise fun p q => p.age ≠ q.age) {p : Path} (hp : p ∈ ps) (f : Path → Bool) :
    ps.countP f = [p].countP f + (ps.filter fun q => q.age != p.age).countP f := by
  induction ps with
  | nil => exact absurd hp List.not_mem_nil
  | cons q qs ih =>
    rw [List.pairwise_cons] at hapart
    obtain ⟨hq, hqs⟩ := hapart
    rcases List.mem_cons.mp hp with rfl | hmem
    · have hrest : qs.filter (fun q => q.age != p.age) = qs := List.filter_eq_self.mpr fun r hr => bne_iff_ne.mpr (hq r hr).symm
      rw [List.filter_cons, if_neg (by simp), hrest, ← List.countP_append, List.singleton_append]
    · rw [List.filter_cons, if_pos (bne_iff_ne.mpr (hq p hmem)), List.countP_cons (l := qs), List.countP_cons (a := q), ih hqs hmem, Nat.add_assoc]

/-- A waiting path runs (R105). -/
theorem Crew.Placed.pendingToRun (h : x.Placed) (hrun : x.run = none) {p : Path} (hp : p ∈ x.pending) (n : Nat) :
    Crew.Placed { x with run := some { p with count := n }, pending := x.pending.filter fun q => q.age != p.age } := by
  obtain ⟨hlane, hapart, hyoung⟩ := h
  refine ⟨fun l hl => ?_, hapart.sublist ((List.filter_sublist).append_right _), fun q hq => ?_⟩
  · rw [← hlane l hl]
    have hcount := countP_filter_age (List.pairwise_append.mp hapart).1 hp (Path.on l)
    have hmask := countP_of_mask (p := p) (q := { p with count := n }) rfl l
    simp only [carriers, hrun, Option.toList_some, Option.toList_none, List.countP_nil, hmask]
    omega
  · rcases mem_paths.mp hq with heq | hq | hq
    · obtain rfl := Option.some.inj heq
      exact hyoung p (mem_paths.mpr (.inr (.inl hp)))
    · exact hyoung q (mem_paths.mpr (.inr (.inl (List.mem_of_mem_filter hq))))
    · exact hyoung q (mem_paths.mpr (.inr (.inr hq)))

/-- A path of the next age is told apart from every other. -/
theorem Crew.Placed.apart_snoc (h : x.Placed) {p : Path} (hage : p.age = x.nextAge) :
    (x.pending ++ [p] ++ x.atBarrier).Pairwise fun p q => p.age ≠ q.age := by
  have hperm : (x.pending ++ [p] ++ x.atBarrier).Perm (p :: (x.pending ++ x.atBarrier)) := by
    rw [List.append_assoc]; exact List.perm_middle
  rw [hperm.pairwise_iff fun {a b} hab => Ne.symm hab, List.pairwise_cons]
  refine ⟨fun q hq => ?_, h.apart⟩
  have := h.young q (mem_paths.mpr (by rcases List.mem_append.mp hq with hq | hq <;> simp [hq]))
  omega

/-! ### Merging (R103) -/

/-- The lanes of paths, as one mask. -/
theorem getLsbD_foldl_masks (ps : List Path) (m : W32) (l : Nat) :
    (ps.foldl (fun m p => m ||| p.mask) m).getLsbD l = (m.getLsbD l || ps.any (Path.on l)) := by
  induction ps generalizing m with
  | nil => simp
  | cons p ps ih => rw [List.foldl_cons, ih, BitVec.getLsbD_or, List.any_cons, Bool.or_assoc]; rfl

/-- Where at most one path has a lane, their joint mask has it as often as they do. -/
theorem countP_eq_of_le_one {ps : List Path} {f : Path → Bool} (h : ps.countP f ≤ 1) : ps.countP f = if ps.any f then 1 else 0 := by
  cases hany : ps.any f with
  | false =>
    rw [List.any_eq_false] at hany
    simpa using hany
  | true =>
    obtain ⟨p, hp, hl⟩ := List.any_eq_true.mp hany
    have := List.countP_pos_iff.mpr ⟨p, hp, hl⟩
    simp only [if_true]; omega

/-- The path that stands for those that wait at a divergence's point, and the paths that still wait at others. -/
def Crew.merged (x : Crew) (e : Div) : Path :=
  { mask := x.waitingAt e.id, pc := e.reconv
    divs := ((x.atReconv.filter fun p => p.divs.head? == some e.id).headD { mask := 0#32, pc := 0 }).divs.drop 1, age := x.nextAge }
def Crew.others (x : Crew) (e : Div) : List Path := x.atReconv.filter fun q => q.divs.head? != some e.id

theorem Crew.mergeAt_eq (x : Crew) (e : Div) :
    x.mergeAt e = (let y := { x with atReconv := x.others e, divs := x.divs.filter fun f => f.id != e.id, nextAge := x.nextAge + 1 }
      match x.run with
      | none => { y with run := some (x.merged e) }
      | some _ => if y.atPoint (x.merged e) then { y with atReconv := x.others e ++ [x.merged e] } else { y with pending := x.pending ++ [x.merged e] }) := rfl

/-- The merged path has each lane as often as the paths it is made of. -/
theorem Crew.Placed.countP_atReconv (h : x.Placed) (e : Div) {l : Nat} (hl : l < 32) :
    x.atReconv.countP (Path.on l) = [x.merged e].countP (Path.on l) + (x.others e).countP (Path.on l) := by
  have hsplit := List.countP_eq_countP_filter_add x.atReconv (Path.on l) fun p => p.divs.head? == some e.id
  have hle : (x.atReconv.filter fun p => p.divs.head? == some e.id).countP (Path.on l) ≤ 1 := by
    have hlane := h.lane l hl
    have : x.carriers l ≤ 1 := by rw [hlane]; split <;> omega
    have : x.atReconv.countP (Path.on l) ≤ x.carriers l := by unfold carriers; omega
    omega
  have hmerged : [x.merged e].countP (Path.on l) = (x.atReconv.filter fun p => p.divs.head? == some e.id).countP (Path.on l) := by
    rw [countP_eq_of_le_one hle, List.countP_singleton]
    simp only [Path.on, merged, waitingAt, getLsbD_foldl_masks, BitVec.getLsbD_zero, Bool.false_or]
  rw [hmerged]
  exact hsplit

theorem Crew.Placed.mergeAt (h : x.Placed) (e : Div) : (x.mergeAt e).Placed := by
  have hsub : ∀ q ∈ x.others e, q ∈ x.atReconv := fun q hq => List.mem_of_mem_filter hq
  have hyoung : ∀ q, x.run = some q ∨ q ∈ x.pending ∨ q ∈ x.others e ∨ q ∈ x.atBarrier → q.age < x.nextAge + 1 := fun q hq =>
    Nat.lt_succ_of_lt (h.young q (mem_paths.mpr (hq.imp_right (.imp_right (.imp_left (hsub q))))))
  have hage : (x.merged e).age < x.nextAge + 1 := Nat.lt_succ_self _
  rw [mergeAt_eq]
  dsimp only
  split
  next hrun =>
    refine ⟨fun l hl => ?_, h.apart, fun q hq => ?_⟩
    · rw [← h.lane l hl]
      simp only [carriers, hrun, h.countP_atReconv e hl, Option.toList_some, Option.toList_none, List.countP_nil, Nat.zero_add]
      omega
    · rcases mem_paths.mp hq with heq | hq
      · obtain rfl := Option.some.inj heq; exact hage
      · exact hyoung q (.inr hq)
  next p hrun =>
    split
    · refine ⟨fun l hl => ?_, h.apart, fun q hq => ?_⟩
      · rw [← h.lane l hl]
        simp only [carriers, h.countP_atReconv e hl, List.countP_append]
        omega
      · simp only [mem_paths, List.mem_append, List.mem_singleton] at hq
        rcases hq with hq | hq | (hq | rfl) | hq
        · exact hyoung q (.inl hq)
        · exact hyoung q (.inr (.inl hq))
        · exact hyoung q (.inr (.inr (.inl hq)))
        · exact hage
        · exact hyoung q (.inr (.inr (.inr hq)))
    · refine ⟨fun l hl => ?_, h.apart_snoc rfl, fun q hq => ?_⟩
      · rw [← h.lane l hl]
        simp only [carriers, h.countP_atReconv e hl, List.countP_append]
        omega
      · simp only [mem_paths, List.mem_append, List.mem_singleton] at hq
        rcases hq with hq | (hq | rfl) | hq | hq
        · exact hyoung q (.inl hq)
        · exact hyoung q (.inr (.inl hq))
        · exact hage
        · exact hyoung q (.inr (.inr (.inl hq)))
        · exact hyoung q (.inr (.inr (.inr hq)))

/-! ### Settling (R103, R105) -/

theorem mem_of_minBy {α : Type} {f : α → Nat} {l : List α} {a : α} (h : minBy f l = some a) : a ∈ l := by
  induction l with
  | nil => exact absurd h nofun
  | cons b l ih =>
    unfold minBy at h
    split at h
    · exact Option.some.inj h ▸ List.mem_cons_self
    next c hc =>
      split at h
      · exact List.mem_cons_of_mem _ (ih (hc.trans h))
      · exact Option.some.inj h ▸ List.mem_cons_self

/-- What one move of settling does. -/
theorem Crew.settleStep_cases {x y : Crew} (h : x.settleStep = some y) :
    (∃ p, x.run = some p ∧ y = { x with run := none, atReconv := x.atReconv ++ [p] }) ∨ (∃ e, y = x.mergeAt e)
      ∨ ∃ p ∈ x.pending, x.run = none ∧ y = { x with run := some { p with count := 0 }, pending := x.pending.filter fun q => q.age != p.age } := by
  unfold settleStep at h
  split at h
  next p hrun =>
    split at h
    · exact .inl ⟨p, hrun, (Option.some.inj h).symm⟩
    · split at h
      next e _ => exact .inr (.inl ⟨e, (Option.some.inj h).symm⟩)
      · exact absurd h nofun
  next hrun =>
    split at h
    next e _ => exact .inr (.inl ⟨e, (Option.some.inj h).symm⟩)
    · split at h
      next p hp => exact .inr (.inr ⟨p, mem_of_minBy hp, hrun, (Option.some.inj h).symm⟩)
      · exact absurd h nofun

theorem Crew.Placed.settleN (h : x.Placed) (n : Nat) : (x.settleN n).Placed := by
  induction n generalizing x with
  | zero => exact h
  | succ n ih =>
    unfold Crew.settleN
    split
    next y hy =>
      refine ih ?_
      rcases settleStep_cases hy with ⟨p, hrun, rfl⟩ | ⟨e, rfl⟩ | ⟨p, hp, hrun, rfl⟩
      · exact h.runToReconv hrun
      · exact h.mergeAt e
      · exact h.pendingToRun hrun hp 0
    · exact h

theorem Crew.Placed.settle (h : x.Placed) : x.settle.Placed := by
  obtain ⟨hlane, hapart, hyoung⟩ := h.settleN 128
  exact ⟨hlane, hapart, hyoung⟩

/-! ### Moving on, branching, ending (R102, R105, R162) -/

theorem Crew.Placed.mapRun (h : x.Placed) (f : Path → Path) (hmask : ∀ p, (f p).mask = p.mask) (hage : ∀ p, (f p).age = p.age) :
    Crew.Placed { x with run := x.run.map f } := by
  cases hrun : x.run with
  | none => rw [Option.map_none, ← hrun]; exact h
  | some p => exact h.setRun hrun (hmask p) (hage p)

theorem Crew.Placed.goto (h : x.Placed) (pc : Nat) : (x.goto pc).Placed := (h.mapRun (fun p => { p with pc, wait := none }) (fun _ => rfl) fun _ => rfl).settle

theorem Crew.Placed.backward (h : x.Placed) (lim pc : Nat) (wait : Option W32) : (x.backward lim pc wait).Placed := by
  unfold Crew.backward
  split
  · exact h
  next p hrun =>
    dsimp only
    split
    · refine Crew.Placed.settle ⟨fun l hl => ?_, h.apart_snoc rfl, fun q hq => ?_⟩
      · rw [← h.lane l hl]
        have hmask := countP_of_mask (p := p) (q := { p with pc, count := p.count + 1, wait, age := x.nextAge }) rfl l
        simp only [carriers, hrun, Option.toList_some, Option.toList_none, List.countP_nil, List.countP_append, hmask]
        omega
      · simp only [mem_paths, List.mem_append, List.mem_singleton] at hq
        have hyoung := fun hq => Nat.lt_succ_of_lt (h.young q (mem_paths.mpr hq))
        rcases hq with hq | (hq | rfl) | hq
        · exact absurd hq nofun
        · exact hyoung (.inr (.inl hq))
        · exact Nat.lt_succ_self _
        · exact hyoung (.inr (.inr hq))
    · exact (h.setRun (q := { p with pc, count := p.count + 1, wait }) hrun rfl rfl).settle

/-- Lanes of the running path. -/
def Crew.has (x : Crew) (lanes : W32) : Prop := ∃ p, x.run = some p ∧ ∀ l, lanes.getLsbD l = true → p.mask.getLsbD l = true

/-- A lane of a path that splits is on one of its two parts. -/
theorem countP_split {p q r : Path} {taken : W32} {l : Nat} (hin : taken.getLsbD l = true → p.mask.getLsbD l = true) (hl : l < 32)
    (hq : q.mask = p.mask &&& ~~~taken) (hr : r.mask = taken) : [p].countP (Path.on l) = [q].countP (Path.on l) + [r].countP (Path.on l) := by
  have hrest : Path.on l q = (Path.on l p && !Path.on l r) := by
    simp only [Path.on, hq, hr, BitVec.getLsbD_and, BitVec.getLsbD_not, decide_eq_true hl, Bool.true_and]
  have hpart : Path.on l r = true → Path.on l p = true := fun h => hin (hr ▸ h)
  simp only [List.countP_singleton, hrest]
  cases hlane : Path.on l r with
  | false => simp
  | true => simp [hpart hlane]

theorem Crew.Placed.diverge (h : x.Placed) {taken : W32} (htaken : x.has taken) (pc target reconv : Nat) : (x.diverge taken pc target reconv).Placed := by
  obtain ⟨p, hrun, hin⟩ := htaken
  unfold Crew.diverge
  rw [hrun]
  refine Crew.Placed.settle ⟨fun l hl => ?_, h.apart_snoc rfl, fun q hq => ?_⟩
  · rw [← h.lane l hl]
    have hsplit := countP_split (p := p) (q := { p with mask := p.mask &&& ~~~taken, pc, divs := x.nextDiv :: p.divs, count := 0, wait := none })
      (r := { mask := taken, pc := target, divs := x.nextDiv :: p.divs, age := x.nextAge }) (hin l) hl rfl rfl
    simp only [carriers, hrun, Option.toList_some, List.countP_append]
    omega
  · simp only [mem_paths, List.mem_append, List.mem_singleton, Option.some.injEq] at hq
    have hyoung := fun r hq => Nat.lt_succ_of_lt (h.young r (mem_paths.mpr hq))
    rcases hq with rfl | (hq | rfl) | hq
    · exact hyoung p (.inl hrun)
    · exact hyoung q (.inr (.inl hq))
    · exact Nat.lt_succ_self _
    · exact hyoung q (.inr (.inr hq))

/-- A path without lanes that have ended. -/
def Path.without (p : Path) (lanes : W32) : Path := { p with mask := p.mask &&& ~~~lanes }

/-- What is left of a path when lanes of it have ended: nothing where it has no other. -/
def Path.left (p : Path) (lanes : W32) : Option Path := if p.mask &&& ~~~lanes = 0#32 then none else some (p.without lanes)

theorem Crew.exit_eq {p : Path} (hrun : x.run = some p) (lanes : W32) :
    x.exit lanes = if x.exited ||| lanes = 0xFFFFFFFF#32 then
        { x with exited := x.exited ||| lanes, hold := .ended, run := none, pending := [], atReconv := [], atBarrier := [], divs := [] }
      else Crew.settle { x with exited := x.exited ||| lanes, run := p.left lanes } := by
  unfold Crew.exit
  rw [hrun]
  rfl

theorem countP_left (p : Path) (lanes : W32) (l : Nat) : (p.left lanes).toList.countP (Path.on l) = [p.without lanes].countP (Path.on l) := by
  unfold Path.left
  split
  next hnone =>
    have hoff : Path.on l (p.without lanes) = false := by rw [Path.on, Path.without, hnone, BitVec.getLsbD_zero]
    simp [hoff]
  · rfl

/-- Lanes of the running path end (R162). -/
theorem Crew.Placed.exit (h : x.Placed) {lanes : W32} (hlanes : x.has lanes) : (x.exit lanes).Placed := by
  obtain ⟨p, hrun, hin⟩ := hlanes
  rw [exit_eq hrun]
  split
  next hall =>
    refine ⟨fun l hl => ?_, List.Pairwise.nil, fun r hr => absurd hr List.not_mem_nil⟩
    have hgone : (0xFFFFFFFF#32).getLsbD l = true := by rw [show 0xFFFFFFFF#32 = BitVec.allOnes 32 from rfl, BitVec.getLsbD_allOnes, decide_eq_true hl]
    rw [hall, if_pos hgone]
    rfl
  next =>
    refine Crew.Placed.settle ⟨fun l hl => ?_, h.apart, fun r hr => ?_⟩
    · have hlane := h.lane l hl
      have hsplit := countP_split (p := p) (q := p.without lanes) (r := { mask := lanes, pc := p.pc }) (hin l) hl rfl rfl
      have hended : [({ mask := lanes, pc := p.pc } : Path)].countP (Path.on l) = if lanes.getLsbD l then 1 else 0 := List.countP_singleton
      simp only [carriers, hrun, Option.toList_some] at hlane
      simp only [carriers, countP_left, BitVec.getLsbD_or]
      cases hin : lanes.getLsbD l with
      | false => simp only [hin, Bool.false_eq_true, if_false, Bool.or_false] at hended ⊢; omega
      | true =>
        rw [Bool.or_true, if_pos rfl]
        simp only [hin, if_true] at hended
        split at hlane <;> omega
    · rcases mem_paths.mp hr with heq | hr
      · unfold Path.left at heq
        split at heq
        · exact absurd heq nofun
        · obtain rfl := Option.some.inj heq; exact h.young p (mem_paths.mpr (.inl hrun))
      · exact h.young r (mem_paths.mpr (.inr hr))

/-- A path that goes on past a barrier. -/
def Path.pastBarrier (p : Path) : Path := { p with pc := p.pc + 8, bar := none, count := 0 }

theorem Crew.resume_eq (x : Crew) : x.resume = Crew.settle { x with hold := .none, pending := x.pending ++ x.atBarrier.map Path.pastBarrier, atBarrier := [] } := rfl

/-- Every path that waited at a barrier goes on (R122). -/
theorem Crew.Placed.resume (h : x.Placed) : x.resume.Placed := by
  rw [resume_eq]
  refine Crew.Placed.settle ⟨fun l hl => ?_, ?_, fun q hq => ?_⟩
  · rw [← h.lane l hl]
    have hcount : (x.atBarrier.map Path.pastBarrier).countP (Path.on l) = x.atBarrier.countP (Path.on l) := List.countP_map
    simp only [carriers, List.countP_append, hcount, List.countP_nil]
    omega
  · have hapart := h.apart
    rw [List.pairwise_append] at hapart
    obtain ⟨hpending, hbarrier, hboth⟩ := hapart
    simp only [List.append_nil, List.pairwise_append, List.pairwise_map, List.forall_mem_map]
    exact ⟨hpending, hbarrier, hboth⟩
  · simp only [mem_paths, List.mem_append, List.mem_map, List.not_mem_nil, or_false] at hq
    rcases hq with hq | (hq | ⟨p, hp, rfl⟩) | hq
    · exact h.young q (mem_paths.mpr (.inl hq))
    · exact h.young q (mem_paths.mpr (.inr (.inl hq)))
    · exact h.young p (mem_paths.mpr (.inr (.inr (.inr hp))))
    · exact h.young q (mem_paths.mpr (.inr (.inr (.inl hq))))

end
end Sys2Proof.Machine
end

section
/-! What commands leave of the crews that are resident: updates of one crew, exceptions, issue; and that no control or branch
instruction loses or doubles a lane (R102, R103, R162). -/
namespace Sys2Proof.Machine
open Sys2Proof

/-! ### Crews in their slots -/

/-- One crew's update, as every crew sees it. -/
theorem mfind_crews_updCrew (s : State) (c k : Nat) (f : Crew → Crew) (d j : Nat) :
    mfind (clu (updCrew s c k f) d).crews j = if c = d ∧ k = j then (mfind (clu s d).crews j).map f else mfind (clu s d).crews j := by
  unfold updCrew
  split
  next x hx =>
    rw [clu_setClu]
    split
    next hc =>
      subst hc
      rw [mfind_mset]
      split
      next hk => subst hk; rw [if_pos ⟨rfl, rfl⟩, hx]; rfl
      next hk => rw [if_neg fun h => hk h.2]
    next hc => rw [if_neg fun h => hc h.1]
  next hx =>
    split
    next h => obtain ⟨rfl, rfl⟩ := h; rw [hx]; rfl
    · rfl

theorem crw_of_mfind {s : State} {c k : Nat} {x : Crew} (h : mfind (clu s c).crews k = some x) : crw s c k = x := by
  rw [crw, mget, h]; rfl

theorem crw_updCrew_self {s : State} {c k : Nat} (h : (mfind (clu s c).crews k).isSome = true) (f : Crew → Crew) :
    crw (updCrew s c k f) c k = f (crw s c k) := by
  obtain ⟨x, hx⟩ := Option.isSome_iff_exists.mp h
  rw [crw_of_mfind hx]
  exact crw_of_mfind (by rw [mfind_crews_updCrew, if_pos ⟨rfl, rfl⟩, hx]; rfl)

/-- Between two states no crew came, went or changed. -/
def KeepsCrews (s t : State) : Prop := ∀ c, (clu t c).crews = (clu s c).crews

namespace KeepsCrews
variable {s t u : State}

theorem refl (s : State) : KeepsCrews s s := fun _ => rfl
theorem trans (h : KeepsCrews s t) (g : KeepsCrews t u) : KeepsCrews s u := fun c => (g c).trans (h c)
theorem of_clusters (h : t.clusters = s.clusters) : KeepsCrews s t := fun c => by rw [clu, clu, h]
theorem of_store (h : storesOnly s t) : KeepsCrews s t := of_clusters (congrArg State.clusters h.bare :)

theorem setClu (s : State) (c : Nat) (x : Cluster) (h : x.crews = (clu s c).crews) : KeepsCrews s (setClu s c x) := fun d => by
  rw [clu_setClu]; split
  next hd => subst hd; exact h
  · rfl

theorem foldl {α : Type} {f : State → α → State} (h : ∀ s x, KeepsCrews s (f s x)) (l : List α) (s : State) : KeepsCrews s (l.foldl f s) := by
  induction l generalizing s with
  | nil => exact refl s
  | cons x l ih => exact (h s x).trans (ih _)

end KeepsCrews

/-! ### Exceptions (R168) -/

theorem writeExc_keepsCrews (s : State) (n key : Nat) (words : List Nat) : KeepsCrews s (writeExc s n key words) := by
  unfold writeExc
  refine (KeepsCrews.foldl (fun s e => ?_) _ s).trans (.of_clusters rfl)
  split
  · exact .of_store (storesOnly_post s _ _ _ _)
  · exact .refl s

theorem clu_forgetCrews (s : State) (c : Nat) (slots : List Nat) (n : Nat) (keep : Bool) (d : Nat) : clu (forgetCrews s c slots n keep) d = clu s d := rfl

theorem stopKernelOn_keepsCrews (s : State) (c n : Nat) : KeepsCrews s (stopKernelOn s c n) := fun d => by
  unfold stopKernelOn
  rw [clu_forgetCrews]
  refine KeepsCrews.setClu s c _ ?_ d
  rfl

theorem containKernel_keepsCrews (s : State) (n : Nat) : KeepsCrews s (containKernel s n) := by
  unfold containKernel
  dsimp only
  split
  · exact .refl s
  · exact (KeepsCrews.foldl (fun s c => stopKernelOn_keepsCrews s c n) _ s).trans (.of_clusters rfl)

/-- An exception takes its crew from its slot, or is not raised; every other crew stays as it is. -/
theorem mfind_crews_raise (s : State) (c k pc : Nat) (instr : W64) (e : Exc) (d j : Nat) :
    mfind (clu (raise s c k pc instr e) d).crews j = mfind (clu s d).crews j
      ∨ (c = d ∧ k = j ∧ mfind (clu (raise s c k pc instr e) d).crews j = none) := by
  unfold raise
  dsimp only
  split
  · exact .inl rfl
  next =>
    generalize (mget (clu s c).crews k { kernel := 0, index := 0 }).kernel = n
    have hkeep : KeepsCrews s (containKernel (excRecord s n c k pc instr e) n) := (writeExc_keepsCrews s n _ _).trans (containKernel_keepsCrews _ n)
    rw [clu_setClu]
    split
    next hd =>
      subst hd
      rw [mfind_mdel]
      split
      next hk => exact .inr ⟨rfl, hk, rfl⟩
      next => exact .inl (by rw [hkeep c])
    next => exact .inl (by rw [hkeep d])

/-! ### Issue (R128 to R130, R169) -/

theorem guardLanes_sub (w : Nat) (active g : W32) {l : Nat} (h : (guardLanes w active g).getLsbD l = true) : active.getLsbD l = true := by
  unfold guardLanes at h
  split at h
  · exact h
  · rw [BitVec.getLsbD_and, Bool.and_eq_true] at h; exact h.1
  · rw [BitVec.getLsbD_and, Bool.and_eq_true] at h; exact h.1

/-- The instruction at a crew's running path: its lanes are of that path. -/
structure Ins.Runs (i : Ins) (s : State) (c k : Nat) : Prop where
  cluster : i.c = c
  slot : i.slot = k
  run : ∃ p, (crw s c k).run = some p ∧ i.pc = p.pc ∧ i.active = p.mask
  lanes : ∀ l, i.lanes.getLsbD l = true → i.active.getLsbD l = true

theorem Ins.Runs.has {i : Ins} {s : State} {c k : Nat} (h : i.Runs s c k) : (crw s c k).has i.lanes := by
  obtain ⟨p, hrun, -, hactive⟩ := h.run
  exact ⟨p, hrun, fun l hl => hactive ▸ h.lanes l hl⟩

theorem run_isSome_of_mayIssue {s : State} {c k : Nat} (h : mayIssue s c k = true) : (crw s c k).run.isSome = true := by
  unfold mayIssue at h
  split at h
  · exact absurd h nofun
  next x hx =>
    rw [crw_of_mfind hx]
    simp only [Bool.and_eq_true] at h
    exact h.1.2

theorem run_isSome_of_mayRaise {s : State} {c k : Nat} (h : mayRaise s c k = true) : (crw s c k).run.isSome = true := by
  unfold mayRaise at h
  split at h
  · exact absurd h nofun
  next x hx =>
    rw [crw_of_mfind hx]
    simp only [Bool.and_eq_true] at h
    exact h.2

theorem runs_of_readIns {s : State} {c k : Nat} {mine : Nat → Nat → Bool} {uniform : Bool} {codes : Crew → Ins → List Nat} {more : Ins → List Exc}
    {i : Ins} {all : List Exc} (h : readIns s c k mine uniform codes more = some (i, all)) {p : Path} (hrun : (crw s c k).run = some p) :
    i.Runs s c k := by
  unfold readIns at h
  simp only [hrun, Option.getD_some] at h
  split at h
  · exact absurd h nofun
  split at h
  · obtain ⟨rfl, -⟩ := Prod.mk.inj (Option.some.inj h)
    exact ⟨rfl, rfl, ⟨p, hrun, rfl, rfl⟩, fun _ h => h⟩
  split at h
  · exact absurd h nofun
  · obtain ⟨rfl, -⟩ := Prod.mk.inj (Option.some.inj h)
    exact ⟨rfl, rfl, ⟨p, hrun, rfl, rfl⟩, fun _ h => guardLanes_sub _ _ _ h⟩

/-- What issuing an instruction does: nothing, an exception, a step past it, or its body. -/
theorem issue_cases (s : State) (c k : Nat) (mine : Nat → Nat → Bool) (uniform : Bool) (codes : Crew → Ins → List Nat) (body : State → Ins → State)
    (more : Ins → List Exc) :
    issue s c k mine uniform codes body more = s
      ∨ ∃ i, i.Runs s c k ∧ ((∃ e, issue s c k mine uniform codes body more = raiseIns s i e) ∨ issue s c k mine uniform codes body more = step1 s i
        ∨ issue s c k mine uniform codes body more = body s i) := by
  unfold issue
  split
  · exact .inl rfl
  next hmay =>
    have hsome : (crw s c k).run.isSome = true := by
      by_cases h : mayIssue s c k = true
      · exact run_isSome_of_mayIssue h
      · exact run_isSome_of_mayRaise (Bool.not_eq_false _ ▸ fun h' => hmay ⟨Bool.not_eq_true _ ▸ h, h'⟩)
    obtain ⟨p, hrun⟩ := Option.isSome_iff_exists.mp hsome
    split
    · exact .inl rfl
    next i all hread =>
      have hi := runs_of_readIns hread hrun
      split
      next e _ => exact .inr ⟨i, hi, .inl ⟨e, rfl⟩⟩
      next =>
        split
        · exact .inl rfl
        split
        · exact .inl rfl
        split
        · exact .inr ⟨i, hi, .inr (.inl rfl)⟩
        · exact .inr ⟨i, hi, .inr (.inr rfl)⟩

/-! ### Lanes of the crew in a slot -/

/-- The lanes of the crew in slot `k` of cluster `c`, where one is there, are placed. -/
def PlacedAt (c k : Nat) (s : State) : Prop := ∀ x, mfind (clu s c).crews k = some x → x.Placed

section
variable {s : State} {c k : Nat}

theorem PlacedAt.placed (h : PlacedAt c k s) (hthere : (mfind (clu s c).crews k).isSome = true) : (crw s c k).Placed := by
  obtain ⟨x, hx⟩ := Option.isSome_iff_exists.mp hthere
  exact crw_of_mfind hx ▸ h x hx

theorem placedAt_of_crw (h : (crw s c k).Placed) : PlacedAt c k s := fun _ hx => crw_of_mfind hx ▸ h

theorem PlacedAt.keep {t : State} (h : PlacedAt c k s) (hkeep : KeepsCrews s t) : PlacedAt c k t := fun x hx => h x (hkeep c ▸ hx)

/-- An update of any crew that keeps lanes placed. -/
theorem PlacedAt.updCrew (h : PlacedAt c k s) {d j : Nat} {f : Crew → Crew} (hf : (crw s d j).Placed → (f (crw s d j)).Placed) :
    PlacedAt c k (updCrew s d j f) := by
  intro y hy
  rw [mfind_crews_updCrew] at hy
  split at hy
  next hdj =>
    obtain ⟨rfl, rfl⟩ := hdj
    obtain ⟨x, hx, rfl⟩ := Option.map_eq_some_iff.mp hy
    rw [crw_of_mfind hx] at hf
    exact hf (h x hx)
  next => exact h y hy

theorem PlacedAt.raise (h : PlacedAt c k s) (d j pc : Nat) (instr : W64) (e : Exc) : PlacedAt c k (raise s d j pc instr e) := by
  intro y hy
  rcases mfind_crews_raise s d j pc instr e c k with heq | ⟨-, -, hnone⟩
  · exact h y (heq ▸ hy)
  · rw [hnone] at hy; exact absurd hy nofun

theorem PlacedAt.step1 (h : PlacedAt c k s) (i : Ins) : PlacedAt c k (step1 s i) := h.updCrew fun hx => hx.goto _

/-- Issue keeps lanes placed where the body does. -/
theorem PlacedAt.issue (h : PlacedAt c k s) {mine : Nat → Nat → Bool} {uniform : Bool} {codes : Crew → Ins → List Nat} {body : State → Ins → State}
    {more : Ins → List Exc} (hbody : ∀ i : Ins, i.Runs s c k → PlacedAt c k (body s i)) : PlacedAt c k (issue s c k mine uniform codes body more) := by
  rcases issue_cases s c k mine uniform codes body more with heq | ⟨i, hi, ⟨e, heq⟩ | heq | heq⟩
  · rw [heq]; exact h
  · rw [heq]; exact h.raise _ _ _ _ _
  · rw [heq]; exact h.step1 i
  · rw [heq]; exact hbody i hi

theorem PlacedAt.takeBranch (h : PlacedAt c k s) (i : Ins) (pc : Nat) (back : Bool) : PlacedAt c k (takeBranch s i pc back) :=
  h.updCrew fun hx => by
    split
    · exact hx.backward _ _ _
    · exact hx.goto _

/-! ### Barriers that a crew's last lanes wait at (R122, R123) -/

theorem acquire_keepsCrews (s : State) (c scope : Nat) : KeepsCrews s (acquire s c scope) := by
  unfold acquire
  split
  · exact .refl s
  · exact .setClu s c _ rfl

theorem PlacedAt.openBarrier (h : PlacedAt c k s) (d b : Nat) : PlacedAt c k (openBarrier s d b) := by
  have hfold : ∀ (held : List Nat) (u : State), PlacedAt c k u → PlacedAt c k (held.foldl (fun s k => acquire (Machine.updCrew s d k Crew.resume) d 1) u) := by
    intro held
    induction held with
    | nil => exact fun u hu => hu
    | cons j held ih => exact fun u hu => ih _ ((hu.updCrew fun hx => hx.resume).keep (acquire_keepsCrews _ _ _))
  exact hfold _ _ (h.keep (.setClu s d _ rfl))

/-- What a crew's `MSTAT` records leaves its lanes where they are. -/
theorem Crew.Placed.record {x : Crew} (h : x.Placed) (l st : Nat) : (x.record l st).Placed := ⟨h.lane, h.apart, h.young⟩

theorem Crew.Placed.records {x : Crew} (h : x.Placed) (lanes : List Nat) (st : Nat) : (lanes.foldl (fun x l => x.record l st) x).Placed := by
  induction lanes generalizing x with
  | nil => exact h
  | cons l lanes ih => exact ih (h.record l st)

/-- A crew held at a barrier, or, where it arrives without waiting, going on. -/
def Crew.arrived (sync : Bool) (b : Nat) (x : Crew) : Crew := if sync then { x with hold := .barrier b } else x.resume

/-- What an arrival does: it is held back and recorded, raises, or is counted, and completes the phase or not. -/
theorem arriveBarrier_cases (s : State) (d j b n : Nat) (sync : Bool) (pc : Nat) (instr : W64) :
    (∃ st, arriveBarrier s d j b n sync pc instr = updCrew s d j fun x => ((lanesOf x.live).foldl (fun x l => x.record l st) x).resume)
      ∨ (∃ e, arriveBarrier s d j b n sync pc instr = raise s d j pc instr e)
      ∨ ∃ br, let u := updCrew (setClu s d { clu s d with barriers := mset (clu s d).barriers b br }) d j (Crew.arrived sync b)
        arriveBarrier s d j b n sync pc instr = openBarrier u d b ∨ arriveBarrier s d j b n sync pc instr = u := by
  unfold arriveBarrier
  dsimp only
  split
  next st _ => exact .inl ⟨st, rfl⟩
  next =>
    split
    · exact .inr (.inl ⟨_, rfl⟩)
    · exact .inr (.inr ⟨_, ite_eq_or_eq _ _ _⟩)

theorem Crew.Placed.arrived {x : Crew} (h : x.Placed) (sync : Bool) (b : Nat) : (x.arrived sync b).Placed := by
  unfold Crew.arrived
  split
  · exact ⟨h.lane, h.apart, h.young⟩
  · exact h.resume

theorem PlacedAt.arriveBarrier (h : PlacedAt c k s) (d j b n : Nat) (sync : Bool) (pc : Nat) (instr : W64) :
    PlacedAt c k (arriveBarrier s d j b n sync pc instr) := by
  rcases arriveBarrier_cases s d j b n sync pc instr with ⟨st, heq⟩ | ⟨e, heq⟩ | ⟨br, hcounted⟩
  · rw [heq]; exact h.updCrew fun hx => (hx.records _ _).resume
  · rw [heq]; exact h.raise _ _ _ _ _
  · have hkeep : KeepsCrews s (setClu s d { clu s d with barriers := mset (clu s d).barriers b br }) := .setClu s d _ rfl
    have hu := (h.keep hkeep).updCrew (d := d) (j := j) fun hx => hx.arrived sync b
    rcases hcounted with heq | heq
    · rw [heq]; exact hu.openBarrier d b
    · rw [heq]; exact hu

theorem PlacedAt.checkBarrier (h : PlacedAt c k s) (d j : Nat) : PlacedAt c k (checkBarrier s d j) := by
  unfold Machine.checkBarrier
  split
  · exact h
  · split
    · dsimp only
      split
      · exact h.arriveBarrier _ _ _ _ _ _ _
      · exact h
    · exact h

/-! ### The instructions -/

theorem PlacedAt.exitBody (h : PlacedAt c k s) {i : Ins} (hi : i.Runs s c k) :
    PlacedAt c k (if !(crw s c k).atBarrier.isEmpty && unsent s c k then s else
      Machine.checkBarrier (Machine.updCrew s c k fun x =>
        let x := { x with run := x.run.map fun (p : Path) => { p with pc := i.pc + 8 } }
        if i.lanes = 0#32 then x.settle else x.exit i.lanes) c k) := by
  split
  · exact h
  · refine PlacedAt.checkBarrier (h.updCrew fun hx => ?_) c k
    have hmoved := hx.mapRun (fun p => { p with pc := i.pc + 8 }) (fun _ => rfl) fun _ => rfl
    dsimp only
    split
    · exact hmoved.settle
    · obtain ⟨p, hrun, hin⟩ := hi.has
      exact hmoved.exit ⟨{ p with pc := i.pc + 8 }, by rw [hrun]; rfl, hin⟩

theorem PlacedAt.braBody (h : PlacedAt c k s) {i : Ins} (hi : i.Runs s c k) :
    PlacedAt c k (if i.lanes = 0#32 then Machine.step1 s i
      else if i.lanes = i.active then Machine.takeBranch s i (branchTo i.pc (fld i.w 44 27)) (decide (sext 18 (fld i.w 44 27) ≤ 0))
      else Machine.updCrew s c k fun x => x.diverge i.lanes (i.pc + 8) (branchTo i.pc (fld i.w 44 27)) (branchTo i.pc (fld i.w 26 9))) := by
  split
  · exact h.step1 i
  · split
    · exact h.takeBranch i _ _
    · exact h.updCrew fun hx => hx.diverge hi.has _ _ _

theorem PlacedAt.linkBranch (h : PlacedAt c k s) (i : Ins) : PlacedAt c k (linkBranch s i) := h.takeBranch i _ _

end

/-- No instruction of the control and branch class loses or doubles a lane. -/
theorem PlacedAt.exec_control {s : State} {c k : Nat} {i : Instr}
    (hi : i ∈ [.nopI c k, .trap c k, .cmode c k, .mstatClr c k, .illegalInstr c k, .exitI c k, .bra c k, .brx c k, .callI c k, .retI c k])
    (h : PlacedAt c k s) : ∃ t, Machine.exec i s = .next t ∧ PlacedAt c k t := by
  simp only [List.mem_cons, List.not_mem_nil, or_false] at hi
  rcases hi with rfl | rfl | rfl | rfl | rfl | rfl | rfl | rfl | rfl | rfl
  · exact ⟨_, rfl, h.issue fun i _ => h.step1 i⟩
  · exact ⟨_, rfl, h.issue fun i _ => h.raise _ _ _ _ _⟩
  · refine ⟨_, rfl, h.issue fun i _ => PlacedAt.step1 (h.updCrew ?_) i⟩
    exact fun hx => ⟨hx.lane, hx.apart, hx.young⟩
  · refine ⟨_, rfl, h.issue fun i _ => PlacedAt.step1 (h.updCrew ?_) i⟩
    exact fun hx => ⟨hx.lane, hx.apart, hx.young⟩
  · exact ⟨_, rfl, h.issue fun i _ => h.step1 i⟩
  · exact ⟨_, rfl, h.issue fun i hi => h.exitBody hi⟩
  · exact ⟨_, rfl, h.issue fun i hi => h.braBody hi⟩
  · exact ⟨_, rfl, h.issue fun i _ => h.linkBranch i⟩
  · refine ⟨_, rfl, h.issue fun i _ => PlacedAt.takeBranch (h.updCrew ?_) i _ _⟩
    exact fun hx => ⟨hx.lane, hx.apart, hx.young⟩
  · exact ⟨_, rfl, h.issue fun i _ => h.linkBranch i⟩

/-! ### Admission (R96) -/

theorem clu_setKrn (s : State) (n : Nat) (x : Kernel) (c : Nat) : clu (setKrn s n x) c = clu s c := rfl

/-- A crew that starts runs one path of all its lanes. -/
theorem Crew.placed_start {x : Crew} (hrun : ∃ pc, x.run = some { mask := 0xFFFFFFFF#32, pc }) (hpending : x.pending = []) (hreconv : x.atReconv = [])
    (hbarrier : x.atBarrier = []) (hexited : x.exited = 0#32) (hage : x.nextAge = 1) : x.Placed := by
  obtain ⟨pc, hrun⟩ := hrun
  refine ⟨fun l hl => ?_, by rw [hpending, hbarrier]; exact List.Pairwise.nil, fun p hp => ?_⟩
  · have hall : Path.on l { mask := 0xFFFFFFFF#32, pc } = true := by
      rw [Path.on, show 0xFFFFFFFF#32 = BitVec.allOnes 32 from rfl, BitVec.getLsbD_allOnes, decide_eq_true hl]
    simp [Crew.carriers, hrun, hpending, hreconv, hbarrier, hexited, hall]
  · rw [mem_paths, hrun, hpending, hreconv, hbarrier] at hp
    rcases hp with hp | hp | hp | hp
    · obtain rfl := Option.some.inj hp; rw [hage]; exact Nat.one_pos
    all_goals exact absurd hp List.not_mem_nil

theorem placedAt_crewAdmit {s t : State} {n c i slot : Nat} (hexec : Machine.exec (.crewAdmit n c i) s = .next t) (hfree : mfind (clu s c).crews slot = none) :
    PlacedAt c slot t := by
  have hnone : PlacedAt c slot s := fun x hx => absurd (hfree.symm.trans hx) nofun
  obtain rfl := Host.Outcome.next.inj hexec
  unfold admitCrew
  dsimp only
  split
  · split
    · exact hnone
    · intro x hx
      rw [clu_setKrn, clu_setClu_self, mfind_mset] at hx
      split at hx
      · obtain rfl := Option.some.inj hx
        exact Crew.placed_start ⟨_, rfl⟩ rfl rfl rfl rfl rfl
      · exact hnone x hx
  · exact hnone

/-- Settles O58: each move of a crew's paths, and of settling them, hands every lane from one path to one path, or ends it; an
exception takes the crew as a whole. -/
theorem lanesStayPlaced : Obligations.LanesStayPlaced := by
  unfold Obligations.LanesStayPlaced
  constructor
  · intro s t c k i hi hplaced hexec hthere
    rw [lanesPlaced_iff] at hplaced ⊢
    obtain ⟨u, hu, hkept⟩ := (placedAt_of_crw hplaced).exec_control hi
    obtain rfl := Host.Outcome.next.inj (hu.symm.trans hexec)
    exact hkept.placed hthere
  · intro s t n c i slot hexec hfree hthere
    exact (lanesPlaced_iff _).mpr ((placedAt_crewAdmit hexec hfree).placed hthere)

end Sys2Proof.Machine
end

section
/-! What an instruction leaves of a crew: its registers, the value an operand has in a lane, and the one path of a crew that runs whole. -/
namespace Sys2Proof.Machine
open Sys2Proof

/-! ### Moving a path (R102, R105) -/

/-- Everything of a crew that its paths are not. -/
def Crew.still (x : Crew) : Crew := { x with run := none, pending := [], atReconv := [], divs := [], nextAge := 0 }

theorem Crew.still_mergeAt (x : Crew) (e : Div) : (x.mergeAt e).still = x.still := by
  unfold Crew.mergeAt
  dsimp only
  split
  · rfl
  · split <;> rfl

theorem Crew.still_settleStep {x y : Crew} (h : x.settleStep = some y) : y.still = x.still := by
  unfold Crew.settleStep at h
  split at h
  · split at h
    · obtain rfl := Option.some.inj h; rfl
    · split at h
      · obtain rfl := Option.some.inj h; exact x.still_mergeAt _
      · exact absurd h nofun
  · split at h
    · obtain rfl := Option.some.inj h; exact x.still_mergeAt _
    · split at h
      · obtain rfl := Option.some.inj h; rfl
      · exact absurd h nofun

theorem Crew.still_settleN (n : Nat) (x : Crew) : (x.settleN n).still = x.still := by
  induction n generalizing x with
  | zero => rfl
  | succ n ih =>
    rw [Crew.settleN]
    split
    next y hy => rw [ih, Crew.still_settleStep hy]
    · rfl

/-- Settling moves paths and nothing else. -/
theorem Crew.still_settle (x : Crew) : x.settle.still = x.still := x.still_settleN 128

theorem Crew.still_goto (x : Crew) (pc : Nat) : (x.goto pc).still = x.still := Crew.still_settle _

/-- A crew that runs as one path, in no divergence, is settled. -/
theorem Crew.settle_of_undiverged {x : Crew} {p : Path} (hrun : x.run = some p) (hp : p.divs = []) (hx : x.divs = []) : x.settle = x := by
  have hat : x.atPoint p = false := by unfold Crew.atPoint; rw [hp]
  have hstep : x.settleStep = none := by
    unfold Crew.settleStep
    rw [hrun]
    simp [hat, hx]
  have hN : x.settleN 128 = x := by rw [Crew.settleN, hstep]
  unfold Crew.settle
  rw [hN]
  dsimp only
  rw [List.filter_eq_self.mpr (by simp [hx])]

/-- Moving on, a crew that runs as one path changes the address of that path alone. -/
theorem Crew.goto_of_undiverged {x : Crew} {p : Path} (hrun : x.run = some p) (hp : p.divs = []) (hx : x.divs = []) (pc : Nat) :
    x.goto pc = { x with run := some { p with pc, wait := none } } := by
  unfold Crew.goto
  rw [hrun, Option.map_some]
  exact Crew.settle_of_undiverged (p := { p with pc, wait := none }) rfl hp hx

/-- A taken backward branch of a crew without pending paths. -/
theorem Crew.backward_of_undiverged {x : Crew} {p : Path} (hrun : x.run = some p) (hp : p.divs = []) (hx : x.divs = []) (hpending : x.pending = [])
    (lim pc : Nat) (wait : Option W32) :
    x.backward lim pc wait = { x with run := some { p with pc, count := p.count + 1, wait } } := by
  unfold Crew.backward
  rw [hrun]
  dsimp only
  rw [if_neg fun h => h.2 hpending]
  exact Crew.settle_of_undiverged (p := { p with pc, count := p.count + 1, wait }) rfl hp hx

/-! ### Registers and operands (R131 to R133, R167) -/

/-- The registers of two crews hold the same, and so does `MSTAT`. -/
structure Crew.SameRegs (x y : Crew) : Prop where
  v : y.v = x.v
  vPoison : y.vPoison = x.vPoison
  s : y.s = x.s
  sPoison : y.sPoison = x.sPoison
  p : y.p = x.p
  pPoison : y.pPoison = x.pPoison
  mstat : y.mstat = x.mstat

namespace Crew.SameRegs
variable {x y z : Crew}

theorem refl (x : Crew) : x.SameRegs x := ⟨rfl, rfl, rfl, rfl, rfl, rfl, rfl⟩

theorem trans (h : x.SameRegs y) (g : y.SameRegs z) : x.SameRegs z :=
  ⟨g.v.trans h.v, g.vPoison.trans h.vPoison, g.s.trans h.s, g.sPoison.trans h.sPoison, g.p.trans h.p, g.pPoison.trans h.pPoison, g.mstat.trans h.mstat⟩

theorem of_still (h : y.still = x.still) : x.SameRegs y :=
  ⟨(congrArg Crew.v h :), (congrArg Crew.vPoison h :), (congrArg Crew.s h :), (congrArg Crew.sPoison h :), (congrArg Crew.p h :),
    (congrArg Crew.pPoison h :), (congrArg Crew.mstat h :)⟩

theorem vLane (h : x.SameRegs y) (r l : Nat) : y.vLane r l = x.vLane r l := by unfold Crew.vLane; rw [h.v]

/-- All registers are then kept, whichever a statement names. -/
theorem keepsRegs (h : x.SameRegs y) (v n sc pr : Nat) : Safety.keepsRegs x y v n sc pr :=
  ⟨fun r l _ _ => ⟨h.vLane r l, by rw [h.vPoison]⟩, fun r _ => by rw [h.s, h.sPoison]; exact ⟨rfl, rfl⟩,
    fun p _ => by rw [h.p, h.pPoison]; exact ⟨rfl, rfl⟩⟩

end Crew.SameRegs

/-- An operand has the same value where the crew's registers, the Pace time and the dies' cycles are the same. -/
theorem srcLane_congr {s t : State} {i : Ins} (h : (crw s i.c i.slot).SameRegs (crw t i.c i.slot)) (hpace : t.pace = s.pace)
    (hcycles : t.cycles = s.cycles) (wd code l : Nat) : srcLane t i wd code l = srcLane s i wd code l := by
  unfold srcLane paceAt
  simp only [h.vLane, h.vPoison, h.s, h.sPoison, h.p, h.pPoison, h.mstat, hpace, hcycles]

theorem foldl_add_lt (f : Nat → Nat) (hf : ∀ j, f j < 2 ^ 32) (n : Nat) : (List.range n).foldl (fun v j => v + f j * 2 ^ (32 * j)) 0 < 2 ^ (32 * n) := by
  induction n with
  | zero => simp
  | succ n ih =>
    rw [List.range_succ, List.foldl_append, List.foldl_cons, List.foldl_nil, Nat.mul_succ, Nat.pow_add]
    have := hf n
    nlinarith

/-- The value of an operand fits its width; a predicate's is one bit. -/
theorem srcLane_lt (s : State) (i : Ins) {wd : Nat} (hwd : 1 ≤ wd) (code l : Nat) : (srcLane s i wd code l).1 < 2 ^ wd := by
  have hpos : 0 < 2 ^ wd := Nat.two_pow_pos wd
  unfold srcLane
  split
  case h_3 =>
    have h2 : 2 ^ 1 ≤ 2 ^ wd := Nat.pow_le_pow_right (by omega) hwd
    have hbit : ∀ b : Bool, b2n b ≤ 1 := by decide
    have := hbit ((mget (crw s i.c i.slot).p (code - 320) 0#32).getLsbD l)
    dsimp only
    omega
  case h_5 =>
    have hwrap : ∀ v : Int, wrap wd v < 2 ^ wd := fun v => by
      unfold wrap
      have h0 : (0 : Int) < 2 ^ wd := by positivity
      have := Int.emod_lt_of_pos v h0
      have := Int.emod_nonneg v h0.ne'
      zify
      omega
    exact hwrap _
  case h_6 => exact hpos
  all_goals exact Nat.mod_lt _ hpos

end Sys2Proof.Machine
end

section
/-! What values put into the lanes of a vector register, or of a pair, leave of a crew's registers (R131, R132, R166, R167). -/
namespace Sys2Proof.Machine
open Sys2Proof

/-! ### One lane -/

/-- Vector registers an operand of a width takes. -/
def regsFor (wd : Nat) : Nat := if wd ≤ 32 then 1 else wd / 32

theorem regsFor_eq_max (wd : Nat) : regsFor wd = max 1 (wd / 32) := by unfold regsFor; split <;> omega

/-- Between two crews only vector registers differ. -/
def Crew.onlyVec (x y : Crew) : Prop := y = { x with v := y.v, vPoison := y.vPoison }

theorem Crew.onlyVec.trans {x y z : Crew} (h : x.onlyVec y) (g : y.onlyVec z) : x.onlyVec z := by
  unfold Crew.onlyVec at h g ⊢
  rw [g, h]

theorem Crew.onlyVec_foldl {α : Type} {f : Crew → α → Crew} (l : List α) (h : ∀ (x : Crew), ∀ a ∈ l, x.onlyVec (f x a)) (x : Crew) :
    x.onlyVec (l.foldl f x) := by
  induction l generalizing x with
  | nil => exact rfl
  | cons a l ih => exact (h x a List.mem_cons_self).trans (ih (fun x b hb => h x b (List.mem_cons_of_mem a hb)) _)

theorem Crew.onlyVec_setVec (x : Crew) (wd r l v : Nat) (pz : Bool) : x.onlyVec (x.setVec wd r l v pz) := by
  unfold Crew.setVec
  refine Crew.onlyVec_foldl _ (fun y j _ => ?_) x
  rfl

/-- What stands in a lane of a vector register after a write of one lane: there, the digits of the value. -/
theorem Crew.mget_setVec (x : Crew) (wd r : Nat) {l : Nat} (hl : l < 32) (v : Nat) (pz : Bool) (q : Nat) {m : Nat} (hm : m < 32) :
    (x.setVec wd r l v pz).vLane q m = (if m = l ∧ r ≤ q ∧ q < r + regsFor wd then v / 2 ^ (32 * (q - r)) % 2 ^ 32 else x.vLane q m)
      ∧ mget (x.setVec wd r l v pz).vPoison (32 * q + m) false
        = if m = l ∧ r ≤ q ∧ q < r + regsFor wd then pz else mget x.vPoison (32 * q + m) false := by
  unfold Crew.setVec
  change Crew.vLane ((List.range (regsFor wd)).foldl _ x) q m = _ ∧ mget ((List.range (regsFor wd)).foldl _ x).vPoison _ _ = _
  induction regsFor wd with
  | zero => rw [if_neg (by omega), if_neg (by omega)]; exact ⟨rfl, rfl⟩
  | succ n ih =>
    rw [List.range_succ, List.foldl_append, List.foldl_cons, List.foldl_nil]
    obtain ⟨hv, hpz⟩ := ih
    unfold Crew.vLane at hv ⊢
    dsimp only
    rw [mget_mset, mget_mset]
    by_cases hkey : 32 * (r + n) + l = 32 * q + m
    · obtain ⟨rfl, rfl⟩ : q = r + n ∧ m = l := by omega
      rw [if_pos rfl, if_pos rfl, if_pos ⟨rfl, by omega, by omega⟩, if_pos ⟨rfl, by omega, by omega⟩, Nat.add_sub_cancel_left, BitVec.toNat_ofNat]
      exact ⟨rfl, rfl⟩
    · have hiff : (m = l ∧ r ≤ q ∧ q < r + (n + 1)) ↔ (m = l ∧ r ≤ q ∧ q < r + n) := by omega
      rw [if_neg hkey, if_neg hkey, hv, hpz]
      simp only [hiff, and_self]

/-- The digits of a value, added up. -/
theorem foldl_digits (v n : Nat) : (List.range n).foldl (fun u j => u + v / 2 ^ (32 * j) % 2 ^ 32 * 2 ^ (32 * j)) 0 = v % 2 ^ (32 * n) := by
  induction n with
  | zero => simp [Nat.mod_one]
  | succ n ih =>
    rw [List.range_succ, List.foldl_append, List.foldl_cons, List.foldl_nil, ih, Nat.mul_succ, Nat.pow_add, Nat.mod_mul, Nat.mul_comm (2 ^ (32 * n))]

/-! ### The lanes of an instruction -/

/-- Completed accesses put into a destination (R166): what `putLanes` does to its crew. -/
def Crew.putDone (wd code : Nat) (x : Crew) (d : LaneDone) : Crew :=
  if isFault d.st then x.put wd code d.lane 0 false else x.put wd code d.lane d.val d.pz

theorem putLanes_eq (s : State) (i : Ins) (ds : List LaneDone) :
    putLanes s i ds = updCrew s i.c i.slot fun x => ds.foldl (Crew.putDone (dataWidth (i.o 0) i.size) (i.o 0)) x := rfl

/-- Accesses that were applied and give lane `l` the value `val l`. -/
def Gives (val : Nat → Nat) (ds : List LaneDone) : Prop := ∀ d ∈ ds, d.st = 0 ∧ d.pz = false ∧ d.lane < 32 ∧ d.val = val d.lane

section
variable {code : Nat} (hcode : opKind code = .vec) (wd : Nat) {val : Nat → Nat}
include hcode

theorem Crew.putDone_of_applied (x : Crew) {d : LaneDone} (hst : d.st = 0) : x.putDone wd code d = x.setVec wd code d.lane d.val d.pz := by
  unfold Crew.putDone Crew.put
  rw [hst, hcode]
  rfl

theorem Crew.onlyVec_putDone {ds : List LaneDone} (h : Gives val ds) (x : Crew) : x.onlyVec (ds.foldl (Crew.putDone wd code) x) :=
  Crew.onlyVec_foldl ds (fun y d hd => by rw [Crew.putDone_of_applied hcode wd y (h d hd).1]; exact y.onlyVec_setVec _ _ _ _ _) x

/-- What stands in a lane of a vector register after them. -/
theorem Crew.mget_foldl_putDone {ds : List LaneDone} (h : Gives val ds) (x : Crew) (q : Nat) {m : Nat} (hm : m < 32) :
    let y := ds.foldl (Crew.putDone wd code) x
    let there := m ∈ ds.map (·.lane) ∧ code ≤ q ∧ q < code + regsFor wd
    y.vLane q m = (if there then val m / 2 ^ (32 * (q - code)) % 2 ^ 32 else x.vLane q m)
      ∧ mget y.vPoison (32 * q + m) false = if there then false else mget x.vPoison (32 * q + m) false := by
  induction ds generalizing x with
  | nil => simp
  | cons d ds ih =>
    obtain ⟨hst, hpz, hlane, hval⟩ := h d List.mem_cons_self
    obtain ⟨hv, hp⟩ := ih (fun e he => h e (List.mem_cons_of_mem d he)) (x.putDone wd code d)
    have hone := Crew.mget_setVec x wd code hlane d.val d.pz q hm
    rw [← Crew.putDone_of_applied hcode wd x hst, hpz, hval] at hone
    simp only [List.foldl_cons, List.map_cons, List.mem_cons]
    rw [hv, hp, hone.1, hone.2]
    by_cases hin : code ≤ q ∧ q < code + regsFor wd
    · by_cases hmd : m = d.lane
      · subst hmd; simp [hin]
      · simp [hin, hmd]
    · have hno : ∀ P : Prop, ¬ (P ∧ code ≤ q ∧ q < code + regsFor wd) := fun P hP => hin hP.2
      simp only [hno, if_false, and_self]

/-- Only the destination changes. -/
theorem keepsOthers_putDone {ds : List LaneDone} (h : Gives val ds) {x z : Crew} (hz : (ds.foldl (Crew.putDone wd code) x).SameRegs z) :
    Safety.keepsOthers x z wd code := by
  have heq : x.onlyVec _ := Crew.onlyVec_putDone hcode wd h x
  have hget := fun q m => @Crew.mget_foldl_putDone code hcode wd val ds h x q m
  unfold Safety.keepsOthers
  rw [hcode]
  generalize ds.foldl (Crew.putDone wd code) x = y at heq hget hz
  dsimp only at hget ⊢
  refine ⟨fun r l hl hr => ?_, fun r _ => by rw [hz.s, hz.sPoison, heq]; exact ⟨rfl, rfl⟩, fun p _ => by rw [hz.p, hz.pPoison, heq]; exact ⟨rfl, rfl⟩⟩
  rw [← regsFor_eq_max] at hr
  obtain ⟨hv, hp⟩ := hget r l hl
  rw [if_neg (by omega)] at hv hp
  rw [hz.vLane, hz.vPoison]
  exact ⟨hv, hp⟩

end

/-! ### The destination read back -/

/-- A vector operand of 32 or 64 bits in one lane, by the crew's registers. -/
theorem srcLane_vec (s : State) (i : Ins) (wd : Nat) {code : Nat} (hcode : opKind code = .vec) (l : Nat) :
    srcLane s i wd code l =
      ((List.range (regsFor wd)).foldl (fun v j => v + (crw s i.c i.slot).vLane (code + j) l * 2 ^ (32 * j)) 0 % 2 ^ wd,
        (List.range (regsFor wd)).any fun j => mget (crw s i.c i.slot).vPoison (32 * (code + j) + l) false) := by
  unfold srcLane
  rw [hcode]
  rfl

section
variable {s t : State} {i : Ins} {wd code : Nat} {val : Nat → Nat} {ds : List LaneDone} (hcode : opKind code = .vec) (h : Gives val ds)
  (ht : (ds.foldl (Crew.putDone wd code) (crw s i.c i.slot)).SameRegs (crw t i.c i.slot))
include hcode h ht

/-- A lane that no access completed keeps the destination. -/
theorem srcLane_putDone_other {l : Nat} (hl : l < 32) (hlane : l ∉ ds.map (·.lane)) : srcLane t i wd code l = srcLane s i wd code l := by
  have hget := fun q => Crew.mget_foldl_putDone hcode wd h (crw s i.c i.slot) q hl
  simp only [hlane, false_and, if_false] at hget
  rw [srcLane_vec t i wd hcode, srcLane_vec s i wd hcode]
  simp only [ht.vLane, ht.vPoison, fun q => (hget q).1, fun q => (hget q).2]

/-- A lane that one completed for holds the value it gave. -/
theorem srcLane_putDone (hwd : wd = 32 ∨ wd = 64) {l : Nat} (hl : l < 32) (hlane : l ∈ ds.map (·.lane)) (hlt : val l < 2 ^ wd) :
    srcLane t i wd code l = (val l, false) := by
  have hget : ∀ j ∈ List.range (regsFor wd), _ := fun j hj =>
    Crew.mget_foldl_putDone hcode wd h (crw s i.c i.slot) (code + j) hl
  have hthere : ∀ j ∈ List.range (regsFor wd), l ∈ ds.map (·.lane) ∧ code ≤ code + j ∧ code + j < code + regsFor wd := fun j hj =>
    ⟨hlane, by omega, by have := List.mem_range.mp hj; omega⟩
  rw [srcLane_vec t i wd hcode]
  refine Prod.ext ?_ ?_
  · dsimp only
    rw [List.foldl_ext (fun v j => v + (crw t i.c i.slot).vLane (code + j) l * 2 ^ (32 * j))
      (fun v j => v + val l / 2 ^ (32 * j) % 2 ^ 32 * 2 ^ (32 * j)) 0 fun v j hj => by
        rw [ht.vLane, (hget j hj).1, if_pos (hthere j hj), Nat.add_sub_cancel_left]]
    have hsize : 32 * regsFor wd = wd := by rcases hwd with rfl | rfl <;> rfl
    rw [foldl_digits, hsize, Nat.mod_mod, Nat.mod_eq_of_lt hlt]
  · dsimp only
    rw [List.any_eq_false]
    intro j hj
    rw [ht.vPoison, (hget j hj).2, if_pos (hthere j hj)]
    exact Bool.false_ne_true

end

end Sys2Proof.Machine
end

section
/-! The operations of atomics and the conditions of `WAIT` (R118, R120, R146, R149), on values that fit their width. -/
namespace Sys2Proof.Machine
open Sys2Proof

/-- The signed value of a number that fits its width. -/
theorem sext_eq_toInt {n : Nat} (hn : 1 ≤ n) {v : Nat} (hv : v < 2 ^ n) : sext n v = (BitVec.ofNat n v).toInt := by
  have hhalf : 2 ^ n = 2 * 2 ^ (n - 1) := by rw [← Nat.pow_succ', Nat.succ_eq_add_one, Nat.sub_add_cancel hn]
  unfold sext
  rw [BitVec.toInt_eq_toNat_cond, BitVec.toNat_ofNat, Nat.mod_eq_of_lt hv]
  by_cases h : v < 2 ^ (n - 1)
  · rw [if_pos h, if_pos (by omega)]
  · rw [if_neg h, if_neg (by omega)]; push_cast; rfl

section
variable {n v x : Nat} (hn : 1 ≤ n) (hv : v < 2 ^ n) (hx : x < 2 ^ n)
include hn hv hx

theorem sext_lt_iff_slt : sext n x < sext n v ↔ (BitVec.ofNat n x).slt (BitVec.ofNat n v) = true := by
  rw [sext_eq_toInt hn hv, sext_eq_toInt hn hx, BitVec.slt_iff_toInt_lt]

theorem sext_le_iff_sle : sext n x ≤ sext n v ↔ (BitVec.ofNat n x).sle (BitVec.ofNat n v) = true := by
  rw [sext_eq_toInt hn hv, sext_eq_toInt hn hx, BitVec.sle_iff_toInt_le]

end

/-- A binary32 code that a conversion gives has 32 bits. -/
theorem f32_convert_lt (a : Num) : (f32.convert a).code < 2 ^ 32 := by
  have hsign : ∀ neg mag, mag < 2 ^ 31 → f32.sign neg mag < 2 ^ 32 := fun neg mag hmag => by
    have hneg : b2n neg ≤ 1 := by cases neg <;> decide
    have : f32.sign neg mag = b2n neg * 2 ^ 31 + mag := rfl
    omega
  cases a with
  | nan => decide
  | inf neg => exact hsign neg _ (by decide)
  | fin neg m e =>
    have hmax : f32.maxFin < 2 ^ 31 := by decide
    unfold Fmt.convert
    dsimp only
    split
    · exact hsign neg _ hmax
    next h => exact hsign neg _ (lt_of_le_of_lt (not_lt.mp h) hmax)

/-- The atomics: command, code of the operation, and the value the operation leaves of an old value at a width. -/
def atomOps : List ((Nat → Nat → List (Nat × Nat) → Instr) × Nat × (Nat → Nat → Nat → Nat → Nat)) := [
  ((.atomAdd · · ·), 0x4, fun n v x _ => (BitVec.ofNat n v + BitVec.ofNat n x).toNat),
  ((.atomMinS · · ·), 0x5, fun n v x _ => if (BitVec.ofNat n x).slt (BitVec.ofNat n v) then x else v),
  ((.atomMinU · · ·), 0x6, fun _ v x _ => min v x),
  ((.atomMaxS · · ·), 0x7, fun n v x _ => if (BitVec.ofNat n v).slt (BitVec.ofNat n x) then x else v),
  ((.atomMaxU · · ·), 0x8, fun _ v x _ => max v x),
  ((.atomAnd · · ·), 0x9, fun _ v x _ => v &&& x), ((.atomOr · · ·), 0xA, fun _ v x _ => v ||| x), ((.atomXor · · ·), 0xB, fun _ v x _ => v ^^^ x),
  ((.atomFadd · · ·), 0xC, fun _ v x _ => (f32.convert ((f32.decode v).add (f32.decode x))).code),
  ((.atomSwap · · ·), 0xD, fun _ _ x _ => x), ((.atomCas · · ·), 0xE, fun _ v x y => if v = x then y else v)]

/-- A command is the atomic with a code. -/
def IsAtom (op : (Nat → Nat → List (Nat × Nat) → Instr) × Nat × (Nat → Nat → Nat → Nat → Nat)) : Prop :=
  4 ≤ op.2.1 ∧ op.2.1 ≤ 0xE ∧ ∀ c k errs s, Machine.exec (op.1 c k errs) s = .next (memory op.2.1 (atomBody errs) c k s)

theorem isAtom_of_mem {op} (h : op ∈ atomOps) : IsAtom op := by
  unfold atomOps at h
  simp only [List.mem_cons, List.not_mem_nil, or_false] at h
  rcases h with rfl | rfl | rfl | rfl | rfl | rfl | rfl | rfl | rfl | rfl | rfl
  all_goals exact ⟨by decide, by decide, fun _ _ _ _ => rfl⟩

/-- The model's operation of an atomic is the one named, and its result fits the width. -/
theorem atomOp_of_mem {op} (h : op ∈ atomOps) {n v x y : Nat} (hn : 1 ≤ n) (hfadd : op.2.1 = 0xC → n = 32) (hv : v < 2 ^ n) (hx : x < 2 ^ n)
    (hy : y < 2 ^ n) : (atomOp op.2.1 n v x y).1 = op.2.2 n v x y ∧ op.2.2 n v x y < 2 ^ n := by
  have hite : ∀ (p : Prop) [Decidable p] {a b : Nat}, a < 2 ^ n → b < 2 ^ n → (if p then a else b) < 2 ^ n := fun p _ a b ha hb => by
    split <;> assumption
  unfold atomOps at h
  simp only [List.mem_cons, List.not_mem_nil, or_false] at h
  rcases h with rfl | rfl | rfl | rfl | rfl | rfl | rfl | rfl | rfl | rfl | rfl
  · exact ⟨by simp [atomOp, BitVec.toNat_add, BitVec.toNat_ofNat], BitVec.isLt _⟩
  case inr.inl => exact ⟨if_congr (sext_lt_iff_slt hn hv hx) rfl rfl, hite _ hx hv⟩
  case inr.inr.inl => exact ⟨rfl, lt_of_le_of_lt (min_le_left v x) hv⟩
  case inr.inr.inr.inl => exact ⟨if_congr (sext_lt_iff_slt hn hx hv) rfl rfl, hite _ hx hv⟩
  case inr.inr.inr.inr.inl => exact ⟨rfl, max_lt hv hx⟩
  case inr.inr.inr.inr.inr.inl => exact ⟨rfl, Nat.and_lt_two_pow v hx⟩
  case inr.inr.inr.inr.inr.inr.inl => exact ⟨rfl, Nat.or_lt_two_pow hv hx⟩
  case inr.inr.inr.inr.inr.inr.inr.inl => exact ⟨rfl, Nat.xor_lt_two_pow hv hx⟩
  case inr.inr.inr.inr.inr.inr.inr.inr.inl => obtain rfl := hfadd rfl; exact ⟨rfl, f32_convert_lt _⟩
  case inr.inr.inr.inr.inr.inr.inr.inr.inr.inl => exact ⟨rfl, hx⟩
  case inr.inr.inr.inr.inr.inr.inr.inr.inr.inr => exact ⟨rfl, hite _ hy hv⟩

/-- The table of conditions of `WAIT` is the model's condition. -/
theorem waitHolds_eq {cond n v o : Nat} (hcond : cond ≤ 7) (hn : 1 ≤ n) (hv : v < 2 ^ n) (ho : o < 2 ^ n) :
    [v == o, v != o, decide (o ≤ v), decide (v < o), decide ((BitVec.ofNat n o).sle (BitVec.ofNat n v)),
      decide ((BitVec.ofNat n v).slt (BitVec.ofNat n o)), v &&& o != 0, v &&& o == o].getD cond false = waitHolds cond n v o := by
  have hle : decide ((BitVec.ofNat n o).sle (BitVec.ofNat n v)) = decide (sext n o ≤ sext n v) := decide_eq_decide.mpr (sext_le_iff_sle hn hv ho).symm
  have hlt : decide ((BitVec.ofNat n v).slt (BitVec.ofNat n o)) = decide (sext n v < sext n o) := decide_eq_decide.mpr (sext_lt_iff_slt hn ho hv).symm
  rw [hle, hlt]
  interval_cases cond <;> rfl

end Sys2Proof.Machine
end

section
/-! What the accesses of a crew instruction to the module's memory leave of what crews see (R111, R117, R118, R380). -/
namespace Sys2Proof.Machine
open Sys2Proof

/-! ### What stays -/

/-- Between two states crews accessed memory that holds no poison: places, crews and clocks are as they were, a settled module
stays settled and memory canonical, no crew waits for more, and no line joined an L1 cache. -/
structure CrewSteps (s t : State) : Prop where
  memory : CopySteps s t
  poison : s.poison = [] → t.poison = []
  crews : KeepsCrews s t
  l1 : ∀ c, (clu t c).l1 ⊆ (clu s c).l1
  waits : ∀ c k dst, outstanding t c k dst = outstanding s c k dst
  pace : t.pace = s.pace
  cycles : t.cycles = s.cycles

/-- The fields of the state that `CrewSteps` speaks of. -/
def crewFields (s : State) := (copyFields s, s.poison, s.clusters, s.requests, s.headframes, s.pace, s.cycles)

theorem outstanding_congr {s t : State} (hreq : t.requests = s.requests) (hhf : t.headframes = s.headframes) (c k : Nat) (dst : Bool) :
    outstanding t c k dst = outstanding s c k dst := by
  unfold outstanding
  rw [hreq, hhf]

namespace CrewSteps
variable {s t u : State}

theorem refl (s : State) : CrewSteps s s := ⟨.refl s, id, .refl s, fun _ => List.Subset.refl _, fun _ _ _ => rfl, rfl, rfl⟩

theorem trans (h : CrewSteps s t) (g : CrewSteps t u) : CrewSteps s u :=
  ⟨h.memory.trans g.memory, g.poison ∘ h.poison, h.crews.trans g.crews, fun c => List.Subset.trans (g.l1 c) (h.l1 c),
    fun c k dst => (g.waits c k dst).trans (h.waits c k dst), g.pace.trans h.pace, g.cycles.trans h.cycles⟩

/-- A change beside all of that. -/
theorem of_same (h : crewFields t = crewFields s) : CrewSteps s t := by
  obtain ⟨hcopy, hpoison, hclusters, hreq, hhf, hpace, hcycles⟩ : _ ∧ _ ∧ _ ∧ _ ∧ _ ∧ _ ∧ _ := by
    simpa only [crewFields, Prod.mk.injEq] using h
  exact ⟨.of_same hcopy, by rw [hpoison]; exact id, .of_clusters hclusters, fun c => by rw [clu, hclusters]; exact List.Subset.refl _,
    outstanding_congr hreq hhf, hpace, hcycles⟩

/-- A store that leaves every home and puts no poison. -/
theorem of_store (h : storesOnly s t) (g : SameHomes s t) (hpoison : s.poison = [] → t.poison = []) : CrewSteps s t := by
  have heq := h.eq
  have hclusters : t.clusters = s.clusters := by rw [heq]
  refine ⟨.of_store h g, hpoison, .of_clusters hclusters, fun c => by rw [clu, hclusters]; exact List.Subset.refl _,
    outstanding_congr ?_ ?_, ?_, ?_⟩ <;> rw [heq]

/-- A change of one cluster that keeps its crews and brings no line into its L1. -/
theorem setClu (s : State) (c : Nat) {x : Cluster} (hcrews : x.crews = (clu s c).crews) (hl1 : x.l1 ⊆ (clu s c).l1) : CrewSteps s (setClu s c x) := by
  refine ⟨.of_same rfl, id, .setClu s c x hcrews, fun d => ?_, fun _ _ _ => rfl, rfl, rfl⟩
  rw [clu_setClu]
  split
  next h => subst h; exact hl1
  · exact List.Subset.refl _

theorem foldl {α : Type} {f : State → α → State} (l : List α) (h : ∀ s, ∀ x ∈ l, CrewSteps s (f s x)) (s : State) : CrewSteps s (l.foldl f s) := by
  induction l generalizing s with
  | nil => exact refl s
  | cons x l ih => exact (h s x List.mem_cons_self).trans (ih (fun s y hy => h s y (List.mem_cons_of_mem x hy)) _)

theorem settled (h : CrewSteps s t) (hs : Safety.settled s) : Safety.settled t := h.memory.settled hs

theorem crw (h : CrewSteps s t) (c k : Nat) : crw t c k = crw s c k := by rw [Machine.crw, Machine.crw, h.crews c]

theorem resident (h : CrewSteps s t) (i : Ins) : resident t i = resident s i := by rw [Machine.resident, Machine.resident, h.crews i.c]

/-- Operands keep their values. -/
theorem srcLane (h : CrewSteps s t) (i : Ins) (wd code l : Nat) : srcLane t i wd code l = srcLane s i wd code l :=
  srcLane_congr (by rw [h.crw]; exact .refl _) h.pace h.cycles wd code l

theorem atomOperand (h : CrewSteps s t) (i : Ins) (l : Nat) : atomOperand t i l = atomOperand s i l := by
  unfold Machine.atomOperand
  simp only [h.srcLane]

end CrewSteps

/-! ### A calm module -/

theorem failedHome_of_calm {s : State} (h : Safety.calm s) (a : Nat) : failedHome s a = false := by
  obtain ⟨hstk, hpackages, -⟩ := h
  unfold failedHome
  split
  next k _ => exact beq_false_of_ne (hstk k).2
  next p _ => exact beq_false_of_ne (hpackages p)
  · rfl

theorem waits_of_calm {s : State} (h : Safety.calm s) (a : Nat) : waits s a = false := by
  obtain ⟨hstk, -, htow, -⟩ := h
  unfold waits
  split
  next k _ =>
    obtain ⟨hback, hheld⟩ := htow (k / 8)
    simp [beq_false_of_ne hback, beq_false_of_ne hheld, beq_false_of_ne (hstk k).1]
  · rfl

theorem mustWait_of_calm {s : State} (h : Safety.calm s) (ls : List LaneAt) : mustWait s ls = false := by
  unfold mustWait
  simp [waits_of_calm h]

theorem poisoned_of_none {s : State} (h : s.poison = []) (a n : Nat) : poisoned s a n = false := by
  unfold poisoned
  simp [h]

/-! ### Wrong bits that are mended (R111, R115) -/

theorem correctedError_crewSteps (s : State) (u a : Nat) : CrewSteps s (correctedError s u a) ∧ (correctedError s u a).mem = s.mem := by
  obtain ⟨p, q, r, w, h⟩ := correctedError_eq s u a
  rw [h]
  exact ⟨.of_same rfl, rfl⟩

/-- One wrong bit of a word is mended, none is not seen. -/
theorem l1WordErr_crewSteps (c : Nat) (s : State) {e : Nat × Nat} (he : e.2 ≤ 1) : CrewSteps s (l1WordErr c s e) ∧ (l1WordErr c s e).mem = s.mem := by
  unfold l1WordErr
  split
  · exact ⟨.refl s, rfl⟩
  · exact ⟨.refl s, rfl⟩
  next l n _ hn =>
    obtain rfl : n = 0 := by omega
    simp only [Nat.zero_lt_two, if_true, Nat.zero_ne_one, if_false]
    exact correctedError_crewSteps s _ _

/-- One wrong bit of a word of shared local memory is mended. -/
theorem readWord_one (s : State) (a : Nat) : readWord s a 1 = correctedError s (home s a).unit a := by
  simp [readWord]

theorem meetErrs_crewSteps {errs : List (Nat × Nat)} (h : ∀ e ∈ errs, e.2 ≤ 1) (s : State) (c : Nat) (words : List (Nat × Nat)) :
    CrewSteps s (meetErrs s c words errs) ∧ (meetErrs s c words errs).mem = s.mem := by
  unfold meetErrs
  refine List.foldlRecOn (motive := fun t => CrewSteps s t ∧ t.mem = s.mem) errs _ ⟨.refl s, rfl⟩ fun t ⟨ht, hmem⟩ e he => ?_
  have hone : ∀ u, CrewSteps t u ∧ u.mem = t.mem → CrewSteps s u ∧ u.mem = s.mem := fun u hu => ⟨ht.trans hu.1, hu.2.trans hmem⟩
  apply hone
  split
  · split
    · split
      · exact ⟨.refl t, rfl⟩
      next hzero =>
        obtain hbit : e.2 = 1 := by have := h e he; omega
        rw [hbit, readWord_one]
        exact correctedError_crewSteps t _ _
    · exact l1WordErr_crewSteps c t (h e he)
  · exact ⟨.refl t, rfl⟩

/-! ### Reads -/

/-- A look-up of a near-store cache. -/
theorem nsTouch_crewSteps {s : State} (h : Safety.settled s) (a n : Nat) (write : Bool) :
    CrewSteps s (nsTouch s a n write) ∧ (nsTouch s a n write).mem = s.mem := by
  obtain ⟨⟨m, hm⟩, -⟩ := nsTouch_of_sound (fun t => (h t).2) a n write
  exact ⟨.of_store (storesOnly_nsTouch s a n write) (nsTouch_sameHomes h a n write) (by rw [hm]; exact id), by rw [hm]⟩

/-- A settled module whose memory holds no poison, and no home of which has failed. -/
structure Clean (s : State) : Prop where
  settled : Safety.settled s
  sound : ∀ a, failedHome s a = false
  poison : s.poison = []

theorem clean_of_calm {s : State} (h : Safety.calm s) (hpoison : s.poison = []) : Clean s := by
  have hsound := failedHome_of_calm h
  obtain ⟨-, -, -, hsettled, -⟩ := h
  exact ⟨hsettled, hsound, hpoison⟩

theorem CrewSteps.clean {s t : State} (h : CrewSteps s t) (hs : Clean s) : Clean t :=
  ⟨h.settled hs.settled, fun a => (h.memory.places.failedHome a).trans (hs.sound a), h.poison hs.poison⟩

theorem lineRead_clean {s : State} (h : Clean s) (a n : Nat) : lineRead s a n = (nsTouch s a n false, readMem s a n, false) := by
  have htouch : Clean (nsTouch s a n false) := (nsTouch_crewSteps h.settled a n false).1.clean h
  unfold lineRead
  rw [drainLines_of_no_adder fun t => (h.settled t).1]
  dsimp only
  rw [htouch.sound, if_neg Bool.false_ne_true, poisoned_of_none htouch.poison, if_neg Bool.false_ne_true]

theorem foldl_readPiece_clean (ps : List (Nat × Nat)) {s : State} (h : Clean s) (bs : List Byte) :
    (ps.foldl readPiece (s, bs, false)).2 = (bs ++ ps.flatMap fun p => readMem s p.1 p.2, false)
      ∧ CrewSteps s (ps.foldl readPiece (s, bs, false)).1 ∧ (ps.foldl readPiece (s, bs, false)).1.mem = s.mem := by
  induction ps generalizing s bs with
  | nil => exact ⟨by simp, .refl s, rfl⟩
  | cons p ps ih =>
    obtain ⟨hsteps, hmem⟩ := nsTouch_crewSteps h.settled p.1 p.2 false
    obtain ⟨hread, hrest, hrestmem⟩ := ih (hsteps.clean h) (bs ++ readMem s p.1 p.2)
    rw [List.foldl_cons, readPiece, lineRead_clean h]
    dsimp only
    rw [Bool.or_false]
    simp only [readMem_of_mem hmem] at hread
    refine ⟨?_, hsteps.trans hrest, hrestmem.trans hmem⟩
    rw [hread, List.flatMap_cons, List.append_assoc]

/-- The pieces of an access are its bytes. -/
theorem flatMap_linePieces (s : State) (a n : Nat) : ((linePieces a n).flatMap fun p => readMem s p.1 p.2) = readMem s a n := by
  by_cases hn : n = 0
  · rw [hn]; rfl
  have hlines : ∀ k, k ≤ (a + n - 1) / 128 - a / 128 + 1 →
      ((List.range k).flatMap fun i => readMem s (max a ((a / 128 + i) * 128)) (min (a + n) ((a / 128 + i + 1) * 128) - max a ((a / 128 + i) * 128)))
        = readMem s a (min (a + n) ((a / 128 + k) * 128) - a) := by
    intro k
    induction k with
    | zero => intro _; rw [show min (a + n) ((a / 128 + 0) * 128) - a = 0 by omega]; rfl
    | succ k ih =>
      intro hk
      rw [List.range_succ, List.flatMap_append, ih (by omega), List.flatMap_cons, List.flatMap_nil, List.append_nil]
      have hcut : min (a + n) ((a / 128 + (k + 1)) * 128) - a
          = (min (a + n) ((a / 128 + k) * 128) - a) + (min (a + n) ((a / 128 + k + 1) * 128) - max a ((a / 128 + k) * 128)) := by omega
      have hnext : max a ((a / 128 + k) * 128) = a + (min (a + n) ((a / 128 + k) * 128) - a) := by omega
      rw [hcut, readMem_add, ← hnext]
  unfold linePieces
  rw [if_neg hn, List.flatMap_map]
  refine (hlines _ (le_refl _)).trans ?_
  rw [show min (a + n) ((a / 128 + ((a + n - 1) / 128 - a / 128 + 1)) * 128) - a = n by omega]

/-- A read of any length: the bytes of memory, without a tag. -/
theorem memRead_clean {s : State} (h : Clean s) (a n : Nat) :
    (memRead s a n).2 = (readMem s a n, false) ∧ CrewSteps s (memRead s a n).1 ∧ (memRead s a n).1.mem = s.mem := by
  obtain ⟨hread, hsteps, hmem⟩ := foldl_readPiece_clean (linePieces a n) h []
  rw [memRead_eq, hread, flatMap_linePieces s a n]
  exact ⟨rfl, hsteps, hmem⟩

/-! ### Atomics (R118) -/

/-- The values a run of operations finds, one after another. -/
def foundBy {α : Type} (f : Nat → α → Nat) : Nat → List α → List Nat
  | _, [] => []
  | v, x :: xs => v :: foundBy f (f v x) xs

theorem foundBy_map {α β : Type} (f : Nat → β → Nat) (g : α → β) (v : Nat) (xs : List α) :
    foundBy f v (xs.map g) = foundBy (fun v x => f v (g x)) v xs := by
  induction xs generalizing v with
  | nil => rfl
  | cons x xs ih => rw [List.map_cons, foundBy, foundBy, ih]

/-- In an ascending run of lanes, each finds what the lanes before it leave. -/
theorem mem_zip_foundBy {f : Nat → Nat → Nat} {ls : List Nat} (h : ls.Pairwise (· < ·)) {v l u : Nat} (hmem : (l, u) ∈ ls.zip (foundBy f v ls)) :
    l ∈ ls ∧ u = (ls.filter fun m => decide (m < l)).foldl f v := by
  induction ls generalizing v with
  | nil => exact absurd hmem List.not_mem_nil
  | cons x xs ih =>
    obtain ⟨hx, hxs⟩ := List.pairwise_cons.mp h
    rw [foundBy, List.zip_cons_cons, List.mem_cons] at hmem
    rcases hmem with heq | hmem
    · obtain ⟨rfl, rfl⟩ := Prod.mk.inj heq
      have hnone : ((l :: xs).filter fun m => decide (m < l)) = [] := List.filter_eq_nil_iff.mpr fun m hm => by
        rcases List.mem_cons.mp hm with rfl | hm
        · simp
        · have := hx m hm; simp; omega
      rw [hnone]
      exact ⟨List.mem_cons_self, rfl⟩
    · obtain ⟨hl, hu⟩ := ih hxs hmem
      refine ⟨List.mem_cons_of_mem x hl, ?_⟩
      rw [List.filter_cons_of_pos (by simpa using hx l hl), List.foldl_cons, hu]

/-- What `memAtomic` does with each operand. -/
def atomFold (op n : Nat) (acc : Nat × Bool × Nat × List (Nat × Bool)) (o : Nat × Nat × Bool) : Nat × Bool × Nat × List (Nat × Bool) :=
  let r := atomOp op (8 * n) acc.1 o.1 o.2.1
  (r.1, acc.2.1 || o.2.2, acc.2.2.1 + b2n r.2, acc.2.2.2 ++ [(acc.1, acc.2.1)])

/-- The value an operand's operation leaves. -/
def atomNext (op n : Nat) (v : Nat) (o : Nat × Nat × Bool) : Nat := (atomOp op (8 * n) v o.1 o.2.1).1

theorem foldl_atomFold (op n : Nat) {os : List (Nat × Nat × Bool)} (h : ∀ o ∈ os, o.2.2 = false) (v k : Nat) (rs : List (Nat × Bool)) :
    ∃ k', os.foldl (atomFold op n) (v, false, k, rs)
      = (os.foldl (atomNext op n) v, false, k', rs ++ (foundBy (atomNext op n) v os).map fun u => (u, false)) := by
  induction os generalizing v k rs with
  | nil => exact ⟨k, by simp [foundBy]⟩
  | cons o os ih =>
    obtain ⟨k', hk'⟩ := ih (fun p hp => h p (List.mem_cons_of_mem o hp)) (atomNext op n v o) (k + b2n (atomOp op (8 * n) v o.1 o.2.1).2) (rs ++ [(v, false)])
    refine ⟨k', ?_⟩
    have hstep : atomFold op n (v, false, k, rs) o = (atomNext op n v o, false, k + b2n (atomOp op (8 * n) v o.1 o.2.1).2, rs ++ [(v, false)]) := by
      unfold atomFold
      rw [h o List.mem_cons_self]
      rfl
    rw [List.foldl_cons, hstep, hk', foundBy, List.map_cons, List.append_assoc]
    rfl

/-- One atomic with unpoisoned operands: the operands are applied in order, each finding what those before it leave. -/
theorem memAtomic_clean {s : State} (h : Clean s) (a n op : Nat) {os : List (Nat × Nat × Bool)} (hos : ∀ o ∈ os, o.2.2 = false) :
    CrewSteps s (memAtomic s a n op os).1
      ∧ (memAtomic s a n op os).1.mem = cellsPut s.mem a (leBytes n (os.foldl (atomNext op n) (readNat s a n)))
      ∧ (memAtomic s a n op os).2 = (0, (foundBy (atomNext op n) (readNat s a n) os).map fun u => (u, false)) := by
  obtain ⟨k, hk⟩ := foldl_atomFold op n hos (readNat s a n) 0 []
  unfold memAtomic
  rw [drainLines_of_no_adder fun t => (h.settled t).1, if_neg (by rw [h.sound]; exact Bool.false_ne_true), poisoned_of_none h.poison]
  unfold atomFold at hk
  dsimp only at hk ⊢
  rw [hk, if_neg Bool.false_ne_true, if_neg Bool.false_ne_true]
  dsimp only
  generalize os.foldl (atomNext op n) (readNat s a n) = v
  have hcount : CrewSteps s { s with atomSat := s.atomSat + k } := .of_same rfl
  have hput : CrewSteps { s with atomSat := s.atomSat + k } (writeNat { s with atomSat := s.atomSat + k } a n v false) :=
    .of_store (storesOnly_writeMem _ a _ false) ⟨rfl, rfl, rfl, fun _ => rfl, id⟩ fun hp => by
      change poisonAfter s.poison a (leBytes n v).length false = []
      rw [poisonAfter_clean, h.poison]
      rfl
  have hwritten := hcount.trans hput
  obtain ⟨htouch, hmem⟩ := nsTouch_crewSteps (hwritten.settled h.settled) a n true
  exact ⟨hwritten.trans htouch, hmem, rfl⟩

end Sys2Proof.Machine
end

section
/-! The targets of an atomic, one after another (R117, R118): what each leaves in memory and in the L1, and what its lanes find. -/
namespace Sys2Proof.Machine
open Sys2Proof

/-! ### Lanes -/

theorem mem_lanesOf {m : W32} {l : Nat} : l ∈ lanesOf m ↔ l < 32 ∧ m.getLsbD l = true := by
  simp [lanesOf]

theorem pairwise_lanesOf (m : W32) : (lanesOf m).Pairwise (· < ·) := List.Pairwise.filter _ List.pairwise_lt_range

theorem nodup_foldl_addOnce (us : List Nat) {l : List Nat} (h : l.Nodup) : (us.foldl addOnce l).Nodup := by
  induction us generalizing l with
  | nil => exact h
  | cons a us ih =>
    refine ih ?_
    unfold addOnce
    split
    · exact h
    next ha =>
      rw [List.nodup_append]
      exact ⟨h, List.nodup_singleton a, fun x hx y hy hxy => ha (List.contains_iff_mem.mpr (List.mem_singleton.mp hy ▸ hxy ▸ hx))⟩

/-- Accesses that pass their checks and go to this module's memory. -/
def AllLocal (s : State) (ls : List LaneAt) : Prop := ∀ x ∈ ls, x.node = none ∧ x.st = 0 ∧ localMemory s x.addr = true

section
variable {s : State}

theorem home_of_localMemory {a : Nat} (h : localMemory s a = true) : home s a ≠ .regs ∧ deviceHome s a = false ∧ windowHome s a = false := by
  unfold localMemory at h
  unfold deviceHome windowHome
  cases hh : home s a <;> simp_all

variable {ls : List LaneAt} (h : AllLocal s ls)
include h

theorem toMemory_of_allLocal : toMemory s ls = ls := List.filter_eq_self.mpr fun x hx => by
  obtain ⟨hnode, hst, hlocal⟩ := h x hx
  simp [hnode, hst, (home_of_localMemory hlocal).2.1]

theorem toRegs_of_allLocal : toRegs s ls = [] := List.filter_eq_nil_iff.mpr fun x hx => by
  simp [(home_of_localMemory (h x hx).2.2).1]

theorem toNodes_of_allLocal : toNodes ls = [] := List.filter_eq_nil_iff.mpr fun x hx => by
  simp [(h x hx).1]

theorem failedLanes_of_allLocal : failedLanes ls = [] := by
  unfold failedLanes
  rw [List.filter_eq_nil_iff.mpr fun x hx => by simp [(h x hx).2.1], List.map_nil]

theorem CrewSteps.allLocal {t : State} (g : CrewSteps s t) : AllLocal t ls := fun x hx => by
  rw [g.memory.places.localMemory]
  exact h x hx

end

/-! ### One target -/

/-- An atomic of lanes, each with its operands and its access. -/
structure AtomJob where
  i : Ins
  lanes : List Nat
  opnd : Nat → Nat × Nat × Bool
  acc : Nat → LaneAt

namespace AtomJob
variable (j : AtomJob)

/-- Lanes whose accesses name an address. -/
def group (a : Nat) : List Nat := j.lanes.filter fun l => (j.acc l).addr == a
/-- The value a lane's operation leaves. -/
def next (v l : Nat) : Nat := atomNext j.i.op j.i.size v (j.opnd l)
/-- The value the lanes of an address leave there, and the one that a lane finds. -/
def final (s : State) (a : Nat) : Nat := (j.group a).foldl j.next (readNat s a j.i.size)
def prior (s : State) (l : Nat) : Nat :=
  ((j.group (j.acc l).addr).filter fun m => decide (m < l)).foldl j.next (readNat s (j.acc l).addr j.i.size)

/-- What `atomLanes` does for one target. -/
def target (acc : State × List LaneDone) (a : Nat) : State × List LaneDone :=
  let mine := (j.lanes.map j.acc).filter fun x => x.addr == a
  let w := memAtomic acc.1 a j.i.size j.i.op (mine.map fun x => j.opnd x.lane)
  (setClu w.1 j.i.c (l1Drop (clu w.1 j.i.c) a),
    acc.2 ++ List.zipWith (fun (x : LaneAt) (v : Nat × Bool) => { lane := x.lane, st := w.2.1, val := v.1, pz := v.2, addr := x.raw }) mine w.2.2)

/-- A completed access of a lane that found a value, unpoisoned. -/
def done (l v : Nat) : LaneDone := { lane := l, st := 0, val := v, pz := false, addr := (j.acc l).raw }

/-- What the lanes of an address find there. -/
def found (s : State) (a : Nat) : List LaneDone := List.zipWith j.done (j.group a) (foundBy j.next (readNat s a j.i.size) (j.group a))

/-- The accesses are the lanes', ascending, and no operand is poisoned. -/
structure Sound : Prop where
  lane : ∀ l, (j.acc l).lane = l
  ascending : j.lanes.Pairwise (· < ·)
  clean : ∀ l ∈ j.lanes, (j.opnd l).2.2 = false

variable {j}

theorem length_foundBy {α : Type} (f : Nat → α → Nat) (v : Nat) (xs : List α) : (foundBy f v xs).length = xs.length := by
  induction xs generalizing v with
  | nil => rfl
  | cons x xs ih => rw [foundBy, List.length_cons, List.length_cons, ih]

theorem lanes_found (s : State) (a : Nat) : (j.found s a).map (·.lane) = j.group a := by
  unfold found
  rw [← List.map_uncurry_zip_eq_zipWith, List.map_map]
  exact List.map_fst_zip (length_foundBy _ _ _).ge

theorem mem_found (hj : j.Sound) {s : State} {a : Nat} {d : LaneDone} (hd : d ∈ j.found s a) :
    d.lane ∈ j.group a ∧ d.st = 0 ∧ d.pz = false ∧ d.val = j.prior s d.lane := by
  unfold found at hd
  rw [← List.map_uncurry_zip_eq_zipWith] at hd
  obtain ⟨⟨l, v⟩, hmem, rfl⟩ := List.mem_map.mp hd
  obtain ⟨hl, hv⟩ := mem_zip_foundBy (hj.ascending.filter _) hmem
  have haddr : (j.acc l).addr = a := by simpa using (List.mem_filter.mp hl).2
  refine ⟨hl, rfl, rfl, hv.trans ?_⟩
  subst haddr
  rfl

/-- One target: its value is written, its line leaves the L1, its lanes find what those before them leave. -/
theorem target_eq (hj : j.Sound) {acc : State × List LaneDone} (h : Clean acc.1) (a : Nat) :
    CrewSteps acc.1 (j.target acc a).1 ∧ (j.target acc a).1.mem = cellsPut acc.1.mem a (leBytes j.i.size (j.final acc.1 a))
      ∧ (∀ x ∈ (clu (j.target acc a).1 j.i.c).l1, x.line ≠ a / 128) ∧ (j.target acc a).2 = acc.2 ++ j.found acc.1 a := by
  have hmine : (j.lanes.map j.acc).filter (fun x => x.addr == a) = (j.group a).map j.acc := List.filter_map ..
  have hopnds : ((j.group a).map j.acc).map (fun x => j.opnd x.lane) = (j.group a).map j.opnd := by
    rw [List.map_map]
    exact List.map_congr_left fun l _ => congrArg j.opnd (hj.lane l)
  have hclean : ∀ o ∈ (j.group a).map j.opnd, o.2.2 = false := fun o ho => by
    obtain ⟨l, hl, rfl⟩ := List.mem_map.mp ho
    exact hj.clean l (List.mem_filter.mp hl).1
  obtain ⟨hsteps, hmem, hans⟩ := memAtomic_clean h a j.i.size j.i.op hclean
  unfold target
  rw [hmine]
  dsimp only
  rw [hopnds]
  generalize memAtomic acc.1 a j.i.size j.i.op ((j.group a).map j.opnd) = w at hsteps hmem hans ⊢
  obtain ⟨u, st, vs⟩ := w
  obtain ⟨rfl, rfl⟩ := Prod.mk.inj hans
  dsimp only at hsteps hmem ⊢
  refine ⟨hsteps.trans (.setClu u j.i.c rfl (List.filter_subset_self _)), ?_, fun x hx => ?_, ?_⟩
  · rw [List.foldl_map] at hmem
    exact hmem
  · rw [clu_setClu_self] at hx
    simpa using (List.mem_filter.mp hx).2
  · rw [foundBy_map, List.zipWith_map]
    simp only [hj.lane]
    rfl

/-! ### All targets -/

/-- Aligned targets that differ do not overlap. -/
theorem apart_of_aligned {n a b : Nat} (ha : a % n = 0) (hb : b % n = 0) (h : a ≠ b) : a + n ≤ b ∨ b + n ≤ a := by
  obtain ⟨p, rfl⟩ := Nat.dvd_of_mod_eq_zero ha
  obtain ⟨q, rfl⟩ := Nat.dvd_of_mod_eq_zero hb
  rcases Nat.lt_or_gt_of_ne (fun hpq : p = q => h (by rw [hpq])) with hlt | hlt
  · left; nlinarith
  · right; nlinarith

/-- What a run of targets leaves. -/
structure Applied (j : AtomJob) (ts : List Nat) (s : State) (r : State × List LaneDone) : Prop where
  steps : CrewSteps s r.1
  outside : ∀ b, (∀ a ∈ ts, b < a ∨ a + j.i.size ≤ b) → cellGet r.1.mem b = cellGet s.mem b
  value : ∀ a ∈ ts, readNat r.1 a j.i.size = j.final s a % 256 ^ j.i.size
  l1 : ∀ a ∈ ts, ∀ x ∈ (clu r.1 j.i.c).l1, x.line ≠ a / 128
  done : ∀ d ∈ r.2, d.lane ∈ j.lanes ∧ (j.acc d.lane).addr ∈ ts ∧ d.st = 0 ∧ d.pz = false ∧ d.val = j.prior s d.lane
  all : ∀ a ∈ ts, ∀ l ∈ j.group a, l ∈ r.2.map (·.lane)

theorem readNat_target (hj : j.Sound) {acc : State × List LaneDone} (h : Clean acc.1) (hwf : Memory.wf acc.1.mem = true) (a : Nat) :
    readNat (j.target acc a).1 a j.i.size = j.final acc.1 a % 256 ^ j.i.size
      ∧ ∀ b, b < a ∨ a + j.i.size ≤ b → cellGet (j.target acc a).1.mem b = cellGet acc.1.mem b := by
  obtain ⟨-, hmem, -⟩ := j.target_eq hj h a
  constructor
  · rw [← readNat_writeNat hwf a j.i.size (j.final acc.1 a) false, readNat, readNat, readMem_of_mem (s := writeNat _ _ _ _ _)]
    exact hmem
  · intro b hb
    rw [hmem, cellGet_cellsPut hwf, leBytes_length, if_neg (by omega)]

/-- The values at other targets stay. -/
theorem readNat_of_apart {s t : State} {a b n : Nat} (h : ∀ x, x < a ∨ a + n ≤ x → cellGet t.mem x = cellGet s.mem x) (hab : a + n ≤ b ∨ b + n ≤ a) :
    readNat t b n = readNat s b n := readNat_congr fun x _ _ => h x (by omega)

/-- Aligned targets, each once: every one is left as its own lanes leave it. -/
theorem applied_foldl (hj : j.Sound) {ts : List Nat} (hnodup : ts.Nodup) (halign : ∀ a ∈ ts, a % j.i.size = 0) {acc : State × List LaneDone}
    (h : Clean acc.1) (hwf : Memory.wf acc.1.mem = true) :
    ∃ ds, (ts.foldl j.target acc).2 = acc.2 ++ ds ∧ j.Applied ts acc.1 ((ts.foldl j.target acc).1, ds) := by
  induction ts generalizing acc with
  | nil => exact ⟨[], by simp, ⟨.refl _, fun _ _ => rfl, by simp, by simp, by simp, by simp⟩⟩
  | cons a ts ih =>
    obtain ⟨hnew, hnodup⟩ := List.nodup_cons.mp hnodup
    have hrest : ∀ b ∈ ts, b % j.i.size = 0 := fun b hb => halign b (List.mem_cons_of_mem a hb)
    have hapart : ∀ b ∈ ts, a + j.i.size ≤ b ∨ b + j.i.size ≤ a := fun b hb =>
      apart_of_aligned (halign a List.mem_cons_self) (hrest b hb) fun hab => hnew (hab ▸ hb)
    obtain ⟨hsteps, -, hl1, hfound⟩ := j.target_eq hj h a
    obtain ⟨hvalue, houtside⟩ := j.readNat_target hj h hwf a
    obtain ⟨ds, hds, hall⟩ := ih hnodup hrest (hsteps.clean h) (hsteps.memory.wf hwf)
    have hkept : ∀ b ∈ ts, readNat (j.target acc a).1 b j.i.size = readNat acc.1 b j.i.size := fun b hb => readNat_of_apart houtside (hapart b hb)
    rw [List.foldl_cons]
    refine ⟨j.found acc.1 a ++ ds, by rw [hds, hfound, List.append_assoc], hsteps.trans hall.steps, fun b hb => ?_, fun b hb => ?_, fun b hb x hx => ?_,
      fun d hd => ?_, fun b hb l hl => ?_⟩
    · exact (hall.outside b fun c hc => hb c (List.mem_cons_of_mem a hc)).trans (houtside b (hb a List.mem_cons_self))
    · rcases List.mem_cons.mp hb with rfl | hb
      · rw [← hvalue]
        exact readNat_congr fun x _ _ => hall.outside x fun c hc => by have := hapart c hc; omega
      · rw [hall.value b hb, final, final, hkept b hb]
    · rcases List.mem_cons.mp hb with rfl | hb
      · exact hl1 x (hall.steps.l1 _ hx)
      · exact hall.l1 b hb x hx
    · rcases List.mem_append.mp hd with hd | hd
      · obtain ⟨hlane, hst, hpz, hval⟩ := mem_found hj hd
        obtain ⟨hlanes, haddr⟩ := List.mem_filter.mp hlane
        exact ⟨hlanes, by rw [beq_iff_eq.mp haddr]; exact List.mem_cons_self, hst, hpz, hval⟩
      · obtain ⟨hlanes, haddr, hst, hpz, hval⟩ := hall.done d hd
        exact ⟨hlanes, List.mem_cons_of_mem a haddr, hst, hpz, by rw [hval, prior, prior, hkept _ haddr]⟩
    · rw [List.map_append, List.mem_append]
      rcases List.mem_cons.mp hb with rfl | hb
      · left; rw [lanes_found]; exact hl
      · right; exact hall.all b hb l hl

end AtomJob

end Sys2Proof.Machine
end

section
/-! An atomic as a whole (R117, R118, R149, R360, R380): its accesses, the release before it and the acquire after it. -/
namespace Sys2Proof.Machine
open Sys2Proof

/-! ### Reports and acquires -/

/-- Accesses that were applied report nothing. -/
theorem report_of_applied {s : State} {c slot pc : Nat} {instr : W64} {rs : List (Nat × Nat × Nat)} (h : ∀ r ∈ rs, r.2.1 = 0) :
    report s c slot pc instr rs = s := by
  have hnone : (rs.filter fun r => isFault r.2.1) = [] := List.filter_eq_nil_iff.mpr fun r hr => by rw [h r hr]; decide
  unfold report
  dsimp only
  rw [hnone]
  rfl

theorem reportDone_of_applied {s : State} {i : Ins} {ds : List LaneDone} (h : ∀ d ∈ ds, d.st = 0) : reportDone s i ds = s := by
  unfold reportDone
  split
  · exact report_of_applied fun r hr => by obtain ⟨d, hd, rfl⟩ := List.mem_map.mp hr; exact h d hd
  · rfl

/-- An acquire leaves crews and memory, and brings no line. -/
theorem acquire_leaves (s : State) (c scope : Nat) :
    KeepsCrews s (acquire s c scope) ∧ (acquire s c scope).mem = s.mem ∧ ∀ d, (clu (acquire s c scope) d).l1 ⊆ (clu s d).l1 := by
  refine ⟨acquire_keepsCrews s c scope, ?_, fun d => ?_⟩ <;> unfold acquire <;> split
  · rfl
  · rfl
  · exact List.Subset.refl _
  · rw [clu_setClu]
    split
    · exact List.nil_subset _
    · exact List.Subset.refl _

theorem l1_acquire (s : State) (c : Nat) {scope : Nat} (h : scope ≠ 0) : (clu (acquire s c scope) c).l1 = [] := by
  unfold acquire
  rw [if_neg h, clu_setClu_self]

theorem acquiredBy_leaves (s : State) (c slot w : Nat) :
    KeepsCrews s (acquiredBy s c slot w) ∧ (acquiredBy s c slot w).mem = s.mem ∧ ∀ d, (clu (acquiredBy s c slot w) d).l1 ⊆ (clu s d).l1 := by
  unfold acquiredBy
  split
  · exact acquire_leaves s c _
  · exact ⟨.refl s, rfl, fun _ => List.Subset.refl _⟩

/-! ### The accesses of an atomic -/

/-- The atomic of an instruction. -/
def atomJob (s : State) (i : Ins) : AtomJob := { i, lanes := i.acting, opnd := atomOperand s i, acc := laneAt s i (.atom i.op i.ret) }

/-- The address that an atomic names in a lane. -/
def atomAddr (s : State) (i : Ins) (l : Nat) : Nat := (laneAt s i (.atom i.op i.ret) l).addr

theorem lane_laneAt (s : State) (i : Ins) (k : XKind) (l : Nat) : (laneAt s i k l).lane = l := by
  unfold laneAt
  dsimp only
  split <;> rfl

theorem pairwise_acting (i : Ins) : i.acting.Pairwise (· < ·) := by
  unfold Ins.acting
  split
  · exact (pairwise_lanesOf _).sublist (List.take_sublist _ _)
  · exact pairwise_lanesOf _

/-- What runs of targets leave, said of an earlier state with the same memory. -/
theorem AtomJob.Applied.of_steps {j : AtomJob} {ts : List Nat} {s u : State} {r : State × List LaneDone} (h : j.Applied ts u r) (hsteps : CrewSteps s u)
    (hmem : u.mem = s.mem) : j.Applied ts s r := by
  have hread : ∀ a n, readNat u a n = readNat s a n := fun a n => congrArg leNat (readMem_of_mem hmem a n)
  obtain ⟨hs, hout, hvalue, hl1, hdone, hall⟩ := h
  simp only [AtomJob.final, AtomJob.prior, hread, hmem] at hout hvalue hdone
  exact ⟨hsteps.trans hs, hout, hvalue, hl1, hdone, hall⟩

/-- An atomic on this module's memory that need not wait: all its targets are applied, its values put, its path moved on. -/
theorem atomLanes_eq {errs : List (Nat × Nat)} (herrs : ∀ e ∈ errs, e.2 ≤ 1) {s : State} {i : Ins} (hcalm : Safety.calm s) (hpoison : s.poison = [])
    (hlocal : AllLocal s (i.acting.map (laneAt s i (.atom i.op i.ret))))
    (halign : ∀ l ∈ i.acting, atomAddr s i l % i.size = 0) (hopnd : ∀ l ∈ i.acting, (atomOperand s i l).2.2 = false) :
    ∃ r ts, (atomJob s i).Applied ts s r ∧ (∀ l ∈ i.acting, atomAddr s i l ∈ ts)
      ∧ (∀ a ∈ ts, ∃ l ∈ i.acting, atomAddr s i l = a)
      ∧ atomLanes errs s i = acquiredBy (step1 (if i.ret then putLanes r.1 i r.2 else r.1) i) i.c i.slot i.w := by
  have hclean := clean_of_calm hcalm hpoison
  have hwf : Memory.wf s.mem = true := by obtain ⟨-, -, -, -, hwf⟩ := hcalm; exact hwf
  have hjob : (atomJob s i).Sound := ⟨lane_laneAt s i _, pairwise_acting i, hopnd⟩
  unfold atomLanes
  dsimp only
  rw [if_neg (by rw [mustWait_of_calm hcalm]; exact Bool.false_ne_true)]
  obtain ⟨hmeet, hmeetmem⟩ := meetErrs_crewSteps herrs s i.c
    (wordsOf ((i.acting.map (laneAt s i (.atom i.op i.ret))).filter fun x => inSlm x.addr) i.size)
  generalize meetErrs s i.c _ errs = u at hmeet hmeetmem ⊢
  have hlocal' := hmeet.allLocal hlocal
  rw [toMemory_of_allLocal hlocal', failedLanes_of_allLocal hlocal', toNodes_of_allLocal hlocal']
  simp only [hmeet.atomOperand]
  generalize hts : ((i.acting.map (laneAt s i (.atom i.op i.ret))).foldl (fun m x => addOnce m x.addr) [] : List Nat) = ts
  generalize hwaves : (if (ts.filter fun a => home u a == .slm i.c).isEmpty then u else _ : State) = u'
  have hcount : CrewSteps u u' ∧ u'.mem = u.mem := by
    rw [← hwaves]
    split
    · exact ⟨.refl u, rfl⟩
    · exact ⟨.setClu u i.c rfl (List.Subset.refl _), rfl⟩
  have hsteps := hmeet.trans hcount.1
  have hmem : u'.mem = s.mem := hcount.2.trans hmeetmem
  rw [← List.foldl_map (f := LaneAt.addr) (g := addOnce), List.map_map] at hts
  have hmemts : ∀ a, a ∈ ts ↔ ∃ l ∈ i.acting, atomAddr s i l = a := fun a => by
    rw [← hts, mem_foldl_addOnce]
    simp [atomAddr]
  have hnodup : ts.Nodup := hts ▸ nodup_foldl_addOnce _ List.nodup_nil
  obtain ⟨ds, hds, happlied⟩ := (atomJob s i).applied_foldl hjob hnodup
    (fun a ha => by obtain ⟨l, hl, rfl⟩ := (hmemts a).mp ha; exact halign l hl) (acc := (u', [])) (hsteps.clean hclean) (by rw [hmem]; exact hwf)
  have happlied' := happlied.of_steps hsteps hmem
  refine ⟨(ts.foldl (atomJob s i).target (u', [])), ts, ?_, fun l hl => (hmemts _).mpr ⟨l, hl, rfl⟩, fun a ha => (hmemts a).mp ha, ?_⟩
  · rw [List.nil_append] at hds
    rw [show ts.foldl (atomJob s i).target (u', []) = ((ts.foldl (atomJob s i).target (u', [])).1, ds) from Prod.ext rfl hds]
    exact happlied'
  · have hdone : ∀ d ∈ (ts.foldl (atomJob s i).target (u', [])).2, d.st = 0 := fun d hd => by
      rw [hds, List.nil_append] at hd
      obtain ⟨-, -, hst, -⟩ := happlied.done d hd
      exact hst
    unfold AtomJob.target atomJob at hdone ⊢
    dsimp only at hdone ⊢
    rw [reportDone_of_applied hdone]
    rfl

/-! ### The release before it (R360, R379) -/

theorem mem_of_mfind {α : Type} {m : Map α} {k : Nat} {v : α} (h : mfind m k = some v) : (k, v) ∈ m := by
  induction m with
  | nil => exact absurd h nofun
  | cons p m ih =>
    obtain ⟨j, w⟩ := p
    unfold mfind at h
    split at h
    next hj => rw [hj, Option.some.inj h]; exact List.mem_cons_self
    · exact List.mem_cons_of_mem _ (ih h)

theorem mem_mset {α : Type} {m : Map α} {k : Nat} {v : α} {p : Nat × α} (h : p ∈ mset m k v) : p ∈ m ∨ p = (k, v) := by
  induction m with
  | nil => exact .inr (List.mem_singleton.mp h)
  | cons q m ih =>
    unfold mset at h
    split at h
    · exact (List.mem_cons.mp h).symm.imp_left (List.mem_cons_of_mem q)
    · split at h
      · exact (List.mem_cons.mp h).symm
      · rcases List.mem_cons.mp h with rfl | h
        · exact .inl List.mem_cons_self
        · exact (ih h).imp_left (List.mem_cons_of_mem q)

/-- No load of a headframe window waits. -/
def NoneWaiting (hs : Map Headframe) : Prop := ∀ h ∈ hs, h.2.waiting = []

theorem NoneWaiting.hf {s : State} (h : NoneWaiting s.headframes) (t : Nat) : (hf s t).waiting = [] := by
  unfold Machine.hf mget
  cases hfind : mfind s.headframes t with
  | none => rfl
  | some x => exact h _ (mem_of_mfind hfind)

theorem NoneWaiting.mset {hs : Map Headframe} (h : NoneWaiting hs) {t : Nat} {x : Headframe} (hx : x.waiting = []) : NoneWaiting (mset hs t x) :=
  fun p hp => (mem_mset hp).elim (h p) fun heq => by rw [heq]; exact hx

/-- With no request and no waiting load, nothing of a crew is outstanding. -/
theorem outstanding_of_none {s : State} (hreq : s.requests = []) (h : NoneWaiting s.headframes) (c k : Nat) (dst : Bool) : outstanding s c k dst = false := by
  unfold outstanding
  rw [hreq, List.any_nil, Bool.false_or, List.any_eq_false]
  intro p hp
  rw [h p hp, List.any_nil]
  exact Bool.false_ne_true

theorem sendDue_of_none {s : State} {t : Nat} (h : (hf s t).runs = []) : sendDue s t = s := by
  unfold sendDue
  rw [h]
  rfl

/-- Marking and sending the stores of an engine that has none. -/
theorem dueRuns_of_none {s : State} {t : Nat} (hruns : (hf s t).runs = []) (hstores : (hf s t).stores = []) (which : Run → Bool) :
    dueRuns s t which = setHf s t { hf s t with runs := [], stores := [] } := by
  unfold dueRuns
  dsimp only
  rw [hruns, hstores]
  exact sendDue_of_none (congrArg Headframe.runs (mget_mset_self ..))

/-- Failures kept for a crew, where none are kept. -/
theorem takeFailures_of_none {s : State} {c k : Nat} (h : (hf s (cluTower c)).failures = []) :
    takeFailures s c k = ([], setHf s (cluTower c) { hf s (cluTower c) with failures := [] }) := by
  unfold takeFailures takeFailuresAt
  dsimp only
  rw [h]
  rfl

/-- A release that nothing holds back goes on at once: only the headframe's tables are written again. -/
theorem afterRelease_of_quiet {s : State} {i : Ins} (h : Safety.quiet s i.c i.slot) (hthere : resident s i = true) (lanes : List Nat)
    (held body : State → State) : ∃ m, NoneWaiting m ∧ afterRelease s i lanes held body = body { s with headframes := m } := by
  obtain ⟨hruns, hstores, hfailures, hreq, hwaiting, hshown⟩ := h
  have hnone : NoneWaiting s.headframes := hwaiting
  have hflush : flushRuns s i.c i.slot = setHf s (cluTower i.c) { hf s (cluTower i.c) with runs := [], stores := [] } := dueRuns_of_none hruns hstores _
  generalize hx : ({ hf s (cluTower i.c) with runs := [], stores := [] } : Headframe) = x at hflush
  have hxwaiting : x.waiting = [] := by rw [← hx]; exact hnone.hf _
  have hxfailures : x.failures = [] := by rw [← hx]; exact hfailures
  have hhf : hf (setHf s (cluTower i.c) x) (cluTower i.c) = x := mget_mset_self ..
  have hset : NoneWaiting (setHf s (cluTower i.c) x).headframes := hnone.mset hxwaiting
  have hunsent : unsent (setHf s (cluTower i.c) x) i.c i.slot = false := by
    unfold unsent
    rw [show (setHf s (cluTower i.c) x).requests = [] from hreq]
    rfl
  have hheld : holdsRuns (setHf s (cluTower i.c) x) i.c i.slot = false := by
    unfold holdsRuns holdsRunsAt allRuns
    rw [hhf, ← hx]
    rfl
  have htake := takeFailures_of_none (s := setHf s (cluTower i.c) x) (c := i.c) (k := i.slot) (by rw [hhf]; exact hxfailures)
  have hcrews : ∀ u : State, u.clusters = s.clusters → resident u i = true ∧ withheld u i = none := fun u hu => by
    have hclu : clu u i.c = clu s i.c := by rw [clu, clu, hu]
    unfold resident withheld crw
    rw [hclu]
    refine ⟨hthere, ?_⟩
    split
    next hr => exact hshown hr
    · rfl
  unfold afterRelease
  dsimp only
  rw [hflush, hunsent, outstanding_of_none (s := setHf s (cluTower i.c) x) hreq hset, hheld, htake, hhf]
  rw [Bool.and_false, Bool.and_false, if_neg Bool.false_ne_true, if_neg Bool.false_ne_true, if_neg Bool.false_ne_true]
  split
  · obtain ⟨hstays, hshows⟩ := hcrews (setHf (setHf s (cluTower i.c) x) (cluTower i.c) { x with failures := [] }) rfl
    rw [List.foldl_nil, hstays, hshows, if_neg Bool.noConfusion]
    exact ⟨_, hset.mset (t := cluTower i.c) (x := { x with failures := [] }) hxwaiting, rfl⟩
  · obtain ⟨hstays, hshows⟩ := hcrews (setHf s (cluTower i.c) x) rfl
    rw [List.foldl_nil, hstays, hshows, if_neg Bool.noConfusion]
    exact ⟨_, hset, rfl⟩

theorem laneAt_headframes (s : State) (m : Map Headframe) (i : Ins) (k : XKind) (l : Nat) : laneAt { s with headframes := m } i k l = laneAt s i k l := by
  unfold laneAt
  dsimp only
  rw [show rawAddr { s with headframes := m } i l = rawAddr s i l from rfl]
  rfl

theorem atomAddr_headframes (s : State) (m : Map Headframe) (i : Ins) (l : Nat) : atomAddr { s with headframes := m } i l = atomAddr s i l :=
  congrArg LaneAt.addr (laneAt_headframes s m i _ l)

end Sys2Proof.Machine
end

section
/-! What an atomic leaves, lane by lane (R117, R118, R120, R149), and its checks. -/
namespace Sys2Proof.Machine
open Sys2Proof

/-! ### Updates of a crew -/

/-- An update of a crew leaves memory, the L1 caches and what crews wait for. -/
theorem updCrew_leaves (s : State) (c k : Nat) (f : Crew → Crew) :
    (updCrew s c k f).mem = s.mem ∧ (∀ d, (clu (updCrew s c k f) d).l1 = (clu s d).l1)
      ∧ ∀ d j dst, outstanding (updCrew s c k f) d j dst = outstanding s d j dst := by
  unfold updCrew
  split
  · refine ⟨rfl, fun d => ?_, fun _ _ _ => rfl⟩
    rw [clu_setClu]
    split
    next h => subst h; rfl
    · rfl
  · exact ⟨rfl, fun _ => rfl, fun _ _ _ => rfl⟩

theorem updCrew_clocks (s : State) (c k : Nat) (f : Crew → Crew) : (updCrew s c k f).pace = s.pace ∧ (updCrew s c k f).cycles = s.cycles := by
  unfold updCrew
  split <;> exact ⟨rfl, rfl⟩

theorem resident_updCrew {s : State} {i : Ins} (h : resident s i = true) (f : Crew → Crew) : resident (updCrew s i.c i.slot f) i = true := by
  unfold resident at h ⊢
  rw [mfind_crews_updCrew, if_pos ⟨rfl, rfl⟩, Option.isSome_map]
  exact h

/-! ### Checks of the word and of the operands (R129, R132, R137, R141) -/

theorem of_performs {s : State} {c k w ext : Nat} {codes : List Nat} (h : Safety.performs s c k w ext codes = true) :
    mayIssue s c k = true ∧ codes = [] := by
  simp only [Safety.performs, Bool.and_eq_true, beq_iff_eq] at h
  obtain ⟨⟨⟨⟨⟨⟨⟨hmay, -⟩, -⟩, -⟩, hcodes⟩, -⟩, -⟩, -⟩ := h
  exact ⟨hmay, hcodes⟩

theorem of_mayIssue {s : State} {c k : Nat} (h : mayIssue s c k = true) :
    (mfind (clu s c).crews k).isSome = true ∧ outstanding s c k true = false := by
  unfold mayIssue at h
  split at h
  · exact absurd h nofun
  next x hx =>
    simp only [Bool.and_eq_true, Bool.not_eq_true'] at h
    exact ⟨by rw [hx]; rfl, h.2⟩

/-- A word of the memory class that raises nothing by its bits: an access has four or eight bytes where an atomic or a `WAIT` makes it,
four where `FADD` does; a result goes to vector registers; a condition is one of the eight. -/
theorem of_memCodes {x : Crew} {i : Ins} (h : memCodes x i = []) :
    (i.op = 2 ∨ 4 ≤ i.op → i.size = 4 ∨ i.size = 8) ∧ (i.op = 0xC → i.size = 4) ∧ (4 ≤ i.op → i.ret = true → opKind (i.o 0) = .vec)
      ∧ (i.op = 2 → i.o 0 ≤ 7) := by
  have hnone : ∀ {b : Bool} {n : Nat}, (if b = true then [n] else []) = [] → b = false := fun {b _} h => by
    cases b
    · rfl
    · exact absurd h nofun
  unfold memCodes at h
  simp only [List.append_eq_nil_iff] at h
  obtain ⟨⟨⟨⟨⟨⟨hillegal, hoperand⟩, -⟩, -⟩, -⟩, -⟩, -⟩ := h
  have hillegal := hnone hillegal
  have hoperand := hnone hoperand
  simp only [List.any_cons, List.any_nil, Bool.or_eq_false_iff, beq_eq_false_iff_ne, ne_eq, Bool.not_eq_true] at hillegal hoperand
  obtain ⟨-, -, -, -, -, -, -, -, -, -, -, hwait, hatom, -⟩ := hillegal
  obtain ⟨-, -, -, hvec, -⟩ := hoperand
  simp only [Ins.atom, Bool.and_eq_false_imp, Bool.or_eq_false_iff, Bool.not_eq_false', Bool.or_eq_true, Bool.and_eq_true, beq_iff_eq, bne_iff_ne,
    decide_eq_true_eq, decide_eq_false_iff_not, bne_eq_false_iff_eq, Bool.not_eq_true', not_lt] at hwait hatom hvec
  refine ⟨fun h => ?_, fun h => ?_, fun h hret => ?_, fun h => ?_⟩
  · rcases h with h | h
    · exact (hwait h).1
    · exact (hatom h).1.1
  · exact (hatom (by omega)).1.2 h
  · exact hvec ⟨⟨by omega, .inr hret⟩, h⟩
  · exact (hwait h).2

theorem addr_laneAt (s : State) (i : Ins) (k : XKind) (l : Nat) : (laneAt s i k l).addr = (rawAddr s i l).1 % 2 ^ 48 := by
  unfold laneAt
  dsimp only
  split <;> rfl

/-- Operands that raise nothing give aligned addresses. -/
theorem aligned_of_memExcs {s : State} {i : Ins} (h : memExcs s i = []) (hsize : i.size = 4 ∨ i.size = 8) (k : XKind) {l : Nat} (hl : l ∈ i.acting) :
    (laneAt s i k l).addr % i.size = 0 := by
  unfold memExcs at h
  simp only [List.append_eq_nil_iff] at h
  obtain ⟨⟨⟨hmis, -⟩, -⟩, -⟩ := h
  split at hmis
  next hnone =>
    have hraw := List.filter_eq_nil_iff.mp hnone l hl
    rw [decide_eq_true_eq, not_not] at hraw
    rw [addr_laneAt]
    rcases hsize with h | h <;> rw [h] at hraw ⊢ <;> omega
  · exact absurd hmis nofun

theorem acting_sub (i : Ins) {l : Nat} (h : l ∈ i.acting) : l < 32 := by
  have : l ∈ lanesOf i.lanes := by
    unfold Ins.acting at h
    split at h
    · exact List.mem_of_mem_take h
    · exact h
  exact (mem_lanesOf.mp this).1

/-! ### What an atomic leaves -/

/-- The value that operations of lanes, one after another, leave of an old one. -/
def upto (f : Nat → Nat → Nat → Nat → Nat) (s : State) (i : Ins) (ls : List Nat) (old : Nat) : Nat :=
  ls.foldl (fun v l => f (8 * i.size) v (atomOperand s i l).1 (atomOperand s i l).2.1) old

/-- Between two states an atomic whose operation is `f` was performed on the module's memory. -/
structure AtomLeaves (f : Nat → Nat → Nat → Nat → Nat) (s : State) (i : Ins) (t : State) : Prop where
  past : ∀ p, Safety.whole (crw s i.c i.slot) p → (crw t i.c i.slot).run = some { p with pc := i.pc + 8 * i.len, wait := none }
  value : ∀ l ∈ i.acting, readNat t (atomAddr s i l) i.size
    = upto f s i (i.acting.filter fun m => atomAddr s i m == atomAddr s i l)
      (readNat s (atomAddr s i l) i.size)
  outside : ∀ b, (∀ l ∈ i.acting, b < atomAddr s i l ∨ atomAddr s i l + i.size ≤ b) →
    readMem t b 1 = readMem s b 1
  noRet : i.ret = false → Safety.keepsRegs (crw s i.c i.slot) (crw t i.c i.slot) 256 0 64 8
  others : i.ret = true → Safety.keepsOthers (crw s i.c i.slot) (crw t i.c i.slot) (max 32 (8 * i.size)) (i.o 0)
  stays : i.ret = true → ∀ l, l < 32 → l ∉ i.acting → srcLane t i (max 32 (8 * i.size)) (i.o 0) l = srcLane s i (max 32 (8 * i.size)) (i.o 0) l
  found : i.ret = true → ∀ l ∈ i.acting, srcLane t i (max 32 (8 * i.size)) (i.o 0) l =
    (upto f s i (i.acting.filter fun m => decide (m < l) && atomAddr s i m == atomAddr s i l)
      (readNat s (atomAddr s i l) i.size), false)
  l1 : ∀ x ∈ (clu t i.c).l1, ∀ l ∈ i.acting, x.line ≠ atomAddr s i l / 128
  acquires : i.ord = 1 ∨ i.ord = 3 → i.scope ≠ 0 → (clu t i.c).l1 = []

/-- What the headframes hold does not matter to it. -/
theorem AtomLeaves.of_headframes {f : Nat → Nat → Nat → Nat → Nat} {s : State} {i : Ins} {t : State} {m : Map Headframe}
    (h : AtomLeaves f { s with headframes := m } i t) : AtomLeaves f s i t := by
  obtain ⟨hpast, hvalue, houtside, hnoRet, hothers, hstays, hfound, hl1, hacquires⟩ := h
  simp only [atomAddr_headframes] at hvalue houtside hfound hl1
  exact ⟨hpast, hvalue, houtside, hnoRet, hothers, hstays, hfound, hl1, hacquires⟩

/-- A register operand of an atomic fits the width. -/
theorem atomOperand_lt (s : State) (i : Ins) (l : Nat) : (atomOperand s i l).1 < 2 ^ (8 * i.size) ∧ (atomOperand s i l).2.1 < 2 ^ (8 * i.size) := by
  have hn : 1 ≤ 8 * i.size := by have : 0 < 2 ^ fld i.w 57 55 := Nat.two_pow_pos _; unfold Ins.size; omega
  unfold atomOperand
  split
  · exact ⟨srcLane_lt s i hn _ l, srcLane_lt s i hn _ l⟩
  · exact ⟨srcLane_lt s i hn _ l, Nat.two_pow_pos _⟩

theorem foldl_next {op} (hop : op ∈ atomOps) {s : State} {i : Ins} (hcode : i.op = op.2.1) (hfadd : i.op = 0xC → i.size = 4) (ls : List Nat) {v : Nat}
    (hv : v < 2 ^ (8 * i.size)) : ls.foldl (atomJob s i).next v = upto op.2.2 s i ls v ∧ upto op.2.2 s i ls v < 2 ^ (8 * i.size) := by
  have hn : 1 ≤ 8 * i.size := by have : 0 < 2 ^ fld i.w 57 55 := Nat.two_pow_pos _; unfold Ins.size; omega
  unfold upto
  induction ls generalizing v with
  | nil => exact ⟨rfl, hv⟩
  | cons l ls ih =>
    obtain ⟨hx, hy⟩ := atomOperand_lt s i l
    obtain ⟨heq, hlt⟩ := atomOp_of_mem hop hn (fun h => by rw [hfadd (hcode.trans h)]) hv hx hy
    have hnext : (atomJob s i).next v l = op.2.2 (8 * i.size) v (atomOperand s i l).1 (atomOperand s i l).2.1 := by
      rw [← heq, ← hcode]
      rfl
    rw [List.foldl_cons, List.foldl_cons, hnext]
    exact ih hlt

/-- The crew after an atomic: its values are put, its path is moved on. -/
theorem crw_atomDone {u : State} {i : Ins} (hthere : resident u i = true) (ds : List LaneDone) :
    crw (acquiredBy (step1 (if i.ret then putLanes u i ds else u) i) i.c i.slot i.w) i.c i.slot
      = (if i.ret then ds.foldl (Crew.putDone (dataWidth (i.o 0) i.size) (i.o 0)) (crw u i.c i.slot) else crw u i.c i.slot).goto (i.pc + 8 * i.len) := by
  have hkeeps : ∀ v, crw (acquiredBy v i.c i.slot i.w) i.c i.slot = crw v i.c i.slot := fun v => by
    rw [crw, crw, (acquiredBy_leaves v i.c i.slot i.w).1 i.c]
  have hstep : ∀ v, resident v i = true → crw (step1 v i) i.c i.slot = (crw v i.c i.slot).goto (i.pc + 8 * i.len) := fun v hv =>
    crw_updCrew_self hv _
  rw [hkeeps]
  split
  · rw [putLanes_eq, hstep _ (resident_updCrew hthere _), crw_updCrew_self hthere]
  · exact hstep u hthere

/-- The rest of the module after an atomic's accesses. -/
theorem atomDone_leaves (u : State) (i : Ins) (ds : List LaneDone) :
    let v := step1 (if i.ret then putLanes u i ds else u) i
    v.mem = u.mem ∧ (∀ d, (clu v d).l1 = (clu u d).l1) ∧ ∀ d j dst, outstanding v d j dst = outstanding u d j dst := by
  dsimp only
  unfold step1
  split
  · obtain ⟨hmem, hl1, hout⟩ := updCrew_leaves u i.c i.slot fun x => ds.foldl (Crew.putDone (dataWidth (i.o 0) i.size) (i.o 0)) x
    obtain ⟨hmem', hl1', hout'⟩ := updCrew_leaves (putLanes u i ds) i.c i.slot fun x => x.goto (i.pc + 8 * i.len)
    exact ⟨hmem'.trans hmem, fun d => (hl1' d).trans (hl1 d), fun d j dst => (hout' d j dst).trans (hout d j dst)⟩
  · exact updCrew_leaves u i.c i.slot _

/-- An instruction with an acquire part empties the L1 at CLUSTER scope or wider. -/
theorem l1_acquiredBy {s : State} {i : Ins} (hmajor : fld i.w 63 58 = 0x10) (hop : i.op ≠ 2) (hord : i.ord = 1 ∨ i.ord = 3) (hscope : i.scope ≠ 0)
    (hthere : resident s i = true) (hfree : outstanding s i.c i.slot true = false) : (clu (acquiredBy s i.c i.slot i.w) i.c).l1 = [] := by
  have hbit : bit i.w 5 = true := by
    unfold Ins.ord fld at hord
    unfold bit
    rw [Nat.testBit_eq_decide_div_mod_eq, decide_eq_true_eq, ← Nat.shiftRight_eq_div_pow]
    omega
  unfold acquiredBy
  rw [if_pos ⟨hmajor, hop, hbit, hthere, hfree⟩]
  exact l1_acquire s i.c hscope

/-- An atomic applied to the module's memory leaves that. -/
theorem atomLeaves_of_applied {op} (hop : op ∈ atomOps) {s : State} {i : Ins} (hcode : i.op = op.2.1) (hmajor : fld i.w 63 58 = 0x10)
    (hcodes : memCodes (crw s i.c i.slot) i = []) (hthere : resident s i = true) (hfree : outstanding s i.c i.slot true = false)
    {r : State × List LaneDone} {ts : List Nat} (h : (atomJob s i).Applied ts s r)
    (hmem : ∀ l ∈ i.acting, atomAddr s i l ∈ ts) (hts : ∀ a ∈ ts, ∃ l ∈ i.acting, atomAddr s i l = a) :
    AtomLeaves op.2.2 s i (acquiredBy (step1 (if i.ret then putLanes r.1 i r.2 else r.1) i) i.c i.slot i.w) := by
  have hop4 : 4 ≤ i.op := hcode ▸ (isAtom_of_mem hop).1
  obtain ⟨hsizes, hfadd, hvec, -⟩ := of_memCodes hcodes
  have hsize := hsizes (.inr hop4)
  have hbytes : 256 ^ i.size = 2 ^ (8 * i.size) := by rw [Nat.pow_mul]
  have hold : ∀ a, readNat s a i.size < 2 ^ (8 * i.size) := fun a => hbytes ▸ readNat_lt s a i.size
  have hthere' : resident r.1 i = true := (h.steps.resident i).trans hthere
  have hcrw := crw_atomDone hthere' r.2
  obtain ⟨hmem', hl1', hout'⟩ := atomDone_leaves r.1 i r.2
  have hresident : resident (step1 (if i.ret then putLanes r.1 i r.2 else r.1) i) i = true := by
    refine resident_updCrew ?_ _
    split
    · exact resident_updCrew hthere' _
    · exact hthere'
  obtain ⟨-, hmem'', hl1''⟩ := acquiredBy_leaves (step1 (if i.ret then putLanes r.1 i r.2 else r.1) i) i.c i.slot i.w
  have hacquires : i.ord = 1 ∨ i.ord = 3 → i.scope ≠ 0 → _ := fun hord hscope =>
    l1_acquiredBy (s := step1 (if i.ret then putLanes r.1 i r.2 else r.1) i) hmajor (by omega) hord hscope hresident
      (by rw [hout', h.steps.waits, hfree])
  rw [h.steps.crw] at hcrw
  generalize acquiredBy (step1 (if i.ret then putLanes r.1 i r.2 else r.1) i) i.c i.slot i.w = t at hcrw hmem'' hl1'' hacquires ⊢
  have hgives : Gives ((atomJob s i).prior s) r.2 := fun d hd => by
    obtain ⟨hlane, -, hst, hpz, hval⟩ := h.done d hd
    exact ⟨hst, hpz, acting_sub i hlane, hval⟩
  have hlanes : ∀ l, l ∈ r.2.map (·.lane) ↔ l ∈ i.acting := fun l => by
    constructor
    · intro hl
      obtain ⟨d, hd, rfl⟩ := List.mem_map.mp hl
      exact (h.done d hd).1
    · exact fun hl => h.all _ (hmem l hl) l (List.mem_filter.mpr ⟨hl, beq_self_eq_true _⟩)
  have hread : ∀ a n, readMem t a n = readMem r.1 a n := fun a n => readMem_of_mem (hmem''.trans hmem') a n
  have hregs : i.ret = true → opKind (i.o 0) = .vec ∧ dataWidth (i.o 0) i.size = max 32 (8 * i.size)
      ∧ (r.2.foldl (Crew.putDone (max 32 (8 * i.size)) (i.o 0)) (crw s i.c i.slot)).SameRegs (crw t i.c i.slot) := fun hret => by
    have hdst := hvec hop4 hret
    have hwd : dataWidth (i.o 0) i.size = max 32 (8 * i.size) := by unfold dataWidth; rw [hdst, if_neg nofun]
    rw [if_pos hret, hwd] at hcrw
    rw [hcrw]
    exact ⟨hdst, hwd, .of_still (Crew.still_goto _ _)⟩
  have hwd : max 32 (8 * i.size) = 32 ∨ max 32 (8 * i.size) = 64 := by rcases hsize with h | h <;> rw [h] <;> decide
  have hle : 2 ^ (8 * i.size) ≤ 2 ^ max 32 (8 * i.size) := Nat.pow_le_pow_right (by decide) (le_max_right _ _)
  refine ⟨fun p hp => ?_, fun l hl => ?_, fun b hb => ?_, fun hret => ?_, fun hret => ?_, fun hret l hl hlane => ?_, fun hret l hl => ?_, fun x hx l hl => ?_,
    fun hord hscope => hacquires hord hscope⟩
  · obtain ⟨hrun, hdivs, -, -, -, hxdivs⟩ := hp
    have hy : (crw s i.c i.slot).onlyVec (if i.ret then r.2.foldl (Crew.putDone (dataWidth (i.o 0) i.size) (i.o 0)) (crw s i.c i.slot) else crw s i.c i.slot) := by
      split
      next hret => exact Crew.onlyVec_putDone (hregs hret).1 _ hgives _
      · exact rfl
    generalize (if i.ret then _ else _ : Crew) = y at hcrw hy
    rw [hcrw, Crew.goto_of_undiverged (p := p) (by rw [hy]; exact hrun) hdivs (by rw [hy]; exact hxdivs)]
  · obtain ⟨heq, hlt⟩ := foldl_next hop hcode hfadd ((atomJob s i).group (atomAddr s i l)) (hold (atomAddr s i l))
    have hvalue := h.value _ (hmem l hl)
    rw [AtomJob.final, show (atomJob s i).i = i from rfl, heq, hbytes, Nat.mod_eq_of_lt hlt] at hvalue
    rw [readNat, hread]
    exact hvalue
  · have hget := h.outside b fun a ha => by
      obtain ⟨l, hl, rfl⟩ := hts a ha
      exact hb l hl
    rw [hread]
    simp only [readMem, List.range_one, List.map_cons, List.map_nil, Nat.add_zero, hget]
  · rw [if_neg (by rw [hret]; exact Bool.false_ne_true)] at hcrw
    rw [hcrw]
    exact (Crew.SameRegs.of_still (Crew.still_goto _ _)).keepsRegs _ _ _ _
  · obtain ⟨hdst, -, hsame⟩ := hregs hret
    exact keepsOthers_putDone hdst _ hgives hsame
  · obtain ⟨hdst, -, hsame⟩ := hregs hret
    exact srcLane_putDone_other hdst hgives hsame hl fun hin => hlane ((hlanes l).mp hin)
  · obtain ⟨hdst, -, hsame⟩ := hregs hret
    obtain ⟨heq, hlt⟩ := foldl_next hop hcode hfadd (((atomJob s i).group (atomAddr s i l)).filter fun m => decide (m < l))
      (hold (atomAddr s i l))
    have hprior : (atomJob s i).prior s l = _ := heq
    rw [srcLane_putDone hdst hgives hsame hwd (acting_sub i hl) ((hlanes l).mpr hl) (by rw [hprior]; exact hlt.trans_le hle), hprior, AtomJob.group,
      List.filter_filter]
    rfl
  · exact h.l1 _ (hmem l hl) x (hl1' i.c ▸ hl1'' i.c hx)

/-- What an atomic of lanes that go to the module's memory does. -/
theorem atomLanes_leaves {op} (hop : op ∈ atomOps) {errs : List (Nat × Nat)} (herrs : ∀ e ∈ errs, e.2 ≤ 1) {s : State} {i : Ins} (hcode : i.op = op.2.1)
    (hmajor : fld i.w 63 58 = 0x10) (hcodes : memCodes (crw s i.c i.slot) i = []) (hexcs : memExcs s i = []) (hthere : resident s i = true)
    (hfree : outstanding s i.c i.slot true = false) (hcalm : Safety.calm s) (hpoison : s.poison = [])
    (hlocal : AllLocal s (i.acting.map (laneAt s i (.atom i.op i.ret)))) (hopnd : ∀ l ∈ i.acting, (atomOperand s i l).2.2 = false) :
    AtomLeaves op.2.2 s i (atomLanes errs s i) := by
  have hsize := (of_memCodes hcodes).1 (.inr (hcode ▸ (isAtom_of_mem hop).1))
  obtain ⟨r, ts, happlied, hmem, hts, heq⟩ := atomLanes_eq herrs hcalm hpoison hlocal (fun l hl => aligned_of_memExcs hexcs hsize _ hl) hopnd
  rw [heq]
  exact atomLeaves_of_applied hop hcode hmajor hcodes hthere hfree happlied hmem hts

/-- And with the release before it, where nothing holds that back. -/
theorem atomBody_leaves {op} (hop : op ∈ atomOps) {errs : List (Nat × Nat)} (herrs : ∀ e ∈ errs, e.2 ≤ 1) {s : State} {i : Ins} (hcode : i.op = op.2.1)
    (hmajor : fld i.w 63 58 = 0x10) (hcodes : memCodes (crw s i.c i.slot) i = []) (hexcs : memExcs s i = []) (hthere : resident s i = true)
    (hfree : outstanding s i.c i.slot true = false) (hcalm : Safety.calm s) (hpoison : s.poison = []) (hacting : i.acting ≠ [])
    (hlocal : AllLocal s (i.acting.map (laneAt s i (.atom i.op i.ret)))) (hopnd : ∀ l ∈ i.acting, (atomOperand s i l).2.2 = false)
    (hquiet : 2 ≤ i.ord → Safety.quiet s i.c i.slot) : AtomLeaves op.2.2 s i (atomBody errs s i) := by
  have hlanes : i.lanes ≠ 0#32 := fun h => hacting <| by
    unfold Ins.acting lanesOf
    rw [h]
    simp
  unfold atomBody
  rw [if_neg hlanes]
  split
  next hord =>
    obtain ⟨-, -, -, hreq, -⟩ := hquiet hord
    obtain ⟨m, hm, heq⟩ := afterRelease_of_quiet (hquiet hord) hthere i.acting _ fun s => atomLanes errs s i
    dsimp only at heq ⊢
    rw [heq]
    refine (atomLanes_leaves hop herrs (s := { s with headframes := m }) hcode hmajor hcodes hexcs hthere ?_ hcalm hpoison ?_ hopnd).of_headframes
    · exact outstanding_of_none (s := { s with headframes := m }) hreq hm _ _ _
    · intro x hx
      obtain ⟨l, hl, rfl⟩ := List.mem_map.mp hx
      rw [laneAt_headframes]
      exact hlocal _ (List.mem_map_of_mem hl)
  · exact atomLanes_leaves hop herrs hcode hmajor hcodes hexcs hthere hfree hcalm hpoison hlocal hopnd

end Sys2Proof.Machine
end

section
/-! `WAIT` and its polls (R146, R147): the lanes' values are read past the L1, and the lanes whose condition holds are waited for no more. -/
namespace Sys2Proof.Machine
open Sys2Proof

/-! ### Reads of lanes past the L1 (R112, R140) -/

/-- The span of accesses covers each of them. -/
theorem spanOf_covers {ls : List LaneAt} {size : Nat} {x : LaneAt} (hx : x ∈ ls) : (spanOf ls size).1 ≤ x.addr ∧ x.addr + size ≤ (spanOf ls size).2 := by
  unfold spanOf
  generalize ((ls.headD ⟨0, 0, 0, none, 0⟩).addr, 0) = m
  have hstart : ∀ (ls : List LaneAt) (m : Nat × Nat), (ls.foldl (fun m x => (min m.1 x.addr, max m.2 (x.addr + size))) m).1 ≤ m.1
      ∧ m.2 ≤ (ls.foldl (fun m x => (min m.1 x.addr, max m.2 (x.addr + size))) m).2 := by
    intro ls
    induction ls with
    | nil => exact fun m => ⟨le_refl _, le_refl _⟩
    | cons y ls ih =>
      intro m
      obtain ⟨hlo, hhi⟩ := ih (min m.1 y.addr, max m.2 (y.addr + size))
      exact ⟨hlo.trans (min_le_left _ _), (le_max_left _ _).trans hhi⟩
  induction ls generalizing m with
  | nil => exact absurd hx List.not_mem_nil
  | cons y ls ih =>
    rcases List.mem_cons.mp hx with rfl | hx
    · obtain ⟨hlo, hhi⟩ := hstart ls (min m.1 x.addr, max m.2 (x.addr + size))
      exact ⟨hlo.trans (min_le_right _ _), (le_max_right _ _).trans hhi⟩
    · exact ih hx _

/-- A completed read of a lane. -/
def readDone (s : State) (i : Ins) (x : LaneAt) : LaneDone := { lane := x.lane, st := 0, val := readNat s x.addr i.size, pz := false, addr := x.raw }

/-- The lanes of one line, read past the L1. -/
theorem readLine_clean {s : State} (h : Clean s) (i : Ins) (mine : List LaneAt) (line : Nat) :
    CrewSteps s (readLine s i false mine line).1 ∧ (readLine s i false mine line).1.mem = s.mem ∧ (readLine s i false mine line).2 = mine.map (readDone s i) := by
  obtain ⟨hread, hsteps, hmem⟩ := memRead_clean h (spanOf mine i.size).1 ((spanOf mine i.size).2 - (spanOf mine i.size).1)
  unfold readLine
  dsimp only
  rw [Bool.false_and, if_neg Bool.false_ne_true, hread]
  refine ⟨hsteps, hmem, List.map_congr_left fun x hx => ?_⟩
  obtain ⟨hlo, hhi⟩ := spanOf_covers (size := i.size) hx
  have hclean := hsteps.clean h
  simp only [hclean.sound, poisoned_of_none hclean.poison, Bool.or_false, Bool.false_eq_true, if_false]
  rw [drop_take_readMem s _ (by omega), Nat.add_sub_cancel' hlo]
  rfl

/-- Lines of accesses, read one after another. -/
theorem foldl_readLine_clean (i : Ins) (ram : List LaneAt) (lines : List Nat) {s : State} (h : Clean s) (ds : List LaneDone) :
    let r := lines.foldl (fun (acc : State × List LaneDone) l =>
      ((readLine acc.1 i false (ram.filter fun x => x.addr / 128 == l) l).1, acc.2 ++ (readLine acc.1 i false (ram.filter fun x => x.addr / 128 == l) l).2)) (s, ds)
    CrewSteps s r.1 ∧ r.1.mem = s.mem ∧ r.2 = ds ++ lines.flatMap fun l => (ram.filter fun x => x.addr / 128 == l).map (readDone s i) := by
  induction lines generalizing s ds with
  | nil => exact ⟨.refl s, rfl, by simp⟩
  | cons l lines ih =>
    obtain ⟨hsteps, hmem, hdone⟩ := readLine_clean h i (ram.filter fun x => x.addr / 128 == l) l
    obtain ⟨hrest, hrestmem, hrestdone⟩ := ih (hsteps.clean h) (ds ++ (readLine s i false (ram.filter fun x => x.addr / 128 == l) l).2)
    have hsame : readDone (readLine s i false (ram.filter fun x => x.addr / 128 == l) l).1 i = readDone s i := by
      funext x
      unfold readDone readNat
      rw [readMem_of_mem hmem]
    rw [List.foldl_cons]
    dsimp only at hrest hrestmem hrestdone ⊢
    refine ⟨hsteps.trans hrest, hrestmem.trans hmem, ?_⟩
    rw [hrestdone, hsame, hdone, List.flatMap_cons, List.append_assoc]

/-- Lanes that go to the module's memory, read past the L1: each once, with its value. -/
theorem readLanes_clean {s : State} (h : Clean s) (i : Ins) {ls : List LaneAt} (hlocal : AllLocal s ls) :
    CrewSteps s (readLanes s i false ls).1 ∧ (readLanes s i false ls).1.mem = s.mem
      ∧ ∀ d, d ∈ (readLanes s i false ls).2 ↔ ∃ x ∈ ls, d = readDone s i x := by
  unfold readLanes
  dsimp only
  rw [toMemory_of_allLocal hlocal, toRegs_of_allLocal hlocal, failedLanes_of_allLocal hlocal, List.foldl_nil]
  generalize hwaves : (if (ownSlm s i.c ls).isEmpty then s else _ : State) = u
  have hcount : CrewSteps s u ∧ u.mem = s.mem := by
    rw [← hwaves]
    split
    · exact ⟨.refl s, rfl⟩
    · exact ⟨.setClu s i.c rfl (List.Subset.refl _), rfl⟩
  have hsame : readDone u i = readDone s i := by
    funext x
    unfold readDone readNat
    rw [readMem_of_mem hcount.2]
  obtain ⟨hsteps, hmem, hdone⟩ := foldl_readLine_clean i ls (linesOf ls) (hcount.1.clean h) []
  refine ⟨hcount.1.trans hsteps, hmem.trans hcount.2, fun d => ?_⟩
  have hlines : ∀ x ∈ ls, x.addr / 128 ∈ linesOf ls := fun x hx => by
    unfold linesOf
    rw [← List.foldl_map (f := fun x : LaneAt => x.addr / 128) (g := addOnce), mem_foldl_addOnce]
    exact .inr (List.mem_map_of_mem hx)
  rw [hdone, hsame, List.nil_append, List.mem_flatMap]
  constructor
  · rintro ⟨l, -, hd⟩
    obtain ⟨x, hx, rfl⟩ := List.mem_map.mp hd
    exact ⟨x, (List.mem_filter.mp hx).1, rfl⟩
  · rintro ⟨x, hx, rfl⟩
    exact ⟨x.addr / 128, hlines x hx, List.mem_map_of_mem (List.mem_filter.mpr ⟨hx, beq_self_eq_true _⟩)⟩

/-! ### A round of polls -/

/-- Whether the condition of a `WAIT` holds in a lane. -/
def pollHolds (s : State) (i : Ins) (l : Nat) : Bool :=
  waitHolds (i.o 0) (8 * i.size) (readNat s (laneAt s i .load l).addr i.size) (srcLane s i (8 * i.size) (i.o 3) l).1

/-- The running path waits for the lanes of `m`. -/
def Crew.waitFor (m : Option W32 → Option W32) (x : Crew) : Crew := { x with run := x.run.map fun (p : Path) => { p with wait := m p.wait } }

theorem Crew.waitFor_of_run {x : Crew} {p : Path} (h : x.run = some p) (m : Option W32 → Option W32) :
    x.waitFor m = { x with run := some { p with wait := m p.wait } } := by
  unfold Crew.waitFor
  rw [h]
  rfl

/-- Polls without a fault only take lanes off those waited for. -/
theorem pollLanes_of_read (s : State) (i : Ins) {rs : List (Nat × Nat × Nat × Nat)} (h : ∀ r ∈ rs, r.2.1 = 0) :
    pollLanes s i rs = updCrew s i.c i.slot (Crew.waitFor (Option.map fun m => m &&& ~~~maskOf
      ((rs.filter fun r => waitHolds (i.o 0) (8 * i.size) (r.2.2.1 % 2 ^ (8 * i.size)) (srcLane s i (8 * i.size) (i.o 3) r.1).1).map (·.1)))) := by
  have hends : (rs.filter fun r => isFault r.2.1 || waitHolds (i.o 0) (8 * i.size) (r.2.2.1 % 2 ^ (8 * i.size)) (srcLane s i (8 * i.size) (i.o 3) r.1).1)
      = rs.filter fun r => waitHolds (i.o 0) (8 * i.size) (r.2.2.1 % 2 ^ (8 * i.size)) (srcLane s i (8 * i.size) (i.o 3) r.1).1 :=
    List.filter_congr fun r hr => by rw [h r hr]; rfl
  unfold pollLanes
  dsimp only
  rw [hends, report_of_applied fun r hr => by obtain ⟨q, hq, rfl⟩ := List.mem_map.mp hr; exact h q hq]
  rfl

/-- The lanes that polls end for. -/
theorem mem_ends {s u v : State} {i : Ins} {left : W32} {ds : List LaneDone} (hmem : u.mem = s.mem)
    (hsrc : ∀ wd code l, srcLane v i wd code l = srcLane s i wd code l)
    (hdone : ∀ d, d ∈ ds ↔ ∃ x ∈ (lanesOf left).map (laneAt s i .load), d = readDone u i x) (l : Nat) :
    l ∈ ((ds.map fun d => (d.lane, d.st, d.val, d.addr)).filter fun r =>
        waitHolds (i.o 0) (8 * i.size) (r.2.2.1 % 2 ^ (8 * i.size)) (srcLane v i (8 * i.size) (i.o 3) r.1).1).map (·.1)
      ↔ l ∈ lanesOf left ∧ pollHolds s i l = true := by
  have hval : ∀ a, readNat u a i.size % 2 ^ (8 * i.size) = readNat s a i.size := fun a => by
    have hlt := readNat_lt u a i.size
    rw [show 256 = 2 ^ 8 from rfl, ← Nat.pow_mul] at hlt
    rw [Nat.mod_eq_of_lt hlt, readNat, readMem_of_mem hmem]
    rfl
  simp only [List.mem_map, List.mem_filter, hsrc]
  constructor
  · rintro ⟨-, ⟨⟨d, hd, rfl⟩, hholds⟩, rfl⟩
    obtain ⟨x, hx, rfl⟩ := (hdone d).mp hd
    obtain ⟨l, hl, rfl⟩ := List.mem_map.mp hx
    dsimp only [readDone] at hholds ⊢
    rw [hval, lane_laneAt] at hholds
    rw [lane_laneAt]
    exact ⟨hl, hholds⟩
  · rintro ⟨hl, hholds⟩
    refine ⟨_, ⟨⟨_, (hdone _).mpr ⟨_, List.mem_map_of_mem hl, rfl⟩, rfl⟩, ?_⟩, lane_laneAt s i .load l⟩
    dsimp only [readDone]
    rw [hval, lane_laneAt]
    exact hholds

/-- A round of polls on this module's memory: it ends with the lanes left whose condition does not hold. -/
theorem poll_eq {errs : List (Nat × Nat)} (herrs : ∀ e ∈ errs, e.2 ≤ 1) {s : State} {i : Ins} {left : W32} {p : Path} (hcalm : Safety.calm s)
    (hpoison : s.poison = []) (hlocal : AllLocal s ((lanesOf left).map (laneAt s i .load))) (hthere : resident s i = true)
    (hfree : outstanding s i.c i.slot true = false) (hrun : (crw s i.c i.slot).run = some p) :
    ∃ w m, poll errs s i left = endPoll w i ∧ resident w i = true ∧ crw w i.c i.slot = { crw s i.c i.slot with run := some { p with wait := some m } }
      ∧ w.mem = s.mem ∧ ∀ l, l < 32 → m.getLsbD l = (left.getLsbD l && !pollHolds s i l) := by
  have hclean := clean_of_calm hcalm hpoison
  unfold poll
  dsimp only
  rw [if_neg (by rw [mustWait_of_calm hcalm]; exact Bool.false_ne_true)]
  obtain ⟨hmeet, hmeetmem⟩ := meetErrs_crewSteps herrs s i.c (wordsOf (((lanesOf left).map (laneAt s i .load)).filter fun x => inSlm x.addr) i.size)
  generalize meetErrs s i.c _ errs = u at hmeet hmeetmem ⊢
  have hlocal' := hmeet.allLocal hlocal
  obtain ⟨hread, hreadmem, hdone⟩ := readLanes_clean (hmeet.clean hclean) i hlocal'
  rw [toNodes_of_allLocal hlocal']
  generalize readLanes u i false _ = r at hread hreadmem hdone ⊢
  have hsteps := hmeet.trans hread
  have hmem : r.1.mem = s.mem := hreadmem.trans hmeetmem
  have hthere' : resident r.1 i = true := (hsteps.resident i).trans hthere
  have hset : crw (updCrew r.1 i.c i.slot (Crew.waitFor fun _ => some left)) i.c i.slot = { crw s i.c i.slot with run := some { p with wait := some left } } := by
    rw [crw_updCrew_self hthere', hsteps.crw, Crew.waitFor_of_run hrun]
  obtain ⟨hvmem, -, hvout⟩ := updCrew_leaves r.1 i.c i.slot (Crew.waitFor fun _ => some left)
  have hvthere := resident_updCrew hthere' (Crew.waitFor fun _ => some left)
  have hvsrc : ∀ wd code l, srcLane (updCrew r.1 i.c i.slot (Crew.waitFor fun _ => some left)) i wd code l = srcLane s i wd code l := by
    obtain ⟨hpace, hcycles⟩ := updCrew_clocks r.1 i.c i.slot (Crew.waitFor fun _ => some left)
    exact srcLane_congr (by rw [hset]; exact ⟨rfl, rfl, rfl, rfl, rfl, rfl, rfl⟩) (hpace.trans hsteps.pace) (hcycles.trans hsteps.cycles)
  rw [show (fun x : Crew => { x with run := x.run.map fun (p : Path) => { p with wait := some left } }) = Crew.waitFor fun _ => some left from rfl]
  generalize updCrew r.1 i.c i.slot (Crew.waitFor fun _ => some left) = v at hset hvmem hvout hvthere hvsrc ⊢
  have hends := mem_ends hmeetmem hvsrc hdone
  rw [pollLanes_of_read v i fun q hq => by
    obtain ⟨d, hd, rfl⟩ := List.mem_map.mp hq
    obtain ⟨x, -, rfl⟩ := (hdone d).mp hd
    rfl]
  generalize (((r.2.map _).filter _).map _ : List Nat) = ends at hends ⊢
  obtain ⟨hwmem, -, hwout⟩ := updCrew_leaves v i.c i.slot (Crew.waitFor (Option.map fun m => m &&& ~~~maskOf ends))
  refine ⟨updCrew v i.c i.slot (Crew.waitFor (Option.map fun m => m &&& ~~~maskOf ends)), left &&& ~~~maskOf ends, ?_, resident_updCrew hvthere _, ?_,
    hwmem.trans (hvmem.trans hmem), fun l hl => ?_⟩
  · rw [show ∀ w, sendAll w i (farLoads u i 0x200 []) = w from fun _ => rfl, hwout, hvout, hsteps.waits, hfree, if_neg Bool.false_ne_true]
  · rw [crw_updCrew_self hvthere, hset, Crew.waitFor_of_run rfl]
    rfl
  · rw [BitVec.getLsbD_and, BitVec.getLsbD_not, getLsbD_maskOf ends hl, decide_eq_true hl, Bool.true_and]
    have hmemleft : l ∈ lanesOf left ↔ left.getLsbD l = true := by rw [mem_lanesOf]; exact and_iff_right hl
    rw [Bool.eq_iff_iff]
    simp only [Bool.and_eq_true, Bool.not_eq_true', decide_eq_false_iff_not, hends, hmemleft, not_and, Bool.not_eq_true]
    exact and_congr_right fun h => ⟨fun g => g h, fun g _ => g⟩

end Sys2Proof.Machine
end

section
/-! The end of a round of polls (R146, R147, R380), and atomics and waits as the statement has them. -/
namespace Sys2Proof.Machine
open Sys2Proof

/-! ### The end of a round -/

theorem endPoll_of_run {w : State} {i : Ins} (hthere : resident w i = true) {p : Path} (hrun : (crw w i.c i.slot).run = some p) :
    endPoll w i = if p.wait = some 0#32 then (if i.ord = 1 then acquire (step1 w i) i.c i.scope else step1 w i)
      else updCrew w i.c i.slot fun x => x.backward (max 1 (clu w i.c).rotLimit) i.pc p.wait := by
  obtain ⟨x, hx⟩ := Option.isSome_iff_exists.mp hthere
  rw [crw_of_mfind hx] at hrun
  unfold endPoll
  rw [hx]
  dsimp only
  rw [hrun]
  rfl

section
variable {x : Crew} {w : State} {i : Ins} {p : Path} {m : W32} (hwhole : Safety.whole x p) (hthere : resident w i = true)
  (hcrw : crw w i.c i.slot = { x with run := some { p with wait := some m } })
include hwhole hthere hcrw

/-- A path that waits for no lane goes on, with the acquire of `.ACQ`. -/
theorem endPoll_passes (hm : m = 0#32) :
    (endPoll w i).mem = w.mem ∧ crw (endPoll w i) i.c i.slot = { x with run := some { p with pc := i.pc + 8 * i.len, wait := none } }
      ∧ (i.ord = 1 → i.scope ≠ 0 → (clu (endPoll w i) i.c).l1 = []) := by
  obtain ⟨-, hdivs, -, -, -, hxdivs⟩ := hwhole
  have hrun : (crw w i.c i.slot).run = some { p with wait := some m } := by rw [hcrw]
  have hstep : crw (step1 w i) i.c i.slot = { x with run := some { p with pc := i.pc + 8 * i.len, wait := none } } := by
    have hgoto := Crew.goto_of_undiverged (x := { x with run := some { p with wait := some m } }) (p := { p with wait := some m }) rfl hdivs hxdivs
    rw [step1, crw_updCrew_self hthere, hcrw, hgoto]
  have hstepmem : (step1 w i).mem = w.mem := (updCrew_leaves w i.c i.slot _).1
  obtain ⟨hkeeps, hmem, -⟩ := acquire_leaves (step1 w i) i.c i.scope
  rw [endPoll_of_run hthere hrun, if_pos (congrArg some hm)]
  split
  · refine ⟨hmem.trans hstepmem, ?_, fun _ hscope => l1_acquire _ _ hscope⟩
    rw [crw, hkeeps i.c]
    exact hstep
  next hord => exact ⟨hstepmem, hstep, fun h => absurd h hord⟩

/-- One that still waits counts a taken backward branch. -/
theorem endPoll_waits (hm : m ≠ 0#32) :
    (endPoll w i).mem = w.mem ∧ crw (endPoll w i) i.c i.slot = { x with run := some { p with pc := i.pc, count := p.count + 1, wait := some m } } := by
  obtain ⟨-, hdivs, hpending, -, -, hxdivs⟩ := hwhole
  have hrun : (crw w i.c i.slot).run = some { p with wait := some m } := by rw [hcrw]
  rw [endPoll_of_run hthere hrun, if_neg fun h => hm (Option.some.inj h)]
  have hback := Crew.backward_of_undiverged (x := { x with run := some { p with wait := some m } }) (p := { p with wait := some m }) rfl hdivs hxdivs hpending
  refine ⟨(updCrew_leaves w i.c i.slot _).1, ?_⟩
  rw [crw_updCrew_self hthere, hcrw, hback]

end

/-! ### What a `WAIT` leaves -/

/-- Between two states a `WAIT` of a crew's one path `p` polled the lanes `left`. -/
structure WaitLeaves (s : State) (i : Ins) (p : Path) (left : W32) (t : State) : Prop where
  mem : t.mem = s.mem
  regs : (crw s i.c i.slot).SameRegs (crw t i.c i.slot)
  passes : (∀ l ∈ lanesOf left, pollHolds s i l = true) → (crw t i.c i.slot).run = some { p with pc := i.pc + 8 * i.len, wait := none }
    ∧ (i.ord = 1 → i.scope ≠ 0 → (clu t i.c).l1 = [])
  waits : (∃ l ∈ lanesOf left, pollHolds s i l = false) → ∃ m, (crw t i.c i.slot).run = some { p with pc := i.pc, count := p.count + 1, wait := some m }
    ∧ ∀ l, l < 32 → m.getLsbD l = (left.getLsbD l && !pollHolds s i l)

theorem poll_leaves {errs : List (Nat × Nat)} (herrs : ∀ e ∈ errs, e.2 ≤ 1) {s : State} {i : Ins} {left : W32} {p : Path} (hcalm : Safety.calm s)
    (hpoison : s.poison = []) (hlocal : AllLocal s ((lanesOf left).map (laneAt s i .load))) (hthere : resident s i = true)
    (hfree : outstanding s i.c i.slot true = false) (hwhole : Safety.whole (crw s i.c i.slot) p) : WaitLeaves s i p left (poll errs s i left) := by
  obtain ⟨w, m, heq, hwthere, hcrw, hmem, hbits⟩ := poll_eq herrs hcalm hpoison hlocal hthere hfree hwhole.1
  have hzero : m = 0#32 ↔ ∀ l ∈ lanesOf left, pollHolds s i l = true := by
    constructor
    · intro hm l hl
      obtain ⟨hlt, hleft⟩ := mem_lanesOf.mp hl
      have hbit := hbits l hlt
      rw [hm, hleft] at hbit
      simpa using hbit
    · intro hall
      refine BitVec.eq_of_getLsbD_eq fun l hl => ?_
      rw [hbits l hl]
      by_cases hleft : left.getLsbD l = true
      · simp [hall l (mem_lanesOf.mpr ⟨hl, hleft⟩)]
      · simp [hleft]
  rw [heq]
  by_cases hm : m = 0#32
  · obtain ⟨hendmem, hendcrw, hl1⟩ := endPoll_passes hwhole hwthere hcrw hm
    refine ⟨hendmem.trans hmem, by rw [hendcrw]; exact ⟨rfl, rfl, rfl, rfl, rfl, rfl, rfl⟩, fun _ => ⟨by rw [hendcrw], hl1⟩, ?_⟩
    rintro ⟨l, hl, hfails⟩
    rw [hzero.mp hm l hl] at hfails
    exact absurd hfails nofun
  · obtain ⟨hendmem, hendcrw⟩ := endPoll_waits hwhole hwthere hcrw hm
    exact ⟨hendmem.trans hmem, by rw [hendcrw]; exact ⟨rfl, rfl, rfl, rfl, rfl, rfl, rfl⟩, fun h => absurd (hzero.mpr h) hm,
      fun _ => ⟨m, by rw [hendcrw], hbits⟩⟩

/-! ### Issue -/

theorem memRow_of_fld {w op : Nat} (hmajor : fld w 63 58 = 0x10) (hop : fld w 53 50 = op) : memRow op (fld w 63 58) (fld w 57 50) = true := by
  unfold memRow
  unfold fld at hop hmajor ⊢
  rw [hmajor, ← hop]
  simp only [beq_self_eq_true, Bool.true_and, beq_iff_eq]
  omega

/-- A memory instruction that is performed is its body. -/
theorem memory_performs {s : State} {c k w ext op : Nat} (hmajor : fld w 63 58 = 0x10) (hop : fld w 53 50 = op)
    (h : Safety.performs s c k w ext (memCodes (crw s c k) (Safety.insAt s c k w ext)) = true) (hexcs : memExcs s (Safety.insAt s c k w ext) = [])
    (body : State → Ins → State) : memory op body c k s = body s (Safety.insAt s c k w ext) := by
  unfold memory
  rw [issue_performs (s := s) (c := c) (k := k) (w := w) (ext := ext) false body h (memRow_of_fld hmajor hop) (.inr hexcs)]
  rfl

theorem allLocal_of_forall {s : State} {i : Ins} {k : XKind} {ls : List Nat}
    (h : ∀ l ∈ ls, (laneAt s i k l).node = none ∧ (laneAt s i k l).st = 0 ∧ localMemory s (laneAt s i k l).addr = true) :
    AllLocal s (ls.map (laneAt s i k)) := fun x hx => by
  obtain ⟨l, hl, rfl⟩ := List.mem_map.mp hx
  exact h l hl

theorem pc_insAt {s : State} {c k w ext : Nat} {p : Path} (h : (crw s c k).run = some p) : (Safety.insAt s c k w ext).pc = p.pc := by
  unfold Safety.insAt
  dsimp only
  rw [h]
  rfl

theorem waitMask_of_run {s : State} {i : Ins} {p : Path} (h : (crw s i.c i.slot).run = some p) : waitMask s i = p.wait := by
  unfold waitMask
  rw [h]
  rfl

/-- The first poll of a `WAIT`, and a later one, are polls of the lanes that are left. -/
theorem exec_wait {op : (Nat → Nat → List (Nat × Nat) → Instr) × Bool} (hop : op ∈ [((.waitI · · ·), false), ((.waitPoll · · ·), true)]) {s : State}
    {c k w ext : Nat} {p : Path} {left : W32} {errs : List (Nat × Nat)} (hmajor : fld w 63 58 = 0x10) (hcode : fld w 53 50 = 2)
    (hperf : Safety.performs s c k w ext (memCodes (crw s c k) (Safety.insAt s c k w ext)) = true) (hexcs : memExcs s (Safety.insAt s c k w ext) = [])
    (hrun : (crw s c k).run = some p)
    (hleft : if op.2 then p.wait = some left else p.wait = none ∧ left = (Safety.insAt s c k w ext).lanes ∧ left ≠ 0#32) :
    Machine.exec (op.1 c k errs) s = .next (poll errs s (Safety.insAt s c k w ext) left) := by
  have hmask : waitMask s (Safety.insAt s c k w ext) = p.wait := waitMask_of_run hrun
  simp only [List.mem_cons, List.not_mem_nil, or_false] at hop
  rcases hop with rfl | rfl
  · obtain ⟨hwait, rfl, hne⟩ : p.wait = none ∧ left = (Safety.insAt s c k w ext).lanes ∧ left ≠ 0#32 := hleft
    change Host.Outcome.next (memory 2 _ c k s) = _
    rw [memory_performs hmajor hcode hperf hexcs]
    rw [hmask, hwait, Option.isSome_none, if_neg Bool.false_ne_true, if_neg hne]
  · have hwait : p.wait = some left := hleft
    change Host.Outcome.next (memory 2 _ c k s) = _
    rw [memory_performs hmajor hcode hperf hexcs]
    rw [hmask, hwait]

/-- Settles O22: the lanes of an atomic are taken target by target, each a run of operations on one value; a round of polls leaves the lanes whose
condition does not hold. -/
theorem atomicsAndWaits : Obligations.AtomicsAndWaits := by
  unfold Obligations.AtomicsAndWaits
  intro ops mine past meets
  constructor
  · intro op hop s c k w ext errs herrs hmajor hcode i hperf hexcs hcalm hpoison hmine hopnd hquiet a uptoOp
    obtain ⟨-, -, hexec⟩ := isAtom_of_mem (op := op) hop
    obtain ⟨hmay, hcodes⟩ := of_performs hperf
    obtain ⟨hthere, hfree⟩ := of_mayIssue hmay
    have hleaves : AtomLeaves op.2.2 s i (atomBody errs s i) := atomBody_leaves hop herrs hcode hmajor hcodes hexcs hthere hfree hcalm hpoison hmine.1
      (allLocal_of_forall hmine.2) hopnd hquiet
    refine ⟨atomBody errs s i, ?_, fun p hp => ?_, hleaves.value, hleaves.outside, hleaves.noRet,
      fun hret => ⟨hleaves.others hret, hleaves.stays hret, hleaves.found hret⟩, hleaves.l1, hleaves.acquires⟩
    · rw [hexec, memory_performs hmajor hcode hperf hexcs]
    · rw [hleaves.past p hp]
      rw [show i.pc = p.pc from pc_insAt hp.1]
  · intro op hop s c k w ext p left errs herrs hmajor hcode hwhole i hleft ls hperf hexcs hcalm hpoison hmine hreq hwaiting ok
    obtain ⟨hmay, hcodes⟩ := of_performs hperf
    obtain ⟨hthere, hfree⟩ := of_mayIssue hmay
    have hleaves : WaitLeaves s i p left (poll errs s i left) := poll_leaves herrs hcalm hpoison (allLocal_of_forall hmine.2) hthere hfree hwhole
    have hexec : Machine.exec (op.1 c k errs) s = .next (poll errs s i left) :=
      exec_wait hop hmajor hcode hperf hexcs hwhole.1 hleft
    obtain ⟨hsizes, -, -, hcond⟩ := of_memCodes hcodes
    have hok : ∀ l, ok l = pollHolds s i l := fun l => by
      have hn : 1 ≤ 8 * i.size := by rcases hsizes (.inl hcode) with h | h <;> omega
      have hlt := readNat_lt s (laneAt s i .load l).addr i.size
      rw [show 256 = 2 ^ 8 from rfl, ← Nat.pow_mul] at hlt
      exact waitHolds_eq (hcond hcode) hn hlt (srcLane_lt s i hn _ _)
    have hpc : i.pc = p.pc := pc_insAt hwhole.1
    refine ⟨_, hexec, fun b => readMem_of_mem hleaves.mem b 1, hleaves.regs.keepsRegs _ _ _ _, fun hall => ?_, fun hfails => ?_⟩
    · simp only [hok] at hall
      rw [← hpc]
      exact hleaves.passes hall
    · simp only [hok] at hfails ⊢
      obtain ⟨m, hrun, hbits⟩ := hleaves.waits hfails
      have hrun' : (crw (poll errs s i left) c k).run = _ := hrun
      rw [hrun', ← hpc]
      exact ⟨rfl, hbits⟩

end Sys2Proof.Machine
end

section
/-! Exceptions whose kernel keeps an overlong record (R168, Table 5.8). The model's list of a kernel's exception records gives each
its words as a list, of any length; a raise writes the records behind its own anew, and one of nine words ends past the exception
area. `Safety.raised`, which says that no byte outside the area changes, is false of such a kernel. -/
namespace Sys2Proof.Machine
open Sys2Proof

/-! ### Bytes past the exception area -/

/-- An exception of a crew of a calm module leaves the bytes behind its kernel's exception area. -/
theorem readMem_of_raised {s t : State} {c k pc b : Nat} {instr : W64} {e : Exc} (h : Safety.raised s t c k pc instr e) (hcalm : Safety.calm s)
    (hb : (krn s (crw s c k).kernel).fld 3 47 0 + 64 * (krn s (crw s c k).kernel).fld 4 15 0 ≤ b) : readMem t b 1 = readMem s b 1 := by
  obtain ⟨-, -, -, -, hmem⟩ := h
  exact (hmem hcalm).1 b (.inr hb)

/-- Whether a command leaves the byte at an address. -/
def keepsByte (i : Instr) (s : State) (b : Nat) : Bool :=
  match Machine.exec i s with
  | .next t => readMem t b 1 == readMem s b 1
  | _ => false

/-! ### A kernel with a record of nine words -/

/-- Words of a launch whose exception area holds two records, from the start of the deep tier. -/
def twoRecordLaunch : List W64 := [0#64, 0#64, 0#64, 0x040000000000#64, 2#64]

/-- A booted module. The crew in slot 0 of cluster 0 runs one path, whose next word is `w`, in the divergences `divs`; its kernel keeps
one exception record, of slot 0 of cluster 1, which has nine words of 1. -/
def overlong (w : Nat) (x : Crew) (divs : List Nat := []) (requests : List Request := []) : State :=
  writeNat
    { boot := { phase := .booted }
      stackMap := List.range 32
      packages := [(0, .inService)]
      clusters := [(0, { mode := .running, kernels := [1]
                         crews := [(0, { x with kernel := 1, run := some { mask := 0xFFFFFFFF#32, pc := 0x1000, divs } })] })]
      kernels := [(1, { q := 0, index := 0, words := twoRecordLaunch, clusters := [0], mode := .running, excs := [(1, List.replicate 9 1)] })]
      requests, pace.now := 50000 }
    0x1000 8 w

theorem overlong_calm (w : Nat) (x : Crew) (divs : List Nat) (requests : List Request) : Safety.calm (overlong w x divs requests) := by
  refine ⟨fun k => ?_, fun p => ?_, fun t => ?_, fun t => ?_, writeNat_wf rfl _ _ _ _⟩
  · exact ⟨nofun, nofun⟩
  · show (if 0 = p then some DevState.inService else none).getD .skipped ≠ .failed
    split <;> nofun
  · exact ⟨nofun, nofun⟩
  · exact ⟨rfl, nofun⟩

/-- A command that changes the byte past that kernel's exception area does not do what `Safety.raised` says. -/
theorem overlong_not_raised {i : Instr} {w : Nat} {x : Crew} {divs : List Nat} {requests : List Request} {t : State} {pc : Nat} {instr : W64} {e : Exc}
    (hwrites : keepsByte i (overlong w x divs requests) 0x040000000080 = false) (hexec : Machine.exec i (overlong w x divs requests) = .next t) :
    ¬ Safety.raised (overlong w x divs requests) t 0 0 pc instr e := by
  intro hraised
  have hbyte := readMem_of_raised (b := 0x040000000080) hraised (overlong_calm w x divs requests) (by exact le_of_eq rfl)
  rw [keepsByte, hexec] at hwrites
  exact absurd (beq_iff_eq.mpr hbyte) (Bool.eq_false_iff.mp hwrites)

/-! ### An exception of each kind -/

/-- `BRA` +4 in the lanes where P1 holds, with its reconvergence point 8 words on. -/
def guardedBra : Nat := 0x20 * 2 ^ 58 + 0x01 * 2 ^ 50 + 1 * 2 ^ 48 + 1 * 2 ^ 45 + 4 * 2 ^ 27 + 8 * 2 ^ 9

/-- A crew of that kernel at such a branch, 32 divergences deep, half of its lanes to take it. -/
def deepBranch : State := overlong guardedBra { kernel := 1, index := 0, p := [(1, 0xFFFF#32)] } (List.range 32)

/-- Refutes O57: at the 33rd level `DIV_DEPTH` is raised, and its record pushes one of nine words past the end of the exception area, where
`Safety.raised` lets no byte change. -/
theorem not_divergenceDepth : ¬ Obligations.DivergenceDepth := by
  unfold Obligations.DivergenceDepth
  intro h
  obtain ⟨-, hdeep⟩ := h deepBranch 0 0 guardedBra { mask := 0xFFFFFFFF#32, pc := 0x1000, divs := List.range 32 } (by decide) (by decide)
    (by decide +kernel) (by decide +kernel) (by decide +kernel) (by decide +kernel)
  obtain ⟨t, hexec, hraised⟩ := hdeep rfl
  exact overlong_not_raised (by decide +kernel) hexec hraised

/-- `BRX` through s5. -/
def brxS5 : Nat := 0x20 * 2 ^ 58 + 0x02 * 2 ^ 50 + 0x105

/-- A crew of that kernel at such a branch, to address 1. -/
def oddBranch : State := overlong brxS5 { kernel := 1, index := 0, s := [(5, 1#64)] }

/-- Refutes O19: a `BRX` to an address that is not a multiple of 8 raises 0x05, and its record pushes one of nine words past the end of the
exception area, where `Safety.raised` lets no byte change. -/
theorem not_branchesAndDivergence : ¬ Obligations.BranchesAndDivergence := by
  unfold Obligations.BranchesAndDivergence
  rintro ⟨-, hbrx, -⟩
  obtain ⟨-, -, hodd, -⟩ := hbrx oddBranch 0 0 brxS5 { mask := 0xFFFFFFFF#32, pc := 0x1000 } (by decide) (by decide) (by decide +kernel) (by decide +kernel)
  obtain ⟨t, hexec, hraised⟩ := hodd (by decide +kernel) (by decide +kernel)
  exact overlong_not_raised (by decide +kernel) hexec hraised

/-- `LD` of v2 from the address in s4. -/
def loadS4 : Nat := 0x10 * 2 ^ 58 + 2 * 2 ^ 55 + 2 * 2 ^ 36 + 0x104 * 2 ^ 27 + 2 * 2 ^ 7

/-- A crew of that kernel at such a load, from an address that R54 leaves unmapped. -/
def unmappedLoad : State := overlong loadS4 { kernel := 1, index := 0, s := [(4, 0x060000000000#64)] }

/-- Refutes O21: a load from an unmapped address raises `MEM_FAULT`, and its record pushes one of nine words past the end of the exception
area, where `Safety.raised` lets no byte change. -/
theorem not_loadsAndStores : ¬ Obligations.LoadsAndStores := by
  unfold Obligations.LoadsAndStores
  rintro ⟨-, -, hfail, -⟩
  obtain ⟨t, hexec, hraised, -⟩ := hfail (fun c k => .ld c k [], 0, .load) List.mem_cons_self unmappedLoad 0 0 loadS4 0 (by decide) (by decide)
    (by decide +kernel) (by decide +kernel) (by decide +kernel) (by decide +kernel) (by decide +kernel) (by decide +kernel) (by decide +kernel)
  exact overlong_not_raised (by decide +kernel) hexec (hraised (by decide +kernel))

/-- `MZERO` of the descriptor in s8 to s15, on counter 3. -/
def mzeroS8 : Nat := 0x18 * 2 ^ 58 + 5 * 2 ^ 50 + 0x108 * 2 ^ 36 + 3 * 2 ^ 16

/-- A crew of that kernel at such an `MZERO`, the first word of whose descriptor is poisoned. -/
def poisonedMzero : State := overlong mzeroS8 { kernel := 1, index := 0, sPoison := [(8, true)] }

/-- Refutes O24: a poisoned descriptor raises `POISON_USE`, and its record pushes one of nine words past the end of the exception area,
where `Safety.raised` lets no byte change. -/
theorem not_matrixIssue : ¬ Obligations.MatrixIssue := by
  unfold Obligations.MatrixIssue
  rintro ⟨hissue, -⟩
  obtain ⟨-, -, -, hbad⟩ := hissue (.mzero, 5, .mzero, mzeroFault) (by simp) poisonedMzero 0 0 mzeroS8 (by decide) (by decide) (by decide +kernel)
  obtain ⟨t, hexec, hraised⟩ := hbad (by decide +kernel) (by decide +kernel) (.inl (by decide +kernel))
  exact overlong_not_raised (by decide +kernel) hexec hraised

/-- The lane of a load to another node that has gone unanswered for 50 µs. -/
def lateLane : CrewDst :=
  { cluster := 0, slot := 0, dst := 2, size := 4, signed := false, lanes := [(0, 0)], base := 0, pc := 0x1000, instr := BitVec.ofNat 64 loadS4, hasDst := true }

/-- Its request, sent at Pace time 0. -/
def lateLoad : Request :=
  { id := 4, pkt := { cls := 0, type := 1, dst := 1, src := 0, engine := 0, seq := 0 }, held := .sent, crew := some lateLane }

/-- Refutes O33: a load without an answer raises `MEM_FAULT` after 50 µs, and its record pushes one of nine words past the end of the
exception area, where `Safety.raised` lets no byte change. -/
theorem not_answersToDirectRequests : ¬ Obligations.AnswersToDirectRequests := by
  unfold Obligations.AnswersToDirectRequests
  rintro ⟨-, -, -, -, htimeout, -⟩
  obtain ⟨t, hexec, -, hraises⟩ := htimeout (.ldTimeout, 1) List.mem_cons_self (overlong 0 { kernel := 1, index := 0 } [] [lateLoad]) 0 lateLoad lateLane
    (by decide +kernel) (by decide +kernel) rfl (by decide +kernel)
  obtain ⟨l, -, -, hraised⟩ := hraises (by decide +kernel) (by decide +kernel) (by decide +kernel)
  exact overlong_not_raised (by decide +kernel) hexec hraised

end Sys2Proof.Machine
end

section
/-! Exceptions of the control class and of `DMA.ISSUE` whose kernel keeps an overlong record (R158, R164, R167, R168, Table 5.8). -/
namespace Sys2Proof.Machine
open Sys2Proof

/-- `TRAP` with 7 in `IMM8`. -/
def trap7 : Nat := 0x02 * 2 ^ 50 + 7 * 2 ^ 8

/-- Refutes O18: `TRAP` raises 0x0F, and its record pushes one of nine words past the end of the exception area, where `Safety.raised` lets
no byte change. -/
theorem not_controlInstructions : ¬ Obligations.ControlInstructions := by
  unfold Obligations.ControlInstructions
  rintro ⟨-, -, -, -, htrap, -⟩
  obtain ⟨-, hraises⟩ := htrap (overlong trap7 { kernel := 1, index := 0 }) 0 0 trap7 (by decide) (by decide +kernel)
  obtain ⟨t, hexec, hraised⟩ := hraises (by decide +kernel)
  exact overlong_not_raised (by decide +kernel) hexec hraised

/-- `DMA.ISSUE` of the descriptor in s8 to s15 to engine 0 of the tower. -/
def dmaS8 : Nat := 0x13 * 2 ^ 58 + 0x108 * 2 ^ 36

/-- A crew of that kernel at such a `DMA.ISSUE`, the first word of whose descriptor is poisoned. -/
def poisonedDma : State := overlong dmaS8 { kernel := 1, index := 0, sPoison := [(8, true)] }

/-- Refutes O23: a `DMA.ISSUE` of a poisoned descriptor raises `POISON_USE`, and its record pushes one of nine words past the end of the
exception area, where `Safety.raised` lets no byte change. -/
theorem not_fencesTransposesAndHandovers : ¬ Obligations.FencesTransposesAndHandovers := by
  unfold Obligations.FencesTransposesAndHandovers
  rintro ⟨-, -, -, hdma⟩
  obtain ⟨-, -, hpoisoned, -⟩ := hdma poisonedDma 0 0 dmaS8 (by decide) (by decide) (by decide +kernel)
  obtain ⟨t, hexec, hraised⟩ := hpoisoned (by decide +kernel) (by decide +kernel) (by decide +kernel)
  exact overlong_not_raised (by decide +kernel) hexec hraised

end Sys2Proof.Machine
end

section
/-! A step of the block (R15, R131, R319, R432): the front command, a held command, or a cycle in which clocks run and ports send. -/
namespace Sys2Proof.Machine
open Sys2Proof

/-! ### A command held for a firmware processor (R15) -/

theorem heldMessage_next (type sid now : Nat) (m : CamMsg) (s : State) : ∃ t, heldMessage type sid now m s = .next t := by
  unfold heldMessage
  split <;> exact ⟨_, rfl⟩

theorem heldSpdm_next (sid code : Nat) (body : List Byte) (s : State) : ∃ t, heldSpdm sid code body s = .next t := by
  unfold heldSpdm
  split <;> exact ⟨_, rfl⟩

theorem heldWrite_next (key : Nat) (w : ObjWrite) (s : State) : ∃ t, heldWrite key w s = .next t := by
  unfold heldWrite
  dsimp only
  repeat' split
  all_goals exact ⟨_, rfl⟩

/-- A held command answers a next state. -/
theorem heldRun_next (c : HeldCmd) (s : State) : ∃ t, heldRun c s = .next t := by
  cases c with
  | write key w => exact heldWrite_next key w s
  | stage w b => exact ⟨_, rfl⟩
  | message type sid m => exact heldMessage_next type sid _ m s
  | spdm sid code body => exact heldSpdm_next sid code body s
  | handshake sid v6 chain => exact ⟨_, rfl⟩

/-- The first held command whose processor runs is served; with none before it, that is the one at its place. -/
theorem serveHeld_first {s : State} {a b : List (Nat × HeldCmd)} {p : Nat} {c : HeldCmd} (hphase : s.boot.phase ≠ .fatal) (hheld : s.held = a ++ (p, c) :: b)
    (ha : ∀ h ∈ a, fwRuns s h.1 = false) (hp : fwRuns s p = true) {t : State}
    (ht : heldRun c { s with held := (a ++ b).filter fun h => h.1 != p } = .next t) :
    serveHeld s = some (.next { t with held := if t.boot.phase = s.boot.phase then (a ++ b).filter (fun h => h.1 == p) ++ t.held else t.held }) := by
  have hfind : s.held.findIdx? (fun h => fwRuns s h.1 && s.boot.phase != .fatal) = some a.length := by
    rw [hheld, List.findIdx?_append, List.findIdx?_eq_none_iff.mpr fun h hh => by rw [ha h hh, Bool.false_and]]
    simp [List.findIdx?_cons, hp, hphase]
  have hat : s.held[a.length]? = some (p, c) := by rw [hheld, List.getElem?_append_right (le_refl _), Nat.sub_self]; rfl
  have hrest : s.held.eraseIdx a.length = a ++ b := by rw [hheld, List.eraseIdx_append_of_length_le (le_refl _), Nat.sub_self]; rfl
  unfold serveHeld
  rw [hfind]
  dsimp only
  rw [hat]
  dsimp only
  rw [hrest, ht]

/-- No held command can be served. -/
theorem serveHeld_none {s : State} (h : ∀ h ∈ s.held, fwRuns s h.1 = false ∨ s.boot.phase = .fatal) : serveHeld s = none := by
  unfold serveHeld
  rw [List.findIdx?_eq_none_iff.mpr fun x hx => by rcases h x hx with h | h <;> simp [h]]

/-! ### Clocks (R131, R432) -/

/-- One die's part of an advance of Pace time: its count and the rest below one cycle. -/
def advanceDie (s : State) (dt : Nat) (m : Map Nat × Map Nat) (d : Nat) : Map Nat × Map Nat :=
  let x := mget s.cyclePart d 0 + dt * arithMHz (dvfs s d).point
  (mset m.1 d (mget s.cycles d 0 + x / 1000), mset m.2 d (x % 1000))

theorem advance_cycles (s : State) (dt : Nat) :
    ((advance s dt).cycles, (advance s dt).cyclePart) = (List.range 8).foldl (advanceDie s dt) (s.cycles, s.cyclePart) := rfl

theorem mget_foldl_advanceDie (s : State) (dt : Nat) (ds : List Nat) (m : Map Nat × Map Nat) {d : Nat} (hd : d ∈ ds) :
    1000 * mget (ds.foldl (advanceDie s dt) m).1 d 0 + mget (ds.foldl (advanceDie s dt) m).2 d 0
      = 1000 * mget s.cycles d 0 + mget s.cyclePart d 0 + dt * arithMHz (dvfs s d).point := by
  induction ds using List.reverseRecOn with
  | nil => exact absurd hd List.not_mem_nil
  | append_singleton ds e ih =>
    rw [List.foldl_append, List.foldl_cons, List.foldl_nil]
    unfold advanceDie
    dsimp only
    rw [mget_mset, mget_mset]
    by_cases hed : e = d
    · subst hed
      rw [if_pos rfl, if_pos rfl]
      omega
    · rw [if_neg hed, if_neg hed]
      refine ih ?_
      rcases List.mem_append.mp hd with h | h
      · exact h
      · exact absurd (List.mem_singleton.mp h).symm hed

/-- A die's cycles, in thousandths, advance with its frequency. -/
theorem advance_die (s : State) (dt : Nat) {d : Nat} (hd : d < 8) :
    1000 * mget (advance s dt).cycles d 0 + mget (advance s dt).cyclePart d 0
      = 1000 * mget s.cycles d 0 + mget s.cyclePart d 0 + dt * arithMHz (dvfs s d).point := by
  have h := mget_foldl_advanceDie s dt (List.range 8) (s.cycles, s.cyclePart) (List.mem_range.mpr hd)
  rw [← advance_cycles] at h
  exact h

theorem ports_tick (s : State) : (tick s).ports = s.ports := by unfold tick; split <;> rfl

theorem tick_eq (s : State) : tick s = { s with pace := (tick s).pace, cycles := (tick s).cycles, cyclePart := (tick s).cyclePart } := by
  unfold tick; split <;> rfl

/-! ### Ports (R319, R330) -/

/-- Between two states ports sent flits: nothing but their own state changed, and none came into or went out of service. -/
structure PortsSent (s t : State) : Prop where
  eq : t = { s with ports := t.ports }
  up : ∀ p, linkUp t p = linkUp s p
  down : ∀ p, linkUp s p = false → prt t p = prt s p

theorem PortsSent.refl (s : State) : PortsSent s s := ⟨rfl, fun _ => rfl, fun _ _ => rfl⟩

theorem PortsSent.trans {s t u : State} (h : PortsSent s t) (g : PortsSent t u) : PortsSent s u :=
  ⟨by rw [g.eq, h.eq], fun p => (g.up p).trans (h.up p), fun p hp => (g.down p ((h.up p).trans hp)).trans (h.down p hp)⟩

/-- Between two states of a port it sent one flit of a channel. -/
def Port.SentOne (x y : Port) : Prop :=
  y.mode = x.mode ∧ y.peer = x.peer ∧ y.inQ = x.inQ ∧ ∃ vc, y.sentFlits = mset x.sentFlits vc (mget x.sentFlits vc 0 + 1)

/-- The choice of a channel changes what the arbiter remembers, and nothing else of the port. -/
theorem pickVc_port {s : State} {x y : Port} {vc : Nat} (h : pickVc s x = some (vc, y)) :
    y.mode = x.mode ∧ y.peer = x.peer ∧ y.inQ = x.inQ ∧ y.sentFlits = x.sentFlits := by
  have hround : ∀ {o : Option Nat} {turns : Map Nat}, (o.map fun v => (v, { x with turns })) = some (vc, y) →
      y.mode = x.mode ∧ y.peer = x.peer ∧ y.inQ = x.inQ ∧ y.sentFlits = x.sentFlits := fun h => by
    obtain ⟨v, -, heq⟩ := Option.map_eq_some_iff.mp h
    obtain ⟨-, rfl⟩ := Prod.mk.inj heq
    exact ⟨rfl, rfl, rfl, rfl⟩
  unfold pickVc at h
  extract_lets recent cls turns round at h
  have hrounds : round = some (vc, y) → y.mode = x.mode ∧ y.peer = x.peer ∧ y.inQ = x.inQ ∧ y.sentFlits = x.sentFlits := fun h => by
    unfold round at h
    split at h
    · exact hround h
    · exact absurd h nofun
  split at h
  · split at h
    · obtain ⟨-, rfl⟩ := Prod.mk.inj (Option.some.inj h)
      exact ⟨rfl, rfl, rfl, rfl⟩
    · exact hrounds h
  · exact hrounds h

/-- The packet of a channel that is on its way, with the flits it has left, or the next one, taken from the output queue. -/
def Port.onWay (s : State) (x : Port) (vc : Nat) : Option ((Queued × Nat) × Port) :=
  match mfind x.sending vc with
  | some c => some (c, x)
  | none => (nextOf s x vc).map fun e => ((e, flitsOf e.pkt), { x with outQ := x.outQ.erase e })

theorem Port.onWay_port {s : State} {x y : Port} {vc : Nat} {c : Queued × Nat} (h : x.onWay s vc = some (c, y)) :
    y.mode = x.mode ∧ y.peer = x.peer ∧ y.inQ = x.inQ ∧ y.sentFlits = x.sentFlits := by
  unfold Port.onWay at h
  split at h
  · obtain ⟨-, rfl⟩ := Prod.mk.inj (Option.some.inj h)
    exact ⟨rfl, rfl, rfl, rfl⟩
  · obtain ⟨_, -, heq⟩ := Option.map_eq_some_iff.mp h
    obtain ⟨-, rfl⟩ := Prod.mk.inj heq
    exact ⟨rfl, rfl, rfl, rfl⟩

/-- A port after a flit of a packet that has `left` flits left: with the last one the packet has become a frame. -/
def Port.afterFlit (s : State) (x : Port) (vc : Nat) (e : Queued) (left : Nat) : Port :=
  let x := { x with sentFlits := mset x.sentFlits vc (mget x.sentFlits vc 0 + 1) }
  if 1 < left then { x with sending := mset x.sending vc (e, left - 1) }
  else { x with
    sending := mdel x.sending vc
    retry := x.retry ++ [{ seq := x.txSeq, pkt := e.pkt, body := (wire x x.txSeq e.pkt).1, tag := (wire x x.txSeq e.pkt).2 }]
    txSeq := x.txSeq + 1
    keyPackets := if x.keyed then x.keyPackets + 1 else x.keyPackets
    flight := if vc = 2 ∨ vc = 4 then x.flight ++ [(vc, jkeyPart s e.pkt.jkey, flitsOf e.pkt)] else x.flight }

theorem Port.sentOne_afterFlit (s : State) (x : Port) (vc : Nat) (e : Queued) (left : Nat) : x.SentOne (x.afterFlit s vc e left) := by
  unfold Port.afterFlit
  dsimp only
  split <;> exact ⟨rfl, rfl, rfl, vc, rfl⟩

/-- What a port whose link is up and that has chosen a channel does. -/
theorem sendFlit_of_pick {s : State} {p vc : Nat} {x : Port} (hup : linkUp s p = true) (hpick : pickVc s (prt s p) = some (vc, x)) :
    sendFlit s p = s ∨ ∃ e left z, x.onWay s vc = some ((e, left), z) ∧ sendFlit s p = setPrt s p (z.afterFlit s vc e left) := by
  have hsend : sendFlit s p = match x.onWay s vc with
      | none => s
      | some ((e, left), z) => setPrt s p (z.afterFlit s vc e left) := by
    unfold sendFlit
    rw [hpick, if_neg (by rw [hup]; exact nofun)]
    change (match x.onWay s vc with | none => s | some ((e, left), z) => _) = _
    split
    · rfl
    · unfold Port.afterFlit
      dsimp only
      split <;> rfl
  rw [hsend]
  split
  · exact .inl rfl
  next e left z hz => exact .inr ⟨e, left, z, hz, rfl⟩

/-- A port sends nothing, or, where its link is up, one flit. -/
theorem sendFlit_cases (s : State) (p : Nat) :
    sendFlit s p = s ∨ (linkUp s p = true ∧ ∃ y, sendFlit s p = setPrt s p y ∧ (prt s p).SentOne y) := by
  by_cases hup : linkUp s p = true
  · cases hpick : pickVc s (prt s p) with
    | none => exact .inl (by unfold sendFlit; rw [hpick, if_neg (by rw [hup]; exact nofun)])
    | some r =>
      obtain ⟨hmode, hpeer, hin, hsent⟩ := pickVc_port hpick
      rcases sendFlit_of_pick hup hpick with heq | ⟨e, left, z, hz, heq⟩
      · exact .inl heq
      · obtain ⟨hzmode, hzpeer, hzin, hzsent⟩ := Port.onWay_port hz
        obtain ⟨hymode, hypeer, hyin, vc, hysent⟩ := Port.sentOne_afterFlit s z r.1 e left
        refine .inr ⟨hup, _, heq, hymode.trans (hzmode.trans hmode), hypeer.trans (hzpeer.trans hpeer), hyin.trans (hzin.trans hin), vc, ?_⟩
        rw [hysent, hzsent, hsent]
  · exact .inl (by unfold sendFlit; rw [if_pos (Bool.not_eq_true _ ▸ hup)])

theorem linkUp_of_prt {s t : State} {p : Nat} (hmode : (prt t p).mode = (prt s p).mode) (hpeer : (prt t p).peer = (prt s p).peer) :
    linkUp t p = linkUp s p := by
  unfold linkUp portUp
  rw [hmode, hpeer]

theorem sendFlit_portsSent (s : State) (p : Nat) : PortsSent s (sendFlit s p) := by
  rcases sendFlit_cases s p with heq | ⟨hup, y, heq, hmode, hpeer, -⟩
  · rw [heq]; exact .refl s
  · rw [heq]
    refine ⟨rfl, fun q => ?_, fun q hq => ?_⟩
    · by_cases hpq : p = q
      · subst hpq; exact linkUp_of_prt (by rw [prt_setPrt_self]; exact hmode) (by rw [prt_setPrt_self]; exact hpeer)
      · exact linkUp_of_prt (by rw [prt_setPrt, if_neg hpq]) (by rw [prt_setPrt, if_neg hpq])
    · rw [prt_setPrt, if_neg fun h => by subst h; rw [hup] at hq; exact absurd hq nofun]

theorem foldl_sendFlit_portsSent (ps : List Nat) (s : State) : PortsSent s (ps.foldl sendFlit s) := by
  induction ps generalizing s with
  | nil => exact .refl s
  | cons p ps ih => exact (sendFlit_portsSent s p).trans (ih _)

theorem prt_sendFlit_ne (s : State) {p q : Nat} (h : p ≠ q) : prt (sendFlit s p) q = prt s q := by
  rcases sendFlit_cases s p with heq | ⟨-, y, heq, -⟩
  · rw [heq]
  · rw [heq, prt_setPrt, if_neg h]

theorem prt_foldl_sendFlit_ne {ps : List Nat} {q : Nat} (h : q ∉ ps) (s : State) : prt (ps.foldl sendFlit s) q = prt s q := by
  induction ps generalizing s with
  | nil => rfl
  | cons p ps ih =>
    obtain ⟨hne, hrest⟩ := List.ne_and_not_mem_of_not_mem_cons h
    rw [List.foldl_cons, ih hrest, prt_sendFlit_ne s (Ne.symm hne)]

/-- Ports that take one turn each send one flit at most. -/
theorem prt_foldl_sendFlit {ps : List Nat} (h : ps.Nodup) (s : State) (q : Nat) :
    prt (ps.foldl sendFlit s) q = prt s q ∨ (prt s q).SentOne (prt (ps.foldl sendFlit s) q) := by
  induction ps generalizing s with
  | nil => exact .inl rfl
  | cons p ps ih =>
    obtain ⟨hp, hps⟩ := List.nodup_cons.mp h
    rw [List.foldl_cons]
    by_cases hpq : p = q
    · subst hpq
      rw [prt_foldl_sendFlit_ne hp]
      rcases sendFlit_cases s p with heq | ⟨-, y, heq, hone⟩
      · rw [heq]; exact .inl rfl
      · rw [heq, prt_setPrt_self]; exact .inr hone
    · rw [← prt_sendFlit_ne s hpq]
      exact ih hps _

theorem nodup_keys_of_rising {α : Type} {m : Map α} (h : Safety.rising m) : (m.map (·.1)).Nodup :=
  List.pairwise_map.mpr (h.imp fun hlt => Nat.ne_of_lt hlt)

/-! ### Packets that waited for a sequence number (R336) -/

/-- Between two states packets of the verdict unit went to ports, or wait. -/
def OwnSent (s t : State) : Prop := t = { s with ports := t.ports, outbox := t.outbox, seqs := t.seqs, seqTimes := t.seqTimes }

theorem OwnSent.trans {s t u : State} (h : OwnSent s t) (g : OwnSent t u) : OwnSent s u := by
  unfold OwnSent at h g ⊢
  rw [g, h]

theorem takeSeq_ownSent {s : State} {engine : Nat} {r : Nat × State} (h : takeSeq s engine = some r) : OwnSent s r.2 := by
  unfold takeSeq at h
  dsimp only at h
  split at h
  · exact absurd h nofun
  · obtain rfl := Option.some.inj h
    rfl

theorem sendOwn_ownSent (s : State) (p : Packet) : OwnSent s (sendOwn s p) := by
  unfold sendOwn
  dsimp only
  split
  · exact rfl
  · split
    · exact rfl
    next hseq => exact (takeSeq_ownSent hseq).trans rfl

theorem flushOut_ownSent (s : State) : OwnSent s (flushOut s) := by
  have hfold : ∀ (ps : List Packet) (t : State), OwnSent t (ps.foldl sendOwn t) := by
    intro ps
    induction ps with
    | nil => exact fun _ => rfl
    | cons p ps ih => exact fun t => (sendOwn_ownSent t p).trans (ih _)
  exact OwnSent.trans (t := { s with outbox := [] }) rfl (hfold _ _)

theorem flushOut_of_none {s : State} (h : s.outbox = []) : flushOut s = s := by
  unfold flushOut
  rw [h, List.foldl_nil]
  exact congrArg (fun o => { s with outbox := o }) h.symm

/-! ### A cycle with nothing waiting (log 9) -/

/-- The ports after their turns of a cycle. -/
def portsSent (s : State) : State := ((tick s).ports.map (·.1)).foldl sendFlit (tick s)

theorem idle_eq_flushOut (s : State) : idle s = flushOut (portsSent s) := rfl

theorem portsSent_eq (s : State) :
    portsSent s = { s with pace := (tick s).pace, cycles := (tick s).cycles, cyclePart := (tick s).cyclePart, ports := (portsSent s).ports } := by
  have h : portsSent s = { tick s with ports := (portsSent s).ports } := (foldl_sendFlit_portsSent _ (tick s)).eq
  exact h.trans (congrArg (fun u : State => { u with ports := (portsSent s).ports }) (tick_eq s))

theorem idle_eq (s : State) : idle s = { s with
    pace := (tick s).pace, cycles := (tick s).cycles, cyclePart := (tick s).cyclePart, ports := (idle s).ports, outbox := (idle s).outbox
    seqs := (idle s).seqs, seqTimes := (idle s).seqTimes } := by
  have h : OwnSent (portsSent s) (idle s) := flushOut_ownSent (portsSent s)
  unfold OwnSent at h
  rw [portsSent_eq] at h
  exact h

/-- What the ports do in a cycle in which no packet waits for a sequence number. -/
theorem portsSent_port (s : State) (p : Nat) : (linkUp s p = false → prt (portsSent s) p = prt s p)
    ∧ (Safety.rising s.ports → prt (portsSent s) p = prt s p ∨ (prt s p).SentOne (prt (portsSent s) p)) := by
  have hprt : ∀ q, prt (tick s) q = prt s q := fun q => by unfold prt; rw [ports_tick]
  constructor
  · intro hdown
    have hup : linkUp (tick s) p = linkUp s p := linkUp_of_prt (by rw [hprt]) (by rw [hprt])
    exact ((foldl_sendFlit_portsSent _ (tick s)).down p (hup.trans hdown)).trans (hprt p)
  · intro hrising
    have h := prt_foldl_sendFlit (nodup_keys_of_rising (ports_tick s ▸ hrising)) (tick s) p
    rw [hprt] at h
    exact h

/-- Settles O49: the queue decides which of the three a step is; in an idle cycle the clocks tick, each port takes one turn, and what waited
for a sequence number is sent where it may be. -/
theorem stepTakesTheFrontCommand : Obligations.StepTakesTheFrontCommand := by
  unfold Obligations.StepTakesTheFrontCommand
  refine ⟨fun s c rest hpending => ?_, fun s a b p c hpending hphase hheld ha hp => ?_, fun s hpending hheld => ?_⟩
  · unfold step
    rw [hpending]
  · obtain ⟨t, ht⟩ := heldRun_next c { s with held := (a ++ b).filter fun h => h.1 != p }
    refine ⟨t, ht, ?_⟩
    unfold step
    rw [hpending]
    dsimp only
    rw [serveHeld_first hphase hheld ha hp ht]
    rfl
  · refine ⟨idle s, ?_, ?_, fun hoff => ?_, fun hon => ?_, fun hout => ?_⟩
    · unfold step
      rw [hpending]
      exact congrArg (Option.getD · _) (serveHeld_none hheld)
    · exact (idle_eq s).trans (by rw [idle_eq s])
    · rw [idle_eq s, tick, if_neg (by rw [hoff]; exact Bool.false_ne_true)]
      exact ⟨rfl, rfl, rfl⟩
    · rw [idle_eq s, tick, if_pos hon]
      refine ⟨rfl, fun d hd => ?_⟩
      have h := advance_die s 1 hd
      rw [Nat.one_mul] at h
      exact h
    · have hnone : (portsSent s).outbox = [] := by rw [portsSent_eq]; exact hout
      rw [idle_eq_flushOut, flushOut_of_none hnone]
      refine ⟨hnone, by rw [portsSent_eq], by rw [portsSent_eq], fun p => ?_⟩
      obtain ⟨hdown, hone⟩ := portsSent_port s p
      refine ⟨hdown, fun hrising => (hone hrising).imp_right ?_⟩
      rintro ⟨hmode, -, hin, vc, hvc⟩
      exact ⟨vc, hvc, hin, hmode⟩

end Sys2Proof.Machine
end

section
/-! What a lane-wise instruction writes and what it leaves: per-lane results in a vector register, a pair or a predicate, and the path moved on
(R130 to R133, R166, R167). -/
namespace Sys2Proof.Machine
open Sys2Proof

/-! ### The rest of the module -/

/-- Only the crew in a slot, its cluster's `VEC_SAT` and assay sets, and the count of free values: a chain of such changes is one. -/
theorem onlyCrew_refl (s : State) (c k : Nat) : Safety.onlyCrew s s c k := ⟨rfl, fun _ _ => rfl, rfl, fun _ _ => rfl⟩

theorem onlyCrew_trans {s t u : State} {c k : Nat} (h : Safety.onlyCrew s t c k) (g : Safety.onlyCrew t u c k) : Safety.onlyCrew s u c k := by
  obtain ⟨hs, hother, hclu, hcrews⟩ := h
  obtain ⟨gs, gother, gclu, gcrews⟩ := g
  refine ⟨?_, fun d hd => (gother d hd).trans (hother d hd), ?_, fun j hj => (gcrews j hj).trans (hcrews j hj)⟩
  · rw [gs, hs]
  · rw [gclu, hclu]

theorem onlyCrew_free (s : State) (c k n : Nat) : Safety.onlyCrew s { s with free := n } c k := ⟨rfl, fun _ _ => rfl, rfl, fun _ _ => rfl⟩

theorem onlyCrew_vecSat (s : State) (c k n : Nat) : Safety.onlyCrew s (setClu s c { clu s c with vecSat := n }) c k :=
  ⟨rfl, fun d hd => by rw [clu_setClu, if_neg (Ne.symm hd)], by rw [clu_setClu_self], fun j _ => by rw [clu_setClu_self]⟩

theorem onlyCrew_updCrew (s : State) (c k : Nat) (f : Crew → Crew) : Safety.onlyCrew s (updCrew s c k f) c k := by
  unfold updCrew
  split
  next x _ =>
    refine ⟨rfl, fun d hd => by rw [clu_setClu, if_neg (Ne.symm hd)], by rw [clu_setClu_self], fun j hj => ?_⟩
    rw [clu_setClu_self]
    dsimp only
    rw [mfind_mset, if_neg (Ne.symm hj)]
  · exact onlyCrew_refl s c k

/-! ### Values put into lanes -/

/-- Lanes of a crew into which a destination's results are put. -/
def Crew.putLanes (wd code : Nat) (r : Nat → Nat × Bool) (x : Crew) (ls : List Nat) : Crew :=
  ls.foldl (fun x l => x.put wd code l (r l).1 (r l).2) x

section
variable {code : Nat} (wd : Nat) (r : Nat → Nat × Bool) (x : Crew) {ls : List Nat}

/-- Results in a vector register, or a pair: the lanes named hold their digits, all else stays. -/
theorem Crew.putLanes_vec (hcode : opKind code = .vec) (hls : ∀ l ∈ ls, l < 32) :
    x.onlyVec (x.putLanes wd code r ls) ∧ ∀ q m, m < 32 →
      (x.putLanes wd code r ls).vLane q m
          = (if m ∈ ls ∧ code ≤ q ∧ q < code + regsFor wd then (r m).1 / 2 ^ (32 * (q - code)) % 2 ^ 32 else x.vLane q m)
        ∧ mget (x.putLanes wd code r ls).vPoison (32 * q + m) false
          = if m ∈ ls ∧ code ≤ q ∧ q < code + regsFor wd then (r m).2 else mget x.vPoison (32 * q + m) false := by
  have hput : ∀ (x : Crew) l, x.put wd code l (r l).1 (r l).2 = x.setVec wd code l (r l).1 (r l).2 := fun x l => by unfold Crew.put; rw [hcode]
  induction ls generalizing x with
  | nil => exact ⟨rfl, fun q m _ => by simp [Crew.putLanes]⟩
  | cons l ls ih =>
    obtain ⟨honly, hget⟩ := ih (x.put wd code l (r l).1 (r l).2) fun m hm => hls m (List.mem_cons_of_mem l hm)
    rw [hput] at honly hget
    have hcons : x.putLanes wd code r (l :: ls) = (x.setVec wd code l (r l).1 (r l).2).putLanes wd code r ls := by rw [← hput]; rfl
    rw [hcons]
    refine ⟨(x.onlyVec_setVec _ _ _ _ _).trans honly, fun q m hm => ?_⟩
    obtain ⟨hv, hp⟩ := hget q m hm
    obtain ⟨hv1, hp1⟩ := Crew.mget_setVec x wd code (hls l List.mem_cons_self) (r l).1 (r l).2 q hm
    rw [hv, hp, hv1, hp1]
    by_cases hin : code ≤ q ∧ q < code + regsFor wd
    · by_cases hml : m = l
      · subst hml; simp [hin]
      · simp [hin, hml]
    · simp only [hin, and_false, if_false, and_self]

/-- One bit of a mask put in place. -/
theorem getLsbD_putBit (m : W32) (b : Bool) {l j : Nat} (hl : l < 32) (hj : j < 32) :
    (if b then m ||| (1#32 <<< l) else m &&& ~~~(1#32 <<< l)).getLsbD j = if j = l then b else m.getLsbD j := by
  have hone : (1#32 <<< l).getLsbD j = decide (j = l) := by
    rw [BitVec.getLsbD_shiftLeft, BitVec.getLsbD_one]
    by_cases h : j = l
    · subst h; simp [hj]
    · by_cases hlt : j < l
      · simp [hlt, h]
      · have : j - l ≠ 0 := by omega
        simp [h, this]
  cases b
  · simp only [Bool.false_eq_true, if_false, BitVec.getLsbD_and, BitVec.getLsbD_not, hone, decide_eq_true hj, Bool.true_and]
    by_cases h : j = l <;> simp [h]
  · simp only [if_true, BitVec.getLsbD_or, hone]
    by_cases h : j = l <;> simp [h]

/-- A write of one lane of a predicate, as every predicate sees it. -/
theorem Crew.mget_setPred (x : Crew) (p : Nat) {l : Nat} (hl : l < 32) (v pz : Bool) :
    x.setPred p l v pz = { x with p := (x.setPred p l v pz).p, pPoison := (x.setPred p l v pz).pPoison }
      ∧ (∀ q, q ≠ p → mget (x.setPred p l v pz).p q 0#32 = mget x.p q 0#32 ∧ mget (x.setPred p l v pz).pPoison q 0#32 = mget x.pPoison q 0#32)
      ∧ ∀ m, m < 32 → (mget (x.setPred p l v pz).p p 0#32).getLsbD m = (if m = l then v else (mget x.p p 0#32).getLsbD m)
        ∧ (mget (x.setPred p l v pz).pPoison p 0#32).getLsbD m = if m = l then pz else (mget x.pPoison p 0#32).getLsbD m := by
  refine ⟨rfl, fun q hq => ?_, fun m hm => ?_⟩
  · unfold Crew.setPred
    dsimp only
    rw [mget_mset_ne _ _ _ (Ne.symm hq), mget_mset_ne _ _ _ (Ne.symm hq)]
    exact ⟨rfl, rfl⟩
  · unfold Crew.setPred
    dsimp only
    rw [mget_mset_self, mget_mset_self]
    exact ⟨getLsbD_putBit _ v hl hm, getLsbD_putBit _ pz hl hm⟩

/-- Results in a predicate: the lanes named hold their bit 0, all else stays. -/
theorem Crew.putLanes_pred (hcode : opKind code = .pred) (hls : ∀ l ∈ ls, l < 32) :
    let y := x.putLanes wd code r ls
    y = { x with p := y.p, pPoison := y.pPoison }
      ∧ (∀ q, q ≠ code - 0x140 → mget y.p q 0#32 = mget x.p q 0#32 ∧ mget y.pPoison q 0#32 = mget x.pPoison q 0#32)
      ∧ ∀ m, m < 32 → (mget y.p (code - 0x140) 0#32).getLsbD m = (if m ∈ ls then bit (r m).1 0 else (mget x.p (code - 0x140) 0#32).getLsbD m)
        ∧ (mget y.pPoison (code - 0x140) 0#32).getLsbD m = if m ∈ ls then (r m).2 else (mget x.pPoison (code - 0x140) 0#32).getLsbD m := by
  induction ls generalizing x with
  | nil => exact ⟨rfl, fun q _ => ⟨rfl, rfl⟩, fun m _ => by simp [Crew.putLanes]⟩
  | cons l ls ih =>
    have hput : x.put wd code l (r l).1 (r l).2 = x.setPred (code - 0x140) l (bit (r l).1 0) (r l).2 := by unfold Crew.put; rw [hcode]
    obtain ⟨honly, hother, hget⟩ := ih (x.put wd code l (r l).1 (r l).2) fun m hm => hls m (List.mem_cons_of_mem l hm)
    obtain ⟨honly1, hother1, hget1⟩ := x.mget_setPred (code - 0x140) (hls l List.mem_cons_self) (bit (r l).1 0) (r l).2
    rw [hput] at honly hother hget
    have hcons : x.putLanes wd code r (l :: ls) = (x.setPred (code - 0x140) l (bit (r l).1 0) (r l).2).putLanes wd code r ls := by rw [← hput]; rfl
    rw [hcons]
    refine ⟨by rw [honly, honly1], fun q hq => ?_, fun m hm => ?_⟩
    · obtain ⟨h, hp⟩ := hother q hq
      obtain ⟨h1, hp1⟩ := hother1 q hq
      exact ⟨h.trans h1, hp.trans hp1⟩
    · obtain ⟨h, hp⟩ := hget m hm
      obtain ⟨h1, hp1⟩ := hget1 m hm
      rw [h, hp, h1, hp1]
      by_cases hml : m = l
      · subst hml; simp only [List.mem_cons_self, if_true, ite_self, and_self]
      · simp only [List.mem_cons, hml, false_or, if_false, and_self]

end

/-! ### What is written, read back -/

/-- Between two states an instruction's results `r` were put into its destination in its lanes, and its path moved on. -/
structure PutsLanes (s t : State) (i : Ins) (wd : Nat) (r : Nat → Nat × Bool) : Prop where
  only : Safety.onlyCrew s t i.c i.slot
  regs : ((crw s i.c i.slot).putLanes wd (i.o 0) r (lanesOf i.lanes)).SameRegs (crw t i.c i.slot)

/-- Results written by an instruction that then moves on, with more of the cluster and of the free values changed before. -/
theorem putsLanes_step1 {s u : State} {i : Ins} (hthere : resident s i = true) (wd : Nat) (r : Nat → Nat × Bool)
    (hu : Safety.onlyCrew (writeLanes s i wd (i.o 0) r) u i.c i.slot) (hcrews : KeepsCrews (writeLanes s i wd (i.o 0) r) u) :
    PutsLanes s (step1 u i) i wd r := by
  have hwrite : crw (writeLanes s i wd (i.o 0) r) i.c i.slot = (crw s i.c i.slot).putLanes wd (i.o 0) r (lanesOf i.lanes) := crw_updCrew_self hthere _
  have hcrw : crw u i.c i.slot = crw (writeLanes s i wd (i.o 0) r) i.c i.slot := by rw [crw, crw, hcrews i.c]
  have hu_there : resident u i = true := by
    unfold resident
    rw [hcrews i.c]
    exact resident_updCrew hthere _
  refine ⟨onlyCrew_trans (onlyCrew_trans (onlyCrew_updCrew s _ _ _) hu) (onlyCrew_updCrew u _ _ _), ?_⟩
  rw [step1, crw_updCrew_self hu_there, hcrw, hwrite]
  exact .of_still (Crew.still_goto _ _)

theorem mod_two_eq_b2n_bit (v : Nat) : b2n (bit v 0) = v % 2 := by
  unfold bit b2n
  rw [Nat.testBit_zero]
  rcases Nat.mod_two_eq_zero_or_one v with h | h <;> simp [h]

theorem mem_lanesOf_iff_on {i : Ins} {l : Nat} (hl : l < 32) : l ∈ lanesOf i.lanes ↔ i.on l = true := by
  rw [mem_lanesOf]
  exact and_iff_right hl

/-- A predicate operand in one lane. -/
theorem srcLane_pred (s : State) (i : Ins) (wd : Nat) {code : Nat} (hcode : opKind code = .pred) (l : Nat) :
    srcLane s i wd code l = (b2n ((mget (crw s i.c i.slot).p (code - 0x140) 0#32).getLsbD l), (mget (crw s i.c i.slot).pPoison (code - 0x140) 0#32).getLsbD l) := by
  unfold srcLane
  rw [hcode]

section
variable {s t : State} {i : Ins} {wd : Nat} {r : Nat → Nat × Bool} (h : PutsLanes s t i wd r)
include h

/-- Results in a vector register or a pair. -/
theorem PutsLanes.lanesGive_vec (hcode : opKind (i.o 0) = .vec) (hwd : wd = 32 ∨ wd = 64) {pz : Nat → Bool} {val : Nat → Option Nat}
    (hpz : ∀ l, l < 32 → (r l).2 = pz l) (hval : ∀ l, l < 32 → ∀ v, val l = some v → (r l).1 = v ∧ v < 2 ^ wd) : Safety.lanesGive s t i wd pz val := by
  obtain ⟨honly, hget⟩ := Crew.putLanes_vec wd r (crw s i.c i.slot) hcode (ls := lanesOf i.lanes) fun l hl => (mem_lanesOf.mp hl).1
  have hregs := h.regs
  generalize (crw s i.c i.slot).putLanes wd (i.o 0) r (lanesOf i.lanes) = y at honly hget hregs
  refine ⟨?_, fun l hl hoff => ?_, fun l hl hon => ?_⟩
  · unfold Safety.keepsOthers
    rw [hcode]
    dsimp only
    refine ⟨fun q l hl hq => ?_, fun q _ => by rw [hregs.s, hregs.sPoison, honly]; exact ⟨rfl, rfl⟩,
      fun q _ => by rw [hregs.p, hregs.pPoison, honly]; exact ⟨rfl, rfl⟩⟩
    rw [← regsFor_eq_max] at hq
    obtain ⟨hv, hp⟩ := hget q l hl
    rw [if_neg (by omega)] at hv hp
    rw [hregs.vLane, hregs.vPoison]
    exact ⟨hv, hp⟩
  · have hout : l ∉ lanesOf i.lanes := fun hin => by rw [(mem_lanesOf_iff_on hl).mp hin] at hoff; exact absurd hoff nofun
    have hkept := fun q => hget q l hl
    simp only [hout, false_and, if_false] at hkept
    rw [srcLane_vec t i wd hcode, srcLane_vec s i wd hcode]
    simp only [hregs.vLane, hregs.vPoison, fun q => (hkept q).1, fun q => (hkept q).2]
  · have hin : l ∈ lanesOf i.lanes := (mem_lanesOf_iff_on hl).mpr hon
    have hthere : ∀ j ∈ List.range (regsFor wd), l ∈ lanesOf i.lanes ∧ i.o 0 ≤ i.o 0 + j ∧ i.o 0 + j < i.o 0 + regsFor wd := fun j hj =>
      ⟨hin, by omega, by have := List.mem_range.mp hj; omega⟩
    rw [srcLane_vec t i wd hcode]
    dsimp only
    constructor
    · have hone : 0 < regsFor wd := by unfold regsFor; split <;> omega
      have hbit : ∀ j ∈ List.range (regsFor wd), mget (crw t i.c i.slot).vPoison (32 * (i.o 0 + j) + l) false = pz l := fun j hj => by
        rw [hregs.vPoison, (hget (i.o 0 + j) l hl).2, if_pos (hthere j hj), hpz l hl]
      rw [Bool.eq_iff_iff, List.any_eq_true]
      exact ⟨fun ⟨j, hj, hset⟩ => hbit j hj ▸ hset, fun hset => ⟨0, List.mem_range.mpr hone, (hbit 0 (List.mem_range.mpr hone)).trans hset⟩⟩
    · intro v hv
      obtain ⟨hr, hlt⟩ := hval l hl v hv
      have hsize : 32 * regsFor wd = wd := by rcases hwd with rfl | rfl <;> rfl
      rw [if_neg (by rw [hcode]; exact nofun), List.foldl_ext _ (fun u j => u + v / 2 ^ (32 * j) % 2 ^ 32 * 2 ^ (32 * j)) 0 fun u j hj => by
        rw [hregs.vLane, (hget (i.o 0 + j) l hl).1, if_pos (hthere j hj), Nat.add_sub_cancel_left, hr]]
      rw [foldl_digits, hsize, Nat.mod_mod, Nat.mod_eq_of_lt hlt]

/-- Results in a predicate. -/
theorem PutsLanes.lanesGive_pred (hcode : opKind (i.o 0) = .pred) {pz : Nat → Bool} {val : Nat → Option Nat}
    (hpz : ∀ l, l < 32 → (r l).2 = pz l) (hval : ∀ l, l < 32 → ∀ v, val l = some v → (r l).1 = v) : Safety.lanesGive s t i wd pz val := by
  obtain ⟨honly, hother, hget⟩ := Crew.putLanes_pred wd r (crw s i.c i.slot) hcode (ls := lanesOf i.lanes) fun l hl => (mem_lanesOf.mp hl).1
  have hregs := h.regs
  generalize (crw s i.c i.slot).putLanes wd (i.o 0) r (lanesOf i.lanes) = y at honly hother hget hregs
  refine ⟨?_, fun l hl hoff => ?_, fun l hl hon => ?_⟩
  · unfold Safety.keepsOthers
    rw [hcode]
    dsimp only
    refine ⟨fun q l _ _ => by rw [hregs.vLane, hregs.vPoison, honly]; exact ⟨rfl, rfl⟩, fun q _ => by rw [hregs.s, hregs.sPoison, honly]; exact ⟨rfl, rfl⟩,
      fun q hq => by rw [hregs.p, hregs.pPoison]; exact hother q hq⟩
  · obtain ⟨hp, hpoison⟩ := hget l hl
    have hout : l ∉ lanesOf i.lanes := fun hin => by rw [(mem_lanesOf_iff_on hl).mp hin] at hoff; exact absurd hoff nofun
    rw [if_neg hout] at hp hpoison
    rw [srcLane_pred t i wd hcode, srcLane_pred s i wd hcode, hregs.p, hregs.pPoison, hp, hpoison]
  · obtain ⟨hp, hpoison⟩ := hget l hl
    have hin : l ∈ lanesOf i.lanes := (mem_lanesOf_iff_on hl).mpr hon
    rw [if_pos hin] at hp hpoison
    rw [srcLane_pred t i wd hcode, hregs.p, hregs.pPoison, hp, hpoison]
    exact ⟨hpz l hl, fun v hv => by rw [if_pos hcode, ← hval l hl v hv]; exact mod_two_eq_b2n_bit _⟩

/-- Results in either kind of destination. -/
theorem PutsLanes.lanesGive (hcode : opKind (i.o 0) = .vec ∨ opKind (i.o 0) = .pred) (hwd : wd = 32 ∨ wd = 64) {pz : Nat → Bool} {val : Nat → Option Nat}
    (hpz : ∀ l, l < 32 → (r l).2 = pz l) (hval : ∀ l, l < 32 → ∀ v, val l = some v → (r l).1 = v ∧ v < 2 ^ wd) : Safety.lanesGive s t i wd pz val := by
  rcases hcode with hcode | hcode
  · exact h.lanesGive_vec hcode hwd hpz hval
  · exact h.lanesGive_pred hcode hpz fun l hl v hv => (hval l hl v hv).1

end

/-! ### What the bits of a word say (R131 to R133, R566) -/

/-- An R-format word that raises nothing by its bits: the destination is of the shape's kind, and a shape without the 64-bit type has 32-bit operands. -/
theorem of_rCodes {h : RShape} {x : Crew} {i : Ins} (hcodes : rCodes h x i = []) :
    (h.dst = .vec → opKind (i.o 0) = .vec ∨ opKind (i.o 0) = .pred) ∧ (h.dst ≠ .vec → opKind (i.o 0) = h.dst) ∧ (h.wide = false → i.wd = 32) := by
  have hnone : ∀ {p : Prop} [Decidable p] {n : Nat}, (if p then [] else [n]) = [] → p := fun {p _ n} h => by
    by_contra hp
    rw [if_neg hp] at h
    exact absurd h nofun
  unfold rCodes at hcodes
  simp only [List.append_eq_nil_iff] at hcodes
  obtain ⟨⟨⟨⟨⟨htyp, -⟩, -⟩, -⟩, hdst⟩, -⟩ := hcodes
  refine ⟨fun hv => ?_, fun hv => ?_, fun hwide => ?_⟩
  · rw [hv] at hdst
    exact hnone hdst
  · split at hdst
    next hvec => exact absurd hvec hv
    · exact hnone hdst
  · rw [hwide] at htyp
    unfold Ins.wd
    split
    next hone => rw [hone] at htyp; simp at htyp
    · rfl

theorem wd_eq (i : Ins) : i.wd = 32 ∨ i.wd = 64 := by
  unfold Ins.wd
  split
  · exact .inr rfl
  · exact .inl rfl

/-! ### Sources fit their width (R131, R566) -/

/-- A source, negated or not, fits the width, where negation keeps to it. -/
theorem source_lt (s : State) (i : Ins) {wd : Nat} (hwd : 1 ≤ wd) {neg : Nat → Nat} (hneg : ∀ v, v < 2 ^ wd → neg v < 2 ^ wd) (k l : Nat) :
    (source s i wd neg k l).1 < 2 ^ wd := by
  have hlt := srcLane_lt s i hwd (i.o (k + 1)) l
  unfold source
  dsimp only
  split
  · split
    · exact lt_of_le_of_lt (Nat.sub_le _ _) (Nat.one_lt_two_pow (by omega))
    · exact hneg _ hlt
  · exact hlt

theorem sources_lt (s : State) (i : Ins) {wd : Nat} (hwd : 1 ≤ wd) {neg : Nat → Nat} (hneg : ∀ v, v < 2 ^ wd → neg v < 2 ^ wd) (n l k : Nat) :
    (sources s i wd neg n l).1.getD k 0 < 2 ^ wd := by
  unfold sources
  dsimp only
  rw [List.getD_eq_getElem?_getD, List.getElem?_map, List.getElem?_map]
  by_cases hk : k < n
  · rw [List.getElem?_range hk]
    exact source_lt s i hwd hneg k l
  · rw [List.getElem?_eq_none (by simpa using hk)]
    exact Nat.two_pow_pos wd

theorem wrap_lt (n : Nat) (v : Int) : wrap n v < 2 ^ n := by
  unfold wrap
  have h0 : (0 : Int) < 2 ^ n := by positivity
  have := Int.emod_lt_of_pos v h0
  have := Int.emod_nonneg v h0.ne'
  zify
  omega

theorem negInt_lt (wd v : Nat) : negInt wd v < 2 ^ wd := wrap_lt wd _
theorem negF32_lt {v : Nat} (h : v < 2 ^ 32) : negF32 v < 2 ^ 32 := Nat.xor_lt_two_pow h (by decide)
theorem negPacked_lt {v : Nat} (h : v < 2 ^ 32) : negPacked v < 2 ^ 32 := Nat.xor_lt_two_pow h (by decide)

end Sys2Proof.Machine
end

section
/-! The values of the integer class and of integer compares (R135, R136, R566), on sources that fit their width, as bit vectors have them. -/
namespace Sys2Proof.Machine
open Sys2Proof

/-- A bit of a field of a word. -/
theorem testBit_fld (w hi lo j : Nat) (hj : j < hi + 1 - lo) : (fld w hi lo).testBit j = w.testBit (lo + j) := by
  unfold fld
  rw [Nat.testBit_mod_two_pow, decide_eq_true hj, Bool.true_and, Nat.testBit_shiftRight]

/-- The unsigned form of an integer instruction has an odd `MINOR`. -/
theorem bit50_eq (w : Nat) : bit w 50 = (fld w 57 50).testBit 0 := (testBit_fld w 57 50 0 (by decide)).symm

theorem wrap_eq_toNat_ofInt (n : Nat) (v : Int) : wrap n v = (BitVec.ofInt n v).toNat := by
  rw [BitVec.toNat_ofInt, wrap]
  push_cast
  rfl

/-- Sources of an instruction of a shape: each fits the width, which is 32 bits where the shape has no 64-bit type. -/
structure Fits (h : RShape) (wd : Nat) (a : List Nat) : Prop where
  width : wd = 32 ∨ wd = 64
  narrow : h.wide = false → wd = 32
  lt : ∀ k, a.getD k 0 < 2 ^ wd

/-- A source as a bit vector. -/
abbrev bvAt (wd : Nat) (a : List Nat) (k : Nat) : BitVec wd := BitVec.ofNat wd (a.getD k 0)

theorem subW_eq (wd : Nat) (a : List Nat) : subW wd a = (bvAt wd a 0 - bvAt wd a 1).toNat := by
  have hsub : BitVec.ofInt wd ((a.getD 0 0 : Int) - a.getD 1 0) = bvAt wd a 0 - bvAt wd a 1 := by
    rw [Int.sub_eq_add_neg, BitVec.ofInt_add, BitVec.ofInt_neg, BitVec.ofInt_natCast, BitVec.ofInt_natCast, BitVec.sub_eq_add_neg]
  rw [subW, wrap_eq_toNat_ofInt, hsub]

section
variable {h : RShape} {wd : Nat} {a : List Nat} (ha : Fits h wd a)
include ha

theorem Fits.pos : 1 ≤ wd := by have := ha.width; omega

theorem Fits.toNat (k : Nat) : (bvAt wd a k).toNat = a.getD k 0 := by rw [BitVec.toNat_ofNat, Nat.mod_eq_of_lt (ha.lt k)]

theorem Fits.bit_lt (b : Bool) : b2n b < 2 ^ wd := by
  have : 1 < 2 ^ wd := Nat.one_lt_two_pow (by have := ha.pos; omega)
  cases b
  · exact Nat.zero_lt_of_lt this
  · exact this

theorem addW_eq : addW wd a = (bvAt wd a 0 + bvAt wd a 1).toNat := by
  rw [BitVec.toNat_add, ha.toNat, ha.toNat]; rfl

theorem mulW_eq : mulW wd a = (bvAt wd a 0 * bvAt wd a 1).toNat := by
  rw [BitVec.toNat_mul, ha.toNat, ha.toNat]; rfl

theorem mulaW_eq : mulaW wd a = (bvAt wd a 0 * bvAt wd a 1 + bvAt wd a 2).toNat := by
  rw [BitVec.toNat_add, BitVec.toNat_mul, ha.toNat, ha.toNat, ha.toNat, Nat.mod_add_mod]; rfl

/-- The order of two sources, signed or unsigned. -/
theorem ltW_eq (uns : Bool) (j k : Nat) :
    ltW uns wd (a.getD j 0) (a.getD k 0) = if uns then (bvAt wd a j).ult (bvAt wd a k) else (bvAt wd a j).slt (bvAt wd a k) := by
  unfold ltW
  split
  · rw [BitVec.ult, ha.toNat, ha.toNat]
  · rw [Bool.eq_iff_iff, decide_eq_true_iff]
    exact sext_lt_iff_slt ha.pos (ha.lt k) (ha.lt j)

theorem minW_signed : minW false wd a = (if (bvAt wd a 1).slt (bvAt wd a 0) then bvAt wd a 1 else bvAt wd a 0).toNat := by
  rw [minW, ltW_eq ha, apply_ite BitVec.toNat, ha.toNat, ha.toNat]; rfl

theorem minW_unsigned : minW true wd a = (if (bvAt wd a 1).ult (bvAt wd a 0) then bvAt wd a 1 else bvAt wd a 0).toNat := by
  rw [minW, ltW_eq ha, apply_ite BitVec.toNat, ha.toNat, ha.toNat]; rfl

theorem maxW_signed : maxW false wd a = (if (bvAt wd a 0).slt (bvAt wd a 1) then bvAt wd a 1 else bvAt wd a 0).toNat := by
  rw [maxW, ltW_eq ha, apply_ite BitVec.toNat, ha.toNat, ha.toNat]; rfl

theorem maxW_unsigned : maxW true wd a = (if (bvAt wd a 0).ult (bvAt wd a 1) then bvAt wd a 1 else bvAt wd a 0).toNat := by
  rw [maxW, ltW_eq ha, apply_ite BitVec.toNat, ha.toNat, ha.toNat]; rfl

/-- The absolute value of every value but the least. -/
theorem absW_eq (z : Nat) (hleast : bvAt wd a 0 ≠ BitVec.intMin wd) :
    absW wd a z = (bvAt wd a 0).toInt.natAbs ∧ (bvAt wd a 0).toInt.natAbs < 2 ^ wd := by
  have hpos := ha.pos
  have hne : a.getD 0 0 ≠ 2 ^ (wd - 1) := fun heq => hleast <| by
    refine BitVec.eq_of_toNat_eq ?_
    rw [ha.toNat, heq, BitVec.toNat_intMin, Nat.mod_eq_of_lt (Nat.pow_lt_pow_right (by decide) (by omega))]
  constructor
  · rw [absW, if_neg hne, sext_eq_toInt hpos (ha.lt 0)]
  · have hhalf : 2 ^ wd = 2 * 2 ^ (wd - 1) := by rw [← Nat.pow_succ', Nat.succ_eq_add_one, Nat.sub_add_cancel hpos]
    have hlt := BitVec.two_mul_toInt_lt (x := bvAt wd a 0)
    have hle := BitVec.le_two_mul_toInt (x := bvAt wd a 0)
    have hcast : (2 ^ wd : Int) = ((2 ^ wd : Nat) : Int) := by push_cast; rfl
    rw [hcast] at hlt hle
    omega

theorem shlW_eq (z : Nat) (hcount : a.getD 1 0 < wd) : shlW wd a z = (bvAt wd a 0 <<< a.getD 1 0).toNat := by
  rw [shlW, if_neg (by omega), BitVec.toNat_shiftLeft, ha.toNat, Nat.shiftLeft_eq]

theorem shrW_eq (z : Nat) (hcount : a.getD 1 0 < wd) : shrW wd a z = (bvAt wd a 0 >>> a.getD 1 0).toNat := by
  rw [shrW, if_neg (by omega), BitVec.toNat_ushiftRight, ha.toNat, Nat.shiftRight_eq_div_pow]

theorem sarW_eq (z : Nat) (hcount : a.getD 1 0 < wd) : sarW wd a z = ((bvAt wd a 0).sshiftRight (a.getD 1 0)).toNat := by
  rw [sarW, if_neg (by omega), wrap_eq_toNat_ofInt, sext_eq_toInt ha.pos (ha.lt 0), BitVec.sshiftRight, Int.shiftRight_eq_div_pow]

theorem and_eq_toNat : a.getD 0 0 &&& a.getD 1 0 = (bvAt wd a 0 &&& bvAt wd a 1).toNat := by rw [BitVec.toNat_and, ha.toNat, ha.toNat]
theorem or_eq_toNat : a.getD 0 0 ||| a.getD 1 0 = (bvAt wd a 0 ||| bvAt wd a 1).toNat := by rw [BitVec.toNat_or, ha.toNat, ha.toNat]
theorem xor_eq_toNat : a.getD 0 0 ^^^ a.getD 1 0 = (bvAt wd a 0 ^^^ bvAt wd a 1).toNat := by rw [BitVec.toNat_xor, ha.toNat, ha.toNat]

theorem notW_eq : notW wd (a.getD 0 0) = (~~~ bvAt wd a 0).toNat := by
  rw [notW, BitVec.toNat_not, ha.toNat, Nat.mod_eq_of_lt (ha.lt 0)]

theorem getLsbD_bvAt (k : Nat) {j : Nat} : (bvAt wd a k).getLsbD j = bit (a.getD k 0) j := by
  rw [← BitVec.testBit_toNat, ha.toNat]; rfl

theorem bcntW_eq : bcntW wd (a.getD 0 0) = (List.range wd).countP fun b => (bvAt wd a 0).getLsbD b := by
  rw [bcntW, List.countP_eq_length_filter]
  simp only [getLsbD_bvAt ha]

/-- Reversed bits, from the highest down. -/
theorem foldl_brev {n : Nat} (hn : n ≤ wd) :
    (List.range n).foldl (fun r i => if bit (a.getD 0 0) i then r + 2 ^ (wd - 1 - i) else r) 0
      = (bvAt wd a 0).reverse.toNat / 2 ^ (wd - n) * 2 ^ (wd - n) := by
  induction n with
  | zero => rw [Nat.sub_zero, Nat.div_eq_of_lt (BitVec.isLt _)]; simp
  | succ n ih =>
    have hbit : (bvAt wd a 0).reverse.toNat.testBit (wd - 1 - n) = bit (a.getD 0 0) n := by
      rw [BitVec.testBit_toNat, BitVec.getLsbD_reverse, BitVec.getMsbD_eq_getLsbD, decide_eq_true (by omega), Bool.true_and,
        show wd - 1 - (wd - 1 - n) = n by omega, getLsbD_bvAt ha]
    have hstep : wd - n = wd - (n + 1) + 1 := by omega
    rw [List.range_succ, List.foldl_append, ih (by omega), List.foldl_cons, List.foldl_nil, ← hbit, show wd - 1 - n = wd - (n + 1) by omega, hstep]
    generalize (bvAt wd a 0).reverse.toNat = r
    generalize wd - (n + 1) = m
    have hdigit : r / 2 ^ m = 2 * (r / 2 ^ (m + 1)) + (r / 2 ^ m) % 2 := by rw [Nat.pow_succ, ← Nat.div_div_eq_div_mul]; omega
    have hpow : r / 2 ^ (m + 1) * 2 ^ (m + 1) = 2 * (r / 2 ^ (m + 1)) * 2 ^ m := by rw [Nat.pow_succ]; ring
    rw [Nat.testBit_eq_decide_div_mod_eq, hdigit, Nat.add_mul, hpow]
    rcases Nat.mod_two_eq_zero_or_one (r / 2 ^ m) with hr | hr <;> simp [hr, Nat.add_mod]

theorem brevW_eq : brevW wd (a.getD 0 0) = (bvAt wd a 0).reverse.toNat := by
  have h := foldl_brev ha (le_refl wd)
  rw [Nat.sub_self, Nat.pow_zero, Nat.div_one, Nat.mul_one] at h
  exact h

end

/-- A run of values below `m` that a test accepts, and one at `m`, where the range goes so far, that it does not. -/
theorem length_takeWhile_range {p : Nat → Bool} {m n : Nat} (hmn : m ≤ n) (hall : ∀ i, i < m → p i = true) (hend : m < n → p m = false) :
    ((List.range n).takeWhile p).length = m := by
  obtain ⟨r, rfl⟩ := Nat.exists_eq_add_of_le hmn
  rw [List.range_add, List.takeWhile_append_of_pos fun i hi => hall i (List.mem_range.mp hi), List.length_append, List.length_range]
  cases r with
  | zero => rfl
  | succ r =>
    have hm : p m = false := hend (by omega)
    rw [List.range_succ_eq_map, List.map_cons, List.takeWhile_cons_of_neg (by simp [hm])]
    rfl

section
variable {h : RShape} {wd : Nat} {a : List Nat} (ha : Fits h wd a)
include ha

theorem clzW_eq : clzW wd (a.getD 0 0) = ((List.range wd).takeWhile fun b => !(bvAt wd a 0).getMsbD b).length := by
  have hlt := ha.lt 0
  have hmsb : ∀ b, b < wd → (bvAt wd a 0).getMsbD b = bit (a.getD 0 0) (wd - 1 - b) := fun b hb => by
    rw [BitVec.getMsbD_eq_getLsbD, decide_eq_true hb, Bool.true_and, getLsbD_bvAt ha]
  unfold clzW
  split
  next hzero =>
    refine (length_takeWhile_range (le_refl wd) (fun b hb => ?_) fun h => absurd h (lt_irrefl _)).symm
    rw [hmsb b hb, hzero, bit, Nat.zero_testBit]; rfl
  next hne =>
    have hlog : Nat.log2 (a.getD 0 0) < wd := (Nat.log2_lt hne).mpr hlt
    refine (length_takeWhile_range (by omega) (fun b hb => ?_) fun hb => ?_).symm
    · rw [hmsb b (by omega), bit, Nat.testBit_lt_two_pow]
      · rfl
      · exact (Nat.log2_lt hne).mp (by omega)
    · rw [hmsb _ hb, show wd - 1 - (wd - 1 - Nat.log2 (a.getD 0 0)) = Nat.log2 (a.getD 0 0) by omega, bit, Nat.testBit_log2 hne]; rfl

/-- An integer comparison by the order of the sources. -/
theorem icmpW_eq (uns : Bool) (m : Nat) : icmpW uns m wd a = b2n (condition m
    (if uns then (bvAt wd a 0).ult (bvAt wd a 1) else (bvAt wd a 0).slt (bvAt wd a 1))
    (if uns then (bvAt wd a 1).ult (bvAt wd a 0) else (bvAt wd a 1).slt (bvAt wd a 0))) := by
  rw [icmpW, ltW_eq ha, ltW_eq ha]

/-- A function of two predicates. -/
theorem plogV_lt (m : Nat) : plogV m (a.getD 0 0) (a.getD 1 0) < 2 ^ wd := by
  have h0 := ha.lt 0
  have h1 := ha.lt 1
  unfold plogV
  split
  · exact Nat.and_lt_two_pow _ h1
  · exact Nat.or_lt_two_pow h0 h1
  · exact Nat.xor_lt_two_pow h0 h1
  · exact lt_of_le_of_lt Nat.and_le_left h0

end

theorem plogV_eq (m p q : Nat) : plogV m p q = if m = 0 then p &&& q else if m = 1 then p ||| q else if m = 2 then p ^^^ q else p &&& (1 - q) := by
  unfold plogV
  split
  · rfl
  · rfl
  · rfl
  next h0 h1 h2 => rw [if_neg h0, if_neg h1, if_neg h2]

/-! ### `BPICK` (log 49) -/

theorem fld_byte (v n : Nat) : fld v (8 * n + 7) (8 * n) = v / 256 ^ n % 256 := by
  unfold fld
  rw [Nat.shiftRight_eq_div_pow, show 8 * n + 7 + 1 - 8 * n = 8 by omega, Nat.pow_mul]
  rfl

/-- The bytes of two 32-bit words in a row. -/
theorem byte_of_two_words {x y n : Nat} (hx : x < 2 ^ 32) (hn : n < 8) :
    (x + y * 2 ^ 32) / 256 ^ n % 256 = if n < 4 then fld x (8 * n + 7) (8 * n) else fld y (8 * n - 25) (8 * n - 32) := by
  split
  next hlow =>
    rw [fld_byte]
    have hsplit : y * 2 ^ 32 = 256 ^ n * (256 * (y * 256 ^ (3 - n))) := by
      rw [show (2 : Nat) ^ 32 = 256 ^ (n + 1 + (3 - n)) by rw [show n + 1 + (3 - n) = 4 by omega]; rfl, Nat.pow_add, Nat.pow_succ]; ring
    rw [hsplit, Nat.add_mul_div_left _ _ (Nat.pow_pos (by decide)), Nat.add_mul_mod_self_left]
  next hhigh =>
    obtain ⟨j, rfl⟩ := Nat.exists_eq_add_of_le (not_lt.mp hhigh)
    rw [show 8 * (4 + j) - 25 = 8 * j + 7 by omega, show 8 * (4 + j) - 32 = 8 * j by omega, fld_byte, Nat.pow_add, ← Nat.div_div_eq_div_mul,
      show (256 : Nat) ^ 4 = 2 ^ 32 by decide, Nat.add_mul_div_right _ _ (by decide), Nat.div_eq_of_lt hx, Nat.zero_add]

theorem bpickW_eq {a : List Nat} (z : Nat) (h0 : a.getD 0 0 < 2 ^ 32) (hix : ∀ b, b < 4 → fld (a.getD 2 0) (8 * b + 7) (8 * b) < 8) :
    bpickW a z = (List.range 4).foldl (fun r b => r + (a.getD 0 0 + a.getD 1 0 * 2 ^ 32) / 256 ^ fld (a.getD 2 0) (8 * b + 7) (8 * b) % 256 * 256 ^ b) 0 := by
  unfold bpickW
  refine List.foldl_ext _ _ 0 fun r b hb => ?_
  have hn := hix b (List.mem_range.mp hb)
  dsimp only
  rw [byte_of_two_words h0 hn, Nat.pow_mul, if_pos hn]

theorem bytes_lt (f : Nat → Nat) (hf : ∀ b, f b < 256) (n : Nat) : (List.range n).foldl (fun r b => r + f b * 256 ^ b) 0 < 256 ^ n := by
  induction n with
  | zero => simp
  | succ n ih =>
    rw [List.range_succ, List.foldl_append, List.foldl_cons, List.foldl_nil, Nat.pow_succ]
    have := hf n
    nlinarith

end Sys2Proof.Machine
end

section
/-! The integer class, compares, `PICK` and `MOV` (R130 to R136, R167, R566): what issuing one of them puts into its lanes. -/
namespace Sys2Proof.Machine
open Sys2Proof

/-! ### Issue of a lane-wise instruction -/

/-- An instruction that is performed and issued lane by lane: its body, on a resident crew, with a destination that takes lanes. -/
theorem issue_lanes {s : State} {c k w ext : Nat} {h : RShape} {mine : Nat → Nat → Bool} (body : State → Ins → State)
    (hperf : Safety.performs s c k w ext (rCodes h (crw s c k) (Safety.insAt s c k w ext)) = true)
    (hmine : mine (fld w 63 58) (fld w 57 50) = true) (hdst : h.dst = .vec ∨ h.dst = .pred) :
    issue s c k mine false (rCodes h) body = body s (Safety.insAt s c k w ext) ∧ resident s (Safety.insAt s c k w ext) = true
      ∧ (opKind ((Safety.insAt s c k w ext).o 0) = .vec ∨ opKind ((Safety.insAt s c k w ext).o 0) = .pred)
      ∧ (h.wide = false → (Safety.insAt s c k w ext).wd = 32) := by
  obtain ⟨hmay, hcodes⟩ := of_performs hperf
  obtain ⟨hthere, -⟩ := of_mayIssue hmay
  obtain ⟨hvec, hother, hwide⟩ := of_rCodes hcodes
  refine ⟨issue_performs false body hperf hmine (.inr rfl), hthere, ?_, hwide⟩
  rcases hdst with hd | hd
  · exact hvec hd
  · exact .inr ((hother (by rw [hd]; exact nofun)).trans hd)

/-! ### Integer operations -/

/-- An integer operation: its command, `MAJOR` and `MINOR`, its shape, and the result that a lane takes of `MOD`[2:0], the width and the values
of its sources, where one is stated. -/
abbrev IntOp := (Nat → Nat → Instr) × Nat × Nat × RShape × (Nat → Nat → List Nat → Option Nat)

/-- Every instruction of an integer operation that is performed puts the operation's results into its lanes and changes nothing else. -/
def IntOp.Performed (op : IntOp) : Prop :=
  ∀ (s : State) (c k w ext : Nat), fld w 63 58 = op.2.1 → fld w 57 50 = op.2.2.1 →
    Safety.performs s c k w ext (rCodes op.2.2.2.1 (crw s c k) (Safety.insAt s c k w ext)) = true →
    let i := Safety.insAt s c k w ext
    let src := fun l => sources s i i.wd (negInt i.wd) op.2.2.2.1.n l
    ∃ t, Machine.exec (op.1 c k) s = .next t ∧ Safety.onlyCrew s t c k
      ∧ Safety.lanesGive s t i i.wd (fun l => (src l).2) fun l => op.2.2.2.2 (fld w 2 0) i.wd (src l).1

section
variable {instr : Nat → Nat → Instr} {major minor : Nat} {h : RShape} {res : Nat → Nat → List Nat → Option Nat} {mine : Nat → Nat → Bool}

/-- Per-lane results `g` of the sources, written in a state that has at most drawn free values, are the operation's where they agree with it. -/
theorem IntOp.Performed.of_writeLanes {body : State → Ins → State} (g : State → Ins → Nat → List Nat → Nat) (drawn : State → State)
    (hexec : ∀ s c k, Machine.exec (instr c k) s = .next (issue s c k mine false (rCodes h) body))
    (hmine : mine major minor = true) (hdst : h.dst = .vec ∨ h.dst = .pred) (hdrawn : ∀ s, ∃ n, drawn s = { s with free := n })
    (hbody : ∀ s i, body s i = step1 (writeLanes (drawn s) i i.wd (i.o 0) fun l =>
      (g s i l (sources s i i.wd (negInt i.wd) h.n l).1, (sources s i i.wd (negInt i.wd) h.n l).2)) i)
    (hres : ∀ s i l a v, fld i.w 57 50 = minor → Fits h i.wd a → res (fld i.w 2 0) i.wd a = some v → g s i l a = v ∧ v < 2 ^ i.wd) :
    IntOp.Performed (instr, major, minor, h, res) := by
  intro s c k w ext hmajor hminor hperf i src
  obtain ⟨hissue, hthere, hkind, hnarrow⟩ := issue_lanes body hperf (by rw [hmajor, hminor]; exact hmine) hdst
  obtain ⟨n, hn⟩ := hdrawn s
  have hputs : PutsLanes (drawn s) (body s i) i i.wd fun l => (g s i l (src l).1, (src l).2) := by
    rw [hbody]
    refine putsLanes_step1 ?_ _ _ (onlyCrew_refl _ _ _) (.refl _)
    rw [hn]
    exact hthere
  have hfits : ∀ l, Fits h i.wd (src l).1 := fun l =>
    ⟨wd_eq i, hnarrow, fun j => sources_lt s i (by have := wd_eq i; omega) (fun v _ => negInt_lt _ v) _ l j⟩
  have honly : Safety.onlyCrew s (drawn s) c k := by rw [hn]; exact onlyCrew_free s c k n
  refine ⟨body s i, by rw [hexec, hissue], onlyCrew_trans honly hputs.only, ?_⟩
  have hgive := hputs.lanesGive hkind (wd_eq i) (fun _ _ => rfl) fun l _ v hv => hres s i l (src l).1 v hminor (hfits l) hv
  rw [hn] at hgive
  exact hgive

/-- Operations whose result the spec states for all operands. -/
theorem IntOp.Performed.of_intLanes {f : Nat → Nat → List Nat → Nat}
    (hexec : ∀ s c k, Machine.exec (instr c k) s = .next (issue s c k mine false (rCodes h) fun s i => step1 (intLanes h.n (f i.w) s i) i))
    (hmine : mine major minor = true) (hdst : h.dst = .vec ∨ h.dst = .pred)
    (hres : ∀ w wd a v, fld w 57 50 = minor → Fits h wd a → res (fld w 2 0) wd a = some v → f w wd a = v ∧ v < 2 ^ wd) :
    IntOp.Performed (instr, major, minor, h, res) :=
  IntOp.Performed.of_writeLanes (fun _ i _ a => f i.w i.wd a) id hexec hmine hdst (fun s => ⟨s.free, rfl⟩) (fun _ _ => rfl)
    fun _ i _ a v => hres i.w i.wd a v

/-- Operations whose result is a bit vector of the width. -/
theorem IntOp.Performed.of_bitVec {f : Nat → Nat → List Nat → Nat} {g : Nat → (wd : Nat) → List Nat → BitVec wd}
    (hexec : ∀ s c k, Machine.exec (instr c k) s = .next (issue s c k mine false (rCodes h) fun s i => step1 (intLanes h.n (f i.w) s i) i))
    (hmine : mine major minor = true) (hdst : h.dst = .vec ∨ h.dst = .pred)
    (hres : ∀ w wd a, fld w 57 50 = minor → Fits h wd a → f w wd a = (g (fld w 2 0) wd a).toNat) :
    IntOp.Performed (instr, major, minor, h, fun m wd a => some (g m wd a).toNat) :=
  IntOp.Performed.of_intLanes hexec hmine hdst fun w wd a v hminor ha hv => by
    obtain rfl := Option.some.inj hv
    exact ⟨hres w wd a hminor ha, BitVec.isLt _⟩

/-- Operations whose result is open for some operands: there the lane takes free bits. -/
theorem IntOp.Performed.of_intLanesFree {f : Nat → List Nat → Nat → Nat}
    (hexec : ∀ s c k, Machine.exec (instr c k) s = .next (issue s c k mine false (rCodes h) fun s i => step1 (intLanesFree h.n f s i) i))
    (hmine : mine major minor = true) (hdst : h.dst = .vec ∨ h.dst = .pred)
    (hres : ∀ m wd a v z, Fits h wd a → res m wd a = some v → f wd a z = v ∧ v < 2 ^ wd) :
    IntOp.Performed (instr, major, minor, h, res) :=
  IntOp.Performed.of_writeLanes (fun s i l a => f i.wd a ((draw s (2 ^ 2048)).1 / 2 ^ (64 * l) % 2 ^ i.wd)) (fun s => (draw s (2 ^ 2048)).2)
    hexec hmine hdst (fun s => ⟨s.free + 1, rfl⟩) (fun _ _ => rfl) fun _ i _ a v _ => hres (fld i.w 2 0) i.wd a v _

/-- Shifts: a count of the width or more has no stated result. -/
theorem IntOp.Performed.of_shift {f : Nat → List Nat → Nat → Nat} {g : (wd : Nat) → List Nat → BitVec wd}
    (hexec : ∀ s c k, Machine.exec (instr c k) s = .next (issue s c k mine false (rCodes h) fun s i => step1 (intLanesFree h.n f s i) i))
    (hmine : mine major minor = true) (hdst : h.dst = .vec ∨ h.dst = .pred)
    (hres : ∀ wd a z, Fits h wd a → a.getD 1 0 < wd → f wd a z = (g wd a).toNat) :
    IntOp.Performed (instr, major, minor, h, fun _ wd a => if a.getD 1 0 < wd then some (g wd a).toNat else none) :=
  IntOp.Performed.of_intLanesFree hexec hmine hdst fun _ wd a v z ha hv => by
    obtain ⟨hcount, hv⟩ := Option.ite_none_right_eq_some.mp hv
    obtain rfl := Option.some.inj hv
    exact ⟨hres wd a z ha hcount, BitVec.isLt _⟩

/-- Operations whose result is a truth value. -/
theorem IntOp.Performed.of_bool {f : Nat → Nat → List Nat → Nat} {g : Nat → Nat → List Nat → Bool}
    (hexec : ∀ s c k, Machine.exec (instr c k) s = .next (issue s c k mine false (rCodes h) fun s i => step1 (intLanes h.n (f i.w) s i) i))
    (hmine : mine major minor = true) (hdst : h.dst = .vec ∨ h.dst = .pred)
    (hres : ∀ w wd a, fld w 57 50 = minor → Fits h wd a → f w wd a = b2n (g (fld w 2 0) wd a)) :
    IntOp.Performed (instr, major, minor, h, fun m wd a => some (b2n (g m wd a))) :=
  IntOp.Performed.of_intLanes hexec hmine hdst fun w wd a v hminor ha hv => by
    obtain rfl := Option.some.inj hv
    exact ⟨hres w wd a hminor ha, ha.bit_lt _⟩

end

/-- The form of `IMIN`, `IMAX` and `ICMP` by the lowest bit of `MINOR`. -/
theorem bit50_of_minor {w minor : Nat} (h : fld w 57 50 = minor) : bit w 50 = minor.testBit 0 := by rw [bit50_eq, h]

/-- Settles O14: each instruction writes in its lanes, of the sources before it, a value that is the operation's on bit vectors. -/
theorem integerLaneResults : Obligations.IntegerLaneResults := by
  unfold Obligations.IntegerLaneResults
  intro bv ops op hop
  change IntOp.Performed op
  simp only [ops, List.mem_cons, List.not_mem_nil, or_false] at hop
  rcases hop with rfl | rfl | rfl | rfl | rfl | rfl | rfl | rfl | rfl | rfl | rfl | rfl | rfl | rfl | rfl | rfl | rfl | rfl | rfl | rfl | rfl | rfl | rfl
    | rfl | rfl
  · exact .of_bitVec (f := fun _ => addW) (fun _ _ _ => rfl) rfl (.inl rfl) fun _ wd a _ ha => addW_eq ha
  · exact .of_bitVec (f := fun _ => subW) (fun _ _ _ => rfl) rfl (.inl rfl) fun _ wd a _ _ => subW_eq wd a
  · exact .of_bitVec (f := fun _ => mulW) (fun _ _ _ => rfl) rfl (.inl rfl) fun _ wd a _ ha => mulW_eq ha
  · exact .of_bitVec (f := fun _ => mulaW) (fun _ _ _ => rfl) rfl (.inl rfl) fun _ wd a _ ha => mulaW_eq ha
  · exact .of_bitVec (f := fun w => minW (bit w 50)) (fun _ _ _ => rfl) rfl (.inl rfl) fun w wd a hm ha => by
      rw [bit50_of_minor hm]; exact minW_signed ha
  · exact .of_bitVec (f := fun w => minW (bit w 50)) (fun _ _ _ => rfl) rfl (.inl rfl) fun w wd a hm ha => by
      rw [bit50_of_minor hm]; exact minW_unsigned ha
  · exact .of_bitVec (f := fun w => maxW (bit w 50)) (fun _ _ _ => rfl) rfl (.inl rfl) fun w wd a hm ha => by
      rw [bit50_of_minor hm]; exact maxW_signed ha
  · exact .of_bitVec (f := fun w => maxW (bit w 50)) (fun _ _ _ => rfl) rfl (.inl rfl) fun w wd a hm ha => by
      rw [bit50_of_minor hm]; exact maxW_unsigned ha
  · refine .of_intLanesFree (f := absW) (fun _ _ _ => rfl) rfl (.inl rfl) fun _ wd a v z ha hv => ?_
    obtain ⟨hne, hv⟩ := Option.ite_none_left_eq_some.mp hv
    obtain rfl := Option.some.inj hv
    exact absW_eq ha z hne
  · exact .of_shift (f := shlW) (fun _ _ _ => rfl) rfl (.inl rfl) fun wd a z ha hcount => shlW_eq ha z hcount
  · exact .of_shift (f := shrW) (fun _ _ _ => rfl) rfl (.inl rfl) fun wd a z ha hcount => shrW_eq ha z hcount
  · exact .of_shift (f := sarW) (fun _ _ _ => rfl) rfl (.inl rfl) fun wd a z ha hcount => sarW_eq ha z hcount
  · exact .of_bitVec (f := fun _ _ a => a.getD 0 0 &&& a.getD 1 0) (fun _ _ _ => rfl) rfl (.inl rfl) fun _ wd a _ ha => and_eq_toNat ha
  · exact .of_bitVec (f := fun _ _ a => a.getD 0 0 ||| a.getD 1 0) (fun _ _ _ => rfl) rfl (.inl rfl) fun _ wd a _ ha => or_eq_toNat ha
  · exact .of_bitVec (f := fun _ _ a => a.getD 0 0 ^^^ a.getD 1 0) (fun _ _ _ => rfl) rfl (.inl rfl) fun _ wd a _ ha => xor_eq_toNat ha
  · exact .of_bitVec (f := fun _ wd a => notW wd (a.getD 0 0)) (fun _ _ _ => rfl) rfl (.inl rfl) fun _ wd a _ ha => notW_eq ha
  · refine .of_intLanes (f := fun _ wd a => bcntW wd (a.getD 0 0)) (fun _ _ _ => rfl) rfl (.inl rfl) fun _ wd a v _ ha hv => ?_
    obtain rfl := Option.some.inj hv
    exact ⟨bcntW_eq ha, lt_of_le_of_lt (List.countP_le_length.trans_eq List.length_range) Nat.lt_two_pow_self⟩
  · refine .of_intLanes (f := fun _ wd a => clzW wd (a.getD 0 0)) (fun _ _ _ => rfl) rfl (.inl rfl) fun _ wd a v _ ha hv => ?_
    obtain rfl := Option.some.inj hv
    exact ⟨clzW_eq ha, lt_of_le_of_lt ((List.takeWhile_prefix _).length_le.trans_eq List.length_range) Nat.lt_two_pow_self⟩
  · exact .of_bitVec (f := fun _ wd a => brevW wd (a.getD 0 0)) (fun _ _ _ => rfl) rfl (.inl rfl) fun _ wd a _ ha => brevW_eq ha
  · refine .of_intLanesFree (f := fun _ => bpickW) (fun _ _ _ => rfl) rfl (.inl rfl) fun _ wd a v z ha hv => ?_
    obtain ⟨hix, hv⟩ := Option.ite_none_right_eq_some.mp hv
    obtain rfl := Option.some.inj hv
    obtain rfl := ha.narrow rfl
    exact ⟨bpickW_eq z (ha.lt 0) hix, bytes_lt _ (fun b => Nat.mod_lt _ (by decide)) 4⟩
  · exact .of_bool (f := fun w => icmpW (bit w 50) (fld w 2 0)) (fun _ _ _ => rfl) rfl (.inr rfl) fun w wd a hm ha => by
      rw [bit50_of_minor hm]; exact icmpW_eq ha _ _
  · exact .of_bool (f := fun w => icmpW (bit w 50) (fld w 2 0)) (fun _ _ _ => rfl) rfl (.inr rfl) fun w wd a hm ha => by
      rw [bit50_of_minor hm]; exact icmpW_eq ha _ _
  · refine .of_intLanes (f := fun w _ a => plogV (fld w 2 0) (a.getD 0 0) (a.getD 1 0)) (fun _ _ _ => rfl) rfl (.inr rfl) fun w wd a v _ ha hv => ?_
    obtain rfl := Option.some.inj hv
    rw [← plogV_eq]
    exact ⟨rfl, plogV_lt ha _⟩
  · refine .of_intLanes (f := fun _ _ a => if a.getD 2 0 = 1 then a.getD 0 0 else a.getD 1 0) (fun _ _ _ => rfl) rfl (.inl rfl) fun _ wd a v _ ha hv => ?_
    obtain rfl := Option.some.inj hv
    refine ⟨rfl, ?_⟩
    split
    · exact ha.lt 0
    · exact ha.lt 1
  · refine .of_intLanes (f := fun _ _ a => a.getD 0 0) (fun _ _ _ => rfl) rfl (.inl rfl) fun _ wd a v _ ha hv => ?_
    obtain rfl := Option.some.inj hv
    exact ⟨rfl, ha.lt 0⟩

end Sys2Proof.Machine
end

section
/-! The values of the floating-point, packed and special-function classes (R135, R237, R251): codes that fit their format, and the operands whose
result the spec fixes. -/
namespace Sys2Proof.Machine
open Sys2Proof

/-! ### Codes of a format -/

/-- A code that a conversion gives fits the format's width, where the format's own codes do. -/
theorem Fmt.convert_lt {f : Fmt} (hmax : f.maxFin < 2 ^ (f.eb + f.mb)) (hinf : ∀ c, f.infCode = some c → c < 2 ^ (f.eb + f.mb))
    (hnan : ∀ c, f.nanCode = some c → c < 2 ^ (f.eb + f.mb)) (v : Num) : (f.convert v).code < 2 ^ (f.eb + f.mb + 1) := by
  have hsign : ∀ neg mag, mag < 2 ^ (f.eb + f.mb) → f.sign neg mag < 2 ^ (f.eb + f.mb + 1) := fun neg mag hmag => by
    have hneg : b2n neg * 2 ^ (f.eb + f.mb) ≤ 2 ^ (f.eb + f.mb) := by cases neg <;> simp [b2n]
    unfold Fmt.sign
    rw [Nat.pow_succ]
    omega
  have hpow : 2 ^ (f.eb + f.mb) < 2 ^ (f.eb + f.mb + 1) := Nat.pow_lt_pow_right (by decide) (Nat.lt_succ_self _)
  cases v with
  | nan =>
    refine lt_trans ?_ hpow
    change f.nanCode.getD f.maxFin < _
    cases hc : f.nanCode with
    | none => exact hmax
    | some c => exact hnan c hc
  | inf neg =>
    unfold Fmt.convert
    dsimp only
    split
    next c hc => exact hsign neg c (hinf c hc)
    next c _ hc => exact (hnan c hc).trans hpow
    · exact hsign neg _ hmax
  | fin neg m e =>
    unfold Fmt.convert
    dsimp only
    split
    · exact hsign neg _ hmax
    next h => exact hsign neg _ (lt_of_le_of_lt (not_lt.mp h) hmax)

theorem bf16_convert_lt (v : Num) : (bf16.convert v).code < 65536 :=
  Fmt.convert_lt (f := bf16) (by decide) (fun c hc => by obtain rfl := Option.some.inj hc; decide) (fun c hc => by obtain rfl := Option.some.inj hc; decide) v

theorem f16_convert_lt (v : Num) : (f16.convert v).code < 65536 :=
  Fmt.convert_lt (f := f16) (by decide) (fun c hc => by obtain rfl := Option.some.inj hc; decide) (fun c hc => by obtain rfl := Option.some.inj hc; decide) v

/-! ### Minimum, maximum, sign and order (R251; log 17) -/

theorem f32_fmin_of_nan {a b : Nat} (h : f32.decode a = .nan ∨ f32.decode b = .nan) : f32.fmin a b = 0x7FC00000 := by
  unfold Fmt.fmin
  split
  · rfl
  · rfl
  next ha hb => exact absurd (h.resolve_left ha) hb

theorem f32_fmin_of_num {a b : Nat} (ha : f32.decode a ≠ .nan) (hb : f32.decode b ≠ .nan) : f32.fmin a b =
    if (f32.decode a).lt (f32.decode b) then a else if (f32.decode b).lt (f32.decode a) then b else if a.testBit 31 then a else b := by
  unfold Fmt.fmin
  split
  next h => exact absurd h ha
  next h _ => exact absurd h hb
  · rfl

theorem f32_fmin_eq (a b : Nat) : f32.fmin a b = if decide (f32.decode a = .nan) || decide (f32.decode b = .nan) then 0x7FC00000
    else if (f32.decode a).lt (f32.decode b) || (a.testBit 31 && !(f32.decode b).lt (f32.decode a)) then a else b := by
  by_cases hnan : f32.decode a = .nan ∨ f32.decode b = .nan
  · rw [f32_fmin_of_nan hnan, if_pos (by simpa using hnan)]
  · rw [if_neg (by simpa using hnan)]
    rw [not_or] at hnan
    rw [f32_fmin_of_num hnan.1 hnan.2]
    cases (f32.decode a).lt (f32.decode b) <;> cases (f32.decode b).lt (f32.decode a) <;> cases a.testBit 31 <;> rfl

theorem f32_fmax_of_nan {a b : Nat} (h : f32.decode a = .nan ∨ f32.decode b = .nan) : f32.fmax a b = 0x7FC00000 := by
  unfold Fmt.fmax
  split
  · rfl
  · rfl
  next ha hb => exact absurd (h.resolve_left ha) hb

theorem f32_fmax_of_num {a b : Nat} (ha : f32.decode a ≠ .nan) (hb : f32.decode b ≠ .nan) : f32.fmax a b =
    if (f32.decode a).lt (f32.decode b) then b else if (f32.decode b).lt (f32.decode a) then a else if a.testBit 31 then b else a := by
  unfold Fmt.fmax
  split
  next h => exact absurd h ha
  next h _ => exact absurd h hb
  · rfl

theorem f32_fmax_eq (a b : Nat) : f32.fmax a b = if decide (f32.decode a = .nan) || decide (f32.decode b = .nan) then 0x7FC00000
    else if (f32.decode a).lt (f32.decode b) || (a.testBit 31 && !(f32.decode b).lt (f32.decode a)) then b else a := by
  by_cases hnan : f32.decode a = .nan ∨ f32.decode b = .nan
  · rw [f32_fmax_of_nan hnan, if_pos (by simpa using hnan)]
  · rw [if_neg (by simpa using hnan)]
    rw [not_or] at hnan
    rw [f32_fmax_of_num hnan.1 hnan.2]
    cases (f32.decode a).lt (f32.decode b) <;> cases (f32.decode b).lt (f32.decode a) <;> cases a.testBit 31 <;> rfl

/-- A 32-bit code is its sign bit and its magnitude. -/
theorem sign_add_mag {a : Nat} (ha : a < 2 ^ 32) : f32.sign (a.testBit 31) (a % 2 ^ 31) = a := by
  change b2n (a.testBit 31) * 2 ^ 31 + a % 2 ^ 31 = a
  rw [Nat.testBit_eq_decide_div_mod_eq]
  by_cases h : a / 2 ^ 31 % 2 = 1 <;> simp only [h, b2n] <;> simp <;> omega

theorem f32_fneg_eq {a : Nat} (ha : a < 2 ^ 32) :
    f32.fneg a = if decide (f32.decode a = .nan) then 0x7FC00000 else (BitVec.ofNat 32 a ^^^ 0x80000000#32).toNat := by
  have hxor : (BitVec.ofNat 32 a ^^^ 0x80000000#32).toNat = a ^^^ 2 ^ 31 := by
    rw [BitVec.toNat_xor, BitVec.toNat_ofNat, Nat.mod_eq_of_lt ha]; rfl
  have hflip : a ^^^ 2 ^ 31 = if a.testBit 31 then a % 2 ^ 31 else a % 2 ^ 31 + 2 ^ 31 := by
    refine Nat.eq_of_testBit_eq fun j => ?_
    have hhigh : 31 < j → a.testBit j = false := fun hj => Nat.testBit_lt_two_pow (ha.trans_le (Nat.pow_le_pow_right (by decide) hj))
    have hor : a % 2 ^ 31 + 2 ^ 31 = 2 ^ 31 ||| a % 2 ^ 31 := by
      have h := Nat.two_pow_add_eq_or_of_lt (i := 31) (b := a % 2 ^ 31) (Nat.mod_lt _ (by decide)) 1
      rw [Nat.mul_one] at h
      rw [Nat.add_comm, h]
    rw [Nat.testBit_xor, Nat.testBit_two_pow, hor, apply_ite (Nat.testBit · j), Nat.testBit_or, Nat.testBit_two_pow, Nat.testBit_mod_two_pow]
    rcases lt_trichotomy j 31 with hj | rfl | hj
    · simp [hj, show (31 : Nat) ≠ j by omega]
    · cases a.testBit 31 <;> rfl
    · simp [hhigh hj, show ¬ j < 31 by omega, show (31 : Nat) ≠ j by omega]
  unfold Fmt.fneg
  simp only [decide_eq_true_eq, hxor, hflip]
  rfl

theorem fcmpV_eq (m : Nat) (a : List Nat) : fcmpV m a = if decide (f32.decode (a.getD 0 0) = .nan) || decide (f32.decode (a.getD 1 0) = .nan) then b2n (m == 1)
    else b2n (condition m ((f32.decode (a.getD 0 0)).lt (f32.decode (a.getD 1 0))) ((f32.decode (a.getD 1 0)).lt (f32.decode (a.getD 0 0)))) := by
  by_cases hnan : f32.decode (a.getD 0 0) = .nan ∨ f32.decode (a.getD 1 0) = .nan
  · rw [if_pos (by simpa using hnan)]
    unfold fcmpV
    split
    · rfl
    · rfl
    next ha hb => exact absurd (hnan.resolve_left ha) hb
  · rw [if_neg (by simpa using hnan)]
    unfold fcmpV
    split
    next h => exact absurd (.inl h) hnan
    next h _ => exact absurd (.inr h) hnan
    · rfl

/-! ### Special functions (R251; log 4) -/

/-- What a binary32 code is, by its magnitude: a NaN, an infinity, or a finite value, zero at magnitude 0. -/
theorem f32_decode_cases (a : Nat) : (f32.decode a = .nan ∧ 0x7F800000 < a % 2 ^ 31) ∨ (f32.decode a = .inf (a.testBit 31) ∧ a % 2 ^ 31 = 0x7F800000)
    ∨ ∃ m e, f32.decode a = .fin (a.testBit 31) m e ∧ a % 2 ^ 31 < 0x7F800000 ∧ (m = 0 ↔ a % 2 ^ 31 = 0) := by
  have hdecode : f32.decode a = if 0x7F7FFFFF < a % 2 ^ 31 then if some 0x7F800000 = some (a % 2 ^ 31) then .inf (a.testBit 31) else .nan
      else if a % 2 ^ 31 / 2 ^ 23 = 0 then .fin (a.testBit 31) (a % 2 ^ 31 % 2 ^ 23) (1 - (127 : Int) - 23)
      else .fin (a.testBit 31) (2 ^ 23 + a % 2 ^ 31 % 2 ^ 23) ((a % 2 ^ 31 / 2 ^ 23 : Nat) - (127 : Int) - 23) := rfl
  rw [hdecode]
  generalize a % 2 ^ 31 = mag
  split
  · split
    next hinf => exact .inr (.inl ⟨rfl, (Option.some.inj hinf).symm⟩)
    next hinf => exact .inl ⟨rfl, by have : 0x7F800000 ≠ mag := fun h => hinf (congrArg some h); omega⟩
  · split
    · exact .inr (.inr ⟨_, _, rfl, by omega, by omega⟩)
    · exact .inr (.inr ⟨_, _, rfl, by omega, by omega⟩)

/-- Only `RCP` and `EX2` saturate. -/
theorem specialSat_of_ne {op : Nat} (h0 : op ≠ 0) (h2 : op ≠ 2) (a : Nat) : specialSat op a = false := by
  unfold specialSat
  split
  · split
    · exact absurd rfl h0
    · exact absurd rfl h2
    · rfl
  · rfl

/-- Magnitudes of zero and of infinity. -/
theorem sign_zero_inf {a : Nat} (ha : a < 2 ^ 32) : (a % 2 ^ 31 = 0 → f32.sign (a.testBit 31) 0x7F800000 = a + 0x7F800000 ∧ a + 0x7F800000 < 2 ^ 32)
    ∧ (a % 2 ^ 31 = 0x7F800000 → f32.sign (a.testBit 31) 0 = a - 0x7F800000) := by
  have hsign : b2n (a.testBit 31) * 2 ^ 31 + a % 2 ^ 31 = a := sign_add_mag ha
  change (_ → b2n (a.testBit 31) * 2 ^ 31 + 0x7F800000 = _ ∧ _) ∧ (_ → b2n (a.testBit 31) * 2 ^ 31 + 0 = _)
  omega

section
variable {a v : Nat} (ha : a < 2 ^ 32)
include ha

theorem special_rcp (h : (if decide (f32.decode a = .nan) then some 0x7FC00000 else if a % 2 ^ 31 = 0 then some (a + 0x7F800000)
    else if a % 2 ^ 31 = 0x7F800000 then some (a - 0x7F800000) else none) = some v) : special 0 0 a = v ∧ v < 2 ^ 32 := by
  obtain ⟨hzeroes, hinfs⟩ := sign_zero_inf ha
  unfold special specialFn
  rcases f32_decode_cases a with ⟨hd, -⟩ | ⟨hd, hmag⟩ | ⟨m, e, hd, hmag, hzero⟩
  · rw [hd] at h ⊢
    obtain rfl := Option.some.inj h
    exact ⟨rfl, by decide⟩
  · rw [hd, hmag] at h
    rw [hd]
    obtain rfl := Option.some.inj h
    exact ⟨hinfs hmag, by omega⟩
  · rw [hd] at h ⊢
    rw [if_neg (by simp)] at h
    cases m with
    | zero =>
      rw [if_pos (hzero.mp rfl)] at h
      obtain rfl := Option.some.inj h
      exact hzeroes (hzero.mp rfl)
    | succ n =>
      rw [if_neg fun hz => absurd (hzero.mpr hz) (Nat.succ_ne_zero n), if_neg (by omega)] at h
      exact absurd h nofun

/-- `RSQ` and `LG2`: what they give for zeros, for NaN and negative values, and for infinity. -/
theorem special_root_log {op z p : Nat} (hop : op = 1 ∧ z = a + 0x7F800000 ∧ p = 0 ∨ op = 3 ∧ z = 0xFF800000 ∧ p = 0x7F800000)
    (h : (if a % 2 ^ 31 = 0 then some z else if decide (f32.decode a = .nan) || a.testBit 31 then some 0x7FC00000
      else if a = 0x7F800000 then some p else none) = some v) : special 0 op a = v ∧ v < 2 ^ 32 := by
  obtain ⟨hzeroes, -⟩ := sign_zero_inf ha
  unfold special specialFn
  rcases f32_decode_cases a with ⟨hd, hmag⟩ | ⟨hd, hmag⟩ | ⟨m, e, hd, hmag, hzero⟩
  · rw [if_neg (by omega), hd] at h
    rw [hd]
    obtain rfl := Option.some.inj h
    exact ⟨rfl, by decide⟩
  · rw [if_neg (by omega), hd] at h
    rw [hd]
    cases hs : a.testBit 31 with
    | true =>
      rw [hs] at h
      obtain rfl := Option.some.inj h
      rcases hop with ⟨rfl, -⟩ | ⟨rfl, -⟩ <;> exact ⟨rfl, by decide⟩
    | false =>
      have hone : a = 0x7F800000 := by rw [← sign_add_mag ha, hs, hmag]; rfl
      rw [hs, if_neg (by simp), if_pos hone] at h
      obtain rfl := Option.some.inj h
      rcases hop with ⟨rfl, -, rfl⟩ | ⟨rfl, -, rfl⟩ <;> exact ⟨rfl, by decide⟩
  · rw [hd] at h ⊢
    cases m with
    | zero =>
      rw [if_pos (hzero.mp rfl)] at h
      obtain rfl := Option.some.inj h
      rcases hop with ⟨rfl, rfl, -⟩ | ⟨rfl, rfl, -⟩
      · exact hzeroes (hzero.mp rfl)
      · exact ⟨rfl, by decide⟩
    | succ n =>
      rw [if_neg fun hz => absurd (hzero.mpr hz) (Nat.succ_ne_zero n)] at h
      cases hs : a.testBit 31 with
      | true =>
        rw [hs] at h
        obtain rfl := Option.some.inj h
        rcases hop with ⟨rfl, -⟩ | ⟨rfl, -⟩ <;> exact ⟨rfl, by decide⟩
      | false => rw [hs, if_neg (by simp), if_neg (by omega)] at h; exact absurd h nofun

theorem special_ex2 (h : (if decide (f32.decode a = .nan) then some 0x7FC00000 else if a = 0x7F800000 then some 0x7F800000
    else if a = 0xFF800000 then some 0 else none) = some v) : special 0 2 a = v ∧ v < 2 ^ 32 := by
  unfold special specialFn
  rcases f32_decode_cases a with ⟨hd, -⟩ | ⟨hd, hmag⟩ | ⟨m, e, hd, hmag, -⟩
  · rw [hd] at h ⊢
    obtain rfl := Option.some.inj h
    exact ⟨rfl, by decide⟩
  · have hone := sign_add_mag ha
    rw [hd, if_neg (by simp)] at h
    rw [hd]
    dsimp only
    cases hs : a.testBit 31 with
    | true =>
      obtain rfl : a = 0xFF800000 := by rw [hs, hmag] at hone; exact hone.symm
      obtain rfl := Option.some.inj h
      exact ⟨rfl, by decide⟩
    | false =>
      obtain rfl : a = 0x7F800000 := by rw [hs, hmag] at hone; exact hone.symm
      obtain rfl := Option.some.inj h
      exact ⟨rfl, by decide⟩
  · rw [hd, if_neg (by simp), if_neg (by omega), if_neg (by omega)] at h
    exact absurd h nofun

end

/-- `SIN` and `COS` of a NaN or an infinity. -/
theorem special_trig {op a v : Nat} (hop : op = 4 ∨ op = 5) (h : (if 0x7F800000 ≤ a % 2 ^ 31 then some 0x7FC00000 else none) = some v) :
    special 0 op a = v ∧ v < 2 ^ 32 := by
  obtain ⟨hmag, hv⟩ := Option.ite_none_right_eq_some.mp h
  obtain rfl := Option.some.inj hv
  refine ⟨?_, by decide⟩
  unfold special specialFn
  rcases f32_decode_cases a with ⟨hd, -⟩ | ⟨hd, -⟩ | ⟨m, e, -, hfin, -⟩
  · rw [hd]
  · rw [hd]
    rcases hop with rfl | rfl <;> rfl
  · omega

end Sys2Proof.Machine
end

section
/-! The floating-point, packed and special-function classes and `FCMP` (R135, R136, R167, R237, R251): what issuing one of them puts into its
lanes, and the saturations it counts. -/
namespace Sys2Proof.Machine
open Sys2Proof

theorem vecSat_updCrew (s : State) (c k : Nat) (f : Crew → Crew) (d : Nat) : (clu (updCrew s c k f) d).vecSat = (clu s d).vecSat := by
  unfold updCrew
  split
  · rw [clu_setClu]
    split
    next h => subst h; rfl
    · rfl
  · rfl

/-- A floating-point operation: its command, `MAJOR` and `MINOR`, its shape, the negation of its sources, and, of `MOD`[2:0] and the values of its
sources, the result that a lane takes, where one is stated, and the saturations it counts. -/
abbrev FloatOp := (Nat → Nat → Instr) × Nat × Nat × RShape × (Nat → Nat) × (Nat → List Nat → Option Nat × Nat)

/-- Every instruction of a floating-point operation that is performed puts the operation's results into its lanes, counts its saturations and
changes nothing else. -/
def FloatOp.Performed (op : FloatOp) : Prop :=
  ∀ (s : State) (c k w ext : Nat), fld w 63 58 = op.2.1 → fld w 57 50 = op.2.2.1 →
    Safety.performs s c k w ext (rCodes op.2.2.2.1 (crw s c k) (Safety.insAt s c k w ext)) = true →
    let i := Safety.insAt s c k w ext
    let src := fun l => sources s i 32 op.2.2.2.2.1 op.2.2.2.1.n l
    ∃ t, Machine.exec (op.1 c k) s = .next t ∧ Safety.onlyCrew s t c k
      ∧ Safety.lanesGive s t i 32 (fun l => (src l).2) (fun l => (op.2.2.2.2.2 (fld w 2 0) (src l).1).1)
      ∧ (clu t c).vecSat = (clu s c).vecSat + ((lanesOf i.lanes).map fun l => (op.2.2.2.2.2 (fld w 2 0) (src l).1).2).sum

/-- Four-byte sources. -/
def Words (a : List Nat) : Prop := ∀ k, a.getD k 0 < 2 ^ 32

/-- A lane's result `r`, with its saturations, is the one stated. -/
def Gives32 (r : Nat × Nat) (stated : Option Nat × Nat) : Prop := (∀ v, stated.1 = some v → r.1 = v ∧ v < 2 ^ 32) ∧ r.2 = stated.2

section
variable {instr : Nat → Nat → Instr} {major minor : Nat} {h : RShape} {neg : Nat → Nat} {res : Nat → List Nat → Option Nat × Nat}
  {mine : Nat → Nat → Bool}

/-- Per-lane results and saturations `g` of the sources are the operation's where they agree with it. -/
theorem FloatOp.Performed.of_puts {body : State → Ins → State} (g : Nat → List Nat → Nat × Nat)
    (hexec : ∀ s c k, Machine.exec (instr c k) s = .next (issue s c k mine false (rCodes h) body))
    (hmine : mine major minor = true) (hdst : h.dst = .vec ∨ h.dst = .pred) (hneg : ∀ v, v < 2 ^ 32 → neg v < 2 ^ 32)
    (hputs : ∀ s i, resident s i = true →
      PutsLanes s (body s i) i 32 (fun l => ((g i.w (sources s i 32 neg h.n l).1).1, (sources s i 32 neg h.n l).2))
        ∧ (clu (body s i) i.c).vecSat = (clu s i.c).vecSat + ((lanesOf i.lanes).map fun l => (g i.w (sources s i 32 neg h.n l).1).2).sum)
    (hres : ∀ w a, Words a → Gives32 (g w a) (res (fld w 2 0) a)) : FloatOp.Performed (instr, major, minor, h, neg, res) := by
  intro s c k w ext hmajor hminor hperf i src
  obtain ⟨hissue, hthere, hkind, -⟩ := issue_lanes body hperf (by rw [hmajor, hminor]; exact hmine) hdst
  obtain ⟨hput, hsat⟩ := hputs s i hthere
  have hgive : ∀ l, Gives32 (g w (src l).1) (res (fld w 2 0) (src l).1) := fun l => hres w _ fun j => sources_lt s i (by decide) hneg _ l j
  refine ⟨body s i, by rw [hexec, hissue], hput.only, hput.lanesGive hkind (.inl rfl) (fun _ _ => rfl) fun l _ => (hgive l).1, ?_⟩
  have hsum := hsat
  simp only [show ∀ l, (g i.w (sources s i 32 neg h.n l).1).2 = (res (fld w 2 0) (src l).1).2 from fun l => (hgive l).2] at hsum
  exact hsum

/-- Operations of `fpLanes`. -/
theorem FloatOp.Performed.of_fpLanes {f : List Nat → Nat × Nat}
    (hexec : ∀ s c k, Machine.exec (instr c k) s = .next (issue s c k mine false (rCodes h) fun s i => step1 (fpLanes neg h.n f s i) i))
    (hmine : mine major minor = true) (hdst : h.dst = .vec ∨ h.dst = .pred) (hneg : ∀ v, v < 2 ^ 32 → neg v < 2 ^ 32)
    (hres : ∀ m a, Words a → Gives32 (f a) (res m a)) : FloatOp.Performed (instr, major, minor, h, neg, res) := by
  refine .of_puts (fun _ => f) hexec hmine hdst hneg (fun s i hthere => ⟨?_, ?_⟩) fun w a ha => hres _ a ha
  · exact putsLanes_step1 hthere 32 _ (onlyCrew_vecSat _ _ _ _) (.setClu _ _ _ rfl)
  · rw [step1, vecSat_updCrew, fpLanes, clu_setClu_self, writeLanes, vecSat_updCrew, List.sum_eq_foldl]

/-- Operations of one binary32 conversion. -/
theorem FloatOp.Performed.of_f32 {f : List Nat → Nat × Bool} {v : List Nat → Num}
    (hexec : ∀ s c k, Machine.exec (instr c k) s = .next (issue s c k mine false (rCodes h) fun s i => step1 (fpLanes negF32 h.n (fun a => sat1 (f a)) s i) i))
    (hmine : mine major minor = true) (hdst : h.dst = .vec ∨ h.dst = .pred)
    (hf : ∀ a, f a = ((f32.convert (v a)).code, (f32.convert (v a)).sat)) :
    FloatOp.Performed (instr, major, minor, h, negF32, fun _ a => (some (f32.convert (v a)).code, if (f32.convert (v a)).sat then 1 else 0)) :=
  .of_fpLanes hexec hmine hdst (fun _ => negF32_lt) fun _ a _ => by
    rw [hf]
    exact ⟨fun u hu => by obtain rfl := Option.some.inj hu; exact ⟨rfl, f32_convert_lt _⟩, rfl⟩

/-- Operations of one binary32 code that count nothing. -/
theorem FloatOp.Performed.of_code {f : List Nat → Nat} {g : List Nat → Nat}
    (hexec : ∀ s c k, Machine.exec (instr c k) s = .next (issue s c k mine false (rCodes h) fun s i => step1 (fpLanes negF32 h.n (fun a => (f a, 0)) s i) i))
    (hmine : mine major minor = true) (hdst : h.dst = .vec ∨ h.dst = .pred) (hf : ∀ a, Words a → f a = g a ∧ g a < 2 ^ 32) :
    FloatOp.Performed (instr, major, minor, h, negF32, fun _ a => (some (g a), 0)) :=
  .of_fpLanes hexec hmine hdst (fun _ => negF32_lt) fun _ a ha => ⟨fun u hu => by obtain rfl := Option.some.inj hu; exact hf a ha, rfl⟩

/-- Packed operations: one conversion for each half of a lane. -/
theorem FloatOp.Performed.of_packed {f : Nat → Nat → Nat → Nat × Bool} (F : Fmt) (v : List Nat → Nat → Num)
    (hexec : ∀ s c k, Machine.exec (instr c k) s = .next (issue s c k mine false (rCodes h) fun s i => step1 (fpLanes negPacked h.n (packed f) s i) i))
    (hmine : mine major minor = true) (hdst : h.dst = .vec ∨ h.dst = .pred)
    (hf : ∀ a j, f (a.getD 0 0 / 65536 ^ j % 65536) (a.getD 1 0 / 65536 ^ j % 65536) (a.getD 2 0 / 65536 ^ j % 65536)
      = ((F.convert (v a j)).code, (F.convert (v a j)).sat))
    (hF : ∀ x, (F.convert x).code < 65536) :
    FloatOp.Performed (instr, major, minor, h, negPacked, fun _ a => (some ((F.convert (v a 0)).code + (F.convert (v a 1)).code * 65536),
      (if (F.convert (v a 0)).sat then 1 else 0) + (if (F.convert (v a 1)).sat then 1 else 0))) :=
  .of_fpLanes hexec hmine hdst (fun _ => negPacked_lt) fun _ a _ => by
    have hlow : f (a.getD 0 0 / 1 % 65536) (a.getD 1 0 / 1 % 65536) (a.getD 2 0 / 1 % 65536) = _ := hf a 0
    have hhigh : f (a.getD 0 0 / 65536 % 65536) (a.getD 1 0 / 65536 % 65536) (a.getD 2 0 / 65536 % 65536) = _ := hf a 1
    have h0 := hF (v a 0)
    have h1 := hF (v a 1)
    unfold packed
    dsimp only
    rw [hlow, hhigh]
    exact ⟨fun u hu => by obtain rfl := Option.some.inj hu; exact ⟨rfl, by omega⟩, rfl⟩

/-- Special functions: what they give for the operands whose result is fixed, and where they saturate. -/
theorem FloatOp.Performed.of_special {op : Nat} {v : List Nat → Option Nat} {sat : List Nat → Nat}
    (hexec : ∀ s c k, Machine.exec (instr c k) s = .next (issue s c k mine false (rCodes { n := 1 }) fun s i => step1 (specialLanes op s i) i))
    (hmine : mine major minor = true) (hv : ∀ a u, a.getD 0 0 < 2 ^ 32 → v a = some u → special 0 op (a.getD 0 0) = u ∧ u < 2 ^ 32)
    (hsat : ∀ a, b2n (specialSat op (a.getD 0 0)) = sat a) :
    FloatOp.Performed (instr, major, minor, { n := 1 }, negF32, fun _ a => (v a, sat a)) :=
  .of_fpLanes hexec hmine (.inl rfl) (fun _ => negF32_lt) fun _ a ha => ⟨fun u hu => hv a u (ha 0) hu, hsat a⟩

end

theorem b2n_specialSat_of_ne {op : Nat} (h0 : op ≠ 0) (h2 : op ≠ 2) (a : Nat) : b2n (specialSat op a) = 0 := by rw [specialSat_of_ne h0 h2]; rfl

/-- Settles O15: each instruction writes in its lanes the code that its one conversion, its choice or its special function gives of the sources before
it, and adds the saturations of its lanes. -/
theorem floatLaneResults : Obligations.FloatLaneResults := by
  unfold Obligations.FloatLaneResults
  intro two fma one halves half less nan minus ops op hop
  change FloatOp.Performed op
  simp only [ops, List.mem_cons, List.not_mem_nil, or_false] at hop
  have hite : ∀ (p : Bool) {a b : Nat}, a < 2 ^ 32 → b < 2 ^ 32 → (if p then a else b) < 2 ^ 32 := fun p a b ha hb => by split <;> assumption
  rcases hop with rfl | rfl | rfl | rfl | rfl | rfl | rfl | rfl | rfl | rfl | rfl | rfl | rfl | rfl | rfl | rfl | rfl | rfl | rfl | rfl | rfl
  · exact .of_f32 (fun _ _ _ => rfl) rfl (.inl rfl) fun _ => rfl
  · exact .of_f32 (fun _ _ _ => rfl) rfl (.inl rfl) fun _ => rfl
  · exact .of_f32 (fun _ _ _ => rfl) rfl (.inl rfl) fun _ => rfl
  · exact .of_f32 (fun _ _ _ => rfl) rfl (.inl rfl) fun _ => rfl
  · exact .of_code (fun _ _ _ => rfl) rfl (.inl rfl) fun a ha => ⟨f32_fmin_eq _ _, hite _ (by decide) (hite _ (ha 0) (ha 1))⟩
  · exact .of_code (fun _ _ _ => rfl) rfl (.inl rfl) fun a ha => ⟨f32_fmax_eq _ _, hite _ (by decide) (hite _ (ha 1) (ha 0))⟩
  · exact .of_code (fun _ _ _ => rfl) rfl (.inl rfl) fun _ _ => ⟨by simp only [nan, decide_eq_true_eq]; rfl,
      hite _ (by decide) (lt_trans (Nat.mod_lt _ (by decide)) (by decide))⟩
  · exact .of_code (fun _ _ _ => rfl) rfl (.inl rfl) fun a ha => ⟨f32_fneg_eq (ha 0), hite _ (by decide) (BitVec.isLt _)⟩
  · exact .of_packed bf16 (fun a j => (bf16.decode (half a 0 j)).add (bf16.decode (half a 1 j)))
      (fun _ _ _ => rfl) rfl (.inl rfl) (fun _ _ => rfl) bf16_convert_lt
  · exact .of_packed f16 (fun a j => (f16.decode (half a 0 j)).add (f16.decode (half a 1 j)))
      (fun _ _ _ => rfl) rfl (.inl rfl) (fun _ _ => rfl) f16_convert_lt
  · exact .of_packed bf16 (fun a j => (bf16.decode (half a 0 j)).mul (bf16.decode (half a 1 j)))
      (fun _ _ _ => rfl) rfl (.inl rfl) (fun _ _ => rfl) bf16_convert_lt
  · exact .of_packed f16 (fun a j => (f16.decode (half a 0 j)).mul (f16.decode (half a 1 j)))
      (fun _ _ _ => rfl) rfl (.inl rfl) (fun _ _ => rfl) f16_convert_lt
  · exact .of_packed bf16 (fun a j => ((bf16.decode (half a 0 j)).mul (bf16.decode (half a 1 j))).add (bf16.decode (half a 2 j)))
      (fun _ _ _ => rfl) rfl (.inl rfl) (fun _ _ => rfl) bf16_convert_lt
  · exact .of_packed f16 (fun a j => ((f16.decode (half a 0 j)).mul (f16.decode (half a 1 j))).add (f16.decode (half a 2 j)))
      (fun _ _ _ => rfl) rfl (.inl rfl) (fun _ _ => rfl) f16_convert_lt
  · exact .of_special (fun _ _ _ => rfl) rfl (fun _ _ ha h => special_rcp ha h) fun _ => rfl
  · exact .of_special (fun _ _ _ => rfl) rfl (fun _ _ ha h => special_root_log ha (.inl ⟨rfl, rfl, rfl⟩) h) fun _ => b2n_specialSat_of_ne (by decide) (by decide) _
  · exact .of_special (fun _ _ _ => rfl) rfl (fun _ _ ha h => special_ex2 ha h) fun _ => rfl
  · exact .of_special (fun _ _ _ => rfl) rfl (fun _ _ ha h => special_root_log ha (.inr ⟨rfl, rfl, rfl⟩) h) fun _ => b2n_specialSat_of_ne (by decide) (by decide) _
  · exact .of_special (fun _ _ _ => rfl) rfl (fun _ _ _ h => special_trig (.inl rfl) h) fun _ => b2n_specialSat_of_ne (by decide) (by decide) _
  · exact .of_special (fun _ _ _ => rfl) rfl (fun _ _ _ h => special_trig (.inr rfl) h) fun _ => b2n_specialSat_of_ne (by decide) (by decide) _
  · refine .of_puts (fun w a => (fcmpV (fld w 2 0) a, 0)) (fun _ _ _ => rfl) rfl (.inr rfl) (fun _ => negF32_lt) (fun s i hthere => ⟨?_, ?_⟩) fun w a _ => ?_
    · exact putsLanes_step1 hthere 32 _ (onlyCrew_refl _ _ _) (.refl _)
    · refine (vecSat_updCrew _ _ _ _ _).trans ((vecSat_updCrew _ _ _ _ _).trans ?_)
      simp
    · refine ⟨fun u hu => ?_, rfl⟩
      obtain rfl := Option.some.inj hu
      have hb : ∀ b, b2n b < 2 ^ 32 := by decide
      exact ⟨fcmpV_eq _ a, hite _ (hb _) (hb _)⟩

end Sys2Proof.Machine
end

section
/-! Lane exchange and the lane forms (R136): what a lane takes of other lanes, and one value of all of them; `VREAD` and the scalar class (R130,
R133): what a crew-uniform instruction writes once. -/
namespace Sys2Proof.Machine
open Sys2Proof

/-- A lane-wise instruction that is performed puts its results into its lanes. -/
theorem performed_of_puts {instr : Nat → Nat → Instr} {s : State} {c k w ext major minor : Nat} {h : RShape} {mine : Nat → Nat → Bool}
    {body : State → Ins → State} {wd : Nat} {r : Nat → Nat × Bool}
    (hexec : ∀ s c k, Machine.exec (instr c k) s = .next (issue s c k mine false (rCodes h) body))
    (hmajor : fld w 63 58 = major) (hminor : fld w 57 50 = minor) (hmine : mine major minor = true) (hdst : h.dst = .vec ∨ h.dst = .pred)
    (hperf : Safety.performs s c k w ext (rCodes h (crw s c k) (Safety.insAt s c k w ext)) = true)
    (hbody : body s (Safety.insAt s c k w ext) = step1 (writeLanes s (Safety.insAt s c k w ext) wd ((Safety.insAt s c k w ext).o 0) r) (Safety.insAt s c k w ext))
    (hwd : wd = 32 ∨ wd = 64) {pz : Nat → Bool} {val : Nat → Nat} (hr : ∀ l, l < 32 → r l = (val l, pz l)) (hlt : ∀ l, val l < 2 ^ wd) :
    ∃ t, Machine.exec (instr c k) s = .next t ∧ Safety.onlyCrew s t c k
      ∧ Safety.lanesGive s t (Safety.insAt s c k w ext) wd pz fun l => some (val l) := by
  obtain ⟨hissue, hthere, hkind, -⟩ := issue_lanes (mine := mine) body hperf (by rw [hmajor, hminor]; exact hmine) hdst
  have hputs : PutsLanes s (body s (Safety.insAt s c k w ext)) (Safety.insAt s c k w ext) wd r := by
    rw [hbody]
    exact putsLanes_step1 hthere wd r (onlyCrew_refl _ _ _) (.refl _)
  refine ⟨_, by rw [hexec, hissue], hputs.only, hputs.lanesGive hkind hwd (fun l hl => by rw [hr l hl]) fun l hl v hv => ?_⟩
  obtain rfl := Option.some.inj hv
  exact ⟨by rw [hr l hl], hlt l⟩

/-! ### `XLANE` (log 50) -/

/-- The lane that the model's `XLANE.XOR` names is the one of the 64-bit exclusive or; both are below 0 where the signed `SRCB` is. -/
theorem xor_lane {l : Nat} (hl : l < 32) {b : Int} (hlow : -2 ^ 63 ≤ b) (hhigh : b < 2 ^ 63) :
    (if b < 0 then -1 else ((l ^^^ b.toNat : Nat) : Int)) = (BitVec.ofInt 64 l ^^^ BitVec.ofInt 64 b).toInt
      ∨ ((if b < 0 then -1 else ((l ^^^ b.toNat : Nat) : Int)) < 0 ∧ (BitVec.ofInt 64 l ^^^ BitVec.ofInt 64 b).toInt < 0) := by
  have hself : ∀ x : Int, -2 ^ 63 ≤ x → x < 2 ^ 63 → (BitVec.ofInt 64 x).toInt = x := fun x h1 h2 =>
    BitVec.toInt_ofInt_eq_self (by decide) h1 h2
  by_cases hneg : b < 0
  · refine .inr ⟨by rw [if_pos hneg]; decide, ?_⟩
    rw [← decide_eq_true_iff (p := _ < (0 : Int)), ← BitVec.msb_eq_toInt, BitVec.msb_xor, BitVec.msb_eq_toInt, BitVec.msb_eq_toInt, hself l (by omega) (by omega),
      hself b hlow hhigh, decide_eq_true hneg, decide_eq_false (by omega)]
    rfl
  · left
    obtain ⟨n, rfl⟩ := Int.eq_ofNat_of_zero_le (not_lt.mp hneg)
    have hx : l ^^^ n < 2 ^ 63 := Nat.xor_lt_two_pow (by omega) (by omega)
    have htoNat : (BitVec.ofInt 64 l ^^^ BitVec.ofInt 64 n).toNat = l ^^^ n := by
      rw [BitVec.ofInt_natCast, BitVec.ofInt_natCast, BitVec.toNat_xor, BitVec.toNat_ofNat, BitVec.toNat_ofNat, Nat.mod_eq_of_lt (by omega),
        Nat.mod_eq_of_lt (by omega)]
    rw [if_neg hneg, BitVec.toInt_eq_toNat_of_lt (by rw [htoNat]; omega), htoNat, Int.toNat_natCast]

/-- An exchange of lanes, where the model's lane `f` and the one stated are the same, or neither is there. -/
theorem xlane_performed {instr : Nat → Nat → Instr} {minor : Nat} {f : Nat → Int → Int} {g : Int → Int → Int}
    (hexec : ∀ s c k, Machine.exec (instr c k) s = .next (laneOp s c k 0x07 minor { n := 2, wide := true } (xlane f)))
    (hfg : ∀ (l : Nat) (b : Int), l < 32 → -2 ^ 63 ≤ b → b < 2 ^ 63 → f l b = g l b ∨ (f l b < 0 ∧ g l b < 0))
    {s : State} {c k w ext : Nat} (hmajor : fld w 63 58 = 0x07) (hminor : fld w 57 50 = minor)
    (hperf : Safety.performs s c k w ext (rCodes { n := 2, wide := true } (crw s c k) (Safety.insAt s c k w ext)) = true) :
    let i := Safety.insAt s c k w ext
    let src := fun n l => source s i i.wd (negInt i.wd) n l
    let at_ := fun (l : Nat) => g l (BitVec.ofNat i.wd ([(src 1 l).1].getD 0 0)).toInt
    let from_ := fun (l : Nat) => if 0 ≤ at_ l ∧ at_ l < 32 ∧ i.on (at_ l).toNat = true then (at_ l).toNat else l
    ∃ t, Machine.exec (instr c k) s = .next t ∧ Safety.onlyCrew s t c k
      ∧ Safety.lanesGive s t i i.wd (fun l => (src 0 (from_ l)).2 || (src 1 l).2) (fun l => some (src 0 (from_ l)).1) := by
  intro i src at_ from_
  have hwd : 1 ≤ i.wd ∧ i.wd ≤ 64 := by have := wd_eq i; omega
  have hlt : ∀ n l, (src n l).1 < 2 ^ i.wd := fun n l => source_lt s i hwd.1 (fun v _ => negInt_lt _ v) n l
  refine performed_of_puts hexec hmajor hminor (by simp) (.inl rfl) hperf rfl (wd_eq i) (fun l hl => ?_) fun l => hlt _ _
  have hsext : sext i.wd (src 1 l).1 = (BitVec.ofNat i.wd ([(src 1 l).1].getD 0 0)).toInt := sext_eq_toInt hwd.1 (hlt 1 l)
  have hfrom : (if 0 ≤ f l (sext i.wd (src 1 l).1) ∧ f l (sext i.wd (src 1 l).1) < 32 ∧ i.on (f l (sext i.wd (src 1 l).1)).toNat = true
      then (f l (sext i.wd (src 1 l).1)).toNat else l) = from_ l := by
    have hpow : (2 : Int) ^ (i.wd - 1) ≤ 2 ^ 63 := pow_le_pow_right₀ (by decide) (by omega)
    have hhigh := BitVec.toInt_lt (x := BitVec.ofNat i.wd ([(src 1 l).1].getD 0 0))
    have hlow := BitVec.le_toInt (x := BitVec.ofNat i.wd ([(src 1 l).1].getD 0 0))
    rw [hsext]
    rcases hfg l (BitVec.ofNat i.wd ([(src 1 l).1].getD 0 0)).toInt hl (by omega) (by omega) with heq | ⟨hf, hg⟩
    · rw [heq]
    · have hg' : at_ l < 0 := hg
      rw [if_neg (by omega)]
      exact (if_neg (by omega)).symm
  dsimp only
  rw [show ∀ n l, source s i i.wd (negInt i.wd) n l = src n l from fun _ _ => rfl, hfrom]

/-! ### Lane forms -/

/-- A form of a predicate over the lanes. -/
theorem lanesForm_performed {instr : Nat → Nat → Instr} {minor : Nat} {dst : OpKind} {f : W32 → W32 → Nat}
    (hexec : ∀ s c k, Machine.exec (instr c k) s = .next (laneOp s c k 0x07 minor { n := 1, preds := [0], dst } (lanesForm f)))
    (hdst : dst = .vec ∨ dst = .pred) (hf : ∀ on m, f on m < 2 ^ 32)
    {s : State} {c k w ext : Nat} (hmajor : fld w 63 58 = 0x07) (hminor : fld w 57 50 = minor)
    (hperf : Safety.performs s c k w ext (rCodes { n := 1, preds := [0], dst } (crw s c k) (Safety.insAt s c k w ext)) = true) :
    let i := Safety.insAt s c k w ext
    let one := fun l => (source s i 32 id 0 l).1 == 1
    ∃ t, Machine.exec (instr c k) s = .next t ∧ Safety.onlyCrew s t c k
      ∧ Safety.lanesGive s t i 32 (fun _ => (List.range 32).any fun l => i.on l && (source s i 32 id 0 l).2)
          (fun _ => some (f i.lanes ((List.range 32).foldl (fun m l => if i.on l && one l then m ||| 1#32 <<< l else m) 0#32))) := by
  intro i one
  refine performed_of_puts hexec hmajor hminor (by simp) hdst hperf rfl (.inl rfl) (fun l _ => ?_) fun _ => hf _ _
  have hmask : maskOf ((lanesOf i.lanes).filter fun l => (source s i 32 id 0 l).1 == 1)
      = (List.range 32).foldl (fun m l => if i.on l && one l then m ||| 1#32 <<< l else m) 0#32 := by
    rw [maskOf, lanesOf, List.filter_filter, List.foldl_filter]
    exact List.foldl_ext _ _ _ fun m l _ => if_congr (Bool.coe_iff_coe.mpr (Bool.and_comm _ _)) rfl rfl
  have hany : ((lanesOf i.lanes).any fun l => (source s i 32 id 0 l).2) = (List.range 32).any fun l => i.on l && (source s i 32 id 0 l).2 := List.any_filter
  rw [hmask, hany]

/-! ### Crew-uniform instructions (R130) -/

/-- Between two states a crew-uniform instruction changed its crew by `f`, or, where its guard holds in no lane, was skipped; its path moved on. -/
structure PutsOnce (s t : State) (i : Ins) (f : Crew → Crew) : Prop where
  only : Safety.onlyCrew s t i.c i.slot
  regs : (if i.lanes = 0#32 then crw s i.c i.slot else f (crw s i.c i.slot)).SameRegs (crw t i.c i.slot)

/-- An instruction that changes its crew, after free values were drawn, and moves on. -/
theorem putsOnce_step1 {s : State} {i : Ins} (hthere : resident s i = true) (n : Nat) (f : Crew → Crew) :
    Safety.onlyCrew s (step1 (updCrew { s with free := n } i.c i.slot f) i) i.c i.slot
      ∧ (f (crw s i.c i.slot)).SameRegs (crw (step1 (updCrew { s with free := n } i.c i.slot f) i) i.c i.slot) := by
  have hdrawn : resident { s with free := n } i = true := hthere
  refine ⟨onlyCrew_trans (onlyCrew_free s _ _ n) (onlyCrew_trans (onlyCrew_updCrew _ _ _ _) (onlyCrew_updCrew _ _ _ _)), ?_⟩
  rw [step1, crw_updCrew_self (resident_updCrew hdrawn f), crw_updCrew_self hdrawn]
  exact .of_still (Crew.still_goto _ _)

/-- A crew-uniform instruction that is performed. -/
theorem putsOnce_issue {s : State} {c k w ext : Nat} {codes : Crew → Ins → List Nat} {mine : Nat → Nat → Bool} {body : State → Ins → State}
    (hperf : Safety.performs s c k w ext (codes (crw s c k) (Safety.insAt s c k w ext)) = true)
    (hmine : mine (fld w 63 58) (fld w 57 50) = true) (f : Crew → Crew) (n : Nat)
    (hbody : body s (Safety.insAt s c k w ext) = step1 (updCrew { s with free := n } c k f) (Safety.insAt s c k w ext)) :
    PutsOnce s (issue s c k mine true codes body) (Safety.insAt s c k w ext) f := by
  have hthere : resident s (Safety.insAt s c k w ext) = true := (of_mayIssue (of_performs hperf).1).1
  rw [issue_performs true body hperf hmine (.inr rfl), Bool.true_and]
  by_cases hskip : (Safety.insAt s c k w ext).lanes = 0#32
  · rw [if_pos (beq_iff_eq.mpr hskip)]
    refine ⟨onlyCrew_updCrew _ _ _ _, ?_⟩
    rw [if_pos hskip, step1, crw_updCrew_self hthere]
    exact .of_still (Crew.still_goto _ _)
  · obtain ⟨honly, hregs⟩ := putsOnce_step1 (i := Safety.insAt s c k w ext) hthere n f
    rw [if_neg (by rwa [beq_iff_eq]), hbody]
    exact ⟨honly, by rwa [if_neg hskip]⟩

section
variable {s t : State} {i : Ins}

/-- A scalar register written. -/
theorem PutsOnce.of_setSca {r v : Nat} {pz : Bool} (h : PutsOnce s t i fun x => x.setSca r v pz) :
    Safety.keepsRegs (crw s i.c i.slot) (crw t i.c i.slot) 256 0 (if i.lanes = 0#32 then 64 else r) 8
      ∧ (i.lanes ≠ 0#32 → mget (crw t i.c i.slot).s r 0#64 = BitVec.ofNat 64 v ∧ mget (crw t i.c i.slot).sPoison r false = pz) := by
  have hregs := h.regs
  by_cases hskip : i.lanes = 0#32
  · rw [if_pos hskip] at hregs
    exact ⟨hregs.keepsRegs _ _ _ _, fun hne => absurd hskip hne⟩
  · rw [if_neg hskip] at hregs ⊢
    refine ⟨⟨fun q l _ _ => ⟨hregs.vLane q l, by rw [hregs.vPoison]; rfl⟩, fun q hq => ?_, fun q _ => by rw [hregs.p, hregs.pPoison]; exact ⟨rfl, rfl⟩⟩,
      fun _ => ?_⟩
    · rw [hregs.s, hregs.sPoison]
      exact ⟨mget_mset_ne _ _ _ (Ne.symm hq), mget_mset_ne _ _ _ (Ne.symm hq)⟩
    · rw [hregs.s, hregs.sPoison]
      exact ⟨mget_mset_self _ _ _ _, mget_mset_self _ _ _ _⟩

/-- One value written into every lane of a predicate. -/
theorem PutsOnce.of_setPred {code : Nat} {v pz : Bool} (hcode : opKind code = .pred)
    (h : PutsOnce s t i fun x => (List.range 32).foldl (fun x l => x.setPred (code - 0x140) l v pz) x) :
    Safety.keepsRegs (crw s i.c i.slot) (crw t i.c i.slot) 256 0 64 (if i.lanes = 0#32 then 8 else code - 0x140)
      ∧ (i.lanes ≠ 0#32 → mget (crw t i.c i.slot).p (code - 0x140) 0#32 = (if v then 0xFFFFFFFF#32 else 0#32)
          ∧ mget (crw t i.c i.slot).pPoison (code - 0x140) 0#32 = if pz then 0xFFFFFFFF#32 else 0#32) := by
  have hregs := h.regs
  by_cases hskip : i.lanes = 0#32
  · rw [if_pos hskip] at hregs
    exact ⟨hregs.keepsRegs _ _ _ _, fun hne => absurd hskip hne⟩
  have hbit : bit (b2n v) 0 = v := by cases v <;> rfl
  have hput : (List.range 32).foldl (fun x l => x.setPred (code - 0x140) l v pz) (crw s i.c i.slot)
      = (crw s i.c i.slot).putLanes 32 code (fun _ => (b2n v, pz)) (List.range 32) := by
    refine List.foldl_ext _ _ _ fun x l _ => ?_
    unfold Crew.put
    rw [hcode, hbit]
  obtain ⟨honly, hother, hget⟩ := Crew.putLanes_pred 32 (fun _ => (b2n v, pz)) (crw s i.c i.slot) hcode (ls := List.range 32) fun l => List.mem_range.mp
  rw [if_neg hskip] at hregs ⊢
  rw [hput] at hregs
  generalize (crw s i.c i.slot).putLanes 32 code (fun _ => (b2n v, pz)) (List.range 32) = y at honly hother hget hregs
  have hmask : ∀ (m : W32) (b : Bool), (∀ l, l < 32 → m.getLsbD l = b) → m = if b then 0xFFFFFFFF#32 else 0#32 := fun m b hm => by
    refine BitVec.eq_of_getLsbD_eq fun l hl => ?_
    rw [hm l hl]
    cases b
    · exact BitVec.getLsbD_zero.symm
    · rw [if_pos rfl, show 0xFFFFFFFF#32 = BitVec.allOnes 32 from rfl, BitVec.getLsbD_allOnes, decide_eq_true hl]
  refine ⟨⟨fun q l _ _ => by rw [hregs.vLane, hregs.vPoison, honly]; exact ⟨rfl, rfl⟩, fun q _ => by rw [hregs.s, hregs.sPoison, honly]; exact ⟨rfl, rfl⟩,
    fun q hq => by rw [hregs.p, hregs.pPoison]; exact hother q hq⟩, fun _ => ?_⟩
  rw [hregs.p, hregs.pPoison]
  refine ⟨hmask _ v fun l hl => ?_, hmask _ pz fun l hl => ?_⟩
  · rw [(hget l hl).1, if_pos (List.mem_range.mpr hl), hbit]
  · rw [(hget l hl).2, if_pos (List.mem_range.mpr hl)]

end

/-- A crew-uniform instruction without `LANEID` and `MSTAT` reads its sources as lane 0 does. -/
theorem uniSources_eq (s : State) {i : Ins} {n : Nat} (hsrc : ∀ j, j < n → i.o (j + 1) ≠ 0x148 ∧ i.o (j + 1) ≠ 0x14E) :
    uniSources s i n = (sources s i i.wd (negInt i.wd) n 0, s) := by
  have hno : ((List.range n).any fun j => i.o (j + 1) == 0x148 || i.o (j + 1) == 0x14E) = false := by
    rw [List.any_eq_false]
    intro j hj
    obtain ⟨h1, h2⟩ := hsrc j (List.mem_range.mp hj)
    simp [h1, h2]
  exact if_pos hno

/-! ### `VREAD` -/

theorem vread_performed (s : State) (c k w ext : Nat) (hmajor : fld w 63 58 = 0x07) (hminor : fld w 57 50 = 0x08)
    (hperf : Safety.performs s c k w ext (vreadCodes (crw s c k) (Safety.insAt s c k w ext)) = true) :
    let i := Safety.insAt s c k w ext
    let b := source s i i.wd (negInt i.wd) 1 0
    let a := source s i i.wd (negInt i.wd) 0 b.1
    i.o 2 ≠ 0x148 → i.o 2 ≠ 0x14E → b.1 < 32 →
    ∃ t, Machine.exec (.vread c k) s = .next t ∧ Safety.onlyCrew s t c k
      ∧ Safety.keepsRegs (crw s c k) (crw t c k) 256 0 (if i.lanes = 0#32 then 64 else i.o 0 - 0x100) 8
      ∧ (i.lanes ≠ 0#32 → mget (crw t c k).s (i.o 0 - 0x100) 0#64 = BitVec.ofNat 64 a.1
          ∧ mget (crw t c k).sPoison (i.o 0 - 0x100) false = (a.2 || b.2)) := by
  intro i b a hlaneid hmstat hlane
  obtain ⟨-, hcodes⟩ := of_performs hperf
  have hvec : opKind (i.o 1) = .vec := by
    unfold vreadCodes at hcodes
    obtain ⟨-, hkinds⟩ := List.append_eq_nil_iff.mp hcodes
    by_contra hne
    rw [if_pos (.inl hne)] at hkinds
    exact absurd hkinds nofun
  have hsrc : ∀ j, j < 2 → i.o (j + 1) ≠ 0x148 ∧ i.o (j + 1) ≠ 0x14E := fun j hj => by
    obtain rfl | rfl : j = 0 ∨ j = 1 := by omega
    · exact ⟨fun h => by rw [h] at hvec; exact absurd hvec (by decide), fun h => by rw [h] at hvec; exact absurd hvec (by decide)⟩
    · exact ⟨hlaneid, hmstat⟩
  have hbody : vread s i = updCrew s c k fun x => x.setSca (i.o 0 - 0x100) a.1 (a.2 || b.2) := by
    unfold vread
    rw [uniSources_eq s hsrc]
    exact if_pos hlane
  have hputs : PutsOnce s (issue s c k (fun a b => a == 0x07 && b == 0x08) true vreadCodes fun s i => step1 (vread s i) i) i
      fun x => x.setSca (i.o 0 - 0x100) a.1 (a.2 || b.2) :=
    putsOnce_issue hperf (by rw [hmajor, hminor]; rfl) _ s.free (congrArg (step1 · i) hbody)
  exact ⟨_, rfl, hputs.only, hputs.of_setSca⟩

/-! ### Scalar class -/

/-- A scalar operation: its command, `MINOR`, its number of sources, and the result it gives of the width and the values of its sources, where
one is stated. -/
abbrev ScalarOp := (Nat → Nat → Instr) × Nat × Nat × (Nat → List Nat → Option Nat)

/-- Every instruction of a scalar operation that is performed gives the operation's result to its scalar register and changes nothing else. -/
def ScalarOp.Performed (op : ScalarOp) : Prop :=
  ∀ (s : State) (c k w ext : Nat), fld w 63 58 = 0x08 → fld w 57 50 = op.2.1 →
    Safety.performs s c k w ext (rCodes { n := op.2.2.1, wide := true, uni := true, dst := .sca } (crw s c k) (Safety.insAt s c k w ext)) = true →
    let i := Safety.insAt s c k w ext
    let a := sources s i i.wd (negInt i.wd) op.2.2.1 0
    (∀ n, n < op.2.2.1 → i.o (n + 1) ≠ 0x148 ∧ i.o (n + 1) ≠ 0x14E) →
    ∃ t, Machine.exec (op.1 c k) s = .next t ∧ Safety.onlyCrew s t c k
      ∧ Safety.keepsRegs (crw s c k) (crw t c k) 256 0 (if i.lanes = 0#32 then 64 else i.o 0 - 0x100) 8
      ∧ (i.lanes ≠ 0#32 → mget (crw t c k).sPoison (i.o 0 - 0x100) false = a.2
          ∧ ∀ v, op.2.2.2 i.wd a.1 = some v → mget (crw t c k).s (i.o 0 - 0x100) 0#64 = BitVec.ofNat 64 v)

/-- The sources of a scalar instruction fit its width. -/
theorem fits_scalar (s : State) (i : Ins) {h : RShape} (hwide : h.wide = true) (n : Nat) :
    Fits h i.wd (sources s i i.wd (negInt i.wd) n 0).1 :=
  ⟨wd_eq i, fun hnarrow => absurd (hwide.symm.trans hnarrow) nofun,
    sources_lt s i (by have := wd_eq i; omega) (fun v _ => negInt_lt _ v) n 0⟩

section
variable {instr : Nat → Nat → Instr} {minor n : Nat} {res : Nat → List Nat → Option Nat}

/-- A result `f` of the sources and of a free value is the operation's where it agrees with it. -/
theorem ScalarOp.Performed.of_setSca {body : State → Ins → State} (f : Nat → List Nat → Nat → Nat) (z : State → Ins → Nat) (free : State → Nat)
    (hexec : ∀ s c k, Machine.exec (instr c k) s = .next (laneOp s c k 0x08 minor { n, wide := true, uni := true, dst := .sca } body))
    (hbody : ∀ s i, uniSources s i n = (sources s i i.wd (negInt i.wd) n 0, s) → body s i = updCrew { s with free := free s } i.c i.slot fun x =>
      x.setSca (i.o 0 - 0x100) (f i.wd (sources s i i.wd (negInt i.wd) n 0).1 (z s i)) (sources s i i.wd (negInt i.wd) n 0).2)
    (hres : ∀ wd a v z, Fits { n, wide := true } wd a → res wd a = some v → f wd a z = v) : ScalarOp.Performed (instr, minor, n, res) := by
  intro s c k w ext hmajor hminor hperf i a hsrc
  have hputs : PutsOnce s (laneOp s c k 0x08 minor { n, wide := true, uni := true, dst := .sca } body) i
      fun x => x.setSca (i.o 0 - 0x100) (f i.wd a.1 (z s i)) a.2 :=
    putsOnce_issue hperf (by rw [hmajor, hminor]; exact (beq_self_eq_true _)) _ (free s) (congrArg (step1 · i) (hbody s i (uniSources_eq s hsrc)))
  obtain ⟨hkeeps, hput⟩ := hputs.of_setSca
  refine ⟨_, hexec s c k, hputs.only, hkeeps, fun hne => ?_⟩
  obtain ⟨hval, hpoison⟩ := hput hne
  exact ⟨hpoison, fun v hv => hval.trans (congrArg _ (hres i.wd a.1 v _ (fits_scalar s i rfl n) hv))⟩

/-- Operations whose result the spec states for all operands. -/
theorem ScalarOp.Performed.of_scalarOp {f : Nat → List Nat → Nat} (hexec : ∀ s c k, Machine.exec (instr c k) s = .next (scalarOp s c k minor n f))
    (hres : ∀ wd a v, Fits { n, wide := true } wd a → res wd a = some v → f wd a = v) : ScalarOp.Performed (instr, minor, n, res) :=
  ScalarOp.Performed.of_setSca (fun wd a _ => f wd a) (fun _ _ => 0) State.free hexec (fun s i hsrc => by rw [hsrc]) fun wd a v _ => hres wd a v

/-- Operations whose result is a bit vector of the width. -/
theorem ScalarOp.Performed.of_bitVec {f : Nat → List Nat → Nat} {g : (wd : Nat) → List Nat → BitVec wd}
    (hexec : ∀ s c k, Machine.exec (instr c k) s = .next (scalarOp s c k minor n f))
    (hres : ∀ wd a, Fits { n, wide := true } wd a → f wd a = (g wd a).toNat) : ScalarOp.Performed (instr, minor, n, fun wd a => some (g wd a).toNat) :=
  ScalarOp.Performed.of_scalarOp hexec fun wd a _ ha hv => (hres wd a ha).trans (Option.some.inj hv)

/-- Shifts: a count of the width or more has no stated result. -/
theorem ScalarOp.Performed.of_shift {f : Nat → List Nat → Nat → Nat} {g : (wd : Nat) → List Nat → BitVec wd}
    (hexec : ∀ s c k, Machine.exec (instr c k) s = .next (scalarShift s c k minor f))
    (hres : ∀ wd a z, Fits { n := 2, wide := true } wd a → a.getD 1 0 < wd → f wd a z = (g wd a).toNat) :
    ScalarOp.Performed (instr, minor, 2, fun wd a => if a.getD 1 0 < wd then some (g wd a).toNat else none) :=
  ScalarOp.Performed.of_setSca f (fun s i => (draw s (2 ^ i.wd)).1) (fun s => s.free + 1) hexec (fun s i hsrc => by rw [hsrc]; rfl) fun wd a v z ha hv => by
    obtain ⟨hcount, hv⟩ := Option.ite_none_right_eq_some.mp hv
    exact (hres wd a z ha hcount).trans (Option.some.inj hv)

end

/-! ### `SCMP` -/

theorem scmp_performed (s : State) (c k w ext : Nat) (uns : Bool) (hmajor : fld w 63 58 = 0x08) (hminor : fld w 57 50 = if uns then 0x0B else 0x0A)
    (hperf : Safety.performs s c k w ext
      (rCodes { n := 2, wide := true, cond := 5, uni := true, dst := .pred } (crw s c k) (Safety.insAt s c k w ext)) = true) :
    let i := Safety.insAt s c k w ext
    let a := sources s i i.wd (negInt i.wd) 2 0
    let lt := fun p q => if uns then (bvAt i.wd a.1 p).ult (bvAt i.wd a.1 q) else (bvAt i.wd a.1 p).slt (bvAt i.wd a.1 q)
    (∀ n, n < 2 → i.o (n + 1) ≠ 0x148 ∧ i.o (n + 1) ≠ 0x14E) →
    ∃ t, Machine.exec (.scmp c k) s = .next t ∧ Safety.onlyCrew s t c k
      ∧ Safety.keepsRegs (crw s c k) (crw t c k) 256 0 64 (if i.lanes = 0#32 then 8 else i.o 0 - 0x140)
      ∧ (i.lanes ≠ 0#32 → mget (crw t c k).p (i.o 0 - 0x140) 0#32 = (if condition (fld w 2 0) (lt 0 1) (lt 1 0) then 0xFFFFFFFF#32 else 0#32)
          ∧ mget (crw t c k).pPoison (i.o 0 - 0x140) 0#32 = if a.2 then 0xFFFFFFFF#32 else 0#32) := by
  intro i a lt hsrc
  obtain ⟨-, hother, -⟩ := of_rCodes (of_performs hperf).2
  have hcode : opKind (i.o 0) = .pred := hother nofun
  have huns : bit w 50 = uns := by rw [bit50_eq, hminor]; cases uns <;> rfl
  have htrue : ∀ b : Bool, (b2n b == 1) = b := by decide
  have hval : (icmpW (bit w 50) (fld w 2 0) i.wd a.1 == 1) = condition (fld w 2 0) (lt 0 1) (lt 1 0) := by
    rw [icmpW_eq (fits_scalar s i (h := { n := 2, wide := true }) rfl 2), htrue, huns]
  have hputs := putsOnce_issue (mine := fun a b => a == 0x08 && b / 2 == 5) (body := fun s i =>
      step1 (updCrew (uniSources s i 2).2 i.c i.slot fun x => (List.range 32).foldl (fun x l => x.setPred (i.o 0 - 0x140) l
        (icmpW (bit i.w 50) (fld i.w 2 0) i.wd (uniSources s i 2).1.1 == 1) (uniSources s i 2).1.2) x) i)
    hperf (by rw [hmajor, hminor]; cases uns <;> rfl)
    (fun x => (List.range 32).foldl (fun x l => x.setPred (i.o 0 - 0x140) l (condition (fld w 2 0) (lt 0 1) (lt 1 0)) a.2) x) s.free
    (by rw [uniSources_eq s hsrc, ← hval]; rfl)
  exact ⟨_, rfl, hputs.only, hputs.of_setPred hcode⟩

/-- Settles O17: each form writes, of the sources before it, the lane, mask or result that the statement names; a crew-uniform one writes once. -/
theorem laneExchangeAndScalarResults : Obligations.LaneExchangeAndScalarResults := by
  unfold Obligations.LaneExchangeAndScalarResults
  intro bv
  refine ⟨fun op hop => ?_, fun op hop => ?_, vread_performed, fun op hop => ?_, scmp_performed⟩
  · simp only [List.mem_cons, List.not_mem_nil, or_false] at hop
    rcases hop with rfl | rfl | rfl | rfl
    · exact fun s c k w ext => xlane_performed (fun _ _ _ => rfl) fun _ _ _ _ _ => .inl rfl
    · exact fun s c k w ext => xlane_performed (fun _ _ _ => rfl) fun _ _ _ _ _ => .inl rfl
    · exact fun s c k w ext => xlane_performed (fun _ _ _ => rfl) fun _ _ _ _ _ => .inl rfl
    · exact fun s c k w ext => xlane_performed (fun _ _ _ => rfl) fun _ _ hl => xor_lane hl
  · simp only [List.mem_cons, List.not_mem_nil, or_false] at hop
    have hbit : ∀ b : Bool, b2n b < 2 ^ 32 := by decide
    rcases hop with rfl | rfl | rfl
    · exact fun s c k w ext => lanesForm_performed (f := fun on m => b2n (on == m)) (fun _ _ _ => rfl) (.inr rfl) fun _ _ => hbit _
    · exact fun s c k w ext => lanesForm_performed (f := fun _ m => b2n (m != 0#32)) (fun _ _ _ => rfl) (.inr rfl) fun _ _ => hbit _
    · exact fun s c k w ext => lanesForm_performed (f := fun _ m => m.toNat) (fun _ _ _ => rfl) (.inl rfl) fun _ m => m.isLt
  · change ScalarOp.Performed op
    simp only [List.mem_cons, List.not_mem_nil, or_false] at hop
    rcases hop with rfl | rfl | rfl | rfl | rfl | rfl | rfl | rfl | rfl
    · exact .of_bitVec (fun _ _ _ => rfl) fun wd a ha => addW_eq ha
    · exact .of_bitVec (fun _ _ _ => rfl) fun wd a _ => subW_eq wd a
    · exact .of_bitVec (fun _ _ _ => rfl) fun wd a ha => mulW_eq ha
    · exact .of_bitVec (fun _ _ _ => rfl) fun wd a ha => and_eq_toNat ha
    · exact .of_bitVec (fun _ _ _ => rfl) fun wd a ha => or_eq_toNat ha
    · exact .of_bitVec (fun _ _ _ => rfl) fun wd a ha => xor_eq_toNat ha
    · exact .of_shift (fun _ _ _ => rfl) fun wd a z ha hcount => shlW_eq ha z hcount
    · exact .of_shift (fun _ _ _ => rfl) fun wd a z ha hcount => shrW_eq ha z hcount
    · exact .of_scalarOp (fun _ _ _ => rfl) fun wd a v _ hv => Option.some.inj hv

end Sys2Proof.Machine
end

section
/-! Matrix issue entries (R180, R182): what changing, ending and charging one leaves of its cluster and of the module. -/
namespace Sys2Proof.Machine
open Sys2Proof

/-! ### Entries of a cluster -/

theorem id_of_entry {s : State} {c e : Nat} {en : Entry} (h : entry s c e = some en) : en.id = e := by
  simpa using List.find?_some h

theorem entry_congr {s t : State} {c : Nat} (h : (clu t c).entries = (clu s c).entries) (e : Nat) : entry t c e = entry s c e := by
  unfold entry; rw [h]

theorem find?_map_of_id {e : Nat} {en : Entry} {f : Entry → Entry} (hid : (f en).id = en.id) (es : List Entry)
    (h : es.find? (fun x => x.id == e) = some en) :
    (es.map fun x => if x.id = e then f x else x).find? (fun x => x.id == e) = some (f en) := by
  induction es with
  | nil => exact absurd h nofun
  | cons x es ih =>
    rw [List.find?_cons] at h
    rw [List.map_cons, List.find?_cons]
    by_cases hx : x.id = e
    · rw [beq_iff_eq.mpr hx] at h
      obtain rfl := Option.some.inj h
      rw [if_pos hx, beq_iff_eq.mpr (hid.trans hx)]
    · rw [beq_false_of_ne hx] at h
      rw [if_neg hx, beq_false_of_ne hx]
      exact ih h

/-- An entry after its change. -/
theorem entry_updEntry {s : State} {c e : Nat} {en : Entry} (h : entry s c e = some en) {f : Entry → Entry} (hid : (f en).id = en.id) :
    entry (updEntry s c e f) c e = some (f en) := by
  unfold entry updEntry
  rw [clu_setClu_self]
  exact find?_map_of_id hid _ h

theorem clu_updEntry (s : State) (c e : Nat) (f : Entry → Entry) :
    clu (updEntry s c e f) c = { clu s c with entries := (clu (updEntry s c e f) c).entries } := by
  unfold updEntry
  rw [clu_setClu_self]

/-! ### What changes beside an entry -/

/-- Between two states nothing but clusters changed. -/
def OnlyClusters (s t : State) : Prop := t = { s with clusters := t.clusters }

theorem OnlyClusters.refl (s : State) : OnlyClusters s s := rfl

theorem OnlyClusters.trans {s t u : State} (h : OnlyClusters s t) (g : OnlyClusters t u) : OnlyClusters s u := by
  unfold OnlyClusters at *
  rw [g, h]

theorem onlyClusters_setClu (s : State) (c : Nat) (x : Cluster) : OnlyClusters s (setClu s c x) := rfl
theorem onlyClusters_updEntry (s : State) (c e : Nat) (f : Entry → Entry) : OnlyClusters s (updEntry s c e f) := rfl

theorem OnlyClusters.mem {s t : State} (h : OnlyClusters s t) : t.mem = s.mem := (congrArg State.mem h :)
theorem OnlyClusters.tow {s t : State} (h : OnlyClusters s t) (k : Nat) : tow t k = tow s k :=
  (congrArg (fun u : State => Machine.tow u k) h :)

/-- Between two states nothing but the crews of cluster `c` changed. -/
structure OnlyCrews (s t : State) (c : Nat) : Prop where
  module : OnlyClusters s t
  cluster : clu t c = { clu s c with crews := (clu t c).crews }

theorem OnlyCrews.refl (s : State) (c : Nat) : OnlyCrews s s c := ⟨rfl, rfl⟩

theorem OnlyCrews.trans {s t u : State} {c : Nat} (h : OnlyCrews s t c) (g : OnlyCrews t u c) : OnlyCrews s u c := by
  refine ⟨h.module.trans g.module, ?_⟩
  rw [g.cluster, h.cluster]

theorem OnlyCrews.entry {s t : State} {c : Nat} (h : OnlyCrews s t c) (e : Nat) : entry t c e = entry s c e :=
  entry_congr (by rw [h.cluster]) e

theorem updCrew_onlyCrews (s : State) (c k : Nat) (f : Crew → Crew) : OnlyCrews s (updCrew s c k f) c := by
  unfold updCrew
  split
  · exact ⟨rfl, by rw [clu_setClu_self]⟩
  · exact .refl s c

/-! ### Faults charged to a crew that records them (R157, R166, R195) -/

/-- The crew of an entry raises nothing: it has left its slot, or records its faults in `MSTAT`. -/
def Mild (s : State) (c : Nat) (en : Entry) : Prop := mfind (clu s c).crews en.slot = none ∨ (crw s c en.slot).mreport = true

theorem mild_congr {s t : State} {c : Nat} {en : Entry} (h : (clu t c).crews = (clu s c).crews) : Mild t c en ↔ Mild s c en := by
  unfold Mild crw; rw [h]

theorem Crew.mreport_foldl_record (bad : List (Nat × Nat × Nat)) (x : Crew) :
    (bad.foldl (fun x e => x.record e.1 e.2.1) x).mreport = x.mreport := by
  induction bad generalizing x with
  | nil => rfl
  | cons e bad ih => exact ih _

theorem asyncFault_of_mild {s : State} {c : Nat} {en : Entry} (h : Mild s c en) (pc : Nat) (instr : W64) (lanes : W32) (a st : Nat) :
    OnlyCrews s (asyncFault s c en.slot pc instr lanes a st) c ∧ Mild (asyncFault s c en.slot pc instr lanes a st) c en := by
  unfold asyncFault
  split
  · exact ⟨.refl s c, h⟩
  next x hx =>
    have hreport : (crw s c en.slot).mreport = true := h.resolve_left (by rw [hx]; nofun)
    split
    · unfold report
      dsimp only
      split
      · exact ⟨.refl s c, h⟩
      · rw [if_pos hreport]
        refine ⟨updCrew_onlyCrews _ _ _ _, .inr ?_⟩
        rw [crw_updCrew_self (by rw [hx]; rfl), Crew.mreport_foldl_record]
        exact hreport
    · exact ⟨.refl s c, h⟩

/-- Charging an entry's faults changes nothing but its crew where there are none, or the crew raises nothing. -/
theorem charge_onlyCrews {s : State} {c : Nat} {en : Entry} {fs : List (Nat × Nat)} (h : fs = [] ∨ Mild s c en) :
    OnlyCrews s (charge s c en fs) c := by
  rcases h with rfl | h
  · exact .refl s c
  unfold charge
  induction fs generalizing s with
  | nil => exact .refl s c
  | cons f fs ih =>
    obtain ⟨honly, hmild⟩ := asyncFault_of_mild h en.pc en.instr en.lanes f.1 f.2
    exact honly.trans (ih hmild)

/-! ### The end of an entry (R182) -/

/-- An entry ended between two states: it left the array, and its crew's counter lost 1. -/
def Ends (s t : State) (c e : Nat) (en : Entry) : Prop :=
  entry t c e = none ∧ mget (crw t c en.slot).q en.q 0 = mget (crw s c en.slot).q en.q 0 - 1

theorem updCrew_absent {s : State} {c k : Nat} (h : mfind (clu s c).crews k = none) (f : Crew → Crew) : updCrew s c k f = s := by
  unfold updCrew; rw [h]

theorem dropQ_onlyCrews (s : State) (c slot q : Nat) : OnlyCrews s (dropQ s c slot q) c := updCrew_onlyCrews _ _ _ _

theorem q_dropQ (s : State) (c slot q : Nat) : mget (crw (dropQ s c slot q) c slot).q q 0 = mget (crw s c slot).q q 0 - 1 := by
  unfold dropQ
  cases hx : mfind (clu s c).crews slot with
  | none =>
    have hnew : (crw s c slot).q = [] := by rw [crw, mget, hx]; rfl
    rw [updCrew_absent hx, hnew]
    rfl
  | some x =>
    rw [crw_updCrew_self (by rw [hx]; rfl)]
    dsimp only
    split
    · split <;> exact mget_mset_self ..
    · exact mget_mset_self ..

theorem endEntry_onlyClusters (s : State) (c : Nat) (en : Entry) : OnlyClusters s (endEntry s c en) :=
  (onlyClusters_setClu s c _).trans (dropQ_onlyCrews _ _ _ _).module

/-- Of its cluster an ended entry leaves all but the entries and the crews. -/
theorem clu_endEntry (s : State) (c : Nat) (en : Entry) :
    clu (endEntry s c en) c
      = { clu s c with entries := (clu s c).entries.filter fun f => f.id != en.id, crews := (clu (endEntry s c en) c).crews } := by
  have h := (dropQ_onlyCrews (setClu s c { clu s c with entries := (clu s c).entries.filter fun f => f.id != en.id }) c en.slot en.q).cluster
  rw [clu_setClu_self] at h
  exact h

theorem ends_endEntry {s u : State} {c e : Nat} {en : Entry} (hid : en.id = e) (hcrews : (clu u c).crews = (clu s c).crews) :
    Ends s (endEntry u c en) c e en := by
  subst hid
  refine ⟨?_, ?_⟩
  · unfold entry
    rw [clu_endEntry]
    exact List.find?_eq_none.mpr fun f hf => by simpa using (List.mem_filter.mp hf).2
  · refine (q_dropQ _ c en.slot en.q).trans ?_
    unfold crw
    rw [clu_setClu_self, hcrews]

end Sys2Proof.Machine
end

section
/-! Fetches of the matrix array in a calm module (R173, R195, R196): what they leave, and what they return of sound memory. -/
namespace Sys2Proof.Machine
open Sys2Proof

/-! ### What a fetch leaves -/

/-- Between two states memory was read: places, bytes, poison marks and clusters are as they were. -/
structure ReadSteps (s t : State) : Prop where
  access : CopySteps s t
  mem : t.mem = s.mem
  poison : t.poison = s.poison
  clusters : t.clusters = s.clusters

namespace ReadSteps
variable {s t u : State}

theorem refl (s : State) : ReadSteps s s := ⟨.refl s, rfl, rfl, rfl⟩

theorem trans (h : ReadSteps s t) (g : ReadSteps t u) : ReadSteps s u :=
  ⟨h.access.trans g.access, g.mem.trans h.mem, g.poison.trans h.poison, g.clusters.trans h.clusters⟩

theorem clu (h : ReadSteps s t) (c : Nat) : clu t c = clu s c := by unfold Machine.clu; rw [h.clusters]

theorem arrayStatus (h : ReadSteps s t) (iss : Issuer) (k : XKind) (a n : Nat) : arrayStatus t iss k a n = arrayStatus s iss k a n := by
  unfold Machine.arrayStatus
  rw [h.access.places.localMemory, h.access.places.accessStatus]

end ReadSteps

theorem calm_of_places {s t : State} (h : Safety.calm s) (g : SamePlaces s t) (hs : Safety.settled t) (hwf : Memory.wf t.mem = true) : Safety.calm t := by
  obtain ⟨hstk, hpackages, htow, -, -⟩ := h
  refine ⟨fun k => ?_, fun p => ?_, fun k => ?_, hs, hwf⟩
  · unfold stk; rw [g.stackUnits]; exact hstk k
  · rw [g.packages]; exact hpackages p
  · have hmode : (tow t k).cacheMode = (tow s k).cacheMode := (congrArg Tower.cacheMode (g.core k) :)
    rw [hmode]; exact htow k

/-- A calm module stays calm. -/
theorem CopySteps.calm {s t : State} (h : CopySteps s t) (hs : Safety.calm s) : Safety.calm t := by
  obtain ⟨-, -, -, hsettled, hwf⟩ := id hs
  exact calm_of_places hs h.places (h.settled hsettled) (h.wf hwf)

theorem settled_of_calm {s : State} (h : Safety.calm s) : Safety.settled s := by
  obtain ⟨-, -, -, hsettled, -⟩ := h
  exact hsettled

theorem wf_of_calm {s : State} (h : Safety.calm s) : Memory.wf s.mem = true := by
  obtain ⟨-, -, -, -, hwf⟩ := h
  exact hwf

theorem lineRead_readSteps {s : State} (h : Safety.calm s) (a n : Nat) : ReadSteps s (lineRead s a n).1 := by
  have hs := settled_of_calm h
  obtain ⟨-, hmem, hpoison, -⟩ := lineRead_settled hs (failedHome_of_calm h a) n
  refine ⟨lineRead_copySteps hs a n, hmem, hpoison, ?_⟩
  have htouch : (nsTouch s a n false).clusters = s.clusters := (congrArg State.clusters (storesOnly_nsTouch s a n false).bare :)
  unfold lineRead
  rw [drainLines_of_no_adder fun t => (hs t).1]
  dsimp only
  split
  · obtain ⟨p, r, w, he⟩ := poisonError_eq (nsTouch s a n false) (home s a).unit a
    rw [he]; exact htouch
  · split <;> exact htouch

theorem foldl_readPiece_readSteps (ps : List (Nat × Nat)) {r : State × List Byte × Bool} (h : Safety.calm r.1) :
    ReadSteps r.1 (ps.foldl readPiece r).1 := by
  induction ps generalizing r with
  | nil => exact .refl _
  | cons p ps ih =>
    have hstep : ReadSteps r.1 (readPiece r p).1 := by
      unfold readPiece
      dsimp only
      exact lineRead_readSteps h p.1 p.2
    rw [List.foldl_cons]
    exact hstep.trans (ih (hstep.access.calm h))

theorem memRead_readSteps {s : State} (h : Safety.calm s) (a n : Nat) : ReadSteps s (memRead s a n).1 := by
  rw [memRead_eq]
  exact foldl_readPiece_readSteps (r := (s, [], false)) _ h

/-- A fetch that waits for nothing and leaves all but caches and counts. -/
structure Fetched.Quiet {α : Type} (s : State) (r : Fetched α) : Prop where
  steps : ReadSteps s r.s
  ready : r.wait = false

theorem Fetched.Quiet.calm {α : Type} {s : State} {r : Fetched α} (h : r.Quiet s) (hs : Safety.calm s) : Safety.calm r.s := h.steps.access.calm hs

/-- A run of fetches, each of which is quiet. -/
theorem Fetched.Quiet.foldl {α β : Type} {f : Fetched β → α → Fetched β}
    (hf : ∀ (r : Fetched β) (x : α), Safety.calm r.s → r.wait = false → (f r x).Quiet r.s) (xs : List α) {r : Fetched β}
    (hcalm : Safety.calm r.s) (hready : r.wait = false) : (xs.foldl f r).Quiet r.s := by
  induction xs generalizing r with
  | nil => exact ⟨.refl _, hready⟩
  | cons x xs ih =>
    have hx := hf r x hcalm hready
    obtain ⟨hsteps, hwait⟩ := ih (hx.calm hcalm) hx.ready
    exact ⟨hx.steps.trans hsteps, hwait⟩

theorem arrayRead_quiet {s : State} (h : Safety.calm s) (iss : Issuer) (a n : Nat) : (arrayRead s iss a n).Quiet s := by
  refine Fetched.Quiet.foldl (r := { s, v := [] }) (fun r p hr hready => ?_) _ h rfl
  dsimp only
  split
  · exact ⟨.refl _, hready⟩
  · exact ⟨memRead_readSteps hr p.1 p.2, by rw [hready, waits_of_calm hr]; rfl⟩

/-- A fetch whose answer is computed from a quiet one. -/
theorem Fetched.Quiet.mapped {α β : Type} {s : State} {r : Fetched α} {q : Fetched β} (h : r.Quiet s) (hs : q.s = r.s := by rfl)
    (hw : q.wait = r.wait := by rfl) : q.Quiet s := ⟨by rw [hs]; exact h.steps, by rw [hw]; exact h.ready⟩

/-- A quiet fetch after a quiet one. -/
theorem Fetched.Quiet.andThen {α β γ : Type} {s : State} {r : Fetched α} {q : Fetched β} {p : Fetched γ} (h : r.Quiet s) (g : q.Quiet r.s)
    (hs : p.s = q.s := by rfl) (hw : p.wait = (r.wait || q.wait) := by rfl) : p.Quiet s :=
  ⟨by rw [hs]; exact h.steps.trans g.steps, by rw [hw, h.ready, g.ready]; rfl⟩

theorem readElems_quiet {s : State} (h : Safety.calm s) (iss : Issuer) (f a n origin scales : Nat) : (readElems s iss f a n origin scales).Quiet s := by
  have hrow := arrayRead_quiet h iss a (cdiv (n * tileBits f) 8)
  unfold readElems
  dsimp only
  split
  · exact hrow.andThen (arrayRead_quiet (hrow.calm h) iss _ _)
  · exact hrow.mapped

theorem fetchRow_quiet {s : State} (h : Safety.calm s) (c : Nat) (e : Entry) (m part : Nat) : (fetchRow s c e m part).Quiet s := by
  unfold fetchRow
  dsimp only
  split
  · exact (readElems_quiet h _ _ _ _ _ _).mapped
  · refine Fetched.Quiet.mapped (Fetched.Quiet.foldl (r := { s, v := ({ els := [], latchRow := m / max 1 (fld (e.w 7) 23 0) + 1 } : RowIn) })
      (fun r t hr hready => ?_) (List.range (fld (e.w 5) 63 61 + 1)) h rfl)
    split
    · split
      · exact ⟨.refl _, hready⟩
      · have hels := readElems_quiet hr (e.iss c) (fld (e.w 0) 63 60)
          (fld (e.w 1) 47 0 + (sext 24 (fld (e.w 6) 63 40) + (m / max 1 (fld (e.w 7) 23 0) : Nat) : Int).toNat * fld (e.w 4) 39 0
            + (sext 24 (fld (e.w 5) 47 24) + ((m % max 1 (fld (e.w 7) 23 0) * (fld (e.w 5) 60 58 + 1) : Nat) : Int) + t).toNat * fld (e.w 2) 39 0)
          (fld (e.w 5) 57 49 + 1) (fld (e.w 1) 47 0) (fld (e.w 3) 47 0)
        exact ⟨hels.steps, by rw [hready]; exact hels.ready⟩
    · exact ⟨.refl _, hready⟩
  · have hix := arrayRead_quiet h (e.iss c) (fld (e.w 5) 47 0 + 4 * m) 4
    split
    · exact hix.mapped
    · split
      · exact hix.mapped
      · split
        · exact hix.mapped
        · exact hix.andThen (readElems_quiet (hix.calm h) _ _ _ _ _ _)

theorem fetchTarget_quiet {s : State} (h : Safety.calm s) (c : Nat) (e : Entry) (m : Nat) : (fetchTarget s c e m).Quiet s := by
  unfold fetchTarget
  dsimp only
  split
  · exact ⟨.refl s, rfl⟩
  · exact (arrayRead_quiet h _ _ _).mapped

end Sys2Proof.Machine
end

section
/-! What the array reads of sound memory (R188, R239): packed elements, at any width. -/
namespace Sys2Proof.Machine
open Sys2Proof

/-! ### Packed elements -/

/-- Element `n` of `bits` bits of those packed from address `a` on. -/
def memElem (s : State) (a bits n : Nat) : Nat := readNat s a (cdiv ((n + 1) * bits) 8) / 2 ^ (n * bits) % 2 ^ bits

theorem leNat_append (bs cs : List Byte) : leNat (bs ++ cs) = leNat bs + 256 ^ bs.length * leNat cs := by
  induction bs with
  | nil => simp [leNat]
  | cons b bs ih =>
    rw [List.cons_append, leNat, ih, leNat, List.length_cons, Nat.pow_succ]
    ring

theorem length_readMem (s : State) (a n : Nat) : (readMem s a n).length = n := by unfold readMem; rw [List.length_map, List.length_range]

/-- The bits of a value from bit `8 q + r` on are those of its bytes from byte `q` on. -/
theorem readNat_div (s : State) (a q n r : Nat) : readNat s a (q + n) / 2 ^ (8 * q + r) = readNat s (a + q) n / 2 ^ r := by
  have hlow : readNat s a q < 256 ^ q := readNat_lt s a q
  have hpow : 2 ^ (8 * q + r) = 256 ^ q * 2 ^ r := by rw [Nat.pow_add, Nat.pow_mul]
  have hsplit : readNat s a (q + n) = readNat s a q + 256 ^ q * readNat s (a + q) n := by
    rw [readNat, readMem_add, leNat_append, length_readMem, readNat, readNat]
  rw [hpow, ← Nat.div_div_eq_div_mul, hsplit, Nat.add_mul_div_left _ _ (by positivity), Nat.div_eq_of_lt hlow, Nat.zero_add]

/-- A run of `w` bits at bit `i` ends in the byte where the run of its own bytes ends. -/
theorem cdiv_bits (i w : Nat) : cdiv (i + w) 8 = i / 8 + cdiv (i % 8 + w) 8 := by unfold cdiv; omega

theorem memElem_eq (s : State) (a w k : Nat) :
    memElem s a w k = readNat s (a + k * w / 8) (cdiv (k * w % 8 + w) 8) / 2 ^ (k * w % 8) % 2 ^ w := by
  unfold memElem
  rw [Nat.succ_mul, cdiv_bits]
  generalize k * w = i
  have h := readNat_div s a (i / 8) (cdiv (i % 8 + w) 8) (i % 8)
  rw [Nat.div_add_mod] at h
  rw [h]

/-! ### Reads -/

/-- Every line of an access of the array passes its checks. -/
def ArrayOk (s : State) (iss : Issuer) (k : XKind) (a n : Nat) : Prop := ∀ p ∈ linePieces a n, arrayStatus s iss k p.1 p.2 = 0

theorem ReadSteps.arrayOk {s t : State} (h : ReadSteps s t) {iss : Issuer} {k : XKind} {a n : Nat} (hok : ArrayOk s iss k a n) : ArrayOk t iss k a n :=
  fun p hp => (h.arrayStatus iss k p.1 p.2).trans (hok p hp)

/-- A byte that is applied and carries no tag. -/
def Got.sound (b : Byte) : Got := { b }

/-- What `arrayRead` does with each line. -/
def arrayPiece (iss : Issuer) (f : Fetched (List Got)) (p : Nat × Nat) : Fetched (List Got) :=
  let st := arrayStatus f.s iss .load p.1 p.2
  if st ≠ 0 then { f with v := f.v ++ List.replicate p.2 { bad := true }, faults := f.faults ++ [(p.1, st)] }
  else
    let r := memRead f.s p.1 p.2
    let tag := fun i => r.2.2 && (failedHome f.s p.1 || poisoned f.s (p.1 + i) 1)
    { f with
      s := r.1
      v := f.v ++ (List.range p.2).map fun i => { b := r.2.1.getD i 0#8, pz := tag i }
      wait := f.wait || waits f.s p.1 }

theorem arrayRead_eq (s : State) (iss : Issuer) (a n : Nat) : arrayRead s iss a n = (linePieces a n).foldl (arrayPiece iss) { s, v := [] } := rfl

theorem map_getD_readMem (s : State) (a n : Nat) : ((List.range n).map fun i => Got.sound ((readMem s a n).getD i 0#8)) = (readMem s a n).map Got.sound := by
  unfold readMem
  rw [List.map_map]
  refine List.map_congr_left fun i hi => ?_
  rw [List.mem_range] at hi
  simp [hi]

theorem arrayPiece_sound {iss : Issuer} {f : Fetched (List Got)} (hclean : Clean f.s) {p : Nat × Nat} (hst : arrayStatus f.s iss .load p.1 p.2 = 0) :
    (arrayPiece iss f p).v = f.v ++ (readMem f.s p.1 p.2).map Got.sound ∧ (arrayPiece iss f p).faults = f.faults
      ∧ (arrayPiece iss f p).s = (memRead f.s p.1 p.2).1 := by
  obtain ⟨hread, -, -⟩ := memRead_clean hclean p.1 p.2
  unfold arrayPiece
  dsimp only
  rw [hst, if_neg (not_not.mpr rfl), hread]
  refine ⟨?_, rfl, rfl⟩
  rw [← map_getD_readMem]
  rfl

theorem foldl_arrayPiece_sound {iss : Issuer} (ps : List (Nat × Nat)) {f : Fetched (List Got)} (hcalm : Safety.calm f.s) (hpoison : f.s.poison = [])
    (hst : ∀ p ∈ ps, arrayStatus f.s iss .load p.1 p.2 = 0) :
    (ps.foldl (arrayPiece iss) f).v = f.v ++ (ps.flatMap fun p => readMem f.s p.1 p.2).map Got.sound
      ∧ (ps.foldl (arrayPiece iss) f).faults = f.faults := by
  induction ps generalizing f with
  | nil => exact ⟨by simp, rfl⟩
  | cons p ps ih =>
    obtain ⟨hv, hfaults, hs⟩ := arrayPiece_sound (iss := iss) (clean_of_calm hcalm hpoison) (hst p List.mem_cons_self)
    have hsteps := memRead_readSteps hcalm p.1 p.2
    rw [← hs] at hsteps
    obtain ⟨hrest, hrestfaults⟩ := ih (hsteps.access.calm hcalm) (hsteps.poison.trans hpoison)
      fun q hq => (hsteps.arrayStatus iss .load q.1 q.2).trans (hst q (List.mem_cons_of_mem p hq))
    rw [List.foldl_cons, hrest, hrestfaults, hv, hfaults]
    refine ⟨?_, rfl⟩
    simp only [readMem_of_mem hsteps.mem]
    rw [List.flatMap_cons, List.map_append, List.append_assoc]

/-- A calm module without poison: each byte of an access that passes its checks is returned, without a tag. -/
theorem arrayRead_sound {s : State} (hcalm : Safety.calm s) (hpoison : s.poison = []) {iss : Issuer} {a n : Nat} (hok : ArrayOk s iss .load a n) :
    (arrayRead s iss a n).v = (readMem s a n).map Got.sound ∧ (arrayRead s iss a n).faults = [] := by
  obtain ⟨hv, hfaults⟩ := foldl_arrayPiece_sound (iss := iss) (linePieces a n) (f := { s, v := [] }) hcalm hpoison hok
  rw [arrayRead_eq, hv, hfaults, flatMap_linePieces s a n]
  exact ⟨rfl, rfl⟩

/-- A field of sound bytes. -/
theorem gotBits_sound (s : State) (a : Nat) {n w k : Nat} (hk : k < n) :
    gotBits ((readMem s a (cdiv (n * w) 8)).map Got.sound) (k * w) w = (memElem s a w k, false, false) := by
  have hin : k * w / 8 + cdiv (k * w % 8 + w) 8 ≤ cdiv (n * w) 8 := by
    rw [← cdiv_bits, ← Nat.succ_mul]
    exact Nat.div_le_div_right (by have := Nat.mul_le_mul_right w hk; omega)
  have hbytes : ((((readMem s a (cdiv (n * w) 8)).map Got.sound).drop (k * w / 8)).take (cdiv (k * w % 8 + w) 8))
      = (readMem s (a + k * w / 8) (cdiv (k * w % 8 + w) 8)).map Got.sound := by
    rw [← List.map_drop, ← List.map_take, drop_take_readMem s a hin]
  unfold gotBits
  rw [hbytes, memElem_eq]
  dsimp only
  rw [List.map_map]
  refine Prod.ext ?_ (Prod.ext ?_ ?_)
  · exact congrArg (fun v => leNat v / 2 ^ (k * w % 8) % 2 ^ w) (List.map_id _)
  · exact List.any_eq_false.mpr fun x hx => by obtain ⟨b, -, rfl⟩ := List.mem_map.mp hx; exact Bool.false_ne_true
  · exact List.any_eq_false.mpr fun x hx => by obtain ⟨b, -, rfl⟩ := List.mem_map.mp hx; exact Bool.false_ne_true

end Sys2Proof.Machine
end

section
/-! Rows that enter the array (R188, R201, R205, R211): what a row leaves of its entry and of its cluster, and its rounded sums. -/
namespace Sys2Proof.Machine
open Sys2Proof

/-! ### What a row that enters leaves -/

/-- The slots or tiles a stream's next row waits for (R216). -/
def Entry.enterUnits (en : Entry) : List Nat :=
  if en.cplx ≠ 0 ∨ en.outMode = 1 then (if en.entered = 0 then en.uses else []) else (en.uses[en.entered / en.per]?).toList

/-- The parts of a stream's next row: one, or two or three of a complex one. -/
def fetchParts (s : State) (c : Nat) (en : Entry) : Fetched (List RowIn) :=
  (List.range (match en.cplx with | 0 => 1 | 1 => 2 | _ => 3)).foldl (fun (r : Fetched (List RowIn)) part =>
    let g := fetchRow r.s c en en.entered part
    { s := g.s, v := r.v ++ [g.v], faults := r.faults ++ g.faults, wait := r.wait || g.wait }) { s, v := [] }

/-- The columns of a row's output, pass by pass, or as one sum where it goes out as accumulate-writes. -/
def rowColumns (en : Entry) (ps : List Pass) : List (Nat × (Nat → Num × Bool × Nat)) :=
  if en.outMode = 2 then [rowTotal ps] else ps.map fun p => (p.group, p.column)

/-- The output row of fetched parts. -/
def rowOutput (x : Cluster) (en : Entry) (parts : List RowIn) (tg : Nat × Nat) : RowOut :=
  let row := parts.headD { els := [] }
  { row := en.entered, target := tg.1, drop := tg.2
    passes := (rowColumns en (passes x en (parts.map (·.els)))).map fun p =>
      roundPass p.1 (if row.zero then fun _ => (.fin false 0 0, false, 0) else p.2) (fld (en.w 0) 59 56 == 0xA) en.narrow en.cols row.pz }

/-- The cluster after a row entered, but for its entries. -/
def rowCounted (s : State) (x y : Cluster) (en : Entry) (parts : List RowIn) : Cluster :=
  let row := parts.headD { els := [] }
  let y := rampForRow s y
  { y with
    holdCount := 0
    lastRow := some (row.els.map (·.1))
    mxaBusy := y.mxaBusy + (passes x en (parts.map (·.els))).length
    mxaIxOor := y.mxaIxOor + b2n row.oor }

/-- The module after a row entered, its faults not yet charged. -/
def rowEntered (s : State) (c e : Nat) (en : Entry) (parts : List RowIn) (tg : Fetched (Nat × Nat)) : State :=
  let row := parts.headD { els := [] }
  let out := rowOutput (clu s c) en parts tg.v
  updEntry (setClu tg.s c (rowCounted s (clu s c) (clu tg.s c) en parts)) c e fun f =>
    { f with entered := en.entered + 1, latchRow := row.latchRow, latch := row.latch, outs := f.outs ++ [out] }

theorem rowEntered_mem (s : State) (c e : Nat) (en : Entry) (parts : List RowIn) (tg : Fetched (Nat × Nat)) :
    (rowEntered s c e en parts tg).mem = tg.s.mem := rfl

theorem execRowEnter_eq {s : State} {c e : Nat} {en : Entry} (h : entry s c e = some en) :
    execRowEnter c e s = .next (
      if alive s = false ∨ en.stream = false ∨ en.started = false ∨ en.rows ≤ en.entered ∨ en.enterUnits.any (blocked (clu s c) en) = true then s
      else
        let r := fetchParts s c en
        let tg := fetchTarget r.s c en en.entered
        if r.wait || tg.wait then s
        else if activityNow s (clu s c) = 0 then setClu s c (rampForRow s (clu s c))
        else charge (rowEntered s c e en r.v tg) c en (r.faults ++ tg.faults)) := by
  unfold execRowEnter
  rw [h]
  rfl

/-- A stream whose next row may enter. -/
structure Enters (s : State) (c e : Nat) (en : Entry) : Prop where
  present : entry s c e = some en
  stream : en.stream = true
  started : en.started = true
  alive : alive s = true
  calm : Safety.calm s
  more : en.entered < en.rows
  free : ∀ u ∈ en.enterUnits, blocked (clu s c) en u = false

/-- The target fetched with a stream's next row. -/
def fetchedTarget (s : State) (c : Nat) (en : Entry) : Fetched (Nat × Nat) := fetchTarget (fetchParts s c en).s c en en.entered

theorem fetchParts_quiet {s : State} (h : Safety.calm s) (c : Nat) (en : Entry) : (fetchParts s c en).Quiet s := by
  unfold fetchParts
  refine Fetched.Quiet.foldl (r := { s, v := [] }) (fun r part hr hready => ?_) _ h rfl
  have hrow := fetchRow_quiet hr c en en.entered part
  exact ⟨hrow.steps, by rw [hready]; exact hrow.ready⟩

theorem fetchedTarget_quiet {s : State} (h : Safety.calm s) (c : Nat) (en : Entry) : (fetchedTarget s c en).Quiet s := by
  have hparts := fetchParts_quiet h c en
  obtain ⟨hsteps, hready⟩ := fetchTarget_quiet (hparts.calm h) c en en.entered
  exact ⟨hparts.steps.trans hsteps, hready⟩

section
variable {s : State} {c e : Nat} {en : Entry} (h : Enters s c e en)
include h

theorem Enters.exec_eq :
    Machine.exec (.rowEnter c e) s = .next (if activityNow s (clu s c) = 0 then setClu s c (rampForRow s (clu s c))
      else charge (rowEntered s c e en (fetchParts s c en).v (fetchedTarget s c en)) c en ((fetchParts s c en).faults ++ (fetchedTarget s c en).faults)) := by
  have hblocked : en.enterUnits.any (blocked (clu s c) en) = false := List.any_eq_false.mpr fun u hu => by rw [h.free u hu]; exact Bool.false_ne_true
  have hmore := h.more
  have hwait : ((fetchParts s c en).wait || (fetchedTarget s c en).wait) = false :=
    Bool.or_eq_false_iff.mpr ⟨(fetchParts_quiet h.calm c en).ready, (fetchedTarget_quiet h.calm c en).ready⟩
  change execRowEnter c e s = _
  rw [execRowEnter_eq h.present, hblocked, h.alive, h.stream, h.started, if_neg (by simpa using hmore)]
  dsimp only
  unfold fetchedTarget at hwait
  rw [hwait, if_neg Bool.false_ne_true]
  rfl

end

theorem rampForRow_eq (s : State) (x : Cluster) :
    rampForRow s x = { x with actBase := (rampForRow s x).actBase, actFrom := (rampForRow s x).actFrom
                              actFloor := (rampForRow s x).actFloor, ramp := (rampForRow s x).ramp } := by
  unfold rampForRow rampTo
  split <;> rfl

/-- At an activity of 0 the row that is ready only starts the rise (R205). -/
theorem Enters.idle {s : State} {c e : Nat} {en : Entry} (h : Enters s c e en) (hidle : activityNow s (clu s c) = 0) :
    ∃ t, Machine.exec (.rowEnter c e) s = .next t ∧ OnlyClusters s t ∧ (clu t c).entries = (clu s c).entries ∧ (clu t c).acc = (clu s c).acc
      ∧ (clu t c).mxaBusy = (clu s c).mxaBusy := by
  refine ⟨_, h.exec_eq, ?_⟩
  rw [if_pos hidle, clu_setClu_self, rampForRow_eq]
  exact ⟨rfl, rfl, rfl, rfl⟩

/-- What a row that enters leaves: memory, the store and the wide buffer are as they were, the passes are counted, and the row joins
those that its entry has to write. -/
structure RowEnters (s t : State) (c e : Nat) (en : Entry) (o : RowOut) (n : Nat) : Prop where
  mem : t.mem = s.mem
  acc : (clu t c).acc = (clu s c).acc
  wgb : (clu t c).wgb = (clu s c).wgb
  busy : (clu t c).mxaBusy = (clu s c).mxaBusy + n
  row : (entry t c e).map (fun f => (f.entered, f.outs)) = some (en.entered + 1, en.outs ++ [o])

theorem Enters.rowEnters {s : State} {c e : Nat} {en : Entry} (h : Enters s c e en) (hactive : 0 < activityNow s (clu s c))
    (hmild : (fetchParts s c en).faults ++ (fetchedTarget s c en).faults = [] ∨ Mild s c en) :
    ∃ t, Machine.exec (.rowEnter c e) s = .next t
      ∧ RowEnters s t c e en (rowOutput (clu s c) en (fetchParts s c en).v (fetchedTarget s c en).v)
          (passes (clu s c) en ((fetchParts s c en).v.map (·.els))).length := by
  have hsteps := (fetchedTarget_quiet h.calm c en).steps
  have hclu := hsteps.clu c
  have hexec := h.exec_eq
  rw [if_neg (by omega)] at hexec
  refine ⟨_, hexec, ?_⟩
  have hentry : entry (setClu (fetchedTarget s c en).s c (rowCounted s (clu s c) (clu (fetchedTarget s c en).s c) en (fetchParts s c en).v)) c e = some en := by
    rw [← h.present]
    refine entry_congr ?_ e
    rw [clu_setClu_self, hclu, rowCounted, rampForRow_eq]
  have hchanged := entry_updEntry hentry (f := fun f => { f with
    entered := en.entered + 1
    latchRow := ((fetchParts s c en).v.headD { els := [] }).latchRow
    latch := ((fetchParts s c en).v.headD { els := [] }).latch
    outs := f.outs ++ [rowOutput (clu s c) en (fetchParts s c en).v (fetchedTarget s c en).v] }) rfl
  have hu : clu (rowEntered s c e en (fetchParts s c en).v (fetchedTarget s c en)) c
      = { rowCounted s (clu s c) (clu s c) en (fetchParts s c en).v with
          entries := (clu (rowEntered s c e en (fetchParts s c en).v (fetchedTarget s c en)) c).entries } := by
    unfold rowEntered
    rw [clu_updEntry, clu_setClu_self, hclu]
  have hcrews : (clu (rowEntered s c e en (fetchParts s c en).v (fetchedTarget s c en)) c).crews = (clu s c).crews := by
    rw [hu, rowCounted, rampForRow_eq]
  obtain ⟨honly, hcluster⟩ := charge_onlyCrews (hmild.imp id (mild_congr hcrews).mpr)
  refine ⟨honly.mem.trans ((rowEntered_mem ..).trans hsteps.mem), ?_, ?_, ?_, ?_⟩
  · rw [hcluster, hu, rowCounted, rampForRow_eq]
  · rw [hcluster, hu, rowCounted, rampForRow_eq]
  · rw [hcluster, hu, rowCounted, rampForRow_eq]
  · rw [OnlyCrews.entry ⟨honly, hcluster⟩]
    exact congrArg _ hchanged

end Sys2Proof.Machine
end

section
/-! The sums of a row (R188, R201, R211, R240): how many passes it has, and each column's exact sum of products, rounded once. -/
namespace Sys2Proof.Machine
open Sys2Proof

/-! ### Passes and rounding -/

/-- The passes of a row of a stream (R197 to R199). -/
def Entry.passCount (en : Entry) : Nat := match en.cplx with | 0 => (if fld (en.w 0) 63 60 = 0xB then 3 else 1) | 1 => 4 | _ => 3

theorem length_passes (x : Cluster) (en : Entry) (parts : List (List (Nat × Nat × Bool))) : (passes x en parts).length = en.passCount := by
  unfold passes Entry.passCount
  generalize (if bit (en.w 0) 55 = true then x.sb1 else x.sb0) = tile
  match en.cplx with
  | 0 =>
    by_cases hf : fld (en.w 0) 63 60 = 0xB
    · rw [if_pos hf]; exact congrArg List.length (if_pos hf)
    · rw [if_neg hf]; exact congrArg List.length (if_neg hf)
  | 1 => rfl
  | _ + 2 => rfl

/-- One rounding of a sum for its target: INT32, binary16 or binary32. -/
def roundSum (int narrow : Bool) (v : Num) : Conv := if int then convertInt 32 v else (if narrow then f16 else f32).convert v

theorem sums_roundPass (group : Nat) (column : Nat → Num × Bool × Nat) (int narrow : Bool) (cols : Nat) (pz : Bool) :
    (roundPass group column int narrow cols pz).sums = (List.range cols).map fun n => (roundSum int narrow (column n).1).code := by
  have hfold : ∀ (ns : List Nat) (o : PassOut), (ns.foldl (fun (o : PassOut) n =>
      { o with sums := o.sums ++ [(roundSum int narrow (column n).1).code], sat := o.sat + (column n).2.2 + b2n (roundSum int narrow (column n).1).sat
               poison := if (column n).2.1 || pz then o.poison ++ [n] else o.poison }) o).sums
      = o.sums ++ ns.map fun n => (roundSum int narrow (column n).1).code := by
    intro ns
    induction ns with
    | nil => exact fun o => (List.append_nil _).symm
    | cons n ns ih => intro o; rw [List.foldl_cons, ih, List.map_cons, List.append_assoc]; rfl
  exact hfold (List.range cols) { group, sums := [] }

theorem length_passes_rowOutput (x : Cluster) (en : Entry) (parts : List RowIn) (tg : Nat × Nat) :
    (rowOutput x en parts tg).passes.length = if en.outMode = 2 then 1 else en.passCount := by
  unfold rowOutput rowColumns
  dsimp only
  rw [List.length_map]
  split
  · rfl
  · rw [List.length_map, length_passes]

theorem length_sums_rowOutput {x : Cluster} {en : Entry} {parts : List RowIn} {tg : Nat × Nat} {p : PassOut} (hp : p ∈ (rowOutput x en parts tg).passes) :
    p.sums.length = en.cols := by
  obtain ⟨q, -, rfl⟩ := List.mem_map.mp hp
  rw [sums_roundPass, List.length_map, List.length_range]

/-! ### The exact sum -/

/-- The product of element `k` of a row with cell (k, n) of a tile, negated where the stream negates. -/
def cellProduct (row : Nat → Num) (tile : Tile) (neg : Bool) (n k : Nat) : Num :=
  let v := (row k).mul (elemNum tile.fmt (mget tile.elems (tileKey k n) 0) (mget tile.scales (tileKey (k / 32) n) 127))
  if neg then v.neg else v

/-- The exact sum of a column that is not gated (R170, R240). -/
theorem column_eq {row : List (Num × Bool)} {tile : Tile} {neg : Bool} {group n : Nat} (vals : Nat → Num)
    (hrow : ∀ k, k < row.length → (row.getD k (.fin false 0 0, false)).1 = vals k) (hn : n < tile.nlen) :
    (Pass.column ⟨group, row, tileCell tile (elemNum tile.fmt), tile.nlen, neg⟩ n).1
      = (List.range row.length).foldl (fun v k => v.add (cellProduct vals tile neg n k)) (.fin false 0 0) := by
  have hfst : ∀ (ks : List Nat) (acc : Num × Bool × Nat), (∀ k ∈ ks, k < row.length) →
      (ks.foldl (fun (acc : Num × Bool × Nat) k =>
        let a := row.getD k (.fin false 0 0, false)
        let w := tileCell tile (elemNum tile.fmt) k n
        let v := Num.mul a.1 w.1
        (Num.add acc.1 (if neg then v.neg else v), acc.2.1 || a.2 || w.2.1, acc.2.2 + b2n w.2.2)) acc).1
      = ks.foldl (fun v k => v.add (cellProduct vals tile neg n k)) acc.1 := by
    intro ks
    induction ks with
    | nil => exact fun _ _ => rfl
    | cons k ks ih =>
      intro acc hin
      rw [List.foldl_cons, List.foldl_cons, ih _ fun j hj => hin j (List.mem_cons_of_mem k hj)]
      dsimp only
      rw [hrow k (hin k List.mem_cons_self)]
      rfl
  unfold Pass.column
  rw [if_neg (Nat.not_le.mpr hn)]
  exact hfst _ _ fun k => List.mem_range.mp

theorem column_gated {p : Pass} {n : Nat} (hn : p.nlen ≤ n) : (p.column n).1 = .fin false 0 0 := by
  unfold Pass.column
  rw [if_pos hn]

/-! ### A plain strided row -/

/-- Where the next row of a strided stream begins (R188). -/
def Entry.rowAt (en : Entry) : Nat := fld (en.w 1) 47 0 + en.entered * fld (en.w 2) 39 0

/-- The tile of a stream of real rows. -/
def Entry.tile (en : Entry) (x : Cluster) : Tile := if bit (en.w 0) 55 then x.sb1 else x.sb0

/-- A stream of real, strided rows of a plain format of one pass, whose next row lies in sound memory. -/
structure PlainRow (s : State) (c : Nat) (en : Entry) : Prop where
  calm : Safety.calm s
  poison : s.poison = []
  cplx : en.cplx = 0
  src : en.src = 0
  unscaled : tileMx (fld (en.w 0) 63 60) = false
  onePass : fld (en.w 0) 63 60 ≠ 0xB
  ok : ArrayOk s (en.iss c) .load en.rowAt (cdiv (en.klen * tileBits (fld (en.w 0) 63 60)) 8)

/-- The elements of such a row, as the array takes them. -/
def Entry.plainElems (s : State) (en : Entry) : List (Nat × Nat × Bool) :=
  (List.range en.klen).map fun k => (memElem s en.rowAt (tileBits (fld (en.w 0) 63 60)) k, 127, false)

theorem readElems_plain {s : State} (hcalm : Safety.calm s) (hpoison : s.poison = []) {iss : Issuer} {f a n : Nat} (hmx : tileMx f = false)
    (hok : ArrayOk s iss .load a (cdiv (n * tileBits f) 8)) (origin scales : Nat) :
    (readElems s iss f a n origin scales).v = (List.range n).map (fun k => (memElem s a (tileBits f) k, 127, false))
      ∧ (readElems s iss f a n origin scales).faults = [] := by
  obtain ⟨hv, hfaults⟩ := arrayRead_sound hcalm hpoison hok
  unfold readElems
  rw [hmx, Bool.false_and]
  dsimp only
  rw [if_neg Bool.false_ne_true, hv]
  refine ⟨?_, hfaults⟩
  dsimp only
  rw [List.map_map]
  refine List.map_congr_left fun k hk => ?_
  rw [Function.comp, gotBits_sound s a (List.mem_range.mp hk)]
  rfl

section
variable {s : State} {c : Nat} {en : Entry} (h : PlainRow s c en)
include h

theorem PlainRow.outMode : en.outMode = 0 := by
  unfold Entry.outMode
  rw [h.src]
  rfl

theorem PlainRow.fetchParts : (fetchParts s c en).v = [{ els := en.plainElems s }] ∧ (Machine.fetchParts s c en).faults = [] := by
  obtain ⟨hels, hnone⟩ : (fetchRow s c en en.entered 0).v = { els := en.plainElems s } ∧ (fetchRow s c en en.entered 0).faults = [] := by
    obtain ⟨hv, hfaults⟩ := readElems_plain h.calm h.poison h.unscaled h.ok (fld (en.w 1) 47 0) (fld (en.w 3) 47 0)
    unfold fetchRow
    rw [h.src]
    dsimp only
    rw [Nat.zero_mul, Nat.add_zero, ← Entry.rowAt, hv, hfaults]
    exact ⟨rfl, rfl⟩
  unfold Machine.fetchParts
  rw [h.cplx]
  change (((fetchRow s c en en.entered 0).v :: []) = _) ∧ (([] ++ (fetchRow s c en en.entered 0).faults) = _)
  rw [hels, hnone]
  exact ⟨rfl, rfl⟩

theorem PlainRow.fetchedTarget : (fetchedTarget s c en).v = (en.entered, 0) ∧ (Machine.fetchedTarget s c en).faults = [] := by
  unfold Machine.fetchedTarget fetchTarget
  rw [if_pos h.outMode]
  exact ⟨rfl, rfl⟩

/-- The output of such a row: one pass of its sums. -/
theorem PlainRow.rowOutput (x : Cluster) : ∃ p, (rowOutput x en (Machine.fetchParts s c en).v (Machine.fetchedTarget s c en).v).passes = [p]
    ∧ ∀ n, n < en.cols → p.sums.getD n 0 = (roundSum (fld (en.w 0) 59 56 == 0xA) en.narrow (if n < (en.tile x).nlen then
        (List.range en.klen).foldl (fun v k => v.add (cellProduct (fun k => elemNum (fld (en.w 0) 63 60) (memElem s en.rowAt (tileBits (fld (en.w 0) 63 60)) k) 127)
          (en.tile x) (bit (en.w 0) 50) n k)) (.fin false 0 0) else .fin false 0 0)).code := by
  have hpasses : passes x en [en.plainElems s] = [⟨1, (en.plainElems s).map fun a => (elemNum (fld (en.w 0) 63 60) a.1 a.2.1, a.2.2),
      tileCell (en.tile x) (elemNum (en.tile x).fmt), (en.tile x).nlen, bit (en.w 0) 50⟩] := by
    unfold passes
    rw [h.cplx]
    exact if_neg h.onePass
  have hlen : ((en.plainElems s).map fun a => (elemNum (fld (en.w 0) 63 60) a.1 a.2.1, a.2.2)).length = en.klen := by
    rw [List.length_map, Entry.plainElems, List.length_map, List.length_range]
  unfold Machine.rowOutput rowColumns
  rw [h.fetchParts.1, h.outMode]
  simp only [List.map_cons, List.map_nil, List.headD_cons]
  rw [hpasses, if_neg (by decide)]
  refine ⟨_, rfl, fun n hn => ?_⟩
  rw [sums_roundPass, List.getD_eq_getElem?_getD, List.getElem?_map, List.getElem?_range hn, Option.map_some, Option.getD_some]
  change (roundSum _ _ (Pass.column ⟨1, _, _, _, _⟩ n).1).code = _
  congr 2
  split
  next hlt =>
    rw [column_eq (fun k => elemNum (fld (en.w 0) 63 60) (memElem s en.rowAt (tileBits (fld (en.w 0) 63 60)) k) 127) (fun k hk => ?_) hlt, hlen]
    rw [hlen] at hk
    simp [Entry.plainElems, hk]
  next hge => exact column_gated (Nat.not_lt.mp hge)

end

end Sys2Proof.Machine
end

section
/-! Tile loads (R178, R182, R239): a tile filled row by row from sound memory, with its block scales. -/
namespace Sys2Proof.Machine
open Sys2Proof

/-! ### Filling a tile -/

theorem tileKey_inj {k n l m : Nat} (hn : n < 512) (hm : m < 512) : tileKey k n = tileKey l m ↔ k = l ∧ n = m := by unfold tileKey; omega

/-- Store a code under a key that holds none: zeros are not kept. -/
def putCode (m : Map Nat) (key v : Nat) : Map Nat := if v = 0 then m else mset m key v

theorem mget_putCode {m : Map Nat} {key : Nat} (hfree : mget m key 0 = 0) (v j : Nat) : mget (putCode m key v) j 0 = if key = j then v else mget m j 0 := by
  unfold putCode
  split
  next hzero =>
    split
    next heq => rw [← heq, hfree, hzero]
    · rfl
  · exact mget_mset ..

theorem foldl_elems {α : Type} (g : Map Nat → α → Map Nat) (xs : List α) (t : Tile) :
    xs.foldl (fun t x => { t with elems := g t.elems x }) t = { t with elems := xs.foldl g t.elems } := by
  induction xs generalizing t with
  | nil => rfl
  | cons x xs ih => exact ih _

theorem foldl_scales {α : Type} (g : Map Nat → α → Map Nat) (xs : List α) (t : Tile) :
    xs.foldl (fun t x => { t with scales := g t.scales x }) t = { t with scales := xs.foldl g t.scales } := by
  induction xs generalizing t with
  | nil => rfl
  | cons x xs ih => exact ih _

/-- The elements of a tile after `n` sound codes of row `k` are put into it. -/
def rowElems (m : Map Nat) (k n : Nat) (v : Nat → Nat) : Map Nat := (List.range n).foldl (fun m j => putCode m (tileKey k j) (v j)) m

/-- The scales of a tile after `n` sound scales of row `b` are put into it. -/
def rowScales (m : Map Nat) (b n : Nat) (v : Nat → Nat) : Map Nat := (List.range n).foldl (fun m j => mset m (tileKey b j) (v j)) m

theorem Tile.row_sound (t : Tile) (k n : Nat) (v : Nat → Nat) :
    t.row k ((List.range n).map fun j => (v j, 127, false)) = { t with elems := rowElems t.elems k n v } := by
  unfold Tile.row
  rw [List.length_map, List.length_range]
  refine (List.foldl_ext _ _ _ fun u j hj => ?_).trans (foldl_elems (fun m j => putCode m (tileKey k j) (v j)) _ t)
  have hget : ((List.range n).map fun j => (v j, 127, false)).getD j (0, 127, false) = (v j, 127, false) := by simp [List.mem_range.mp hj]
  rw [hget]
  rfl

theorem Tile.scaleRow_sound (t : Tile) (b : Nat) (bs : List Byte) :
    t.scaleRow b (bs.map Got.sound) = { t with scales := rowScales t.scales b bs.length fun j => (bs.getD j 0#8).toNat } := by
  unfold Tile.scaleRow
  rw [List.length_map]
  refine (List.foldl_ext _ _ _ fun u j hj => ?_).trans (foldl_scales (fun m j => mset m (tileKey b j) (bs.getD j 0#8).toNat) _ t)
  have hget : (bs.map Got.sound).getD j {} = Got.sound (bs.getD j 0#8) := by simp [List.mem_range.mp hj]
  rw [hget]
  rfl

theorem in_row_succ {l k j n : Nat} (h : ¬ (k = l ∧ n = j)) : l = k ∧ j < n ↔ l = k ∧ j < n + 1 := by omega

/-- What a tile holds after a row is put where it held none. -/
theorem mget_rowElems {m : Map Nat} {k : Nat} (v : Nat → Nat) {n : Nat} (hn : n ≤ 512) (hfree : ∀ j, j < 512 → mget m (tileKey k j) 0 = 0)
    (l : Nat) {j : Nat} (hj : j < 512) : mget (rowElems m k n v) (tileKey l j) 0 = if l = k ∧ j < n then v j else mget m (tileKey l j) 0 := by
  induction n generalizing l j with
  | zero => exact (if_neg (by omega)).symm
  | succ n ih =>
    have hold : ∀ l {j}, j < 512 → _ := fun l {j} hj => ih (Nat.le_of_succ_le hn) l hj
    have hnext : mget (rowElems m k n v) (tileKey k n) 0 = 0 := by rw [hold k hn, if_neg (by omega), hfree n hn]
    unfold rowElems at hold hnext ⊢
    rw [List.range_succ, List.foldl_append, List.foldl_cons, List.foldl_nil, mget_putCode hnext, hold l hj]
    simp only [tileKey_inj hn hj]
    by_cases hat : k = l ∧ n = j
    · rw [if_pos hat, if_pos (by omega), hat.2]
    · rw [if_neg hat, if_congr (in_row_succ hat) rfl rfl]

theorem mget_rowScales (m : Map Nat) (b : Nat) (v : Nat → Nat) {n : Nat} (hn : n ≤ 512) (l : Nat) {j : Nat} (hj : j < 512) :
    mget (rowScales m b n v) (tileKey l j) 127 = if l = b ∧ j < n then v j else mget m (tileKey l j) 127 := by
  induction n with
  | zero => exact (if_neg (by omega)).symm
  | succ n ih =>
    have hold := ih (Nat.le_of_succ_le hn)
    unfold rowScales at hold ⊢
    rw [List.range_succ, List.foldl_append, List.foldl_cons, List.foldl_nil, mget_mset, hold]
    simp only [tileKey_inj hn hj]
    by_cases hat : b = l ∧ n = j
    · rw [if_pos hat, if_pos (by omega), hat.2]
    · rw [if_neg hat, if_congr (in_row_succ hat) rfl rfl]

/-! ### Loading a tile -/

/-- Read row `k` of a tile. -/
def loadRow (c : Nat) (e : Entry) (r : Fetched Tile) (k : Nat) : Fetched Tile :=
  let f := fld (e.w 0) 63 60
  let g := arrayRead r.s (e.iss c) (fld (e.w 1) 47 0 + k * fld (e.w 2) 39 0) (cdiv (e.nlen * tileBits f) 8)
  let els := (List.range e.nlen).map fun n =>
    let x := gotBits g.v (n * tileBits f) (tileBits f)
    if x.2.2 then (0, 127, false) else (x.1, 127, x.2.1)
  { s := g.s, v := r.v.row k els, faults := r.faults ++ g.faults, wait := r.wait || g.wait }

/-- Read row `b` of a tile's block scales. -/
def loadScaleRow (c : Nat) (e : Entry) (r : Fetched Tile) (b : Nat) : Fetched Tile :=
  let g := arrayRead r.s (e.iss c) (fld (e.w 3) 47 0 + b * fld (e.w 4) 39 0) e.nlen
  { s := g.s, v := r.v.scaleRow b g.v, faults := r.faults ++ g.faults, wait := r.wait || g.wait }

/-- The tile a load begins with. -/
def emptyTile (e : Entry) : Tile := { valid := true, fmt := fld (e.w 0) 63 60, klen := e.klen, nlen := e.nlen }

theorem loadTile_eq (s : State) (c : Nat) (e : Entry) :
    loadTile s c e = (let r := (List.range e.klen).foldl (loadRow c e) { s, v := emptyTile e }
      if tileMx (fld (e.w 0) 63 60) then (List.range (e.klen / 32)).foldl (loadScaleRow c e) r else r) := rfl

/-- Where row `k` of a tile, and row `b` of its scales, lie (R178). -/
def Entry.tileRowAt (e : Entry) (k : Nat) : Nat := fld (e.w 1) 47 0 + k * fld (e.w 2) 39 0
def Entry.scaleRowAt (e : Entry) (b : Nat) : Nat := fld (e.w 3) 47 0 + b * fld (e.w 4) 39 0

theorem readNat_of_mem {s t : State} (h : t.mem = s.mem) (a n : Nat) : readNat t a n = readNat s a n := by
  unfold readNat
  rw [readMem_of_mem h]

/-- What has been read of a tile load so far: quietly, without a fault. -/
structure Loading (s : State) (r : Fetched Tile) : Prop where
  quiet : r.Quiet s
  faults : r.faults = []

section
variable {s : State} (hcalm : Safety.calm s) (hpoison : s.poison = []) {c : Nat} {e : Entry} {r : Fetched Tile} (h : Loading s r)
include hcalm hpoison h

theorem Loading.row {k : Nat} (hok : ArrayOk s (e.iss c) .load (e.tileRowAt k) (cdiv (e.nlen * tileBits (fld (e.w 0) 63 60)) 8)) :
    Loading s (loadRow c e r k)
      ∧ (loadRow c e r k).v = { r.v with elems := rowElems r.v.elems k e.nlen (memElem s (e.tileRowAt k) (tileBits (fld (e.w 0) 63 60))) } := by
  have hc := h.quiet.calm hcalm
  obtain ⟨hv, hfaults⟩ := arrayRead_sound hc (h.quiet.steps.poison.trans hpoison) (h.quiet.steps.arrayOk hok)
  have hread := arrayRead_quiet hc (e.iss c) (e.tileRowAt k) (cdiv (e.nlen * tileBits (fld (e.w 0) 63 60)) 8)
  refine ⟨⟨h.quiet.andThen hread, ?_⟩, ?_⟩
  · exact (congrArg₂ _ h.faults hfaults : _ ++ _ = [] ++ [])
  · rw [← Tile.row_sound]
    refine congrArg (r.v.row k) (List.map_congr_left fun n hn => ?_)
    rw [← Entry.tileRowAt, hv, gotBits_sound r.s _ (List.mem_range.mp hn)]
    have hmem : memElem r.s (e.tileRowAt k) (tileBits (fld (e.w 0) 63 60)) n = memElem s (e.tileRowAt k) (tileBits (fld (e.w 0) 63 60)) n := by
      unfold memElem
      rw [readNat_of_mem h.quiet.steps.mem]
    rw [hmem]
    rfl

theorem Loading.scaleRow {b : Nat} (hok : ArrayOk s (e.iss c) .load (e.scaleRowAt b) e.nlen) :
    Loading s (loadScaleRow c e r b)
      ∧ (loadScaleRow c e r b).v = { r.v with scales := rowScales r.v.scales b e.nlen fun n => readNat s (e.scaleRowAt b + n) 1 } := by
  have hc := h.quiet.calm hcalm
  obtain ⟨hv, hfaults⟩ := arrayRead_sound hc (h.quiet.steps.poison.trans hpoison) (h.quiet.steps.arrayOk hok)
  refine ⟨⟨h.quiet.andThen (arrayRead_quiet hc (e.iss c) (e.scaleRowAt b) e.nlen), ?_⟩, ?_⟩
  · exact (congrArg₂ _ h.faults hfaults : _ ++ _ = [] ++ [])
  · refine (congrArg (r.v.scaleRow b) hv).trans ?_
    rw [Tile.scaleRow_sound, length_readMem]
    refine congrArg (fun m => { r.v with scales := m }) (List.foldl_ext _ _ _ fun m n hn => ?_)
    dsimp only
    rw [readNat_one, readMem_of_mem h.quiet.steps.mem]
    simp [readMem, List.mem_range.mp hn]

end

/-- The tile in memory that a load's descriptor names. -/
structure TileLoaded (s : State) (e : Entry) (y : Tile) : Prop where
  fields : y = { emptyTile e with elems := y.elems, scales := y.scales }
  elems : ∀ k n, k < e.klen → n < e.nlen → mget y.elems (tileKey k n) 0 = memElem s (e.tileRowAt k) (tileBits (fld (e.w 0) 63 60)) n
  scales : tileMx (fld (e.w 0) 63 60) = true → ∀ b n, b < e.klen / 32 → n < e.nlen → mget y.scales (tileKey b n) 127 = readNat s (e.scaleRowAt b + n) 1

section
variable {s : State} (hcalm : Safety.calm s) (hpoison : s.poison = []) {c : Nat} {e : Entry} (hn : e.nlen ≤ 512)
include hcalm hpoison hn

theorem loadRows_sound {m : Nat} (hok : ∀ k, k < m → ArrayOk s (e.iss c) .load (e.tileRowAt k) (cdiv (e.nlen * tileBits (fld (e.w 0) 63 60)) 8)) :
    let r := (List.range m).foldl (loadRow c e) { s, v := emptyTile e }
    Loading s r ∧ r.v = { emptyTile e with elems := r.v.elems }
      ∧ ∀ k n, n < 512 → mget r.v.elems (tileKey k n) 0 = if k < m ∧ n < e.nlen then memElem s (e.tileRowAt k) (tileBits (fld (e.w 0) 63 60)) n else 0 := by
  induction m with
  | zero => exact ⟨⟨⟨.refl s, rfl⟩, rfl⟩, rfl, fun k n _ => (if_neg (by omega)).symm⟩
  | succ m ih =>
    obtain ⟨hloading, hfields, helems⟩ := ih fun k hk => hok k (Nat.lt_succ_of_lt hk)
    obtain ⟨hnext, hv⟩ := hloading.row hcalm hpoison (hok m (Nat.lt_succ_self m))
    dsimp only
    rw [List.range_succ, List.foldl_append, List.foldl_cons, List.foldl_nil]
    refine ⟨hnext, by rw [hv, hfields], fun k n hlt => ?_⟩
    rw [hv, mget_rowElems _ hn (fun j hj => by rw [helems m j hj, if_neg (by omega)]) k hlt, helems k n hlt]
    by_cases hk : k = m
    · subst hk
      simp
    · have hcond : k < m ∧ n < e.nlen ↔ k < m + 1 ∧ n < e.nlen := by omega
      rw [if_neg fun h => hk h.1, if_congr hcond rfl rfl]

theorem loadScaleRows_sound {r : Fetched Tile} (h : Loading s r) {m : Nat} (hok : ∀ b, b < m → ArrayOk s (e.iss c) .load (e.scaleRowAt b) e.nlen) :
    let q := (List.range m).foldl (loadScaleRow c e) r
    Loading s q ∧ q.v = { r.v with scales := q.v.scales }
      ∧ ∀ b n, b < m → n < e.nlen → mget q.v.scales (tileKey b n) 127 = readNat s (e.scaleRowAt b + n) 1 := by
  induction m with
  | zero => exact ⟨h, rfl, fun b n hb => absurd hb (Nat.not_lt_zero b)⟩
  | succ m ih =>
    obtain ⟨hloading, hfields, hscales⟩ := ih fun b hb => hok b (Nat.lt_succ_of_lt hb)
    obtain ⟨hnext, hv⟩ := hloading.scaleRow hcalm hpoison (hok m (Nat.lt_succ_self m))
    dsimp only
    rw [List.range_succ, List.foldl_append, List.foldl_cons, List.foldl_nil]
    refine ⟨hnext, by rw [hv, hfields], fun b n hb hlt => ?_⟩
    rw [hv, mget_rowScales _ m _ hn b (by omega)]
    by_cases hm : b = m
    · rw [if_pos ⟨hm, hlt⟩, hm]
    · rw [if_neg fun h => hm h.1, hscales b n (by omega) hlt]

theorem loadTile_sound (hrows : ∀ k, k < e.klen → ArrayOk s (e.iss c) .load (e.tileRowAt k) (cdiv (e.nlen * tileBits (fld (e.w 0) 63 60)) 8))
    (hscales : tileMx (fld (e.w 0) 63 60) = true → ∀ b, b < e.klen / 32 → ArrayOk s (e.iss c) .load (e.scaleRowAt b) e.nlen) :
    Loading s (loadTile s c e) ∧ TileLoaded s e (loadTile s c e).v := by
  obtain ⟨hloading, hfields, helems⟩ := loadRows_sound hcalm hpoison hn hrows
  have hplain : ∀ k n, k < e.klen → n < e.nlen → _ := fun k n hk hlt => (helems k n (by omega)).trans (if_pos ⟨hk, hlt⟩)
  rw [loadTile_eq]
  dsimp only
  split
  next hmx =>
    obtain ⟨hdone, hrest, hput⟩ := loadScaleRows_sound hcalm hpoison hn hloading (hscales hmx)
    refine ⟨hdone, ?_, ?_, fun _ => hput⟩
    · rw [hrest, hfields]
    · rw [hrest]; exact hplain
  next hmx => exact ⟨hloading, by rw [hfields], hplain, fun h => absurd h hmx⟩

end

/-! ### `MLOAD_COMPLETE` -/

/-- A tile load whose turn it is (R178, R182). -/
structure LoadsTile (s : State) (c e : Nat) (en : Entry) : Prop where
  present : entry s c e = some en
  op : en.op = .mload
  alive : alive s = true
  turn : ∀ f ∈ (clu s c).entries, f.id < en.id → f.op ≠ .mload ∧ (f.stream = true → fld (en.w 0) 59 59 ∈ f.buffers → f.rows ≤ f.entered)

/-- The cluster with a stationary tile replaced. -/
def Cluster.withTile (x : Cluster) (b : Nat) (y : Tile) : Cluster := if b = 0 then { x with sb0 := y } else { x with sb1 := y }

theorem LoadsTile.exec_eq {s : State} {c e : Nat} {en : Entry} (h : LoadsTile s c e en) (hload : Loading s (loadTile s c en)) :
    Machine.exec (.mloadComplete c e) s = .next (endEntry
      (setClu (loadTile s c en).s c ((clu s c).withTile (fld (en.w 0) 59 59) (loadTile s c en).v)) c en) := by
  have hturn : ∀ f ∈ (clu s c).entries.filter (fun f => decide (f.id < en.id)),
      f.op ≠ .mload ∧ (f.stream = true → fld (en.w 0) 59 59 ∈ f.buffers → f.rows ≤ f.entered) := fun f hf => by
    obtain ⟨hmem, hlt⟩ := List.mem_filter.mp hf
    exact h.turn f hmem (of_decide_eq_true hlt)
  have hloads : ((clu s c).entries.filter fun f => decide (f.id < en.id)).any (fun f => f.op == .mload) = false :=
    List.any_eq_false.mpr fun f hf => by simpa using (hturn f hf).1
  have hstreams : ((clu s c).entries.filter fun f => decide (f.id < en.id)).any
      (fun f => f.stream && f.buffers.contains (fld (en.w 0) 59 59) && decide (f.entered < f.rows)) = false :=
    List.any_eq_false.mpr fun f hf => by
      have hrows := (hturn f hf).2
      simp only [Bool.and_eq_true, List.contains_iff_mem, decide_eq_true_eq, not_and, and_imp]
      exact fun hst hb => Nat.not_lt.mpr (hrows hst hb)
  change execMloadComplete c e s = _
  unfold execMloadComplete
  dsimp only
  rw [h.present]
  dsimp only
  rw [if_neg (by simp only [hloads, hstreams, h.alive, h.op]; decide), hload.quiet.ready, if_neg Bool.false_ne_true, hload.faults,
    hload.quiet.steps.clu c]
  rfl

/-- Of the two stationary tiles the one that buffer `b` holds. -/
def Cluster.tile (x : Cluster) (b : Nat) : Tile := if b = 0 then x.sb0 else x.sb1

theorem Cluster.tile_withTile (x : Cluster) (b : Nat) (y : Tile) : (x.withTile b y).tile b = y := by
  unfold Cluster.withTile Cluster.tile
  split <;> rfl

theorem Cluster.crews_withTile (x : Cluster) (b : Nat) (y : Tile) : (x.withTile b y).crews = x.crews := by
  unfold Cluster.withTile
  split <;> rfl

/-- A tile load of sound memory ends with its tile in its buffer. -/
theorem LoadsTile.ends {s : State} {c e : Nat} {en : Entry} (h : LoadsTile s c e en) (hload : Loading s (loadTile s c en)) :
    ∃ t, Machine.exec (.mloadComplete c e) s = .next t ∧ t.mem = s.mem ∧ Ends s t c e en
      ∧ (clu t c).tile (fld (en.w 0) 59 59) = (loadTile s c en).v := by
  refine ⟨_, h.exec_eq hload, ?_, ?_, ?_⟩
  · exact (endEntry_onlyClusters _ c en).mem.trans hload.quiet.steps.mem
  · exact ends_endEntry (id_of_entry h.present) (by rw [clu_setClu_self, Cluster.crews_withTile])
  · rw [clu_endEntry, clu_setClu_self]
    exact Cluster.tile_withTile ..

/-! ### `STREAM_START` (R180, R181) -/

/-- A stream whose turn it is to start. -/
structure Starts (s : State) (c e : Nat) (en : Entry) : Prop where
  present : entry s c e = some en
  stream : en.stream = true
  waiting : en.started = false
  alive : alive s = true
  turn : mayStart (clu s c) en = true
  entered : ∀ f ∈ (clu s c).entries, f.id < en.id → f.stream = true → f.rows ≤ f.entered
  unloading : ∀ f ∈ (clu s c).entries, f.id < en.id → f.op = .mload → ∀ b ∈ en.buffers, b ∉ f.buffers
  loaded : ∀ b ∈ en.buffers, ((clu s c).tile b).valid = true

theorem Starts.exec_eq {s : State} {c e : Nat} {en : Entry} (h : Starts s c e en) :
    Machine.exec (.streamStart c e) s = .next (updEntry s c e fun f => { f with started := true }) := by
  have hentered : ((clu s c).entries.filter fun f => decide (f.id < en.id)).all (fun f => !f.stream || decide (f.rows ≤ f.entered)) = true :=
    List.all_eq_true.mpr fun f hf => by
      obtain ⟨hmem, hlt⟩ := List.mem_filter.mp hf
      have hrows := h.entered f hmem (of_decide_eq_true hlt)
      cases hst : f.stream
      · rfl
      · exact decide_eq_true (hrows hst)
  have hready : en.buffers.all (fun b => ((clu s c).tile b).valid
      && !((clu s c).entries.filter fun f => decide (f.id < en.id)).any fun f => f.op == .mload && f.buffers.contains b) = true :=
    List.all_eq_true.mpr fun b hb => by
      have hnone : (((clu s c).entries.filter fun f => decide (f.id < en.id)).any fun f => f.op == .mload && f.buffers.contains b) = false :=
        List.any_eq_false.mpr fun f hf => by
          obtain ⟨hmem, hlt⟩ := List.mem_filter.mp hf
          have hload := h.unloading f hmem (of_decide_eq_true hlt)
          simp only [Bool.and_eq_true, beq_iff_eq, List.contains_iff_mem, not_and]
          exact fun hop => hload hop b hb
      rw [h.loaded b hb, hnone]
      rfl
  change execStreamStart c e s = _
  unfold execStreamStart
  dsimp only
  rw [h.present]
  dsimp only
  unfold Cluster.tile at hready
  rw [hentered, hready, h.alive, h.stream, h.waiting, h.turn]
  rfl

theorem Starts.starts {s : State} {c e : Nat} {en : Entry} (h : Starts s c e en) :
    ∃ t, Machine.exec (.streamStart c e) s = .next t ∧ OnlyClusters s t ∧ (entry t c e).map (·.started) = some true
      ∧ (clu t c).acc = (clu s c).acc ∧ (clu t c).crews = (clu s c).crews := by
  refine ⟨_, h.exec_eq, onlyClusters_updEntry .., ?_, ?_, ?_⟩
  · rw [entry_updEntry h.present rfl]
    rfl
  · rw [clu_updEntry]
  · rw [clu_updEntry]

end Sys2Proof.Machine
end

section
/-! Output rows (R211, R212, R215, R217, R218): what one leaves in the accumulator store or the wide buffer, or sends as accumulate-writes. -/
namespace Sys2Proof.Machine
open Sys2Proof

/-! ### Elements written and added -/

theorem mget_mdel {α : Type} (m : Map α) (k j : Nat) (d : α) : mget (mdel m k) j d = if k = j then d else mget m j d := by
  unfold mget
  rw [mfind_mdel]
  split <;> rfl

/-- What an element holds after a value is written over it, or added to it: `kind` is 0 for binary32, 1 for binary16, 2 for INT32. -/
def elemAfter (kind : Nat) (excess : Bool) (old v : Nat) : Nat :=
  if excess then v else if kind = 2 then (old + v) % 2 ^ 32 else ((if kind = 1 then f16 else f32).fadd old v).1

/-- Store a code under a key: zeros are not kept. -/
theorem mget_stored (m : Map Nat) (key v j : Nat) : mget (if v = 0 then mdel m key else mset m key v) j 0 = if key = j then v else mget m j 0 := by
  split
  next hzero => rw [mget_mdel, hzero]
  · exact mget_mset ..

theorem mget_addElem (m : Map Nat) (p : List Nat) (key v kind : Nat) (pz excess : Bool) (j : Nat) :
    mget (addElem m p key v kind pz excess).1 j 0 = if key = j then elemAfter kind excess (mget m j 0) v else mget m j 0 := by
  unfold addElem elemAfter
  dsimp only
  cases excess
  · rw [if_neg Bool.false_ne_true]
    refine (mget_stored ..).trans ?_
    split
    next heq =>
      rw [heq, if_neg Bool.false_ne_true]
      split <;> rfl
    · rfl
  · exact mget_stored ..

/-- The elements of a store after `n` values are written over, or added to, those from `base` on. -/
def rowPut (m : Map Nat) (p : List Nat) (base kind : Nat) (o : PassOut) (excess : Bool) (n : Nat) : Map Nat × List Nat × Nat :=
  (List.range n).foldl (fun (acc : Map Nat × List Nat × Nat) n =>
    let r := addElem acc.1 acc.2.1 (base + n) (o.sums.getD n 0) kind (o.poison.contains n) excess
    (r.1, r.2.1, acc.2.2 + r.2.2)) (m, p, o.sat)

theorem mget_rowPut (m : Map Nat) (p : List Nat) (base kind : Nat) (o : PassOut) (excess : Bool) (n j : Nat) :
    mget (rowPut m p base kind o excess n).1 j 0
      = if base ≤ j ∧ j < base + n then elemAfter kind excess (mget m j 0) (o.sums.getD (j - base) 0) else mget m j 0 := by
  induction n with
  | zero => exact (if_neg (by omega)).symm
  | succ n ih =>
    unfold rowPut at ih ⊢
    rw [List.range_succ, List.foldl_append, List.foldl_cons, List.foldl_nil]
    dsimp only
    rw [mget_addElem, ih]
    by_cases hat : base + n = j
    · rw [if_pos hat, if_neg (by omega), if_pos (by omega), show j - base = n by omega]
    · have hcond : base ≤ j ∧ j < base + n ↔ base ≤ j ∧ j < base + (n + 1) := by omega
      rw [if_neg hat, if_congr hcond rfl rfl]

theorem addPass_eq (m : Map Nat) (p : List Nat) (base kind : Nat) (o : PassOut) (excess : Bool) :
    addPass m p base kind o excess = rowPut m p base kind o excess o.sums.length := rfl

/-- What one pass of a row leaves of a store: its own elements, and no others. -/
theorem mget_addPass (m : Map Nat) (p : List Nat) (base kind : Nat) (o : PassOut) (excess : Bool) (j : Nat) :
    mget (addPass m p base kind o excess).1 j 0
      = if base ≤ j ∧ j < base + o.sums.length then elemAfter kind excess (mget m j 0) (o.sums.getD (j - base) 0) else mget m j 0 := by
  rw [addPass_eq, mget_rowPut]

/-! ### Rows written into a store -/

/-- What the elements of a stream's accumulator slots are: binary32, binary16 or INT32. -/
def Entry.kind (en : Entry) : Nat := if fld (en.w 0) 59 56 = 0xA then 2 else if en.narrow then 1 else 0

/-- One pass of an output row, in the cluster that holds its slots or tiles. -/
def storePass (x : Cluster) (en : Entry) (target : Nat) (p : PassOut) (excess : Bool) : Cluster :=
  if en.wide then
    let r := addPass x.wgb x.wgbPoison (wgbKey (en.groupSlot 1) en.per en.cols target) 0 p excess
    { x with wgb := r.1, wgbPoison := r.2.1, wgbSat := x.wgbSat + r.2.2 }
  else
    let r := addPass x.acc x.accPoison (accKey (en.groupSlot p.group) en.per en.cols target) en.kind p excess
    { x with acc := r.1, accPoison := r.2.1, accSat := x.accSat + r.2.2 }

/-- Between two clusters nothing but the accumulator store and the wide buffer changed. -/
def OnlyStores (x y : Cluster) : Prop :=
  y = { x with acc := y.acc, accPoison := y.accPoison, accSat := y.accSat, wgb := y.wgb, wgbPoison := y.wgbPoison, wgbSat := y.wgbSat }

theorem OnlyStores.trans {x y z : Cluster} (h : OnlyStores x y) (g : OnlyStores y z) : OnlyStores x z := by
  unfold OnlyStores at *
  rw [g, h]

theorem storePass_onlyStores (x : Cluster) (en : Entry) (target : Nat) (p : PassOut) (excess : Bool) : OnlyStores x (storePass x en target p excess) := by
  unfold storePass
  split <;> rfl

theorem storeRow_eq (x : Cluster) (en : Entry) (o : RowOut) :
    storeRow x en o = (o.passes.foldl (fun (a : Cluster × List Nat) p =>
      (storePass a.1 en o.target p (!bit (en.w 0) 49 && !a.2.contains p.group), a.2 ++ [p.group])) (x, [])).1 := by
  unfold storeRow storePass
  refine congrArg Prod.fst (List.foldl_ext _ _ _ fun a p _ => ?_)
  dsimp only
  split <;> rfl

theorem storeRow_onlyStores (x : Cluster) (en : Entry) (o : RowOut) : OnlyStores x (storeRow x en o) := by
  rw [storeRow_eq]
  exact List.foldlRecOn (motive := fun a : Cluster × List Nat => OnlyStores x a.1) _ _ rfl fun a ha p _ => ha.trans (storePass_onlyStores ..)

theorem storeRow_one (x : Cluster) (en : Entry) {o : RowOut} {p : PassOut} (h : o.passes = [p]) :
    storeRow x en o = storePass x en o.target p (!bit (en.w 0) 49) := by
  rw [storeRow_eq, h]
  simp only [List.foldl_cons, List.foldl_nil, List.contains_nil, Bool.not_false, Bool.and_true]

/-! ### Rows sent as accumulate-writes (R218) -/

/-- Between two states nothing but towers changed. -/
def OnlyTowers (s t : State) : Prop := t = { s with towers := t.towers }

theorem OnlyTowers.refl (s : State) : OnlyTowers s s := rfl

theorem OnlyTowers.trans {s t u : State} (h : OnlyTowers s t) (g : OnlyTowers t u) : OnlyTowers s u := by
  unfold OnlyTowers at *
  rw [g, h]

theorem OnlyTowers.clu {s t : State} (h : OnlyTowers s t) (c : Nat) : clu t c = clu s c := (congrArg (fun u : State => Machine.clu u c) h :)
theorem OnlyTowers.mem {s t : State} (h : OnlyTowers s t) : t.mem = s.mem := (congrArg State.mem h :)

theorem accw_onlyTowers (s : State) (w : AccWrite) : OnlyTowers s (accw s w).1 := by
  unfold accw
  dsimp only
  split
  · exact .refl s
  · split
    · rfl
    · exact .refl s

theorem sendAccw_onlyTowers (s : State) (iss : Issuer) (id a : Nat) (int : Bool) (els : List (Nat × Bool)) : OnlyTowers s (sendAccw s iss id a int els).1 := by
  unfold sendAccw
  refine List.foldlRecOn (motive := fun a : State × List (Nat × Nat) => OnlyTowers s a.1) _ _ (.refl s) fun a ha l _ =>
    List.foldlRecOn (motive := fun a : State × List (Nat × Nat) => OnlyTowers s a.1) _ _ ha fun b hb g _ => ?_
  split
  · exact hb
  · exact hb.trans (accw_onlyTowers _ _)

/-- Between two states a row was sent: nothing but towers and the count of saturations of cluster `c` changed. -/
structure RowSent (s t : State) (c : Nat) : Prop where
  module : t = { s with towers := t.towers, clusters := t.clusters }
  cluster : clu t c = { clu s c with accSat := (clu t c).accSat }

theorem RowSent.trans {s t u : State} {c : Nat} (h : RowSent s t c) (g : RowSent t u c) : RowSent s u c := by
  refine ⟨?_, ?_⟩
  · rw [g.module, h.module]
  · rw [g.cluster, h.cluster]

theorem OnlyTowers.rowSent {s t : State} {c : Nat} (h : OnlyTowers s t) : RowSent s t c := by
  refine ⟨?_, by rw [h.clu]⟩
  unfold OnlyTowers at h
  rw [h]

theorem RowSent.counted {s t : State} {c : Nat} (h : RowSent s t c) (n : Nat) : RowSent s (setClu t c { clu t c with accSat := n }) c :=
  h.trans ⟨rfl, by rw [clu_setClu_self]⟩

theorem sendRow_rowSent (s : State) (c : Nat) (en : Entry) (o : RowOut) : RowSent s (sendRow s c en o).1 c := by
  refine List.foldlRecOn (motive := fun a : State × List (Nat × Nat) => RowSent s a.1 c) _ _ ⟨rfl, rfl⟩ fun a ha p _ => ha.trans ?_
  have hsent := sendAccw_onlyTowers a.1 (en.iss c) en.id (fld (en.w 4) 47 0 + o.target * 2048) (fld (en.w 0) 59 56 == 0xA)
    ((List.range (min en.nlen p.sums.length)).map fun n => (p.sums.getD n 0, p.poison.contains n))
  dsimp only
  generalize sendAccw a.1 _ _ _ _ _ = r at hsent ⊢
  exact hsent.rowSent.counted _

end Sys2Proof.Machine
end

section
/-! `OUTPUT_ROW_WRITE` (R211 to R218) and the hold window (R204, R205). -/
namespace Sys2Proof.Machine
open Sys2Proof

/-! ### `OUTPUT_ROW_WRITE` -/

theorem accErrs_nil (s : State) (c : Nat) (wide : Bool) : accErrs s c wide [] = s := by unfold accErrs; split <;> rfl

theorem charge_nil (s : State) (c : Nat) (en : Entry) : charge s c en [] = s := rfl

/-- A stream whose oldest output row is `o` and may be written: no stream before it has rows left to write. -/
structure WritesRow (s : State) (c e : Nat) (en : Entry) (o : RowOut) (more : List RowOut) : Prop where
  present : entry s c e = some en
  outs : en.outs = o :: more
  stream : en.stream = true
  alive : alive s = true
  turn : ∀ f ∈ (clu s c).entries, f.stream = true → f.id < en.id → f.outs = []

/-- Where an output row goes: dropped, sent, or stored. -/
def rowWritten (s : State) (c : Nat) (en : Entry) (o : RowOut) : State × List (Nat × Nat) :=
  if o.drop ≠ 0 then
    (setClu s c { clu s c with accOutOor := (clu s c).accOutOor + 1, accIxDrop := (clu s c).accIxDrop + b2n (o.drop == 2) }, [])
  else if en.outMode = 2 then sendRow s c en o
  else (setClu s c (storeRow (clu s c) en o), [])

theorem rowWritten_dropped {s : State} {c : Nat} {en : Entry} {o : RowOut} (h : o.drop ≠ 0) : (rowWritten s c en o).1
    = setClu s c { clu s c with accOutOor := (clu s c).accOutOor + 1, accIxDrop := (clu s c).accIxDrop + b2n (o.drop == 2) } := by
  unfold rowWritten
  rw [if_pos h]

theorem rowWritten_sent {s : State} {c : Nat} {en : Entry} {o : RowOut} (h : o.drop = 0) (hmode : en.outMode = 2) :
    rowWritten s c en o = sendRow s c en o := by
  unfold rowWritten
  rw [if_neg (not_not.mpr h), if_pos hmode]

theorem rowWritten_stored {s : State} {c : Nat} {en : Entry} {o : RowOut} (h : o.drop = 0) (hmode : en.outMode ≠ 2) :
    (rowWritten s c en o).1 = setClu s c (storeRow (clu s c) en o) := by
  unfold rowWritten
  rw [if_neg (not_not.mpr h), if_neg hmode]

/-- A row that is dropped, or goes out, leaves the accumulator store. -/
theorem rowWritten_acc {s : State} {c : Nat} {en : Entry} {o : RowOut} (h : o.drop ≠ 0 ∨ en.outMode = 2) :
    (clu (rowWritten s c en o).1 c).acc = (clu s c).acc := by
  by_cases hdrop : o.drop = 0
  · rw [rowWritten_sent hdrop (h.resolve_left (not_not.mpr hdrop)), (sendRow_rowSent s c en o).cluster]
  · rw [rowWritten_dropped hdrop, clu_setClu_self]

/-- The store that a stream's rows go to. -/
def Entry.store (en : Entry) (x : Cluster) : Map Nat := if en.wide then x.wgb else x.acc

/-- The first key of a row of a stream's first group. -/
def Entry.rowKey (en : Entry) (target : Nat) : Nat := (if en.wide then wgbKey else accKey) (en.groupSlot 1) en.per en.cols target

/-- A row of one pass in its store: its own elements change, as R211 and R212 say, and no others. -/
theorem mget_storePass {x : Cluster} {en : Entry} {p : PassOut} (hgroup : p.group = 1) (target : Nat) (excess : Bool) (k : Nat) :
    mget (en.store (storePass x en target p excess)) k 0
      = if en.rowKey target ≤ k ∧ k < en.rowKey target + p.sums.length then
          elemAfter (if en.wide then 0 else en.kind) excess (mget (en.store x) k 0) (p.sums.getD (k - en.rowKey target) 0)
        else mget (en.store x) k 0 := by
  unfold Entry.store storePass Entry.rowKey
  rw [hgroup]
  cases en.wide
  · exact mget_addPass ..
  · exact mget_addPass ..

theorem storePass_other {x : Cluster} {en : Entry} {target : Nat} {p : PassOut} {excess : Bool} :
    if en.wide then (storePass x en target p excess).acc = x.acc else (storePass x en target p excess).wgb = x.wgb := by
  unfold storePass
  split <;> rfl

/-- A stored row of one pass, of the first group: its own elements of its own store change, and no others. -/
theorem rowWritten_one {s : State} {c : Nat} {en : Entry} {o : RowOut} {p : PassOut} (hdrop : o.drop = 0) (hmode : en.outMode ≠ 2)
    (hp : o.passes = [p]) (hgroup : p.group = 1) :
    let y := clu (rowWritten s c en o).1 c
    (if en.wide then y.acc = (clu s c).acc else y.wgb = (clu s c).wgb)
      ∧ ∀ k, mget (en.store y) k 0 = if en.rowKey o.target ≤ k ∧ k < en.rowKey o.target + p.sums.length then
          elemAfter (if en.wide then 0 else en.kind) (!bit (en.w 0) 49) (mget (en.store (clu s c)) k 0) (p.sums.getD (k - en.rowKey o.target) 0)
        else mget (en.store (clu s c)) k 0 := by
  dsimp only
  rw [rowWritten_stored hdrop hmode, clu_setClu_self, storeRow_one _ _ hp]
  exact ⟨storePass_other, fun k => mget_storePass hgroup ..⟩

/-- The slots or tiles that the row an entry writes next releases (R215). -/
def Entry.rowReleases (en : Entry) : List Nat :=
  if en.cplx ≠ 0 ∨ en.outMode = 1 then (if en.written + 1 = en.rows then en.uses else [])
  else if en.outMode = 2 then []
  else rowEnds en (en.uses.headD 0) en.written en.rows

/-- The entry after its oldest output row is written. -/
def Entry.rowDone (en : Entry) (more : List RowOut) (f : Entry) : Entry :=
  { f with written := en.written + 1, outs := more, released := f.released ++ en.rowReleases }

section
variable {s : State} {c e : Nat} {en : Entry} {o : RowOut} {more : List RowOut} (h : WritesRow s c e en o more)
include h

theorem WritesRow.exec_eq :
    Machine.exec (.outputRowWrite c e []) s = .next (
      let t := updEntry (rowWritten s c en o).1 c e (en.rowDone more)
      charge (if en.written + 1 = en.rows ∧ en.outMode ≠ 2 then endEntry t c en else t) c en (rowWritten s c en o).2) := by
  have hturn : (clu s c).entries.any (fun f => f.stream && decide (f.id < en.id) && !f.outs.isEmpty) = false :=
    List.any_eq_false.mpr fun f hf => by
      have houts := h.turn f hf
      simp only [Bool.and_eq_true, decide_eq_true_eq, Bool.not_eq_true', List.isEmpty_eq_false_iff, not_and, not_not, and_imp]
      exact houts
  change execOutputRowWrite c e [] s = _
  unfold execOutputRowWrite
  rw [accErrs_nil]
  dsimp only
  rw [h.present]
  dsimp only
  rw [h.outs]
  dsimp only
  rw [hturn, h.alive, h.stream, if_neg (by decide)]
  rfl

end

/-- What the writing of a row leaves beside the stores, the counts and the adders: memory, the entries and the crews. -/
structure RowLeaves (s t : State) (c : Nat) : Prop where
  mem : t.mem = s.mem
  entries : (clu t c).entries = (clu s c).entries
  crews : (clu t c).crews = (clu s c).crews

theorem rowWritten_leaves (s : State) (c : Nat) (en : Entry) (o : RowOut) : RowLeaves s (rowWritten s c en o).1 c := by
  unfold rowWritten
  split
  · exact ⟨rfl, by rw [clu_setClu_self], by rw [clu_setClu_self]⟩
  · split
    · obtain ⟨hmodule, hcluster⟩ := sendRow_rowSent s c en o
      exact ⟨(congrArg State.mem hmodule :), by rw [hcluster], by rw [hcluster]⟩
    · refine ⟨rfl, ?_, ?_⟩ <;> rw [clu_setClu_self, storeRow_onlyStores]

theorem rowWritten_faults {s : State} {c : Nat} {en : Entry} {o : RowOut} (h : o.drop ≠ 0 ∨ en.outMode ≠ 2) : (rowWritten s c en o).2 = [] := by
  unfold rowWritten
  split
  · rfl
  next hdrop => rw [if_neg (h.resolve_left hdrop)]

section
variable {s : State} {c e : Nat} {en : Entry} {o : RowOut} {more : List RowOut} (h : WritesRow s c e en o more)
include h

/-- The row is off its entry's list: the entry goes on, or ends with its last row. -/
theorem WritesRow.writes (hmild : (o.drop ≠ 0 ∨ en.outMode ≠ 2) ∨ Mild s c en) :
    ∃ t, Machine.exec (.outputRowWrite c e []) s = .next t ∧ t.mem = s.mem ∧ (∀ k, tow t k = tow (rowWritten s c en o).1 k)
      ∧ clu t c = { clu (rowWritten s c en o).1 c with entries := (clu t c).entries, crews := (clu t c).crews }
      ∧ (¬ (en.written + 1 = en.rows ∧ en.outMode ≠ 2) → (entry t c e).map (fun f => (f.written, f.outs)) = some (en.written + 1, more))
      ∧ (en.written + 1 = en.rows ∧ en.outMode ≠ 2 → Ends s t c e en) := by
  obtain ⟨hmem, hentries, hcrews⟩ := rowWritten_leaves s c en o
  refine ⟨_, h.exec_eq, ?_⟩
  dsimp only
  have hupd : (clu (updEntry (rowWritten s c en o).1 c e (en.rowDone more)) c).crews = (clu s c).crews := by rw [clu_updEntry, hcrews]
  have hcluster := clu_updEntry (rowWritten s c en o).1 c e (en.rowDone more)
  by_cases hlast : en.written + 1 = en.rows ∧ en.outMode ≠ 2
  · rw [if_pos hlast, rowWritten_faults (.inr hlast.2), charge_nil]
    refine ⟨(endEntry_onlyClusters _ c en).mem.trans hmem, fun k => (endEntry_onlyClusters _ c en).tow k, ?_, fun h => absurd hlast h,
      fun _ => ends_endEntry (id_of_entry h.present) hupd⟩
    rw [clu_endEntry, hcluster]
  · rw [if_neg hlast]
    have hcharge := charge_onlyCrews (fs := (rowWritten s c en o).2) (hmild.imp rowWritten_faults (mild_congr hupd).mpr)
    refine ⟨hcharge.module.mem.trans hmem, hcharge.module.tow, by rw [hcharge.cluster, hcluster], fun _ => ?_,
      fun h => absurd h hlast⟩
    rw [hcharge.entry, entry_updEntry ((entry_congr hentries e).trans h.present) rfl]
    rfl

end

/-! ### The hold window (R204, R205) -/

theorem slopeUnits_zero (code : Nat) : slopeUnits code 0 = 0 := by
  unfold slopeUnits
  split
  · simp
  · rfl

/-- A fall that begins now has not yet fallen. -/
theorem activityNow_rampTo_down (s t : State) (x : Cluster) (hnow : t.pace.now = s.pace.now) :
    activityNow t (rampTo s x .down 0) = activityNow s x := by
  unfold rampTo
  rw [activityNow]
  dsimp only
  rw [hnow, Nat.sub_self]
  unfold fallen
  rw [slopeUnits_zero]
  omega

/-- A hold operation is counted, in the window and in the operating cycles of a ramp. -/
theorem currentHoldOp_counts {s : State} {c : Nat} (halive : alive s = true)
    (hop : (clu s c).holdCount < (clu s c).holdWindow ∨ 0 < activityNow s (clu s c)) :
    Machine.exec (.currentHoldOp c) s
      = .next (setClu s c { clu s c with mxaDummy := (clu s c).mxaDummy + 1, holdCount := (clu s c).holdCount + 1 }) := by
  change execCurrentHoldOp c s = _
  unfold execCurrentHoldOp
  dsimp only
  rw [halive, if_neg (by simp only [Bool.true_eq_false, false_or]; omega)]

/-- At the end of the hold window the activity falls from where it is. -/
theorem holdWindowExpire_falls {s : State} {c : Nat} (hwindow : (clu s c).holdWindow ≤ (clu s c).holdCount) :
    ∃ t, Machine.exec (.holdWindowExpire c) s = .next t ∧ OnlyClusters s t ∧ (clu t c).ramp = .down ∧ (clu t c).actFloor = 0
      ∧ activityNow t (clu t c) = activityNow s (clu s c) := by
  have hexec : Machine.exec (.holdWindowExpire c) s
      = .next (if (clu s c).ramp = .down ∧ (clu s c).actFloor = 0 then s else setClu s c (rampTo s (clu s c) .down 0)) := by
    change execHoldWindowExpire c s = _
    unfold execHoldWindowExpire
    dsimp only
    by_cases hfalling : (clu s c).ramp = .down ∧ (clu s c).actFloor = 0
    · rw [if_neg fun h => h.2 hfalling, if_pos hfalling]
    · rw [if_pos ⟨hwindow, hfalling⟩, if_neg hfalling]
  refine ⟨_, hexec, ?_⟩
  split
  next hfalling => exact ⟨rfl, hfalling.1, hfalling.2, rfl⟩
  · rw [clu_setClu_self]
    exact ⟨rfl, rfl, rfl, activityNow_rampTo_down s _ _ rfl⟩

end Sys2Proof.Machine
end

section
/-! The matrix array's tile loads, streams and output rows (O25), clause by clause. -/
namespace Sys2Proof.Machine
open Sys2Proof

/-- The rounding of a sum, case by case (R211). -/
theorem roundSum_code (en : Entry) (v : Num) : (roundSum (fld (en.w 0) 59 56 == 0xA) en.narrow v).code
    = if fld (en.w 0) 59 56 = 0xA then (convertInt 32 v).code else if en.narrow then (f16.convert v).code else (f32.convert v).code := by
  unfold roundSum
  split
  next hint => rw [if_pos (beq_iff_eq.mp hint)]
  next hint =>
    rw [if_neg fun h => hint (beq_iff_eq.mpr h)]
    split <;> rfl

/-- How an element of a stream's row changes (R211, R212). -/
theorem elemAfter_stream (en : Entry) (old v : Nat) : elemAfter (if en.wide then 0 else en.kind) (!bit (en.w 0) 49) old v
    = if bit (en.w 0) 49 = false then v else if en.wide then (f32.fadd old v).1
      else if fld (en.w 0) 59 56 = 0xA then (old + v) % 2 ^ 32 else if en.narrow then (f16.fadd old v).1 else (f32.fadd old v).1 := by
  unfold elemAfter Entry.kind
  cases bit (en.w 0) 49
  · rfl
  · cases en.wide
    · by_cases hint : fld (en.w 0) 59 56 = 0xA
      · simp [hint]
      · cases en.narrow <;> simp [hint]
    · rfl

/-- Settles O25: a tile is followed row by row into its buffer, a row from its fetches to its rounded sums, and an output row into the
elements of its slots or tiles; the other clauses are the branches of their commands. -/
theorem streamsThroughTheArray : Obligations.StreamsThroughTheArray := by
  unfold Obligations.StreamsThroughTheArray
  refine ⟨?load, ?start, ?enter, ?sums, ?write, ?hold, ?expire⟩
  case load =>
    intro s c e en hpresent hop halive hcalm hpoison hturn fmt bits at_ sc hn hrows hscales
    obtain ⟨hload, hsound⟩ := loadTile_sound hcalm hpoison hn hrows hscales
    obtain ⟨t, hexec, hmem, ⟨hgone, hq⟩, htile⟩ := LoadsTile.ends ⟨hpresent, hop, halive, hturn⟩ hload
    rw [← htile] at hsound
    obtain ⟨hfields, helems, hput⟩ := hsound
    exact ⟨t, hexec, hmem, hgone, hq, (congrArg Tile.valid hfields :), (congrArg Tile.fmt hfields :), (congrArg Tile.klen hfields :),
      (congrArg Tile.nlen hfields :), (congrArg Tile.poison hfields :), helems, hput⟩
  case start =>
    intro s c e en hpresent hstream hwaiting halive hmay hturn hloaded
    exact Starts.starts ⟨hpresent, hstream, hwaiting, halive, hmay, fun f hf hlt => (hturn f hf hlt).1, fun f hf hlt => (hturn f hf hlt).2, hloaded⟩
  case enter =>
    intro s c e en hpresent hstream hstarted halive hcalm hmore hfree n
    have henters : Enters s c e en := ⟨hpresent, hstream, hstarted, halive, hcalm, hmore, hfree⟩
    refine ⟨henters.idle, fun hactive hmild => ?_⟩
    obtain ⟨t, hexec, hrow⟩ := henters.rowEnters hactive (.inr hmild)
    refine ⟨t, hexec, hrow.mem, hrow.acc, hrow.wgb, ?_, _, hrow.row, rfl, length_passes_rowOutput .., fun p => length_sums_rowOutput⟩
    rw [hrow.busy, length_passes]
    rfl
  case sums =>
    intro s c e en hpresent hstream hstarted halive hcalm hactive hpoison hcplx hsrc hmore hfree fmt tile a hfmt hone hmx htile hok sum code
    have hplain : PlainRow s c en := ⟨hcalm, hpoison, hcplx, hsrc, hmx, hone, hok⟩
    have hunits : en.enterUnits = (en.uses[en.entered / en.per]?).toList := by
      unfold Entry.enterUnits
      rw [hcplx, hplain.outMode]
      rfl
    have henters : Enters s c e en := ⟨hpresent, hstream, hstarted, halive, hcalm, hmore, by rw [hunits]; exact hfree⟩
    obtain ⟨-, hfaults⟩ := hplain.fetchParts
    obtain ⟨htarget, htargetFaults⟩ := hplain.fetchedTarget
    obtain ⟨t, hexec, hrow⟩ := henters.rowEnters hactive (.inl (by rw [hfaults, htargetFaults]; rfl))
    obtain ⟨p, hp, hsums⟩ := hplain.rowOutput (clu s c)
    have hcount : en.passCount = 1 := by
      unfold Entry.passCount
      rw [hcplx]
      exact if_neg hone
    refine ⟨t, hexec, hrow.mem, hrow.acc, by rw [hrow.busy, length_passes, hcount], _, hrow.row, rfl, ?_, ?_, by rw [hp]; rfl, fun n hn => ?_⟩
    · exact congrArg Prod.fst htarget
    · exact congrArg Prod.snd htarget
    · rw [hp]
      exact (hsums n hn).trans ((roundSum_code en _).trans (apply_ite code (n < tile.nlen) _ _))
  case write =>
    intro s c e en o more hpresent houts hstream halive hturn key store
    have hwrites : WritesRow s c e en o more := ⟨hpresent, houts, hstream, halive, hturn⟩
    refine ⟨fun hmode hmild => ?_, fun hmode => ?_⟩
    · obtain ⟨t, hexec, hmem, htow, hclu, hnext, -⟩ := hwrites.writes (hmild.imp .inl id)
      refine ⟨t, hexec, hmem, hnext fun h => h.2 hmode, ?_, fun hdrop => ?_⟩
      · rw [hclu]
        exact rowWritten_acc (.inr hmode)
      · refine ⟨?_, fun tw => ?_⟩
        · rw [hclu, rowWritten_dropped hdrop, clu_setClu_self]
        · rw [htow, rowWritten_dropped hdrop]
          rfl
    · obtain ⟨t, hexec, hmem, -, hclu, hnext, hlast⟩ := hwrites.writes (.inl (.inr hmode))
      refine ⟨t, hexec, hmem, fun h => hnext fun hl => h hl.1, fun h => hlast ⟨h, hmode⟩, fun hdrop => ?_, fun p hdrop hp hgroup => ?_⟩
      · rw [rowWritten_dropped hdrop, clu_setClu_self] at hclu
        exact ⟨by rw [hclu], by rw [hclu], by rw [hclu]⟩
      · obtain ⟨hother, hget⟩ := rowWritten_one (s := s) (c := c) hdrop hmode hp hgroup
        have hstore : store (clu t c) = en.store (clu (rowWritten s c en o).1 c) := by
          rw [hclu]
          rfl
        rw [hstore]
        refine ⟨by rw [hclu]; exact hother, fun k hk => (hget k).trans (if_neg fun hin => ?_), fun n hn => (hget (key n)).trans ?_⟩
        · exact hk (k - en.rowKey o.target) (by omega) (Nat.add_sub_of_le hin.1).symm
        · have hkey : key n = en.rowKey o.target + n := rfl
          rw [hkey, if_pos ⟨Nat.le_add_right .., by omega⟩, Nat.add_sub_cancel_left]
          exact elemAfter_stream ..
  case hold =>
    intro s c halive hop
    exact ⟨_, currentHoldOp_counts halive hop, rfl, clu_setClu_self ..⟩
  case expire => exact fun s c => holdWindowExpire_falls

end Sys2Proof.Machine
end

section
/-! Clears and acknowledgements of matrix entries: `MZERO` and clearing spills (R214 to R216, R266), `ACCW_ACK` (R182, R227, R268), and `ASY_CLEAR`
(R257, R259). -/
namespace Sys2Proof.Machine
open Sys2Proof

/-! ### Tables with keys removed -/

theorem mfind_filter {α : Type} (keep : Nat → Bool) (m : Map α) (k : Nat) :
    mfind (m.filter fun y => keep y.1) k = if keep k then mfind m k else none := by
  induction m with
  | nil => exact (ite_self none).symm
  | cons y m ih =>
    obtain ⟨j, v⟩ := y
    by_cases hj : keep j = true
    · rw [List.filter_cons_of_pos (p := fun y : Nat × α => keep y.1) hj, mfind, ih, mfind]
      by_cases hk : j = k
      · rw [if_pos hk, if_pos hk, if_pos (hk ▸ hj)]
      · rw [if_neg hk, if_neg hk]
    · rw [List.filter_cons_of_neg (p := fun y : Nat × α => keep y.1) hj, ih, mfind]
      split
      next hkeep => rw [if_neg fun hk : j = k => hj (hk ▸ hkeep)]
      · rfl

theorem mget_filter {α : Type} (keep : Nat → Bool) (m : Map α) (k : Nat) (d : α) :
    mget (m.filter fun y => keep y.1) k d = if keep k then mget m k d else d := by
  unfold mget
  rw [mfind_filter]
  split <;> rfl

/-- A store with the elements of one slot, or one tile, of `size` removed. -/
theorem mget_cleared (m : Map Nat) (size unit k : Nat) :
    mget (m.filter fun y => y.1 / size != unit) k 0 = if k / size = unit then 0 else mget m k 0 := by
  rw [mget_filter (fun j => j / size != unit)]
  by_cases h : k / size = unit
  · rw [if_pos h, if_neg (by simpa using h)]
  · rw [if_neg h, if_pos (by simpa using h)]

/-! ### Entries that clear their units one after another -/

/-- An entry after one more of its units is cleared and released. -/
def Entry.cleared (en : Entry) (unit : Nat) (f : Entry) : Entry :=
  { f with started := true, written := en.written + 1, released := f.released ++ [unit] }

/-- The module after a unit of an entry is cleared, `y` its cluster with the unit cleared. -/
def unitCleared (s : State) (c e : Nat) (en : Entry) (unit : Nat) (y : Cluster) : State :=
  let t := updEntry (setClu s c y) c e (en.cleared unit)
  if en.written + 1 < en.uses.length then t else endEntry t c en

/-- The entry goes on to its next unit, or ends with its last. -/
theorem unitCleared_spec {s : State} {c e : Nat} {en : Entry} (hpresent : entry s c e = some en) (unit : Nat) {y : Cluster}
    (hentries : y.entries = (clu s c).entries) (hcrews : y.crews = (clu s c).crews) :
    let t := unitCleared s c e en unit y
    OnlyClusters s t ∧ clu t c = { y with entries := (clu t c).entries, crews := (clu t c).crews }
      ∧ (en.written + 1 < en.uses.length → entry t c e = some (en.cleared unit en))
      ∧ (en.uses.length ≤ en.written + 1 → Ends s t c e en) := by
  have hy : clu (updEntry (setClu s c y) c e (en.cleared unit)) c
      = { y with entries := (clu (updEntry (setClu s c y) c e (en.cleared unit)) c).entries } := by
    rw [clu_updEntry, clu_setClu_self]
  have honly := (onlyClusters_setClu s c y).trans (onlyClusters_updEntry _ c e (en.cleared unit))
  unfold unitCleared
  dsimp only
  split
  next hmore =>
    refine ⟨honly, by rw [hy], fun _ => ?_, fun h => absurd hmore (Nat.not_lt.mpr h)⟩
    exact entry_updEntry ((entry_congr (by rw [clu_setClu_self, hentries]) e).trans hpresent) rfl
  next hlast =>
    refine ⟨honly.trans (endEntry_onlyClusters ..), ?_, fun h => absurd h hlast, fun _ => ?_⟩
    · rw [clu_endEntry, hy]
    · exact ends_endEntry (id_of_entry hpresent) (by rw [hy, hcrews])

/-! ### `MZERO` (R214) -/

/-- An `MZERO` whose next slot is released to it. -/
structure Zeroes (s : State) (c e : Nat) (en : Entry) : Prop where
  present : entry s c e = some en
  op : en.op = .mzero
  alive : alive s = true
  turn : mayStart (clu s c) en = true
  free : blocked (clu s c) en (fld (en.w 0) 63 59 + en.written) = false

/-- A cluster with a slot cleared and given its width. -/
def Cluster.zeroed (x : Cluster) (slot : Nat) (narrow : Bool) : Cluster :=
  { x with
    acc := x.acc.filter fun y => y.1 / 32768 != slot
    accPoison := x.accPoison.filter fun k => k / 32768 != slot
    narrow := if narrow then (x.narrow.filter fun n => n != slot) ++ [slot] else x.narrow.filter fun n => n != slot }

theorem Cluster.mem_narrow_zeroed (x : Cluster) (slot : Nat) (narrow : Bool) (u : Nat) :
    u ∈ (x.zeroed slot narrow).narrow ↔ if u = slot then narrow = true else u ∈ x.narrow := by
  unfold Cluster.zeroed
  cases narrow <;> by_cases hu : u = slot <;> simp [hu]

theorem Zeroes.exec_eq {s : State} {c e : Nat} {en : Entry} (h : Zeroes s c e en) : Machine.exec (.mzeroClear c e) s
    = .next (unitCleared s c e en (fld (en.w 0) 63 59 + en.written) ((clu s c).zeroed (fld (en.w 0) 63 59 + en.written) (bit (en.w 0) 53))) := by
  change execMzeroClear c e s = _
  unfold execMzeroClear
  dsimp only
  rw [h.present]
  dsimp only
  rw [h.alive, h.op, h.turn, h.free, if_neg (by decide)]
  rfl

theorem Zeroes.clears {s : State} {c e : Nat} {en : Entry} (h : Zeroes s c e en) :
    ∃ t, Machine.exec (.mzeroClear c e) s = .next t ∧ OnlyClusters s t
      ∧ (∀ k, mget (clu t c).acc k 0 = if k / 32768 = fld (en.w 0) 63 59 + en.written then 0 else mget (clu s c).acc k 0)
      ∧ (∀ u, u ∈ (clu t c).narrow ↔ if u = fld (en.w 0) 63 59 + en.written then bit (en.w 0) 53 = true else u ∈ (clu s c).narrow)
      ∧ (en.written + 1 < en.uses.length → entry t c e = some (en.cleared (fld (en.w 0) 63 59 + en.written) en))
      ∧ (en.uses.length ≤ en.written + 1 → Ends s t c e en) := by
  obtain ⟨honly, hcluster, hnext, hlast⟩ := unitCleared_spec h.present (fld (en.w 0) 63 59 + en.written)
    (y := (clu s c).zeroed (fld (en.w 0) 63 59 + en.written) (bit (en.w 0) 53)) rfl rfl
  refine ⟨_, h.exec_eq, honly, fun k => ?_, fun u => ?_, hnext, hlast⟩
  · rw [hcluster]
    exact mget_cleared ..
  · rw [hcluster]
    exact Cluster.mem_narrow_zeroed ..

/-! ### A spill that clears (R266) -/

/-- A clearing spill whose next tile is released to it. -/
structure ClearsTile (s : State) (c e : Nat) (en : Entry) : Prop where
  present : entry s c e = some en
  op : en.op = .mspill
  alive : alive s = true
  turn : en.started = false → mayStart (clu s c) en = true
  mode : fld (en.w 0) 55 54 = 2
  free : blocked (clu s c) en (32 + (fld (en.w 0) 63 60 + en.written)) = false

/-- A cluster with a tile of its wide buffer cleared. -/
def Cluster.tileCleared (x : Cluster) (tile : Nat) : Cluster :=
  { x with
    wgb := x.wgb.filter fun v => v.1 / 65536 != tile
    wgbPoison := x.wgbPoison.filter fun k => k / 65536 != tile }

theorem ClearsTile.exec_eq {s : State} {c e : Nat} {en : Entry} (h : ClearsTile s c e en) : Machine.exec (.mspillRow c e []) s
    = .next (unitCleared s c e en (32 + (fld (en.w 0) 63 60 + en.written)) ((clu s c).tileCleared (fld (en.w 0) 63 60 + en.written))) := by
  have hturn : ¬ (en.started = false ∧ mayStart (clu s c) en = false) := fun hw => by rw [h.turn hw.1] at hw; exact absurd hw.2 (by decide)
  change execMspillRow c e [] s = _
  unfold execMspillRow
  rw [accErrs_nil]
  dsimp only
  rw [h.present]
  dsimp only
  rw [h.alive, h.op, h.mode, if_neg (by simpa using hturn), if_pos rfl, if_pos rfl, Nat.div_one, h.free, if_neg Bool.false_ne_true]
  rfl

theorem ClearsTile.clears {s : State} {c e : Nat} {en : Entry} (h : ClearsTile s c e en) :
    ∃ t, Machine.exec (.mspillRow c e []) s = .next t ∧ OnlyClusters s t
      ∧ (∀ k, mget (clu t c).wgb k 0 = if k / 65536 = fld (en.w 0) 63 60 + en.written then 0 else mget (clu s c).wgb k 0)
      ∧ (en.written + 1 < en.uses.length → entry t c e = some (en.cleared (32 + (fld (en.w 0) 63 60 + en.written)) en))
      ∧ (en.uses.length ≤ en.written + 1 → Ends s t c e en) := by
  obtain ⟨honly, hcluster, hnext, hlast⟩ := unitCleared_spec h.present (32 + (fld (en.w 0) 63 60 + en.written))
    (y := (clu s c).tileCleared (fld (en.w 0) 63 60 + en.written)) rfl rfl
  refine ⟨_, h.exec_eq, honly, fun k => ?_, hnext, hlast⟩
  rw [hcluster]
  exact mget_cleared ..

/-! ### `ACCW_ACK` -/

/-- Whether an entry waits only for its last accumulate-write's acknowledgement. -/
def Entry.acked (en : Entry) : Bool :=
  match en.op with
  | .mepi => (epiOf (en.w 0)).accw && decide ((epiOf (en.w 0)).rows ≤ en.written)
  | .mspill => fld (en.w 0) 55 54 != 2 && decide (spillRows en ≤ en.written)
  | .mload | .mzero => false
  | _ => en.outMode == 2 && decide (en.rows ≤ en.written)

/-- An entry that has sent its last accumulate-write. -/
theorem acked_of {en : Entry} (h : match en.op with
    | .mepi => (epiOf (en.w 0)).accw = true ∧ (epiOf (en.w 0)).rows ≤ en.written
    | .mspill => fld (en.w 0) 55 54 ≠ 2 ∧ spillRows en ≤ en.written
    | .mstream | .mstreamIx => en.outMode = 2 ∧ en.rows ≤ en.written
    | _ => False) : en.acked = true := by
  unfold Entry.acked
  split at h <;> simp_all

theorem addReady_clusters (s : State) (b n : Nat) : (addReady s b n).clusters = s.clusters := by
  unfold addReady
  dsimp only
  split
  · split
    next =>
      obtain ⟨m, q, w, a, r, k, i, l, d, f, htrace⟩ :=
        trace_eq (setBkt s b { bkt s b with ready := min 0xFFFF ((bkt s b).ready + n), mode := .ready }) (b / 64) 3 b (bkt s b).step
      rw [htrace]
      rfl
    · rfl
  · rfl

theorem Ends.of_clusters {s t u : State} {c e : Nat} {en : Entry} (h : Ends s t c e en) (g : u.clusters = t.clusters) : Ends s u c e en := by
  have hclu : clu u c = clu t c := by unfold clu; rw [g]
  unfold Ends crw entry at *
  rw [hclu]
  exact h

theorem execAccwAck_eq {s : State} {c e : Nat} {en : Entry} (h : entry s c e = some en) : execAccwAck c e s
    = .next (if alive s = false ∨ en.acked = false then s
      else if en.op = .mspill ∧ bit (en.w 0) 45 then addReady (endEntry s c en) (fld (en.w 0) 44 37) (fld (en.w 0) 59 56 + 1)
      else endEntry s c en) := by
  unfold execAccwAck
  rw [h]
  rfl

theorem accwAck_ends {s : State} {c e : Nat} {en : Entry} (hpresent : entry s c e = some en) (halive : alive s = true) (hacked : en.acked = true) :
    ∃ t, Machine.exec (.accwAck c e) s = .next t ∧ Ends s t c e en := by
  have hends := ends_endEntry (s := s) (u := s) (c := c) (id_of_entry hpresent) rfl
  change ∃ t, execAccwAck c e s = .next t ∧ _
  refine ⟨_, execAccwAck_eq hpresent, ?_⟩
  rw [halive, hacked, if_neg (by decide)]
  split
  · exact hends.of_clusters (addReady_clusters ..)
  · exact hends

/-! ### `ASY_CLEAR` -/

theorem asyClear_asyClear (x : Cluster) (mask : Nat) : asyClear (asyClear x mask) mask = asyClear x mask := by
  unfold asyClear
  dsimp only
  rw [List.filter_filter]
  simp only [Bool.and_self]

/-- The clear of a mask's sets on each of some clusters. -/
def asyClearAll (mask : Nat) (cs : List Nat) (s : State) : State := cs.foldl (fun s c => setClu s c (asyClear (clu s c) mask)) s

theorem clu_asyClearAll (mask : Nat) (cs : List Nat) (s : State) (d : Nat) :
    clu (asyClearAll mask cs s) d = if d ∈ cs then asyClear (clu s d) mask else clu s d := by
  unfold asyClearAll
  induction cs generalizing s with
  | nil => rfl
  | cons c cs ih =>
    rw [List.foldl_cons, ih]
    by_cases hd : d = c
    · subst hd
      rw [clu_setClu_self, asyClear_asyClear, ite_self, if_pos List.mem_cons_self]
    · have hclu : clu (setClu s c (asyClear (clu s c) mask)) d = clu s d := by
        unfold clu setClu
        exact mget_mset_ne _ _ _ (Ne.symm hd)
      rw [hclu]
      simp only [List.mem_cons, hd, false_or]

theorem mget_asyClear (x : Cluster) (mask k : Nat) : mget (asyClear x mask).assay k {} = if mask.testBit k then {} else mget x.assay k {} := by
  unfold asyClear
  rw [mget_filter (fun j => !bit mask j)]
  unfold bit
  cases mask.testBit k <;> rfl

theorem clu_respond (s : State) (sid : Nat) (r : Response) (d : Nat) : clu (respond s sid r) d = clu s d := by
  obtain ⟨m, p, x, a, q, k, l, i, n, v, hrespond⟩ := respond_eq s sid r
  rw [hrespond]
  rfl

theorem clu_heard (s : State) (w : ObjWrite) (d : Nat) : clu (heard s w) d = clu s d := by
  rw [heard_eq]
  rfl

theorem partClusters_heard (s : State) (w : ObjWrite) (p : Nat) : partClusters (heard s w) p = partClusters s p := by
  rw [heard_eq]
  rfl

/-- The clusters that a clear names: the register's own, or those of the session's partition. -/
def asyClusters (s : State) (w : ObjWrite) (c : Nat) : List Nat :=
  if w.reg then [c] else partClusters s (((mfind s.sessions w.sid).map (·.part)).getD 0)

theorem mem_asyClusters {s : State} {w : ObjWrite} {c d : Nat} :
    d ∈ asyClusters s w c ↔ if w.reg then d = c else d ∈ partClusters s (((mfind s.sessions w.sid).map (·.part)).getD 0) := by
  unfold asyClusters
  split <;> simp

theorem not_mem_asyClusters {s : State} {w : ObjWrite} {c d : Nat} :
    d ∉ asyClusters s w c ↔ if w.reg then d ≠ c else d ∉ partClusters s (((mfind s.sessions w.sid).map (·.part)).getD 0) := by
  rw [mem_asyClusters]
  split <;> rfl

theorem execAsyClear_reg {s : State} {w : ObjWrite} {c : Nat} (h : w.reg = true) :
    execAsyClear w c s = .next (asyClearAll (leNat w.val) [c] s) := by
  unfold execAsyClear
  rw [if_pos h]
  rfl

theorem execAsyClear_object {s : State} {w : ObjWrite} {c : Nat} (h : Safety.accepted s w 0x505003 = true) (hreg : ¬ w.reg = true) :
    ∃ r, execAsyClear w c s = .next (respond (asyClearAll (leNat w.val) (asyClusters s w c) (heard s w)) w.sid r) := by
  unfold execAsyClear asyClusters
  rw [if_neg hreg, if_neg hreg]
  dsimp only
  rw [objWrite_accepted h, if_neg hreg]
  dsimp only
  rw [← asyClearAll, partClusters_heard]
  cases mfind s.sessions w.sid <;> exact ⟨_, rfl⟩

/-- An accepted clear is one of the clusters it names, and of no other. -/
theorem asyClear_clears {s : State} {w : ObjWrite} {c : Nat} (h : Safety.accepted s w 0x505003 = true) :
    ∃ t, Machine.exec (.asyClear w c) s = .next t
      ∧ ∀ d, clu t d = if d ∈ asyClusters s w c then asyClear (clu s d) (leNat w.val) else clu s d := by
  change ∃ t, execAsyClear w c s = .next t ∧ _
  by_cases hreg : w.reg = true
  · refine ⟨_, execAsyClear_reg hreg, fun d => ?_⟩
    rw [clu_asyClearAll, asyClusters, if_pos hreg]
  · obtain ⟨r, hexec⟩ := execAsyClear_object h hreg
    refine ⟨_, hexec, fun d => ?_⟩
    rw [clu_respond, clu_asyClearAll, clu_heard]

end Sys2Proof.Machine
end

section
/-! Rows that drains read (R216, R223 to R225, R228): what one leaves, and its values in the plainest drain. -/
namespace Sys2Proof.Machine
open Sys2Proof

theorem fetchOperand_quiet {s : State} (h : Safety.calm s) (c : Nat) (en : Entry) (p : Epi) (j : Nat) : (fetchOperand s c en p j).Quiet s := by
  unfold fetchOperand
  dsimp only
  split
  · exact ⟨.refl s, rfl⟩
  · split
    · exact (arrayRead_quiet h _ _ _).mapped
    · split
      · exact ⟨.refl s, rfl⟩
      · exact (arrayRead_quiet h _ _ _).mapped
    · exact (arrayRead_quiet h _ _ _).mapped

/-! ### The row that is read -/

/-- The elements of a row as a drain computes them: value, steps that saturated, poison (R224). -/
def epiRow (x : Cluster) (en : Entry) (ops : List (Nat × Bool)) : List (Nat × Nat × Bool) :=
  let p := epiOf (en.w 0)
  let g := p.slots.map fun sl => groupRow x sl en.per p.cols p.ncol en.entered
  let get := fun k n => (g.getD k []).getD n (0, false)
  (List.range p.ncol).map fun n =>
    let o := ops.getD n (0, false)
    let pz := (get 0 n).2 || (get 1 n).2 || (get 2 n).2 || o.2
    if p.int then (epiInt p (get 0 n).1 (get 1 n).1 (get 2 n).1 o.1, 0, pz)
    else
      let v := fun k => accValue p.aint en.narrow (get k n).1
      let r := epiFloat p (fld (en.w 5) 31 0) (v 0) (v 1) (v 2) o.1
      (r.1, r.2, pz)

/-- The row converted for the drain's output. -/
def epiConverted (en : Entry) (row : List (Nat × Nat × Bool)) : List Nat × List (Nat × Bool) × Nat × Nat × Nat :=
  epiConvert (epiOf (en.w 0)).ofmt (epiOf (en.w 0)).int (row.map fun r => (r.1, r.2.2))

/-- The row a drain has read, as it goes out. -/
def epiOutput (en : Entry) (row : List (Nat × Nat × Bool)) : RowOut :=
  let p := epiOf (en.w 0)
  let vs := row.map fun r => (r.1, r.2.2)
  let back := fun (v : Nat) => if en.narrow then (f16.convert (f32.decode v)).code else v
  let pzs := (List.range p.ncol).filter fun n => (vs.getD n (0, false)).2
  { row := en.entered, target := en.entered
    passes := [{ sums := if p.wb then vs.map fun v => back v.1 else (epiConverted en row).1, poison := pzs }]
    scales := (epiConverted en row).2.1 }

/-- The cluster with the row counted in its assay set. -/
def epiCounted (y : Cluster) (en : Entry) (row : List (Nat × Nat × Bool)) : Cluster :=
  let p := epiOf (en.w 0)
  let cv := epiConverted en row
  if p.ofmt = 0 then y
  else y.count p.assay p.ncol cv.2.2.1 (cv.2.2.2.1 + row.foldl (fun n r => n + r.2.1) 0) cv.2.2.2.2

/-- The cluster with the row cleared from its slots, where the drain clears. -/
def epiCleared (y : Cluster) (en : Entry) : Cluster :=
  let p := epiOf (en.w 0)
  let gone := fun (k : Nat) => p.slots.any fun sl => decide (accKey sl en.per p.cols en.entered ≤ k) && decide (k < accKey sl en.per p.cols en.entered + p.cols)
  if p.clr then { y with acc := y.acc.filter (fun v => !gone v.1), accPoison := y.accPoison.filter fun k => !gone k } else y

/-- The entry after a row is read. -/
def Entry.drained (en : Entry) (ops : List (Nat × Bool)) (row : List (Nat × Nat × Bool)) (f : Entry) : Entry :=
  let p := epiOf (en.w 0)
  let vs := row.map fun r => (r.1, r.2.2)
  { f with
    started := true
    entered := en.entered + 1
    outs := f.outs ++ [epiOutput en row]
    operand := if p.bcast = 1 then some ops else none
    released := f.released ++ if p.wb then [] else p.slots.flatMap fun sl => rowEnds en sl en.entered p.rows
    amax := if p.amax then vs.foldl (fun m v => max m (f32.fabs v.1)) f.amax else 0
    amaxPoison := f.amaxPoison || (p.amax && vs.any (·.2)) }

/-- The operand row fetched for a drain's next row. -/
def fetchedOperand (s : State) (c : Nat) (en : Entry) : Fetched (List (Nat × Bool)) := fetchOperand s c en (epiOf (en.w 0)) en.entered

theorem execMepiRowRead_eq {s : State} {c e : Nat} {en : Entry} (h : entry s c e = some en) :
    execMepiRowRead c e [] s = .next (
      let p := epiOf (en.w 0)
      if alive s = false ∨ en.op ≠ .mepi ∨ p.rows ≤ en.entered ∨ (en.entered = 0 ∧ mayStart (clu s c) en = false)
          ∨ (p.slots.map fun g => g + en.entered / en.per).any (blocked (clu s c) en) then s
      else
        let op := fetchedOperand s c en
        if op.wait then s
        else
          let row := epiRow (clu s c) en op.v
          charge (updEntry (setClu op.s c (epiCleared (epiCounted (clu op.s c) en row) en)) c e (en.drained op.v row)) c en op.faults) := by
  unfold execMepiRowRead
  rw [accErrs_nil]
  dsimp only
  rw [h]
  rfl

/-- A drain whose next row may be read. -/
structure ReadsRow (s : State) (c e : Nat) (en : Entry) : Prop where
  present : entry s c e = some en
  op : en.op = .mepi
  alive : alive s = true
  calm : Safety.calm s
  more : en.entered < (epiOf (en.w 0)).rows
  turn : en.entered = 0 → mayStart (clu s c) en = true
  free : ∀ sl ∈ (epiOf (en.w 0)).slots, blocked (clu s c) en (sl + en.entered / en.per) = false

theorem epiCounted_eq (y : Cluster) (en : Entry) (row : List (Nat × Nat × Bool)) : epiCounted y en row = { y with assay := (epiCounted y en row).assay } := by
  unfold epiCounted
  dsimp only
  split <;> rfl

theorem epiCleared_eq (y : Cluster) (en : Entry) :
    epiCleared y en = { y with acc := (epiCleared y en).acc, accPoison := (epiCleared y en).accPoison } := by
  unfold epiCleared
  dsimp only
  split <;> rfl

/-- What a drained row leaves: memory is as it was, the row is counted, and it joins those that its entry has to write. -/
theorem ReadsRow.reads {s : State} {c e : Nat} {en : Entry} (h : ReadsRow s c e en) (hmild : (fetchedOperand s c en).faults = [] ∨ Mild s c en) :
    let row := epiRow (clu s c) en (fetchedOperand s c en).v
    ∃ t, Machine.exec (.mepiRowRead c e []) s = .next t ∧ t.mem = s.mem
      ∧ (clu t c).acc = (epiCleared (epiCounted (clu s c) en row) en).acc ∧ (clu t c).assay = (epiCounted (clu s c) en row).assay
      ∧ (entry t c e).map (fun f => (f.entered, f.outs)) = some (en.entered + 1, en.outs ++ [epiOutput en row]) := by
  intro row
  have hop := fetchOperand_quiet h.calm c en (epiOf (en.w 0)) en.entered
  have hclu : clu (fetchedOperand s c en).s c = clu s c := hop.steps.clu c
  have hready : (fetchedOperand s c en).wait = false := hop.ready
  have hfree : ((epiOf (en.w 0)).slots.map fun g => g + en.entered / en.per).any (blocked (clu s c) en) = false :=
    List.any_eq_false.mpr fun u hu => by
      obtain ⟨sl, hsl, rfl⟩ := List.mem_map.mp hu
      rw [h.free sl hsl]
      exact Bool.false_ne_true
  have hturn : ¬ (en.entered = 0 ∧ mayStart (clu s c) en = false) := fun hw => by rw [h.turn hw.1] at hw; exact absurd hw.2 (by decide)
  have hmore := h.more
  have hexec := execMepiRowRead_eq h.present
  dsimp only at hexec
  rw [h.alive, h.op, hfree, if_neg (by simpa using ⟨hmore, by simpa using hturn⟩), hready, if_neg Bool.false_ne_true, hclu] at hexec
  refine ⟨_, hexec, ?_⟩
  have hcluster := clu_updEntry (setClu (fetchedOperand s c en).s c (epiCleared (epiCounted (clu s c) en row) en)) c e
    (en.drained (fetchedOperand s c en).v row)
  rw [clu_setClu_self] at hcluster
  have hcrews : (clu (updEntry (setClu (fetchedOperand s c en).s c (epiCleared (epiCounted (clu s c) en row) en)) c e
      (en.drained (fetchedOperand s c en).v row)) c).crews = (clu s c).crews := by
    rw [hcluster, epiCleared_eq, epiCounted_eq]
  have honly := charge_onlyCrews (hmild.imp id (mild_congr hcrews).mpr)
  refine ⟨honly.module.mem.trans hop.steps.mem, ?_, ?_, ?_⟩
  · rw [honly.cluster, hcluster]
  · rw [honly.cluster, hcluster, epiCleared_eq]
  · have hentry : entry (setClu (fetchedOperand s c en).s c (epiCleared (epiCounted (clu s c) en row) en)) c e = some en :=
      (entry_congr (by rw [clu_setClu_self, epiCleared_eq, epiCounted_eq]) e).trans h.present
    rw [honly.entry, entry_updEntry hentry rfl]
    rfl

/-! ### The plainest drain -/

theorem fetchedOperand_faults {s : State} {c : Nat} {en : Entry} (h : (epiOf (en.w 0)).eop = 0) : (fetchedOperand s c en).faults = [] := by
  unfold fetchedOperand fetchOperand
  dsimp only
  rw [if_pos h]

/-- A drain of one group to binary32, scaled only: no operand, no clear, no narrow slot. -/
structure PlainDrain (en : Entry) : Prop where
  drain : (epiOf (en.w 0)).drain = 0
  eop : (epiOf (en.w 0)).eop = 0
  aint : (epiOf (en.w 0)).aint = false
  wb : (epiOf (en.w 0)).wb = false
  ofmt : (epiOf (en.w 0)).ofmt = 0xB
  clr : (epiOf (en.w 0)).clr = false
  narrow : en.narrow = false

/-- The scaled value of column `n` of the row such a drain reads, and whether it saturated. -/
def plainValue (x : Cluster) (en : Entry) (n : Nat) : Nat × Bool :=
  f32.fmul (mget x.acc (accKey (fld (en.w 0) 63 59) en.per (epiOf (en.w 0)).cols en.entered + n) 0) (fld (en.w 5) 31 0)

/-- The column as it goes out. -/
def plainOut (x : Cluster) (en : Entry) (n : Nat) : Conv := f32.convert (f32.decode (plainValue x en n).1)

theorem epiOf_slots {w : Nat} (h : (epiOf w).drain = 0) : (epiOf w).slots = [fld w 63 59] := by
  have hdrain : fld w 33 32 = 0 := h
  unfold epiOf
  dsimp only
  rw [hdrain]
  rfl

theorem epiFloat_plain {p : Epi} (hdrain : p.drain = 0) (heop : p.eop = 0) (scale g1 g2 g3 e : Nat) :
    epiFloat p scale g1 g2 g3 e = ((f32.fmul g1 scale).1, b2n (f32.fmul g1 scale).2) := by
  unfold epiFloat
  rw [hdrain, heop]
  cases p.order <;> exact Prod.ext rfl (Nat.zero_add _)

theorem getD_map_range {α : Type} (f : Nat → α) (n k : Nat) (d : α) : ((List.range n).map f).getD k d = if k < n then f k else d := by
  rw [List.getD_eq_getElem?_getD, List.getElem?_map]
  by_cases hk : k < n
  · rw [List.getElem?_range hk, if_pos hk]
    rfl
  · rw [List.getElem?_eq_none (by simpa using hk), if_neg hk]
    rfl

theorem foldl_add_b2n {α : Type} (f : α → Bool) (xs : List α) (k : Nat) :
    xs.foldl (fun n x => n + b2n (f x)) k = k + xs.countP f := by
  induction xs generalizing k with
  | nil => rfl
  | cons x xs ih =>
    rw [List.foldl_cons, ih, List.countP_cons]
    cases f x
    · rfl
    · exact Nat.add_right_comm k 1 _

section
variable {en : Entry} (h : PlainDrain en)
include h

theorem PlainDrain.int : (epiOf (en.w 0)).int = false := by
  unfold Epi.int
  rw [h.aint]
  rfl

theorem PlainDrain.epiRow (x : Cluster) (ops : List (Nat × Bool)) : (epiRow x en ops).map (fun r => (r.1, r.2.1))
    = (List.range (epiOf (en.w 0)).ncol).map fun n => ((plainValue x en n).1, b2n (plainValue x en n).2) := by
  unfold Machine.epiRow
  dsimp only
  rw [List.map_map, epiOf_slots h.drain]
  refine List.map_congr_left fun n hn => ?_
  have hcell : (groupRow x (fld (en.w 0) 63 59) en.per (epiOf (en.w 0)).cols (epiOf (en.w 0)).ncol en.entered).getD n (0, false)
      = (mget x.acc (accKey (fld (en.w 0) 63 59) en.per (epiOf (en.w 0)).cols en.entered + n) 0, _) :=
    (getD_map_range ..).trans (if_pos (List.mem_range.mp hn))
  rw [Function.comp, h.int, if_neg Bool.false_ne_true, epiFloat_plain h.drain h.eop, h.aint, h.narrow]
  simp only [List.map_cons, List.map_nil, List.getD_cons_zero]
  rw [hcell]
  rfl

/-- The row as the plainest drain converts it: each value's binary32 code, and the counts of its conversions. -/
theorem PlainDrain.epiConverted (x : Cluster) (ops : List (Nat × Bool)) :
    let all := List.range (epiOf (en.w 0)).ncol
    epiConverted en (Machine.epiRow x en ops) = (all.map fun n => (plainOut x en n).code, [], all.countP fun n => (plainOut x en n).zero,
      all.countP fun n => (plainOut x en n).sat, all.countP fun n => (plainOut x en n).nonfin) := by
  intro all
  have hconv : ((Machine.epiRow x en ops).map fun r => (r.1, r.2.2)).map (fun v => f32.convert (f32.decode v.1)) = all.map (plainOut x en) := by
    have hrow := congrArg (List.map fun r : Nat × Nat => f32.convert (f32.decode r.1)) (h.epiRow x ops)
    rw [List.map_map, List.map_map] at hrow
    rw [List.map_map]
    exact hrow
  have hplain : ∀ vs : List (Nat × Bool), epiConvert 0xB false vs = (let cs := vs.map fun v => f32.convert (f32.decode v.1)
      (cs.map (·.code), [], (cs.filter (·.zero)).length, (cs.filter (·.sat)).length, (cs.filter (·.nonfin)).length)) := fun _ => rfl
  unfold Machine.epiConverted
  rw [h.ofmt, h.int, hplain]
  dsimp only
  rw [hconv, List.map_map]
  simp only [← List.countP_eq_length_filter, List.countP_map]
  rfl

theorem PlainDrain.epiCounted (x : Cluster) (ops : List (Nat × Bool)) :
    let all := List.range (epiOf (en.w 0)).ncol
    epiCounted x en (Machine.epiRow x en ops) = x.count (epiOf (en.w 0)).assay (epiOf (en.w 0)).ncol (all.countP fun n => (plainOut x en n).zero)
      (all.countP (fun n => (plainOut x en n).sat) + all.countP fun n => (plainValue x en n).2) (all.countP fun n => (plainOut x en n).nonfin) := by
  intro all
  have hsat : (Machine.epiRow x en ops).foldl (fun n r => n + r.2.1) 0 = all.countP fun n => (plainValue x en n).2 := by
    have hrow := congrArg (List.foldl (fun n (r : Nat × Nat) => n + r.2) 0) (h.epiRow x ops)
    rw [List.foldl_map, List.foldl_map] at hrow
    exact hrow.trans ((foldl_add_b2n (fun n => (plainValue x en n).2) all 0).trans (Nat.zero_add _))
  unfold Machine.epiCounted
  dsimp only
  rw [h.epiConverted, hsat, h.ofmt, if_neg (by decide)]

theorem PlainDrain.epiCleared (x : Cluster) : epiCleared x en = x := by
  unfold Machine.epiCleared
  dsimp only
  rw [h.clr, if_neg Bool.false_ne_true]

/-- The values that the plainest drain puts out. -/
theorem PlainDrain.sums (x : Cluster) (ops : List (Nat × Bool)) : ((epiOutput en (Machine.epiRow x en ops)).passes.headD { sums := [] }).sums
    = (List.range (epiOf (en.w 0)).ncol).map fun n => (plainOut x en n).code := by
  unfold epiOutput
  dsimp only [List.headD_cons]
  rw [h.wb, if_neg Bool.false_ne_true, h.epiConverted]

end

end Sys2Proof.Machine
end

section
/-! Stores of the matrix array (R173, R227): bytes written in pieces, and elements packed into them (R239). -/
namespace Sys2Proof.Machine
open Sys2Proof

/-! ### Bytes written in pieces -/

/-- A byte lies in one of some pieces. -/
def InPieces (ps : List (Nat × Nat)) (x : Nat) : Prop := ∃ p ∈ ps, p.1 ≤ x ∧ x < p.1 + p.2

/-- Between two states the bytes of `bs`, which belong at `a`, were written where some pieces lie, and nothing else of memory, and no cluster. -/
structure Writes (s t : State) (a : Nat) (bs : List Byte) (ps : List (Nat × Nat)) : Prop where
  steps : CopySteps s t
  clusters : t.clusters = s.clusters
  put : ∀ x, InPieces ps x → cellGet t.mem x = bs.getD (x - a) 0#8
  kept : ∀ x, ¬ InPieces ps x → cellGet t.mem x = cellGet s.mem x

namespace Writes
variable {s t u : State} {a : Nat} {bs : List Byte}

theorem refl (s : State) (a : Nat) (bs : List Byte) : Writes s s a bs [] := 
  ⟨.refl s, rfl, fun _ ⟨_, hp, _⟩ => absurd hp List.not_mem_nil, fun _ _ => rfl⟩

theorem cons {p : Nat × Nat} {ps : List (Nat × Nat)} (h : Writes s t a bs [p]) (g : Writes t u a bs ps) : Writes s u a bs (p :: ps) := by
  refine ⟨h.steps.trans g.steps, g.clusters.trans h.clusters, fun x hx => ?_, fun x hx => ?_⟩
  · by_cases hin : InPieces ps x
    · exact g.put x hin
    · obtain ⟨q, hq, hlo⟩ := hx
      rcases List.mem_cons.mp hq with rfl | hq
      · rw [g.kept x hin, h.put x ⟨q, List.mem_cons_self, hlo⟩]
      · exact absurd ⟨q, hq, hlo⟩ hin
  · rw [g.kept x fun ⟨q, hq, hlo⟩ => hx ⟨q, List.mem_cons_of_mem p hq, hlo⟩,
      h.kept x fun ⟨q, hq, hlo⟩ => hx ⟨q, by rw [List.mem_singleton.mp hq]; exact List.mem_cons_self, hlo⟩]

/-- Pieces that cover the same bytes. -/
theorem congr {ps qs : List (Nat × Nat)} (h : Writes s t a bs ps) (heq : ∀ x, InPieces ps x ↔ InPieces qs x) : Writes s t a bs qs :=
  ⟨h.steps, h.clusters, fun x hx => h.put x ((heq x).mpr hx), fun x hx => h.kept x fun hp => hx ((heq x).mp hp)⟩

/-- Bytes of a part of `bs`, written where that part belongs. -/
theorem part {p : Nat × Nat} {ps : List (Nat × Nat)} (h : Writes s t p.1 ((bs.drop (p.1 - a)).take p.2) ps) (hlo : a ≤ p.1)
    (hps : ∀ x, InPieces ps x ↔ InPieces [p] x) : Writes s t a bs [p] := by
  refine ⟨h.steps, h.clusters, fun x hx => ?_, fun x hx => h.kept x fun hin => hx ((hps x).mp hin)⟩
  have hput := h.put x ((hps x).mpr hx)
  obtain ⟨q, hq, hge, hlt⟩ := hx
  obtain rfl := List.mem_singleton.mp hq
  rw [hput, List.getD_eq_getElem?_getD, List.getD_eq_getElem?_getD, List.getElem?_take_of_lt (by omega), List.getElem?_drop]
  congr 2
  omega

end Writes

theorem inPieces_cuts {a n x : Nat} : InPieces (cuts a n) x ↔ InPieces [(a, n)] x := by
  constructor
  · rintro ⟨c, hc, hlo, hhi⟩
    obtain ⟨hge, hle, -, -⟩ := mem_cuts hc
    exact ⟨_, List.mem_cons_self, by dsimp only; omega, by dsimp only; omega⟩
  · rintro ⟨c, hc, hlo, hhi⟩
    obtain rfl := List.mem_singleton.mp hc
    exact exists_mem_cuts hlo hhi

theorem linePieces_bounds {a n : Nat} {p : Nat × Nat} (hp : p ∈ linePieces a n) : a ≤ p.1 ∧ p.1 + p.2 ≤ a + n := by
  have hn : 1 ≤ n := Nat.one_le_iff_ne_zero.mpr fun h => by rw [linePieces, if_pos h] at hp; nomatch hp
  obtain ⟨l, hlo, hhi, hfirst, hlast⟩ := (mem_linePieces_iff hn).mp hp
  omega

/-- Every byte of an access lies in one of its lines. -/
theorem exists_mem_linePieces {a n x : Nat} (hlo : a ≤ x) (hhi : x < a + n) : InPieces (linePieces a n) x := by
  have hn : 1 ≤ n := by omega
  have hpiece : (max a (x / 128 * 128), min (a + n) ((x / 128 + 1) * 128) - max a (x / 128 * 128)) ∈ linePieces a n :=
    (mem_linePieces_iff hn).mpr ⟨x / 128, by omega, by omega, rfl, by dsimp only; omega⟩
  exact ⟨_, hpiece, by dsimp only; omega, by dsimp only; omega⟩

theorem inPieces_linePieces {a n x : Nat} : InPieces (linePieces a n) x ↔ InPieces [(a, n)] x := by
  constructor
  · rintro ⟨p, hp, hlo, hhi⟩
    obtain ⟨hge, hle⟩ := linePieces_bounds hp
    exact ⟨_, List.mem_cons_self, by dsimp only; omega, by dsimp only; omega⟩
  · rintro ⟨p, hp, hlo, hhi⟩
    obtain rfl := List.mem_singleton.mp hp
    exact exists_mem_linePieces hlo hhi

theorem storesOnly.clusters {s t : State} (h : storesOnly s t) : t.clusters = s.clusters := (congrArg State.clusters h.bare :)

/-- A write within a line of a calm module. -/
theorem lineWrite_writes {s : State} (h : Safety.calm s) {a : Nat} {bs : List Byte} (tag : Bool) :
    (lineWrite s a bs tag).2 = 0 ∧ Writes s (lineWrite s a bs tag).1 a bs [(a, bs.length)] := by
  have hs := settled_of_calm h
  obtain ⟨hstatus, hmem, -⟩ := lineWrite_settled hs (failedHome_of_calm h a) bs tag
  refine ⟨hstatus, lineWrite_copySteps hs a bs tag, (storesOnly_lineWrite s a bs tag).clusters, fun x hx => ?_, fun x hx => ?_⟩
  · obtain ⟨p, hp, hlo, hhi⟩ := hx
    obtain rfl := List.mem_singleton.mp hp
    rw [hmem, cellGet_cellsPut (wf_of_calm h), if_pos ⟨hlo, hhi⟩]
  · rw [hmem, cellGet_cellsPut (wf_of_calm h), if_neg fun hin => hx ⟨_, List.mem_cons_self, hin⟩]

theorem SamePlaces.meetsOs {s t : State} (h : SamePlaces s t) (a n : Nat) : meetsOs t a n = meetsOs s a n := by
  unfold Machine.meetsOs
  rw [h.osBases]

/-- Bytes outside the operating-system region: so is each part of them. -/
theorem meetsOs_mono {s : State} {a n b m : Nat} (h : meetsOs s a n = false) (hlo : a ≤ b) (hhi : b + m ≤ a + n) : meetsOs s b m = false := by
  unfold meetsOs at *
  refine List.any_eq_false.mpr fun o ho => ?_
  have hout := List.any_eq_false.mp h o ho
  simp only [Bool.and_eq_true, decide_eq_true_eq, not_and] at hout ⊢
  omega

theorem meetsOs_of_arrayStatus {s : State} {c : Nat} {en : Entry} {a n : Nat} (h : arrayStatus s (en.iss c) .store a n = 0) : meetsOs s a n = false := by
  unfold arrayStatus at h
  split at h
  · unfold accessStatus at h
    split at h
    · exact absurd h (by decide)
    · by_contra hmeets
      rw [Bool.not_eq_false] at hmeets
      have hbad : (xkWrites .store && !osWriter (en.iss c).kind && true) = true := rfl
      rw [hmeets, if_pos hbad] at h
      exact absurd h (by decide)
  · exact absurd h (by decide)

/-! ### Stores cut at guarded units, and in lines -/

/-- What `writeUnits` does with each cut. -/
def writeCut (a : Nat) (bs : List (Byte × Bool)) (acc : State × Bool) (c : Nat × Nat) : State × Bool :=
  let part := (bs.drop (c.1 - a)).take c.2
  if meetsOs acc.1 c.1 c.2 then acc
  else
    let w := memWrite acc.1 c.1 (part.map (·.1)) (part.any (·.2))
    (w.1, acc.2 && w.2 == 0)

theorem writeCut_of_free {a : Nat} {bs : List (Byte × Bool)} {acc : State × Bool} {c : Nat × Nat} (h : meetsOs acc.1 c.1 c.2 = false) :
    writeCut a bs acc c = (let w := memWrite acc.1 c.1 (((bs.map (·.1)).drop (c.1 - a)).take c.2) (((bs.drop (c.1 - a)).take c.2).any (·.2))
      (w.1, acc.2 && w.2 == 0)) := by
  rw [← List.map_drop, ← List.map_take]
  exact if_neg (by rw [h]; exact Bool.false_ne_true)

theorem writeUnits_eq (s : State) (a : Nat) (bs : List (Byte × Bool)) : writeUnits s a bs = (cuts a bs.length).foldl (writeCut a bs) (s, true) := rfl

/-- A write within a line is one access. -/
theorem memWrite_one {s : State} {a : Nat} {bs : List Byte} (h : linePieces a bs.length = [(a, bs.length)]) (tag : Bool) :
    memWrite s a bs tag = lineWrite s a bs tag := by
  have hbytes : (bs.drop (a - a)).take bs.length = bs := by rw [Nat.sub_self, List.drop_zero, List.take_length]
  rw [memWrite_eq, h, List.foldl_cons, List.foldl_nil]
  unfold writePiece
  dsimp only
  rw [hbytes]
  generalize lineWrite s a bs tag = w
  refine Prod.ext rfl ?_
  dsimp only
  split
  next hzero => exact hzero.symm
  · rfl

theorem writeCut_writes {a : Nat} {bs : List (Byte × Bool)} {acc : State × Bool} (h : Safety.calm acc.1) {c : Nat × Nat} (hc : c ∈ cuts a bs.length)
    (hos : meetsOs acc.1 a bs.length = false) : (writeCut a bs acc c).2 = acc.2 ∧ Writes acc.1 (writeCut a bs acc c).1 a (bs.map (·.1)) [c] := by
  obtain ⟨hlo, hhi, -, -⟩ := mem_cuts hc
  have hlen : (((bs.map (·.1)).drop (c.1 - a)).take c.2).length = c.2 := by
    rw [List.length_take, List.length_drop, List.length_map]
    omega
  have hone : linePieces c.1 (((bs.map (·.1)).drop (c.1 - a)).take c.2).length = [(c.1, (((bs.map (·.1)).drop (c.1 - a)).take c.2).length)] := by
    rw [hlen]
    exact linePieces_cut hc
  rw [writeCut_of_free (meetsOs_mono hos hlo hhi), memWrite_one hone]
  obtain ⟨hstatus, hwrites⟩ := lineWrite_writes h (a := c.1) (bs := ((bs.map (·.1)).drop (c.1 - a)).take c.2) (((bs.drop (c.1 - a)).take c.2).any (·.2))
  rw [hlen] at hwrites
  generalize lineWrite acc.1 c.1 _ _ = w at hstatus hwrites ⊢
  dsimp only
  exact ⟨by rw [hstatus]; exact Bool.and_true _, hwrites.part hlo fun _ => .rfl⟩

theorem foldl_writeCut_writes {a : Nat} {bs : List (Byte × Bool)} (cs : List (Nat × Nat)) {acc : State × Bool} (h : Safety.calm acc.1)
    (hcs : ∀ c ∈ cs, c ∈ cuts a bs.length) (hos : meetsOs acc.1 a bs.length = false) :
    (cs.foldl (writeCut a bs) acc).2 = acc.2 ∧ Writes acc.1 (cs.foldl (writeCut a bs) acc).1 a (bs.map (·.1)) cs := by
  induction cs generalizing acc with
  | nil => exact ⟨rfl, .refl ..⟩
  | cons c cs ih =>
    obtain ⟨hok, hfirst⟩ := writeCut_writes h (hcs c List.mem_cons_self) hos
    obtain ⟨hrest, hwrites⟩ := ih (hfirst.steps.calm h) (fun d hd => hcs d (List.mem_cons_of_mem c hd)) ((hfirst.steps.places.meetsOs ..).trans hos)
    exact ⟨hrest.trans hok, hfirst.cons hwrites⟩

/-- What `arrayWrite` does with each line. -/
def writeLine (iss : Issuer) (a : Nat) (bs : List (Byte × Bool)) (acc : State × List (Nat × Nat)) (p : Nat × Nat) : State × List (Nat × Nat) :=
  let st := arrayStatus acc.1 iss .store p.1 p.2
  if st ≠ 0 then (acc.1, acc.2 ++ [(p.1, st)])
  else
    let r := writeUnits acc.1 p.1 ((bs.drop (p.1 - a)).take p.2)
    (r.1, if r.2 then acc.2 else acc.2 ++ [(p.1, 9)])

theorem arrayWrite_eq (s : State) (iss : Issuer) (a : Nat) (bs : List (Byte × Bool)) :
    arrayWrite s iss a bs = (linePieces a bs.length).foldl (writeLine iss a bs) (s, []) := rfl

theorem writeLine_writes {c : Nat} {en : Entry} {a : Nat} {bs : List (Byte × Bool)} {acc : State × List (Nat × Nat)} (h : Safety.calm acc.1) {p : Nat × Nat}
    (hp : p ∈ linePieces a bs.length) (hok : arrayStatus acc.1 (en.iss c) .store p.1 p.2 = 0) :
    (writeLine (en.iss c) a bs acc p).2 = acc.2 ∧ Writes acc.1 (writeLine (en.iss c) a bs acc p).1 a (bs.map (·.1)) [p] := by
  obtain ⟨hlo, hhi⟩ := linePieces_bounds hp
  have hlen : ((bs.drop (p.1 - a)).take p.2).length = p.2 := by
    rw [List.length_take, List.length_drop]
    omega
  have hos : meetsOs acc.1 p.1 ((bs.drop (p.1 - a)).take p.2).length = false := by
    rw [hlen]
    exact meetsOs_of_arrayStatus hok
  obtain ⟨hdone, hwrites⟩ := foldl_writeCut_writes (acc := (acc.1, true)) (a := p.1) (bs := (bs.drop (p.1 - a)).take p.2) _ h (fun _ => id) hos
  unfold writeLine
  dsimp only
  rw [hok, if_neg (not_not.mpr rfl), writeUnits_eq, hdone, if_pos rfl]
  refine ⟨rfl, Writes.part (ps := cuts p.1 p.2) ?_ hlo fun _ => inPieces_cuts⟩
  rw [hlen] at hwrites
  rw [← List.map_drop, ← List.map_take, hlen]
  exact hwrites

theorem foldl_writeLine_writes {c : Nat} {en : Entry} {a : Nat} {bs : List (Byte × Bool)} (ps : List (Nat × Nat)) {acc : State × List (Nat × Nat)}
    (h : Safety.calm acc.1) (hps : ∀ p ∈ ps, p ∈ linePieces a bs.length) (hok : ∀ p ∈ ps, arrayStatus acc.1 (en.iss c) .store p.1 p.2 = 0) :
    (ps.foldl (writeLine (en.iss c) a bs) acc).2 = acc.2 ∧ Writes acc.1 (ps.foldl (writeLine (en.iss c) a bs) acc).1 a (bs.map (·.1)) ps := by
  induction ps generalizing acc with
  | nil => exact ⟨rfl, .refl ..⟩
  | cons p ps ih =>
    obtain ⟨hfirst, hwrites⟩ := writeLine_writes h (hps p List.mem_cons_self) (hok p List.mem_cons_self)
    obtain ⟨hrest, hmore⟩ := ih (hwrites.steps.calm h) (fun q hq => hps q (List.mem_cons_of_mem p hq)) fun q hq => by
      rw [arrayStatus, hwrites.steps.places.localMemory, hwrites.steps.places.accessStatus]
      exact hok q (List.mem_cons_of_mem p hq)
    exact ⟨hrest.trans hfirst, hwrites.cons hmore⟩

/-- A store whose lines pass their checks writes its bytes, and no others. -/
theorem arrayWrite_writes {s : State} (h : Safety.calm s) {c : Nat} {en : Entry} {a : Nat} {bs : List (Byte × Bool)}
    (hok : ArrayOk s (en.iss c) .store a bs.length) :
    (arrayWrite s (en.iss c) a bs).2 = [] ∧ Writes s (arrayWrite s (en.iss c) a bs).1 a (bs.map (·.1)) [(a, bs.length)] := by
  obtain ⟨hfaults, hwrites⟩ := foldl_writeLine_writes (acc := (s, [])) _ h (fun _ => id) hok
  rw [arrayWrite_eq]
  exact ⟨hfaults, hwrites.congr fun _ => inPieces_linePieces⟩

end Sys2Proof.Machine
end

section
/-! Packed output (R224, R227, R239): the bytes of a drained row, and its elements read back. -/
namespace Sys2Proof.Machine
open Sys2Proof

/-! ### Packing -/

/-- The number that elements of `w` bits make, the first lowest. -/
def packNat (w : Nat) (vs : List (Nat × Bool)) : Nat := vs.foldr (fun v acc => v.1 % 2 ^ w + acc * 2 ^ w) 0

theorem packNat_div (w : Nat) (vs : List (Nat × Bool)) (k : Nat) : packNat w vs / 2 ^ (k * w) % 2 ^ w = (vs.getD k (0, false)).1 % 2 ^ w := by
  induction vs generalizing k with
  | nil => simp [packNat]
  | cons v vs ih =>
    have hpos : 0 < 2 ^ w := Nat.two_pow_pos w
    have hlow : v.1 % 2 ^ w < 2 ^ w := Nat.mod_lt _ hpos
    have hcons : packNat w (v :: vs) = v.1 % 2 ^ w + packNat w vs * 2 ^ w := rfl
    rw [hcons]
    cases k with
    | zero => rw [Nat.zero_mul, Nat.pow_zero, Nat.div_one, Nat.add_mul_mod_self_right, Nat.mod_mod, List.getD_cons_zero]
    | succ k =>
      have hpow : 2 ^ ((k + 1) * w) = 2 ^ w * 2 ^ (k * w) := by rw [← Nat.pow_add, Nat.succ_mul, Nat.add_comm]
      rw [hpow, ← Nat.div_div_eq_div_mul, Nat.add_mul_div_right _ _ hpos, Nat.div_eq_of_lt hlow, Nat.zero_add, ih, List.getD_cons_succ]

theorem packBits_bytes (w : Nat) (vs : List (Nat × Bool)) : (packBits w vs).map (·.1) = leBytes (cdiv (vs.length * w) 8) (packNat w vs) := by
  unfold packBits packNat
  dsimp only
  rw [List.map_zipWith]
  refine List.ext_getElem (by simp [leBytes_length]) fun i hi _ => ?_
  simp

theorem length_packBits (w : Nat) (vs : List (Nat × Bool)) : (packBits w vs).length = cdiv (vs.length * w) 8 := by
  rw [← List.length_map (·.1), packBits_bytes, leBytes_length]

theorem take_leBytes {m n : Nat} (h : m ≤ n) (v : Nat) : (leBytes n v).take m = leBytes m v := by
  induction m generalizing n v with
  | zero => rfl
  | succ m ih =>
    obtain ⟨n, rfl⟩ : ∃ k, n = k + 1 := ⟨n - 1, by omega⟩
    rw [leBytes, List.take_succ_cons, ih (by omega), leBytes]

/-- What is read of bytes that hold a number: its low part. -/
theorem readNat_of_leBytes {t : State} {a n m v : Nat} (h : ∀ x, a ≤ x → x < a + n → cellGet t.mem x = (leBytes n v).getD (x - a) 0#8) (hm : m ≤ n) :
    readNat t a m = v % 256 ^ m := by
  have hbytes : readMem t a m = leBytes m v := by
    rw [← take_leBytes hm]
    unfold readMem
    refine List.ext_getElem (by simp [leBytes_length, hm]) fun i hi hi' => ?_
    rw [List.length_map, List.length_range] at hi
    have hbyte := h (a + i) (by omega) (by omega)
    rw [Nat.add_sub_cancel_left, List.getD_eq_getElem?_getD, List.getElem?_eq_getElem (by rw [leBytes_length]; omega)] at hbyte
    rw [List.getElem_map, List.getElem_range, List.getElem_take, hbyte]
    rfl
  rw [readNat, hbytes, leNat_leBytes]

/-- Packed elements that were written are read back. -/
theorem memElem_packed {t : State} {a w k : Nat} {vs : List (Nat × Bool)} (hk : k < vs.length)
    (h : ∀ x, a ≤ x → x < a + cdiv (vs.length * w) 8 → cellGet t.mem x = ((packBits w vs).map (·.1)).getD (x - a) 0#8) :
    memElem t a w k = (vs.getD k (0, false)).1 % 2 ^ w := by
  rw [packBits_bytes] at h
  have hbits : (k + 1) * w ≤ vs.length * w := Nat.mul_le_mul_right w hk
  have hlen : k * w + w ≤ 8 * cdiv ((k + 1) * w) 8 := by
    rw [← Nat.add_one_mul]
    unfold cdiv
    generalize (k + 1) * w = z
    omega
  have hwithin : cdiv ((k + 1) * w) 8 ≤ cdiv (vs.length * w) 8 := Nat.div_le_div_right (by omega)
  unfold memElem
  rw [readNat_of_leBytes h hwithin, ← packNat_div]
  have hpow : (256 : Nat) ^ cdiv ((k + 1) * w) 8 = 2 ^ (k * w) * 2 ^ (8 * cdiv ((k + 1) * w) 8 - k * w) := by
    rw [← Nat.pow_add, show (256 : Nat) = 2 ^ 8 from rfl, ← Nat.pow_mul]
    congr 1
    omega
  rw [hpow, Nat.mod_mul_right_div_self, Nat.mod_mod_of_dvd _ (Nat.pow_dvd_pow 2 (by omega))]

end Sys2Proof.Machine
end

section
/-! `MEPI_ROW_WRITE` and `MEPI_COMPLETE` (R182, R226 to R228): where a drained row goes, and the amax atomic. -/
namespace Sys2Proof.Machine
open Sys2Proof

/-! ### The row that is written -/

/-- The elements of a row that a drain writes, with their poison. -/
def RowOut.elements (o : RowOut) : List (Nat × Bool) :=
  let ps := o.passes.headD { sums := [] }
  (List.range ps.sums.length).map fun n => (ps.sums.getD n 0, ps.poison.contains n)

/-- Where a drained row, and its scales, go in memory (R227). -/
def Entry.epiRowAt (en : Entry) (o : RowOut) : Nat := fld (en.w 1) 47 0 + o.row * fld (en.w 2) 39 0
def Entry.epiScalesAt (en : Entry) (o : RowOut) : Nat := fld (en.w 6) 47 0 + o.row * 16

/-- The bytes of a row's scales, with their poison. -/
def RowOut.scaleBytes (o : RowOut) : List (Byte × Bool) := o.scales.map fun b => (BitVec.ofNat 8 b.1, b.2)

/-- The cluster with a row written back into its slot. -/
def writtenBack (x : Cluster) (en : Entry) (o : RowOut) : Cluster :=
  let p := epiOf (en.w 0)
  let w := addPass x.acc x.accPoison (accKey (p.slots.headD 0) en.per p.cols o.row) 0 { o.passes.headD { sums := [] } with sat := 0 } true
  { x with acc := w.1, accPoison := w.2.1 }

/-- The row goes back into its slot, out as accumulate-writes, or to memory with its scales: the state and the faults. -/
def epiWritten (s : State) (c : Nat) (en : Entry) (o : RowOut) : State × List (Nat × Nat) :=
  let p := epiOf (en.w 0)
  if p.wb then (setClu s c (writtenBack (clu s c) en o), [])
  else if p.ofmt = 0 then (s, [])
  else if p.accw then sendAccw s (en.iss c) en.id (en.epiRowAt o) (p.ofmt == 0xE) o.elements
  else
    let w := arrayWrite s (en.iss c) (en.epiRowAt o) (packBits p.bits o.elements)
    let z := arrayWrite w.1 (en.iss c) (en.epiScalesAt o) o.scaleBytes
    (z.1, w.2 ++ z.2)

/-- The last row that goes back, or out, is followed by the amax atomic. -/
def epiAmax (s : State) (c : Nat) (en : Entry) : State × List (Nat × Nat) :=
  let p := epiOf (en.w 0)
  if en.written + 1 = p.rows ∧ (p.wb ∨ p.accw) then amaxAtomic s c en else (s, [])

/-- The entry after its oldest row is written. -/
def Entry.epiDone (en : Entry) (o : RowOut) (more : List RowOut) (f : Entry) : Entry :=
  let p := epiOf (en.w 0)
  { f with
    written := en.written + 1
    outs := more
    released := (if p.wb then p.slots.flatMap fun sl => rowEnds en sl o.row p.rows else []).foldl addOnce f.released }

/-- A drain whose oldest row may be written. -/
structure WritesDrained (s : State) (c e : Nat) (en : Entry) (o : RowOut) (more : List RowOut) : Prop where
  present : entry s c e = some en
  outs : en.outs = o :: more
  op : en.op = .mepi
  alive : alive s = true
  calm : Safety.calm s

theorem execMepiRowWrite_eq {s : State} {c e : Nat} {en : Entry} {o : RowOut} {more : List RowOut} (h : entry s c e = some en) (houts : en.outs = o :: more) :
    execMepiRowWrite c e s = .next (
      let p := epiOf (en.w 0)
      let busy := p.ofmt ≠ 0 ∧ ((linePieces (en.epiRowAt o) (cdiv (p.ncol * p.bits) 8)).any fun q => waits s q.1)
      if alive s = false ∨ en.op ≠ .mepi ∨ busy then s
      else
        let r := epiWritten s c en o
        let m := epiAmax r.1 c en
        let t := updEntry m.1 c e (en.epiDone o more)
        charge (if en.written + 1 = p.rows ∧ p.wb then endEntry t c en else t) c en (r.2 ++ m.2)) := by
  unfold execMepiRowWrite
  rw [h]
  dsimp only
  rw [houts]
  rfl

/-- What the writing of a drained row leaves of its cluster: the entries and the crews. -/
structure DrainLeaves (s t : State) (c : Nat) : Prop where
  entries : (clu t c).entries = (clu s c).entries
  crews : (clu t c).crews = (clu s c).crews

section
variable {s : State} {c e : Nat} {en : Entry} {o : RowOut} {more : List RowOut} (h : WritesDrained s c e en o more)
include h

theorem WritesDrained.exec_eq : Machine.exec (.mepiRowWrite c e) s = .next (
    let r := epiWritten s c en o
    let m := epiAmax r.1 c en
    let t := updEntry m.1 c e (en.epiDone o more)
    charge (if en.written + 1 = (epiOf (en.w 0)).rows ∧ (epiOf (en.w 0)).wb then endEntry t c en else t) c en (r.2 ++ m.2)) := by
  have hidle : ((linePieces (en.epiRowAt o) (cdiv ((epiOf (en.w 0)).ncol * (epiOf (en.w 0)).bits) 8)).any fun q => waits s q.1) = false :=
    List.any_eq_false.mpr fun q _ => by rw [waits_of_calm h.calm]; exact Bool.false_ne_true
  refine (execMepiRowWrite_eq h.present h.outs).trans ?_
  dsimp only
  rw [hidle, h.alive, h.op, if_neg (by simp)]

/-- The row is off its entry's list, and the entry goes on. -/
theorem WritesDrained.goesOn {u : State} {fs : List (Nat × Nat)} (hu : epiAmax (epiWritten s c en o).1 c en = (u, fs)) (hleaves : DrainLeaves s u c)
    (hmild : (epiWritten s c en o).2 ++ fs = [] ∨ Mild s c en) (hmore : ¬ (en.written + 1 = (epiOf (en.w 0)).rows ∧ (epiOf (en.w 0)).wb = true)) :
    ∃ t, Machine.exec (.mepiRowWrite c e) s = .next t ∧ t.mem = u.mem ∧ (clu t c).acc = (clu u c).acc
      ∧ (entry t c e).map (fun f => (f.written, f.outs)) = some (en.written + 1, more) := by
  have hexec := h.exec_eq
  dsimp only at hexec
  rw [hu, if_neg hmore] at hexec
  have hcluster := clu_updEntry u c e (en.epiDone o more)
  have hcrews : (clu (updEntry u c e (en.epiDone o more)) c).crews = (clu s c).crews := by rw [hcluster, hleaves.crews]
  have honly := charge_onlyCrews (hmild.imp id (mild_congr hcrews).mpr)
  refine ⟨_, hexec, honly.module.mem, by rw [honly.cluster, hcluster], ?_⟩
  rw [honly.entry, entry_updEntry ((entry_congr hleaves.entries e).trans h.present) rfl]
  rfl

/-- The last row that goes back into its slot ends its entry. -/
theorem WritesDrained.ends {u : State} (hu : epiAmax (epiWritten s c en o).1 c en = (u, [])) (hleaves : DrainLeaves s u c)
    (hlast : en.written + 1 = (epiOf (en.w 0)).rows) (hwb : (epiOf (en.w 0)).wb = true) :
    ∃ t, Machine.exec (.mepiRowWrite c e) s = .next t ∧ t.mem = u.mem ∧ (clu t c).acc = (clu u c).acc ∧ Ends s t c e en := by
  have hfaults : (epiWritten s c en o).2 = [] := by unfold epiWritten; rw [if_pos hwb]
  have hexec := h.exec_eq
  dsimp only at hexec
  rw [hu, if_pos ⟨hlast, hwb⟩, hfaults] at hexec
  have hcluster := clu_updEntry u c e (en.epiDone o more)
  refine ⟨_, hexec, (endEntry_onlyClusters _ c en).mem, ?_, ends_endEntry (id_of_entry h.present) (by rw [hcluster, hleaves.crews])⟩
  refine (congrArg Cluster.acc (clu_endEntry ..)).trans ?_
  rw [hcluster]

end

/-! ### A row that goes to memory -/

theorem length_elements (o : RowOut) : o.elements.length = (o.passes.headD { sums := [] }).sums.length := by
  unfold RowOut.elements
  rw [List.length_map, List.length_range]

theorem getD_elements (o : RowOut) {k : Nat} (hk : k < (o.passes.headD { sums := [] }).sums.length) :
    (o.elements.getD k (0, false)).1 = (o.passes.headD { sums := [] }).sums.getD k 0 := by
  unfold RowOut.elements
  rw [getD_map_range, if_pos hk]

/-- A drained row in memory: its elements, packed, and its scales, and no other byte. -/
structure RowStored (s t : State) (en : Entry) (o : RowOut) : Prop where
  elems : ∀ k, k < o.elements.length → memElem t (en.epiRowAt o) (epiOf (en.w 0)).bits k
    = (o.passes.headD { sums := [] }).sums.getD k 0 % 2 ^ (epiOf (en.w 0)).bits
  scales : ∀ k, k < o.scales.length → readNat t (en.epiScalesAt o + k) 1 = (o.scales.getD k (0, false)).1 % 256
  kept : ∀ b, b < en.epiRowAt o ∨ en.epiRowAt o + cdiv (o.elements.length * (epiOf (en.w 0)).bits) 8 ≤ b →
    b < en.epiScalesAt o ∨ en.epiScalesAt o + o.scales.length ≤ b → readMem t b 1 = readMem s b 1

theorem inPieces_one {a n x : Nat} : InPieces [(a, n)] x ↔ a ≤ x ∧ x < a + n := by
  unfold InPieces
  simp

/-- Where the checks pass, a row goes to memory with its scales, and no access faults. -/
theorem epiWritten_stored {s : State} (hcalm : Safety.calm s) {c : Nat} {en : Entry} {o : RowOut} (hwb : (epiOf (en.w 0)).wb = false)
    (haccw : (epiOf (en.w 0)).accw = false) (hofmt : (epiOf (en.w 0)).ofmt ≠ 0)
    (hrow : ArrayOk s (en.iss c) .store (en.epiRowAt o) (cdiv (o.elements.length * (epiOf (en.w 0)).bits) 8))
    (hscales : ArrayOk s (en.iss c) .store (en.epiScalesAt o) o.scales.length)
    (hapart : o.scales = [] ∨ en.epiScalesAt o + o.scales.length ≤ en.epiRowAt o
      ∨ en.epiRowAt o + cdiv (o.elements.length * (epiOf (en.w 0)).bits) 8 ≤ en.epiScalesAt o) :
    (epiWritten s c en o).2 = [] ∧ (epiWritten s c en o).1.clusters = s.clusters ∧ RowStored s (epiWritten s c en o).1 en o := by
  have heq : epiWritten s c en o = (
      let w := arrayWrite s (en.iss c) (en.epiRowAt o) (packBits (epiOf (en.w 0)).bits o.elements)
      let z := arrayWrite w.1 (en.iss c) (en.epiScalesAt o) o.scaleBytes
      (z.1, w.2 ++ z.2)) := by
    unfold epiWritten
    dsimp only
    rw [hwb, if_neg Bool.false_ne_true, if_neg hofmt, haccw, if_neg Bool.false_ne_true]
  have hlen : o.scaleBytes.length = o.scales.length := List.length_map _
  rw [← length_packBits] at hrow
  obtain ⟨hfirst, hw⟩ := arrayWrite_writes hcalm hrow
  have hok : ArrayOk (arrayWrite s (en.iss c) (en.epiRowAt o) (packBits (epiOf (en.w 0)).bits o.elements)).1 (en.iss c) .store (en.epiScalesAt o)
      o.scaleBytes.length := fun p hp => by
    rw [arrayStatus, hw.steps.places.localMemory, hw.steps.places.accessStatus]
    exact hscales p (hlen ▸ hp)
  obtain ⟨hsecond, hz⟩ := arrayWrite_writes (hw.steps.calm hcalm) hok
  rw [heq]
  dsimp only
  generalize arrayWrite s (en.iss c) (en.epiRowAt o) (packBits (epiOf (en.w 0)).bits o.elements) = w at hfirst hw hz hsecond ⊢
  generalize arrayWrite w.1 (en.iss c) (en.epiScalesAt o) o.scaleBytes = z at hz hsecond ⊢
  rw [length_packBits] at hw
  rw [hlen] at hz
  refine ⟨by rw [hfirst, hsecond]; rfl, hz.clusters.trans hw.clusters, fun k hk => ?_, fun k hk => ?_, fun b hb hb' => ?_⟩
  · rw [memElem_packed hk fun x hlo hhi => ?_, getD_elements o (by rw [← length_elements]; exact hk)]
    have hnone : ¬ InPieces [(en.epiScalesAt o, o.scales.length)] x := fun hin => by
      rw [inPieces_one] at hin
      rcases hapart with hnil | hapart
      · rw [hnil, List.length_nil] at hin
        omega
      · omega
    rw [hz.kept x hnone, hw.put x (inPieces_one.mpr ⟨hlo, hhi⟩)]
  · rw [readNat_one, hz.put _ (inPieces_one.mpr ⟨by omega, by omega⟩), Nat.add_sub_cancel_left]
    unfold RowOut.scaleBytes
    simp [hk]
  · rw [readMem_one, readMem_one, hz.kept b fun hin => ?_, hw.kept b fun hin => ?_]
    · rw [inPieces_one] at hin
      omega
    · rw [inPieces_one] at hin
      omega

end Sys2Proof.Machine
end

section
/-! Drained rows that go out or back (R227, R228), and the amax atomic that ends a drain (R226). -/
namespace Sys2Proof.Machine
open Sys2Proof

/-! ### Clusters and atomics -/

theorem clu_of_clusters {s t : State} (h : t.clusters = s.clusters) (c : Nat) : clu t c = clu s c := by
  unfold clu
  rw [h]

theorem memAtomic_clusters (s : State) (a n op : Nat) (os : List (Nat × Nat × Bool)) : (memAtomic s a n op os).1.clusters = s.clusters := by
  have hdrain := (storesOnly_drainLines s a n).clusters
  unfold memAtomic
  generalize drainLines s a n = u at hdrain ⊢
  dsimp only
  split
  · exact (storesOnly_failedWrite u a).clusters.trans hdrain
  · refine (storesOnly_nsTouch _ a n true).clusters.trans ((storesOnly_writeMem _ a _ _).clusters.trans ?_)
    split <;> exact hdrain

theorem amaxAtomic_clusters (s : State) (c : Nat) (en : Entry) : (amaxAtomic s c en).1.clusters = s.clusters := by
  have hatomic := memAtomic_clusters s (fld (en.w 7) 47 0) 4 8 [(en.amax, 0, en.amaxPoison)]
  unfold amaxAtomic
  dsimp only
  generalize memAtomic s (fld (en.w 7) 47 0) 4 8 [(en.amax, 0, en.amaxPoison)] = m at hatomic ⊢
  split
  · split
    · rfl
    · exact hatomic
  · rfl

theorem epiAmax_clusters (s : State) (c : Nat) (en : Entry) : (epiAmax s c en).1.clusters = s.clusters := by
  unfold epiAmax
  dsimp only
  split
  · exact amaxAtomic_clusters ..
  · rfl

theorem drainLeaves_of_clusters {s t : State} {c : Nat} (h : t.clusters = s.clusters) : DrainLeaves s t c :=
  ⟨by rw [clu_of_clusters h], by rw [clu_of_clusters h]⟩

theorem OnlyTowers.clusters {s t : State} (h : OnlyTowers s t) : t.clusters = s.clusters := (congrArg State.clusters h :)

/-! ### Rows that go out, and rows that go back -/

theorem mget_writtenBack (x : Cluster) (en : Entry) (o : RowOut) (k : Nat) :
    let base := accKey ((epiOf (en.w 0)).slots.headD 0) en.per (epiOf (en.w 0)).cols o.row
    mget (writtenBack x en o).acc k 0 = if base ≤ k ∧ k < base + o.elements.length then (o.passes.headD { sums := [] }).sums.getD (k - base) 0
      else mget x.acc k 0 := by
  intro base
  rw [length_elements]
  exact mget_addPass ..

section
variable {s : State} {c e : Nat} {en : Entry} {o : RowOut} {more : List RowOut} (h : WritesDrained s c e en o more)
include h

/-- A row goes to memory. -/
theorem WritesDrained.stored (hwb : (epiOf (en.w 0)).wb = false) (haccw : (epiOf (en.w 0)).accw = false) (hofmt : (epiOf (en.w 0)).ofmt ≠ 0)
    (hrow : ArrayOk s (en.iss c) .store (en.epiRowAt o) (cdiv (o.elements.length * (epiOf (en.w 0)).bits) 8))
    (hscales : ArrayOk s (en.iss c) .store (en.epiScalesAt o) o.scales.length)
    (hapart : o.scales = [] ∨ en.epiScalesAt o + o.scales.length ≤ en.epiRowAt o
      ∨ en.epiRowAt o + cdiv (o.elements.length * (epiOf (en.w 0)).bits) 8 ≤ en.epiScalesAt o) :
    ∃ t, Machine.exec (.mepiRowWrite c e) s = .next t ∧ (entry t c e).map (fun f => (f.written, f.outs)) = some (en.written + 1, more)
      ∧ RowStored s t en o := by
  obtain ⟨hfaults, hclusters, helems, hput, hkept⟩ := epiWritten_stored h.calm hwb haccw hofmt hrow hscales hapart
  have hnone : epiAmax (epiWritten s c en o).1 c en = ((epiWritten s c en o).1, []) := by
    unfold epiAmax
    dsimp only
    rw [hwb, haccw, if_neg (by simp)]
  obtain ⟨t, hexec, hmem, -, hnext⟩ := h.goesOn hnone (drainLeaves_of_clusters hclusters) (.inl (by rw [hfaults]; rfl)) (by rw [hwb]; simp)
  refine ⟨t, hexec, hnext, fun k hk => ?_, fun k hk => ?_, fun b hb hb' => ?_⟩
  · rw [← helems k hk]
    unfold memElem
    rw [readNat_of_mem hmem]
  · rw [readNat_of_mem hmem]
    exact hput k hk
  · rw [readMem_of_mem hmem]
    exact hkept b hb hb'

/-- A row goes out as accumulate-writes. -/
theorem WritesDrained.sent (hwb : (epiOf (en.w 0)).wb = false) (haccw : (epiOf (en.w 0)).accw = true) (hmild : Mild s c en) :
    ∃ t, Machine.exec (.mepiRowWrite c e) s = .next t ∧ (entry t c e).map (fun f => (f.written, f.outs)) = some (en.written + 1, more) := by
  have hclusters : (epiWritten s c en o).1.clusters = s.clusters := by
    unfold epiWritten
    dsimp only
    rw [hwb, if_neg Bool.false_ne_true, haccw, if_pos rfl]
    split
    · rfl
    · exact (sendAccw_onlyTowers ..).clusters
  obtain ⟨t, hexec, -, -, hnext⟩ := h.goesOn (u := (epiAmax (epiWritten s c en o).1 c en).1) rfl
    (drainLeaves_of_clusters ((epiAmax_clusters ..).trans hclusters)) (.inr hmild) (by rw [hwb]; simp)
  exact ⟨t, hexec, hnext⟩

/-- A row goes back into its slot; the last one ends its entry. -/
theorem WritesDrained.back (hwb : (epiOf (en.w 0)).wb = true) (hamax : (epiOf (en.w 0)).amax = false) :
    ∃ t, Machine.exec (.mepiRowWrite c e) s = .next t ∧ t.mem = s.mem ∧ (clu t c).acc = (writtenBack (clu s c) en o).acc
      ∧ (en.written + 1 = (epiOf (en.w 0)).rows → Ends s t c e en)
      ∧ (en.written + 1 ≠ (epiOf (en.w 0)).rows → (entry t c e).map (fun f => (f.written, f.outs)) = some (en.written + 1, more)) := by
  have hwritten : epiWritten s c en o = (setClu s c (writtenBack (clu s c) en o), []) := by
    unfold epiWritten
    rw [if_pos hwb]
  have hnone : epiAmax (epiWritten s c en o).1 c en = (setClu s c (writtenBack (clu s c) en o), []) := by
    rw [hwritten]
    unfold epiAmax amaxAtomic
    rw [hamax, if_neg Bool.false_ne_true, ite_self]
  have hleaves : DrainLeaves s (setClu s c (writtenBack (clu s c) en o)) c := ⟨by rw [clu_setClu_self]; rfl, by rw [clu_setClu_self]; rfl⟩
  by_cases hlast : en.written + 1 = (epiOf (en.w 0)).rows
  · obtain ⟨t, hexec, hmem, hacc, hends⟩ := h.ends hnone hleaves hlast hwb
    rw [clu_setClu_self] at hacc
    exact ⟨t, hexec, hmem, hacc, fun _ => hends, fun hne => absurd hlast hne⟩
  · obtain ⟨t, hexec, hmem, hacc, hnext⟩ := h.goesOn hnone hleaves (.inl (by rw [hwritten]; rfl)) fun hboth => hlast hboth.1
    rw [clu_setClu_self] at hacc
    exact ⟨t, hexec, hmem, hacc, fun hl => absurd hl hlast, fun _ => hnext⟩

end

/-! ### `MEPI_COMPLETE` -/

/-- A drain that has written every row, to memory, and whose amax element may be reached. -/
structure Completes (s : State) (c e : Nat) (en : Entry) : Prop where
  present : entry s c e = some en
  op : en.op = .mepi
  alive : alive s = true
  calm : Safety.calm s
  poison : s.poison = []
  written : (epiOf (en.w 0)).rows ≤ en.written
  stored : (epiOf (en.w 0)).accw = false
  sound : en.amaxPoison = false
  reached : (epiOf (en.w 0)).amax = true → arrayStatus s (en.iss c) (.atom 8 false) (fld (en.w 7) 47 0) 4 = 0

theorem execMepiComplete_eq {s : State} {c e : Nat} {en : Entry} (h : entry s c e = some en) :
    execMepiComplete c e s = .next (
      if alive s = false ∨ en.op ≠ .mepi ∨ en.written < (epiOf (en.w 0)).rows ∨ (epiOf (en.w 0)).accw
          ∨ ((epiOf (en.w 0)).amax ∧ waits s (fld (en.w 7) 47 0)) then s
      else charge (endEntry (amaxAtomic s c en).1 c en) c en (amaxAtomic s c en).2) := by
  unfold execMepiComplete
  rw [h]

/-- The atomic leaves the greater of the element and the drain's largest magnitude (R226), and no other byte. -/
theorem amaxAtomic_max {s : State} {c : Nat} {en : Entry} (hcalm : Safety.calm s) (hpoison : s.poison = []) (hamax : (epiOf (en.w 0)).amax = true)
    (hsound : en.amaxPoison = false) (hok : arrayStatus s (en.iss c) (.atom 8 false) (fld (en.w 7) 47 0) 4 = 0) :
    (amaxAtomic s c en).2 = []
      ∧ (amaxAtomic s c en).1.mem = cellsPut s.mem (fld (en.w 7) 47 0) (leBytes 4 (max (readNat s (fld (en.w 7) 47 0) 4) en.amax)) := by
  obtain ⟨-, hmem, hstatus⟩ := memAtomic_clean (clean_of_calm hcalm hpoison) (fld (en.w 7) 47 0) 4 8 (os := [(en.amax, 0, en.amaxPoison)])
    fun o ho => by rw [List.mem_singleton.mp ho]; exact hsound
  have heq : amaxAtomic s c en = ((memAtomic s (fld (en.w 7) 47 0) 4 8 [(en.amax, 0, en.amaxPoison)]).1,
      if isFault (memAtomic s (fld (en.w 7) 47 0) 4 8 [(en.amax, 0, en.amaxPoison)]).2.1 then
        [(fld (en.w 7) 47 0, (memAtomic s (fld (en.w 7) 47 0) 4 8 [(en.amax, 0, en.amaxPoison)]).2.1)] else []) := by
    unfold amaxAtomic
    rw [if_pos hamax]
    dsimp only
    rw [hok, if_neg (not_not.mpr rfl)]
  rw [heq]
  generalize memAtomic s (fld (en.w 7) 47 0) 4 8 [(en.amax, 0, en.amaxPoison)] = m at hmem hstatus ⊢
  refine ⟨?_, hmem⟩
  dsimp only
  rw [hstatus]
  rfl

theorem Completes.ends {s : State} {c e : Nat} {en : Entry} (h : Completes s c e en) :
    ∃ t, Machine.exec (.mepiComplete c e) s = .next t ∧ Ends s t c e en ∧ ((epiOf (en.w 0)).amax = false → t.mem = s.mem)
      ∧ ((epiOf (en.w 0)).amax = true →
          t.mem = cellsPut s.mem (fld (en.w 7) 47 0) (leBytes 4 (max (readNat s (fld (en.w 7) 47 0) 4) en.amax))) := by
  have hwritten := h.written
  have hfaults : (amaxAtomic s c en).2 = [] := by
    by_cases hamax : (epiOf (en.w 0)).amax = true
    · exact (amaxAtomic_max h.calm h.poison hamax h.sound (h.reached hamax)).1
    · unfold amaxAtomic
      rw [if_neg hamax]
  have hexec : Machine.exec (.mepiComplete c e) s = .next (endEntry (amaxAtomic s c en).1 c en) := by
    refine (execMepiComplete_eq h.present).trans ?_
    rw [h.alive, h.op, h.stored, waits_of_calm h.calm, hfaults, charge_nil, if_neg (by simp [hwritten])]
  refine ⟨_, hexec, ends_endEntry (id_of_entry h.present) (by rw [clu_of_clusters (amaxAtomic_clusters s c en)]), fun hamax => ?_, fun hamax => ?_⟩
  · refine (endEntry_onlyClusters ..).mem.trans ?_
    unfold amaxAtomic
    rw [hamax, if_neg Bool.false_ne_true]
  · exact (endEntry_onlyClusters ..).mem.trans (amaxAtomic_max h.calm h.poison hamax h.sound (h.reached hamax)).2

end Sys2Proof.Machine
end

section
/-! Rows sent as accumulate-writes (R62, R218, R267, R269): one for each line, and what each carries. -/
namespace Sys2Proof.Machine
open Sys2Proof

/-! ### The lines of a row -/

/-- The elements of a row that lie in the line of its columns from 32 i on, with their addresses. -/
def lineElements (a : Nat) (els : List (Nat × Bool)) (l : Nat) : List (Nat × Nat × Bool) :=
  ((List.range els.length).map fun n => (a + 4 * n, els.getD n (0, false))).filter fun x => x.1 / 128 == l

/-- The accumulate-write of a line's elements. -/
def elementsWrite (iss : Issuer) (id l : Nat) (int : Bool) (g : List (Nat × Nat × Bool)) : AccWrite :=
  { iss, entry := id, addr := l * 128, int
    mask := maskOf (g.map fun x => x.1 % 128 / 4)
    data := (List.range 32).map fun i => match g.find? fun x => x.1 % 128 / 4 == i with
      | some x => BitVec.ofNat 32 x.2.1
      | none => 0#32
    poison := g.any fun x => x.2.2 }

/-- What `sendAccw` does with a group of elements of one line. -/
def sendGroup (iss : Issuer) (id l : Nat) (int : Bool) (acc : State × List (Nat × Nat)) (g : List (Nat × Nat × Bool)) : State × List (Nat × Nat) :=
  if g.isEmpty then acc
  else
    let r := accw acc.1 (elementsWrite iss id l int g)
    (r.1, if r.2 = 0 then acc.2 else acc.2 ++ [(l * 128, r.2)])

/-- What `sendAccw` does with a line. -/
def sendLine (iss : Issuer) (id a : Nat) (int : Bool) (els : List (Nat × Bool)) (acc : State × List (Nat × Nat)) (l : Nat) : State × List (Nat × Nat) :=
  let mine := lineElements a els l
  let tag := fun h => mine.any fun x => x.1 / 64 % 2 == h && x.2.2
  let groups := if tag 0 = tag 1 then [mine] else [mine.filter fun x => x.1 / 64 % 2 == 0, mine.filter fun x => x.1 / 64 % 2 == 1]
  groups.foldl (sendGroup iss id l int) acc

theorem sendAccw_eq (s : State) (iss : Issuer) (id a : Nat) (int : Bool) (els : List (Nat × Bool)) :
    sendAccw s iss id a int els
      = ((((List.range els.length).map fun n => (a + 4 * n, els.getD n (0, false))).map fun x => x.1 / 128).foldl addOnce []).foldl
          (sendLine iss id a int els) (s, []) := rfl

/-- The lines of a row that begins at one: one for each 32 columns. -/
theorem lines_of_row {a : Nat} (ha : a % 128 = 0) (n : Nat) :
    ((List.range n).map fun k => (a + 4 * k) / 128).foldl addOnce [] = (List.range (cdiv n 32)).map fun i => a / 128 + i := by
  induction n with
  | zero => rfl
  | succ n ih =>
    rw [List.range_succ, List.map_append, List.foldl_append, ih, List.map_cons, List.map_nil, List.foldl_cons, List.foldl_nil]
    have hline : (a + 4 * n) / 128 = a / 128 + n / 32 := by omega
    rw [hline]
    unfold addOnce
    by_cases hnew : n % 32 = 0
    · have hcdiv : cdiv (n + 1) 32 = cdiv n 32 + 1 ∧ n / 32 = cdiv n 32 := by unfold cdiv; omega
      rw [if_neg (by simp; omega), hcdiv.1, List.range_succ, List.map_append, hcdiv.2]
      rfl
    · have hcdiv : cdiv (n + 1) 32 = cdiv n 32 ∧ n / 32 < cdiv n 32 := by unfold cdiv; omega
      rw [if_pos (by simpa using hcdiv.2), hcdiv.1]

theorem mem_lineElements {a : Nat} (ha : a % 128 = 0) {els : List (Nat × Bool)} {i : Nat} {x : Nat × Nat × Bool} :
    x ∈ lineElements a els (a / 128 + i) ↔ ∃ l, l < 32 ∧ 32 * i + l < els.length ∧ x = (a + 4 * (32 * i + l), els.getD (32 * i + l) (0, false)) := by
  unfold lineElements
  simp only [List.mem_filter, List.mem_map, List.mem_range, beq_iff_eq]
  constructor
  · rintro ⟨⟨n, hn, rfl⟩, hline⟩
    dsimp only at hline
    refine ⟨n % 32, by omega, ?_, ?_⟩ <;> rw [show 32 * i + n % 32 = n by omega]
    exact hn
  · rintro ⟨l, hl, hn, rfl⟩
    exact ⟨⟨32 * i + l, hn, rfl⟩, by dsimp only; omega⟩

/-! ### A row without poison -/

/-- What the accumulate-write of line `i` of a row carries: its columns, and no others. -/
structure CarriesLine (id a : Nat) (int : Bool) (els : List (Nat × Bool)) (i : Nat) (w : AccWrite) : Prop where
  addr : w.addr = a + 128 * i
  int : w.int = int
  poison : w.poison = false
  entry : w.entry = id
  mask : ∀ l, l < 32 → w.mask.getLsbD l = decide (32 * i + l < els.length)
  data : ∀ l, l < 32 → 32 * i + l < els.length → w.data.getD l 0#32 = BitVec.ofNat 32 (els.getD (32 * i + l) (0, false)).1

section
variable {a : Nat} (ha : a % 128 = 0) {els : List (Nat × Bool)} (hclean : ∀ n, (els.getD n (0, false)).2 = false)
include ha hclean

theorem clean_of_mem_lineElements {i : Nat} {x : Nat × Nat × Bool} (hx : x ∈ lineElements a els (a / 128 + i)) : x.2.2 = false := by
  obtain ⟨l, -, -, rfl⟩ := (mem_lineElements ha).mp hx
  exact hclean _

theorem carriesLine (iss : Issuer) (id : Nat) (int : Bool) (i : Nat) :
    CarriesLine id a int els i (elementsWrite iss id (a / 128 + i) int (lineElements a els (a / 128 + i))) := by
  refine ⟨?_, rfl, ?_, rfl, fun l hl => ?_, fun l hl hn => ?_⟩
  · unfold elementsWrite
    dsimp only
    omega
  · exact List.any_eq_false.mpr fun x hx => by rw [clean_of_mem_lineElements ha hclean hx]; exact Bool.false_ne_true
  · refine (getLsbD_maskOf _ hl).trans ?_
    refine decide_eq_decide.mpr ⟨fun hmem => ?_, fun hn => ?_⟩
    · obtain ⟨x, hx, hlane⟩ := List.mem_map.mp hmem
      obtain ⟨k, hk, hn, rfl⟩ := (mem_lineElements ha).mp hx
      dsimp only at hlane
      omega
    · exact List.mem_map.mpr ⟨_, (mem_lineElements ha).mpr ⟨l, hl, hn, rfl⟩, by dsimp only; omega⟩
  · have hfind : ∃ x, (lineElements a els (a / 128 + i)).find? (fun x => x.1 % 128 / 4 == l) = some x := by
      rw [← Option.isSome_iff_exists, List.find?_isSome]
      exact ⟨_, (mem_lineElements ha).mpr ⟨l, hl, hn, rfl⟩, by dsimp only; rw [beq_iff_eq]; omega⟩
    obtain ⟨x, hx⟩ := hfind
    obtain ⟨k, hk, -, rfl⟩ := (mem_lineElements ha).mp (List.mem_of_find?_eq_some hx)
    have hlane := List.find?_some hx
    rw [beq_iff_eq] at hlane
    dsimp only at hlane
    obtain rfl : k = l := by omega
    unfold elementsWrite
    dsimp only
    rw [getD_map_range, if_pos hl, hx]

theorem sendLine_clean (iss : Issuer) (id : Nat) (int : Bool) (acc : State × List (Nat × Nat)) {i : Nat} (hi : i < cdiv els.length 32) :
    sendLine iss id a int els acc (a / 128 + i)
      = (let r := accw acc.1 (elementsWrite iss id (a / 128 + i) int (lineElements a els (a / 128 + i)))
        (r.1, if r.2 = 0 then acc.2 else acc.2 ++ [((a / 128 + i) * 128, r.2)])) := by
  have htag : ∀ h, ((lineElements a els (a / 128 + i)).any fun x => x.1 / 64 % 2 == h && x.2.2) = false := fun h =>
    List.any_eq_false.mpr fun x hx => by rw [clean_of_mem_lineElements ha hclean hx, Bool.and_false]; exact Bool.false_ne_true
  have hsome : (lineElements a els (a / 128 + i)).isEmpty = false := by
    rw [List.isEmpty_eq_false_iff]
    refine List.ne_nil_of_mem ((mem_lineElements ha).mpr ⟨0, by omega, ?_, rfl⟩)
    unfold cdiv at hi
    omega
  unfold sendLine
  dsimp only
  rw [if_pos ((htag 0).trans (htag 1).symm), List.foldl_cons, List.foldl_nil]
  unfold sendGroup
  rw [hsome, if_neg Bool.false_ne_true]

/-- Accumulate-writes that pass their checks join the adder queue of their tower, line after line. -/
theorem foldl_sendLine_clean {s : State} {iss : Issuer} {tw : Nat} (id : Nat) (int : Bool) {m : Nat} (hm : m ≤ cdiv els.length 32)
    (hok : ∀ i, i < m → accwStatus s iss (a + 128 * i) = 0 ∧ home s (a + 128 * i) = .scratch tw) :
    let r := ((List.range m).map fun i => a / 128 + i).foldl (sendLine iss id a int els) (s, [])
    r.2 = [] ∧ SamePlaces s r.1 ∧ (tow r.1 tw).adder = (tow s tw).adder
      ++ (List.range m).map fun i => elementsWrite iss id (a / 128 + i) int (lineElements a els (a / 128 + i)) := by
  induction m with
  | zero => exact ⟨rfl, .refl s, (List.append_nil _).symm⟩
  | succ m ih =>
    obtain ⟨hfaults, hplaces, hadder⟩ := ih (Nat.le_of_succ_le hm) fun i hi => hok i (Nat.lt_succ_of_lt hi)
    dsimp only
    rw [List.range_succ, List.map_append, List.foldl_append, List.map_cons, List.map_nil, List.foldl_cons, List.foldl_nil, sendLine_clean ha hclean iss id int _ hm]
    generalize ((List.range m).map fun i => a / 128 + i).foldl (sendLine iss id a int els) (s, []) = r at hfaults hplaces hadder ⊢
    have haddr : (elementsWrite iss id (a / 128 + m) int (lineElements a els (a / 128 + m))).addr = a + 128 * m := (carriesLine ha hclean iss id int m).addr
    obtain ⟨hstatus, hhome⟩ := hok m (Nat.lt_succ_self m)
    rw [accw_accepted (tw := tw) (by rw [haddr, hplaces.accwStatus]; exact hstatus) (by rw [haddr, hplaces.home]; exact hhome)]
    refine ⟨hfaults, ⟨hplaces.stackMap, hplaces.packages, hplaces.stackUnits, hplaces.active, fun k => ?_⟩, ?_⟩
    · dsimp only
      rw [tow_setTow]
      split
      next heq => exact heq ▸ hplaces.core tw
      · exact hplaces.core k
    · dsimp only
      rw [tow_setTow_self, List.map_append, ← List.append_assoc, ← hadder]
      rfl

/-- A row without poison goes out whole, one accumulate-write for each 32 columns. -/
theorem sendAccw_clean {s : State} {iss : Issuer} {tw : Nat} (id : Nat) (int : Bool)
    (hok : ∀ i, i < cdiv els.length 32 → accwStatus s iss (a + 128 * i) = 0 ∧ home s (a + 128 * i) = .scratch tw) :
    (sendAccw s iss id a int els).2 = [] ∧ ∃ ws : List AccWrite, (tow (sendAccw s iss id a int els).1 tw).adder = (tow s tw).adder ++ ws
      ∧ ws.length = cdiv els.length 32 ∧ ∀ i w, ws[i]? = some w → CarriesLine id a int els i w := by
  obtain ⟨hfaults, -, hadder⟩ := foldl_sendLine_clean ha hclean id int le_rfl hok
  have hlines : (((List.range els.length).map fun n => (a + 4 * n, els.getD n (0, false))).map fun x => x.1 / 128).foldl addOnce []
      = (List.range (cdiv els.length 32)).map fun i => a / 128 + i := by
    rw [List.map_map]
    exact lines_of_row ha els.length
  rw [sendAccw_eq, hlines]
  refine ⟨hfaults, _, hadder, by rw [List.length_map, List.length_range], fun i w hw => ?_⟩
  rw [List.getElem?_map] at hw
  obtain ⟨j, hj, rfl⟩ := Option.map_eq_some_iff.mp hw
  obtain ⟨hi, rfl⟩ := List.getElem?_eq_some_iff.mp hj
  rw [List.getElem_range]
  exact carriesLine ha hclean iss id int _

end

/-! ### `MSPILL_ROW` (R267, R269) -/

/-- The row that a spill sends next: the tile it lies in, its own number there, and its first key. -/
def Entry.spillTile (en : Entry) : Nat := fld (en.w 0) 63 60 + en.written / (fld (en.w 4) 8 0 + 1)
def Entry.spillRow (en : Entry) : Nat := en.written % (fld (en.w 4) 8 0 + 1)
def Entry.spillKey (en : Entry) : Nat := en.spillTile * 65536 + en.spillRow * (if bit (en.w 0) 53 then 256 else 512)
def Entry.spillCols (en : Entry) : Nat := fld (en.w 4) 40 32 + 1

/-- Where that row goes. -/
def Entry.spillAt (en : Entry) : Nat :=
  fld (en.w 1) 47 0 + en.written / (fld (en.w 4) 8 0 + 1) * fld (en.w 3) 39 0 + en.spillRow * fld (en.w 2) 39 0

/-- The row's elements, with their poison. -/
def spillElements (x : Cluster) (en : Entry) : List (Nat × Bool) :=
  (List.range en.spillCols).map fun k => (mget x.wgb (en.spillKey + k) 0, x.wgbPoison.contains (en.spillKey + k))

theorem length_spillElements (x : Cluster) (en : Entry) : (spillElements x en).length = en.spillCols := by
  unfold spillElements
  rw [List.length_map, List.length_range]

theorem getD_spillElements (x : Cluster) {en : Entry} {k : Nat} (hk : k < en.spillCols) :
    ((spillElements x en).getD k (0, false)).1 = mget x.wgb (en.spillKey + k) 0 := by
  unfold spillElements
  rw [getD_map_range, if_pos hk]

/-- The cluster after a row is sent: counted in an assay set, and cleared, where the spill asks for it. -/
def spillLeft (y : Cluster) (en : Entry) (els : List (Nat × Bool)) : Cluster :=
  let nums := els.map fun v => f32.decode v.1
  let y := if bit (en.w 0) 52 then
      y.count (fld (en.w 0) 51 46) en.spillCols (nums.filter (·.isZero)).length 0 (nums.filter fun v => !v.isFin).length
    else y
  let gone := fun (k : Nat) => decide (en.spillKey ≤ k) && decide (k < en.spillKey + if bit (en.w 0) 53 then 256 else 512)
  if fld (en.w 0) 55 54 = 1 then { y with wgb := y.wgb.filter (fun v => !gone v.1), wgbPoison := y.wgbPoison.filter fun k => !gone k } else y

/-- The entry after a row is sent. -/
def Entry.spilled (en : Entry) (f : Entry) : Entry :=
  { f with
    started := true
    written := en.written + 1
    released := if en.spillRow + 1 = fld (en.w 4) 8 0 + 1 then f.released ++ [32 + en.spillTile] else f.released }

/-- A spill whose next row may go out. -/
structure SpillsRow (s : State) (c e : Nat) (en : Entry) : Prop where
  present : entry s c e = some en
  op : en.op = .mspill
  alive : alive s = true
  turn : en.started = false → mayStart (clu s c) en = true
  mode : fld (en.w 0) 55 54 ≠ 2
  more : en.written < spillRows en
  free : blocked (clu s c) en (32 + en.spillTile) = false

theorem SpillsRow.exec_eq {s : State} {c e : Nat} {en : Entry} (h : SpillsRow s c e en) : Machine.exec (.mspillRow c e []) s = .next (
    let els := spillElements (clu s c) en
    let a := sendAccw s (en.iss c) en.id en.spillAt false els
    charge (updEntry (setClu a.1 c (spillLeft (clu a.1 c) en els)) c e en.spilled) c en a.2) := by
  have hturn : ¬ (en.started = false ∧ mayStart (clu s c) en = false) := fun hw => by rw [h.turn hw.1] at hw; exact absurd hw.2 (by decide)
  have hmore := h.more
  have hfree := h.free
  unfold Entry.spillTile at hfree
  change execMspillRow c e [] s = _
  unfold execMspillRow
  rw [accErrs_nil]
  dsimp only
  rw [h.present]
  dsimp only
  rw [h.alive, h.op, if_neg (by simpa using hturn), if_neg h.mode, if_neg h.mode, hfree, if_neg (by simpa using hmore)]
  rfl

theorem spillLeft_eq (y : Cluster) (en : Entry) (els : List (Nat × Bool)) :
    spillLeft y en els = { y with assay := (spillLeft y en els).assay, wgb := (spillLeft y en els).wgb, wgbPoison := (spillLeft y en els).wgbPoison } := by
  unfold spillLeft
  dsimp only
  split <;> split <;> rfl

/-- A row of sound elements, all of whose lines may be reached, goes out. -/
theorem SpillsRow.spills {s : State} {c e : Nat} {en : Entry} (h : SpillsRow s c e en) {tw : Nat} (halign : en.spillAt % 128 = 0)
    (hsound : ∀ k, k ∉ (clu s c).wgbPoison)
    (hok : ∀ i, i < cdiv en.spillCols 32 → accwStatus s (en.iss c) (en.spillAt + 128 * i) = 0 ∧ home s (en.spillAt + 128 * i) = .scratch tw) :
    ∃ t, Machine.exec (.mspillRow c e []) s = .next t ∧ (entry t c e).map (·.written) = some (en.written + 1) ∧ t.mem = s.mem
      ∧ ∃ ws : List AccWrite, (tow t tw).adder = (tow s tw).adder ++ ws ∧ ws.length = cdiv en.spillCols 32
        ∧ ∀ i w, ws[i]? = some w → CarriesLine en.id en.spillAt false (spillElements (clu s c) en) i w := by
  have hlen := length_spillElements (clu s c) en
  have hclean : ∀ n, ((spillElements (clu s c) en).getD n (0, false)).2 = false := fun n => by
    unfold spillElements
    rw [getD_map_range]
    split
    · simpa using hsound _
    · rfl
  rw [← hlen] at hok
  obtain ⟨hfaults, ws, hadder, hcount, hcarries⟩ := sendAccw_clean halign hclean (tw := tw) en.id false hok
  rw [hlen] at hcount
  have honly := sendAccw_onlyTowers s (en.iss c) en.id en.spillAt false (spillElements (clu s c) en)
  have hexec := h.exec_eq
  dsimp only at hexec
  rw [hfaults, charge_nil] at hexec
  generalize sendAccw s (en.iss c) en.id en.spillAt false (spillElements (clu s c) en) = a at honly hadder hexec
  have hentry : entry (setClu a.1 c (spillLeft (clu a.1 c) en (spillElements (clu s c) en))) c e = some en :=
    (entry_congr (by rw [clu_setClu_self, spillLeft_eq, honly.clu]) e).trans h.present
  refine ⟨_, hexec, ?_, honly.mem, ws, hadder, hcount, hcarries⟩
  rw [entry_updEntry hentry rfl]
  rfl

end Sys2Proof.Machine
end

section
/-! Words of the accumulator store and of the wide buffer with two wrong bits (R213, R262). -/
namespace Sys2Proof.Machine
open Sys2Proof

/-- Elements in the word of the store, or of the wide buffer, that holds element `a`. -/
def wordSize (x : Cluster) (wide : Bool) (a : Nat) : Nat := if !wide && x.narrow.contains (a / 32768) then 4 else 2

theorem wordSize_store (x : Cluster) (a : Nat) : wordSize x false a = if a / 32768 ∈ x.narrow then 4 else 2 := by
  unfold wordSize
  simp

/-- The keys of that word's elements. -/
def wordKeys (x : Cluster) (wide : Bool) (a : Nat) : List Nat := (List.range (wordSize x wide a)).map (a / wordSize x wide a * wordSize x wide a + ·)

/-- The cluster with a word's elements poisoned. -/
def wordPoisoned (x : Cluster) (wide : Bool) (a : Nat) : Cluster :=
  if wide then { x with wgbPoison := (wordKeys x wide a).foldl addOnce x.wgbPoison } else { x with accPoison := (wordKeys x wide a).foldl addOnce x.accPoison }

theorem accErrs_two {s : State} (h : alive s = true) (c a : Nat) (wide : Bool) :
    accErrs s c wide [(a, 2)] = poisonError (setClu s c (wordPoisoned (clu s c) wide a)) (68 + c) 0 := by
  unfold accErrs
  rw [if_pos h]
  rfl

theorem mem_wordKeys {x : Cluster} {wide : Bool} {a i : Nat} (h : i < wordSize x wide a) : a / wordSize x wide a * wordSize x wide a + i ∈ wordKeys x wide a :=
  List.mem_map.mpr ⟨i, List.mem_range.mpr h, rfl⟩

/-- Two wrong bits poison the word's elements and raise 0x1B4; memory and the elements' values are as they were. -/
theorem accErrs_two_spec {s : State} (h : alive s = true) (c a : Nat) (wide : Bool) :
    let u := accErrs s c wide [(a, 2)]
    u.mem = s.mem ∧ (clu u c).acc = (clu s c).acc ∧ (clu u c).wgb = (clu s c).wgb ∧ 0x1B4 ∈ u.irqs
      ∧ ∀ i, i < wordSize (clu s c) wide a →
          a / wordSize (clu s c) wide a * wordSize (clu s c) wide a + i ∈ if wide then (clu u c).wgbPoison else (clu u c).accPoison := by
  obtain ⟨p, r, w, heq⟩ := poisonError_eq (setClu s c (wordPoisoned (clu s c) wide a)) (68 + c) 0
  have hclu : ∀ irqs, clu { setClu s c (wordPoisoned (clu s c) wide a) with pit := p, irqs := irqs, msis := r, sessions := w } c
      = wordPoisoned (clu s c) wide a := fun _ => clu_setClu_self s c _
  dsimp only
  rw [accErrs_two h, heq, hclu]
  refine ⟨rfl, ?_, ?_, List.mem_append_right _ List.mem_cons_self, fun i hi => ?_⟩
  · unfold wordPoisoned
    split <;> rfl
  · unfold wordPoisoned
    split <;> rfl
  · have hkey := mem_wordKeys hi
    unfold wordPoisoned
    cases wide
    · exact (mem_foldl_addOnce _ _).mpr (.inr hkey)
    · exact (mem_foldl_addOnce _ _).mpr (.inr hkey)

theorem execMepiRowRead_errs (c e : Nat) (errs : List (Nat × Nat)) (s : State) :
    execMepiRowRead c e errs s = execMepiRowRead c e [] (accErrs s c false errs) := by
  unfold execMepiRowRead
  rw [accErrs_nil]

theorem execMspillRow_errs (c e : Nat) (errs : List (Nat × Nat)) (s : State) : execMspillRow c e errs s = execMspillRow c e [] (accErrs s c true errs) := by
  unfold execMspillRow
  rw [accErrs_nil]

theorem execOutputRowWrite_errs {s : State} {c e : Nat} {en : Entry} (h : entry s c e = some en) (errs : List (Nat × Nat)) :
    execOutputRowWrite c e errs s = execOutputRowWrite c e [] (accErrs s c en.wide errs) := by
  unfold execOutputRowWrite
  rw [accErrs_nil, h]
  rfl

end Sys2Proof.Machine
end

section
/-! The matrix array's clears, drains, spills and assay sets (O26), clause by clause. -/
namespace Sys2Proof.Machine
open Sys2Proof

/-- A drained row that goes to memory, its lengths those of the row's sums. -/
theorem WritesDrained.storedSums {s : State} {c e : Nat} {en : Entry} {o : RowOut} {more : List RowOut} (h : WritesDrained s c e en o more)
    (hwb : (epiOf (en.w 0)).wb = false) (haccw : (epiOf (en.w 0)).accw = false) (hofmt : (epiOf (en.w 0)).ofmt ≠ 0) :
    let n := (o.passes.headD { sums := [] }).sums.length
    let size := cdiv (n * (epiOf (en.w 0)).bits) 8
    (∀ q ∈ linePieces (en.epiRowAt o) size ++ linePieces (en.epiScalesAt o) o.scales.length, arrayStatus s (en.iss c) .store q.1 q.2 = 0) →
    o.scales = [] ∨ en.epiScalesAt o + o.scales.length ≤ en.epiRowAt o ∨ en.epiRowAt o + size ≤ en.epiScalesAt o →
    ∃ t, Machine.exec (.mepiRowWrite c e) s = .next t ∧ (entry t c e).map (fun f => (f.written, f.outs)) = some (en.written + 1, more)
      ∧ (∀ k, k < n → memElem t (en.epiRowAt o) (epiOf (en.w 0)).bits k
          = (o.passes.headD { sums := [] }).sums.getD k 0 % 2 ^ (epiOf (en.w 0)).bits)
      ∧ (∀ k, k < o.scales.length → readNat t (en.epiScalesAt o + k) 1 = (o.scales.getD k (0, false)).1 % 256)
      ∧ ∀ b, b < en.epiRowAt o ∨ en.epiRowAt o + size ≤ b → b < en.epiScalesAt o ∨ en.epiScalesAt o + o.scales.length ≤ b →
          readMem t b 1 = readMem s b 1 := by
  dsimp only
  rw [← length_elements]
  intro hok hapart
  obtain ⟨t, hexec, hnext, helems, hscales, hkept⟩ := h.stored hwb haccw hofmt (fun q hq => hok q (List.mem_append_left _ hq))
    (fun q hq => hok q (List.mem_append_right _ hq)) hapart
  exact ⟨t, hexec, hnext, helems, hscales, hkept⟩

/-- Settles O26: each command's one branch under the clause's conditions, its stores followed piece by piece into memory, and its
accumulate-writes line by line into the adder queue. -/
theorem drainsSpillsAndAssays : Obligations.DrainsSpillsAndAssays := by
  unfold Obligations.DrainsSpillsAndAssays
  refine ⟨?zero, ?read, ?values, ?write, ?complete, ?spill, ?ack, ?assay, ?wrongBits⟩
  case zero =>
    intro s c e en hpresent hop halive hturn slot hfree
    obtain ⟨t, hexec, honly, hacc, hnarrow, hnext, hlast⟩ := Zeroes.clears ⟨hpresent, hop, halive, hturn, hfree⟩
    exact ⟨t, hexec, honly, hacc, hnarrow, fun h => by rw [hnext h]; rfl, hlast⟩
  case read =>
    intro s c e en hpresent hop halive hcalm p hmore hturn hfree hquiet
    obtain ⟨t, hexec, hmem, -, -, hrow⟩ := ReadsRow.reads ⟨hpresent, hop, halive, hcalm, hmore, hturn, hfree⟩ (hquiet.imp fetchedOperand_faults id)
    exact ⟨t, hexec, hmem, _, hrow, rfl⟩
  case values =>
    intro s c e en hpresent hop halive hcalm p j g hmore hturn hfree hdrain heop haint hwb hofmt hclr hnarrow v out all
    have hplain : PlainDrain en := ⟨hdrain, heop, haint, hwb, hofmt, hclr, hnarrow⟩
    obtain ⟨t, hexec, hmem, hacc, hassay, hrow⟩ := ReadsRow.reads ⟨hpresent, hop, halive, hcalm, hmore, hturn, hfree⟩ (.inl (fetchedOperand_faults heop))
    rw [hplain.epiCleared, epiCounted_eq] at hacc
    rw [hplain.epiCounted] at hassay
    have hg : fld (en.w 0) 63 59 = g := congrArg (· % 32) (Nat.shiftRight_eq_div_pow ..)
    have hv : plainValue (clu s c) en = v := by
      funext n
      unfold plainValue
      rw [hg]
    have hout : plainOut (clu s c) en = out := by
      funext n
      unfold plainOut
      rw [hv]
    have hsums := hplain.sums (clu s c) (fetchedOperand s c en).v
    rw [hv, hout] at hassay
    rw [hout] at hsums
    exact ⟨t, hexec, hmem, hacc, hassay, _, hrow, rfl, hsums⟩
  case write =>
    intro s c e en o more hpresent houts hop halive hcalm p ps dst n size sc
    have hwrites : WritesDrained s c e en o more := ⟨hpresent, houts, hop, halive, hcalm⟩
    refine ⟨hwrites.storedSums, hwrites.sent, fun hwb _ hamax => ?_⟩
    obtain ⟨t, hexec, hmem, hacc, hlast, hnext⟩ := hwrites.back hwb hamax
    refine ⟨t, hexec, hmem, fun k => ?_, hlast, hnext⟩
    rw [hacc, mget_writtenBack, length_elements]
  case complete =>
    intro s c e en hpresent hop halive hcalm hpoison p a hwritten haccw hsound hreached
    obtain ⟨t, hexec, hends, hsame, hmax⟩ := Completes.ends ⟨hpresent, hop, halive, hcalm, hpoison, hwritten, haccw, hsound, hreached⟩
    refine ⟨t, hexec, hends, hsame, fun hamax => ⟨?_, fun b hb => ?_⟩⟩
    · rw [readNat_of_leBytes (n := 4) (v := max (readNat s a 4) en.amax) (fun x hlo hhi => ?_) le_rfl]
      · rfl
      · rw [hmax hamax, cellGet_cellsPut (wf_of_calm hcalm), leBytes_length, if_pos ⟨hlo, hhi⟩]
    · rw [readMem_one, readMem_one, hmax hamax, cellGet_cellsPut (wf_of_calm hcalm), leBytes_length, if_neg (by omega)]
  case spill =>
    intro s c e en hpresent hop halive hturn w0 rows r tile key n a
    refine ⟨fun tw hmode hmore hfree halign hsound hok => ?_, fun hmode hfree => ?_⟩
    · obtain ⟨t, hexec, hnext, hmem, ws, hadder, hlen, hcarries⟩ :=
        SpillsRow.spills ⟨hpresent, hop, halive, hturn, hmode, hmore, hfree⟩ halign hsound hok
      refine ⟨t, hexec, hnext, hmem, ws, hadder, hlen, fun i w hw => ?_⟩
      obtain ⟨haddr, hint, hpoison, hentry, hmask, hdata⟩ := hcarries i w hw
      rw [length_spillElements] at hmask hdata
      refine ⟨haddr, hint, hpoison, hentry, fun l hl => ⟨hmask l hl, fun hn => ?_⟩⟩
      rw [hdata l hl hn, getD_spillElements _ hn, ← Nat.add_assoc]
      rfl
    · rw [Nat.add_assoc] at hfree
      obtain ⟨t, hexec, honly, hwgb, hnext, hlast⟩ := ClearsTile.clears ⟨hpresent, hop, halive, hturn, hmode, hfree⟩
      exact ⟨t, hexec, honly, hwgb, fun h => by rw [hnext h]; rfl, hlast⟩
  case ack =>
    intro s c e en hpresent halive hdone
    refine accwAck_ends hpresent halive (acked_of ?_)
    exact hdone
  case assay =>
    intro s w c haccepted
    obtain ⟨t, hexec, hclu⟩ := asyClear_clears (c := c) haccepted
    refine ⟨t, hexec, fun d hd k => ?_, fun d hd => ?_⟩
    · rw [hclu, if_pos (mem_asyClusters.mpr hd), mget_asyClear]
    · rw [hclu, if_neg (not_mem_asyClusters.mpr hd)]
  case wrongBits =>
    intro s c e a halive m
    obtain ⟨hmem, hacc, -, hirq, hpoison⟩ := accErrs_two_spec halive c a false
    rw [wordSize_store] at hpoison
    refine ⟨⟨_, execMepiRowRead_errs .., hmem, hacc, hpoison, hirq⟩, fun en hpresent hnarrow => ⟨_, ?_, hmem, hacc, hpoison, hirq⟩, ?_⟩
    · exact (execOutputRowWrite_errs hpresent _).trans (by rw [hnarrow]; rfl)
    · obtain ⟨hmem, -, hwgb, hirq, hpoison⟩ := accErrs_two_spec halive c a true
      exact ⟨_, execMspillRow_errs .., hmem, hwgb, hpoison, hirq⟩

end Sys2Proof.Machine
end
